-- ==== Sys2Proof/Word.lean ====
section
/-!
DEFINITION. The word types of the module and their plainest arithmetic (bit fields as R6 writes them).
-/

namespace Sys2Proof

abbrev Byte := BitVec 8
abbrev W16 := BitVec 16
abbrev W32 := BitVec 32
abbrev W64 := BitVec 64
/-- A 96-bit instruction payload (R76). -/
abbrev Payload := BitVec 96
/-- A 128-bit instruction word (R72). -/
abbrev IWord := BitVec 128

/-- Field [hi:lo] of a number, bit 0 the least significant (R6). -/
def field (hi lo w : Nat) : Nat := (w >>> lo) % 2 ^ (hi + 1 - lo)

/-- Bit [n] of a number (R6). -/
def bitN (n w : Nat) : Bool := w.testBit n

/-- A flag as a number. -/
def b2n (b : Bool) : Nat := if b then 1 else 0

/-- `ceil(a / b)` of natural numbers. -/
def ceilDiv (a b : Nat) : Nat := (a + b - 1) / b

/-- Little-endian value of a list of bytes (R7). -/
def leVal : List Byte → Nat
  | [] => 0
  | b :: bs => b.toNat + 256 * leVal bs

/-- The `n` little-endian bytes of a number (R7). -/
def leBytes : Nat → Nat → List Byte
  | 0, _ => []
  | n + 1, v => BitVec.ofNat 8 v :: leBytes n (v / 256)

/-- Two's-complement reading of the low `n` bits. -/
def signed (n v : Nat) : Int :=
  let r := v % 2 ^ n
  if r < 2 ^ (n - 1) then (r : Int) else (r : Int) - (2 ^ n : Nat)

/-- The low `n` bits of an integer. -/
def toBits (n : Nat) (v : Int) : Nat := (v % ((2 ^ n : Nat) : Int)).toNat

/-- Saturating 32-bit counter (the RC counters of the register tables). -/
def satAdd32 (c : W32) (n : Nat) : W32 :=
  if c.toNat + n < 2 ^ 32 then BitVec.ofNat 32 (c.toNat + n) else BitVec.allOnes 32

end Sys2Proof
end

