-- ==== Sys2Proof/Machine/Flags.lean ====
section
/-!
DEFINITION. The sticky numeric flags of R60 and the rule that commits them (R61).
-/

namespace Sys2Proof

/-- A flag word, in the bit order of CP_NFLAGS (R60, R62). -/
abbrev NFlags := BitVec 7

/-- R60 bit [0]. -/
def fInvalid : NFlags := 0x01#7
/-- R60 bit [1]. -/
def fOverflow : NFlags := 0x02#7
/-- R60 bit [2]. -/
def fUnderflow : NFlags := 0x04#7
/-- R60 bit [3]. -/
def fInexact : NFlags := 0x08#7
/-- R60 bit [4]. -/
def fSaturated : NFlags := 0x10#7
/-- R60 bit [5]. -/
def fNan : NFlags := 0x20#7
/-- R60 bit [6]. -/
def fDenormal : NFlags := 0x40#7

/-- A flag when a condition holds. -/
def NFlags.when (c : Bool) (f : NFlags) : NFlags := if c then f else 0#7

/-- The flags that stay pending for an output element: overflow, underflow, inexact (R61). -/
def NFlags.pendingPart (f : NFlags) : NFlags := f &&& 0x0E#7

/-- The flags that are raised at once: invalid, saturated, nan_seen, denormal_input (R61). -/
def NFlags.atOncePart (f : NFlags) : NFlags := f &&& 0x71#7

/-- The three pending bits as a pending byte of a partial record: [0] overflow, [1] underflow, [2] inexact (R122). -/
def NFlags.toPendingByte (f : NFlags) : Nat := field 3 1 f.toNat

/-- The pending flags a pending byte holds (R122). -/
def NFlags.ofPendingByte (b : Nat) : NFlags := BitVec.ofNat 7 (2 * (b % 8))

/-- The commit rule of R61: pending flags and those of the conversion enter the flag word only if the converted value
is not a NaN; the others are raised whatever the final value. -/
def NFlags.commit (pending conv : NFlags) (finalNan : Bool) : NFlags :=
  NFlags.atOncePart conv |||
    (if finalNan then 0#7 else NFlags.pendingPart pending ||| NFlags.pendingPart conv)

/-- A clearing write or instruction: the flag bits set in `mask` are cleared (R18, R78 CLEAR_FLAGS). -/
def NFlags.clear (f mask : NFlags) : NFlags := f &&& ~~~mask

end Sys2Proof
end

