-- ==== Sys2Proof/Machine/Float.lean ====
section
/-!
DEFINITION. The floating-point formats and the arithmetic of chapter 02: exact values, one rounding, the special
cases of R52, R53, R54, R56 to R59 and R156.
-/

namespace Sys2Proof

/-- The floating-point formats of R41. -/
inductive FFmt where
  | fp32 | bf16 | fp16 | e4m3 | e5m2 | e2m1
deriving DecidableEq, Repr

/-- Exponent bits (R42). -/
def FFmt.expBits : FFmt → Nat
  | .fp32 => 8 | .bf16 => 8 | .fp16 => 5 | .e4m3 => 4 | .e5m2 => 5 | .e2m1 => 2

/-- Mantissa bits (R42). -/
def FFmt.manBits : FFmt → Nat
  | .fp32 => 23 | .bf16 => 7 | .fp16 => 10 | .e4m3 => 3 | .e5m2 => 2 | .e2m1 => 1

/-- Exponent bias (R42). -/
def FFmt.bias : FFmt → Nat
  | .fp32 => 127 | .bf16 => 127 | .fp16 => 15 | .e4m3 => 7 | .e5m2 => 15 | .e2m1 => 1

/-- Total bits (R42). -/
def FFmt.bits (F : FFmt) : Nat := 1 + F.expBits + F.manBits

/-- Whole bytes an element takes in memory (FP4 is packed by R47). -/
def FFmt.bytes : FFmt → Nat
  | .fp32 => 4 | .bf16 => 2 | .fp16 => 2 | .e4m3 => 1 | .e5m2 => 1 | .e2m1 => 1

/-- The canonical NaN (R42, R43); FP4 has none and shows +0. -/
def FFmt.canonNan : FFmt → Nat
  | .fp32 => 0x7FC00000 | .bf16 => 0x7FC0 | .fp16 => 0x7E00 | .e4m3 => 0x7F | .e5m2 => 0x7E | .e2m1 => 0

/-- The largest finite magnitude as a pattern (R42). -/
def FFmt.maxBits : FFmt → Nat
  | .fp32 => 0x7F7FFFFF | .bf16 => 0x7F7F | .fp16 => 0x7BFF | .e4m3 => 0x7E | .e5m2 => 0x7B | .e2m1 => 0x7

/-- The infinity pattern; a format without one shows its largest finite value (R42). -/
def FFmt.infBits : FFmt → Nat
  | .fp32 => 0x7F800000 | .bf16 => 0x7F80 | .fp16 => 0x7C00 | .e4m3 => 0x7E | .e5m2 => 0x7C | .e2m1 => 0x7

/-- Exponent of the smallest subnormal step, 2^(1 - bias - M) (R42). -/
def FFmt.emin (F : FFmt) : Int := 1 - (F.bias : Int) - (F.manBits : Int)

/-- Exponent of the smallest normal, 2^(1 - bias) (R42). -/
def FFmt.enorm (F : FFmt) : Int := 1 - (F.bias : Int)

/-- The value an encoding stands for: a NaN, an infinity, or an exact signed `m * 2^e`. -/
inductive FV where
  | nan (signalling : Bool)
  | inf (neg : Bool)
  | fin (neg : Bool) (m : Nat) (e : Int)
deriving DecidableEq, Repr

def FV.isNan : FV → Bool
  | .nan _ => true
  | _ => false

def FV.isSnan : FV → Bool
  | .nan s => s
  | _ => false

def FV.isInf : FV → Bool
  | .inf _ => true
  | _ => false

def FV.isZero : FV → Bool
  | .fin _ m _ => m == 0
  | _ => false

def FV.isFinite : FV → Bool
  | .fin _ _ _ => true
  | _ => false

def FV.neg : FV → FV
  | .nan s => .nan s
  | .inf n => .inf (!n)
  | .fin n m e => .fin (!n) m e

/-- R42: the value of an encoding, with the exceptions of E4M3 and E2M1. -/
def FFmt.decode (F : FFmt) (w : Nat) : FV :=
  let M := F.manBits
  let man := w % 2 ^ M
  let ex := (w >>> M) % 2 ^ F.expBits
  let neg := w.testBit (F.bits - 1)
  let finite : FV :=
    if ex = 0 then .fin neg man F.emin
    else .fin neg (2 ^ M + man) ((ex : Int) - (F.bias : Int) - (M : Int))
  if ex = 2 ^ F.expBits - 1 then
    match F with
    | .e4m3 => if man = 7 then .nan false else finite
    | .e2m1 => finite
    | _ =>
      if man = 0 then .inf neg
      else .nan (!(man.testBit (M - 1)))
  else finite

/-- A subnormal operand of R60 bit [6]: FP4 codes never count. -/
def FFmt.isSubnormal (F : FFmt) (w : Nat) : Bool :=
  match F with
  | .e2m1 => false
  | _ => (w >>> F.manBits) % 2 ^ F.expBits == 0 && w % 2 ^ F.manBits != 0

/-- The sign bit put on a magnitude pattern. -/
def FFmt.withSign (F : FFmt) (neg : Bool) (mag : Nat) : Nat :=
  if neg then 2 ^ (F.bits - 1) + mag else mag

/-- `m * 2^e` rounded to a multiple of 2^f by round-to-nearest-even: the number of steps. -/
def rneSteps (m : Nat) (e f : Int) : Nat :=
  if f ≤ e then m <<< (e - f).toNat
  else
    let d := (f - e).toNat
    let q := m >>> d
    let r := m % 2 ^ d
    let h := 2 ^ (d - 1)
    if r > h ∨ (r = h ∧ q % 2 = 1) then q + 1 else q

/-- Comparison of two magnitudes `m * 2^e`. -/
def magLt (m₁ : Nat) (e₁ : Int) (m₂ : Nat) (e₂ : Int) : Bool :=
  if e₁ ≤ e₂ then decide (m₁ < m₂ <<< (e₂ - e₁).toNat) else decide (m₁ <<< (e₁ - e₂).toNat < m₂)

def magEq (m₁ : Nat) (e₁ : Int) (m₂ : Nat) (e₂ : Int) : Bool :=
  if e₁ ≤ e₂ then decide (m₁ = m₂ <<< (e₂ - e₁).toNat) else decide (m₁ <<< (e₁ - e₂).toNat = m₂)

/-- Step exponent of a value at `p` significant bits with an unbounded exponent. -/
def ulpExp (p m : Nat) (e : Int) : Int := e + (Nat.log2 m : Int) + 1 - (p : Int)

/-- The magnitude pattern of a representable `n * 2^f`. -/
def FFmt.encodeMag (F : FFmt) (n : Nat) (f : Int) : Nat :=
  if n = 0 then 0
  else
    let x := f + (Nat.log2 n : Int)
    if x < F.enorm then n <<< (f - F.emin).toNat
    else
      let M := F.manBits
      let l := Nat.log2 n
      let man := if l ≤ M then n <<< (M - l) else n >>> (l - M)
      (x + (F.bias : Int)).toNat * 2 ^ M + man % 2 ^ M

/-- The largest finite magnitude as an exact value. -/
def FFmt.maxFin (F : FFmt) : Nat × Int :=
  match F.decode F.maxBits with
  | .fin _ m e => (m, e)
  | _ => (0, 0)

/-- Tininess of R60: rounded by round-to-nearest-even with an unbounded exponent, below the smallest normal. -/
def FFmt.tiny (F : FFmt) (m : Nat) (e : Int) : Bool :=
  if m = 0 then false
  else
    let u := ulpExp (F.manBits + 1) m e
    magLt (rneSteps m e u) u 1 F.enorm

/-- What an overflow gives: the largest finite value, saturated, or an infinity (R58). -/
def FFmt.overflowResult (F : FFmt) (e5inf : Bool) (neg : Bool) : Nat × NFlags :=
  match F with
  | .e4m3 => (F.withSign neg F.maxBits, fSaturated ||| fInexact)
  | .e2m1 => (F.withSign neg F.maxBits, fSaturated ||| fInexact)
  | .e5m2 =>
    if e5inf then (F.withSign neg F.infBits, fOverflow ||| fInexact)
    else (F.withSign neg F.maxBits, fSaturated ||| fInexact)
  | _ => (F.withSign neg F.infBits, fOverflow ||| fInexact)

/-- R56 and R58 on a finite value: round to nearest even, subnormals honoured. -/
def FFmt.roundFin (F : FFmt) (e5inf : Bool) (neg : Bool) (m : Nat) (e : Int) : Nat × NFlags :=
  if m = 0 then (F.withSign neg 0, 0#7)
  else
    let u := ulpExp (F.manBits + 1) m e
    let rn := rneSteps m e u
    let (mm, me) := F.maxFin
    if magLt mm me rn u then F.overflowResult e5inf neg
    else
      let f := max u F.emin
      let n := rneSteps m e f
      let inexact := !(magEq n f m e)
      (F.withSign neg (F.encodeMag n f),
        NFlags.when inexact fInexact ||| NFlags.when (inexact && F.tiny m e) fUnderflow)

/-- R57 on a finite value that is not representable: the 32-bit word `u` decides the direction. -/
def FFmt.roundStoch (F : FFmt) (e5inf : Bool) (word : Nat) (neg : Bool) (m : Nat) (e : Int) : Nat × NFlags :=
  if m = 0 then (F.withSign neg 0, 0#7)
  else
    let (mm, me) := F.maxFin
    let f := min (max (ulpExp (F.manBits + 1) m e) F.emin) me
    if f ≤ e ∧ !(magLt mm me m e) then F.roundFin e5inf neg m e
    else
      let d := (f - e).toNat
      let q := if f ≤ e then m <<< (e - f).toNat else m >>> d
      let r := if f ≤ e then 0 else m % 2 ^ d
      if r = 0 ∧ !(magLt mm me m e) then F.roundFin e5inf neg m e
      else
        let frac := if f ≤ e then 0 else (r <<< 32) >>> d
        let n := if 2 ^ 32 ≤ word + frac then q + 1 else q
        if magLt mm me n f then F.overflowResult e5inf neg
        else
          let inexact := !(magEq n f m e)
          (F.withSign neg (F.encodeMag n f),
            NFlags.when inexact fInexact ||| NFlags.when (inexact && F.tiny m e) fUnderflow)

/-- The numeric-mode word of a program (R55). -/
structure NMode where
  ftz : Bool
  e5inf : Bool
  sr : Bool
deriving DecidableEq, Repr

/-- The default numeric mode: all zero (R55). -/
def NMode.zero : NMode := ⟨false, false, false⟩

/-- R55: the fields of a numeric-mode word. -/
def NMode.ofNat (w : Nat) : NMode := ⟨w.testBit 0, w.testBit 1, w.testBit 2⟩

/-- R59: a non-zero result below the smallest normal becomes a zero of its sign when ftz is 1. -/
def FFmt.flush (F : FFmt) (ftz : Bool) (r : Nat × NFlags) : Nat × NFlags :=
  if ftz && (r.1 >>> F.manBits) % 2 ^ F.expBits == 0 && r.1 % 2 ^ F.manBits != 0 then
    (F.withSign (r.1.testBit (F.bits - 1)) 0, r.2 ||| fUnderflow ||| fInexact)
  else r

/-- R56 to R59: conversion of a value to a format. `word` is the generator word of a stochastic conversion, none for
round-to-nearest-even. -/
def FFmt.convert (F : FFmt) (nm : NMode) (word : Option Nat) (x : FV) : Nat × NFlags :=
  match x with
  | .nan _ => (F.canonNan, fNan)
  | .inf neg =>
    match F with
    | .e4m3 => (F.withSign neg F.maxBits, fSaturated)
    | .e2m1 => (F.withSign neg F.maxBits, fSaturated)
    | .e5m2 => if nm.e5inf then (F.withSign neg F.infBits, 0#7) else (F.withSign neg F.maxBits, fSaturated)
    | _ => (F.withSign neg F.infBits, 0#7)
  | .fin neg m e =>
    F.flush nm.ftz
      (match word, F with
        | some _, .fp32 => F.roundFin nm.e5inf neg m e
        | some u, _ => F.roundStoch nm.e5inf u neg m e
        | none, _ => F.roundFin nm.e5inf neg m e)

/-! ### Binary32 -/

/-- The value of an FP32 pattern. -/
def f32 (w : W32) : FV := FFmt.fp32.decode w.toNat

/-- The canonical NaN 0x7FC0_0000 (R43). -/
def nan32 : W32 := 0x7FC00000#32
def negZero32 : W32 := 0x80000000#32
def one32 : W32 := 0x3F800000#32
def inf32 (neg : Bool) : W32 := if neg then 0xFF800000#32 else 0x7F800000#32
def zero32 (neg : Bool) : W32 := if neg then 0x80000000#32 else 0#32

/-- A subnormal FP32 operand raises denormal_input (R60). -/
def denIn (w : W32) : NFlags := NFlags.when (FFmt.fp32.isSubnormal w.toNat) fDenormal

/-- One rounding of an exact value to FP32 by round-to-nearest-even (R52, R60). -/
def round32 (neg : Bool) (m : Nat) (e : Int) : W32 × NFlags :=
  let r := FFmt.fp32.roundFin false neg m e
  (BitVec.ofNat 32 r.1, r.2)

/-- One rounding of an exact signed value; a zero is +0. -/
def round32Int (v : Int) (e : Int) : W32 × NFlags := round32 (decide (v < 0)) v.natAbs e

/-- A signed magnitude at exponent `f ≤ e`. -/
def alignTo (neg : Bool) (m : Nat) (e f : Int) : Int :=
  let a : Int := (m <<< (e - f).toNat : Nat)
  if neg then -a else a

/-- Flags and result of a NaN operand (R43, R53, R60). -/
def nanResult (snan : Bool) : W32 × NFlags := (nan32, fNan ||| NFlags.when snan fInvalid)

/-- An operation the formats cannot answer: canonical NaN, invalid and nan_seen (R53, R54). -/
def invalid32 : W32 × NFlags := (nan32, fInvalid ||| fNan)

/-- Exact sum of two finite values, rounded once; an exact zero is -0 only when both are -0 (R53). -/
def addFin (n₁ : Bool) (m₁ : Nat) (e₁ : Int) (n₂ : Bool) (m₂ : Nat) (e₂ : Int) : W32 × NFlags :=
  let f := min e₁ e₂
  let s := alignTo n₁ m₁ e₁ f + alignTo n₂ m₂ e₂ f
  if s = 0 then (zero32 (n₁ && n₂ && m₁ == 0 && m₂ == 0), 0#7)
  else round32Int s f

/-- Addition of values, with the special cases of R53. -/
def addV (a b : FV) : W32 × NFlags :=
  match a, b with
  | .nan s, .nan t => nanResult (s || t)
  | .nan s, _ => nanResult s
  | _, .nan t => nanResult t
  | .inf n, .inf k => if n = k then (inf32 n, 0#7) else invalid32
  | .inf n, .fin _ _ _ => (inf32 n, 0#7)
  | .fin _ _ _, .inf k => (inf32 k, 0#7)
  | .fin n₁ m₁ e₁, .fin n₂ m₂ e₂ => addFin n₁ m₁ e₁ n₂ m₂ e₂

/-- Binary32 addition (R53, R68). -/
def add32 (a b : W32) : W32 × NFlags := addV (f32 a) (f32 b)

/-- Binary32 subtraction: addition of the negated value. -/
def sub32 (a b : W32) : W32 × NFlags := addV (f32 a) (f32 b).neg

/-- Exact product of two values; none when it is a zero times an infinity or an operand is a NaN. -/
def mulV (a b : FV) : Option FV :=
  match a, b with
  | .nan _, _ => none
  | _, .nan _ => none
  | .inf n, .inf k => some (.inf (n != k))
  | .inf n, .fin k m _ => if m = 0 then none else some (.inf (n != k))
  | .fin k m _, .inf n => if m = 0 then none else some (.inf (n != k))
  | .fin n₁ m₁ e₁, .fin n₂ m₂ e₂ => some (.fin (n₁ != n₂) (m₁ * m₂) (e₁ + e₂))

/-- A zero times an infinity (R52, R60). -/
def zeroTimesInf (a b : FV) : Bool := (a.isZero && b.isInf) || (a.isInf && b.isZero)

/-- Fused multiply-add of values, rounded once. A zero times an infinity raises invalid whatever the third operand. -/
def fmaV (a b c : FV) : W32 × NFlags :=
  let snan := a.isSnan || b.isSnan || c.isSnan
  if zeroTimesInf a b then invalid32
  else if a.isNan || b.isNan || c.isNan then nanResult snan
  else
    match mulV a b with
    | none => invalid32
    | some p => addV p c

/-- Binary32 fused multiply-add (R68). -/
def fma32 (a b c : W32) : W32 × NFlags := fmaV (f32 a) (f32 b) (f32 c)

/-- Binary32 multiplication (R68). -/
def mul32 (a b : W32) : W32 × NFlags :=
  let x := f32 a
  let y := f32 b
  if zeroTimesInf x y then invalid32
  else if x.isNan || y.isNan then nanResult (x.isSnan || y.isSnan)
  else
    match mulV x y with
    | none => invalid32
    | some (.nan s) => nanResult s
    | some (.inf n) => (inf32 n, 0#7)
    | some (.fin n m e) => round32 n m e

/-- A positive quotient `num / den * 2^e` as an exact value with a sticky last bit, for one rounding. -/
def ratioSticky (num den : Nat) (e : Int) : Nat × Int :=
  let k := 30 + Nat.log2 den - min (30 + Nat.log2 den) (Nat.log2 num)
  let s := num <<< k
  let q := s / den
  (2 * q + (if s % den = 0 then 0 else 1), e - (k : Int) - 1)

/-- Binary32 division, correctly rounded. A finite value over zero is an infinity and raises nothing (R158). -/
def div32 (a b : W32) : W32 × NFlags :=
  match f32 a, f32 b with
  | .nan s, .nan t => nanResult (s || t)
  | .nan s, _ => nanResult s
  | _, .nan t => nanResult t
  | .inf _, .inf _ => invalid32
  | .inf n, .fin k _ _ => (inf32 (n != k), 0#7)
  | .fin n _ _, .inf k => (zero32 (n != k), 0#7)
  | .fin n m e, .fin k l f =>
    if l = 0 then (if m = 0 then invalid32 else (inf32 (n != k), 0#7))
    else if m = 0 then (zero32 (n != k), 0#7)
    else
      let r := ratioSticky m l (e - f)
      round32 (n != k) r.1 r.2

/-- Integer square root from the bits `i - 1` down to 0. -/
def isqrtGo (n : Nat) : Nat → Nat → Nat
  | 0, r => r
  | i + 1, r => isqrtGo n i (if (r + 2 ^ i) * (r + 2 ^ i) ≤ n then r + 2 ^ i else r)

/-- The largest integer whose square is at most `n`. -/
def isqrt (n : Nat) : Nat := isqrtGo n (Nat.log2 n / 2 + 1) 0

/-- Square root of a positive `m * 2^e` as an exact value with a sticky last bit. -/
def sqrtSticky (m : Nat) (e : Int) : Nat × Int :=
  let (m, e) := if e % 2 = 0 then (m, e) else (2 * m, e - 1)
  let m := m <<< 64
  let r := isqrt m
  (2 * r + (if r * r = m then 0 else 1), e / 2 - 33)

/-- Binary32 square root with the special values of R158. -/
def sqrt32 (a : W32) : W32 × NFlags :=
  match f32 a with
  | .nan s => nanResult s
  | .inf neg => if neg then invalid32 else (inf32 false, 0#7)
  | .fin neg m e =>
    if m = 0 then (zero32 neg, 0#7)
    else if neg then invalid32
    else
      let r := sqrtSticky m e
      round32 false r.1 r.2

/-- Order key of a pattern that is not a NaN: -0 and +0 give 0. -/
def key32 (w : W32) : Int :=
  let mag : Int := (w.toNat % 2 ^ 31 : Nat)
  if w.toNat.testBit 31 then -mag else mag

def isNan32 (w : W32) : Bool := (f32 w).isNan
def isFinite32 (w : W32) : Bool := (f32 w).isFinite

/-- `a < b` of two patterns; false when one is a NaN. -/
def lt32 (a b : W32) : Bool := !(isNan32 a) && !(isNan32 b) && decide (key32 a < key32 b)

/-- A NaN operand gives the canonical NaN in every operation (R156). -/
def nanOf (a b : W32) : Option (W32 × NFlags) :=
  if isNan32 a || isNan32 b then some (nanResult ((f32 a).isSnan || (f32 b).isSnan)) else none

/-- R156: the larger of two values; of +0 and -0 it is +0. -/
def max32 (a b : W32) : W32 × NFlags :=
  match nanOf a b with
  | some r => r
  | none =>
    if key32 a = key32 b then (a &&& b, 0#7)
    else if key32 a < key32 b then (b, 0#7) else (a, 0#7)

/-- R156: the smaller of two values; of +0 and -0 it is -0. -/
def min32 (a b : W32) : W32 × NFlags :=
  match nanOf a b with
  | some r => r
  | none =>
    if key32 a = key32 b then (a ||| b, 0#7)
    else if key32 a < key32 b then (a, 0#7) else (b, 0#7)

/-- An exact copy of one value, a NaN made canonical (R156). -/
def copy32 (a : W32) : W32 × NFlags :=
  if isNan32 a then nanResult (f32 a).isSnan else (a, 0#7)

/-- fp32(x): an integer rounded to FP32 (R289). -/
def ofNat32 (n : Nat) : W32 := (round32 false n 0).1

/-- Widening of an element to FP32, exact; a NaN becomes canonical (R157). -/
def FFmt.widen (F : FFmt) (w : Nat) : W32 :=
  match F.decode w with
  | .nan _ => nan32
  | .inf neg => inf32 neg
  | .fin neg m e => (round32 neg m e).1

end Sys2Proof
end

