-- ==== Sys2Proof/Machine/Operands.lean ====
section
/-!
DEFINITION. Operand forms: element formats, packing, block scales, narrow weights (R41 to R49, R116), the exact
group (R50, R52), the accumulator (R53), output conversion (R54), the counter generator (R295) and the CRCs.
-/

namespace Sys2Proof

/-- Operand formats of the arrays and of band operands (R116). -/
inductive OFmt where
  | bf16 | fp16 | e4m3 | e5m2 | fp4 | int4 | int8 | code4 | code2 | code1
deriving DecidableEq, Repr

/-- R116: format codes; the others are illegal operands. -/
def OFmt.ofCode : Nat → Option OFmt
  | 1 => some .bf16 | 2 => some .fp16 | 3 => some .e4m3 | 4 => some .e5m2 | 5 => some .fp4
  | 6 => some .int4 | 7 => some .int8 | 8 => some .code4 | 9 => some .code2 | 10 => some .code1
  | _ => none

/-- Bits of one element. -/
def OFmt.bits : OFmt → Nat
  | .bf16 => 16 | .fp16 => 16 | .e4m3 => 8 | .e5m2 => 8 | .fp4 => 4 | .int4 => 4 | .int8 => 8
  | .code4 => 4 | .code2 => 2 | .code1 => 1

/-- BF16 and FP16: the formats that carry no block scale (R45) and pair only with themselves (R46). -/
def OFmt.is16 : OFmt → Bool
  | .bf16 => true
  | .fp16 => true
  | _ => false

/-- Formats allowed as activation (R116). -/
def OFmt.isActivation : OFmt → Bool
  | .bf16 => true | .fp16 => true | .e4m3 => true | .e5m2 => true
  | _ => false

/-- R46: the pairings of activation and weight the units multiply. -/
def OFmt.pairOk (act wt : OFmt) : Bool :=
  match act, wt with
  | .bf16, .bf16 => true
  | .fp16, .fp16 => true
  | .e4m3, .bf16 => false
  | .e4m3, .fp16 => false
  | .e5m2, .bf16 => false
  | .e5m2, .fp16 => false
  | .e4m3, _ => true
  | .e5m2, _ => true
  | _, _ => false

/-- R50: elements of an exact group. -/
def groupLen (wt : OFmt) : Nat := if wt.is16 then 16 else 32

/-- R45: elements one scale byte covers; none for mode None; code 3 is reserved. -/
def scaleBlock : Nat → Option Nat
  | 1 => some 32
  | 2 => some 16
  | _ => none

/-- R45 and R116: a scale mode a format may name. -/
def scaleModeOk (f : OFmt) (mode : Nat) : Bool := decide (mode ≤ 2) && (!f.is16 || mode == 0)

/-- R47: element `i` of packed bytes, the lowest-indexed in the least significant bits. `rd` reads a byte. -/
def packedElem (bits : Nat) (rd : Nat → Nat) (i : Nat) : Nat :=
  if bits = 16 then rd (2 * i) + 256 * rd (2 * i + 1)
  else if bits = 8 then rd i
  else (rd (i * bits / 8) >>> (i * bits % 8)) % 2 ^ bits

/-- What a weight's expansion reads beside its code: the block scale byte (none in mode None), the zero point, the
table entry of its code (a BF16 pattern). -/
structure Expand where
  scale : Option Nat
  zero : Nat
  table : Nat
deriving DecidableEq, Repr

/-- No scale, zero point 0, no table. -/
def Expand.plain : Expand := ⟨none, 0, 0⟩

/-- A value scaled by 2^(s - 127); the scale byte 0xFF makes it a quiet NaN (R45, R49). -/
def scaleFV (s : Option Nat) (v : FV) : FV :=
  match s with
  | none => v
  | some s =>
    if s = 255 then .nan false
    else
      match v with
      | .fin n m e => .fin n m (e + (s : Int) - 127)
      | _ => v

/-- An exact integer. -/
def intFV (v : Int) : FV := .fin (decide (v < 0)) v.natAbs 0

/-- The value of an element before scaling (R48). -/
def OFmt.value (f : OFmt) (x : Expand) (code : Nat) : FV :=
  match f with
  | .bf16 => FFmt.bf16.decode code
  | .fp16 => FFmt.fp16.decode code
  | .e4m3 => FFmt.e4m3.decode code
  | .e5m2 => FFmt.e5m2.decode code
  | .fp4 => FFmt.e2m1.decode code
  | .int4 => intFV (signed 4 code - signed 4 x.zero)
  | .int8 => intFV (signed 8 code - signed 8 x.zero)
  | .code4 => FFmt.bf16.decode x.table
  | .code2 => FFmt.bf16.decode x.table
  | .code1 => .fin (decide (code = 1)) 1 0

/-- R48: the exact expanded value of an element. -/
def OFmt.expand (f : OFmt) (x : Expand) (code : Nat) : FV := scaleFV x.scale (f.value x code)

/-- R60 bit [6]: whether reading the element raises denormal_input. -/
def OFmt.denormal (f : OFmt) (x : Expand) (code : Nat) : Bool :=
  (x.scale != some 255) &&
    (match f with
      | .bf16 => FFmt.bf16.isSubnormal code
      | .fp16 => FFmt.fp16.isSubnormal code
      | .e4m3 => FFmt.e4m3.isSubnormal code
      | .e5m2 => FFmt.e5m2.isSubnormal code
      | .code4 => FFmt.bf16.isSubnormal x.table
      | .code2 => FFmt.bf16.isSubnormal x.table
      | _ => false)

/-- The exact product of two operands that are no NaN and no zero times infinity. -/
def prodFV (p : FV × FV) : FV :=
  match mulV p.1 p.2 with
  | some v => v
  | none => .nan false

/-- The least exponent of the finite values of a list, none for an empty list. -/
def minExp : List FV → Option Int
  | [] => none
  | .fin _ _ e :: t =>
    match minExp t with
    | none => some e
    | some f => some (min e f)
  | _ :: t => minExp t

/-- The exact sum of the finite values of a list, in steps of 2^f. -/
def sumAt (f : Int) : List FV → Int
  | [] => 0
  | .fin n m e :: t => alignTo n m e f + sumAt f t
  | _ :: t => sumAt f t

/-- R52: the result of one exact group, from its operand pairs. Flags that the rule raises and flags that it notes are
in one word; R61 tells them apart. -/
def groupResult (ps : List (FV × FV)) : W32 × NFlags :=
  let snan := ps.any (fun p => p.1.isSnan || p.2.isSnan)
  let zi := ps.any (fun p => zeroTimesInf p.1 p.2)
  let raised := NFlags.when (snan || zi) fInvalid
  if zi || ps.any (fun p => p.1.isNan || p.2.isNan) then (nan32, raised ||| fNan)
  else
    let prods := ps.map prodFV
    let pos := prods.any (fun v => v == .inf false)
    let neg := prods.any (fun v => v == .inf true)
    if pos && neg then invalid32
    else if pos then (inf32 false, 0#7)
    else if neg then (inf32 true, 0#7)
    else
      let f := (minExp prods).getD 0
      let s := sumAt f prods
      if s = 0 then
        (zero32 (prods.all (fun v => match v with | .fin n m _ => n && m == 0 | _ => false)), 0#7)
      else round32Int s f

/-- An accumulator value with its pending flags (R61, R108). -/
structure Acc where
  val : W32
  pend : NFlags
deriving DecidableEq, Repr

/-- R53: a cleared accumulator is -0 with nothing pending. -/
def Acc.clear : Acc := ⟨negZero32, 0#7⟩

/-- R53 and R61: one group result added; the flags raised at once are returned beside the accumulator. -/
def Acc.add (a : Acc) (r : W32 × NFlags) : Acc × NFlags :=
  let s := add32 a.val r.1
  (⟨s.1, a.pend ||| r.2.pendingPart ||| s.2.pendingPart⟩, r.2.atOncePart ||| s.2.atOncePart)

/-- R54 and R125: an array's conversion state. -/
structure ConvState where
  fmt : FFmt
  srReq : Bool
  scale : Option Nat
  bias : Option Nat
  clip : Option (W32 × W32)
deriving DecidableEq, Repr

/-- R126: the default at the start of each tick. -/
def ConvState.default : ConvState := ⟨.fp32, false, none, none, none⟩

/-- R54 operand flags of a scale or bias entry: subnormal, signalling and quiet NaN. -/
def entryFlags (w : W32) : NFlags :=
  denIn w ||| NFlags.when (isNan32 w) fNan ||| NFlags.when (f32 w).isSnan fInvalid

/-- R54 step 1: `acc × scale + bias`, rounded once. -/
def scaleBias (acc : W32) (scale bias : Option W32) : W32 × NFlags :=
  match scale, bias with
  | none, none => if isNan32 acc then nanResult false else (acc, 0#7)
  | some s, none => let r := mul32 acc s; (r.1, r.2 ||| entryFlags s)
  | none, some b => let r := add32 acc b; (r.1, r.2 ||| entryFlags b)
  | some s, some b => let r := fma32 acc s b; (r.1, r.2 ||| entryFlags s ||| entryFlags b)

/-- R54 step 2: the clip window; a NaN passes. -/
def clipTo (t : W32) : Option (W32 × W32) → W32
  | none => t
  | some (lo, hi) => if lt32 t lo then lo else if lt32 hi t then hi else t

/-- R54: output conversion of an accumulator, with the commit rule of R61. The answer is the pattern in the output
format and the flags that enter the flag word. -/
def outConvert (fmt : FFmt) (nm : NMode) (word : Option Nat) (scale bias : Option W32)
    (clip : Option (W32 × W32)) (a : Acc) : Nat × NFlags :=
  let t := scaleBias a.val scale bias
  let c := fmt.convert nm word (f32 (clipTo t.1 clip))
  (c.1, NFlags.commit a.pend (t.2 ||| c.2) (fmt.decode c.1).isNan)

/-! ### The counter generator (R295) -/

def rotl32 (x n : Nat) : Nat := ((x <<< n) ||| (x >>> (32 - n))) % 2 ^ 32

/-- The four counter words. -/
structure CgState where
  x0 : Nat
  x1 : Nat
  x2 : Nat
  x3 : Nat
deriving DecidableEq, Repr

/-- The key word `k[i mod 3]`. -/
def cgKey (seed i : Nat) : Nat :=
  let k0 := seed % 2 ^ 32
  let k1 := seed / 2 ^ 32 % 2 ^ 32
  if i % 3 = 0 then k0 else if i % 3 = 1 then k1 else k0 ^^^ k1 ^^^ 0x6C8E9CF5

def cgInject (seed i : Nat) (x : CgState) : CgState :=
  ⟨(x.x0 + cgKey seed i) % 2 ^ 32, (x.x1 + cgKey seed (i + 1)) % 2 ^ 32,
   (x.x2 + cgKey seed (i + 2)) % 2 ^ 32, (x.x3 + cgKey seed i + i) % 2 ^ 32⟩

/-- One round, the exchange of x1 and x3 included. -/
def cgRound (ra rb : Nat) (x : CgState) : CgState :=
  let x0 := (x.x0 + x.x1) % 2 ^ 32
  let x1 := rotl32 x.x1 ra ^^^ x0
  let x2 := (x.x2 + x.x3) % 2 ^ 32
  let x3 := rotl32 x.x3 rb ^^^ x2
  ⟨x0, x3, x2, x1⟩

def cgRounds : List (Nat × Nat) → CgState → CgState
  | [], x => x
  | (a, b) :: t, x => cgRounds t (cgRound a b x)

/-- The output words for a seed, step, tensor, purpose and element (R295). -/
def counterGen (seed step tensor purpose element : Nat) : CgState :=
  let x : CgState := ⟨element % 2 ^ 32, element / 2 ^ 32 % 2 ^ 32, purpose * 2 ^ 24 + tensor, step⟩
  let x := cgInject seed 0 x
  let x := cgRounds [(16, 8), (12, 24), (8, 20), (20, 4), (4, 28)] x
  let x := cgInject seed 1 x
  let x := cgRounds [(24, 12), (16, 16), (28, 8), (12, 20), (8, 24)] x
  cgInject seed 2 x

/-- Purpose codes of R295. -/
def purposeDrop : Nat := 1
def purposeRound : Nat := 2
def purposeDither : Nat := 3

/-- Output word 0. -/
def cgWord0 (seed step tensor purpose element : Nat) : Nat := (counterGen seed step tensor purpose element).x0

/-! ### CRCs -/

def crc32Bits : Nat → Nat → Nat
  | 0, c => c
  | n + 1, c => crc32Bits n (if c % 2 = 1 then (c / 2) ^^^ 0xEDB88320 else c / 2)

def crc32Go : Nat → List Byte → Nat
  | c, [] => c
  | c, b :: t => crc32Go (crc32Bits 8 (c ^^^ b.toNat)) t

/-- CRC-32 with the IEEE 802.3 polynomial. -/
def crc32 (bs : List Byte) : Nat := crc32Go 0xFFFFFFFF bs ^^^ 0xFFFFFFFF

def crc16Bits : Nat → Nat → Nat
  | 0, c => c
  | n + 1, c => crc16Bits n (if c.testBit 15 then (2 * c % 2 ^ 16) ^^^ 0x1021 else 2 * c % 2 ^ 16)

/-- CRC-16 of R306: initial value 0xFFFF, most significant bit first, no final XOR. -/
def crc16 (bs : List Byte) : Nat := bs.foldl (fun c b => crc16Bits 8 (c ^^^ (b.toNat <<< 8))) 0xFFFF

/-- Bits written most significant first, as lists used to read padded bytes. -/
def zeros (n : Nat) : List Byte := List.replicate n 0#8

end Sys2Proof
end

