-- ==== Sys2Proof/Machine/Sparse.lean ====
section
/-!
DEFINITION. Sparse tables: lists of (key, value) pairs with keys strictly rising and no entry equal to what an
unlisted key reads as. Every memory and every indexed store of the State has this form.
-/

namespace Sys2Proof

/-- A table by number. -/
abbrev Sp (α : Type) := List (Nat × α)

/-- The value at key `k`; `d` where the key is not listed. -/
def Sp.get {α : Type} (d : α) : Sp α → Nat → α
  | [], _ => d
  | (j, v) :: t, k => if j = k then v else Sp.get d t k

/-- The table without key `k`. -/
def Sp.erase {α : Type} (k : Nat) : Sp α → Sp α
  | [] => []
  | (j, v) :: t => if j = k then Sp.erase k t else (j, v) :: Sp.erase k t

/-- The pair put at its place in the rising order. -/
def Sp.insert {α : Type} (k : Nat) (v : α) : Sp α → Sp α
  | [] => [(k, v)]
  | (j, w) :: t => if k < j then (k, v) :: (j, w) :: t else (j, w) :: Sp.insert k v t

/-- The table with `v` at key `k`; writing what an unlisted key reads as removes the entry. -/
def Sp.set {α : Type} [DecidableEq α] (d : α) (t : Sp α) (k : Nat) (v : α) : Sp α :=
  if v = d then Sp.erase k t else Sp.insert k v (Sp.erase k t)

/-- One entry changed. -/
def Sp.upd {α : Type} [DecidableEq α] (d : α) (t : Sp α) (k : Nat) (f : α → α) : Sp α :=
  Sp.set d t k (f (Sp.get d t k))

/-- Keys strictly rising, each above `lo`, and no entry equal to `d`. -/
def Sp.wfFrom {α : Type} [DecidableEq α] (d : α) : Option Nat → Sp α → Bool
  | _, [] => true
  | lo, (k, v) :: t =>
    (match lo with
      | none => true
      | some l => decide (l < k)) && decide (v ≠ d) && Sp.wfFrom d (some k) t

/-- The canonical form of a table. -/
def Sp.wf {α : Type} [DecidableEq α] (d : α) (t : Sp α) : Bool := Sp.wfFrom d none t

/-- The table without the keys from `a` up to (not including) `b`. -/
def Sp.eraseRange {α : Type} (a b : Nat) : Sp α → Sp α
  | [] => []
  | (j, v) :: t => if a ≤ j ∧ j < b then Sp.eraseRange a b t else (j, v) :: Sp.eraseRange a b t

/-- How many listed keys lie from `a` up to (not including) `b`. -/
def Sp.countRange {α : Type} (a b : Nat) : Sp α → Nat
  | [] => 0
  | (j, _) :: t => (if a ≤ j ∧ j < b then 1 else 0) + Sp.countRange a b t

end Sys2Proof
end

