-- ==== Sys2Proof/Machine/Types.lean ====
section
/-!
DEFINITION. Operand types shared by the commands and the state: requesters, fetch outcomes, engines.
-/

namespace Sys2Proof

/-- Fields of an instruction word (R76). -/
def IWord.cls (w : IWord) : Nat := field 127 124 w.toNat
def IWord.opc (w : IWord) : Nat := field 123 116 w.toNat
def IWord.waitEn (w : IWord) : Bool := bitN 115 w.toNat
def IWord.waitGroup (w : IWord) : Nat := field 114 104 w.toNat
def IWord.rsvd (w : IWord) : Nat := field 103 96 w.toNat
/-- The payload as a number. -/
def IWord.pl (w : IWord) : Nat := field 95 0 w.toNat

end Sys2Proof

namespace Sys2Proof.Machine

/-- A requester of the module, named by its index and sub-index (R387). -/
structure Who where
  index : Nat
  sub : Nat
deriving DecidableEq, Repr

/-- Outcome of a code-word check, an input of the physical world: SECDED on a program word (R81), the tier-1 code
(R202, R215, R216). -/
inductive Ecc where
  | clean | corrected | uncorrectable
deriving DecidableEq, Repr

/-- The engines of a core, with their queues (R73). -/
inductive Eng where
  | mx | ve | st | pe | ob
deriving DecidableEq, Repr

/-- A context of a core: the issuer of a transfer or an outbound command. -/
structure CtxRef where
  core : Nat
  ctx : Nat
deriving DecidableEq, Repr

/-- The engine that a class names (R77); none for the sequencer's own classes and the reserved ones. -/
def engOfClass : Nat → Option Eng
  | 2 => some .mx
  | 3 => some .mx
  | 4 => some .ve
  | 5 => some .st
  | 6 => some .pe
  | 7 => some .ob
  | 8 => some .ob
  | 9 => some .ob
  | 10 => some .ob
  | _ => none

end Sys2Proof.Machine
end

