-- ==== Sys2Proof/Machine/CoreTypes.lean ====
section
/-!
DEFINITION. The state of one core: sequencer, contexts, program banks, matrix, vector, stream and Pea engines
(chapters 03 to 06). Plain data only.
-/

namespace Sys2Proof.Machine

/-! ### Matrix arrays -/

/-- Activation record (R117), decoded. -/
structure ActRec where
  base : Nat
  stride : Nat
  rows : Nat
  fmt : OFmt
  mOrient : Bool
  scaleMode : Nat
  tileM : Nat
  scaleBase : Nat
  scaleStride : Nat
deriving DecidableEq, Repr

/-- Convolution record (R132), decoded. -/
structure CnvRec where
  base : Nat
  rowStride : Nat
  pixStride : Nat
  hIn : Nat
  wIn : Nat
  cIn : Nat
  hOut : Nat
  wOut : Nat
  kh : Nat
  kw : Nat
  sy : Nat
  sx : Nat
  dy : Nat
  dx : Nat
  pt : Nat
  padL : Nat
  fmt : OFmt
  scaleMode : Nat
  tileM : Nat
  pixStart : Nat
  scaleBase : Nat
  scaleStride : Nat
deriving DecidableEq, Repr

/-- The streamed operand of a product. -/
inductive Act where
  | plain (r : ActRec)
  | conv (r : CnvRec)
deriving DecidableEq, Repr

/-- Weight record (R118), decoded. -/
structure WtRec where
  base : Nat
  stride : Nat
  kLen : Nat
  nLen : Nat
  fmt : OFmt
  nOrient : Bool
  scaleMode : Nat
  tableScope : Bool
  kPart : Nat
  scaleBase : Nat
  scaleStride : Nat
  auxBase : Nat
deriving DecidableEq, Repr

/-- Output record (R119), decoded. -/
structure OutRec where
  base : Nat
  stride : Nat
  mOrient : Bool
  flagGroup : Nat
  flagStep : Nat
  partBase : Nat
  tensor : Nat
  origin : Nat
  pitch : Nat
deriving DecidableEq, Repr

/-- One group of three records (R115). -/
structure MxGroup where
  act : Act
  wt : WtRec
  out : OutRec
deriving DecidableEq, Repr

/-- A tile sequence that the matrix engine has accepted (R115, R121). `latched` is the conversion state of arrays 0 to
3 as the unit in flight latched it (R126). `reload` says that the next unit of a later part reads its partial record
(R123). -/
structure MxRun where
  conv : Bool
  mode : Nat
  mask : Nat
  nFast : Bool
  first : Nat
  count : Nat
  done : Nat
  groups : List (Nat × MxGroup)
  latched : List ConvState
  reload : Bool
deriving DecidableEq, Repr

/-- The power state of an array: its ballast (R136 to R138). -/
inductive ArrPow where
  | gated | ballast
deriving DecidableEq, Repr

/-! ### Vector engine -/

/-- The rounding record of VSR_SET (R151). -/
structure RndRec where
  tensor : Nat
  origin : Nat
  pitch : Nat
deriving DecidableEq, Repr

/-- The youngest vector instruction that the engine has taken (R100, R154): its word; `done`, the rows completed when the engine last
began it (progress word 0); `lines`, the broadcast rows of B and C as the engine read them; `accs`, the partial accumulators of a
column reduction at row `done`. What it has written since is kept for an interruption that stops it between two rows: `valid0`
and `tiles0` are the valid bits and the destination buffer before it, `bytes0` the bytes that a VSTORE has written (address,
before, after). -/
structure VeRun where
  word : IWord
  done : Nat
  lines : List W32 × List W32
  accs : List W32
  valid0 : List Bool
  tiles0 : Sp W32
  bytes0 : List (Nat × Byte × Byte)
deriving DecidableEq, Repr

/-! ### Stream engine -/

/-- Stream descriptor (R171) with the register offsets added (R170). -/
structure SDesc where
  src : Nat
  srcSpace : Nat
  dst : Nat
  dstSpace : Nat
  esize : Nat
  transpose : Bool
  flagDim : Nat
  flagTarget : Nat
  ndim : Nat
  flagGroup : Nat
  flagStep : Nat
  flagCores : Nat
  counts : List Nat
  srcStride : List Int
  dstStride : List Int
deriving DecidableEq, Repr

/-- The kind that the tenant's page map records for a page (R177). -/
inductive PageKind where
  | tier1 | tier2 | shared (die : Nat) | coreWin (core : Nat) | none
deriving DecidableEq, Repr

/-- A stream transfer in progress. `pos` is the flat index of the next element to deliver, or, with transpose, the
number of the next block (R175); progress words 0 to 5 are computed from it. `chunk` counts the chunks that
have arrived; `dma` names an outstanding read of host memory, or (true) of tier 2 through the guest die; `buf` holds
the elements read so far of a block that lies there. -/
structure StRun where
  desc : SDesc
  dstKind : PageKind
  pos : Nat
  chunk : Nat
  chunkPoison : Bool
  susp : Option (Nat × Bool)
  dma : Option (Bool × Nat)
  buf : List (List Byte × Bool)
deriving DecidableEq, Repr

/-! ### Pea path -/

/-- A Pea transfer in flight (R182); `data` is what PEA_PUT and PEA_ADD carry. -/
structure PeaMsg where
  op : Nat
  ctx : Nat
  loc : Nat
  len : Nat
  remote : Bool
  core : Nat
  target : Nat
  group : Nat
  shard : Nat
  data : List Byte
deriving DecidableEq, Repr

/-- An arrival-flag group (R165). -/
structure Grp where
  need : Nat
  arrivals : Nat
  poison : Bool
deriving DecidableEq, Repr

/-- A group as a job start leaves it (R165). -/
def Grp.start : Grp := ⟨1, 0, false⟩

/-- R166: a group is set when arrivals ≥ need. -/
def Grp.isSet (g : Grp) : Bool := decide (g.need ≤ g.arrivals)

/-- R167: one more arrival, saturating at 255. -/
def Grp.arrive (g : Grp) (poison : Bool) : Grp :=
  { g with arrivals := min 255 (g.arrivals + 1), poison := g.poison || poison }

/-! ### Contexts -/

/-- What holds the sequencer of a context: nothing; a wait group of a control or scalar instruction (R76); a full
engine queue (R72); FENCE, TICK_END or HALT that waits (R78). -/
inductive SeqHold where
  | none | wait | full | fence | tickEnd | halt
deriving DecidableEq, Repr

/-- Whether a context may tick. -/
inductive CtxLife where
  | unbound | live | halted | parked | retired
deriving DecidableEq, Repr

/-- A program of a bank, as its header gives it (R80), with the start index the steward bound (R81). -/
structure Prog where
  id : Nat
  tenant : Nat
  start : Nat
  length : Nat
  nmode : Nat
  fillEligible : Bool
  entry : Nat
deriving DecidableEq, Repr

/-- No program. -/
def Prog.none : Prog := ⟨0xFFFF, 0, 0, 0, 0, false, 0⟩

/-- A context (R74). -/
structure Ctx where
  life : CtxLife
  prog : Prog
  inTick : Bool
  tickBeat : Nat
  pc : Nat
  regs : Sp W32
  loops : List (W32 × Nat)
  flags : NFlags
  hold : SeqHold
  qmx : List IWord
  qve : List IWord
  qst : List IWord
  qpe : List IWord
  qob : List IWord
  mx : List MxRun
  mxDone : Nat
  conv : List ConvState
  st : Option StRun
  outCmds : Nat
  veArr : List Nat
  ve : Option VeRun
  valid : List Bool
  saveArea : Option Nat
  rnd : Option RndRec
  stepReg : W32
deriving DecidableEq, Repr

/-- A context that no program is bound to; also what a job start leaves of one. -/
def Ctx.fresh : Ctx :=
  { life := .unbound, prog := Prog.none, inTick := false, tickBeat := 0, pc := 0, regs := [], loops := [],
    flags := 0#7, hold := .none, qmx := [], qve := [], qst := [], qpe := [], qob := [], mx := [], mxDone := 0,
    conv := List.replicate 4 ConvState.default, st := none, outCmds := 0, veArr := [], ve := none,
    valid := [false, false, false, false], saveArea := none, rnd := none, stepReg := 0#32 }

/-- A slot of a slot table (R87). -/
structure Slot where
  start : Nat
  open_ : Bool
  tenant : Nat
  prog : Nat
deriving DecidableEq, Repr

/-- What the core is doing (R97, R104): nothing; restoring a context; running one; saving the running one; drained.
`fill` tells fill work from a scheduled slot. -/
inductive CoreRun where
  | idle
  | restoring (ctx : Nat) (fill : Bool)
  | running (ctx : Nat) (fill : Bool)
  | saving (ctx : Nat) (fill : Bool)
  | drained
deriving DecidableEq, Repr

/-- A matrix array: its power record, and the weights that its cells hold (R105). `hist` are the cells that formed a
non-gated product in each of the last 256 cc in which rows entered, newest first (R137); `susp` says that a suspension has
put it into gated idle (R140); `active` and `shadow` are the weight codes of the active and shadow registers, by cell row,
product of the cell and column. -/
structure ArrSt where
  pow : ArrPow
  level : Nat
  schedLevel : Nat
  hist : List Nat
  susp : Bool
  active : Sp Nat
  shadow : Sp Nat
deriving DecidableEq, Repr

/-- The matrix registers and arrays of a core (R142). -/
structure MxSt where
  lastMode : Nat
  balEnable : Bool
  balRamp : Nat
  balHold : Nat
  capSeen : Bool
  actCyc : W64
  balCyc : W64
  gateCyc : W64
  cycRead : Nat
  arrays : List ArrSt
  bank : Nat
  acc : Sp Acc
deriving DecidableEq, Repr

/-- The stream registers of a core (R193). -/
structure StSt where
  fva : Nat
  faults : W32
  poison : W32
  tmiss : W32
  bytes : W64
  pea : W64
  tcache : List Nat
deriving DecidableEq, Repr

/-- The vector engine's storage and registers (R143, R148, R164). -/
structure VeSt where
  tiles : Sp W32
  vregs : Sp W32
  saves : W32
  arithCyc : W64
  transCyc : W64
deriving DecidableEq, Repr

/-- One core. `bound` are the engines that have stopped at their boundary since the interruption in progress (R98). -/
structure CoreSt where
  active : Bool
  switchPending : Bool
  wrFault : Bool
  pwBank : Bool
  pwIndex : Nat
  pwData : List (Option W32)
  bank0 : Sp IWord
  bank1 : Sp IWord
  progs0 : List Prog
  progs1 : List Prog
  slots : List Slot
  fillList : List Nat
  slot : Nat
  yielded : Option Nat
  ctxs : Sp Ctx
  run : CoreRun
  bound : List Eng
  drainReq : Bool
  fault : Bool
  faultCode : Nat
  faultCtx : Nat
  overruns : W32
  grps : Sp Grp
  mx : MxSt
  ve : VeSt
  st : StSt
  peas : List PeaMsg
deriving DecidableEq, Repr

/-- An array after a module reset: gated idle, its registers zero. -/
def ArrSt.reset : ArrSt := ⟨.gated, 0, 0, [], false, [], []⟩

/-- R142 reset values: ballast on, gated idle. -/
def MxSt.reset : MxSt :=
  { lastMode := 0, balEnable := true, balRamp := 0x28A, balHold := 0x0A28, capSeen := false,
    actCyc := 0#64, balCyc := 0#64, gateCyc := 0#64, cycRead := 0,
    arrays := List.replicate 4 ArrSt.reset, bank := 0, acc := [] }

/-- R193 reset values. -/
def StSt.reset : StSt := ⟨0, 0#32, 0#32, 0#32, 0#64, 0#64, []⟩

/-- R164 reset values; vector registers at +0 (R148). -/
def VeSt.reset : VeSt := ⟨[], [], 0#32, 0#64, 0#64⟩

/-- A core after a module reset: no image applied (R86, R104). -/
def CoreSt.reset : CoreSt :=
  { active := false, switchPending := false, wrFault := false, pwBank := false, pwIndex := 0,
    pwData := [some 0#32, some 0#32, some 0#32, some 0#32], bank0 := [], bank1 := [], progs0 := [], progs1 := [], slots := [], fillList := [],
    slot := 0, yielded := none, ctxs := [], run := .idle, bound := [], drainReq := false, fault := false,
    faultCode := 0, faultCtx := 0, overruns := 0#32, grps := [], mx := MxSt.reset, ve := VeSt.reset,
    st := StSt.reset, peas := [] }

end Sys2Proof.Machine
end

