-- ==== Sys2Proof/Machine/HostTypes.lean ====
section
/-!
DEFINITION. Records of the log (R474), of the Helsar image (R441 to R452), of tenants, regions and queues (chapter 14)
and of jobs. Plain data only.
-/

namespace Sys2Proof.Machine

/-- A 64 B entry of a queue (R405). -/
abbrev Entry := BitVec 512

/-! ### The log -/

/-- A log record (R474). Arguments are kept as the bytes 20 to 31. -/
structure LogRec where
  time : Nat
  seq : Nat
  cls : Nat
  inst : Nat
  code : Nat
  sev : Nat
  unaligned : Bool
  tenant : Option Nat
  crumb : Bool
  rep : Nat
  args : List Byte
deriving DecidableEq, Repr

/-- No record: code 0 is not produced (R476). -/
def LogRec.none : LogRec := ⟨0, 0, 0, 0, 0, 0, false, Option.none, false, 0, []⟩

/-- The log ring (R473), with read marks and alert_lost (R454, R487), and the crumbs flag (R483). -/
structure LogSt where
  ring : Sp LogRec
  next : Nat
  read : Sp Bool
  alertLost : Bool
  crumbs : Bool
deriving DecidableEq, Repr

/-- The log after a module reset (R424, R473). -/
def LogSt.reset : LogSt := ⟨[], 0, [], false, false⟩

/-! ### The Helsar image -/

/-- Module configuration (R444), defaults resolved. -/
structure ModCfg where
  beatExp : Nat
  maintExp : Nat
  heatExp : Nat
  maxVersion : Nat
  promote : Nat
  drop : Nat
  reserve : Nat
  promMax : Nat
  tuberCap : Nat
  tuberDepth : Nat
  holdCc : Nat
  ramp : Nat
  balEnable : Bool
deriving DecidableEq, Repr

/-- Tenant-table entry (R445). -/
structure TenRec where
  tenant : Nat
  quota0 : Nat
  quota1 : Nat
  quota2 : Nat
  exchWin : Nat
  exchFirst : Nat
  exchCount : Nat
deriving DecidableEq, Repr

/-- Tensor-directory entry (R445). -/
structure TensorRec where
  id : Nat
  kind : Nat
  tenant : Nat
  job : Nat
  home : Nat
  cls : Nat
  size : Nat
  va : Nat
  core : Nat
  t2id : Nat
deriving DecidableEq, Repr

/-- Group of the program set (R446): the cores that receive it, its programs (start index within the group) and words. -/
structure ProgGroup where
  mask : Nat
  words : List IWord
  progs : List Prog
deriving DecidableEq, Repr

/-- A slot table with its fill list (R447). -/
structure BeatTable where
  slots : List Slot
  fill : List Nat
deriving DecidableEq, Repr

/-- A memory grant (R448, R206). -/
structure Grant where
  prog : Nat
  die : Nat
  kind : Nat
  target : Nat
  w : Nat
  units : Nat
deriving DecidableEq, Repr

/-- A fabric port of the fabric map (R449). -/
structure FabPort where
  dim : Nat
  minus : Bool
  unused : Bool
  delay : Nat
  slot : Nat
deriving DecidableEq, Repr

/-- The fabric map (R449). `raw` is the section with bytes 2 to 4 taken as zero, over which the digest is formed. -/
structure FabMap where
  dims : List Nat
  self : Nat
  ports : List FabPort
  digest : Nat
deriving DecidableEq, Repr

/-- A job record (R450). -/
structure JobRec where
  job : Nat
  tenant : Nat
  kind : Nat
  slot : Nat
  sExp : Nat
  hExp : Nat
  rule : Nat
  sched : Nat
  hostCopy : Nat
  ringBands : Nat
  staging : Nat
  eInit : Int
  eMin : Int
  eMax : Int
  interval : Nat
  grow : Nat
  back : Nat
  beta1 : W32
  beta2 : W32
  eps : W32
  mu : W32
  limit : W32
  clip : W32
  lrPeak : W32
  lrEnd : W32
  warm : Nat
  total : Nat
  pieces : List (Nat × W32)
  mand0 : Nat
  mand1 : Nat
  layers : Nat
  layerPages : Nat
  stepCtxs : List Nat
  progs : List Nat
deriving DecidableEq, Repr

/-- A shard map (R365, R451): the member node and slot of each logical shard. -/
structure ShardMap where
  job : Nat
  sExp : Nat
  hExp : Nat
  entries : List (Nat × Nat)
deriving DecidableEq, Repr

/-- An update-set entry (R451) with its range table. -/
structure UpdEntry where
  grad : Nat
  hi : Nat
  lo : Nat
  m1 : Nat
  m2 : Nat
  partLen : Nat
  wd : W32
  records : Nat
  ranges : List Nat
deriving DecidableEq, Repr

/-- An update set. -/
structure UpdSet where
  job : Nat
  entries : List UpdEntry
deriving DecidableEq, Repr

/-- A collective table entry (R368, R452). -/
structure CollEntry where
  id : Nat
  op : Nat
  flags : Nat
  esize : Nat
  srcKind : Nat
  dstKind : Nat
  stageDelta : Nat
  t : Nat
  res : Nat
  partLen : Nat
  srcVa : Nat
  dstVa : Nat
  recvVa : Nat
deriving DecidableEq, Repr

/-- A collective table. -/
structure CollTable where
  job : Nat
  entries : List CollEntry
deriving DecidableEq, Repr

/-- A reservation of a group (R379, R452). -/
structure Resv where
  prog : Nat
  port : Nat
  dir : Nat
  die : Nat
  rate : Nat
deriving DecidableEq, Repr

/-- The parsed image in use. `digests` are the job digests (R465) by job number. -/
structure Image where
  major : Nat
  minor : Nat
  sequence : Nat
  secVersion : Nat
  cfg : ModCfg
  guestIface : Nat
  tenants : List TenRec
  tensors : List TensorRec
  progs : List ProgGroup
  tables : List BeatTable
  binding : List Nat
  grants : List Grant
  fabric : FabMap
  jobs : List JobRec
  maps : List ShardMap
  sets : List UpdSet
  colls : List CollTable
  resvs : List (List Resv)
  stages : List (Nat × List ShardMap)
  digests : List (Nat × Nat)
deriving DecidableEq, Repr

/-! ### Pages and regions -/

/-- Where a virtual page leads (R398). Frames and tier-2 pages are of 2 MiB, windows and host pages of 64 KiB. -/
inductive PageTo where
  | unmapped
  | tier1 (frame : Nat) (ro : Bool)
  | tier2 (page : Nat) (tensor : Nat)
  | coreWin (core : Nat) (win : Nat)
  | dieWin (die : Nat) (win : Nat)
  | hostPage (region : Nat) (page : Nat)
deriving DecidableEq, Repr

/-- A page-map entry, with the marks that R187 names. -/
structure PageEnt where
  dest : PageTo
  moving : Bool
  quar : Bool
deriving DecidableEq, Repr

/-- An unmapped page. -/
def PageEnt.none : PageEnt := ⟨.unmapped, false, false⟩

/-- A region (R400, R416). -/
structure Region where
  host : Bool
  base : Nat
  va : Nat
  len : Nat
  write : Bool
  placement : Bool
  adapter : Nat
  hdm : Nat
  bar2 : Nat
  placed : Nat
  releasing : Bool
deriving DecidableEq, Repr

/-- No region. -/
def Region.none : Region := ⟨false, 0, 0, 0, false, false, 0, 0, 0, 0, false⟩

/-- A queue of a tenant (R405): `prod` and `cons` are the producer and consumer indices, `shadow` the entries of a
device-to-host queue that host software has not acknowledged, `wrote` the next index to write to the ring, `acked` the
first index whose QSEG the watcher has not acknowledged (R464). -/
structure Queue where
  isSet : Bool
  base : Nat
  depthExp : Nat
  port : Nat
  prod : W32
  cons : W32
  err : Bool
  shadow : List (W32 × Entry)
  wrote : W32
  acked : W32
deriving DecidableEq, Repr

/-- A queue after a module reset. -/
def Queue.reset : Queue := ⟨false, 0, 0, 0, 0#32, 0#32, false, [], 0#32, 0#32⟩

/-- A tenant: its table entry (R414), regions, queues and use (R272). `waiting` are completion records and events
without room in the shadow of queue 1; `held` are commands that the limit of R412 holds back; `open_` are the commands
accepted and not complete. -/
structure Tenant where
  state : Nat
  quota0 : Nat
  quota1 : Nat
  quota2 : Nat
  use0 : Nat
  use1 : Nat
  use2 : Nat
  slots : Nat
  fill : Nat
  hostEn : Bool
  qerr : Bool
  doorbell : Option Nat
  regions : Sp Region
  queues : Sp Queue
  waiting : List Entry
  held : List Entry
  open_ : List Nat
  fences : List (Entry × List Nat)
  takeWin : Nat
  takeCount : Nat
  over1 : Bool
  over2 : Bool
  lastExcess : Nat
  promStop : Bool
deriving DecidableEq, Repr

/-- A tenant that is not in the image (TN_STATE 0); host_en resets to 1. -/
def Tenant.none : Tenant :=
  { state := 0, quota0 := 0, quota1 := 0, quota2 := 0, use0 := 0, use1 := 0, use2 := 0, slots := 0, fill := 0,
    hostEn := true, qerr := false, doorbell := Option.none, regions := [], queues := [], waiting := [], held := [],
    open_ := [], fences := [], takeWin := 0, takeCount := 0, over1 := false, over2 := false, lastExcess := 0,
    promStop := false }

/-- A host-link port (R415). -/
structure HlPort where
  state : Nat
  speed : Nat
  width : Nat
  mem : Bool
  cache : Bool
deriving DecidableEq, Repr

/-- What a DMA read of a host region serves: a stream transfer of a core's context, a record of a command list, a
T2_WRITE, a TB_SUBMIT or a RESHARD. -/
inductive DmaUse where
  | stream (core : Nat)
  | list (id : Nat)
  | t2write (tenant : Nat) (entry : Entry)
  | submit (tenant : Nat) (entry : Entry)
  | reshard (tenant : Nat) (entry : Entry)
deriving DecidableEq, Repr

/-- An outstanding DMA read (R404). -/
structure DmaRead where
  id : Nat
  use : DmaUse
  addr : Nat
  len : Nat
  armed : Nat
deriving DecidableEq, Repr

/-- The HL_ block (R415, R416) and the host-link engine: `att` are the ports attached, `rot` is the rotating pointer of the
host-queue engine (R388, R412). -/
structure HlSt where
  inUse : Nat
  hostId : Nat
  session : Nat
  refusal : Nat
  cause : Nat
  state : Nat
  hbArmed : Nat
  ports : List HlPort
  csel : W32
  carg0 : W64
  carg1 : W64
  cres : W64
  creason : Nat
  cstate : Nat
  dma : List DmaRead
  nextDma : Nat
  att : List Nat
  rot : Nat
deriving DecidableEq, Repr

/-- R415 and R416 reset values. -/
def HlSt.reset : HlSt :=
  { inUse := 0, hostId := 0, session := 0, refusal := 0, cause := 0, state := 0, hbArmed := 0,
    ports := [⟨0, 0, 0, false, false⟩, ⟨0, 0, 0, false, false⟩], csel := 0#32, carg0 := 0#64, carg1 := 0#64,
    cres := 0#64, creason := 0, cstate := 0, dma := [], nextDma := 0, att := [], rot := 0 }

/-- A record of a watch session (R298, R315, R463): its kind, flags, job number, step, the bytes 16 to 31 of its header
and its payload. `free` says which die's ring, and how many bursts of its shares, the acknowledgment frees (R297). -/
structure WRec where
  kind : Nat
  flags : Nat
  job : Nat
  step : Nat
  hdr : List Byte
  data : List Byte
  free : Nat × Nat
deriving DecidableEq, Repr

end Sys2Proof.Machine
end

