-- ==== Sys2Proof/Machine/Msg.lean ====
section
/-!
DEFINITION. What comes from outside as operands of commands: messages of the guest die, and what a port's training meets.
-/

namespace Sys2Proof.Machine

/-- A message of the guest die (R425, R426): data for a read, with the bursts of it that the guest could not correct, numbered from the one that holds its first byte; the
status of a write; the status of a seal commit; the end of the reads of a promotion copy. -/
inductive GMsg where
  | data (bytes : List Byte) (bad : List Nat)
  | wrote (ok : Bool)
  | committed (ok : Bool)
  | copied (bad : Bool)
deriving DecidableEq, Repr

/-- What the lanes and the peer of a port report in the steps of training (R328): the lanes on which a signal is detected; the lanes that failed
equalisation; the eye margins of the 9 lanes; the order of the logical lanes; codeword lock on the active lanes; the peer's
training record; the difference of the path delays, in 1/16 ns. -/
inductive TrainEv where
  | signal (lanes : List Nat)
  | equalised (failed : List Nat)
  | margins (eyes : List Nat)
  | order (lanes : List Nat)
  | locked (ok : Bool)
  | record (node port digest mask : Nat)
  | delays (asym : Int)
deriving DecidableEq, Repr

/-- What the checks of an image slot's signature and owner certificate give; the keys are not the manual's (R441). -/
structure SlotCheck where
  sig : Bool
  cert : Bool
deriving DecidableEq, Repr

/-- What the Sprout stage and stage 1 meet (R434): the ROM digest, whether the NOR flash responds, the speed code and width that
the host ports train at, the slots' checks, the start window of what no sensor has sampled yet (R491), the digest of the steward
firmware, the die-to-die lanes that fail (by the key of their direction, and number; 64 and up are repair lanes), whether training completed, the scrub's read-back. -/
structure Stage1Rep where
  rom : Bool
  nor : Bool
  hosts : List (Nat × Nat)
  slots : SlotCheck × SlotCheck
  window : Bool
  firmware : Bool
  lanes : List (Nat × Nat)
  trained : Bool
  scrub : Bool
deriving DecidableEq, Repr

/-- What stage 2 meets (R434, R197, R225, R227): memory training, the Tuber versions that the ranks of each package report, the
compute dies with a unit that fails its self-check, the frames with a burst that fails its check. -/
structure Stage2Rep where
  trained : Bool
  versions : List (List Nat)
  failed : List Nat
  frames : List Nat
deriving DecidableEq, Repr

/-- What stage 3 meets (R434): the start window of what no sensor has sampled yet (R491), the sections whose digest differs, whether the guest die takes its firmware and is
ready, whether it reports valid tier-2 metadata, the speed code and width that the host ports train at. -/
structure Stage3Rep where
  window : Bool
  digests : List Nat
  guest : Bool
  tier2 : Bool
  hosts : List (Nat × Nat)
deriving DecidableEq, Repr

/-- What a maintenance visit meets on the held channel of a die (R213, R214, R471): the temperature codes of its ranks, the on-die
corrections reported, the steps whose training fails, the data slots that patrol scrub finds in error, with their bytes' die
offset, the codes of the service requests that fail. -/
structure ChanVisit where
  temps : List (Nat × Bool)
  failed : List Nat
  scrub : List (Nat × Ecc)
  service : List Nat
deriving DecidableEq, Repr

/-- What a maintenance visit meets on a held link (R347): the eye margins of its 9 lanes, their corrected-symbol rates in units of
10^-9, the new path difference in 1/16 ns, whether the PRBS test of the spare fails. -/
structure LinkVisit where
  port : Nat
  eyes : List Nat
  rates : List Nat
  asym : Int
  prbs : Bool
deriving DecidableEq, Repr

/-- Where a PUT, GET or ATOMIC waits (R350): its port, with the program of the context that sent it (R183; log entry 92). -/
structure PeaAt where
  port : Nat
  prog : Nat
deriving DecidableEq, Repr

/-- A frame that begins on a channel (R205): the channel of the die; the bursts of it whose cells have failed since the last frame, with
what their code words show now (R202); the corrections that each rank's on-die code has made meanwhile (R196, mode register 97). -/
structure FrameRep where
  ch : Nat
  upsets : List (Nat × Ecc)
  dece : List Nat
deriving DecidableEq, Repr

/-- A start at the head of a Tuber list: the list, and the refresh holes that the controller places in the record's hold (R242). -/
structure RecordAt where
  list : Nat
  holes : Nat
deriving DecidableEq, Repr

/-- A JOB_START (R408): its entry, and the beat-length codes that other members have reported to the steward since (R27). -/
structure JobEntry where
  entry : Entry
  told : List (Nat × Nat)
deriving DecidableEq, Repr

/-- A record of a watch session (R463): its bytes, and what the session has told of the record's job: the digest of the watched module
(R465) and the seed of its JOB_START (log entry 32). -/
structure WatchMsg where
  bytes : List Byte
  told : Nat × W64
deriving DecidableEq, Repr

/-- Samples of the sensors (R457): the number of a sensor and its reading. -/
abbrev Readings := List (Nat × Int)

end Sys2Proof.Machine
end

