-- ==== Sys2Proof/Syntax.lean ====
section
/-!
DEFINITION. The commands of the block: one constructor per row of the table of operations and events, in its order.
-/

namespace Sys2Proof

open Machine

inductive Instr where
  /-- REGISTER_WRITE (R18). A write to a register field that has no behaviour of its own sets, clears or is discarded by its access code. -/
  | registerWrite (who : Who) (width : Nat) (off : Nat) (value : Nat) (hwSet : Nat)
  /-- REGISTER_READ_CLEAR (R18). A read of an RC field returns its value and then clears it, with same-cycle hardware updates kept. -/
  | registerReadClear (who : Who) (width : Nat) (off : Nat) (hwAdd : Nat)
  /-- REGISTER_SPLIT_LOW_READ (R22). A 32-bit read of the low half of a 64-bit register latches the high half for the same requester. -/
  | registerSplitLowRead (who : Who) (off : Nat)
  /-- BEAT_START (R26). Device time reaches a beat boundary and the next beat begins. -/
  | beatStart (chans : List ChanVisit) (links : List LinkVisit) (sensors : List Nat)
  /-- SLOT_START (R88). A slot of the core's slot table begins. -/
  | slotStart (core : Nat)
  /-- FILL_YIELD (R92). A fill context that can no longer proceed yields, and a new scan passes it over. -/
  | fillYield (core : Nat)
  /-- CONTEXT_SAVED (R98). An interrupted context completes its save at the engines' boundaries. -/
  | contextSaved (core : Nat)
  /-- CONTEXT_RESTORED (R74). A context finishes its restore and its engines resume from their progress words. -/
  | contextRestored (core : Nat)
  /-- DRAIN (R104). The steward writes CP_INT.drain to save every context of a core. -/
  | drain (who : Who) (core : Nat)
  /-- RESUME (R104). The steward writes CP_INT.resume so that ticks begin again at the next slot starts. -/
  | resume (who : Who) (core : Nat)
  /-- BANK_SWITCH_REQUEST (R84). The steward writes CP_BANK.switch_req to request a program-bank switch. -/
  | bankSwitchRequest (who : Who) (core : Nat)
  /-- BANK_SWITCH_CANCEL (R84). The steward writes CP_BANK.switch_cancel to withdraw a pending switch. -/
  | bankSwitchCancel (who : Who) (core : Nat)
  /-- PROGRAM_WORD_COMMIT (R86). A write to CP_PWDATA3 commits the four held words to the word named by CP_PWADDR and advances the index. -/
  | programWordCommit (who : Who) (core : Nat) (data3 : W32)
  /-- ENGINE_DISPATCH (R72). A sequencer stalled on a full engine queue dispatches its instruction when room appears. -/
  | engineDispatch (core : Nat)
  /-- WAIT_GROUP_RELEASE (R166). An instruction held on wait_en proceeds when its arrival-flag group becomes set. -/
  | waitGroupRelease (core : Nat) (eng : Option Eng)
  /-- NOP (R78). Control instruction with no action. -/
  | nop (core : Nat) (ecc : Ecc)
  /-- JUMP (R78). Control instruction that continues at target. -/
  | jump (core : Nat) (ecc : Ecc)
  /-- BRANCH_NZ (R78). Continues at target if the named scalar register is non-zero. -/
  | branchNz (core : Nat) (ecc : Ecc)
  /-- BRANCH_Z (R78). Continues at target if the named scalar register is zero. -/
  | branchZ (core : Nat) (ecc : Ecc)
  /-- LOOP (R78). Pushes a loop count and body start, or skips the body for a count of zero. -/
  | loop (core : Nat) (ecc : Ecc)
  /-- LOOP_END (R78). Decrements the top loop count and repeats the body or pops. -/
  | loopEnd (core : Nat) (ecc : Ecc)
  /-- FENCE (R78). Waits until every engine queue of the context is empty and every issued transfer and command is complete. -/
  | fence (core : Nat) (ecc : Ecc)
  /-- FENCE_COMPLETE (R78). A waiting FENCE completes once the context's queues and outstanding work have drained. -/
  | fenceComplete (core : Nat)
  /-- TICK_END (R78). Fences and then ends the program's tick. -/
  | tickEnd (core : Nat) (ecc : Ecc)
  /-- TICK_END_RETIRE (R91). TICK_END retires, completing the tick in time or as an overrun, and s31 advances. -/
  | tickEndRetire (core : Nat)
  /-- HALT (R78). Fences and then ends the program for this job on the core. -/
  | halt (core : Nat) (ecc : Ecc)
  /-- HALT_RETIRE (R90). HALT retires and the program's slots stay idle for the rest of the job. -/
  | haltRetire (core : Nat)
  /-- READ_FLAGS (R78). Copies the context's sticky flag word into a scalar register. -/
  | readFlags (core : Nat) (ecc : Ecc)
  /-- CLEAR_FLAGS (R78). Clears the flag bits named in the immediate. -/
  | clearFlags (core : Nat) (ecc : Ecc)
  /-- MOVI (R79). Scalar move of an immediate. -/
  | movi (core : Nat) (ecc : Ecc)
  /-- ADD (R79). Scalar addition modulo 2^32. -/
  | add (core : Nat) (ecc : Ecc)
  /-- SUB (R79). Scalar subtraction modulo 2^32. -/
  | sub (core : Nat) (ecc : Ecc)
  /-- MUL (R79). Scalar multiplication keeping the low 32 bits. -/
  | mul (core : Nat) (ecc : Ecc)
  /-- AND (R79). Scalar bitwise and. -/
  | and (core : Nat) (ecc : Ecc)
  /-- OR (R79). Scalar bitwise or. -/
  | or (core : Nat) (ecc : Ecc)
  /-- XOR (R79). Scalar bitwise exclusive-or. -/
  | xor (core : Nat) (ecc : Ecc)
  /-- SHL (R79). Scalar left shift by s[src_b] mod 32. -/
  | shl (core : Nat) (ecc : Ecc)
  /-- SHR (R79). Scalar logical right shift by s[src_b] mod 32. -/
  | shr (core : Nat) (ecc : Ecc)
  /-- SLTU (R79). Scalar unsigned less-than comparison. -/
  | sltu (core : Nat) (ecc : Ecc)
  /-- ADDI (R79). Scalar addition of an immediate. -/
  | addi (core : Nat) (ecc : Ecc)
  /-- TSEQ (R121). The matrix engine accepts a tile sequence for a matrix product and runs its units. -/
  | tseq (core : Nat) (ecc : Ecc)
  /-- TSEQ_CONV (R132). The matrix engine accepts a tile sequence for a convolution by address generation. -/
  | tseqConv (core : Nat) (ecc : Ecc)
  /-- UNIT_COMPLETE (R124). A unit's output or partial record is written and, for a final unit, its arrival flags are set. -/
  | unitComplete (core : Nat)
  /-- CONV_SET (R126). Sets the output conversion state of the arrays in its mask. -/
  | convSet (core : Nat) (ecc : Ecc)
  /-- BALLAST_HOLD_EXPIRY (R137). The ballast hold time ends and the array ramps its ballast down towards gated idle. -/
  | ballastHoldExpiry (core : Nat) (array : Nat)
  /-- BALLAST_RAMP_UP (R138). A gated array ramps ballast up over the notice before a scheduled slot starts. -/
  | ballastRampUp (core : Nat) (array : Nat)
  /-- VSETSAVE (R145). Sets the context's vector save area. -/
  | vsetsave (core : Nat) (ecc : Ecc)
  /-- VSR_SET (R151). Sets the rounding record for stochastic rounding and drop-out. -/
  | vsrSet (core : Nat) (ecc : Ecc)
  /-- VLOAD (R157). Loads a tile buffer from core SRAM, widening exactly to FP32. -/
  | vload (core : Nat) (ecc : Ecc)
  /-- VSTORE (R157). Stores a tile buffer to core SRAM, converted to the named format. -/
  | vstore (core : Nat) (ecc : Ecc)
  /-- VSTORE_ARRIVAL (R151). The last row of a VSTORE with set_flags lands and its arrival is given. -/
  | vstoreArrival (core : Nat)
  /-- VADD (R152). Element-wise addition. -/
  | vadd (core : Nat) (ecc : Ecc)
  /-- VSUB (R152). Element-wise subtraction. -/
  | vsub (core : Nat) (ecc : Ecc)
  /-- VMUL (R152). Element-wise multiplication. -/
  | vmul (core : Nat) (ecc : Ecc)
  /-- VFMA (R152). Element-wise fused multiply-add. -/
  | vfma (core : Nat) (ecc : Ecc)
  /-- VMAX (R156). Element-wise maximum. -/
  | vmax (core : Nat) (ecc : Ecc)
  /-- VMIN (R156). Element-wise minimum. -/
  | vmin (core : Nat) (ecc : Ecc)
  /-- VABS (R156). Element-wise absolute value. -/
  | vabs (core : Nat) (ecc : Ecc)
  /-- VNEG (R156). Element-wise negation. -/
  | vneg (core : Nat) (ecc : Ecc)
  /-- VCOPY (R156). Element-wise copy. -/
  | vcopy (core : Nat) (ecc : Ecc)
  /-- VTRANS (R155). Transposes a tile buffer into another. -/
  | vtrans (core : Nat) (ecc : Ecc)
  /-- VDROP (R155). Keeps or drops each element by a counter-generator draw. -/
  | vdrop (core : Nat) (ecc : Ecc)
  /-- VRCP (R158). Correctly rounded reciprocal. -/
  | vrcp (core : Nat) (ecc : Ecc)
  /-- VRSQRT (R158). Correctly rounded reciprocal square root. -/
  | vrsqrt (core : Nat) (ecc : Ecc)
  /-- VSQRT (R158). Correctly rounded square root. -/
  | vsqrt (core : Nat) (ecc : Ecc)
  /-- VEXP (R158). Correctly rounded natural exponential. -/
  | vexp (core : Nat) (ecc : Ecc)
  /-- VEXP2 (R158). Correctly rounded power of two. -/
  | vexp2 (core : Nat) (ecc : Ecc)
  /-- VLOG2 (R158). Correctly rounded base-2 logarithm. -/
  | vlog2 (core : Nat) (ecc : Ecc)
  /-- VTANH (R158). Correctly rounded hyperbolic tangent. -/
  | vtanh (core : Nat) (ecc : Ecc)
  /-- VSIGMOID (R158). Correctly rounded logistic function. -/
  | vsigmoid (core : Nat) (ecc : Ecc)
  /-- VSIN (R158). Correctly rounded sine. -/
  | vsin (core : Nat) (ecc : Ecc)
  /-- VCOS (R158). Correctly rounded cosine. -/
  | vcos (core : Nat) (ecc : Ecc)
  /-- VRSUM (R153). Sequential row reduction by sum. -/
  | vrsum (core : Nat) (ecc : Ecc)
  /-- VRSUMSQ (R153). Sequential row reduction by sum of squares. -/
  | vrsumsq (core : Nat) (ecc : Ecc)
  /-- VRMAX (R153). Sequential row reduction by maximum. -/
  | vrmax (core : Nat) (ecc : Ecc)
  /-- VCSUM (R153). Sequential column reduction by sum. -/
  | vcsum (core : Nat) (ecc : Ecc)
  /-- VCSUMSQ (R153). Sequential column reduction by sum of squares. -/
  | vcsumsq (core : Nat) (ecc : Ecc)
  /-- VCMAX (R153). Sequential column reduction by maximum. -/
  | vcmax (core : Nat) (ecc : Ecc)
  /-- VR_LOAD (R148). Service sequence loads a vector register from core SRAM. -/
  | vrLoad (core : Nat) (reg : Nat) (off : Nat)
  /-- VR_STORE (R148). Service sequence stores a vector register to core SRAM. -/
  | vrStore (core : Nat) (reg : Nat) (off : Nat)
  /-- VR_FROMBUF (R148). Service sequence loads a vector register from a tile-buffer row. -/
  | vrFrombuf (core : Nat) (reg : Nat) (buf : Nat) (row : Nat)
  /-- VR_OP (R148). Service sequence runs an arithmetic opcode on vector registers. -/
  | vrOp (core : Nat) (opc : Nat) (dst : Nat) (a : Nat) (b : Nat) (c : Nat)
  /-- FARM (R168). Arms arrival-flag groups with a need and clears their arrivals and poison. -/
  | farm (core : Nat) (ecc : Ecc)
  /-- SXFER (R170). Starts a stream transfer described by a stream descriptor. -/
  | sxfer (core : Nat) (ecc : Ecc)
  /-- CHUNK_ARRIVAL (R176). A chunk of a stream transfer completes and gives one arrival to its group. -/
  | chunkArrival (core : Nat)
  /-- TRANSFER_SUSPEND (R188). A transfer reaches an element on a faulting page and suspends before it. -/
  | transferSuspend (core : Nat)
  /-- FAULT_RESOLVED (R189). The steward resolves a page fault and the suspended transfer resumes at its progress words. -/
  | faultResolved (tenant : Nat) (va : Nat)
  /-- PEA_PUT (R183). Copies a small message from local SRAM to a target core. -/
  | peaPut (core : Nat) (ecc : Ecc)
  /-- PEA_GET (R183). Copies a small message from a target core to local SRAM. -/
  | peaGet (core : Nat) (ecc : Ecc)
  /-- PEA_ADD (R183). Adds 32-bit words modulo 2^32 at a target core. -/
  | peaAdd (core : Nat) (ecc : Ecc)
  /-- PEA_ARRIVAL (R185). A Pea transfer completes and gives its arrival in issue order. -/
  | peaArrival (core : Nat) (target : Nat)
  /-- TIER1_READ (R203). A tier-1 controller serves a burst read and checks its code word. -/
  | tier1Read (who : Who) (addr : Nat) (ecc : Ecc)
  /-- TIER1_WRITE (R204). A whole-burst write stores data and a new code word. -/
  | tier1Write (who : Who) (addr : Nat) (data : Entry) (poison : Bool)
  /-- MERGED_WRITE (R204). A partial-burst write reads, merges and rewrites the burst. -/
  | mergedWrite (who : Who) (addr : Nat) (data : List Byte) (ecc : Ecc)
  /-- FRAME_START (R205). A new 128 mc channel frame begins and the grants in force are applied to it. -/
  | frameStart (die : Nat) (frame : FrameRep)
  /-- PER_BANK_REFRESH (R212). The refresh interval of a rank expires and one bank is refreshed. -/
  | perBankRefresh (die : Nat) (ch : Nat) (rank : Nat)
  /-- REFRESH_MANAGEMENT (R212). A bank's rolling activation count reaches the threshold and a refresh management command is issued. -/
  | refreshManagement (die : Nat) (ch : Nat) (rank : Nat) (bank : Nat)
  /-- MODE_REGISTER_READOUT (R212). Every 64 µs the controller reads mode register 4 of each rank and sets the refresh multiplier. -/
  | modeRegisterReadout (die : Nat) (codes : List (Nat × Bool))
  /-- PAGE_RETIRE (R221). The driver writes MC_RETIRE with go to retire a tier-1 page. -/
  | pageRetire (who : Who) (die : Nat) (page : Nat)
  /-- RETIRE_COMPLETE (R221). The retirement list write finishes and MC_RETSTAT shows done or refused. -/
  | retireComplete (die : Nat) (ok : Bool)
  /-- RETIREMENT_WRITE_TIMEOUT (R459). A retirement list write not done within 50 ms is refused with reason 0x4. -/
  | retirementWriteTimeout (die : Nat)
  /-- ZERO_FILL_COMPLETE (R223). The last channel reports the zero markers of an allocation set and the allocation completes. -/
  | zeroFillComplete
  /-- TB_LIST (R235). A core issues a Tuber command list to the controllers. -/
  | tbList (core : Nat) (ecc : Ecc)
  /-- TUBER_RECORD_START (R240). A record starts on its bank once the previous record ends, its exchange group is set and credit qualifies. -/
  | tuberRecordStart (start : RecordAt)
  /-- TPUT (R237). Copies shares from a tenant virtual range into the target banks. -/
  | tput (list : Nat)
  /-- TGET (R237). Copies shares from the target banks to a tenant virtual range. -/
  | tget (list : Nat)
  /-- TLATCH (R238). Loads latch rows of every target unit. -/
  | tlatch (list : Nat)
  /-- TMV (R244). Matrix-vector product of shares against latch rows, reduced along the chain and at the controller. -/
  | tmv (list : Nat)
  /-- TSQ (R244). FP32 sum of squares of the shares in fixed order. -/
  | tsq (list : Nat)
  /-- TUPD (R293). Optimiser update over the shares, writing new state and difference words. -/
  | tupd (list : Nat)
  /-- TARM (R237). Arms exchange groups as FARM does. -/
  | tarm (list : Nat)
  /-- TEW_ADD (R245). Element-wise A + B in the vector lanes. -/
  | tewAdd (list : Nat)
  /-- TEW_MUL (R245). Element-wise A × B in the vector lanes. -/
  | tewMul (list : Nat)
  /-- TEW_FMA (R245). Element-wise A × B + C in the vector lanes. -/
  | tewFma (list : Nat)
  /-- TEW_MAX (R245). Element-wise max(A, B) in the vector lanes. -/
  | tewMax (list : Nat)
  /-- TEW_EXP (R245). Element-wise e^(A − m) with a row value from the window. -/
  | tewExp (list : Nat)
  /-- TEW_GATE (R245). Element-wise gating A / (1 + e^−A) × B. -/
  | tewGate (list : Nat)
  /-- TEW_ROTARY (R245). Rotary encoding of pairs of A. -/
  | tewRotary (list : Nat)
  /-- TEW_CONVERT (R245). Conversion of A to the latch format with a Block 32 scale. -/
  | tewConvert (list : Nat)
  /-- TEW_ROW_MAX (R245). Row maximum of A onto the chain. -/
  | tewRowMax (list : Nat)
  /-- TEW_ROW_SUM (R245). Row sum of A onto the chain. -/
  | tewRowSum (list : Nat)
  /-- TEW_DIVIDE (R245). Division of A by a row value from the window. -/
  | tewDivide (list : Nat)
  /-- TB_LIST_COMPLETE (R246). A command list completes, writes its status and gives its arrival or completion record. -/
  | tbListComplete (list : Nat)
  /-- T2_OPEN (R259). Opens a tier-2 tensor load and allocates its pages. -/
  | t2Open (tenant : Nat) (entry : Entry)
  /-- T2_WRITE (R260). Writes whole 4 KiB units of a loading tensor exactly once. -/
  | t2Write (tenant : Nat) (entry : Entry)
  /-- T2_SEAL (R260). Asks the guest die to check and commit a loaded tensor. -/
  | t2Seal (tenant : Nat) (entry : Entry)
  /-- T2_SEAL_COMMIT (R260). The guest die reports the seal result and the tensor becomes Sealed or Absent. -/
  | t2SealCommit (tenant : Nat) (id : Nat) (ok : Bool)
  /-- T2_ABORT (R259). Ends a load in state Loading and frees its pages. -/
  | t2Abort (tenant : Nat) (entry : Entry)
  /-- T2_DELETE (R262). Deletes a Sealed or Damaged tensor after dropping any promoted copy. -/
  | t2Delete (tenant : Nat) (entry : Entry)
  /-- HEAT_EPOCH_END (R265). At the end of a heat epoch tensors are evaluated for promotion or drop and counters halved. -/
  | heatEpochEnd
  /-- PROMOTION_BEGIN (R266). The promotion engine takes the hottest queued tensor and begins its copy. -/
  | promotionBegin
  /-- PROMOTION_COPY_COMPLETE (R267). A promotion copy completes and the tensor's pages are switched to the copy. -/
  | promotionCopyComplete
  /-- QUOTA_CHANGE (R275). The driver changes a tier-1 or tier-2 quota, possibly entering the over-quota state. -/
  | quotaChange (who : Who) (tenant : Nat) (tier : Nat) (pages : Nat)
  /-- UPD_STEP (R284). Declares the context finished with step s and starts the update stages when all contexts have. -/
  | updStep (core : Nat) (ecc : Ecc)
  /-- UPD_SNAP (R301). Emits a snapshot of the job's update-only state into the difference stream. -/
  | updSnap (core : Nat) (ecc : Ecc)
  /-- UPD_APPLY (R301). Applies difference records from a tier-1 tensor to the job's update-only state. -/
  | updApply (core : Nat) (ecc : Ecc)
  /-- UPD_ADVANCE (R283). Advances the context's step register by 1 for a job without an update set. -/
  | updAdvance (core : Nat) (ecc : Ecc)
  /-- GRADIENT_RECORD_LANDED (R375). A record of a gradient span completes and the sequencer issues its TSQ. -/
  | gradientRecordLanded (slot : Nat) (shard : Nat) (entry : Nat) (record : Nat)
  /-- GLOBAL_NORM_COMPLETE (R377). All shard partials have arrived and each member forms G in ascending shard order. -/
  | globalNormComplete (slot : Nat)
  /-- UPDATE_STAGE_END (R287). The last TUPD of the step completes, the step state is written and done arrivals are delivered. -/
  | updateStageEnd (slot : Nat)
  /-- SEG_ACK (R300). The watching spare acknowledges a SEG record and its ring space is freed. -/
  | segAck (slot : Nat)
  /-- END_ACK (R300). The spare acknowledges END with matching count and digest, sealing the step. -/
  | endAck (slot : Nat) (count : Nat) (digest : Nat)
  /-- COMPRESS_BLOCK (R311). A compressor turns 256 FP32 values into a block and updates their residuals. -/
  | compressBlock (die : Nat) (ctl : Nat)
  /-- EXPAND_BLOCK (R318). An expander decodes a block and adds it in shard order to the owned sum. -/
  | expandBlock (die : Nat) (ctl : Nat)
  /-- PORT_TRAINING (R328). A port runs full-rate training steps and comes up at the negotiated version. -/
  | portTraining (port : Nat) (ev : TrainEv)
  /-- TRAINING_STEP_TIMEOUT (R328). A training step exceeds its limit and the port falls back to beacon mode. -/
  | trainingStepTimeout (port : Nat)
  /-- TRAINING_RETRY (R328). One second after a failed training step the port tries training again. -/
  | trainingRetry (port : Nat)
  /-- DATA_FLIT (R334). A data flit is accepted in order or discarded with a nack. -/
  | dataFlit (port : Nat) (fixed : Option Nat) (bytes : List Byte)
  /-- CONTROL_FLIT (R332). A control flit delivers acks, credits, time stamps and tree acknowledgments. -/
  | controlFlit (port : Nat) (fixed : Option Nat) (frac : Nat) (bytes : List Byte)
  /-- ACK_TIMEOUT (R334). No ack advance for 4 µs causes a replay from the oldest outstanding flit. -/
  | ackTimeout (port : Nat)
  /-- FAST_RETRAIN (R348). An active lane loses lock and the spare replaces it in a fast retrain. -/
  | fastRetrain (port : Nat) (lane : Nat)
  /-- FAST_RETRAIN_TIMEOUT (R459). A fast retrain not complete in 20 µs takes the port down. -/
  | fastRetrainTimeout (port : Nat)
  /-- PUT (R350). A PUT message is checked and delivered at its target core. -/
  | put (from_ : PeaAt)
  /-- GET (R350). A GET message is checked and answered with GET_RESP. -/
  | get (from_ : PeaAt)
  /-- GET_RESP (R350). A GET_RESP delivers the data read to the requester. -/
  | getResp (port : Nat)
  /-- ATOMIC (R350). An ATOMIC message adds 32-bit words modulo 2^32 at the target. -/
  | atomic (from_ : PeaAt)
  /-- COLL_SEG (R371). A collective segment request or answer is received and placed. -/
  | collSeg (port : Nat)
  /-- ACK (R350). An ACK confirms delivery of a PUT, ATOMIC or COLL_SEG to its sender. -/
  | ack (port : Nat)
  /-- TIME (R350). A TIME message is discarded. -/
  | time (port : Nat)
  /-- FENCE_NOTICE (R361). A FENCE with a newer epoch stops the module, logs, seals crumbs and restarts it. -/
  | fenceNotice (port : Nat)
  /-- BEACON (R355). A BEACON is forwarded down the time tree. -/
  | beacon (port : Nat)
  /-- BEACON_ACK (R355). A BEACON_ACK count from a child is recorded by its parent. -/
  | beaconAck (port : Nat)
  /-- SUSPECT (R355). The leader records a neighbour's report that a node is silent. -/
  | suspect (port : Nat)
  /-- PROPOSE (R359). A member receives a proposed view for the next epoch and begins its drain. -/
  | propose (port : Nat)
  /-- DRAINED (R359). A DRAINED count from a child reaches its parent or the proposer. -/
  | drained (port : Nat)
  /-- INSTALL (R359). The next epoch takes effect and injection resumes. -/
  | install (port : Nat)
  /-- JOIN (R357). A module asks to enter the system as a spare. -/
  | join (port : Nat)
  /-- LEAVE (R357). A module announces that it is leaving, an immediate declaration. -/
  | leave (port : Nat)
  /-- DRAIN_MISS (R359). A member names to the proposer a child that did not report DRAINED in time. -/
  | drainMiss (port : Nat)
  /-- BEACON_TICK (R355). The leader sends a BEACON at each multiple of 100,000 ns of device time. -/
  | beaconTick
  /-- BEACON_ACK_DEADLINE (R355). The BEACON_ACK deadline for a module's depth expires and it reports what it has. -/
  | beaconAckDeadline
  /-- LINK_SILENT (R355). No control flit for 200 µs makes a link silent, and SUSPECT is sent when all links of a neighbour are. -/
  | linkSilent (port : Nat)
  /-- LEASE_EXPIRY (R356). No BEACON of the current epoch for 1 ms isolates the module. -/
  | leaseExpiry
  /-- DECLARATION (R356). 2 ms of silence after every neighbour suspects a node makes the leader declare it dead. -/
  | declaration (node : Nat)
  /-- SUCCESSION (R356). 500 µs without BEACON makes the next-lowest active member propose a view without the leader. -/
  | succession
  /-- DRAIN_DONE (R359). A member's outstanding messages are all settled and its own drain is done. -/
  | drainDone
  /-- DRAINED_DEADLINE (R359). The wait for children's DRAINED expires and the member reports its count. -/
  | drainedDeadline
  /-- DRAIN_MESSAGE_TIMEOUT (R359). A message outstanding for 1 ms during a drain is abandoned and reported lost. -/
  | drainMessageTimeout
  /-- PROPOSAL_TIMEOUT (R359). Counts not covering the new view within 2 ms make the proposer propose again. -/
  | proposalTimeout
  /-- FRAGMENT_TIMEOUT (R358). A PROPOSE whose fragments are not all present within 1 ms counts as not received. -/
  | fragmentTimeout
  /-- HELD_FRAME_TIMEOUT (R360). Frames held for a future epoch are discarded when INSTALL has not arrived within 2 ms. -/
  | heldFrameTimeout
  /-- OUT_OF_TIME (R354). An offset beyond 20 ns for 1 ms makes the module out of time and taken over. -/
  | outOfTime
  /-- GATHER (R372). Issues an all-gather instance. -/
  | gather (core : Nat) (ecc : Ecc)
  /-- RSCAT (R373). Issues a reduce-scatter instance. -/
  | rscat (core : Nat) (ecc : Ecc)
  /-- ALLRED (R376). Issues an all-reduce instance. -/
  | allred (core : Nat) (ecc : Ecc)
  /-- PERM (R383). Issues a permutation instance, including the per-step re-shard check. -/
  | perm (core : Nat) (ecc : Ecc)
  /-- COLLECTIVE_COMPLETE (R378). An issue completes, writes its status record and gives one arrival. -/
  | collectiveComplete (id : Nat)
  /-- ATTACH (R394). The driver writes HL_ATTACH with go to attach. -/
  | attach (who : Who) (value : W32)
  /-- DETACH (R395). The driver writes HL_ATTACH with detach set. -/
  | detach (who : Who) (value : W32)
  /-- HEARTBEAT (R395). A write to HL_HBEAT restarts the heartbeat timer. -/
  | heartbeat (who : Who)
  /-- HEARTBEAT_TIMEOUT (R395). The heartbeat timer expires and the module detaches. -/
  | heartbeatTimeout
  /-- HOST_LINK_DOWN (R395). Both host-link ports lose link and the module detaches. -/
  | hostLinkDown
  /-- HOST_PORT_RESET (R424). PERST# or a hot reset retrains one host-link port. -/
  | hostPortReset (port : Nat) (speed : Nat) (width : Nat)
  /-- HREG (R416). Mailbox registers a host region. -/
  | hreg (who : Who)
  /-- DREG (R416). Mailbox registers a device region. -/
  | dreg (who : Who)
  /-- RREL (R416). Mailbox releases a region once its users complete. -/
  | rrel (who : Who)
  /-- DBELL (R416). Mailbox sets the tenant's doorbell line. -/
  | dbell (who : Who)
  /-- QSET (R397). Mailbox sets a queue ring and returns its restart indices. -/
  | qset (who : Who)
  /-- QRESET (R416). Mailbox resets a queue out of the error state. -/
  | qreset (who : Who)
  /-- DOORBELL (R406). A host store to the doorbell line is read again and its indices checked. -/
  | doorbell (tenant : Nat) (line : Entry)
  /-- JOB_START (R408). Host command that starts a job of the image with a seed. -/
  | jobStart (tenant : Nat) (job : JobEntry)
  /-- JOB_STOP (R408). Host command that retires a job's contexts and frees its pages. -/
  | jobStop (tenant : Nat) (entry : Entry)
  /-- FENCE_COMMAND (R408). Host command that completes when every earlier command of the tenant has. -/
  | fenceCommand (tenant : Nat) (entry : Entry)
  /-- TB_SUBMIT (R408). Host command that submits a Tuber command list from a region. -/
  | tbSubmit (tenant : Nat) (entry : Entry)
  /-- RESHARD (R383). Host command that requests a new shard map at step s_a. -/
  | reshard (tenant : Nat) (entry : Entry)
  /-- HQ_POST (R411). Posts a 64 B entry to a device-to-host queue. -/
  | hqPost (core : Nat) (ecc : Ecc)
  /-- HQ_TAKE (R411). Takes the next entry of a host-to-device queue. -/
  | hqTake (core : Nat) (ecc : Ecc) (entry : Entry)
  /-- HQ_RESUME (R411). A waiting HQ_POST or HQ_TAKE proceeds when the shadow has room or an entry arrives. -/
  | hqResume (core : Nat) (entry : Entry)
  /-- PLACEMENT_WRITE (R413). An adapter's posted write into BAR 2 is accepted or discarded. -/
  | placementWrite (requester : Nat) (off : Nat) (data : List Byte)
  /-- PLACEMENT_NOTIFY (R413). A write to the notify line posts a placement notice once earlier writes are accepted. -/
  | placementNotify (requester : Nat) (off : Nat) (data : List Byte)
  /-- CXL_MEM_ACCESS (R404). A host CXL.mem access to a device region is served or returns poison. -/
  | cxlMemAccess (port : Nat) (off : Nat) (data : Option Entry) (poison : Bool)
  /-- HOST_DMA_COMPLETE (R404). A DMA read of a host region completes, delivering data or poison. -/
  | hostDmaComplete (id : Nat) (data : List Byte) (poison : Bool)
  /-- HOST_DMA_TIMEOUT (R404). A DMA read not answered within 50 ms delivers poison. -/
  | hostDmaTimeout (id : Nat)
  /-- POWER_GOOD (R421). Internal power-good is asserted and a cold start begins. -/
  | powerGood
  /-- START_STAGE_1 (R434). Stage 1 loads steward firmware, trains die-to-die links and scrubs SRAM. -/
  | startStage1 (rep : Stage1Rep)
  /-- START_STAGE_2 (R434). Stage 2 trains memory, checks Tuber units and writes and checks tier 1. -/
  | startStage2 (rep : Stage2Rep)
  /-- START_STAGE_3 (R434). Stage 3 applies the image, starts the guest, mounts tier 2 and raises links. -/
  | startStage3 (rep : Stage3Rep)
  /-- STAGE_LIMIT_TIMEOUT (R459). A start stage misses its limit and the start fails. -/
  | stageLimitTimeout (stage : Nat)
  /-- WATCHDOG_TIMEOUT (R459). The steward watchdog expires after 100 ms without service. -/
  | watchdogTimeout (armed : Nat)
  /-- REFERENCE_LOSS (R423). The reference clock is lost or leaves its window and the module stops and resets. -/
  | referenceLoss (armed : Nat)
  /-- D2D_LINK_FAULT (R419). A die-to-die module exceeds its replay rate or loses lane lock. -/
  | d2dLinkFault (link : Nat) (wing : Nat) (dir : Nat) (replays : Nat)
  /-- GUEST_MESSAGE (R426). A message from the guest die is checked by the firewall and delivered. -/
  | guestMessage (tag : Nat) (msg : GMsg)
  /-- GUEST_COMMAND_TIMEOUT (R426). A guest read, write or seal is not answered in time and is retried or failed. -/
  | guestCommandTimeout (tag : Nat)
  /-- GUEST_READY (R427). The guest die reports ready and outstanding commands are resent. -/
  | guestReady
  /-- GUEST_READY_TIMEOUT (R427). No ready message within 2 s counts as a further guest reset. -/
  | guestReadyTimeout
  /-- STATUS (R454). SMBus command that reads start, Sprout and image status and clears alert_lost. -/
  | status
  /-- NOR_OPEN (R454). SMBus command that erases an image slot for writing. -/
  | norOpen (slot : Nat)
  /-- NOR_WRITE (R454). SMBus command that programs bytes of the open slot. -/
  | norWrite (off : Nat) (data : List Byte)
  /-- NOR_CLOSE (R454). SMBus command that runs the image check and marks the slot pending. -/
  | norClose (check : SlotCheck) (bad : List Nat)
  /-- RELEASE (R439). SMBus command that clears the ledger and resets a module held in Sprout mode. -/
  | release
  /-- RESET (R454). SMBus command that performs a module reset. -/
  | reset
  /-- TEST_UNLOCK (R430). SMBus command that unlocks the test port in Sprout mode with a signed record. -/
  | testUnlock (record : List Byte) (sigOk : Bool)
  /-- LOG_READ (R454). SMBus command that returns one log ring slot and marks it read. -/
  | logRead (slot : Nat)
  /-- IDCODE (R429). Test instruction that selects the identification register. -/
  | idcode
  /-- SAMPLE_PRELOAD (R429). Test instruction that samples or preloads the boundary scan. -/
  | samplePreload (pins : List Bool)
  /-- EXTEST (R429). Test instruction that drives the connector pins when unlocked. -/
  | extest
  /-- DIE_WRAPPER_SELECT (R429). Test instruction that selects IEEE 1838 die wrappers when unlocked. -/
  | dieWrapperSelect
  /-- INSTRUMENT_ACCESS (R429). Test instruction that reaches IEEE 1687 instruments. -/
  | instrumentAccess (inst : Nat)
  /-- BYPASS (R429). Test instruction that selects the bypass register. -/
  | bypass
  /-- TEST_RESET (R424). TRST_N resets the test access port without affecting function. -/
  | testReset
  /-- SENSOR_SAMPLE (R457). Every 1 ms each sensor is sampled, filtered and judged for plausibility. -/
  | sensorSample (readings : Readings)
  /-- INPUT_SAMPLE (R456). Every 10 µs the 54 V input and rails are checked against their windows. -/
  | inputSample (mv : Nat) (rail : Option (Int × Int))
  /-- POWER_LOSS (R479). The input below 45.0 V for 10 µs runs the power-loss sequence. -/
  | powerLoss
  /-- CRUMB_SEAL_TIMEOUT (R459). A crumb seal not complete in 8 ms is abandoned and the previous slot stands. -/
  | crumbSealTimeout
  /-- OVERVOLTAGE_DISCONNECT (R489). The input above 62.0 V for 10 µs is disconnected and the power-loss sequence runs from hold-up. -/
  | overvoltageDisconnect
  /-- MOD_EN_LOW (R492). MOD_EN low for 10 µs runs the power-loss sequence and holds the module in reset. -/
  | modEnLow
  /-- ON_TIME_TICK (R433). Each further 60 s of device time appends a record to the on-time ring. -/
  | onTimeTick
  /-- WATCH_RECORD_ACK (R463). The watcher acknowledges an escrow, residual or difference record on the watch session. -/
  | watchRecordAck
  /-- WATCH_ACK_TIMEOUT (R459). A watch record unacknowledged for 50 ms makes the watcher count as failed. -/
  | watchAckTimeout
  /-- TAKEOVER_TIMEOUT (R459). A takeover not complete 5 s after declaration is logged and continues. -/
  | takeoverTimeout
  /-- PLANNED_TAKEOVER_TIMEOUT (R470). 10 s after an image is closed an active module sends LEAVE without waiting for an EDEC. -/
  | plannedTakeoverTimeout
  /-- FULL_MODULE_TEST (R472). A spare that has rejoined runs the full-module test before any watch is assigned. -/
  | fullModuleTest
  /-- BEACON_MODE_TIMEOUT (R459). A port not in beacon mode 10 ms after power-good is logged with reason 0x1 and retried. -/
  | beaconModeTimeout (port : Nat)
  /-- LEADER_LEASE_EXPIRY (R356). A leader that has had no BEACON_ACKs from a majority of the view for 1 ms isolates itself. -/
  | leaderLeaseExpiry
  /-- WATCH_SESSION_RECORD (R463). The watching spare receives a difference, residual or escrow record, checks its crc, holds it and acknowledges it or requests it again. -/
  | watchSessionRecord (node : Nat) (msg : WatchMsg)
  /-- CRUMB_SEAL_COMPLETE (R477). A crumb seal finishes writing its slot, after which the fenced or faulted module restarts or the power-loss sequence ends. -/
  | crumbSealComplete
  /-- GUEST_RESET_RELEASE (R427). After 1 ms in reset the guest die is released and its firmware reloaded, arming the 2 s ready timeout. -/
  | guestResetRelease
  /-- HOLD_UP_BOOST_COMPLETE (R490). The hold-up store reaches 80 V, PW_HOLDUP.charged is set and the store's capacitance is measured and judged. -/
  | holdUpBoostComplete (energy : Nat)
  /-- P3V3_AUX_RISE (R488). P3V3_AUX rises, the address straps are read and the SMBus target and FRU memory begin to answer. -/
  | p3v3AuxRise (straps : Nat)
  /-- JOIN_BATCH_INTERVAL (R361). The leader proposes an epoch change that admits the joiners it has batched, at most once in 10 ms. -/
  | joinBatchInterval
  /-- FULL_MODULE_TEST_COMPLETE (R472). The full-module test ends and the module becomes an available spare or stays out of watch assignment. -/
  | fullModuleTestComplete (ok : Bool)
  /-- COMMAND_TAKE_WINDOW (R412). A new 1 µs window begins and the host-queue engine takes further commands that the previous window's limit held back. -/
  | commandTakeWindow
deriving DecidableEq, Repr

end Sys2Proof
end

