-- ==== Sys2Proof/Decode.lean ====
section
/-!
DEFINITION. Words that spell commands. No row of the table of operations and events has bits, so no word spells one;
instruction words of the cores are read by the sequencer (Machine/Sequencer.lean, Machine/Legal.lean).
-/

namespace Sys2Proof

/-- The command that a word of `nbits` bits spells: none, since no row of the table gives bits. -/
def decodeTableWord (_nbits _w : Nat) : Option Instr := none

end Sys2Proof
end

