-- ==== Sys2Proof/Machine/Legal.lean ====
section
/-!
DEFINITION. Which instruction words are legal (fault 0x01 of R102): classes, opcodes and reserved bits.
-/

namespace Sys2Proof.Machine

/-! Field masks of the control and scalar payloads (R78). -/

def mTarget : Nat := 0x1FFF
def mDst : Nat := 0x1F
def mSrcA : Nat := 0x3E0
def mSrcB : Nat := 0x7C00
def mSreg : Nat := 0x1F0000
def mImm : Nat := 0xFFFFFFFF * 2 ^ 64
def mImm7 : Nat := 0x7F * 2 ^ 64

/-- Whether every payload bit outside a mask is zero. -/
def within (mask pl : Nat) : Bool := (pl ||| mask) == mask

/-- Whether every payload bit from `lo` up is zero, to bit 95. -/
def zeroFrom (lo pl : Nat) : Bool := pl / 2 ^ lo == 0

def ctlTarget (w : IWord) : Nat := field 12 0 w.pl
def ctlSreg (w : IWord) : Nat := field 20 16 w.pl
def ctlImm (w : IWord) : W32 := BitVec.ofNat 32 (field 95 64 w.pl)
def scDst (w : IWord) : Nat := field 4 0 w.pl
def scA (w : IWord) : Nat := field 9 5 w.pl
def scB (w : IWord) : Nat := field 14 10 w.pl

/-- R78: control opcodes and their reserved bits; s31 is no destination (R75). -/
def ctlLegal (w : IWord) : Bool :=
  match w.opc with
  | 0x00 => within 0 w.pl
  | 0x01 => within mTarget w.pl
  | 0x02 => within (mTarget ||| mSreg) w.pl
  | 0x03 => within (mTarget ||| mSreg) w.pl
  | 0x04 => within (mTarget ||| mSreg ||| mImm) w.pl && (ctlImm w == 0#32 || ctlSreg w == 0)
  | 0x05 => within 0 w.pl
  | 0x06 => within 0 w.pl
  | 0x07 => within 0 w.pl
  | 0x08 => within 0 w.pl
  | 0x09 => within mSreg w.pl && ctlSreg w != 31
  | 0x0A => within mImm7 w.pl
  | _ => false

/-- R79: scalar opcodes and their reserved bits; s31 is no destination (R75). -/
def scLegal (w : IWord) : Bool :=
  scDst w != 31 &&
  (match w.opc with
    | 0x00 => within (mDst ||| mImm) w.pl
    | 0x0A => within (mDst ||| mSrcA ||| mImm) w.pl
    | o => decide (1 ≤ o) && decide (o ≤ 9) && within (mDst ||| mSrcA ||| mSrcB) w.pl)

/-- R152: vector opcodes that a tenant program may hold; 0x40 to 0x43 are service opcodes (R148). -/
def veOpcode (o : Nat) : Bool :=
  decide (o ≤ 3) || (decide (0x10 ≤ o) && decide (o ≤ 0x1A)) || (decide (0x20 ≤ o) && decide (o ≤ 0x29)) ||
    (decide (0x30 ≤ o) && decide (o ≤ 0x35))

/-- Opcodes and reserved payload bits of the engine classes (R120, R125, R168, R170, R182, R235, R282, R369, R411). The
payload of the vector class is checked at acceptance (R163). -/
def engLegal (w : IWord) : Bool :=
  match w.cls, w.opc with
  | 2, o => decide (o ≤ 1) && field 31 24 w.pl == 0 && zeroFrom 74 w.pl
  | 3, o => o == 0 && zeroFrom 28 w.pl
  | 4, o => veOpcode o
  | 5, 0 => zeroFrom 35 w.pl
  | 5, 1 => zeroFrom 30 w.pl
  | 6, o => decide (o ≤ 2) && zeroFrom 89 w.pl
  | 7, o => o == 0 && zeroFrom 56 w.pl
  | 8, o => decide (o ≤ 3) && zeroFrom 73 w.pl
  | 9, o => decide (o ≤ 1) && zeroFrom 37 w.pl
  | 10, 0 => zeroFrom 58 w.pl
  | 10, 2 => field 25 15 w.pl == 0 && zeroFrom 82 w.pl
  | 10, o => decide (o ≤ 3) && field 25 15 w.pl == 0 && zeroFrom 58 w.pl
  | _, _ => false

/-- Whether the sequencer takes a word as an instruction (R76, R77, R78, R102 code 0x01). -/
def wordLegal (w : IWord) : Bool :=
  w.rsvd == 0 &&
  (match w.cls with
    | 0 => ctlLegal w
    | 1 => scLegal w
    | _ => engLegal w)

end Sys2Proof.Machine
end

