-- ==== Sys2Proof/Config.lean ====
section
/-!
DEFINITION. The free values: what the manual leaves open. Each is an opaque constant without a body, applied to the
counter `free` of the state or to the operands it depends on, so that every statement holds whatever it is.
-/

namespace Sys2Proof.Config

/-- Cycles by which MX_BALCYC and MX_GATECYC have advanced (R142): the model keeps no core-cycle timing. -/
opaque ballastCycles : Nat → BitVec 64

/-- The line of text that the steward console sends for a log record, by the record's 32 bytes (R487 leaves its form open). -/
opaque consoleText : List Byte → String

/-- Where the allocator starts to look for a free frame of a die (R257 leaves the frame open). -/
opaque frameChoice : Nat → Nat

/-- Where the guest die starts to look for free tier-2 pages (R259 leaves the pages open). -/
opaque flashChoice : Nat → Nat

/-- Virtual address at which the steward maps a tensor or region (R258, R416 leave it to the steward). -/
opaque virtualChoice : Nat → Nat

/-- HDM offset and BAR 2 offset of a device region (R416 leaves them open). -/
opaque hdmChoice : Nat → Nat
opaque bar2Choice : Nat → Nat

/-- Which entry of a full translation cache is replaced (R179 leaves it open). -/
opaque cacheVictim : Nat → Nat

/-- The reason code of event 0x82 for a cause (R103 and R410 give no list). -/
opaque stopReason : Nat → BitVec 16

/-- A word of CP_PWDATA0 to CP_PWDATA2 committed without having been written since the commit before (R86). -/
opaque unheldWord : Nat → BitVec 32

/-- At which row an interruption stops the youngest vector instruction (R100: between two of its rows), and how far it is when a
register shows it (R164). -/
opaque veRows : Nat → Nat

/-- Which pipes of the vector engine hold an instruction (R164): the model keeps no core-cycle timing. -/
opaque veBusy : Nat → Nat → Bool

/-- A partial accumulator of a lane that a column reduction does not process (R145 names 96). -/
opaque idleLane : Nat → Nat → BitVec 32

/-- How an activity level that is no whole number of sixteenths is rounded: down or up (R137 leaves it open). -/
opaque levelUp : Nat → Nat → Bool

/-- Lanes of a VR_OP result whose place R148 does not state. -/
opaque serviceLane : Nat → Nat → BitVec 32

/-- The host-link port that carries the posted writes and reads of a host region (R400 leaves it open). -/
opaque hostPort : Nat → Nat

/-- A scale byte that a full scale burst has no room for (R234). -/
opaque tuberScale : Nat → Nat

/-- The shard slot that a context of a program on a core is bound to (R366 names the binding, no rule its form). -/
opaque shardSlot : Nat → Nat → Nat

/-- The package's rolling activation threshold (R212 names it, no rule its value), which is at least one activation. -/
opaque rfmFree : Nat
def rfmThreshold : Nat := rfmFree + 1

/-- The range that R368 calls the partner range of a reduce-scatter's dst_va: where the leaf begins. -/
opaque partnerRange : Nat → BitVec 48

/-- The filtered offset of the offsets of the last 1 ms (R352 does not state the filter). -/
opaque timeFilter : List (Nat × Int) → Int

/-- A refusal code that no table of the manual lists, for a cause (R383, R408). -/
opaque refusalCode : Nat → BitVec 8

/-- First window of a kind-10 directory entry of a tenant, by identifier (R445 does not say where its windows lie). -/
opaque windowPlace : Nat → Nat → Nat

/-- Serial number of the module, of which ten decimal digits count (R499), and its date of manufacture, year and ISO week. -/
opaque serial : Nat
opaque made : Nat × Nat

/-- Range of a sensor: its lowest reading, and how far its highest lies above it (R457 leaves the range to the sensor). -/
opaque sensorRange : Nat → Int × Nat

/-- The floor of an eye margin (R347 names it, no rule its value). -/
opaque eyeFloor : Nat

/-- R353: whether the link between two nodes of the route to the time root, other than this module's own link, runs at
version 1. -/
opaque hopVersion1 : Nat → Nat → Bool

end Sys2Proof.Config
end

