-- ==== Sys2Proof/Machine/MemTypes.lean ====
section
/-!
DEFINITION. State of the tier-1 controllers and the allocator (chapter 07) and of tier 2 (chapter 09). Plain data only.
-/

namespace Sys2Proof.Machine

/-- A die channel: the open row of each bank, numbered from 1, and the activations since its last refresh management (R212); the burst
slots of the frame in progress that are left (R205); vendor mode register 97 of each rank (R196); the rank that CA retraining took
last; maintenance visits and their carried steps (R213), patrol scrub (R214), training failures (R219), refresh (R212), frames (R205),
correctable errors of the current 1 ms window (R215) and queued service requests (R471). -/
structure ChSt where
  open_ : Sp Nat
  left : Nat
  mr97 : List Nat
  caRank : Nat
  visits : Nat
  carried : List Nat
  scrub : Nat
  passes : Nat
  temp : List Nat
  baseTemp : List Nat
  fails : Sp Nat
  mult2 : List Bool
  nextBank : List Nat
  raa : Sp Nat
  frame : Nat
  granted : Nat
  ceWin : Nat
  ceCount : Nat
  reqs : List Nat
deriving DecidableEq, Repr

/-- A channel after a module reset. -/
def ChSt.reset : ChSt :=
  { open_ := [], left := 64, mr97 := [0, 0, 0, 0], caRank := 0, visits := 0, carried := [], scrub := 0, passes := 0, temp := [0, 0, 0, 0], baseTemp := [0, 0, 0, 0], fails := [],
    mult2 := [false, false, false, false], nextBank := [0, 0, 0, 0], raa := [], frame := 0, granted := 0, ceWin := 0,
    ceCount := 0, reqs := [] }

/-- A quarantine-list entry (R218, R226). -/
structure QEnt where
  page : Nat
  cause : Nat
  listed : Bool
deriving DecidableEq, Repr

/-- A request to a tier-1 controller that waits (R95, R249): a read of a burst, a write of a whole one, a merge. -/
inductive MemAcc where
  | read (who : Who) (addr : Nat) (ecc : Ecc)
  | write (who : Who) (addr : Nat) (data : Entry) (poison : Bool)
  | merge (who : Who) (addr : Nat) (data : List Byte) (ecc : Ecc)
deriving DecidableEq, Repr

/-- The MC_ block of a die (R226) with its channels. `errs` is what the code words of its bursts show where they are not clean (R202:
the check bits against the burst), by burst number; `zeros` the bursts whose zero marker is set, as ranges that rise and do not
touch; `met` the errors that reads have met and that are to be handled (R215, R216): the burst and the cause; `waiting` the requests
that wait for a held channel or bank; `startList` the pages that the retirement list named at start (R220). -/
structure McSt where
  errs : Sp Ecc
  zeros : List (Nat × Nat)
  met : List (Nat × Nat × Ecc)
  waiting : List MemAcc
  ready : Bool
  lowest : Nat
  ce : W32
  ue : W32
  poisonRd : W32
  dece : W32
  eValid : Bool
  eCause : Nat
  eAddr : Nat
  startList : List Nat
  quar : List QEnt
  qIndex : Nat
  retState : Nat
  retReason : Nat
  retPage : Option Nat
  retArmed : Nat
  retDest : Option Nat
  zeroing : Bool
  maintCnt : W32
  chans : Sp ChSt
deriving DecidableEq, Repr

/-- R226 reset values. -/
def McSt.reset : McSt :=
  { startList := [], errs := [], zeros := [], met := [], waiting := [], ready := false, lowest := 0, ce := 0#32, ue := 0#32, poisonRd := 0#32, dece := 0#32, eValid := false, eCause := 0,
    eAddr := 0, quar := [], qIndex := 0, retState := 0, retReason := 0, retPage := none, retArmed := 0, retDest := none,
    zeroing := false, maintCnt := 0#32, chans := [] }

/-- What a tier-1 frame is used for: a tensor of the image's directory, a retention entry, a promoted copy of a tier-2
tensor, the shadow of a device-to-host queue, page `page` of the part of a sharded tensor in a shard slot, the step
state or the request table of a job slot, or (of no tenant) the copy of a page that is being retired. -/
inductive FrameUse where
  | tensor (id : Nat) (rw : Bool)
  | retention (layer : Nat)
  | copy (t2 : Nat)
  | part (id slot page : Nat)
  | stepState (job : Nat)
  | requests (job : Nat)
  | shadow (queue : Nat)
  | moveTo (page : Nat)
deriving DecidableEq, Repr

/-- A tier-1 frame of 2 MiB: its owner, and the marks of quarantine (R217) and retirement (R221). -/
structure Frame where
  owner : Option (Nat × Nat × FrameUse)
  quar : Bool
  withdrawn : Bool
  pend : Bool
deriving DecidableEq, Repr

/-- A free frame. -/
def Frame.free : Frame := ⟨none, false, false, false⟩

/-- States of a tier-2 tensor (R258). -/
inductive T2State where
  | absent | loading | sealing | sealed | damaged | deleting
deriving DecidableEq, Repr

/-- R258 state codes. -/
def T2State.code : T2State → Nat
  | .absent => 0 | .loading => 1 | .sealing => 2 | .sealed => 3 | .damaged => 4 | .deleting => 5

/-- A tier-2 tensor (R258 to R268): its pages, the units that a T2_WRITE has taken, those that the guest die has stored, whether all
were when its T2_SEAL came, the CRC-32 and the entry of its T2_SEAL, heat by page,
and the frames of a promoted copy. -/
structure T2Tensor where
  state : T2State
  size : Nat
  va : Nat
  pages : List Nat
  written : Sp Bool
  stored : Sp Bool
  whole : Bool
  crc : Nat
  sealCmd : Entry
  cls : Nat
  heat : Sp Nat
  copy : List Nat
deriving DecidableEq, Repr

/-- An absent tensor. -/
def T2Tensor.none : T2Tensor := ⟨.absent, 0, 0, [], [], [], false, 0, 0#512, 0, [], []⟩

/-- The tiers block and the promotion engine (R264 to R277). `epoch` is the beat at which the heat epoch in progress began. -/
structure TierSt where
  mounted : Bool
  epoch : Nat
  admitting : Bool
  heatExp : Nat
  promote : Nat
  drop : Nat
  promEnable : Bool
  reserve : Nat
  promMax : Nat
  qsel : Nat
  promotions : W32
  drops : W32
  queue : List (Nat × Nat)
  copying : Option (Nat × List Nat)
deriving DecidableEq, Repr

/-- R277 reset values. -/
def TierSt.reset : TierSt :=
  { mounted := false, epoch := 0, admitting := false, heatExp := 2, promote := 0x100, drop := 0x20,
    promEnable := true, reserve := 0x40, promMax := 0x20, qsel := 0, promotions := 0#32, drops := 0#32, queue := [],
    copying := none }

end Sys2Proof.Machine
end

