-- ==== Sys2Proof/Machine/SysTypes.lean ====
section
/-!
DEFINITION. State of the power and thermal controller (R456, R457, R460, R484, R500). Plain data only.
-/

namespace Sys2Proof.Machine

/-- A sensor (R457): its last plausible samples, newest first, and how many implausible samples came in a row. -/
structure Sensor where
  good : List Int
  bad : Nat
  failed : Bool
deriving DecidableEq, Repr

/-- A sensor after a reset. -/
def Sensor.reset : Sensor := ⟨[], 0, false⟩

/-- The power and thermal controller. `level` is 0 to 4; `leave` is the device time from which the condition to leave
the level has held; `hot` that from which P_100 > 2,000 W has held at level 1; `surge` that from which P > 2,400 W has
held; `vinLow`, `vinOut` and `railOut` those of R456. -/
structure PmSt where
  level : Nat
  leave : Option Nat
  hot : Option Nat
  surge : Option Nat
  vinLow : Option Nat
  vinHigh : Option Nat
  vinOut : Option Nat
  vinBad : Bool
  railOut : Option Nat
  sensors : Sp Sensor
  powers : List Nat
  tripHold : Bool
  vin : Nat
  watts : Nat
  peak : Nat
  energy : Nat
  charged : Bool
  degraded : Bool
deriving DecidableEq, Repr

/-- What an outstanding command to the guest die does (R426): a read for a stream transfer of a core or for a Tuber list, a write of a
T2_WRITE entry, a seal commit, or the reads of a promotion copy. -/
inductive GKind where
  | read (core addr len : Nat)
  | listRead (list addr len : Nat)
  | write (tenant : Nat) (entry : Entry)
  | seal (key : Nat)
  | copy (key : Nat)
deriving DecidableEq, Repr

/-- An outstanding command, with the time it was armed at and whether it has been sent again. -/
structure GCmd where
  tag : Nat
  kind : GKind
  armed : Nat
  retried : Bool
deriving DecidableEq, Repr

/-- The guest die as the firewall knows it (R426, R427): 0 off, 1 in reset, 2 waiting for ready, 3 ready. -/
structure GuestSt where
  phase : Nat
  armed : Nat
  cmds : List GCmd
  nextTag : Nat
  resets : List Nat
  badWin : Nat
  badCount : Nat
deriving DecidableEq, Repr

/-- The guest die after a module reset. -/
def GuestSt.reset : GuestSt := ⟨0, 0, [], 0, [], 0, 0⟩

/-- The controller after a reset. -/
def PmSt.reset : PmSt :=
  { level := 0, leave := none, hot := none, surge := none, vinLow := none, vinHigh := none, vinOut := none,
    vinBad := false, railOut := none, sensors := [], powers := [], tripHold := false, vin := 0, watts := 0, peak := 0,
    energy := 0, charged := false, degraded := false }

end Sys2Proof.Machine
end

