-- ==== Sys2Proof/Machine/TubTypes.lean ====
section
/-!
DEFINITION. State of the Tuber units, their controllers and the command lists (chapter 08). Plain data only.
-/

namespace Sys2Proof.Machine

/-- Who a command list belongs to: a context of a core, with the group and the status offset of TB_LIST; a tenant's
TB_SUBMIT; or the update sequencer, with the record partial (R285) or the update record (R291) that it computes. -/
inductive ListFrom where
  | core (n k group status : Nat)
  | host (entry : Entry)
  | partialOf (slot shard entry record : Nat)
  | update (slot shard entry record : Nat)
deriving DecidableEq, Repr

/-- A command list. `running` says that its record `done` has started on its banks; `fetch` holds what has
been read for that record from a source that lies in host memory or tier 2 (none: nothing yet), with the bursts of it that are poisoned;
`dma` is the read under way, of host memory or (true) of the guest die. -/
structure TbList where
  id : Nat
  from_ : ListFrom
  tenant : Nat
  nmode : Nat
  records : List Entry
  done : Nat
  running : Bool
  poisonIn : Bool
  waitFrom : Option Nat
  dma : Option (Bool × Nat)
  fetch : Option (List Byte × List Nat)
  flags : BitVec 7
  poison : Bool
  quar : Bool
  code : Nat
deriving DecidableEq, Repr

/-- The banks that a running record of a list touches (R247, R249): masks of die channels, ranks and banks. -/
structure BankHold where
  list : Nat
  chans : Nat
  ranks : Nat
  banks : Nat
deriving DecidableEq, Repr

/-- The TB_ block of a die (R254), the credit buckets of its packages (R241), the exchange buffers and groups of its
controllers (R236) and the stores of its units (R228): row latches, accumulators, operand latches with their scales, result queue.
The credit is in 1/32 B; a record that draws on what accrues during its hold leaves it negative. -/
structure TubDie where
  holds : List BankHold
  rowLatch : Sp (List Byte)
  acc : Sp Acc
  ready : Bool
  checkFail : Bool
  cap : Nat
  depth : Nat
  flags : BitVec 7
  poison : W32
  records : W64
  rdBytes : W64
  waitCyc : W64
  paced : Nat
  credit : List (Int × Nat)
  xbuf : Sp Byte
  xpois : Sp Bool
  xgrps : Sp Grp
  latch : Sp Byte
  lscale : Sp Byte
  lpois : Sp Bool
  queue : Sp W32
  qpois : Sp Bool
deriving DecidableEq, Repr

/-- Full bucket at the default depth of 2 MiB, in 1/32 B. -/
def fullCredit : Nat := 2097152 * 32

/-- R254 reset values. -/
def TubDie.reset : TubDie :=
  { holds := [], rowLatch := [], acc := [], ready := false, checkFail := false, cap := 0x20, depth := 0x20, flags := 0#7, poison := 0#32, records := 0#64,
    rdBytes := 0#64, waitCyc := 0#64, paced := 0, credit := List.replicate 8 (fullCredit, 0), xbuf := [], xpois := [],
    xgrps := [], latch := [], lscale := [], lpois := [], queue := [], qpois := [] }

end Sys2Proof.Machine
end

