-- ==== Sys2Proof/Machine/UpdTypes.lean ====
section
/-!
DEFINITION. State of the update sequencers and the compressors (chapters 10 and 11). Plain data only.
-/

namespace Sys2Proof.Machine

/-- The step state of a job (R287), with the loss scale as its exponent of two. -/
structure StepSt where
  step : W32
  applied : W32
  exp : Int
  run : W32
  outcome : Nat
  g : W32
  lr : W32
  p1 : W32
  p2 : W32
  sealed : W32
  nonfinite : W32
deriving DecidableEq, Repr

/-- R283: the step state at admission. -/
def StepSt.init (e : Int) : StepSt :=
  ⟨0xFFFFFFFF#32, 0#32, e, 0#32, 0, 0#32, 0#32, 0x3F800000#32, 0x3F800000#32, 0xFFFFFFFF#32, 0#32⟩

/-- An accepted UPD_STEP (R284): its step, its context and its groups. -/
structure UpdIssue where
  step : W32
  core : Nat
  ctx : Nat
  doneGrp : Nat
  sealGrp : Nat
deriving DecidableEq, Repr

/-- UPD_SNAP or UPD_APPLY waiting for its turn. -/
structure UpdOp where
  apply : Bool
  core : Nat
  ctx : Nat
  doneGrp : Nat
  tensor : Nat
deriving DecidableEq, Repr

/-- The decision of a step (R286) with the new fields of the step state. -/
structure UpdDec where
  outcome : Nat
  gscale : W32
  next : StepSt
deriving DecidableEq, Repr

/-- An update record: logical shard, entry and record number. -/
abbrev UpdKey := Nat × Nat × Nat

/-- A difference ring of a die (R297): the next burst position in every bank's share, and the bursts of a share that
are not yet acknowledged. -/
structure Ring where
  pos : Nat
  used : Nat
deriving DecidableEq, Repr

/-- The ring before anything is written. -/
def Ring.empty : Ring := ⟨0, 0⟩

/-- A leaf that a compression of this module has named (R310, R314): shard, tensor, first element and count, and where its residual
words begin: the residual tensor and the byte in it. -/
structure Leaf where
  shard : Nat
  tensor : Nat
  origin : Nat
  count : Nat
  resid : Nat
  off : Nat
deriving DecidableEq, Repr

/-- The update state of a job on this module. `parts` are the record partials of the step in hand, `shards` the shard
partials known; `dec` its decision; `left` the update records not complete; `segs`, `crcs` and `bytes` what the step's
stream has sent; `segOut` the SEG records that follow its STEP, each with its die (R299); `ends` the END and SNAP_END records that
residual records hold back (R316); `endAt` the END records that wait for their acknowledgment; `snap` the UPD_SNAP whose SNAP_END
waits for one; `waitFrom` the dies with a TUPD that waits for the seal, and since when (R303);
`rsegs` and `rcrc` the RSEG records of the step, `leaves` the leaves compressed in it and `rend` whether REND was sent;
`hostBuf` the host copy of the step in hand, `hostHold` entries that wait for room in queue 7, `gap` the missing steps and
the last dropped snapshot; `fails` the step that failed last and how often in a row (R468); `undo` the XOR words of the
residuals of steps that are not sealed, by step and physical address (R316); `leafs` the leaves that compressions have named,
`restored` residual words of a takeover by shard, leaf and element, until a compression says where they belong (R315, R467);
`replay` a restart that waits for the update stage of the step in hand (R467 step 5), `noEscrow` a takeover whose escrow of the
next step was not complete (R467 step 4);
`last` the outcome of the last step, a failed one included (R303). -/
structure UpdSt where
  st : StepSt
  page : Option Nat
  issues : List UpdIssue
  landed : List UpdKey
  parts : Sp (W32 × Bool)
  shards : Sp (W32 × Bool)
  waitNorm : Bool
  dec : Option UpdDec
  left : List UpdKey
  poisoned : Bool
  nonfinite : Nat
  rings : Sp Ring
  segs : Nat
  crcs : Nat
  bytes : Nat
  segOut : List (Nat × WRec)
  ends : List WRec
  endAt : List (W32 × Nat × Nat)
  ops : List UpdOp
  snap : Option (Nat × Nat × Nat)
  waitFrom : List (Nat × Nat)
  rsegs : Nat
  rcrc : Nat
  leaves : Nat
  rend : Bool
  hostBuf : List Entry
  hostHold : List Entry
  gap : Option (W32 × W32)
  gapSnap : Option W32
  fails : W32 × Nat
  undo : List (Nat × Nat × List Byte)
  leafs : List Leaf
  restored : Sp (W32 × Bool)
  last : Nat
  replay : Bool
  noEscrow : Bool
deriving DecidableEq, Repr

/-- A job without update state. -/
def UpdSt.none : UpdSt :=
  { st := StepSt.init 0, page := Option.none, issues := [], landed := [], parts := [], shards := [], waitNorm := false,
    dec := Option.none, left := [], poisoned := false, nonfinite := 0, rings := [], segs := 0, crcs := 0, bytes := 0,
    segOut := [], ends := [], endAt := [], ops := [], snap := Option.none, waitFrom := [], rsegs := 0, rcrc := 0, leaves := 0,
    rend := false, hostBuf := [], hostHold := [], gap := Option.none, gapSnap := Option.none, fails := (0#32, 0),
    undo := [], leafs := [], restored := [], last := 0, replay := false, noEscrow := false }

/-- The UP_ block of a die (R303), and the compressor's counters (R323). -/
structure UpDie where
  flags : BitVec 7
  skips : W32
  txBytes : W64
  sealWait : W64
  jobSel : Nat
deriving DecidableEq, Repr

/-- R303 reset values. -/
def UpDie.reset : UpDie := ⟨0#7, 0#32, 0#64, 0#64, 0⟩

/-- A compression in progress (R310): the descriptor, whose it is (`jobSlot` is the descriptor's slot, `inst` that of the job whose
collective asked for it), how many blocks each controller has done, the blocks of the group that each has in hand (their bytes, and
poison), and the XOR words of blocks whose RSEG record has not been sent, with the blocks of them that are poisoned (R315). -/
structure CzRun where
  core : Nat
  ctx : Nat
  inst : Nat
  jobSlot : Nat
  die : Nat
  grad : Nat
  resid : Nat
  out : Nat
  policy : Nat
  dither : Bool
  tensor : Nat
  shard : Nat
  origin : Nat
  count : Nat
  exp : Int
  step : W32
  coll : Nat
  groups : List Nat
  bufs : List (List Byte × Bool)
  xors : Sp W32
  bad : List Nat
deriving DecidableEq, Repr

end Sys2Proof.Machine
end

