-- ==== Sys2Proof/Machine/CollTypes.lean ====
section
/-!
DEFINITION. State of the compressors and expanders (chapter 11) and of the collective engine (chapter 13). Plain data
only.
-/

namespace Sys2Proof.Machine

/-- A message (R349): its 32 B header and its payload. -/
structure LMsg where
  hdr : List Byte
  data : List Byte
deriving DecidableEq, Repr

/-- The CZ_ block of a die (R323) with the compressions of its queues. -/
structure CzDie where
  flags : BitVec 7
  damaged : W32
  retries : W32
  cqMax : Nat
  blk0 : W64
  blk1 : W64
  blk2 : W64
  eblk : W64
  eblk2 : W64
  runs : List CzRun
deriving DecidableEq, Repr

/-- R323 reset values. -/
def CzDie.reset : CzDie := ⟨0#7, 0#32, 0#32, 0, 0#64, 0#64, 0#64, 0#64, 0#64, []⟩

/-- Blocks of a compression. -/
def CzRun.blocks (r : CzRun) : Nat := ceilDiv r.count 256
/-- Blocks of a compression that controller `c` has yet to compress. -/
def CzRun.waiting (r : CzRun) (c : Nat) : Nat :=
  r.blocks / 32 * 4 + min 4 (r.blocks % 32 - 4 * c) - r.groups.getD c 0
/-- Blocks in the queue of compressor `c` of a die (R317). -/
def CzDie.queue (z : CzDie) (c : Nat) : Nat := min 256 (z.runs.foldl (fun a r => a + r.waiting c) 0)

/-- The fullest of its queues. -/
def CzDie.fullest (z : CzDie) : Nat := (List.range 8).foldl (fun m c => max m (z.queue c)) 0

/-- An issue of a collective (R369, R378): the acting shard, the issuing context, its group, the offset of its status
record, and its source and destination addresses with the register offset added. -/
structure CollIssue where
  shard : Nat
  core : Nat
  ctx : Nat
  group : Nat
  status : Nat
  src : Nat
  dst : Nat
  comp : Option Entry
  segs : Nat
  poison : Bool
  abandoned : Bool
  lost : Bool
  done : Bool
deriving DecidableEq, Repr

/-- An accepted segment or a request of an instance: source and destination shard, stream, segment. -/
structure SegKey where
  src : Nat
  dst : Nat
  stream : Nat
  seg : Nat
deriving DecidableEq, Repr

/-- The owned sum of a shard (R374): for every range, how many slots have been added and how many units of 256 elements
of the next slot; `written` the ranges written, `reported` those reported to the update sequencer (R375); `acc` the
running sums with their poison. -/
structure OwnSum where
  shard : Nat
  added : List (Nat × Nat)
  written : List Nat
  reported : List Nat
  acc : Sp (W32 × Bool)
deriving DecidableEq, Repr

/-- An instance of a collective (R370) on this member. `asked` are the answers it waits for with the number of segments
that each has; `got` the segments accepted; `sent` the answers given, with the segments not yet acknowledged; `buf`
what has arrived for an all-reduce, by source shard; `reports` the reports of a re-shard; `tries` the segments asked for
again, and `kept` the blocks of them, by their number in the segment, that have come undamaged (R321, R322). `phase` is 1 where a gather has nothing to move (R381); in a re-shard 1 while states move, 2 when settled. -/
structure CollInst where
  job : Nat
  coll : Nat
  step : W32
  issues : List CollIssue
  asked : List SegKey
  got : List SegKey
  sent : List SegKey
  buf : Sp (Byte × Bool)
  sums : List OwnSum
  reports : List (Nat × Nat × Bool)
  tries : List SegKey
  kept : List (SegKey × Nat × List Byte)
  phase : Nat
deriving DecidableEq, Repr

/-- A request that waits in a job's request table for its source's issue (R371). -/
structure HeldReq where
  job : Nat
  coll : Nat
  step : W32
  key : SegKey
  node : Nat
deriving DecidableEq, Repr

/-- The collective engine (R386). `held` are the entries of the jobs' request tables; `waiting` the requests that wait at their requesters,
because the table of their job is full (R371, R385). -/
structure CollSt where
  insts : List CollInst
  held : List HeldReq
  waiting : List LMsg
  abandoned : Bool
  segTx : W64
  segRx : W64
  dup : W32
  lost : W32
  abandon : W32
  reqMax : Nat
  jobSel : Nat
  smapIdx : Nat
deriving DecidableEq, Repr

/-- R386 reset values. -/
def CollSt.reset : CollSt := ⟨[], [], [], false, 0#64, 0#64, 0#32, 0#32, 0#32, 0, 0, 0⟩

end Sys2Proof.Machine
end

