-- ==== Sys2Proof/Machine/LinkTypes.lean ====
section
/-!
DEFINITION. State of Griuk Link: ports, messages, membership and time (chapter 12). Plain data only.
-/

namespace Sys2Proof.Machine

/-- A data flit as R332 lays it out, without its CRC. -/
structure Flit where
  seq : Nat
  vc : Nat
  sof : Bool
  eof : Bool
  data : List Byte
deriving DecidableEq, Repr

/-- The input of a claim of a message in transit: port and VC. -/
def claimFrom (c : Nat) : Option (Nat × Nat) := if c < 6 * 18 then some (c / 6, c % 6) else none

/-- A message that waits at a port, with the bytes sent so far, the VC it uses on this hop and its claim at the output (R340: input port × 6 +
VC, the hub itself being input 18; log entry 94). `cont` marks the rest of a
message whose first flits a failed port of the trunk delivered (R336). -/
structure Egress where
  msg : LMsg
  vc : Nat
  pos : Nat
  cont : Bool
  claim : Nat
deriving DecidableEq, Repr

/-- A port (R324 to R336, R346 to R348, R363). `beaconLane` is the physical lane that runs in beacon mode (R327); `turn` the claim behind the
last winner of each traffic class (R340); `step` is the training step in progress and `armed` its start; `retryAt`
the time from which training is tried again; `spare` is 15 where no spare is held. `sent` holds the unacknowledged
flits, `ackAt` the time from which the oldest waits, `replays` how often it was replayed; `rxSeq` is the last seq accepted, `asm`
the messages being put together by VC, `inbox` those for this module, `heldMsgs` those of a future epoch; `freed` are the credits to return, `ctl` the acknowledgment (kind, epoch, count) and `notes` the failed ports of
the trunk with the last seq accepted there (R336) that the control flits of this end carry; `paceWin`, `paceMsgs` and
`paceFlits` what class 2 has sent in a window of 10 µs (R342). -/
structure Port where
  state : Nat
  reason : Nat
  beaconLane : Nat
  turn : List Nat
  spare : Nat
  lanes : List Nat
  retired : List Nat
  version : Nat
  mapOk : Bool
  peerNode : Nat
  peerPort : Nat
  held : Bool
  step : Nat
  armed : Nat
  retryAt : Option Nat
  retrain : Option Nat
  fecc : W64
  fecu : W32
  crcs : W32
  retries : W32
  stale : W32
  rate : W32
  txb : W64
  rxb : W64
  txSeq : Nat
  sent : List (Flit × Egress)
  ackAt : Nat
  replays : Nat
  credits : List Nat
  rxSeq : Nat
  nack : Bool
  asm : Sp (List Byte)
  egress : List Egress
  inbox : List LMsg
  heldMsgs : List LMsg
  heldAt : Nat
  lastRx : Nat
  silent : Bool
  rateWin : Nat
  rateMsgs : Nat
  rateFlits : Nat
  tPeer : Nat
  tRx : Nat
  asym : Int
  visits : Nat
  carried : List Nat
  freed : List Nat
  ctl : Nat × Nat × Nat
  notes : List (Nat × Nat)
  paceWin : Nat
  paceMsgs : Nat
  paceFlits : Nat
deriving DecidableEq, Repr

/-- R363 reset values; a new link has the credits of 64 flits on each VC (R335). -/
def Port.reset : Port :=
  { state := 0, reason := 0, beaconLane := 0, turn := [0, 0, 0], spare := 0, lanes := [0, 1, 2, 3, 4, 5, 6, 7], retired := [], version := 0, mapOk := false,
    peerNode := 0, peerPort := 0, held := false, step := 0, armed := 0, retryAt := none, retrain := none, fecc := 0#64, fecu := 0#32,
    crcs := 0#32, retries := 0#32, stale := 0#32, rate := 0#32, txb := 0#64, rxb := 0#64, txSeq := 1, sent := [], ackAt := 0,
    replays := 0, credits := List.replicate 6 64, rxSeq := 0, nack := false, asm := [], egress := [], inbox := [],
    heldMsgs := [], heldAt := 0, lastRx := 0, silent := false, rateWin := 0, rateMsgs := 0, rateFlits := 0,
    tPeer := 0, tRx := 0, asym := 0, visits := 0, carried := [], freed := List.replicate 6 0,
    ctl := (0, 0, 0), notes := [], paceWin := 0, paceMsgs := 0, paceFlits := 0 }

/-- What an outstanding message serves (R350): a Pea transfer of a core's context, a segment of an instance, or nothing
that waits for it. -/
inductive OutUse where
  | pea (core : Nat) (m : PeaMsg)
  | seg (job coll : Nat) (step : W32) (key : SegKey)
deriving DecidableEq, Repr

/-- An outstanding message: tag, destination, when it was sent, its use. -/
structure OutMsg where
  tag : Nat
  dst : Nat
  at_ : Nat
  use : OutUse
deriving DecidableEq, Repr

/-- A proposed view (R358, R359): its epoch, its proposer, when its first fragment came, the fragments that have come and
how many there are; the counts of the children, whether this member's own drain is done and reported, and the nodes
that DRAIN_MISS named. -/
structure Proposal where
  epoch : W32
  proposer : Nat
  armed : Nat
  count : Nat
  frags : Sp (List Byte)
  view : List Nat
  drained : Bool
  reported : Bool
  counts : Sp Nat
  misses : List Nat
deriving DecidableEq, Repr

/-- Membership and time (R352 to R362, R364). `assign` is the watcher assigned to each active module, `asked` says that this
module has sent JOIN; `beatExps` the beat-length codes that members have reported to the steward (R27). -/
structure GlSt where
  epoch : W32
  view : List Nat
  leader : Nat
  mstate : Nat
  isolated : Bool
  stopInject : Bool
  verMax : Nat
  lastBeacon : Nat
  lastMajority : Nat
  beacon : Option Nat
  acked : Bool
  counts : Sp Nat
  suspects : List (Nat × Nat × Nat)
  dead : List Nat
  joiners : List Nat
  lastJoin : Nat
  prop : Option Proposal
  outs : List OutMsg
  nextTag : Nat
  fences : W32
  samples : List (Nat × Int)
  offset : Int
  offSince : Option Nat
  outOfTime : Bool
  fallbacks : List (Nat × Nat)
  watcher : Option Nat
  watches : List Nat
  assign : Sp Nat
  asked : Bool
  beatExps : List (Nat × Nat)
deriving DecidableEq, Repr

/-- R364 reset values. -/
def GlSt.reset : GlSt :=
  { epoch := 0#32, view := [], leader := 0, mstate := 0, isolated := false, stopInject := false, verMax := 3, lastBeacon := 0,
    lastMajority := 0, beacon := none, acked := false, counts := [], suspects := [], dead := [], joiners := [], lastJoin := 0,
    prop := none, outs := [], nextTag := 0, fences := 0#32, samples := [], offset := 0, offSince := none, outOfTime := false,
    fallbacks := [], watcher := none, watches := [], assign := [], asked := false, beatExps := [] }

end Sys2Proof.Machine
end

