-- ==== Sys2Proof/Machine/StartTypes.lean ====
section
/-!
DEFINITION. State of start, resets, die-to-die links, management and test access (chapter 15), of watching and takeover
(chapter 16), and of split register accesses (R22). Plain data only.
-/

namespace Sys2Proof.Machine

/-- What keeps the module in reset: nothing; power-good is awaited (R421, R423, R479); the dies are to cool after a thermal
trip (R460); MOD_EN is low (R492). -/
inductive ResetHold where
  | none | power | trip | modEn
deriving DecidableEq, Repr

/-- What the FRU memory holds (R488, R499): the part number, the stepping, the ten digits of the serial number, and the date of manufacture
as year and ISO week. -/
structure Fru where
  part : String
  stepping : String
  serial : Nat
  made : Nat × Nat
deriving DecidableEq, Repr

/-- The contents written at manufacture. The serial number and the date are each module's own. -/
def Fru.written : Fru := ⟨"UZM-2T0", "B0", Config.serial % 10000000000, Config.made⟩

/-- Start (R421 to R440, R455). `fru` is the FRU memory (R488), which no command writes. `stage` is the code of SY_START; `slot` and `pending` tell of the image in use; `imgErr` is
check, section and entry; `cause` that of the last reset; `openSlot` the slot of NOR_OPEN; `programmed` says which bytes of
the open slot NOR_WRITE has programmed; `minute` the device time of the last on-time record (R433); `secMin` the fused minimum security
version; `aux` says that P3V3_AUX is on, `addr` is the SMBus address select. -/
structure StartSt where
  pwrGood : Bool
  hold : ResetHold
  stage : Nat
  done : Bool
  reason : Nat
  held : Bool
  slot : Nat
  pending : Bool
  imgErr : Nat × Nat × Nat
  cause : Nat
  unlocked : Bool
  openSlot : Option Nat
  programmed : Sp Bool
  minute : Nat
  secMin : Nat
  aux : Bool
  addr : Nat
  fru : Fru
deriving DecidableEq, Repr

/-- SY_ reset values (R455). The fused minimum security version of a new module is 0. -/
def StartSt.reset : StartSt :=
  { pwrGood := false, hold := .power, stage := 0, done := false, reason := 0, held := false, slot := 0, pending := false,
    imgErr := (0, 0, 0), cause := 0, unlocked := false, openSlot := none, programmed := [], minute := 0, secMin := 0,
    aux := false, addr := 0, fru := Fru.written }

/-- One direction of a die-to-die module (R418, R420): the data lane that each repair lane replaces, and how many of them the
assembly lane map gave. -/
structure LaneMap where
  repaired : List Nat
  assembly : Nat
deriving DecidableEq, Repr

def LaneMap.none : LaneMap := ⟨[], 0⟩

/-- The DD_ block (R420). Links are numbered 0 to 4; a direction of a module has the key (link × 16 + module) × 2 + dir.
`fused` is the assembly lane map. -/
structure DdSt where
  up : List Bool
  link : Nat
  mod : Nat
  dir : Nat
  lanes : Sp LaneMap
  fused : Sp LaneMap
  replay : Sp W32
deriving DecidableEq, Repr

/-- R420 reset values. -/
def DdSt.reset : DdSt := ⟨[false, false, false, false, false], 0, 0, 0, [], [], []⟩

/-- The test access port (R429): the instruction in force, and the boundary register. -/
structure TapSt where
  ir : Nat
  boundary : List Bool
  driving : Bool
deriving DecidableEq, Repr

/-- After TRST_N the port selects BYPASS. -/
def TapSt.reset : TapSt := ⟨0xFF, [], false⟩

/-- Watching and takeover (R462 to R472): `mirrors` are the records received from each watched node, in order, with the jobs
that they concern; `takeover` the node that this module takes over, with the device time of its declaration; `planned` the device time at which an image was closed for a planned
takeover, `edecs` the jobs with an EDEC acknowledged since; `testing` a full-module test (R472), `failed` its failure, `faults` the device times of failed service requests, `seeds` the seeds of the watched jobs, by job number
(R30; log entry 32). -/
structure WatchSt where
  mirrors : Sp (List WRec)
  takeover : Option (Nat × Nat)
  planned : Option Nat
  edecs : List Nat
  testing : Bool
  mustTest : Bool
  failed : Bool
  faults : List Nat
  seeds : Sp W64
deriving DecidableEq, Repr

/-- No watching. -/
def WatchSt.reset : WatchSt := ⟨[], none, none, [], false, false, false, [], []⟩

/-- Split accesses of 64-bit registers (R22): the latched high halves and the held low halves, by requester and offset. -/
structure SplitSt where
  high : List ((Nat × Nat × Nat) × W32)
  low : List ((Nat × Nat × Nat) × W32)
deriving DecidableEq, Repr

/-- No half latched or held. -/
def SplitSt.reset : SplitSt := ⟨[], []⟩

end Sys2Proof.Machine
end

