-- ==== Sys2Proof/Machine/State.lean ====
section
/-!
DEFINITION. The state of the module: everything the manual gives it, as plain data, and the queue of waiting commands.
-/

namespace Sys2Proof.Machine

/-- Life of a job on this module. -/
inductive JobLife where
  | none | filling | running | stopping
deriving DecidableEq, Repr

/-- A job slot: its record, the seed of its JOB_START, the entry of that command, the retention layers granted, the
shard map in force (node and slot of each shard), the maps of all stages of a pipelined job with the number of this
module's own (R384), a pending re-shard with its step, and the update state. -/
structure Job where
  life : JobLife
  info : JobRec
  seed : W64
  cmd : Entry
  layers : Nat
  map : List (Nat × Nat)
  stages : List (List (Nat × Nat))
  stage : Nat
  pend : Option (W32 × List (Nat × Nat))
  upd : UpdSt
deriving DecidableEq, Repr

/-- Faults of the model. No command ends in one: every event that the manual calls a fault is a next state. -/
inductive Fault where
  /-- Raised by no command. Safe: a stop proves nothing about the hardware. -/
  | unused
deriving DecidableEq, Repr

/-- Refusals of the model. -/
inductive Refusal where
  /-- Raised by Machine/Dispatch.lean alone, for a command without a meaning. Safe: nothing is claimed of it. -/
  | notModelled (mnemonic : String)
deriving DecidableEq, Repr

/-- What the last access answered (the model's own record of register, SMBus, CXL and test answers). -/
inductive Resp where
  | deferred
  | served (answers : List (Who × Nat × List Byte × Bool))
  | none
  | reg (width : Nat) (value : Nat)
  | bytes (data : List Byte)
  | burst (data : List Byte) (poison : Bool)
  | unmapped
  | nack
deriving DecidableEq, Repr

/-- What the module sends to a host: a posted write of bytes to a host address (R403). -/
structure HostOut where
  port : Nat
  addr : Nat
  data : List Byte
deriving DecidableEq, Repr

/-- A crumb seal in progress (R477): its cause, the device time it was armed at, and the cause of the reset that
follows it (none: the power-loss sequence, after which the module waits for power-good). -/
structure SealRun where
  cause : Nat
  armed : Nat
  reset : Option Nat
deriving DecidableEq, Repr

/-- Beat timer and stretching (R26, R94, R96, R460, R461). -/
structure BeatSt where
  exp : Nat
  maintExp : Nat
  beat : Nat
  stretch : Nat
  stretchNext : Nat
  excluded : W64
deriving DecidableEq, Repr

/-- What the module sends on Griuk Link: a LEAVE notice, a data flit of a port, a replay of its unacknowledged flits from a
seq on, a control flit (R332), the acknowledgment of a watch record (or, where `ok` is false, the request for it again, R300) with
the count and digest of the step's SEG records. -/
inductive LinkOut where
  | leave
  | flit (port : Nat) (f : Flit)
  | replay (port : Nat) (from_ : Nat)
  | control (port : Nat) (bytes : List Byte)
  | watchAck (node : Nat) (ok : Bool) (count digest : Nat)
deriving DecidableEq, Repr

/-- The whole machine. -/
structure State where
  pending : List Instr
  free : Nat
  resp : Resp
  hostOut : List HostOut
  linkOut : List LinkOut
  now : Nat
  aligned : Bool
  stopped : Bool
  sealRun : Option SealRun
  beats : BeatSt
  cores : Sp CoreSt
  mem : Sp Byte
  poison : Sp Bool
  log : LogSt
  image : Option Image
  tenants : Sp Tenant
  pages : Sp PageEnt
  hl : HlSt
  watched : Bool
  watchOut : List WRec
  jobs : Sp Job
  mc : Sp McSt
  frames : Sp Frame
  t2 : Sp T2Tensor
  tiers : TierSt
  nor : Sp Byte
  retired : List (Nat × Nat)
  pm : PmSt
  guest : GuestSt
  tub : Sp TubDie
  lists : List TbList
  nextList : Nat
  up : Sp UpDie
  cz : Sp CzDie
  coll : CollSt
  ports : Sp Port
  gl : GlSt
  start : StartSt
  dd : DdSt
  tap : TapSt
  watch : WatchSt
  split : SplitSt
deriving DecidableEq, Repr

/-- The machine right after a cold reset. -/
def State.reset : State :=
  { pending := [], free := 0, resp := .none, hostOut := [], linkOut := [], now := 0, aligned := false,
    stopped := false, sealRun := Option.none, beats := ⟨2, 2, 0, 0, 0, 0#64⟩, cores := [], mem := [], poison := [],
    log := LogSt.reset, image := Option.none, tenants := [], pages := [], jobs := [], hl := HlSt.reset, watched := false, watchOut := [], mc := [], frames := [],
    t2 := [], tiers := TierSt.reset, nor := [], retired := [], pm := PmSt.reset, guest := GuestSt.reset,
    tub := [], lists := [], nextList := 0, up := [], cz := [], coll := CollSt.reset, ports := [], gl := GlSt.reset,
    start := StartSt.reset, dd := DdSt.reset, tap := TapSt.reset, watch := WatchSt.reset, split := SplitSt.reset }

end Sys2Proof.Machine
end

