-- ==== Sys2Proof/Machine/Ops.lean ====
section
/-!
DEFINITION. The named operations over the state that the meanings share: memory, the log, cores and contexts, arrival
flags, page maps, queues toward the host, stopping a job, and the faults of the sequencer and of the module.
-/

namespace Sys2Proof.Machine

/-- What a command answers. -/
abbrev Out := Host.Outcome State Fault Refusal

/-! ### Memory (R15) -/

def rdByte (m : Sp Byte) (a : Nat) : Byte := Sp.get 0#8 m a
def wrByte (m : Sp Byte) (a : Nat) (b : Byte) : Sp Byte := Sp.set 0#8 m a b

/-- `n` bytes from address `a`. -/
def rdBytes (m : Sp Byte) (a : Nat) : Nat → List Byte
  | 0 => []
  | n + 1 => rdByte m a :: rdBytes m (a + 1) n

/-- Bytes written at ascending addresses from `a`. -/
def wrBytes (m : Sp Byte) (a : Nat) : List Byte → Sp Byte
  | [] => m
  | b :: bs => wrBytes (wrByte m a b) (a + 1) bs

/-- The canonical form of a memory: addresses strictly rising, and no zero byte listed (an unlisted byte reads as zero). -/
def Memory.wf (m : Sp Byte) : Bool := Sp.wf 0#8 m

/-- A little-endian number of `n` bytes (R7). -/
def rdNat (m : Sp Byte) (a n : Nat) : Nat := leVal (rdBytes m a n)

def sramSize : Nat := 0x800000
/-- SRAM of core n (R15). -/
def sramBase (n : Nat) : Nat := 0x200000000000 + n * 0x800000
/-- Die-shared SRAM of die d (R15). -/
def dieSramBase (d : Nat) : Nat := 0x200020000000 + d * 0x4000000
/-- Base of the tier-2 window (R15). -/
def tier2Base : Nat := 0x100000000000
/-- End of tier 1 (R15). -/
def tier1End : Nat := 0x01E000000000
/-- Bytes of tier 1 on one die (R199). -/
def dieTier1 : Nat := 0x7800000000
/-- Frames of 2 MiB on one die. -/
def dieFrames : Nat := 245760
def pageSize : Nat := 0x200000

def isTier1 (a : Nat) : Bool := decide (a < tier1End)
def isTier2 (a : Nat) : Bool := decide (tier2Base ≤ a) && decide (a < 0x200000000000)
def isSram (a : Nat) : Bool := decide (0x200000000000 ≤ a) && decide (a < 0x200030000000)
def isReg (a : Nat) : Bool := decide (0x300000000000 ≤ a) && decide (a < 0x300010000000)

/-- Bytes of a core's SRAM. -/
def State.sram (s : State) (n off len : Nat) : List Byte := rdBytes s.mem (sramBase n + off) len
def State.sramNat (s : State) (n off len : Nat) : Nat := rdNat s.mem (sramBase n + off) len
def State.setSram (s : State) (n off : Nat) (bs : List Byte) : State :=
  { s with mem := wrBytes s.mem (sramBase n + off) bs }

/-- The 64 bytes of an entry, and back (R7). -/
def entryBytes (e : Entry) : List Byte := leBytes 64 e.toNat
def entryOf (bs : List Byte) : Entry := BitVec.ofNat 512 (leVal bs)
/-- Bytes `off` to `off + n - 1` of an entry, as a number. -/
def entryField (e : Entry) (off n : Nat) : Nat := (e.toNat >>> (8 * off)) % 2 ^ (8 * n)
/-- An entry from (byte offset, width, value) triples; bytes not named are zero. -/
def mkEntry (fs : List (Nat × Nat × Nat)) : Entry :=
  BitVec.ofNat 512 (fs.foldl (fun a f => a + (f.2.2 % 2 ^ (8 * f.2.1)) * 2 ^ (8 * f.1)) 0)

/-! ### Cores and contexts -/

def State.core (s : State) (n : Nat) : CoreSt := Sp.get CoreSt.reset s.cores n
def State.setCore (s : State) (n : Nat) (c : CoreSt) : State := { s with cores := Sp.set CoreSt.reset s.cores n c }
def State.updCore (s : State) (n : Nat) (f : CoreSt → CoreSt) : State := s.setCore n (f (s.core n))

def CoreSt.ctx (c : CoreSt) (k : Nat) : Ctx := Sp.get Ctx.fresh c.ctxs k
def CoreSt.setCtx (c : CoreSt) (k : Nat) (x : Ctx) : CoreSt := { c with ctxs := Sp.set Ctx.fresh c.ctxs k x }
def State.ctx (s : State) (n k : Nat) : Ctx := (s.core n).ctx k
def State.setCtx (s : State) (n k : Nat) (x : Ctx) : State := s.setCore n ((s.core n).setCtx k x)
def State.updCtx (s : State) (n k : Nat) (f : Ctx → Ctx) : State := s.setCtx n k (f (s.ctx n k))

/-- The context that runs on a core (R104 state 1 or 2, not being saved). -/
def CoreSt.running (c : CoreSt) : Option Nat :=
  match c.run with
  | .running k _ => some k
  | _ => none

/-- The context that an engine works for: the running one, and, while that is being saved, until the engine stops at its next
boundary (R98). -/
def CoreSt.works (c : CoreSt) (e : Eng) : Option Nat :=
  match c.run with
  | .running k _ => some k
  | .saving k _ => if c.bound.contains e then none else some k
  | _ => none

/-- An engine has reached a boundary: while a save is in progress it stops there (R98). -/
def CoreSt.atBoundary (c : CoreSt) (e : Eng) : CoreSt :=
  match c.run with
  | .saving _ _ => { c with bound := e :: c.bound }
  | _ => c

/-- The running context is asked to save (R97). -/
def CoreSt.interrupt (c : CoreSt) (k : Nat) (fill : Bool) : CoreSt := { c with run := .saving k fill, bound := [] }

/-- Scalar registers: s0 reads zero and discards writes (R75). -/
def Ctx.reg (x : Ctx) (r : Nat) : W32 := if r = 0 then 0#32 else Sp.get 0#32 x.regs r
def Ctx.setReg (x : Ctx) (r : Nat) (v : W32) : Ctx := if r = 0 then x else { x with regs := Sp.set 0#32 x.regs r v }

/-- Flags raised (R60). -/
def Ctx.raise (x : Ctx) (f : NFlags) : Ctx := { x with flags := x.flags ||| f }

/-- A context's queue of an engine (R72). -/
def Ctx.queue (x : Ctx) : Eng → List IWord
  | .mx => x.qmx
  | .ve => x.qve
  | .st => x.qst
  | .pe => x.qpe
  | .ob => x.qob
def Ctx.setQueue (x : Ctx) (e : Eng) (q : List IWord) : Ctx :=
  match e with
  | .mx => { x with qmx := q }
  | .ve => { x with qve := q }
  | .st => { x with qst := q }
  | .pe => { x with qpe := q }
  | .ob => { x with qob := q }
def Ctx.popQueue (x : Ctx) (e : Eng) : Ctx := x.setQueue e ((x.queue e).drop 1)

/-- A core's program bank. -/
def CoreSt.word (c : CoreSt) (bank : Bool) (i : Nat) : IWord := Sp.get 0#128 (if bank then c.bank1 else c.bank0) i
def CoreSt.progs (c : CoreSt) (bank : Bool) : List Prog := if bank then c.progs1 else c.progs0

/-- The numeric mode of a context's program (R55). -/
def Ctx.nmode (x : Ctx) : NMode := NMode.ofNat x.prog.nmode

/-! ### Arrival flags (R165 to R167) -/

/-- Key of group `g` of context `k` in a core's flag store. -/
def grpKey (k g : Nat) : Nat := k * 2048 + g % 2048
def CoreSt.grp (c : CoreSt) (k g : Nat) : Grp := Sp.get Grp.start c.grps (grpKey k g)
def CoreSt.setGrp (c : CoreSt) (k g : Nat) (v : Grp) : CoreSt := { c with grps := Sp.set Grp.start c.grps (grpKey k g) v }
def CoreSt.arrive (c : CoreSt) (k g : Nat) (poison : Bool) : CoreSt := c.setGrp k g ((c.grp k g).arrive poison)
/-- One arrival at group `g` of context `k` of core `n`. -/
def State.arrive (s : State) (n k g : Nat) (poison : Bool) : State := s.updCore n (·.arrive k g poison)

/-- R177: the live context of a program on a core. -/
def CoreSt.liveCtx (c : CoreSt) (prog : Nat) : Option Nat :=
  (c.ctxs.find? (fun p => decide (p.2.life = .live) && p.2.prog.id == prog)).map (·.1)

/-! ### Save areas (R145, R147) -/

/-- Bytes of a vector save area. -/
def saveAreaSize : Nat := 147840

/-- Whether `len` bytes at `a` overlap the context's save area. -/
def Ctx.hitsSave (x : Ctx) (a len : Nat) : Bool :=
  match x.saveArea with
  | none => false
  | some b => decide (0 < len) && decide (a < b + saveAreaSize) && decide (b < a + len)

/-- Whether any of `lines` lines of `len` bytes does; the gaps between lines do not count. -/
def Ctx.linesHit (x : Ctx) (base stride len lines : Nat) : Bool :=
  (List.range lines).any (fun i => x.hitsSave (base + i * stride) len)

/-! ### The power cap (R140, R460) -/

/-- The cap is signalled at level 1 and above. -/
def State.capOn (s : State) : Bool := decide (1 ≤ s.pm.level)

/-! ### Free values -/

def State.bump (s : State) : State := { s with free := s.free + 1 }

/-! ### Beats (R26, R94) -/

/-- Beat length and maintenance period. -/
def State.beatLen (s : State) : Nat := 4096 * 2 ^ s.beats.exp
def State.maintPeriod (s : State) : Nat := 16 * 2 ^ s.beats.maintExp

/-- Whether a beat is a maintenance beat (R94). -/
def State.isMaint (s : State) (b : Nat) : Bool := b % s.maintPeriod == s.maintPeriod - 1

/-! ### The log (R473 to R476) -/

/-- The argument bytes, padded to 12 (R474, R501). -/
def logArgs (args : List (Nat × Nat)) : List Byte :=
  let bs := args.flatMap (fun a => leBytes a.1 a.2)
  bs ++ zeros (12 - bs.length)

/-- The newest record of a source and code in the current 1 µs window (R475). -/
def LogSt.recent (l : LogSt) (now cls inst code : Nat) : Option (Nat × LogRec) :=
  l.ring.find? (fun p => p.2.cls == cls && p.2.inst == inst && p.2.code == code && !p.2.crumb && p.2.time / 1000 == now / 1000)

/-- A record put into the ring (R473); a record of severity 3 or 4 overwritten unread sets alert_lost (R454). -/
def LogSt.push (l : LogSt) (r : LogRec) : LogSt :=
  let slot := l.next % 2048
  let old := Sp.get LogRec.none l.ring slot
  { l with
    ring := Sp.set LogRec.none l.ring slot r
    next := (l.next + 1) % 2 ^ 32
    read := Sp.set false l.read slot false
    alertLost := l.alertLost || (decide (3 ≤ old.sev) && !(Sp.get false l.read slot)) }

/-- One event logged, or counted in the repeat field of the record of its window (R475). -/
def State.logAs (s : State) (cls inst code sev : Nat) (tenant : Option Nat) (args : List (Nat × Nat)) : State :=
  match s.log.recent s.now cls inst code with
  | some (k, r) => { s with log := { s.log with ring := Sp.set LogRec.none s.log.ring k { r with rep := min 1023 (r.rep + 1) } } }
  | none =>
    { s with
      log := s.log.push
        { time := s.now, seq := s.log.next, cls := cls, inst := inst, code := code, sev := sev,
          unaligned := !s.aligned, tenant := tenant, crumb := false, rep := 0, args := logArgs args } }

/-- R476 0x0001: an access discarded. -/
def State.logDiscard (s : State) (addr : Nat) (who : Who) (write : Bool) : State :=
  s.logAs 0 0 0x0001 1 none [(6, addr), (1, who.index), (1, b2n write)]

/-- R15 and R476 0x0008: an access to an unmapped physical address. -/
def State.logUnmapped (s : State) (addr : Nat) (who : Who) (write : Bool) : State :=
  s.logAs 0 0 0x0008 1 none [(6, addr), (1, who.index), (1, b2n write)]

/-- R15: an access to an unmapped physical address by a requester that is answered: logged, and the status returned. -/
def State.answerUnmapped (s : State) (addr : Nat) (who : Who) (write : Bool) : State :=
  { s.logUnmapped addr who write with resp := .unmapped }

/-- R476 0x0061: a timeout of row `row` of R459, armed at `t`. -/
def State.logTimeout (s : State) (row t : Nat) : State := s.logAs 0 0 0x0061 1 none [(1, row), (6, t)]

/-- Device time moves to an instant that lies ahead (R13). -/
def State.advanceTo (s : State) (t : Nat) : State := { s with now := max s.now t }

/-! ### Page maps (R398, R187) -/

def pageKey (tenant granule : Nat) : Nat := tenant * 2 ^ 32 + granule

/-- Whether an entry covers 2 MiB. -/
def PageEnt.big (e : PageEnt) : Bool :=
  match e.dest with
  | .tier1 _ _ => true
  | .tier2 _ _ => true
  | _ => false

/-- The map entry that covers a virtual address, with its key. -/
def State.pageOf (s : State) (tenant va : Nat) : Nat × PageEnt :=
  let k := pageKey tenant (va / 65536)
  let e := Sp.get PageEnt.none s.pages k
  if e.dest = .unmapped then
    let k2 := pageKey tenant (va / pageSize * 32)
    let e2 := Sp.get PageEnt.none s.pages k2
    if e2.big then (k2, e2) else (k, PageEnt.none)
  else (k, e)

/-- The kind of a page (R177). -/
def PageTo.kind : PageTo → PageKind
  | .unmapped => .none
  | .tier1 _ _ => .tier1
  | .tier2 _ _ => .tier2
  | .coreWin n _ => .coreWin n
  | .dieWin d _ => .shared d
  | .hostPage _ _ => .none

/-- The device physical address of a virtual address under an entry; host pages have none. -/
def PageTo.phys (p : PageTo) (va : Nat) : Option Nat :=
  match p with
  | .unmapped => none
  | .tier1 f _ => some (f * pageSize + va % pageSize)
  | .tier2 g _ => some (tier2Base + g * pageSize + va % pageSize)
  | .coreWin n w => some (sramBase n + w * 65536 + va % 65536)
  | .dieWin d w => some (dieSramBase d + w * 65536 + va % 65536)
  | .hostPage _ _ => none

/-- Key of a tier-2 tensor (R258). -/
def t2Key (tenant id : Nat) : Nat := tenant * 2 ^ 24 + id
def State.t2At (s : State) (key : Nat) : T2Tensor := Sp.get T2Tensor.none s.t2 key

def State.tenant (s : State) (t : Nat) : Tenant := Sp.get Tenant.none s.tenants t
def State.setTenant (s : State) (t : Nat) (x : Tenant) : State := { s with tenants := Sp.set Tenant.none s.tenants t x }
def State.updTenant (s : State) (t : Nat) (f : Tenant → Tenant) : State := s.setTenant t (f (s.tenant t))
def Tenant.region (x : Tenant) (r : Nat) : Region := Sp.get Region.none x.regions r
def Tenant.queue (x : Tenant) (q : Nat) : Queue := Sp.get Queue.reset x.queues q
def Tenant.setQueue (x : Tenant) (q : Nat) (v : Queue) : Tenant := { x with queues := Sp.set Queue.reset x.queues q v }

/-- Whether a window lies in the image's directory of a tenant without being granted now (R187 code 0x6). -/
def State.ungranted (s : State) (tenant va : Nat) : Bool :=
  match s.image with
  | none => false
  | some im =>
    im.tensors.any (fun t => t.kind == 10 && t.tenant == tenant && decide (t.va ≤ va) && decide (va < t.va + t.size * 65536))

/-- R187: the fault code of one access, 0 for none, in the order 0x3, 0x6, 0x4, 0x2, 0x5, 0x1. -/
def State.accessCode (s : State) (tenant va : Nat) (write : Bool) : Nat :=
  let e := (s.pageOf tenant va).2
  let t2 := match e.dest with
    | .tier2 _ k => (s.t2At k).state
    | _ => .sealed
  if e.dest = .unmapped then (if s.ungranted tenant va then 6 else 3)
  else if t2 = .absent || t2 = .deleting then 3
  else if write && (match e.dest with
      | .tier1 _ ro => ro
      | .tier2 _ _ => true
      | .hostPage r _ => !((s.tenant tenant).region r).write
      | _ => false) then 4
  else if e.quar then 2
  else if t2 = .loading || t2 = .sealing then 5
  else if e.moving then 1
  else 0

/-- The physical address of a virtual address. -/
def State.physOf (s : State) (tenant va : Nat) : Option Nat := (s.pageOf tenant va).2.dest.phys va

/-! ### Bursts of tier 1 (R202) -/

def burstOf (a : Nat) : Nat := a / 64
/-- The poison marker, bit 0 of a burst's code word (R202). -/
def State.isPoisoned (s : State) (a : Nat) : Bool := Sp.get false s.poison (burstOf a)
def State.setPoison (s : State) (a : Nat) (p : Bool) : State := { s with poison := Sp.set false s.poison (burstOf a) p }

/-- Bursts from the one of `a` to the one of `a + n - 1`. -/
def burstCount (a n : Nat) : Nat := if n = 0 then 0 else (a + n - 1) / 64 - a / 64 + 1

def anyPoison (p : Sp Bool) (b : Nat) : Nat → Bool
  | 0 => false
  | k + 1 => Sp.get false p b || anyPoison p (b + 1) k

/-- Whether a read of `n` bytes at `a` meets a poison marker. -/
def State.poisonIn (s : State) (a n : Nat) : Bool := anyPoison s.poison (burstOf a) (burstCount a n)

/-- How many of `k` bursts from `b` on cannot be corrected. -/
def badErrs (t : Sp Ecc) (b : Nat) : Nat → Bool
  | 0 => false
  | k + 1 => decide (Sp.get .clean t b = .uncorrectable) || badErrs t (b + 1) k

def State.mcOf (s : State) (d : Nat) : McSt := Sp.get McSt.reset s.mc d
def State.setMc (s : State) (d : Nat) (m : McSt) : State := { s with mc := Sp.set McSt.reset s.mc d m }
def State.updMc (s : State) (d : Nat) (f : McSt → McSt) : State := s.setMc d (f (s.mcOf d))
def McSt.chan (m : McSt) (c : Nat) : ChSt := Sp.get ChSt.reset m.chans c
def McSt.setChan (m : McSt) (c : Nat) (x : ChSt) : McSt := { m with chans := Sp.set ChSt.reset m.chans c x }
def State.frameAt (s : State) (f : Nat) : Frame := Sp.get Frame.free s.frames f
def State.setFrame (s : State) (f : Nat) (x : Frame) : State := { s with frames := Sp.set Frame.free s.frames f x }
/-- Home die of a tier-1 address (R199). -/
def dieOf (a : Nat) : Nat := a / dieTier1

/-! ### Where a byte lies (R200) -/

/-- Die channel of a tier-1 address. -/
def chanOf (a : Nat) : Nat :=
  let u := a % dieTier1 / 4096
  (u ^^^ (u / 32) ^^^ (u / 1024)) % 32
/-- Offset within the channel. -/
def chanOffset (a : Nat) : Nat :=
  let o := a % dieTier1
  o / 4096 / 32 * 4096 + o % 4096
/-- Rank, bank, row and data slot. -/
def rankOf (a : Nat) : Nat := chanOffset a / 64 / 30 / 16 % 4
def bankOf (a : Nat) : Nat := chanOffset a / 64 / 30 % 16
def rowOf (a : Nat) : Nat := chanOffset a / 64 / 30 / 64
def slotOf (a : Nat) : Nat := chanOffset a / 64 % 30
/-- First byte of the code area of a row, and the place of a slot's code word in it (R201). -/
def codeArea : Nat := 1920
def codePlace (a : Nat) : Nat := codeArea + 4 * slotOf a
/-- A bank of a channel, by rank and bank. -/
def bankKey (a : Nat) : Nat := rankOf a * 16 + bankOf a

/-- The die offset of channel `ch`'s byte at channel offset `co`: the inverse of R200. -/
def dieOffset (ch co : Nat) : Nat :=
  let hi := co / 4096
  let lo := (ch ^^^ hi ^^^ (hi / 32)) % 32
  (hi * 32 + lo) * 4096 + co % 4096

/-- Log instance of a controller (R474). -/
def mcInst (d ch : Nat) : Nat := 8 * d + ch / 4

def State.updChan (s : State) (d ch : Nat) (f : ChSt → ChSt) : State := s.updMc d (fun m => m.setChan ch (f (m.chan ch)))

/-- What the check bits of a burst's code word show against the burst (R202). -/
def State.errAt (s : State) (a : Nat) : Ecc := Sp.get .clean (s.mcOf (dieOf a)).errs (burstOf a)
def State.setErr (s : State) (a : Nat) (e : Ecc) : State :=
  s.updMc (dieOf a) (fun m => { m with errs := Sp.set .clean m.errs (burstOf a) e })

/-- Whether a burst number lies in one of the ranges. -/
def inRanges (l : List (Nat × Nat)) (b : Nat) : Bool := l.any (fun r => decide (r.1 ≤ b) && decide (b < r.2))
/-- The ranges without the bursts from `a` up to (not including) `b`. -/
def cutRanges (a b : Nat) : List (Nat × Nat) → List (Nat × Nat)
  | [] => []
  | r :: t =>
    (if r.1 < min r.2 a then [(r.1, min r.2 a)] else []) ++ (if max r.1 b < r.2 then [(max r.1 b, r.2)] else []) ++ cutRanges a b t
/-- A range put at its place, joined to a neighbour that it touches. -/
def putRange (a b : Nat) : List (Nat × Nat) → List (Nat × Nat)
  | [] => [(a, b)]
  | r :: t =>
    if b < r.1 then (a, b) :: r :: t
    else if r.2 < a then r :: putRange a b t
    else putRange (min a r.1) (max b r.2) t

/-- The zero marker, bit 1 of a burst's code word (R202, R224). -/
def State.zeroMarked (s : State) (a : Nat) : Bool := inRanges (s.mcOf (dieOf a)).zeros (burstOf a)

/-- An access to the bank of an address: the burst slots that it takes of its channel's frame (R204, R205), and, where the bank's row
changes, an activation (R212). -/
def State.access (s : State) (a slots : Nat) : State :=
  s.updChan (dieOf a) (chanOf a) (fun c =>
    let c := { c with left := c.left - slots }
    if Sp.get 0 c.open_ (bankKey a) = rowOf a + 1 then c
    else { c with open_ := Sp.set 0 c.open_ (bankKey a) (rowOf a + 1), raa := Sp.upd 0 c.raa (bankKey a) (· + 1) })

/-- A new code word, with the zero marker off and the poison marker as given (R204). -/
def State.newCode (s : State) (a : Nat) (p : Bool) : State :=
  (s.updMc (dieOf a) (fun m => { m with errs := Sp.set .clean m.errs (burstOf a) .clean,
                                        zeros := cutRanges (burstOf a) (burstOf a + 1) m.zeros })).setPoison a p

/-- Whether a tier-1 address lies in a quarantined page (R217). -/
def State.quarantined (s : State) (a : Nat) : Bool := isTier1 a && (s.frameAt (a / pageSize)).quar

/-- R464: a write to a tier-1 page of a generation job of a watched module goes to the watcher as WSEG. -/
def State.noteWrite (s : State) (a : Nat) (bs : List Byte) (p : Bool) : State :=
  let f := a / pageSize
  match s.watched, (s.frameAt f).owner, s.image with
  | true, some (tn, jn, _), some im =>
    let job := s.jobs.find? (fun x => x.2.info.job == jn && x.2.info.tenant == tn && x.2.info.kind == 1)
    let va := (s.pages.find? (fun e => match e.2.dest with
      | .tier1 g _ => g == f && e.1 / 2 ^ 32 == tn
      | _ => false)).map (fun e => e.1 % 2 ^ 32 * 65536 + a % pageSize)
    match job, va with
    | some j, some v =>
      (match im.tensors.find? (fun t => t.tenant == tn && decide (t.va ≤ v) && decide (v < t.va + t.size * pageSize)) with
        | some t => { s with watchOut := s.watchOut ++ [⟨0x23, b2n p, jn, j.2.upd.st.step.toNat + 1,
            leBytes 3 t.id ++ zeros 1 ++ leBytes 8 (v - t.va) ++ leBytes 4 bs.length, bs, (0, 0)⟩] }
        | none => s)
    | _, _ => s
  | _, _, _ => s

/-- A burst read at its controller: of a quarantined page, or with the poison marker, it is counted (R216, R217); what its code word
shows is noted for the steps of R215 and R216, of which the poison marker is set at once. -/
def State.noteBurst (s : State) (b cause : Nat) : State :=
  let a := 64 * b
  if s.quarantined a || s.isPoisoned a then s.updMc (dieOf a) (fun m => { m with poisonRd := satAdd32 m.poisonRd 1 })
  else
    match s.errAt a with
    | .clean => s
    | .corrected => s.updMc (dieOf a) (fun m => { m with met := m.met ++ [(b, cause, .corrected)] })
    | .uncorrectable => (s.updMc (dieOf a) (fun m => { m with met := m.met ++ [(b, cause, .uncorrectable)] })).setPoison a true

/-- The bursts of a read of tier 1. -/
def State.noteBursts (s : State) (b cause : Nat) : Nat → State
  | 0 => s
  | n + 1 => ((s.access (64 * b) 1).noteBurst b cause).noteBursts (b + 1) cause n
def State.noteRead (s : State) (a n : Nat) : State := if isTier1 a then s.noteBursts (burstOf a) 1 (burstCount a n) else s

/-- One piece of a tier-1 write, within one burst: a quarantined page discards it (R217); a whole burst takes a new code word; a part
is merged, as a read, which the code checks, and a write (R204); a merge into a burst that is poisoned or cannot be corrected stores
nothing (R204, R219). `p` is poison carried by the data (R190). -/
def State.wrPiece (s : State) (a : Nat) (bs : List Byte) (p : Bool) : State :=
  if !isTier1 a then { s with mem := wrBytes s.mem a bs }
  else if s.quarantined a then s
  else if bs.length = 64 then ({ (s.access a 1) with mem := wrBytes s.mem a bs }.newCode a p).noteWrite a bs p
  else
    let s := (s.access a 3).noteBurst (burstOf a) 2
    if s.isPoisoned a then s else ({ s with mem := wrBytes s.mem a bs }.newCode a p).noteWrite a bs p

/-- A write cut into the bursts it touches; `fuel` bounds their number. -/
def State.wrPieces (s : State) (a : Nat) (bs : List Byte) (p : Bool) : Nat → State
  | 0 => s
  | fuel + 1 =>
    match bs with
    | [] => s
    | _ =>
      let n := 64 - a % 64
      (s.wrPiece a (bs.take n) p).wrPieces (a + n) (bs.drop n) p fuel

/-- A write of bytes at a physical address, with poison marking in tier 1. -/
def State.wrPhys (s : State) (a : Nat) (bs : List Byte) (p : Bool) : State := s.wrPieces a bs p (bs.length / 64 + 2)

/-- Whether a read of `n` bytes of tier 1 at `a` comes poisoned: the page is quarantined, a burst has the poison marker, or its code
word shows an uncorrectable error (R216, R217). -/
def State.readsBad (s : State) (a n : Nat) : Bool :=
  s.quarantined a || s.poisonIn a n || badErrs (s.mcOf (dieOf a)).errs (burstOf a) (burstCount a n)

/-- A read of bytes at a physical address: the bytes and whether any of them is poisoned (R190, R216, R217). -/
def State.rdPhys (s : State) (a n : Nat) : List Byte × Bool :=
  if isTier1 a && s.readsBad a n || isTier2 a && s.poisonIn a n then (zeros n, true) else (rdBytes s.mem a n, false)

/-! ### Accesses that wait (R95, R247, R249) -/

def State.tubOf (s : State) (d : Nat) : TubDie := Sp.get TubDie.reset s.tub d
def State.setTub (s : State) (d : Nat) (t : TubDie) : State := { s with tub := Sp.set TubDie.reset s.tub d t }
def State.updTub (s : State) (d : Nat) (f : TubDie → TubDie) : State := s.setTub d (f (s.tubOf d))

/-- The die channel that the beat in progress holds free for maintenance (R95). -/
def State.maintChan (s : State) : Option Nat :=
  if s.isMaint s.beats.beat then some (s.beats.beat / s.maintPeriod % 32) else none

/-- Whether a running record touches the bank of an address. -/
def BankHold.covers (h : BankHold) (a : Nat) : Bool := bitN (chanOf a) h.chans && bitN (rankOf a) h.ranks && bitN (bankOf a) h.banks

/-- Whether an ordinary access to an address waits: its channel is held by maintenance (R95), or a record that has started touches
its bank, so that the access takes effect after the record (R247, R249). -/
def State.heldAt (s : State) (a : Nat) : Bool :=
  isTier1 a && (decide (s.maintChan = some (chanOf a)) || (s.tubOf (dieOf a)).holds.any (fun h =>
    h.covers a && s.lists.any (fun l => l.id == h.list)))

/-! ### Heat (R264) -/

/-- 4 KiB units that `n` bytes at `a` touch. -/
def units4k (a n : Nat) : Nat := if n = 0 then 0 else (a + n - 1) / 4096 - a / 4096 + 1

/-- A read of a placement-class-0 tensor counted in the heat of its page. -/
def T2Tensor.heatRead (t : T2Tensor) (va n : Nat) : T2Tensor :=
  if t.cls = 0 then
    let i := (va - t.va) / pageSize
    { t with heat := Sp.upd 0 t.heat i (fun h => min 65535 (h + units4k va n)) }
  else t

/-- R264: a read of `n` bytes of one page, served from tier 2 or from a promoted copy. -/
def State.heatRead (s : State) (tenant va n : Nat) : State :=
  let upd (k : Nat) : State := { s with t2 := Sp.upd T2Tensor.none s.t2 k (fun t => t.heatRead va n) }
  match (s.pageOf tenant va).2.dest with
  | .tier2 _ k => upd k
  | .tier1 f _ =>
    match (s.frameAt f).owner with
    | some (_, _, .copy k) => upd k
    | _ => s
  | _ => s

/-! ### Host memory -/

/-- Host address of a virtual address on a host region page. -/
def State.hostAddr (s : State) (tenant va : Nat) : Option Nat :=
  match (s.pageOf tenant va).2.dest with
  | .hostPage r p => some (((s.tenant tenant).region r).base + p * 65536 + va % 65536)
  | _ => none

/-- A posted write to a host region (R400, R403). -/
def State.hostWrite (s : State) (addr : Nat) (bs : List Byte) : State :=
  { s with hostOut := s.hostOut ++ [⟨Config.hostPort addr % 2, addr, bs⟩] }

/-- A DMA read of host memory issued, and its identifier (R404). -/
def State.dmaRead (s : State) (use : DmaUse) (addr len : Nat) : State × Nat :=
  let id := s.hl.nextDma
  ({ s with hl := { s.hl with dma := s.hl.dma ++ [⟨id, use, addr, len, s.now⟩], nextDma := id + 1 } }, id)

/-! ### Queues toward the host (R403, R405, R409, R410, R464) -/

/-- Whether the ring of a queue can be written now. -/
def State.ringOpen (s : State) (t : Tenant) (q : Queue) : Bool :=
  decide (s.hl.state = 1) && t.hostEn && q.isSet && !q.err

/-- The entries of a shadow from index `w` on, up to the first whose QSEG is not acknowledged. -/
def Queue.due (q : Queue) (watched : Bool) : List (W32 × Entry) :=
  q.shadow.filter (fun e => decide ((e.1 - q.wrote).toNat < 2 ^ 31) &&
    (!watched || decide (2 ^ 31 ≤ (e.1 - q.acked).toNat)))

/-- A queue's unwritten entries written to its ring in host memory. -/
def State.flushQueue (s : State) (tn qn : Nat) : State :=
  let t := s.tenant tn
  let q := t.queue qn
  if s.ringOpen t q then
    let due := q.due s.watched
    let outs := due.map (fun e => (⟨q.port, q.base + 64 * (e.1.toNat % 2 ^ q.depthExp), entryBytes e.2⟩ : HostOut))
    { s with hostOut := s.hostOut ++ outs }.setTenant tn (t.setQueue qn { q with wrote := q.wrote + BitVec.ofNat 32 due.length })
  else s

/-- Room in the shadow of a device-to-host queue. -/
def Queue.room (q : Queue) : Bool := decide (q.depthExp ≠ 0) && decide (q.shadow.length < 2 ^ q.depthExp)

/-- An entry put into the shadow of a queue, with the next index; a watched module sends it as QSEG (R463). -/
def State.pushShadow (s : State) (tn qn : Nat) (e : W32 → Entry) : State :=
  let t := s.tenant tn
  let q := t.queue qn
  let i := q.prod
  let s := s.setTenant tn (t.setQueue qn { q with prod := i + 1, shadow := q.shadow ++ [(i, e i)] })
  if s.watched then
    { s with watchOut := s.watchOut ++
        [⟨0x24, 0, tn, 0, leBytes 1 qn ++ zeros 3 ++ leBytes 4 i.toNat ++ zeros 8, entryBytes (e i), (0, 0)⟩] }
  else s

/-- Waiting completion records and events moved into the shadow of queue 1 while it has room. -/
def State.drainWaiting (s : State) (tn : Nat) : Nat → State
  | 0 => s
  | fuel + 1 =>
    let t := s.tenant tn
    match t.waiting with
    | [] => s
    | e :: es =>
      if (t.queue 1).room then
        let event := decide (0x80 ≤ entryField e 0 1)
        ((s.setTenant tn { t with waiting := es }).pushShadow tn 1
          (fun i => if event then e + (BitVec.ofNat 512 i.toNat <<< 32) else e)).drainWaiting tn fuel
      else s

/-- A completion record or event for queue 1. -/
def State.post1 (s : State) (tn : Nat) (e : Entry) : State :=
  let s := s.updTenant tn (fun t => { t with waiting := t.waiting ++ [e] })
  (s.drainWaiting tn (s.tenant tn).waiting.length).flushQueue tn 1

/-- R410: an event; its index (bytes 4 to 7) is that of its own entry. -/
def State.postEvent (s : State) (tn op : Nat) (detail : List (Nat × Nat × Nat)) : State :=
  s.post1 tn (mkEntry ((0, 1, op) :: detail))

/-- R409: the completion record of a command entry. -/
def State.complete (s : State) (tn : Nat) (cmd : Entry) (status code : Nat) (more : List (Nat × Nat × Nat)) : State :=
  if bitN 8 cmd.toNat && decide (status = 0) then s
  else
    s.post1 tn (mkEntry ([(0, 1, entryField cmd 0 1), (1, 1, status), (4, 4, entryField cmd 4 4), (8, 8, entryField cmd 8 8),
      (16, 4, code), (24, 8, s.now)] ++ more))

/-- FENCE commands (R408) of a tenant that wait for nothing any more complete. -/
def State.releaseFences (s : State) (tn : Nat) : Nat → State
  | 0 => s
  | fuel + 1 =>
    let t := s.tenant tn
    match t.fences.find? (fun f => f.2.isEmpty) with
    | none => s
    | some f =>
      let i := entryField f.1 4 4
      let t' := { t with
        fences := (t.fences.filter (fun g => g.1 != f.1)).map (fun g => (g.1, g.2.filter (· != i)))
        open_ := t.open_.filter (· != i) }
      ((s.setTenant tn t').complete tn f.1 0 0 []).releaseFences tn fuel

/-- A command ends: its completion record is posted, and fences wait for it no longer. -/
def State.finish (s : State) (tn : Nat) (cmd : Entry) (status code : Nat) (more : List (Nat × Nat × Nat)) : State :=
  let i := entryField cmd 4 4
  let s := (s.complete tn cmd status code more).updTenant tn (fun t => { t with
    open_ := t.open_.filter (· != i), fences := t.fences.map (fun g => (g.1, g.2.filter (· != i))) })
  s.releaseFences tn ((s.tenant tn).fences.length + 1)

/-! ### Jobs -/

def JobRec.none : JobRec :=
  { job := 0, tenant := 0, kind := 0, slot := 0, sExp := 0, hExp := 0, rule := 0, sched := 0, hostCopy := 0,
    ringBands := 0, staging := 0, eInit := 0, eMin := 0, eMax := 0, interval := 0, grow := 0, back := 0,
    beta1 := 0#32, beta2 := 0#32, eps := 0#32, mu := 0#32, limit := 0#32, clip := 0#32, lrPeak := 0#32,
    lrEnd := 0#32, warm := 0, total := 0, pieces := [], mand0 := 0, mand1 := 0, layers := 0, layerPages := 0,
    stepCtxs := [], progs := [] }

def Job.none : Job :=
  { life := .none, info := JobRec.none, seed := 0#64, cmd := 0#512, layers := 0, map := [], stages := [], stage := 0, pend := Option.none,
    upd := UpdSt.none }
def State.job (s : State) (k : Nat) : Job := Sp.get Job.none s.jobs k
def State.setJob (s : State) (k : Nat) (j : Job) : State := { s with jobs := Sp.set Job.none s.jobs k j }
def State.updJob (s : State) (k : Nat) (f : Job → Job) : State := s.setJob k (f (s.job k))

/-- The slot of the job that a program belongs to. -/
def State.jobSlot (s : State) (p : Prog) : Option Nat :=
  (s.jobs.find? (fun j => j.2.info.tenant == p.tenant && j.2.info.progs.contains p.id)).map (·.1)

/-- This module's node identifier. -/
def State.self (s : State) : Nat :=
  match s.image with
  | some im => im.fabric.self
  | none => 0

/-- The shard slot that a context of a program on a core is bound to (R366): the image has no field for it. -/
def Job.slotFor (j : Job) (core prog : Nat) : Nat := Config.shardSlot core prog % 2 ^ j.info.hExp

/-- The acting shard of a context (R366): the shard that its slot holds here. -/
def State.actingShard (s : State) (k core prog : Nat) : Option Nat :=
  let j := s.job k
  (List.range j.map.length).find? (fun l => j.map.getD l (0, 0) == (s.self, j.slotFor core prog))

/-- Whether a context may begin a tick for its job: the job runs, and in a sharded job its slot holds a shard (R366). -/
def State.mayTick (s : State) (n : Nat) (p : Prog) : Bool :=
  match s.jobSlot p with
  | some k => decide ((s.job k).life = .running) && (decide ((s.job k).map = []) || (s.actingShard k n p.id).isSome)
  | none => false

/-- Whether a context may go on with its tick: its job runs, or is stopping and lets the tick end (R103, R408). -/
def State.mayGoOn (s : State) (p : Prog) : Bool :=
  match s.jobSlot p with
  | some k => decide ((s.job k).life = .running) || decide ((s.job k).life = .stopping)
  | none => false

/-- Whether a context may hold the core: in its tick, or to begin one. -/
def State.mayHold (s : State) (n k : Nat) : Bool :=
  let x := s.ctx n k
  decide (x.life = .live) && (if x.inTick then s.mayGoOn x.prog else s.mayTick n x.prog)

/-- Every context of a job's programs changed. -/
def State.mapJobCtxs (s : State) (j : JobRec) (f : Ctx → Ctx) : State :=
  { s with
    cores := s.cores.map (fun c => (c.1, { c.2 with
      ctxs := c.2.ctxs.map (fun x =>
        (x.1, if x.2.prog.tenant == j.tenant && j.progs.contains x.2.prog.id then f x.2 else x.2)) })) }

/-- Whether a context of a job is in a tick. -/
def State.jobTicks (s : State) (j : JobRec) : Bool :=
  s.cores.any (fun c => c.2.ctxs.any (fun x =>
    x.2.inTick && x.2.prog.tenant == j.tenant && j.progs.contains x.2.prog.id))

/-- A frame given back: free, unless it is quarantined or its retirement waited for this (R221). -/
def Frame.release (f : Frame) : Frame :=
  { owner := none, quar := f.quar, withdrawn := f.withdrawn || f.pend, pend := false }

/-- The frames that a predicate on the owner selects, given back. -/
def releaseFrames (sel : Nat × Nat × FrameUse → Bool) : Sp Frame → Sp Frame
  | [] => []
  | (k, f) :: t =>
    let f' := match f.owner with
      | some o => if sel o then f.release else f
      | none => f
    if f' = Frame.free then releaseFrames sel t else (k, f') :: releaseFrames sel t

/-- How many frames a predicate on the owner selects. -/
def countFrames (sel : Nat × Nat × FrameUse → Bool) (t : Sp Frame) : Nat :=
  (t.filter (fun f => match f.2.owner with
    | some o => sel o
    | none => false)).length

/-- The page-map entries of a tenant that lead to frames a predicate selects, unmapped. -/
def State.unmapFrames (s : State) (tn : Nat) (sel : Nat × Nat × FrameUse → Bool) : Sp PageEnt :=
  s.pages.filter (fun p => !(p.1 / 2 ^ 32 == tn && (match p.2.dest with
    | .tier1 f _ => (match (s.frameAt f).owner with
      | some o => sel o
      | none => false)
    | _ => false)))

def Tenant.excess (t : Tenant) : Nat := (t.use1 - t.quota1) + (t.use2 - t.quota2)

/-- A change of the over-quota state reported (R275, R410 event 0x84); a change of the excess logged. -/
def State.reportQuota (s : State) (tn : Nat) : State :=
  let t := s.tenant tn
  let o1 := decide (t.quota1 < t.use1)
  let o2 := decide (t.quota2 < t.use2)
  let e := t.excess
  let s' := s.setTenant tn { t with over1 := o1, over2 := o2, lastExcess := e }
  let s' := if e ≠ t.lastExcess then s'.logAs 0x0D 0 0x0051 1 (some tn) [(4, e)] else s'
  if o1 ≠ t.over1 ∨ o2 ≠ t.over2 then s'.postEvent tn 0x84 [(16, 1, b2n o1 + 2 * b2n o2), (24, 8, e)] else s'

/-- A tenant's frames selected by a predicate freed: unmapped, given back, and taken out of its use (R272). -/
def State.freeFrames (s : State) (tn : Nat) (sel : Nat × Nat × FrameUse → Bool) : State :=
  let n := countFrames sel s.frames
  ({ s with pages := s.unmapFrames tn sel, frames := releaseFrames sel s.frames }.updTenant tn
    (fun t => { t with use1 := t.use1 - n })).reportQuota tn

/-- The directory's SRAM windows that come and go with a job: its own, and those that the jobs of its tenant share where no other of
them is admitted (R256, R445). -/
def State.jobWindows (s : State) (j : JobRec) : List TensorRec :=
  let alone := s.jobs.all (fun x => x.2.life == .none || x.2.info.tenant != j.tenant || x.2.info.job == j.job)
  match s.image with
  | some im => im.tensors.filter (fun t => t.kind == 10 && t.tenant == j.tenant && (t.job == j.job || (t.job == 0xFFFF && alone)))
  | none => []

/-- Their map keys. -/
def State.windowKeys (s : State) (j : JobRec) : List Nat :=
  (s.jobWindows j).flatMap (fun t => (List.range t.size).map (fun i => pageKey t.tenant (t.va / 65536 + i)))

/-- A field of a message's header, and the job slot that it names (R349). -/
def LMsg.f (m : LMsg) (off n : Nat) : Nat := leVal ((m.hdr.drop off).take n)
def LMsg.slot (m : LMsg) : Nat := m.f 14 2 / 4096

/-- The collective instances, the requests and the compressions of a job slot given up. -/
def State.dropColl (s : State) (k : Nat) : State :=
  { s with
    coll := { s.coll with
      insts := s.coll.insts.filter (fun i => i.job != k)
      held := s.coll.held.filter (fun h => h.job != k)
      waiting := s.coll.waiting.filter (fun m => m.slot != k) }
    cz := s.cz.map (fun (d : Nat × CzDie) => (d.1, { d.2 with runs := d.2.runs.filter (fun z => z.inst != k) })) }

/-- A job whose contexts are all out of their ticks ends: contexts retire, its pages and windows are freed, and a JOB_STOP
that waits for this completes (R408). The tenant's promotions go on unless another of its jobs stops them (R273). -/
def State.endJob (s : State) (k : Nat) : State :=
  let j := s.job k
  if j.life = .stopping ∧ s.jobTicks j.info = false then
    let tn := j.info.tenant
    let s := s.mapJobCtxs j.info (fun x => { x with life := .retired })
    let s := s.freeFrames tn (fun o => o.1 == tn && o.2.1 == j.info.job)
    let drop := s.windowKeys j.info
    let s := { s with pages := s.pages.filter (fun p => !drop.contains p.1) }
    let s := (s.setJob k Job.none).dropColl k
    let s := s.updTenant tn (fun t => { t with
      use0 := t.use0 - drop.length
      promStop := s.jobs.any (fun x => x.2.info.tenant == tn && decide (x.2.layers < x.2.info.layers)) })
    if entryField j.cmd 0 1 = 2 then s.finish tn j.cmd 0 0 [] else s
  else s

/-- The steward stops a job on this module: logged (0x0045), reported as event 0x82; its contexts retire at their next
tick end (R103, R408, R410). -/
def State.stopJob (s : State) (k : Nat) (cause : Nat) : State :=
  let j := s.job k
  if j.life = .running then
    let r := (Config.stopReason cause).toNat
    let s := s.setJob k { j with life := .stopping }
    let s := s.logAs 0 0 0x0045 3 (some j.info.tenant) [(1, k), (2, r)]
    (s.postEvent j.info.tenant 0x82 [(16, 2, j.info.job), (18, 2, r)]).endJob k
  else s

/-- R466: a module fault. Issue stops, LEAVE is sent, the crumb seal begins with cause 4, and a reset with cause 0x6
follows it. -/
def State.moduleFault (s : State) : State :=
  match s.sealRun with
  | some _ => s
  | none =>
    { s with stopped := true, linkOut := s.linkOut ++ [.leave], sealRun := some ⟨4, s.now, some 6⟩ }

/-- Whether a beat is one that a stretch factor excludes (R461): no tick begins in it. -/
def State.excludes (s : State) (b : Nat) : Bool := b % 2 ^ s.beats.stretch != 0

/-- R92: the first listed program that is running for its tenant takes the time; a new tick begins only in a beat that
stretching does not exclude (R461). -/
def State.fillPick (s : State) (n : Nat) (pass : Option Nat) : List Nat → Option Nat
  | [] => none
  | p :: ps =>
    match (s.core n).liveCtx p with
    | some k =>
      let x := s.ctx n k
      if s.mayHold n k && pass != some p && (x.inTick || !s.excludes s.beats.beat) then some k
      else s.fillPick n pass ps
    | none => s.fillPick n pass ps

/-- A scan of the fill list. -/
def State.fillScan (s : State) (n : Nat) (pass : Option Nat) : State :=
  let c := s.core n
  match s.fillPick n pass c.fillList with
  | some k => s.setCore n { c with run := .restoring k true, yielded := none }
  | none => s.setCore n { c with run := .idle, yielded := none }

/-- Index of a program's first slot in a table. -/
def firstSlot (sl : List Slot) (prog : Nat) : Option Nat := sl.findIdx? (fun x => !x.open_ && x.prog == prog)

/-- The context that the slot in force gives the core to: the slot's program while its tick is in progress, or, at the slot's
start, when its tick for this beat is due (R90, R91, R461). -/
def State.slotCtx (s : State) (n : Nat) (atStart : Bool) : Option Nat :=
  let c := s.core n
  match c.slot with
  | 0 => none
  | i + 1 =>
    match c.slots[i]? with
    | some sl =>
      if sl.open_ then none
      else
        match c.liveCtx sl.prog with
        | some k =>
          let x := s.ctx n k
          let due := atStart && x.tickBeat != s.beats.beat + 1 && firstSlot c.slots sl.prog == some i &&
            !s.excludes s.beats.beat
          if s.mayHold n k && (x.inTick || due) then some k else none
        | none => none
    | none => none

/-- What the core does next when nothing runs: the slot's program, else fill work (R92); nothing while drained or
draining (R104). `atStart` says that a slot has just begun. -/
def State.schedule (s : State) (n : Nat) (pass : Option Nat) (atStart : Bool := false) : State :=
  let c := s.core n
  if c.drainReq then s.setCore n { c with run := .drained }
  else if s.stopped then s.setCore n { c with run := .idle }
  else
    match s.slotCtx n atStart with
    | some k => s.setCore n { c with run := .restoring k false }
    | none => s.fillScan n pass

/-- A context parked (R103, R169): it runs no more ticks. -/
def State.parkCtx (s : State) (n k : Nat) : State :=
  s.updCtx n k (fun x => { x with life := .parked, inTick := false, hold := .none })

/-- A core whose running context is parked or retired takes other work. -/
def State.release (s : State) (n k : Nat) : State :=
  if (s.core n).running = some k ∧ (s.ctx n k).life ≠ .live then s.schedule n none else s

/-- A context parked; the core takes other work. -/
def State.park (s : State) (n k : Nat) : State := (s.parkCtx n k).release n k

/-! ### Replay (R316, R467, R468) -/

/-- Bytes XORed into memory at a physical address, with the poison mark left as it is. -/
def xorBytes (m : Sp Byte) (a : Nat) : List Byte → Sp Byte
  | [] => m
  | b :: bs => xorBytes (wrByte m a (rdByte m a ^^^ b)) (a + 1) bs

/-- Whether a context runs a program of a job. -/
def Ctx.ofJob (x : Ctx) (j : JobRec) : Bool := x.prog.tenant == j.tenant && j.progs.contains x.prog.id

/-- A context at step entry with step register `r`. -/
def Ctx.restart (x : Ctx) (r : W32) : Ctx := { Ctx.fresh with life := .live, prog := x.prog, stepReg := r }

/-- The groups of contexts put back to what a job start leaves (R165). -/
def CoreSt.clearGroups (c : CoreSt) (ks : List Nat) : CoreSt :=
  { c with grps := ks.foldl (fun g k => Sp.eraseRange (k * 2048) ((k + 1) * 2048) g) c.grps }

/-- A core whose contexts of a job start again: their flags, transfers and queues are gone. -/
def CoreSt.restart (c : CoreSt) (j : JobRec) (r : W32) : CoreSt :=
  let mine := (c.ctxs.filter (fun x => x.2.ofJob j && x.2.life != .retired)).map (·.1)
  { c.clearGroups mine with
    ctxs := c.ctxs.map (fun x => (x.1, if mine.contains x.1 then x.2.restart r else x.2))
    peas := c.peas.filter (fun m => !mine.contains m.ctx) }

/-- Slots that hold arriving shards during a move are numbered from here on. -/
def movingSlot : Nat := 256

/-- The frames that hold arriving shards. -/
def movingFrame (tn job : Nat) (o : Nat × Nat × FrameUse) : Bool :=
  o.1 == tn && o.2.1 == job && (match o.2.2 with
    | .part _ sl _ => decide (movingSlot ≤ sl)
    | _ => false)

/-- A move under way is abandoned (R383): the pages of what arrives are freed, and the old map stands. -/
def State.dropMove (s : State) (k : Nat) : State :=
  let j := (s.job k).info
  if countFrames (movingFrame j.tenant j.job) s.frames = 0 then s
  else (s.freeFrames j.tenant (movingFrame j.tenant j.job)).updJob k (fun x => { x with pend := none })

/-- The lists and collective instances of a job's contexts given up; its sequencer forgets the step in hand. -/
def State.forgetStep (s : State) (k : Nat) (r : W32) : State :=
  let j := s.job k
  let mine (n x : Nat) : Bool := (s.ctx n x).ofJob j.info
  let u := j.upd
  let back (e : Nat × Nat × List Byte) : Bool := decide (r.toNat ≤ e.1)
  let mem := (u.undo.filter back).foldl (fun m e => xorBytes m e.2.1 e.2.2) s.mem
  let s := { s with
    mem := mem
    lists := s.lists.filter (fun l => match l.from_ with
      | .core n x _ _ => !mine n x
      | .partialOf k' _ _ _ => k' != k
      | _ => true) }
  (s.dropColl k).updJob k (fun j => { j with upd := { u with
    issues := u.issues.filter (fun i => i.step != r)
    landed := [], parts := [], shards := [], waitNorm := false, rsegs := 0, rcrc := 0, leaves := 0, rend := false,
    replay := false, noEscrow := false, undo := u.undo.filter (fun e => !back e) } })

/-- The contexts of a job start again at step entry with step register `r`. -/
def State.restartJob (s : State) (k : Nat) (r : W32) : State :=
  let j := (s.job k).info
  let run := s.cores.filter (fun c => match c.2.running with
    | some x => (c.2.ctx x).ofJob j
    | none => false)
  let s := (s.dropMove k).forgetStep k r
  let s := { s with cores := s.cores.map (fun c => (c.1, c.2.restart j r)) }
  run.foldl (fun s c => s.schedule c.1 none) s

/-- The step after the last decided one. -/
def Job.replayStep (j : Job) : W32 :=
  match j.upd.dec with
  | .some d => d.next.step + 1
  | .none => j.upd.st.step + 1

/-- The contexts of a job wait, parked, until the update stage of the step in hand ends; then they start again (R467 step 5). -/
def State.holdJob (s : State) (k : Nat) : State :=
  let j := (s.job k).info
  let mine := s.cores.flatMap (fun (c : Nat × CoreSt) => (c.2.ctxs.filter (fun x => x.2.ofJob j && x.2.life == .live)).map (fun x => (c.1, x.1)))
  (mine.foldl (fun (s : State) x => s.park x.1 x.2) s).updJob k (fun y => { y with upd := { y.upd with replay := true } })

/-- A job is settled by replay: at once, or when the update stage of a decided step has ended (R467, R468). -/
def State.replayJob (s : State) (k : Nat) : State :=
  if (s.job k).upd.dec.isSome then s.holdJob k else s.restartJob k (s.job k).replayStep

/-- A step of a job stopped by poison, a fail outcome or an abandoned instance. A sharded job is settled by replay, until
the same step stops three times in a row (R468); another job stops. `cause` is that of record 0x0042. -/
def State.stepStop (s : State) (k : Nat) (cause : Nat) : State :=
  let j := s.job k
  if j.map = [] then s.stopJob k (0x100 + cause)
  else
    let r := j.replayStep
    let n := if j.upd.fails.1 = r then j.upd.fails.2 + 1 else 1
    let s := s.updJob k (fun j => { j with upd := { j.upd with fails := (r, n) } })
    let s := s.logAs 0 0 0x0042 3 (some j.info.tenant) [(1, k), (4, r.toNat), (1, cause)]
    if 3 ≤ n then s.stopJob k (0x100 + cause) else s.replayJob k

/-- Bank and index of the instruction at a context's program counter. -/
def State.instrIndex (s : State) (n k : Nat) : Nat := (s.ctx n k).pc

/-- R102, R103: a sequencer fault of context `k`: the context is parked, its job is stopped, and then the core takes other
work. Fault 0x03 is a fault of the module. -/
def State.seqFault (s : State) (n k code : Nat) : State :=
  let x := s.ctx n k
  let s := s.updCore n (fun c => { c with fault := true, faultCode := code, faultCtx := k })
  let s := s.logAs 1 n 0x0002 3 (some x.prog.tenant) [(1, n), (1, k), (1, code), (2, x.prog.id), (2, x.pc)]
  let slot := s.jobSlot x.prog
  let s := s.parkCtx n k
  let s := if code = 3 then s.moduleFault
    else
      match slot with
      | some j => s.stopJob j code
      | none => s
  s.release n k

end Sys2Proof.Machine
end

