-- ==== Sys2Proof/Machine/Sequencer.lean ====
section
/-!
DEFINITION. The sequencer: fetch, the wait field, and what control and scalar instructions do (R72 to R79, R102).
-/

namespace Sys2Proof.Machine

/-- R169: a poison stop of context `k` on group `g`. -/
def State.poisonStop (s : State) (n k g : Nat) : State :=
  let x := s.ctx n k
  let s := s.logAs 1 n 0x0004 3 (some x.prog.tenant) [(1, n), (1, k), (2, g)]
  let slot := s.jobSlot x.prog
  let s := s.parkCtx n k
  let s := match slot with
    | some j => s.stepStop j 1
    | none => s
  s.release n k

/-- What a fetch gives: nothing (the sequencer cannot issue), a fault, or the instruction word. -/
inductive Fetched where
  | idle
  | fault (ctx code : Nat)
  | word (ctx : Nat) (w : IWord)
deriving DecidableEq, Repr

/-- R72, R81, R102: fetch at the running context's program counter, in the active bank. -/
def State.fetch (s : State) (n : Nat) (ecc : Ecc) : Fetched :=
  let c := s.core n
  match c.running with
  | none => .idle
  | some k =>
    let x := c.ctx k
    if s.stopped || !x.inTick || x.hold != .none then .idle
    else if x.prog.length ≤ x.pc then .fault k 5
    else
      match ecc with
      | .uncorrectable => .fault k 3
      | _ => .word k (c.word c.active (x.prog.start + x.pc))

/-- The record of a corrected program word (R81). -/
def State.logCorrected (s : State) (n k : Nat) (ecc : Ecc) : State :=
  match ecc with
  | .corrected =>
    let x := s.ctx n k
    s.logAs 1 n 0x0005 1 (some x.prog.tenant) [(1, n), (1, b2n (s.core n).active), (2, x.prog.start + x.pc)]
  | _ => s

/-- State of a wait field: ready, held, or poisoned (R76, R166, R169). -/
inductive WaitState where
  | ready | held | poisoned
deriving DecidableEq, Repr

def CoreSt.waitState (c : CoreSt) (k : Nat) (w : IWord) : WaitState :=
  if !w.waitEn then .ready
  else
    let g := c.grp k w.waitGroup
    if !g.isSet then .held else if g.poison then .poisoned else .ready

/-- One step of the sequencer that takes an instruction of class `cls` and opcode `opc`. A fetch fault and an illegal
word fault; a word of another instruction is not this step, and leaves the state as it was. -/
def State.seqStep (s : State) (n : Nat) (ecc : Ecc) (cls opc : Nat) (eff : State → Nat → Nat → IWord → State) : State :=
  match s.fetch n ecc with
  | .idle => s
  | .fault k code => s.seqFault n k code
  | .word k w =>
    if !wordLegal w then (s.logCorrected n k ecc).seqFault n k 1
    else if w.cls ≠ cls ∨ w.opc ≠ opc then s
    else eff (s.logCorrected n k ecc) n k w

/-- An instruction of the sequencer's own classes, behind its wait field (R76, R169). -/
def seqOwn (eff : State → Nat → Nat → IWord → State) (s : State) (n k : Nat) (w : IWord) : State :=
  match (s.core n).waitState k w with
  | .held => s.updCtx n k (fun x => { x with hold := .wait })
  | .poisoned => s.poisonStop n k w.waitGroup
  | .ready => eff s n k w

/-- A control or scalar instruction as a step of the sequencer. -/
def State.ownStep (s : State) (n : Nat) (ecc : Ecc) (cls opc : Nat) (eff : State → Nat → Nat → IWord → State) : State :=
  s.seqStep n ecc cls opc (seqOwn eff)

/-- The context with its program counter at the next instruction. -/
def Ctx.next (x : Ctx) : Ctx := { x with pc := x.pc + 1 }

/-- R78 JUMP, BRANCH, LOOP: fault 0x05 for a target at or beyond the program's length, taken or not. -/
def withTarget (f : Ctx → IWord → Ctx) (s : State) (n k : Nat) (w : IWord) : State :=
  if (s.ctx n k).prog.length ≤ ctlTarget w then s.seqFault n k 5 else s.updCtx n k (fun x => f x w)

def effNop (s : State) (n k : Nat) (_ : IWord) : State := s.updCtx n k Ctx.next
def effJump : State → Nat → Nat → IWord → State := withTarget (fun x w => { x with pc := ctlTarget w })
def effBranchNz : State → Nat → Nat → IWord → State :=
  withTarget (fun x w => if x.reg (ctlSreg w) ≠ 0#32 then { x with pc := ctlTarget w } else x.next)
def effBranchZ : State → Nat → Nat → IWord → State :=
  withTarget (fun x w => if x.reg (ctlSreg w) = 0#32 then { x with pc := ctlTarget w } else x.next)

/-- The count of a LOOP: imm, or s[sreg] when imm is 0. -/
def loopCount (x : Ctx) (w : IWord) : W32 := if ctlImm w = 0#32 then x.reg (ctlSreg w) else ctlImm w

/-- R78 LOOP; a ninth nested LOOP is fault 0x04. -/
def effLoop (s : State) (n k : Nat) (w : IWord) : State :=
  let x := s.ctx n k
  if x.prog.length ≤ ctlTarget w then s.seqFault n k 5
  else if loopCount x w = 0#32 then s.setCtx n k { x with pc := ctlTarget w }
  else if 8 ≤ x.loops.length then s.seqFault n k 4
  else s.setCtx n k { x with loops := (loopCount x w, x.pc + 1) :: x.loops, pc := x.pc + 1 }

/-- R78 LOOP_END; an empty stack is fault 0x04. -/
def effLoopEnd (s : State) (n k : Nat) (_ : IWord) : State :=
  let x := s.ctx n k
  match x.loops with
  | [] => s.seqFault n k 4
  | (c, body) :: rest =>
    if c - 1#32 ≠ 0#32 then s.setCtx n k { x with loops := (c - 1#32, body) :: rest, pc := body }
    else s.setCtx n k { x with loops := rest, pc := x.pc + 1 }

/-- R78 FENCE: nothing queued, running or outstanding. -/
def State.quiet (s : State) (n k : Nat) : Bool :=
  let c := s.core n
  let x := c.ctx k
  x.qmx.isEmpty && x.qve.isEmpty && x.qst.isEmpty && x.qpe.isEmpty && x.qob.isEmpty && x.mx.isEmpty &&
    x.st.isNone && x.veArr.isEmpty && x.outCmds == 0 && c.peas.all (fun p => p.ctx != k)

def effFence (s : State) (n k : Nat) (_ : IWord) : State :=
  if s.quiet n k then s.updCtx n k (fun x => { x.next with ve := none }) else s.updCtx n k (fun x => { x with hold := .fence })
def effTickEnd (s : State) (n k : Nat) (_ : IWord) : State := s.updCtx n k (fun x => { x with hold := .tickEnd })
def effHalt (s : State) (n k : Nat) (_ : IWord) : State := s.updCtx n k (fun x => { x with hold := .halt })
def effReadFlags (s : State) (n k : Nat) (w : IWord) : State :=
  s.updCtx n k (fun x => (x.setReg (ctlSreg w) (x.flags.setWidth 32)).next)
def effClearFlags (s : State) (n k : Nat) (w : IWord) : State :=
  s.updCtx n k (fun x => { x with flags := x.flags.clear ((ctlImm w).setWidth 7), pc := x.pc + 1 })

/-- A scalar instruction on two registers (R79). -/
def scalar (f : W32 → W32 → W32) (s : State) (n k : Nat) (w : IWord) : State :=
  s.updCtx n k (fun x => (x.setReg (scDst w) (f (x.reg (scA w)) (x.reg (scB w)))).next)

def effMovi (s : State) (n k : Nat) (w : IWord) : State :=
  s.updCtx n k (fun x => (x.setReg (scDst w) (ctlImm w)).next)
def effAdd : State → Nat → Nat → IWord → State := scalar (· + ·)
def effSub : State → Nat → Nat → IWord → State := scalar (· - ·)
def effMul : State → Nat → Nat → IWord → State := scalar (· * ·)
def effAnd : State → Nat → Nat → IWord → State := scalar (· &&& ·)
def effOr : State → Nat → Nat → IWord → State := scalar (· ||| ·)
def effXor : State → Nat → Nat → IWord → State := scalar (· ^^^ ·)
def effShl : State → Nat → Nat → IWord → State := scalar (fun a b => a <<< (b.toNat % 32))
def effShr : State → Nat → Nat → IWord → State := scalar (fun a b => a >>> (b.toNat % 32))
def effSltu : State → Nat → Nat → IWord → State := scalar (fun a b => if a.toNat < b.toNat then 1#32 else 0#32)
def effAddi (s : State) (n k : Nat) (w : IWord) : State :=
  s.updCtx n k (fun x => (x.setReg (scDst w) (x.reg (scA w) + ctlImm w)).next)

/-- The effect of a legal control or scalar word, for an instruction released from its wait group. -/
def ownEffect (w : IWord) : State → Nat → Nat → IWord → State :=
  match w.cls, w.opc with
  | 0, 0x01 => effJump
  | 0, 0x02 => effBranchNz
  | 0, 0x03 => effBranchZ
  | 0, 0x04 => effLoop
  | 0, 0x05 => effLoopEnd
  | 0, 0x06 => effFence
  | 0, 0x07 => effTickEnd
  | 0, 0x08 => effHalt
  | 0, 0x09 => effReadFlags
  | 0, 0x0A => effClearFlags
  | 1, 0x00 => effMovi
  | 1, 0x01 => effAdd
  | 1, 0x02 => effSub
  | 1, 0x03 => effMul
  | 1, 0x04 => effAnd
  | 1, 0x05 => effOr
  | 1, 0x06 => effXor
  | 1, 0x07 => effShl
  | 1, 0x08 => effShr
  | 1, 0x09 => effSltu
  | 1, 0x0A => effAddi
  | _, _ => effNop

/-- A control or scalar instruction held on its wait group goes on when the group is set (R166, R169). -/
def State.releaseSeq (s : State) (n : Nat) : State :=
  let c := s.core n
  match c.running with
  | none => s
  | some k =>
    let x := c.ctx k
    if x.hold = .wait ∧ s.stopped = false then
      let w := c.word c.active (x.prog.start + x.pc)
      match c.waitState k w with
      | .held => s
      | .poisoned => s.poisonStop n k w.waitGroup
      | .ready => ownEffect w (s.setCtx n k { x with hold := .none }) n k w
    else s

end Sys2Proof.Machine
end

