-- ==== Sys2Proof/Machine/Context.lean ====
section
/-!
DEFINITION. Contexts, slots, ticks and program banks (R83 to R104, R144 to R146): the operations and the commands.
-/

namespace Sys2Proof.Machine

/-- The steward (R387). -/
def Who.steward : Who := ⟨0, 0⟩
def Who.isSteward (w : Who) : Bool := w.index == 0
/-- The driver: a host-link port under sub-index 0x1000 (R387, R390). -/
def Who.isDriver (w : Who) : Bool := (w.index == 0x5A || w.index == 0x5B) && w.sub == 0x1000

/-- Device physical address of a core's CP_ register (R16). -/
def cpAddr (n off : Nat) : Nat :=
  0x300000000000 + 0x1000000 + (n / 16) * 0x1000000 + 0x800000 + (n % 16) * 0x10000 + off

/-! ### Tile buffers and the save area (R143 to R146) -/

def tileKey (b r c : Nat) : Nat := b * 9216 + r * 96 + c
/-- An element of a buffer; an invalid buffer reads +0 (R144). -/
def tileAt (ve : VeSt) (valid : List Bool) (b r c : Nat) : W32 :=
  if valid.getD b false then Sp.get 0#32 ve.tiles (tileKey b r c) else 0#32
/-- One buffer cleared to +0. -/
def clearTile (ve : VeSt) (b : Nat) : VeSt := { ve with tiles := Sp.eraseRange (b * 9216) ((b + 1) * 9216) ve.tiles }
def clearTiles (ve : VeSt) : VeSt := { ve with tiles := [] }

def tileBytes (ve : VeSt) (b : Nat) : List Byte :=
  (List.range 9216).flatMap (fun e => leBytes 4 (Sp.get 0#32 ve.tiles (b * 9216 + e)).toNat)

/-- R145, R146: each valid buffer written to the save area. -/
def saveTiles (mem : Sp Byte) (base : Nat) (ve : VeSt) (valid : List Bool) : List Nat → Sp Byte
  | [] => mem
  | b :: bs =>
    let mem := if valid.getD b false then wrBytes mem (base + 36864 * b) (tileBytes ve b) else mem
    saveTiles mem base ve valid bs

def loadTile (mem : Sp Byte) (base b : Nat) (ve : VeSt) : VeSt :=
  { ve with tiles := (List.range 9216).foldl (fun t e =>
      Sp.set 0#32 t (b * 9216 + e) (BitVec.ofNat 32 (rdNat mem (base + 36864 * b + 4 * e) 4))) ve.tiles }

/-- R146: each valid buffer read back. -/
def loadTiles (mem : Sp Byte) (base : Nat) (valid : List Bool) (ve : VeSt) : List Nat → VeSt
  | [] => ve
  | b :: bs => loadTiles mem base valid (if valid.getD b false then loadTile mem base b ve else ve) bs

/-! ### Ticks -/

/-- R90, R126, R144, R151: a context begins a tick at its program's entry. -/
def Ctx.beginTick (x : Ctx) (mark : Nat) : Ctx :=
  { x with inTick := true, tickBeat := mark, pc := x.prog.entry, hold := .none,
           conv := List.replicate 4 ConvState.default, valid := [false, false, false, false], rnd := none, ve := none }

/-- The context at the end of its tick (R144, R151). -/
def Ctx.endTick (x : Ctx) : Ctx :=
  { x with inTick := false, hold := .none, valid := [false, false, false, false], rnd := none, ve := none }

/-- The state of a context as it is saved (R100, R101): work since the engines' boundaries is discarded, and FENCE,
TICK_END, HALT and held instructions are taken again. A unit that starts again keeps the conversion state it latched
(R31). -/
def Ctx.saved (x : Ctx) : Ctx :=
  { x with hold := .none, mx := x.mx.map (fun r => { r with reload := true }),
           st := x.st.map (fun t => { t with dma := none, buf := [] }) }

/-- The pending arrivals of completed VSTOREs given (R151). -/
def CoreSt.giveVe (c : CoreSt) (k : Nat) : CoreSt :=
  (((c.ctx k).veArr.foldl (fun c g => c.arrive k g false) c)).setCtx k { c.ctx k with veArr := [] }

/-! ### Commands -/

/-- SLOT_START (R88, R92, R97): the next slot of the core's table begins; the running context is asked to save, and
without one the slot's program, or fill work, is restored. -/
def State.slotStart (s : State) (n : Nat) : State :=
  let c := s.core n
  match c.slots[c.slot]? with
  | none => s
  | some sl =>
    if s.stopped then s
    else
      let L := 2 ^ (12 + s.beats.exp)
      let s := s.advanceTo (s.beats.beat * L + sl.start * L / 1024)
      let c := { c with slot := c.slot + 1, yielded := none }
      match c.run with
      | .running k f => s.setCore n (c.interrupt k f)
      | .saving _ _ => s.setCore n c
      | .drained => s.setCore n c
      | .idle => (s.setCore n c).schedule n none true
      | .restoring _ _ => (s.setCore n c).schedule n none true

def execSlotStart (core : Nat) (s : State) : Out := .next (s.slotStart core)

/-- CP_INT.drain (R97, R104). -/
def State.drainCore (s : State) (n : Nat) : State :=
  let c := s.core n
  match c.run with
  | .running k f => s.setCore n { c.interrupt k f with drainReq := true }
  | .saving _ _ => s.setCore n { c with drainReq := true }
  | _ => s.setCore n { c with drainReq := true, run := .drained }

/-- CP_INT.resume (R104); the service context ends and the vector registers are set to +0 (R148). -/
def State.resumeCore (s : State) (n : Nat) : State :=
  let c := s.core n
  if c.run = .drained then
    s.setCore n { c with drainReq := false, run := .idle, ve := { c.ve with vregs := [] } }
  else s

def execDrain (who : Who) (core : Nat) (s : State) : Out :=
  if who.isSteward then .next (s.drainCore core) else .next (s.logDiscard (cpAddr core 0x20) who true)

def execResume (who : Who) (core : Nat) (s : State) : Out :=
  if who.isSteward then .next (s.resumeCore core) else .next (s.logDiscard (cpAddr core 0x20) who true)

/-- A program header in word `w` at index `i` of a bank (R80, R81): its programs start at multiples of 4 and lie in the bank. -/
def headerProg (i : Nat) (w : IWord) : Option Prog :=
  let v := w.toNat
  let p : Prog := { id := field 15 0 v, tenant := field 27 16 v, start := i, length := field 63 32 v, nmode := field 71 64 v,
                    fillEligible := bitN 72 v, entry := field 95 80 v }
  if i % 4 = 0 ∧ p.id ≠ 0xFFFF ∧ field 31 28 v = 0 ∧ field 79 73 v = 0 ∧ 5 ≤ p.length ∧ i + p.length ≤ 8192 ∧ 4 ≤ p.entry ∧
      p.entry < p.length then some p
  else none

/-- The programs that stand in a bank one behind the other, by their headers. -/
def scanBank (bank : Sp IWord) : List Prog :=
  (bank.foldl (fun (a : Nat × List Prog) e =>
    if e.1 < a.1 then a
    else
      match headerProg e.1 e.2 with
      | some p => (e.1 + p.length, a.2 ++ [p])
      | none => a) (0, [])).2

/-- R81, R84: before it requests a switch, the steward binds the programs of the inactive bank by their start indices. The
programs are those whose headers stand there (log entry 76). -/
def CoreSt.bindInactive (c : CoreSt) : CoreSt :=
  if c.active then { c with progs0 := scanBank c.bank0 } else { c with progs1 := scanBank c.bank1 }

/-- A bank switch requested (R84). -/
def CoreSt.requestSwitch (c : CoreSt) : CoreSt := { c.bindInactive with switchPending := true }

def execBankSwitchRequest (who : Who) (core : Nat) (s : State) : Out :=
  if who.isSteward then .next (s.updCore core CoreSt.requestSwitch)
  else .next (s.logDiscard (cpAddr core 0x04) who true)

def execBankSwitchCancel (who : Who) (core : Nat) (s : State) : Out :=
  if who.isSteward then .next (s.updCore core (fun c => { c with switchPending := false }))
  else .next (s.logDiscard (cpAddr core 0x04) who true)

/-- The word that a commit writes (R86). A held word stands until it is written again; one that a rejected commit has discarded (R83)
and that is not written again is a free value. -/
def heldWord (free : Nat) (d : List (Option W32)) (d3 : W32) : IWord :=
  let g (i : Nat) : W32 := (d.getD i none).getD (Config.unheldWord (4 * free + i))
  d3 ++ g 2 ++ g 1 ++ g 0

/-- PROGRAM_WORD_COMMIT (R82, R83, R86). -/
def State.commitWord (s : State) (n : Nat) (data3 : W32) : State :=
  let c := s.core n
  let c' := { c with pwIndex := (c.pwIndex + 1) % 8192 }
  if c.pwBank = c.active then
    (s.setCore n { c' with wrFault := true, pwData := [none, none, none, none] }).logAs 1 n 0x0007 1 none [(1, n), (1, b2n c.pwBank), (2, c.pwIndex)]
  else
    let w := heldWord s.free c.pwData data3
    let c' := { c' with pwData := c.pwData.set 3 (some data3) }
    s.bump.setCore n
      (if c.pwBank then { c' with bank1 := Sp.set 0#128 c.bank1 c.pwIndex w }
       else { c' with bank0 := Sp.set 0#128 c.bank0 c.pwIndex w })

def execProgramWordCommit (who : Who) (core : Nat) (data3 : W32) (s : State) : Out :=
  if who.isSteward then .next (s.commitWord core data3) else .next (s.logDiscard (cpAddr core 0x1C) who true)

/-- FENCE_COMPLETE (R78). -/
def execFenceComplete (core : Nat) (s : State) : Out :=
  match (s.core core).running with
  | none => .next s
  | some k =>
    if (s.ctx core k).hold = .fence ∧ s.quiet core k = true ∧ s.stopped = false then
      .next (s.updCtx core k (fun x => { x with hold := .none, pc := x.pc + 1, ve := none }))
    else .next s

/-- Whether the running context is fill work. -/
def CoreSt.fillRuns (c : CoreSt) : Bool :=
  match c.run with
  | .running _ f => f
  | _ => false

/-- Whether the work of the running context, or of the one being saved, is fill work. -/
def CoreSt.fillWork (c : CoreSt) : Bool :=
  match c.run with
  | .running _ f => f
  | .saving _ f => f
  | _ => false

/-- A context whose job is stopping retires at its tick end (R408). -/
def State.retireIfStopping (s : State) (n k : Nat) : State :=
  match s.jobSlot (s.ctx n k).prog with
  | none => s
  | some j =>
    if (s.job j).life = .stopping then (s.updCtx n k (fun x => { x with life := .retired })).endJob j else s

/-- The first beats of the next stretch factor (R461): the factor of beat `b`, ahead of the beat in progress. -/
def State.stretchOf (s : State) (b : Nat) : Nat := if s.beats.beat / 8 < b / 8 then s.beats.stretchNext else s.beats.stretch

/-- The overrun record of context `k` for beat `b` (R91), stamped at that beat's first instant; none in a beat that stretching
excludes (R461). The program begins no tick in that beat. -/
def State.overrun (s : State) (n k b : Nat) : State :=
  let x := s.ctx n k
  if b % 2 ^ s.stretchOf b ≠ 0 then s
  else
    let t := ({ s with now := b * s.beatLen }.updCore n (fun c =>
      { c.setCtx k { x with tickBeat := b + 1 } with overruns := satAdd32 c.overruns 1 })).logAs
        1 n 0x0003 1 (some x.prog.tenant) [(2, x.prog.id), (1, n), (4, (x.reg 31).toNat), (4, b)]
    { t with now := s.now }

/-- The overrun records of context `k` for the beats behind `b0` up to `b1`; fill programs have none (R93). -/
def State.overrunTo (s : State) (n k b0 b1 : Nat) : State :=
  if (firstSlot (s.core n).slots (s.ctx n k).prog.id).isSome then
    (List.range (b1 - b0)).foldl (fun (s : State) i => s.overrun n k (b0 + 1 + i)) s
  else s

/-- TICK_END_RETIRE (R75, R90 to R93, R144): the tick is complete; at or after the end of the beat it is an overrun. A fill program goes on with its next tick while it
holds the time. -/
def State.tickEndRetire (s : State) (n k : Nat) : State :=
  let fill := (s.core n).fillRuns
  let s := if fill then s else s.overrunTo n k s.beats.beat (s.now / s.beatLen)
  let s := s.updCtx n k (fun x => (x.setReg 31 (x.reg 31 + 1#32)).endTick)
  let s := s.updCore n (fun c => { c with ve := clearTiles c.ve })
  let s := s.retireIfStopping n k
  let x := s.ctx n k
  if fill ∧ x.life = .live ∧ s.mayTick n x.prog = true ∧ s.excludes s.beats.beat = false then
    s.updCtx n k (fun x => x.beginTick x.tickBeat)
  else s.schedule n none

def execTickEndRetire (core : Nat) (s : State) : Out :=
  match (s.core core).running with
  | none => .next s
  | some k =>
    if (s.ctx core k).hold = .tickEnd ∧ s.quiet core k = true ∧ s.stopped = false then .next (s.tickEndRetire core k)
    else .next s

/-- HALT_RETIRE (R78, R90, R144): the program's slots stay idle for the rest of the job. -/
def State.haltRetire (s : State) (n k : Nat) : State :=
  let s := s.updCtx n k (fun x => { x.endTick with life := .halted })
  let s := s.updCore n (fun c => { c with ve := clearTiles c.ve })
  (s.retireIfStopping n k).schedule n none

def execHaltRetire (core : Nat) (s : State) : Out :=
  match (s.core core).running with
  | none => .next s
  | some k =>
    if (s.ctx core k).hold = .halt ∧ s.quiet core k = true ∧ s.stopped = false then .next (s.haltRetire core k)
    else .next s

/-! ### The bank switch (R84) -/

/-- A context after a switch to a bank with these programs; one that an earlier switch retired starts afresh where its program is
back. -/
def Ctx.rebind (x : Ctx) (progs : List Prog) : Ctx :=
  if x.life = .unbound then x
  else
    match progs.find? (fun p => p.id == x.prog.id) with
    | some p => if x.life = .retired then { x.restart x.stepReg with prog := p } else { x with prog := p }
    | none => { x with life := .retired }

/-- The lowest context number that no program is bound to. -/
def CoreSt.freeCtx (c : CoreSt) : Option Nat := (List.range 64).find? (fun k => (c.ctx k).life == .unbound)

/-- A program bound to a context (R81), if a slot or fill entry names it and none is bound yet. -/
def CoreSt.bindProg (c : CoreSt) (p : Prog) : CoreSt :=
  let named := c.slots.any (fun sl => !sl.open_ && sl.prog == p.id) || c.fillList.contains p.id
  if named && !c.ctxs.any (fun x => x.2.prog.id == p.id) then
    match c.freeCtx with
    | some k => c.setCtx k { Ctx.fresh with life := .live, prog := p }
    | none => c
  else c

def CoreSt.bindAll (c : CoreSt) (ps : List Prog) : CoreSt := ps.foldl CoreSt.bindProg c

/-- A pending switch taken; a context that starts afresh finds its groups as a job start leaves them (R165). It is taken when no context of the core has a tick in progress. -/
def CoreSt.takeSwitch (c : CoreSt) : CoreSt :=
  if c.switchPending && !c.ctxs.any (fun x => x.2.inTick) then
    let a := !c.active
    let ps := c.progs a
    let again := (c.ctxs.filter (fun x => x.2.life == .retired && ps.any (fun p => p.id == x.2.prog.id))).map (·.1)
    { c.clearGroups again with
      active := a, switchPending := false, ctxs := c.ctxs.map (fun (x : Nat × Ctx) => (x.1, x.2.rebind ps)) }.bindAll ps
  else c

end Sys2Proof.Machine
end

