-- ==== Sys2Proof/Machine/MatrixOps.lean ====
section
/-!
DEFINITION. The matrix arrays: descriptors and their checks, units, the products and output conversion (chapter 04).
-/

namespace Sys2Proof.Machine

/-- Rows `lo` to `hi - 1`. -/
def rowsFrom (lo hi : Nat) : List Nat := (List.range (hi - lo)).map (lo + ·)

/-- A little-endian number of `n` bytes in a core's SRAM. -/
abbrev Rd := Nat → Nat → Nat

/-- Whether a byte range ends within core SRAM. -/
def fits (endAt : Nat) : Bool := decide (endAt ≤ sramSize)

/-- Bytes that `n` elements of a width occupy. -/
def packedBytes (bits n : Nat) : Nat := ceilDiv (n * bits) 8

/-- Whether the 32-bit field at `off` has nothing above bit 22 (or 23 for counts). -/
def top (rd : Rd) (off bits : Nat) : Bool := rd off 4 / 2 ^ bits == 0
def val (rd : Rd) (off : Nat) : Nat := rd off 4

/-- R117: an activation record; none when a field is refused (R141). -/
def parseAct (rd : Rd) : Option ActRec :=
  match OFmt.ofCode (rd 12 1) with
  | none => none
  | some f =>
    let mode := field 2 1 (rd 13 1)
    if top rd 0 23 && top rd 4 23 && top rd 8 24 && top rd 16 23 && top rd 20 23 && rd 13 1 / 8 == 0 && rd 24 40 == 0 &&
      val rd 0 % 16 == 0 && val rd 4 % 16 == 0 && val rd 8 != 0 && f.isActivation && scaleModeOk f mode &&
      decide (1 ≤ rd 14 2) && decide (rd 14 2 ≤ 96) then
      some { base := val rd 0, stride := val rd 4, rows := val rd 8, fmt := f, mOrient := bitN 0 (rd 13 1),
             scaleMode := mode, tileM := rd 14 2, scaleBase := val rd 16, scaleStride := val rd 20 }
    else none

/-- R132: a convolution record. -/
def parseCnv (rd : Rd) : Option CnvRec :=
  match OFmt.ofCode (rd 26 1) with
  | none => none
  | some f =>
    let mode := field 2 1 (rd 27 1)
    let es := f.bits / 8
    let r : CnvRec :=
      { base := val rd 0, rowStride := val rd 4, pixStride := val rd 8, hIn := rd 12 2, wIn := rd 14 2, cIn := rd 16 2,
        hOut := rd 18 2, wOut := rd 20 2, kh := field 3 0 (rd 22 1), kw := field 7 4 (rd 22 1),
        sy := field 3 0 (rd 23 1), sx := field 7 4 (rd 23 1), dy := field 3 0 (rd 24 1), dx := field 7 4 (rd 24 1),
        pt := field 3 0 (rd 25 1), padL := field 7 4 (rd 25 1), fmt := f, scaleMode := mode, tileM := rd 28 2,
        pixStart := val rd 32, scaleBase := val rd 36, scaleStride := val rd 40 }
    if top rd 0 23 && top rd 4 23 && top rd 8 23 && top rd 32 24 && top rd 36 23 && top rd 40 23 &&
      bitN 0 (rd 27 1) == false && rd 27 1 / 8 == 0 && rd 30 2 == 0 && rd 44 20 == 0 && f.isActivation &&
      scaleModeOk f mode && r.base % 16 == 0 && r.rowStride % es == 0 && r.pixStride % es == 0 &&
      r.hIn != 0 && r.wIn != 0 && r.cIn != 0 && r.hOut != 0 && r.wOut != 0 && r.kh != 0 && r.kw != 0 &&
      decide (1 ≤ r.sy) && decide (r.sy ≤ 8) && decide (1 ≤ r.sx) && decide (r.sx ≤ 8) &&
      decide (1 ≤ r.dy) && decide (r.dy ≤ 8) && decide (1 ≤ r.dx) && decide (r.dx ≤ 8) &&
      decide (1 ≤ r.tileM) && decide (r.tileM ≤ 96) && decide (r.pixStart < r.hOut * r.wOut) then some r
    else none

/-- R118: a weight record. -/
def parseWt (rd : Rd) : Option WtRec :=
  match OFmt.ofCode (rd 16 1) with
  | none => none
  | some f =>
    let mode := field 2 1 (rd 17 1)
    if top rd 0 23 && top rd 4 23 && top rd 8 24 && top rd 12 24 && top rd 20 23 && top rd 24 23 && top rd 28 23 &&
      rd 17 1 / 16 == 0 && rd 19 1 == 0 && rd 32 32 == 0 && val rd 0 % 16 == 0 && val rd 4 % 16 == 0 &&
      val rd 8 != 0 && val rd 12 != 0 && scaleModeOk f mode && decide (1 ≤ rd 18 1) && decide (rd 18 1 ≤ 32) then
      some { base := val rd 0, stride := val rd 4, kLen := val rd 8, nLen := val rd 12, fmt := f,
             nOrient := bitN 0 (rd 17 1), scaleMode := mode, tableScope := bitN 3 (rd 17 1), kPart := rd 18 1,
             scaleBase := val rd 20, scaleStride := val rd 24, auxBase := val rd 28 }
    else none

/-- R119: an output record. -/
def parseOut (rd : Rd) : Option OutRec :=
  if top rd 0 23 && top rd 4 23 && rd 8 1 / 2 == 0 && rd 9 1 == 0 && rd 10 2 / 2048 == 0 && rd 12 2 / 2048 == 0 &&
    rd 14 2 == 0 && top rd 16 23 && top rd 20 24 && rd 36 28 == 0 && val rd 0 % 16 == 0 && val rd 4 % 16 == 0 then
    some { base := val rd 0, stride := val rd 4, mOrient := bitN 0 (rd 8 1), flagGroup := rd 10 2, flagStep := rd 12 2,
           partBase := val rd 16, tensor := val rd 20, origin := rd 24 8, pitch := rd 32 4 }
  else none

/-! ### Geometry (R106, R107, R121) -/

/-- K_c (R106). -/
def chunkLen (wt : OFmt) (ganged : Bool) : Nat :=
  let k := if wt.is16 then 48 else if wt == .code2 then 192 else if wt == .code1 then 384 else 96
  if ganged then 2 * k else k

/-- Rows of the product. -/
def Act.rows : Act → Nat
  | .plain r => r.rows
  | .conv r => r.hOut * r.wOut - r.pixStart
def Act.tileM : Act → Nat
  | .plain r => r.tileM
  | .conv r => r.tileM
def Act.fmt : Act → OFmt
  | .plain r => r.fmt
  | .conv r => r.fmt

/-- Columns of an n-block. -/
def tileN (mode : Nat) : Nat := if mode = 2 then 192 else 96

structure Geo where
  mb : Nat
  nb : Nat
  ck : Nat
  parts : Nat
deriving DecidableEq, Repr

/-- R121: counts of m-blocks, n-blocks, chunks and parts. -/
def MxGroup.geo (g : MxGroup) (mode : Nat) : Geo :=
  let t := g.act.tileM
  let mb := if mode = 1 then ceilDiv g.act.rows (4 * t) else ceilDiv g.act.rows t
  let ck := ceilDiv g.wt.kLen (chunkLen g.wt.fmt (mode == 2))
  ⟨mb, ceilDiv g.wt.nLen (tileN mode), ck, ceilDiv ck g.wt.kPart⟩

def Geo.units (g : Geo) : Nat := g.mb * g.nb * g.parts

/-- R121 unit_coords: (mb, nb, part). -/
def Geo.coords (g : Geo) (nFast : Bool) (u : Nat) : Nat × Nat × Nat :=
  let part := u % g.parts
  let q := u / g.parts
  if nFast then (q / g.nb, q % g.nb, part) else (q % g.mb, q / g.mb, part)

/-! ### Checks at acceptance (R134, R141) -/

/-- Table or zero-point bytes of a weight format (R114). -/
def auxBytes (w : WtRec) (nb : Nat) : Nat :=
  let n := if w.tableScope then w.nLen else nb
  match w.fmt with
  | .code4 => 32 * n
  | .code2 => 8 * n
  | .int8 => w.nLen
  | .int4 => w.nLen
  | _ => 0

/-- End of a scale plane. -/
def planeEnd (base stride xs k mode : Nat) : Nat :=
  match scaleBlock mode with
  | none => 0
  | some b => base + (xs - 1) * stride + ceilDiv k b

def actFits (a : Act) (k : Nat) : Bool :=
  match a with
  | .plain r =>
    let b := r.fmt.bits
    fits (if r.mOrient then r.base + (k - 1) * r.stride + packedBytes b r.rows
          else r.base + (r.rows - 1) * r.stride + packedBytes b k) &&
      fits (planeEnd r.scaleBase r.scaleStride r.rows k r.scaleMode)
  | .conv r =>
    fits (r.base + (r.hIn - 1) * r.rowStride + (r.wIn - 1) * r.pixStride + r.cIn * (r.fmt.bits / 8)) &&
      fits (planeEnd r.scaleBase r.scaleStride (r.hIn * r.wIn) r.cIn r.scaleMode)

def wtFits (w : WtRec) (nb : Nat) : Bool :=
  let b := w.fmt.bits
  fits (if w.nOrient then w.base + (w.kLen - 1) * w.stride + packedBytes b w.nLen
        else w.base + (w.nLen - 1) * w.stride + packedBytes b w.kLen) &&
    fits (planeEnd w.scaleBase w.scaleStride w.nLen w.kLen w.scaleMode) && fits (w.auxBase + auxBytes w nb)

/-- Bytes of a group's partial-record area (R122). -/
def partArea (mode : Nat) : Nat := if mode = 1 then 184320 else if mode = 2 then 92160 else 46080

/-- R131 conv_row_bound: r_max. -/
def convRowBound (r : CnvRec) (wt : OFmt) (mode : Nat) : Nat :=
  let es := chunkLen wt false
  let esz := r.fmt.bits / 8
  let runs := min (min es (ceilDiv es r.cIn + 1)) (r.kh * r.kw)
  let rb := min r.cIn es * esz
  let smax := runs * min rb (ceilDiv rb 32 + 1)
  if mode ≤ 2 then max 1 (ceilDiv smax 12) else 1

/-- R134 and R131 for a convolution; nothing for a product. -/
def convOk (g : MxGroup) (mode : Nat) : Bool :=
  match g.act with
  | .plain _ => true
  | .conv r =>
    g.wt.kLen == r.kh * r.kw * r.cIn &&
      (match scaleBlock r.scaleMode with
        | none => true
        | some b => r.cIn % b == 0) &&
      decide (g.wt.kPart * convRowBound r g.wt.fmt mode ≤ 32)

/-- The checks of R141 on one group. -/
def groupOk (g : MxGroup) (mode : Nat) : Bool :=
  let geo := g.geo mode
  OFmt.pairOk g.act.fmt g.wt.fmt && actFits g.act g.wt.kLen && wtFits g.wt geo.nb && convOk g mode &&
    (geo.parts == 1 || (g.out.partBase % 64 == 0 && fits (g.out.partBase + partArea mode)))

/-- One group of three records read at `base` (R115). DESIGN CHOICE (log entry 80): records that reach beyond core SRAM, which R141 does
not list, are refused as an illegal operand. -/
def parseGroup (rd : Rd) (conv : Bool) (base : Nat) : Option MxGroup :=
  if !fits (base + 192) then none
  else
    let r (o : Nat) : Rd := fun off n => rd (base + o + off) n
    let act := if conv then (parseCnv (r 0)).map Act.conv else (parseAct (r 0)).map Act.plain
    match act, parseWt (r 64), parseOut (r 128) with
    | some a, some w, some o => some ⟨a, w, o⟩
    | _, _, _ => none

/-- The groups of the arrays in a list. -/
def parseGroups (rd : Rd) (conv : Bool) (base : Nat) : List Nat → Option (List (Nat × MxGroup))
  | [] => some []
  | a :: as =>
    match parseGroup rd conv (base + 192 * a), parseGroups rd conv base as with
    | some g, some gs => some ((a, g) :: gs)
    | _, _ => none

/-- A field or, when a scalar register is named, that register's low bits (R79, R120). -/
def regOr (x : Ctx) (sreg v : Nat) : Nat := if sreg = 0 then v else (x.reg sreg).toNat % 65536

/-- R115, R120, R121, R141: a tile sequence at its acceptance; none is an illegal operand. -/
def acceptRun (rd : Rd) (x : Ctx) (w : IWord) : Option MxRun :=
  let conv := w.opc == 1
  let mode := field 18 17 w.pl
  let mask := field 22 19 w.pl
  let first := regOr x (field 68 64 w.pl) (field 47 32 w.pl)
  let count := regOr x (field 73 69 w.pl) (field 63 48 w.pl)
  if mode = 3 ∨ count = 0 ∨ (mode = 0 ∧ mask = 0) ∨ (mode ≠ 0 ∧ mask ≠ 0) then none
  else
    let arrays := if mode = 0 then (List.range 4).filter (fun a => bitN a mask) else [0]
    match parseGroups rd conv (64 * field 16 0 w.pl) arrays with
    | none => none
    | some gs =>
      let us := gs.map (fun g => (g.2.geo mode).units)
      if gs.all (fun g => groupOk g.2 mode) && us.all (fun u => us.all (· == u)) && us.all (fun u => decide (first + count ≤ u)) then
        some { conv := conv, mode := mode, mask := mask, nFast := bitN 23 w.pl, first := first, count := count, done := 0,
               groups := gs, latched := [], reload := true }
      else none

/-! ### Operand elements (R107, R112 to R114, R133) -/

/-- An element as the array sees it: its expanded value, and whether reading it raises denormal_input. -/
abbrev Elem := FV × Bool

/-- Line-packed element `i` of line `l`. -/
def lineElem (rd : Rd) (bits base stride l i : Nat) : Nat := packedElem bits (fun j => rd (base + l * stride + j) 1) i

def scaleByte (rd : Rd) (base stride x k mode : Nat) : Option Nat :=
  (scaleBlock mode).map (fun b => rd (base + x * stride + k / b) 1)

/-- R133 conv_element; padding is +0 with scale byte 0x7F and raises nothing. -/
def convElem (rd : Rd) (r : CnvRec) (m k : Nat) : Elem :=
  let p := r.pixStart + m
  let oy := p / r.wOut
  let ox := p % r.wOut
  let tap := k / r.cIn
  let c := k % r.cIn
  let y : Int := oy * r.sy + (tap / r.kw) * r.dy - r.pt
  let x : Int := ox * r.sx + (tap % r.kw) * r.dx - r.padL
  if y < 0 ∨ (r.hIn : Int) ≤ y ∨ x < 0 ∨ (r.wIn : Int) ≤ x then (.fin false 0 0, false)
  else
    let y := y.toNat
    let x := x.toNat
    let es := r.fmt.bits / 8
    let code := rd (r.base + y * r.rowStride + x * r.pixStride + c * es) es
    let e : Expand := ⟨scaleByte rd r.scaleBase r.scaleStride (y * r.wIn + x) c r.scaleMode, 0, 0⟩
    (r.fmt.expand e code, r.fmt.denormal e code)

/-- Element (m, k) of the streamed operand. -/
def Act.elem (rd : Rd) (a : Act) (m k : Nat) : Elem :=
  match a with
  | .plain r =>
    let code := if r.mOrient then lineElem rd r.fmt.bits r.base r.stride k m else lineElem rd r.fmt.bits r.base r.stride m k
    let e : Expand := ⟨scaleByte rd r.scaleBase r.scaleStride m k r.scaleMode, 0, 0⟩
    (r.fmt.expand e code, r.fmt.denormal e code)
  | .conv r => convElem rd r m k

/-- Table entry or zero point of a weight element (R114); `nt` is the width of an n-block. -/
def WtRec.aux (rd : Rd) (w : WtRec) (nt n code : Nat) : Nat × Nat :=
  let t := if w.tableScope then n else n / nt
  match w.fmt with
  | .code4 => (0, rd (w.auxBase + 32 * t + 2 * code) 2)
  | .code2 => (0, rd (w.auxBase + 8 * t + 2 * code) 2)
  | .int8 => (rd (w.auxBase + n) 1, 0)
  | .int4 => (rd (w.auxBase + n) 1 % 16, 0)
  | _ => (0, 0)

/-- Element (k, n) of the stationary operand. -/
def WtRec.elem (rd : Rd) (w : WtRec) (nt k n : Nat) : Elem :=
  let code := if w.nOrient then lineElem rd w.fmt.bits w.base w.stride k n else lineElem rd w.fmt.bits w.base w.stride n k
  let a := w.aux rd nt n code
  let e : Expand := ⟨scaleByte rd w.scaleBase w.scaleStride n k w.scaleMode, a.1, a.2⟩
  (w.fmt.expand e code, w.fmt.denormal e code)

/-! ### One element of a unit (R50 to R53, R61) -/

/-- The exact group of reduction indices [k0, k1). -/
def dotGroup (rd : Rd) (g : MxGroup) (nt m n k0 k1 : Nat) : W32 × NFlags × Bool :=
  let ps := (List.range (k1 - k0)).map (fun i => (g.act.elem rd m (k0 + i), g.wt.elem rd nt (k0 + i) n))
  let r := groupResult (ps.map (fun p => (p.1.1, p.2.1)))
  (r.1, r.2, ps.any (fun p => p.1.2 || p.2.2))

/-- Groups from index `i` on, `cnt` of them, up to reduction index `kEnd`, added in ascending order. -/
def dotGroups (rd : Rd) (g : MxGroup) (nt m n kEnd : Nat) : Nat → Nat → Acc → NFlags → Acc × NFlags
  | _, 0, a, f => (a, f)
  | i, cnt + 1, a, f =>
    let G := groupLen g.wt.fmt
    let r := dotGroup rd g nt m n (G * i) (min (G * (i + 1)) kEnd)
    let s := a.add (r.1, r.2.1)
    dotGroups rd g nt m n kEnd (i + 1) cnt s.1 (f ||| s.2 ||| NFlags.when r.2.2 fDenormal)

/-- The accumulator of element (m, n) after the chunks of one part, with the flags raised at once. -/
def dotPart (rd : Rd) (g : MxGroup) (mode m n part : Nat) (a : Acc) : Acc × NFlags :=
  let geo := g.geo mode
  let kc := chunkLen g.wt.fmt (mode == 2)
  let c0 := part * g.wt.kPart
  let c1 := min (c0 + g.wt.kPart) geo.ck
  let kEnd := min (c1 * kc) g.wt.kLen
  let G := groupLen g.wt.fmt
  let i0 := c0 * kc / G
  dotGroups rd g (tileN mode) m n kEnd i0 (ceilDiv kEnd G - i0) a 0#7

/-! ### Units -/

/-- Key of an accumulator: bank, array, row and column (R108). -/
def accKey (bank a r c : Nat) : Nat := ((bank * 4 + a) * 96 + r) * 192 + c

/-- The tile of one array in a unit: its array, group, m-block rows and n-block columns, its part, and whether that is the last. -/
structure TileJob where
  array : Nat
  g : MxGroup
  m0 : Nat
  m1 : Nat
  n0 : Nat
  n1 : Nat
  partBase : Nat
  part : Nat
  final : Bool
deriving DecidableEq, Repr

/-- The part that unit `u` is for a group, and whether it is final (R121, R122). -/
def MxRun.part (r : MxRun) (g : MxGroup) (u : Nat) : Nat × Bool :=
  let geo := g.geo r.mode
  let part := (geo.coords r.nFast u).2.2
  (part, part + 1 == geo.parts)

/-- The tiles of unit `u` in ascending array number (R109, R121, R122); quad-shared arrays beyond M take no rows. In split mode each
array's product has its own blocks and parts. -/
def MxRun.tiles (r : MxRun) (u : Nat) : List TileJob :=
  let mk (a : Nat) (g : MxGroup) (mblk nb pb : Nat) : TileJob :=
    let t := g.act.tileM
    let nt := tileN r.mode
    let p := r.part g u
    ⟨a, g, mblk * t, min ((mblk + 1) * t) g.act.rows, nb * nt, min ((nb + 1) * nt) g.wt.nLen, pb, p.1, p.2⟩
  r.groups.flatMap (fun p =>
    let g := p.2
    let c := (g.geo r.mode).coords r.nFast u
    if r.mode = 1 then
      (List.range 4).filterMap (fun a =>
        let t := mk a g (4 * c.1 + a) c.2.1 (g.out.partBase + a * 46080)
        if t.m0 < g.act.rows then some t else none)
    else [mk p.1 g c.1 c.2.1 g.out.partBase])

/-- The conversion state an array uses: that of array 0 in quad-shared and ganged modes (R126). -/
def convOf (mode : Nat) (cs : List ConvState) (a : Nat) : ConvState :=
  cs.getD (if mode = 0 then a else 0) ConvState.default

/-- The two checks of R141 as a unit latches its state, and that of R147 on the output tile, which a final unit writes. -/
def tileLatchOk (x : Ctx) (cs : ConvState) (t : TileJob) : Bool :=
  let e := cs.fmt.bytes
  let o := t.g.out
  (!t.final ||
    !(if o.mOrient then x.linesHit (o.base + t.n0 * o.stride + t.m0 * e) o.stride ((t.m1 - t.m0) * e) (t.n1 - t.n0)
      else x.linesHit (o.base + t.m0 * o.stride + t.n0 * e) o.stride ((t.n1 - t.n0) * e) (t.m1 - t.m0))) &&
  let last := if o.mOrient then o.base + (t.n1 - 1) * o.stride + t.m1 * e else o.base + (t.m1 - 1) * o.stride + t.n1 * e
  fits last &&
    (match cs.scale with
      | some b => fits (b + 4 * t.n1)
      | none => true) &&
    (match cs.bias with
      | some b => fits (b + 4 * t.n1)
      | none => true)

/-- The next unit latches the conversion states of the context; none when a check of R141 fails. -/
def MxRun.latch (r : MxRun) (x : Ctx) : Option MxRun :=
  let u := r.first + r.done
  if !(r.tiles u).all (fun t => tileLatchOk x (convOf r.mode x.conv t.array) t) then none
  else some { r with latched := x.conv }

/-- R147: no partial record that the sequence writes overlaps the save area. -/
def MxRun.partsClear (r : MxRun) (x : Ctx) : Bool :=
  x.saveArea.isNone || (List.range r.count).all (fun i =>
    let u := r.first + i
    (r.tiles u).all (fun t =>
      let nt := tileN r.mode
      t.final || (!x.hitsSave t.partBase (4 * nt * (t.m1 - t.m0)) && !x.hitsSave (t.partBase + 384 * nt) (nt * (t.m1 - t.m0)))))

/-- Initial accumulator of element (r, c) of a tile: cleared for part 0; from the partial record when the unit is the
first to run; otherwise where the part before it ended (R53, R123). -/
def initAcc (rd : Rd) (acc : Sp Acc) (bank : Nat) (mode : Nat) (reload : Bool) (t : TileJob) (row col : Nat) : Acc :=
  if t.part = 0 then Acc.clear
  else if reload then
    let nt := tileN mode
    let e := row * nt + col
    ⟨BitVec.ofNat 32 (rd (t.partBase + 4 * e) 4), NFlags.ofPendingByte (rd (t.partBase + 384 * nt + e) 1)⟩
  else Sp.get Acc.clear acc (accKey (b2n (bitN t.array bank)) t.array row col)

/-- What a unit adds up: memory, accumulators and flags so far. -/
structure UnitAcc where
  mem : Sp Byte
  acc : Sp Acc
  flags : NFlags
deriving DecidableEq, Repr

/-- What conversion takes from the program: numeric mode, seed and step (R55, R57). -/
structure Draw where
  nm : NMode
  seed : Nat
  step : Nat
deriving DecidableEq, Repr

/-- The random word of an output element, when stochastic rounding is requested and enabled (R55, R57). -/
def Draw.word (d : Draw) (req : Bool) (tensor origin pitch m n : Nat) : Option Nat :=
  if req && d.nm.sr then some (cgWord0 d.seed d.step tensor purposeRound ((origin + m * pitch + n) % 2 ^ 64)) else none

/-- A final element converted and written (R54, R61, R122). `base` is that of the core's SRAM. -/
def finishElem (rd : Rd) (base : Nat) (d : Draw) (cs : ConvState) (t : TileJob) (m n : Nat) (a : Acc) (u : UnitAcc) : UnitAcc :=
  let o := t.g.out
  let entry (b : Option Nat) : Option W32 := b.map (fun b => BitVec.ofNat 32 (rd (b + 4 * n) 4))
  let r := outConvert cs.fmt d.nm (d.word cs.srReq o.tensor o.origin o.pitch m n) (entry cs.scale) (entry cs.bias) cs.clip a
  let e := cs.fmt.bytes
  let at_ := if o.mOrient then o.base + n * o.stride + m * e else o.base + m * o.stride + n * e
  { u with mem := wrBytes u.mem (base + at_) (leBytes e r.1), flags := u.flags ||| r.2 }

/-- An element of a partial record written (R122). -/
def partElem (base : Nat) (mode : Nat) (t : TileJob) (row col : Nat) (a : Acc) (u : UnitAcc) : UnitAcc :=
  let nt := tileN mode
  let e := row * nt + col
  let mem := wrBytes u.mem (base + t.partBase + 4 * e) (leBytes 4 a.val.toNat)
  { u with mem := wrBytes mem (base + t.partBase + 384 * nt + e) [BitVec.ofNat 8 a.pend.toPendingByte] }

/-- One element of a tile. Columns at or beyond N stay cleared. Bit `a` of `bank` is the bank of array `a`. -/
def tileElem (rd : Rd) (base : Nat) (acc0 : Sp Acc) (bank : Nat) (d : Draw) (r : MxRun) (t : TileJob) (u : UnitAcc) (rc : Nat × Nat) : UnitAcc :=
  let row := rc.1
  let col := rc.2
  let m := t.m0 + row
  let n := t.n0 + col
  let a0 := initAcc rd acc0 bank r.mode r.reload t row col
  let p := if n < t.n1 then dotPart rd t.g r.mode m n t.part a0 else (a0, 0#7)
  let u := { u with flags := u.flags ||| p.2, acc := Sp.set Acc.clear u.acc (accKey (b2n (bitN t.array bank)) t.array row col) p.1 }
  if t.final then (if n < t.n1 then finishElem rd base d (convOf r.mode r.latched t.array) t m n p.1 u else u)
  else partElem base r.mode t row col p.1 u

/-- All (row, column) pairs of a tile, row-major. -/
def tileCells (rows cols : Nat) : List (Nat × Nat) := (List.range rows).flatMap (fun i => (List.range cols).map (fun j => (i, j)))

/-! ### When rows are written (R127, R128, R135) -/

/-- L_fill of R127. -/
def lFill (wt : OFmt) (ganged conv : Bool) : Nat :=
  (if wt.is16 then 115 else if wt == .code2 then 117 else if wt == .code1 then 118 else 116) + (if ganged then 2 else 0) +
    (if conv then 4 else 0)

/-- The chunks of a tile's part. -/
def TileJob.chunks (mode : Nat) (t : TileJob) : Nat :=
  min ((t.part + 1) * t.g.wt.kPart) (t.g.geo mode).ck - t.part * t.g.wt.kPart

/-- The sectors of 32 B that hold the elements of a convolution row in reduction indices [k0, k1); padding has none (R135). -/
def convSectors (r : CnvRec) (m k0 k1 : Nat) : List Nat :=
  (List.range (k1 - k0)).foldl (fun l i =>
    let k := k0 + i
    let p := r.pixStart + m
    let tap := k / r.cIn
    let y : Int := (p / r.wOut) * r.sy + (tap / r.kw) * r.dy - r.pt
    let x : Int := (p % r.wOut) * r.sx + (tap % r.kw) * r.dx - r.padL
    if y < 0 ∨ (r.hIn : Int) ≤ y ∨ x < 0 ∨ (r.wIn : Int) ≤ x then l
    else
      let es := r.fmt.bits / 8
      let a := r.base + y.toNat * r.rowStride + x.toNat * r.pixStride + (k % r.cIn) * es
      [a / 32, (a + es - 1) / 32].foldl (fun l q => if l.contains q then l else q :: l) l) []

/-- The cc that row `m` of a chunk takes: 1, or, of a convolution, by the sectors it touches; in ganged mode each half of a row is
built by a streamer of its own (R135). -/
def rowTime (a : Act) (m k0 k1 : Nat) (ganged : Bool) : Nat :=
  match a with
  | .plain _ => 1
  | .conv r =>
    let one (a b : Nat) : Nat := max 1 (ceilDiv (convSectors r m a b).length 12)
    if ganged then max (one k0 (min ((k0 + k1) / 2) k1)) (one ((k0 + k1) / 2) k1) else one k0 k1

/-- The cc that rows `0` to `row - 1` of chunk `i` of a tile's part take. -/
def TileJob.rowsTime (mode : Nat) (t : TileJob) (i row : Nat) : Nat :=
  let kc := chunkLen t.g.wt.fmt (mode == 2)
  let c := t.part * t.g.wt.kPart + i
  (List.range row).foldl (fun a j => a + rowTime t.g.act (t.m0 + j) (c * kc) (min ((c + 1) * kc) t.g.wt.kLen) (mode == 2)) 0

/-- P of chunk `i` of a unit (R128): the longest that any array takes over it, 96 at least. -/
def chunkTime (mode : Nat) (ts : List TileJob) (i : Nat) : Nat :=
  ts.foldl (fun p t => if i < t.chunks mode then max p (t.rowsTime mode i (t.m1 - t.m0)) else p) 96

/-- The cc, from the first read of a unit on, in which row `row` of a tile is written (R127). -/
def TileJob.writeTime (mode : Nat) (ts : List TileJob) (t : TileJob) (row : Nat) : Nat :=
  let n := t.chunks mode
  let conv := match t.g.act with
    | .plain _ => false
    | .conv _ => true
  (List.range (n - 1)).foldl (fun a i => a + chunkTime mode ts i) 0 + t.rowsTime mode (n - 1) row +
    lFill t.g.wt.fmt (mode == 2) conv + (if t.final then 20 else 12)

/-- A row put behind those that are written no later. -/
def insertRow (e : Nat × TileJob × Nat) : List (Nat × TileJob × Nat) → List (Nat × TileJob × Nat)
  | [] => [e]
  | h :: t => if h.1 ≤ e.1 then h :: insertRow e t else e :: h :: t

/-- The rows of a unit in the order in which they are written: by cc, and in one cc by ascending array number (R124). -/
def unitRows (mode : Nat) (ts : List TileJob) : List (TileJob × Nat) :=
  let all := ts.flatMap (fun t => (List.range (t.m1 - t.m0)).map (fun row => (t.writeTime mode ts row, t, row)))
  (all.foldl (fun l e => insertRow e l) []).map (·.2)

/-- One row of a tile. DESIGN CHOICE (log entry 80): of columns of the row that land on the same bytes, the highest remains. -/
def runRow (rd : Rd) (base : Nat) (acc0 : Sp Acc) (bank : Nat) (d : Draw) (r : MxRun) (u : UnitAcc) (e : TileJob × Nat) : UnitAcc :=
  (List.range (tileN r.mode)).foldl (fun u col => tileElem rd base acc0 bank d r e.1 u (e.2, col)) u

/-- The whole of a unit: its rows in the order of their writes (R124). Operands are those in SRAM before it. -/
def runUnit (mem : Sp Byte) (base : Nat) (acc0 : Sp Acc) (bank : Nat) (d : Draw) (r : MxRun) (u : Nat) : UnitAcc :=
  let rd : Rd := fun off n => rdNat mem (base + off) n
  (unitRows r.mode (r.tiles u)).foldl (runRow rd base acc0 bank d r) ⟨mem, acc0, 0#7⟩

/-! ### Weight registers and activity (R105, R137, R139) -/

/-- The reduction indices and columns that array `a` takes of chunk `c` of a tile: in ganged mode a half of each (R109). -/
def TileJob.quarter (mode : Nat) (t : TileJob) (a c : Nat) : (Nat × Nat) × (Nat × Nat) :=
  let kc := chunkLen t.g.wt.fmt (mode == 2)
  if mode = 2 then
    let k0 := c * kc + a % 2 * (kc / 2)
    let n0 := t.n0 + a / 2 * 96
    ((k0, min (k0 + kc / 2) t.g.wt.kLen), (n0, min (n0 + 96) t.n1))
  else ((c * kc, min ((c + 1) * kc) t.g.wt.kLen), (t.n0, t.n1))

/-- Products per cell per cycle, and cells per product (R106). -/
def perCell (wt : OFmt) : Nat := if wt == .code2 then 2 else if wt == .code1 then 4 else 1
def cellsPer (wt : OFmt) : Nat := if wt.is16 then 2 else 1

/-- The arrays that work on a tile. -/
def TileJob.arrays (mode : Nat) (t : TileJob) : List Nat := if mode = 2 then [0, 1, 2, 3] else [t.array]

/-- Key of a weight register: index within the chunk, and column. -/
def weightKey (i c : Nat) : Nat := i * 96 + c

/-- The weight codes of chunk `c` of a tile, as array `a` holds them (R105, R109). -/
def TileJob.weights (rd : Rd) (mode : Nat) (t : TileJob) (a c : Nat) : Sp Nat :=
  let q := t.quarter mode a c
  let w := t.g.wt
  (List.range (q.1.2 - q.1.1)).foldl (fun m i => (List.range (q.2.2 - q.2.1)).foldl (fun m j =>
    let k := q.1.1 + i
    let n := q.2.1 + j
    let code := if w.nOrient then lineElem rd w.fmt.bits w.base w.stride k n else lineElem rd w.fmt.bits w.base w.stride n k
    Sp.set 0 m (weightKey i j) code) m) []

/-- The cells of array `a` that form a non-gated product as row `m` meets chunk `c` (R139). -/
def TileJob.toggles (rd : Rd) (mode : Nat) (t : TileJob) (a c m : Nat) : Nat :=
  let q := t.quarter mode a c
  let p := perCell t.g.wt.fmt
  let live (k n : Nat) : Bool := decide (k < q.1.2) && !(t.g.act.elem rd m k).1.isZero && !(t.g.wt.elem rd (tileN mode) k n).1.isZero
  cellsPer t.g.wt.fmt * (List.range (q.2.2 - q.2.1)).foldl (fun s j =>
    s + ((List.range (ceilDiv (q.1.2 - q.1.1) p)).filter (fun i =>
      (List.range p).any (fun b => live (q.1.1 + i * p + b) (q.2.1 + j)))).length) 0

/-- The history of array `a` after a tile: one entry per row that entered, newest first, 256 of them (R137). -/
def TileJob.history (rd : Rd) (mode : Nat) (t : TileJob) (a : Nat) (hist : List Nat) : List Nat :=
  ((List.range (t.chunks mode)).foldl (fun h i =>
    (rowsFrom t.m0 t.m1).foldl (fun h m => (t.toggles rd mode a (t.part * t.g.wt.kPart + i) m :: h).take 256) h) hist)

/-- R137: the activity level of a history, in sixteenths of the 9,216 cells. -/
def levelOf (free : Nat) (hist : List Nat) : Nat :=
  let s := 16 * hist.foldl (· + ·) 0
  let d := 9216 * max 1 hist.length
  s / d + (if s % d = 0 then 0 else b2n (Config.levelUp free s))

/-- The bank of each array in unit `u` (R108, R123): a part behind part 0 goes on where the part before it ended, unless it is read back
from its record; every other unit takes the array's other bank. -/
def MxRun.banks (r : MxRun) (bank u : Nat) : Nat :=
  (r.tiles u).foldl (fun b t => if t.part = 0 || r.reload then b ^^^ 2 ^ t.array else b) bank

/-- Rows that enter the arrays in a unit, over its chunks (MX_ACTCYC, R142). -/
def MxRun.rowsIn (r : MxRun) (u : Nat) : Nat :=
  (r.tiles u).foldl (fun a t =>
    let ck := (t.g.geo r.mode).ck
    let chunks := min ((t.part + 1) * t.g.wt.kPart) ck - t.part * t.g.wt.kPart
    a + (t.m1 - t.m0) * chunks * (if r.mode = 2 then 4 else 1)) 0

/-- Groups that a final unit's arrivals go to: that of each output record (R122). -/
def MxRun.arrivals (r : MxRun) (u : Nat) : List Nat :=
  (r.groups.filter (fun p => (r.part p.2 u).2)).map (fun p => (p.2.out.flagGroup + u * p.2.out.flagStep) % 2048)

end Sys2Proof.Machine
end

