-- ==== Sys2Proof/Machine/Matrix.lean ====
section
/-!
DEFINITION. The matrix engine: acceptance, CONV_SET, completion of a unit, and ballast (R115, R120 to R126, R136 to
R140).
-/

namespace Sys2Proof.Machine

/-- A reader of a core's SRAM. -/
def State.rdCore (s : State) (n : Nat) : Rd := fun off len => rdNat s.mem (sramBase n + off) len

/-- The seed of the job a program belongs to. -/
def State.seedOf (s : State) (p : Prog) : Nat :=
  match s.jobSlot p with
  | some j => (s.job j).seed.toNat
  | none => 0

/-- What conversions and drop-out of a context draw with (R55, R57, R283). -/
def State.draw (s : State) (x : Ctx) : Draw := ⟨x.nmode, s.seedOf x.prog, x.stepReg.toNat⟩

/-- R115, R130: whether the matrix engine takes an instruction now. A tile sequence of another opcode or mode waits for
an idle engine; any other instruction is taken in the last unit of the running sequence. -/
def Ctx.mxReady (x : Ctx) (w : IWord) : Bool :=
  match x.mx with
  | [] => true
  | [r] => r.done + 1 == r.count &&
      (w.cls == 3 || ((w.opc == 1) == r.conv && field 18 17 w.pl == r.mode))
  | _ => false

/-- R125, R126: the conversion state that CONV_SET names; none is an illegal operand. -/
def parseConv (rd : Rd) (w : IWord) : Option ConvState :=
  let en := field 6 4 w.pl
  let a := 64 * field 27 11 w.pl
  let fmt : Option FFmt := match field 2 0 w.pl with
    | 0 => some .fp32
    | 1 => some .bf16
    | 2 => some .fp16
    | 3 => some .e4m3
    | 4 => some .e5m2
    | _ => none
  match fmt with
  | none => none
  | some f =>
    let srReq := bitN 3 w.pl
    if field 10 7 w.pl = 0 then none
    else if en = 0 then some ⟨f, srReq, none, none, none⟩
    else
      let lo := BitVec.ofNat 32 (rd (a + 8) 4)
      let hi := BitVec.ofNat 32 (rd (a + 12) 4)
      let clipOk := !bitN 2 en || (!isNan32 lo && !isNan32 hi && !lt32 hi lo)
      if fits (a + 64) && rd a 4 / 2 ^ 23 == 0 && rd (a + 4) 4 / 2 ^ 23 == 0 && rd (a + 16) 48 == 0 && clipOk then
        some ⟨f, srReq, if bitN 0 en then some (rd a 4) else none, if bitN 1 en then some (rd (a + 4) 4) else none,
          if bitN 2 en then some (lo, hi) else none⟩
      else none

/-- The arrays of a mask set to a conversion state. -/
def setConvs (cs : List ConvState) (mask : Nat) (c : ConvState) : List ConvState :=
  (List.range 4).map (fun a => if bitN a mask then c else cs.getD a ConvState.default)

/-- The running sequence's next unit latches its state; a failed check of R141 faults the context. -/
def State.latchNext (s : State) (n k : Nat) : State :=
  let x := s.ctx n k
  match x.mx with
  | [] => s
  | r :: rs =>
    match r.latch x with
    | some r' => s.setCtx n k { x with mx := r' :: rs }
    | none => (s.setCtx n k { x with mx := [] }).seqFault n k 2

/-- A tile sequence taken from the queue (R115, R120, R121, R141). -/
def State.mxTake (s : State) (n k : Nat) (w : IWord) : State :=
  let x := s.ctx n k
  match acceptRun (s.rdCore n) x w with
  | none => s.seqFault n k 2
  | some r =>
    if !r.partsClear x then s.seqFault n k 2
    else
      let s := s.updCore n (fun c => { c with mx := { c.mx with lastMode := if x.mx.isEmpty then r.mode else c.mx.lastMode } })
      let s := s.setCtx n k { x with mx := x.mx ++ [r], mxDone := if x.mx.isEmpty then 0 else x.mxDone }
      if x.mx.isEmpty then s.latchNext n k else s

/-- CONV_SET taken from the queue (R125, R126). -/
def State.convTake (s : State) (n k : Nat) (w : IWord) : State :=
  let x := s.ctx n k
  match parseConv (s.rdCore n) w with
  | none => s.seqFault n k 2
  | some c => s.setCtx n k { x with conv := setConvs x.conv (field 10 7 w.pl) c }

/-- A matrix instruction that the engine takes. -/
def State.mxAccept (s : State) (n k : Nat) (w : IWord) : State :=
  if w.cls = 3 then s.convTake n k w else s.mxTake n k w

/-! ### Power (R136 to R140) -/

/-- Whether ballast may run: no core's MX_BALLAST suspends it, and the cap is not signalled (R140: on every array of the module). -/
def State.ballastOk (s : State) : Bool := s.cores.all (fun c => c.2.mx.balEnable) && !s.capOn

/-- MX_BALCYC and MX_GATECYC brought up to now, when time has passed since they last were. -/
def MxSt.tickCycles (m : MxSt) (now free : Nat) : MxSt :=
  if m.cycRead = now then m
  else { m with balCyc := m.balCyc + Config.ballastCycles (2 * free), gateCyc := m.gateCyc + Config.ballastCycles (2 * free + 1),
                cycRead := now }

/-- An array after rows have entered it: while ballast may run it is out of gated idle, at the level of its work; in a suspension it
enters gated idle at once (R137, R138, R140). -/
def ArrSt.worked (ok fill : Bool) (free : Nat) (hist : List Nat) (a : ArrSt) : ArrSt :=
  let level := levelOf free hist
  { a with pow := if ok then .ballast else .gated, level := level, schedLevel := if fill then a.schedLevel else level,
           hist := hist, susp := !ok }

/-- The weight registers of an array after a tile: the active ones hold its last chunk; the shadow holds the chunk that follows it in
the sequence, where there is one, and else what was loaded last (R105, R130). -/
def ArrSt.loaded (act : Sp Nat) (next : Option (Sp Nat)) (a : ArrSt) : ArrSt := { a with active := act, shadow := next.getD a.active }

def mapAt {α : Type} (l : List α) (i : Nat) (f : α → α) : List α :=
  (List.range l.length).filterMap (fun j => (l[j]?).map (fun v => if j = i then f v else v))

/-- All arrays of a core put into gated idle by a suspension. -/
def MxSt.gateAll (m : MxSt) : MxSt :=
  { m with arrays := m.arrays.map (fun a => { a with pow := .gated, susp := a.susp || a.pow == .ballast }) }

/-- R140: the arrays that a suspension put into gated idle run ballast again, from level zero. -/
def MxSt.resumeAll (m : MxSt) : MxSt :=
  { m with arrays := m.arrays.map (fun a => if a.susp then { a with pow := .ballast, level := 0, susp := false } else a) }

/-- The matrix registers of every core of the module changed. -/
def State.mapMx (s : State) (f : MxSt → MxSt) : State :=
  { s with cores := (List.range 64).foldl (fun cs n => Sp.upd CoreSt.reset cs n (fun c => { c with mx := f c.mx })) s.cores }

/-- R140: ballast suspended on every array of the module as the cap is signalled. -/
def State.suspendBallast (s : State) : State := s.mapMx (fun m => { m.gateAll with capSeen := m.capSeen || m.balEnable })

/-- R140: ballast resumes, once neither the cap nor an MX_BALLAST suspends it. -/
def State.resumeBallast (s : State) : State := if s.ballastOk then s.mapMx MxSt.resumeAll else s

/-- The arrays that a unit used, after it. -/
def MxRun.arraysUsed (r : MxRun) (u : Nat) : List Nat :=
  if r.mode = 2 then [0, 1, 2, 3] else (r.tiles u).map (·.array)

/-! ### UNIT_COMPLETE -/

/-- The first tile that array `a` takes behind unit `u`: of the sequence's next unit, or of the first unit of the next sequence. -/
def MxRun.nextTile (r : MxRun) (rs : List MxRun) (u a : Nat) : Option (Nat × TileJob) :=
  let of (r : MxRun) (u : Nat) : Option (Nat × TileJob) := ((r.tiles u).find? (fun t => (t.arrays r.mode).contains a)).map (fun t => (r.mode, t))
  if r.done + 1 < r.count then of r (u + 1)
  else match rs with
    | r2 :: _ => of r2 r2.first
    | [] => none

/-- What a unit leaves in array `a` that a tile of it ran on: its activity (R137), its power (R136), its weight registers (R105). -/
def MxRun.arrayAfter (r : MxRun) (rd : Rd) (ok fill : Bool) (free : Nat) (rs : List MxRun) (u : Nat) (t : TileJob) (a : Nat) (st : ArrSt) :
    ArrSt :=
  let next := (r.nextTile rs u a).map (fun p => p.2.weights rd p.1 a (p.2.part * p.2.g.wt.kPart))
  (st.worked ok fill free (t.history rd r.mode a st.hist)).loaded
    (t.weights rd r.mode a (t.part * t.g.wt.kPart + t.chunks r.mode - 1)) next

/-- R122 to R124: the unit in flight of context `k` is written and completes. While the context is being saved the engine stops
there, and the next unit latches nothing (R98). -/
def State.unitDone (s : State) (n k : Nat) (r : MxRun) (rs : List MxRun) : State :=
  let c := s.core n
  let x := c.ctx k
  let u := r.first + r.done
  let bank := r.banks c.mx.bank u
  let o := runUnit s.mem (sramBase n) c.mx.acc bank (s.draw x) r u
  let ok := s.ballastOk
  let rd := s.rdCore n
  let m := { c.mx with
    bank := bank
    acc := o.acc
    actCyc := c.mx.actCyc + BitVec.ofNat 64 (r.rowsIn u)
    arrays := (r.tiles u).foldl (fun l t => (t.arrays r.mode).foldl (fun l a =>
      mapAt l a (r.arrayAfter rd ok c.fillWork s.free rs u t a)) l) c.mx.arrays }
  let last := r.done + 1 == r.count
  let r' := { r with done := r.done + 1, latched := [], reload := false }
  let x' := { x.raise o.flags with
    mx := if last then rs else r' :: rs
    mxDone := if last && !rs.isEmpty then 0 else r.done + 1 }
  let c' := (r.arrivals u).foldl (fun c g => c.arrive k g false) { c.setCtx k x' with mx := m }
  let s := { s.bump with mem := o.mem }.setCore n c'
  let s : State := if last then
      (match rs with
        | [] => s
        | r2 :: _ => s.updCore n (fun c => { c with mx := { c.mx with lastMode := r2.mode } }))
    else s
  if (s.core n).running = some k then s.latchNext n k else s.updCore n (·.atBoundary .mx)

def execUnitComplete (core : Nat) (s : State) : Out :=
  match (s.core core).works .mx with
  | none => .next s
  | some k =>
    match (s.ctx core k).mx with
    | [] => .next s
    | r :: rs => if s.stopped then .next s else .next (s.unitDone core k r rs)

/-! ### BALLAST_HOLD_EXPIRY and BALLAST_RAMP_UP -/

/-- Whether a unit is in flight in an array of the context that the engine works for. -/
def CoreSt.arrayBusy (c : CoreSt) (a : Nat) : Bool :=
  match c.works .mx with
  | none => false
  | some k =>
    match (c.ctx k).mx with
    | [] => false
    | r :: _ => (r.arraysUsed (r.first + r.done)).contains a

def State.updArray (s : State) (n a : Nat) (f : ArrSt → ArrSt) : State :=
  s.updCore n (fun c => { c with mx := { c.mx with arrays := mapAt c.mx.arrays a f } })

def execBallastHoldExpiry (core array : Nat) (s : State) : Out :=
  if (s.core core).arrayBusy array then .next s
  else .next (s.updArray core array (fun a => { a with pow := .gated }))

/-- The start of the first scheduled slot of a core's table that lies ahead, in this beat or the next. -/
def State.nextSlot (s : State) (n : Nat) : Option Nat :=
  let at_ (b : Nat) (sl : Slot) : Nat := b * s.beatLen + sl.start * s.beatLen / 1024
  let sls := (s.core n).slots.filter (fun sl => !sl.open_)
  (sls.map (at_ s.beats.beat) ++ sls.map (at_ (s.beats.beat + 1))).find? (fun t => decide (s.now < t))

/-- BALLAST_RAMP_UP (R138): the notice of the beat timer, 2,600 cc (2 µs) before a scheduled slot starts on the core. An array in gated
idle ramps to the level at which it last worked in a scheduled slot. -/
def execBallastRampUp (core array : Nat) (s : State) : Out :=
  match s.nextSlot core with
  | none => .next s
  | some t =>
    if s.ballastOk && !(s.core core).arrayBusy array then
      .next ((s.advanceTo (t - 2000)).updArray core array (fun a =>
        if a.pow = .gated then { a with pow := .ballast, level := a.schedLevel } else a))
    else .next s

end Sys2Proof.Machine
end

