-- ==== Sys2Proof/Machine/Transc.lean ====
section
/-!
DEFINITION. The correctly rounded functions of R158 (vector opcodes 0x20 to 0x29, R245, R285, R290). Each value is
enclosed between two exact numbers at a working precision; when both round alike that is the result, otherwise the
precision grows.
-/

namespace Sys2Proof

/-- The functions of opcodes 0x20 to 0x29 (R152). -/
inductive TFun where
  | rcp | rsqrt | sqrt | exp | exp2 | log2 | tanh | sigmoid | sin | cos
deriving DecidableEq, Repr

/-- An enclosure of a positive real: it lies strictly between `lo * 2^e` and `hi * 2^e`. -/
structure Encl where
  lo : Nat
  hi : Nat
  e : Int
deriving DecidableEq, Repr

/-- Slack of the fixed-point series below, in steps of the working precision. -/
def slack : Nat := 2048

/-- `2^P * Σ z^(2k+1) / (2k+1)` from term `k`, where `zp` is z^(2k+1) and `z2` is z², both times 2^P. -/
def atanhSeries (P z2 : Nat) : Nat → Nat → Nat → Nat
  | 0, _, _ => 0
  | n + 1, k, zp => zp / (2 * k + 1) + atanhSeries P z2 n (k + 1) ((zp * z2) >>> P)

/-- `2^P * atanh(z)` for `z * 2^P` at most 2^P / 3. -/
def atanhFix (P z : Nat) : Nat := atanhSeries P ((z * z) >>> P) (P / 3 + 2) 0 z

/-- `2^P * ln 2`, as 2 atanh(1/3). -/
def ln2Fix (P : Nat) : Nat := 2 * atanhFix P (2 ^ P / 3)

/-- `2^P * Σ (-1)^k (1/q)^(2k+1) / (2k+1)`. -/
def atanInvSeries (q2 : Nat) : Nat → Nat → Int → Int
  | 0, _, _ => 0
  | n + 1, k, t => t / ((2 * k + 1 : Nat) : Int) + atanInvSeries q2 n (k + 1) (-(t / (q2 : Int)))

/-- `2^P * atan(1/q)`. -/
def atanInvFix (P q : Nat) : Int := atanInvSeries (q * q) (P / 4 + 4) 0 ((2 ^ P / q : Nat) : Int)

/-- `2^P * π` by 16 atan(1/5) - 4 atan(1/239). -/
def piFix (P : Nat) : Nat := (16 * atanInvFix P 5 - 4 * atanInvFix P 239).toNat

/-- `Σ r^k / k!` from term `k` at fixed point. -/
def expSeries (P r : Nat) : Nat → Nat → Nat → Nat
  | 0, _, _ => 0
  | n + 1, k, t => t + expSeries P r n (k + 1) (((t * r) >>> P) / (k + 1))

/-- Terms that make the remainder of a Taylor series below one step for arguments under 2. -/
def terms (P : Nat) : Nat := P / 3 + 24

/-- `2^P * e^r` for `0 ≤ r < 2` times 2^P. -/
def expFix (P r : Nat) : Nat := expSeries P r (terms P) 0 (2 ^ P)

/-- Alternating series of sine and cosine: from term index `k` the next divides by (k+1)(k+2). -/
def trigSeries (P : Nat) (r2 : Int) : Nat → Nat → Int → Int
  | 0, _, _ => 0
  | n + 1, k, t =>
    t + trigSeries P r2 n (k + 2) (-(t * r2 / ((2 ^ P : Nat) : Int) / (((k + 1) * (k + 2) : Nat) : Int)))

def sinFix (P : Nat) (r : Int) : Int := trigSeries P (r * r / ((2 ^ P : Nat) : Int)) (terms P) 1 r
def cosFix (P : Nat) (r : Int) : Int := trigSeries P (r * r / ((2 ^ P : Nat) : Int)) (terms P) 0 ((2 ^ P : Nat) : Int)

/-- `m * 2^e` in steps of 2^-P, rounded down. -/
def toFix (P m : Nat) (e : Int) : Nat :=
  let d := e + (P : Int)
  if 0 ≤ d then m <<< d.toNat else m >>> (-d).toNat

/-- Enclosure of e^x for a signed `x = ± m * 2^e`, with |x| at most a few hundred. -/
def expEncl (P : Nat) (neg : Bool) (m : Nat) (e : Int) : Encl :=
  let a : Int := (toFix P m e : Nat)
  let x := if neg then -a else a
  let l : Int := (ln2Fix P : Nat)
  let n := x / l
  let r := (x - n * l).toNat
  let v := expFix P r
  ⟨v - slack, v + slack, n - (P : Int)⟩

/-- Enclosure of 2^x. -/
def exp2Encl (P : Nat) (neg : Bool) (m : Nat) (e : Int) : Encl :=
  let a : Int := (toFix P m e : Nat)
  let x := if neg then -a else a
  let one : Int := (2 ^ P : Nat)
  let n := x / one
  let r := ((x - n * one).toNat * ln2Fix P) >>> P
  let v := expFix P r
  ⟨v - slack, v + slack, n - (P : Int)⟩

/-- An enclosure around a signed fixed-point value; none when it may hold zero. -/
def signedEncl (P : Nat) (v : Int) : Option (Bool × Encl) :=
  if v.natAbs ≤ slack then none
  else some (decide (v < 0), ⟨v.natAbs - slack, v.natAbs + slack, -(P : Int)⟩)

/-- log₂ of a positive `m * 2^e` that is no power of two. -/
def log2Encl (P m : Nat) (e : Int) : Option (Bool × Encl) :=
  let k := Nat.log2 m
  let one := 2 ^ P
  let t := toFix P m (-(k : Int))
  let z := ((t - one) <<< P) / (t + one)
  let l := ((2 * atanhFix P z) <<< P) / ln2Fix P
  signedEncl P ((e + (k : Int)) * ((one : Nat) : Int) + ((l : Nat) : Int))

/-- Quotient of enclosures, at P bits. -/
def divEncl (P : Nat) (a b : Encl) : Encl :=
  ⟨(a.lo <<< P) / b.hi, (a.hi <<< P) / b.lo + 1, a.e - b.e - (P : Int)⟩

/-- `1 + a`, with `a` below 2^P. -/
def onePlus (P : Nat) (a : Encl) : Encl :=
  ⟨2 ^ P + toFix P a.lo a.e, 2 ^ P + toFix P a.hi a.e + 1, -(P : Int)⟩

/-- 1 / (1 + e^-x). -/
def sigmoidEncl (P : Nat) (neg : Bool) (m : Nat) (e : Int) : Encl :=
  let p := expEncl P true m e
  if neg then divEncl P p (onePlus P p) else divEncl P ⟨2 ^ P, 2 ^ P, -(P : Int)⟩ (onePlus P p)

/-- tanh of |x| from e^2x, for |x| at least 2^-30. -/
def tanhEncl (P m : Nat) (e : Int) : Encl :=
  let p := expEncl P true m (e + 1)
  let one := 2 ^ P
  let lo := toFix P p.lo p.e
  let hi := toFix P p.hi p.e + 1
  divEncl P ⟨one - hi, one - lo, -(P : Int)⟩ ⟨one + lo, one + hi, -(P : Int)⟩

/-- Reduction by π/2 of a positive `m * 2^e`: the quadrant and the remainder at P bits. -/
def reduceHalfPi (P m : Nat) (e : Int) : Nat × Int :=
  let Q := P + 160
  let h := piFix Q / 2
  let x := toFix Q m e
  (x / h % 4, ((x % h) >>> 160 : Nat))

def sinEncl (P : Nat) (neg : Bool) (m : Nat) (e : Int) : Option (Bool × Encl) :=
  let q := reduceHalfPi P m e
  let v := match q.1 with
    | 0 => sinFix P q.2
    | 1 => cosFix P q.2
    | 2 => -(sinFix P q.2)
    | _ => -(cosFix P q.2)
  signedEncl P (if neg then -v else v)

def cosEncl (P m : Nat) (e : Int) : Option (Bool × Encl) :=
  let q := reduceHalfPi P m e
  signedEncl P (match q.1 with
    | 0 => cosFix P q.2
    | 1 => -(sinFix P q.2)
    | 2 => -(cosFix P q.2)
    | _ => sinFix P q.2)

/-- x (1 - c x²) for a constant c between 1/2^a and 1/2^b: the enclosure of an odd function at a tiny argument. -/
def oddTiny (m : Nat) (e : Int) (a b : Nat) : Encl :=
  let f : Int := 3 * e - 200
  let sh := (e - f).toNat
  let c := (m * m * m) <<< 200
  ⟨(m <<< sh) - (c >>> b), (m <<< sh) - (c >>> a), f⟩

/-- The two ends rounded; the value lies strictly between them, so both roundings are inexact. -/
def roundEncl (neg : Bool) (x : Encl) : Option (W32 × NFlags) :=
  let a := round32 neg (2 * x.lo + 1) (x.e - 1)
  let b := round32 neg (2 * x.hi - 1) (x.e - 1)
  if a = b then some a else none

/-- Working precisions, rising. -/
def precisions : List Nat := [96, 160, 320, 640, 1280]

/-- The first precision that decides; at the last one the lower end stands. -/
def decideAt (f : Nat → Option (Bool × Encl)) : List Nat → W32 × NFlags
  | [] => (nan32, 0#7)
  | P :: t =>
    match f P with
    | none => decideAt f t
    | some (neg, x) =>
      match roundEncl neg x with
      | some r => r
      | none =>
        match t with
        | [] => round32 neg (2 * x.lo + 1) (x.e - 1)
        | _ => decideAt f t

/-- A magnitude far above the overflow limit, and one far below the least subnormal. -/
def hugeEncl : Encl := ⟨2, 4, 300⟩
def tinyEncl : Encl := ⟨2, 4, -300⟩

/-- `|x| ≥ 2^k`. -/
def atLeastPow (m : Nat) (e k : Int) : Bool := decide (k ≤ e + (Nat.log2 m : Int))

/-- The value of a function at a finite non-zero argument (R158). -/
def TFun.finite (f : TFun) (neg : Bool) (m : Nat) (e : Int) : W32 × NFlags :=
  match f with
  | .rcp => let r := ratioSticky 1 m (-e); round32 neg r.1 r.2
  | .sqrt => if neg then invalid32 else let r := sqrtSticky m e; round32 false r.1 r.2
  | .rsqrt =>
    if neg then invalid32
    else
      let (m, e) := if e % 2 = 0 then (m, e) else (2 * m, e - 1)
      let q := 2 ^ 160 / m
      let r := isqrt q
      round32 false (2 * r + (if r * r * m = 2 ^ 160 then 0 else 1)) (-(e / 2) - 81)
  | .exp =>
    if atLeastPow m e 8 then
      decideAt (fun _ => some (false, if neg then tinyEncl else hugeEncl)) precisions
    else decideAt (fun P => some (false, expEncl P neg m e)) precisions
  | .exp2 =>
    if atLeastPow m e 9 then
      decideAt (fun _ => some (false, if neg then tinyEncl else hugeEncl)) precisions
    else if 0 ≤ e ∨ m % 2 ^ (-e).toNat = 0 then
      let n : Int := (toFix 0 m e : Nat)
      round32 false 1 (if neg then -n else n)
    else decideAt (fun P => some (false, exp2Encl P neg m e)) precisions
  | .log2 =>
    if neg then invalid32
    else if m = 2 ^ Nat.log2 m then round32Int (e + (Nat.log2 m : Int)) 0
    else decideAt (fun P => log2Encl P m e) precisions
  | .tanh =>
    if atLeastPow m e 6 then decideAt (fun P => some (neg, ⟨2 ^ P - 2, 2 ^ P, -(P : Int)⟩)) precisions
    else if atLeastPow m e (-30) then decideAt (fun P => some (neg, tanhEncl P m e)) precisions
    else decideAt (fun _ => some (neg, oddTiny m e 2 1)) precisions
  | .sigmoid =>
    if atLeastPow m e 8 then
      decideAt (fun P => some (false, if neg then tinyEncl else ⟨2 ^ P - 2, 2 ^ P, -(P : Int)⟩)) precisions
    else decideAt (fun P => some (false, sigmoidEncl P neg m e)) precisions
  | .sin =>
    if atLeastPow m e (-30) then decideAt (fun P => sinEncl P neg m e) precisions
    else decideAt (fun _ => some (neg, oddTiny m e 3 2)) precisions
  | .cos => decideAt (fun P => cosEncl P m e) precisions

/-- R158: the special inputs; a NaN gives the canonical NaN (R156). -/
def TFun.eval (f : TFun) (a : W32) : W32 × NFlags :=
  match f32 a with
  | .nan s => nanResult s
  | .inf neg =>
    match f with
    | .rcp => (zero32 neg, 0#7)
    | .rsqrt => if neg then invalid32 else (0#32, 0#7)
    | .sqrt => if neg then invalid32 else (inf32 false, 0#7)
    | .exp => if neg then (0#32, 0#7) else (inf32 false, 0#7)
    | .exp2 => if neg then (0#32, 0#7) else (inf32 false, 0#7)
    | .log2 => if neg then invalid32 else (inf32 false, 0#7)
    | .tanh => (if neg then 0xBF800000#32 else one32, 0#7)
    | .sigmoid => (if neg then 0#32 else one32, 0#7)
    | .sin => invalid32
    | .cos => invalid32
  | .fin neg m e =>
    if m = 0 then
      match f with
      | .rcp => (inf32 neg, 0#7)
      | .rsqrt => (inf32 neg, 0#7)
      | .sqrt => (zero32 neg, 0#7)
      | .exp => (one32, 0#7)
      | .exp2 => (one32, 0#7)
      | .log2 => (inf32 true, 0#7)
      | .tanh => (zero32 neg, 0#7)
      | .sigmoid => (0x3F000000#32, 0#7)
      | .sin => (zero32 neg, 0#7)
      | .cos => (one32, 0#7)
    else f.finite neg m e

end Sys2Proof
end

