-- ==== Sys2Proof/Machine/VectorOps.lean ====
section
/-!
DEFINITION. The vector engine: payloads, checks, element operations and the effect of each instruction (chapter 05).
-/

namespace Sys2Proof.Machine

/-! ### Payloads (R149, R151) -/

/-- The arithmetic payload. -/
structure VArith where
  dst : Nat
  a : Nat
  b : Nat
  bKind : Nat
  bLine : Nat
  c : Nat
  cKind : Nat
  cLine : Nat
  rows : Nat
  cols : Nat
  bSreg : Nat
  cSreg : Nat
  imm : W32
deriving DecidableEq, Repr

def vArith (w : IWord) : VArith :=
  let p := w.pl
  { dst := field 1 0 p, a := field 3 2 p, b := field 5 4 p, bKind := field 7 6 p, bLine := field 14 8 p,
    c := field 16 15 p, cKind := field 18 17 p, cLine := field 25 19 p, rows := field 38 32 p, cols := field 46 40 p,
    bSreg := field 52 48 p, cSreg := field 57 53 p, imm := BitVec.ofNat 32 (field 95 64 p) }

/-- What an opcode uses of operand B and C: nothing, the whole operand, or, for a reduction, the line alone. -/
inductive VUse where
  | one | two | three | reduce
deriving DecidableEq, Repr

def vUse (opc : Nat) : VUse :=
  if opc = 0x13 then .three
  else if opc = 0x10 ∨ opc = 0x11 ∨ opc = 0x12 ∨ opc = 0x14 ∨ opc = 0x15 ∨ opc = 0x1A then .two
  else if 0x30 ≤ opc then .reduce
  else .one

/-- R149, R163: reserved bits and fields that the opcode does not use are zero. DESIGN CHOICE (log entry 79): what is unused is judged by
the opcode alone; a field that the operand kind in hand does not read may hold any value. -/
def vUnusedOk (w : IWord) (v : VArith) : Bool :=
  let p := w.pl
  let noB := v.b == 0 && v.bKind == 0 && v.bSreg == 0
  let noC := v.c == 0 && v.cKind == 0 && v.cLine == 0
  field 31 26 p == 0 && !bitN 39 p && !bitN 47 p && field 63 58 p == 0 &&
    (match vUse w.opc with
      | .three => true
      | .two => noC && v.cSreg == 0
      | .one => noB && v.bLine == 0 && noC && v.cSreg == 0 && v.imm == 0#32
      | .reduce => noB && v.cSreg == 0 && v.imm == 0#32)

/-- R145, R151, R153, R155, R163: the checks of an arithmetic instruction. -/
def vArithOk (w : IWord) (v : VArith) (x : Ctx) : Bool :=
  x.saveArea.isSome && vUnusedOk w v && decide (1 ≤ v.rows) && decide (v.rows ≤ 96) && decide (1 ≤ v.cols) &&
    decide (v.cols ≤ 96) && decide (v.bLine < 96) && decide (v.cLine < 96) &&
    (w.opc != 0x19 || v.dst != v.a) &&
    (w.opc != 0x1A || (x.rnd.isSome && v.bKind != 0 && (v.bKind != 3 || v.bSreg != 0))) &&
    (match w.opc with
      | 0x30 => v.cKind == 2
      | 0x31 => v.cKind == 2
      | 0x32 => v.cKind == 2
      | 0x33 => v.cKind == 1
      | 0x34 => v.cKind == 1
      | 0x35 => v.cKind == 1
      | _ => true)

/-! ### Element operations -/

/-- Flags of an operand element as it is read (R60, R156). -/
def operandFlags (a : W32) : NFlags :=
  denIn a ||| NFlags.when (isNan32 a) fNan ||| NFlags.when (f32 a).isSnan fInvalid

def abs32 (a : W32) : W32 × NFlags := if isNan32 a then nanResult (f32 a).isSnan else (a &&& 0x7FFFFFFF#32, 0#7)
def neg32 (a : W32) : W32 × NFlags := if isNan32 a then nanResult (f32 a).isSnan else (a ^^^ 0x80000000#32, 0#7)

/-- The functions of R158 by opcode. -/
def tfun : Nat → Option TFun
  | 0x20 => some .rcp
  | 0x21 => some .rsqrt
  | 0x22 => some .sqrt
  | 0x23 => some .exp
  | 0x24 => some .exp2
  | 0x25 => some .log2
  | 0x26 => some .tanh
  | 0x27 => some .sigmoid
  | 0x28 => some .sin
  | 0x29 => some .cos
  | _ => none

/-- R152: the element operation of an opcode, with every flag it raises. DESIGN CHOICE (log entry 77): of R155 (VTRANS raises no flag
but for a NaN) and R156 (nor any but those and denormal_input), the second is followed for a subnormal element. -/
def vElem (opc : Nat) (a b c : W32) : W32 × NFlags :=
  match opc with
  | 0x10 => let r := add32 a b; (r.1, r.2 ||| denIn a ||| denIn b)
  | 0x11 => let r := sub32 a b; (r.1, r.2 ||| denIn a ||| denIn b)
  | 0x12 => let r := mul32 a b; (r.1, r.2 ||| denIn a ||| denIn b)
  | 0x13 => let r := fma32 a b c; (r.1, r.2 ||| denIn a ||| denIn b ||| denIn c)
  | 0x14 => let r := max32 a b; (r.1, r.2 ||| denIn a ||| denIn b)
  | 0x15 => let r := min32 a b; (r.1, r.2 ||| denIn a ||| denIn b)
  | 0x16 => let r := abs32 a; (r.1, r.2 ||| denIn a)
  | 0x17 => let r := neg32 a; (r.1, r.2 ||| denIn a)
  | 0x18 => let r := copy32 a; (r.1, r.2 ||| denIn a)
  | 0x19 => let r := copy32 a; (r.1, r.2 ||| denIn a)
  | _ =>
    match tfun opc with
    | some f => let r := f.eval a; (r.1, r.2 ||| denIn a)
    | none => copy32 a

/-- R153: one step of a reduction. -/
def vStep (opc : Nat) (acc x : W32) : W32 × NFlags :=
  match opc with
  | 0x30 => add32 acc x
  | 0x33 => add32 acc x
  | 0x31 => fma32 x x acc
  | 0x34 => fma32 x x acc
  | _ => max32 acc x

/-- A reduction from its first accumulator over a list of elements; every element read is an operand. DESIGN CHOICE (log entry 77):
overflow, underflow and inexact of its steps are raised whether or not it ends in a NaN, since R61, which drops pending flags
then, speaks of output conversion. -/
def vReduce (opc : Nat) (acc : W32) (f : NFlags) : List W32 → W32 × NFlags
  | [] => (acc, f)
  | x :: xs => let r := vStep opc acc x; vReduce opc r.1 (f ||| r.2 ||| denIn x) xs

/-- R152: cc per row. -/
def vCc (opc : Nat) : Nat :=
  if 0x20 ≤ opc ∧ opc ≤ 0x22 then 2 else if 0x23 ≤ opc ∧ opc ≤ 0x25 then 4 else if 0x26 ≤ opc ∧ opc ≤ 0x29 then 6 else 1

/-- R150: the element that an operand supplies. -/
def operandAt (ve : VeSt) (valid : List Bool) (buf kind line : Nat) (sc : W32) (r c : Nat) : W32 :=
  match kind with
  | 0 => tileAt ve valid buf r c
  | 1 => tileAt ve valid buf line c
  | 2 => tileAt ve valid buf r line
  | _ => sc

/-- A scalar operand: s[sreg], or imm when sreg is 0 (R150). -/
def scalarOf (x : Ctx) (sreg : Nat) (imm : W32) : W32 := if sreg = 0 then imm else x.reg sreg

/-- Element index of the rounding record (R151). -/
def RndRec.index (d : RndRec) (r c : Nat) : Nat := (d.origin + r * d.pitch + c) % 2 ^ 64

/-- R155: one element of VDROP. -/
def vDrop (d : Draw) (rec : RndRec) (imm : W32) (r c : Nat) (a b : W32) : W32 × NFlags :=
  let u := cgWord0 d.seed d.step rec.tensor purposeDrop (rec.index r c)
  if u < imm.toNat then vElem 0x12 a b 0#32 else (0#32, operandFlags a ||| operandFlags b)

/-- Writes of a list of (row, column, value) into a buffer, with the first write of a tick to it (R144). -/
def VeSt.write (ve : VeSt) (valid : List Bool) (b : Nat) (ws : List (Nat × Nat × W32)) : VeSt :=
  let ve := if valid.getD b false then ve else clearTile ve b
  { ve with tiles := ws.foldl (fun t w => Sp.set 0#32 t (tileKey b w.1 w.2.1) w.2.2) ve.tiles }

/-- A context's valid bits with buffer `b` valid. -/
def setValid (valid : List Bool) (b : Nat) : List Bool := (List.range 4).map (fun i => i == b || valid.getD i false)

/-- The elements of operand A, and of B and C; `lat` is the broadcast row as it was latched. -/
def vOpA (ve : VeSt) (x : Ctx) (v : VArith) (r c : Nat) : W32 := tileAt ve x.valid v.a r c
def vOpB (ve : VeSt) (x : Ctx) (v : VArith) (lat : List W32) (r c : Nat) : W32 :=
  if v.bKind = 1 then lat.getD c 0#32 else operandAt ve x.valid v.b v.bKind v.bLine (scalarOf x v.bSreg v.imm) r c
def vOpC (ve : VeSt) (x : Ctx) (v : VArith) (lat : List W32) (r c : Nat) : W32 :=
  if v.cKind = 1 then lat.getD c 0#32 else operandAt ve x.valid v.c v.cKind v.cLine (scalarOf x v.cSreg v.imm) r c

/-- A line of a buffer. -/
def tileLine (ve : VeSt) (valid : List Bool) (b line : Nat) : List W32 := (List.range 96).map (tileAt ve valid b line)

/-- The broadcast rows of B and C. -/
def vLines (ve : VeSt) (x : Ctx) (v : VArith) : List W32 × List W32 := (tileLine ve x.valid v.b v.bLine, tileLine ve x.valid v.c v.cLine)

/-- Whether an opcode reduces columns. -/
def vCols (opc : Nat) : Bool := decide (0x33 ≤ opc)

/-- One row of an arithmetic instruction other than a column reduction: the places written and the flags raised. -/
def vRow (ve : VeSt) (x : Ctx) (d : Draw) (opc : Nat) (v : VArith) (ls : List W32 × List W32) (r : Nat) :
    List ((Nat × Nat × W32) × NFlags) :=
  let A := vOpA ve x v
  let B := vOpB ve x v ls.1
  let C := vOpC ve x v ls.2
  match vUse opc with
  | .reduce =>
    let c0 := C r 0
    let o := vReduce opc c0 (denIn c0) ((List.range v.cols).map (A r))
    [((r, v.bLine, o.1), o.2)]
  | _ =>
    (List.range v.cols).map (fun c =>
      if opc = 0x1A then
        match x.rnd with
        | some rec => let o := vDrop d rec v.imm r c (A r c) (B r c); ((r, c, o.1), o.2)
        | none => ((r, c, 0#32), 0#7)
      else
        let o := vElem opc (A r c) (B r c) (C r c)
        (if opc = 0x19 then (c, r, o.1) else (r, c, o.1), o.2))

/-- The accumulators of a column reduction as it begins: row `c_line` of C, with the flags of reading it. -/
def vAcc0 (v : VArith) (ls : List W32 × List W32) : List (W32 × NFlags) :=
  (List.range v.cols).map (fun c => let a := ls.2.getD c 0#32; (a, denIn a))

/-- A column reduction over rows `lo` to `hi - 1`: the accumulator of each column and the flags raised. -/
def vColRows (ve : VeSt) (x : Ctx) (opc : Nat) (v : VArith) (accs : List (W32 × NFlags)) (lo hi : Nat) : List (W32 × NFlags) :=
  (List.range v.cols).map (fun c =>
    let a := accs.getD c (0#32, 0#7)
    vReduce opc a.1 a.2 ((rowsFrom lo hi).map (fun r => vOpA ve x v r c)))

/-- The results of rows `lo` to `hi - 1` of an arithmetic instruction: the places written and the flags raised. A column reduction
writes with its last row. DESIGN CHOICE (log entry 78): the operands of all rows are read before any result is written, a
broadcast row that lies in the destination buffer among them. -/
def vResults (ve : VeSt) (x : Ctx) (d : Draw) (opc : Nat) (v : VArith) (ls : List W32 × List W32) (accs : List (W32 × NFlags))
    (lo hi : Nat) : List ((Nat × Nat × W32) × NFlags) :=
  if vCols opc then
    if hi < v.rows then []
    else
      let o := vColRows ve x opc v accs lo hi
      (List.range v.cols).map (fun c => ((v.bLine, c, (o.getD c (0#32, 0#7)).1), (o.getD c (0#32, 0#7)).2))
  else (rowsFrom lo hi).flatMap (vRow ve x d opc v ls)

def orFlags (l : List NFlags) : NFlags := l.foldl (· ||| ·) 0#7

/-- The elements of a buffer as they stand. -/
def VeSt.tile (ve : VeSt) (b : Nat) : Sp W32 := ve.tiles.filter (fun e => e.1 / 9216 == b)

/-- Cycles in which the arithmetic pipe issues rows (R164). DESIGN CHOICE (log entry 79): a row of 2, 4 or 6 cc counts all of them. -/
def vCycles (opc rows : Nat) : W64 := BitVec.ofNat 64 (rows * vCc opc)

def VeSt.addCycles (ve : VeSt) (opc : Nat) (cc : W64) : VeSt :=
  { ve with arithCyc := ve.arithCyc + cc,
            transCyc := if 0x20 ≤ opc ∧ opc ≤ 0x29 then ve.transCyc + cc else ve.transCyc }

/-- Rows `lo` to `hi - 1` of an arithmetic instruction done by context `k`. -/
def State.vArithRows (s : State) (n k : Nat) (w : IWord) (ls : List W32 × List W32) (accs : List (W32 × NFlags)) (lo hi : Nat) : State :=
  let c := s.core n
  let x := c.ctx k
  let v := vArith w
  let rs := vResults c.ve x (s.draw x) w.opc v ls accs lo hi
  let ve := (if rs.isEmpty then c.ve else c.ve.write x.valid v.dst (rs.map (·.1))).addCycles w.opc (vCycles w.opc (hi - lo))
  let x' := { x.raise (orFlags (rs.map (·.2))) with valid := if rs.isEmpty then x.valid else setValid x.valid v.dst }
  s.setCore n { c.setCtx k x' with ve := ve }

/-- The instruction in flight recorded (R100): what a stop between two of its rows needs. -/
def State.beginVe (s : State) (n k : Nat) (r : VeRun) : State := s.updCtx n k (fun x => { x with ve := some r })

/-- An arithmetic instruction taken by the engine. -/
def State.vArithTake (s : State) (n k : Nat) (w : IWord) : State :=
  let c := s.core n
  let x := c.ctx k
  let v := vArith w
  if !vArithOk w v x then s.seqFault n k 2
  else
    let ls := vLines c.ve x v
    (s.vArithRows n k w ls (vAcc0 v ls) 0 v.rows).beginVe n k ⟨w, 0, ls, [], x.valid, c.ve.tile v.dst, []⟩

/-! ### Transfers (R151, R157) -/

/-- The transfer payload. -/
structure VXfer where
  buf : Nat
  fmt : Option FFmt
  orient : Bool
  setFlags : Bool
  srReq : Bool
  rows : Nat
  cols : Nat
  group : Nat
  base : Nat
  stride : Nat
deriving DecidableEq, Repr

def fmtOfCode : Nat → Option FFmt
  | 0 => some .fp32
  | 1 => some .bf16
  | 2 => some .fp16
  | 3 => some .e4m3
  | 4 => some .e5m2
  | _ => none

def vXfer (w : IWord) : VXfer :=
  let p := w.pl
  { buf := field 1 0 p, fmt := fmtOfCode (field 4 2 p), orient := bitN 5 p, setFlags := bitN 6 p, srReq := bitN 7 p,
    rows := field 14 8 p, cols := field 22 16 p, group := field 34 24 p, base := field 62 40 p, stride := field 86 64 p }

/-- Offset of element (r, c). -/
def VXfer.at_ (t : VXfer) (es r c : Nat) : Nat :=
  if t.orient then t.base + c * t.stride + r * es else t.base + r * t.stride + c * es

/-- Bytes of a line and the number of lines. -/
def VXfer.line (t : VXfer) (es : Nat) : Nat × Nat := if t.orient then (t.rows * es, t.cols) else (t.cols * es, t.rows)

/-- R151, R157, R163, R147: the format of a transfer that passes its checks. -/
def vXferOk (w : IWord) (t : VXfer) (x : Ctx) : Option FFmt :=
  match t.fmt with
  | none => none
  | some f =>
    let p := w.pl
    let ln := t.line f.bytes
    if x.saveArea.isSome && !bitN 15 p && !bitN 23 p && field 39 35 p == 0 && !bitN 63 p && field 95 87 p == 0 &&
      decide (1 ≤ t.rows) && decide (t.rows ≤ 96) && decide (1 ≤ t.cols) && decide (t.cols ≤ 96) &&
      t.base % 16 == 0 && t.stride % 16 == 0 && fits (t.base + (ln.2 - 1) * t.stride + ln.1) &&
      (if w.opc = 2 then !t.setFlags && !t.srReq && t.group == 0
       else (t.setFlags || t.group == 0) && (!t.srReq || x.rnd.isSome) && !x.linesHit t.base t.stride ln.1 ln.2) then some f
    else none

/-- R157: a loaded element and the flags it raises. -/
def loadElem (f : FFmt) (code : Nat) : W32 × NFlags :=
  let v := f.decode code
  (f.widen code, NFlags.when v.isNan fNan ||| NFlags.when v.isSnan fInvalid)

/-- The (row, column) pairs of rows `lo` to `hi - 1`, row-major. -/
def cellsFrom (lo hi cols : Nat) : List (Nat × Nat) := (rowsFrom lo hi).flatMap (fun i => (List.range cols).map (fun j => (i, j)))

/-- Rows `lo` to `hi - 1` of a VLOAD. -/
def State.vLoadRows (s : State) (n k : Nat) (t : VXfer) (f : FFmt) (lo hi : Nat) : State :=
  let c := s.core n
  let x := c.ctx k
  let es := f.bytes
  let rs := (cellsFrom lo hi t.cols).map (fun rc =>
    let o := loadElem f (s.sramNat n (t.at_ es rc.1 rc.2) es)
    ((rc.1, rc.2, o.1), o.2))
  if rs.isEmpty then s
  else
    let x' := { x.raise (orFlags (rs.map (·.2))) with valid := setValid x.valid t.buf }
    s.setCore n { c.setCtx k x' with ve := c.ve.write x.valid t.buf (rs.map (·.1)) }

def State.vLoadTake (s : State) (n k : Nat) (w : IWord) : State :=
  let c := s.core n
  let x := c.ctx k
  let t := vXfer w
  match vXferOk w t x with
  | none => s.seqFault n k 2
  | some f => (s.vLoadRows n k t f 0 t.rows).beginVe n k ⟨w, 0, ([], []), [], x.valid, c.ve.tile t.buf, []⟩

/-- R157: a stored element and the flags it raises. -/
def storeElem (f : FFmt) (d : Draw) (req : Bool) (rnd : Option RndRec) (r c : Nat) (v : W32) : Nat × NFlags :=
  let word := match rnd with
    | some q => d.word req q.tensor q.origin q.pitch r c
    | none => none
  let o := f.convert d.nm word (f32 v)
  (o.1, o.2 ||| operandFlags v)

/-- Rows `lo` to `hi - 1` of a VSTORE: the elements of the buffer converted and written; with the last row its arrival is due. -/
def State.vStoreRows (s : State) (n k : Nat) (t : VXfer) (f : FFmt) (lo hi : Nat) : State :=
  let c := s.core n
  let x := c.ctx k
  let es := f.bytes
  let d := s.draw x
  let rs := (cellsFrom lo hi t.cols).map (fun rc =>
    let o := storeElem f d t.srReq x.rnd rc.1 rc.2 (tileAt c.ve x.valid t.buf rc.1 rc.2)
    (t.at_ es rc.1 rc.2, o))
  let mem := rs.foldl (fun m e => wrBytes m (sramBase n + e.1) (leBytes es e.2.1)) s.mem
  let x' := { x.raise (orFlags (rs.map (·.2.2))) with
    veArr := if t.setFlags && decide (hi = t.rows) then x.veArr ++ [t.group] else x.veArr }
  { s with mem := mem }.setCtx n k x'

/-- The bytes that rows `lo` to `hi - 1` of a VSTORE write, before and after. -/
def storeBytes (m0 m1 : Sp Byte) (n : Nat) (t : VXfer) (es lo hi : Nat) : List (Nat × Byte × Byte) :=
  (cellsFrom lo hi t.cols).flatMap (fun rc => (List.range es).map (fun j =>
    let a := sramBase n + t.at_ es rc.1 rc.2 + j
    (a, rdByte m0 a, rdByte m1 a)))

def State.vStoreTake (s : State) (n k : Nat) (w : IWord) : State :=
  let x := s.ctx n k
  let t := vXfer w
  match vXferOk w t x with
  | none => s.seqFault n k 2
  | some f =>
    let o := s.vStoreRows n k t f 0 t.rows
    o.beginVe n k ⟨w, 0, ([], []), [], x.valid, [], storeBytes s.mem o.mem n t f.bytes 0 t.rows⟩

/-! ### VSETSAVE and VSR_SET (R145, R151) -/

def State.vSetSaveTake (s : State) (n k : Nat) (w : IWord) : State :=
  let x := s.ctx n k
  let a := 64 * field 16 0 w.pl
  if field 95 17 w.pl ≠ 0 ∨ fits (a + saveAreaSize) = false then s.seqFault n k 2
  else
    match x.saveArea with
    | none => s.setCtx n k { x with saveArea := some a }
    | some b => if a = b then s else s.seqFault n k 2

def State.vSrSetTake (s : State) (n k : Nat) (w : IWord) : State :=
  let x := s.ctx n k
  let a := 64 * field 16 0 w.pl
  if field 95 17 w.pl ≠ 0 ∨ x.saveArea = none ∨ fits (a + 64) = false then s.seqFault n k 2
  else
    let rd := s.rdCore n
    if rd (a + 3) 1 ≠ 0 ∨ rd (a + 4) 4 ≠ 0 ∨ rd (a + 20) 44 ≠ 0 then s.seqFault n k 2
    else s.setCtx n k { x with rnd := some ⟨rd a 3, rd (a + 8) 8, rd (a + 16) 4⟩ }

/-- A vector instruction that the engine takes: every older one completes its rows (R100). -/
def State.veAccept (s : State) (n k : Nat) (w : IWord) : State :=
  let s := s.updCtx n k (fun x => { x with ve := none })
  match w.opc with
  | 0x00 => s.vSetSaveTake n k w
  | 0x01 => s.vSrSetTake n k w
  | 0x02 => s.vLoadTake n k w
  | 0x03 => s.vStoreTake n k w
  | _ => s.vArithTake n k w

/-- The instruction in flight, once no arrival is due any more: a VSTORE with an arrival is complete. -/
def Ctx.storeDone (x : Ctx) : Option VeRun :=
  match x.ve with
  | some r => if r.word.opc = 3 ∧ (vXfer r.word).setFlags = true then none else some r
  | none => none

/-- VSTORE_ARRIVAL (R151, R167): the arrival of the oldest completed VSTORE that has one. -/
def execVstoreArrival (core : Nat) (s : State) : Out :=
  let c := s.core core
  match c.running with
  | none => .next s
  | some k =>
    let x := c.ctx k
    match x.veArr with
    | [] => .next s
    | g :: gs =>
      .next (s.setCore core ((c.arrive k g false).setCtx k { x with veArr := gs, ve := if gs.isEmpty then x.storeDone else x.ve }))

/-! ### Interruption (R100, R101, R145, R146, R154) -/

/-- Rows of an instruction. -/
def vRowCount (w : IWord) : Nat := if w.opc ≤ 3 then (vXfer w).rows else (vArith w).rows

/-- Rows `lo` to `hi - 1` of an instruction in flight. -/
def State.veRows (s : State) (n k : Nat) (r : VeRun) (lo hi : Nat) : State :=
  let w := r.word
  if w.opc ≤ 3 then
    match (vXfer w).fmt with
    | some f => if w.opc = 2 then s.vLoadRows n k (vXfer w) f lo hi else s.vStoreRows n k (vXfer w) f lo hi
    | none => s
  else
    let accs := if lo = 0 then vAcc0 (vArith w) r.lines else r.accs.map (fun a => (a, 0#7))
    s.vArithRows n k w r.lines accs lo hi

/-- What the instruction in flight has written since it was begun taken back: its buffer, its valid bit, its bytes that nothing has
written since, its arrival and its cycles. Flags already raised stay (R101). -/
def State.undoVe (s : State) (n k : Nat) (r : VeRun) : State :=
  let w := r.word
  let c := s.core n
  let x := c.ctx k
  let due := w.opc == 3 && (vXfer w).setFlags
  let x := { x with valid := r.valid0, veArr := if due then x.veArr.dropLast else x.veArr }
  let b := if w.opc ≤ 3 then (vXfer w).buf else (vArith w).dst
  let tiles := if w.opc = 3 then c.ve.tiles
    else r.tiles0.foldl (fun t e => Sp.set 0#32 t e.1 e.2) (Sp.eraseRange (b * 9216) ((b + 1) * 9216) c.ve.tiles)
  let ve := { c.ve with tiles := tiles }
  let ve := if w.opc ≤ 3 then ve else ve.addCycles w.opc (-(vCycles w.opc (vRowCount w - r.done)))
  let mem := r.bytes0.foldl (fun m e => if rdByte m e.1 = e.2.2 then wrByte m e.1 e.2.1 else m) s.mem
  { s with mem := mem }.setCore n { c.setCtx k x with ve := ve }

/-- The partial accumulators of a column reduction that has done the rows below `m`, in all 96 lanes. -/
def State.vPartial (s : State) (n k : Nat) (r : VeRun) (m : Nat) : List W32 :=
  let c := s.core n
  let x := c.ctx k
  let v := vArith r.word
  let accs := if r.done = 0 then vAcc0 v r.lines else r.accs.map (fun a => (a, 0#7))
  let o := vColRows c.ve x r.word.opc v accs r.done m
  (List.range 96).map (fun i => if i < v.cols then (o.getD i (0#32, 0#7)).1 else Config.idleLane s.free i)

/-- R100, R154: an interruption stops the youngest instruction between two of its rows, or behind its last; which is a free value.
The rows that are not done are taken back. -/
def State.cutVe (s : State) (n k : Nat) : State :=
  match (s.ctx n k).ve with
  | none => s
  | some r =>
    let rows := vRowCount r.word
    let m := r.done + Config.veRows s.free % (rows - r.done + 1)
    if rows ≤ m then s.bump.updCtx n k (fun x => { x with ve := none })
    else
      let s' := s.undoVe n k r
      let accs := if vCols r.word.opc ∧ 0 < m then s'.vPartial n k r m else []
      ((s'.veRows n k r r.done m).bump).beginVe n k { r with done := m, accs := accs, valid0 := [], tiles0 := [], bytes0 := [] }

/-- The context holds partial accumulators of an interrupted column reduction. -/
def Ctx.colPartial (x : Ctx) : Bool :=
  match x.ve with
  | some r => !r.accs.isEmpty
  | none => false

/-- R101, R146: the interrupted instruction goes on from its progress word; its partial accumulators are read back from the save
area. -/
def State.resumeVe (s : State) (n k : Nat) : State :=
  match (s.ctx n k).ve with
  | none => s
  | some r =>
    let c := s.core n
    let x := c.ctx k
    let w := r.word
    let base := x.saveArea.getD 0 + 147456
    let r := if r.accs.isEmpty then r
      else { r with accs := (List.range 96).map (fun i => BitVec.ofNat 32 (s.sramNat n (base + 4 * i) 4)) }
    let b := if w.opc ≤ 3 then (vXfer w).buf else (vArith w).dst
    let o := s.veRows n k r r.done (vRowCount w)
    let bytes := if w.opc = 3 then
        (match (vXfer w).fmt with
          | some f => storeBytes s.mem o.mem n (vXfer w) f.bytes r.done (vXfer w).rows
          | none => [])
      else []
    o.beginVe n k { r with valid0 := x.valid, tiles0 := c.ve.tile b, bytes0 := bytes }

/-! ### Service sequences (R148) -/

/-- The service context exists while the core is drained, or before an image is applied. -/
def State.service (s : State) (n : Nat) : Bool := decide ((s.core n).run = .drained) || s.image.isNone

def vregKey (v lane : Nat) : Nat := v * 96 + lane
def VeSt.vreg (ve : VeSt) (v lane : Nat) : W32 := Sp.get 0#32 ve.vregs (vregKey v lane)
/-- One vector register written. -/
def VeSt.setVreg (ve : VeSt) (v : Nat) (f : Nat → W32) : VeSt :=
  { ve with vregs := (List.range 96).foldl (fun t i => Sp.set 0#32 t (vregKey v i) (f i)) ve.vregs }
def State.updVe (s : State) (n : Nat) (f : VeSt → VeSt) : State := s.updCore n (fun c => { c with ve := f c.ve })

def execVrLoad (core reg off : Nat) (s : State) : Out :=
  if s.service core && decide (reg < 32) && fits (off + 384) then
    .next (s.updVe core (fun ve => ve.setVreg reg (fun i => BitVec.ofNat 32 (s.sramNat core (off + 4 * i) 4))))
  else .next s

def execVrStore (core reg off : Nat) (s : State) : Out :=
  if s.service core && decide (reg < 32) && fits (off + 384) then
    .next (s.setSram core off ((List.range 96).flatMap (fun i => leBytes 4 ((s.core core).ve.vreg reg i).toNat)))
  else .next s

def execVrFrombuf (core reg buf row : Nat) (s : State) : Out :=
  if s.service core && decide (reg < 32) && decide (buf < 4) && decide (row < 96) then
    .next (s.updVe core (fun ve => ve.setVreg reg (fun i => Sp.get 0#32 ve.tiles (tileKey buf row i))))
  else .next s

/-- A lane of VR_OP: element-wise and column operations act lane by lane. A row reduction, a transposition and drop-out
of a single register have no stated place for their result: a free value. -/
def vrLane (free opc : Nat) (a b c : W32) (i : Nat) : W32 :=
  if opc ≤ 0x18 ∨ (0x20 ≤ opc ∧ opc ≤ 0x29) then (vElem opc a b c).1
  else if 0x33 ≤ opc then (vStep opc c a).1
  else Config.serviceLane free i

/-- VR_OP (R148). DESIGN CHOICE (log entry 77): the flags of its elements reach no register, since no flag word belongs to the service
context. -/
def execVrOp (core opc dst a b c : Nat) (s : State) : Out :=
  if s.service core && veOpcode opc && decide (0x10 ≤ opc) && decide (dst < 32) then
    .next (s.bump.updVe core (fun ve =>
      ve.setVreg dst (fun i => vrLane s.free opc (ve.vreg a i) (ve.vreg b i) (ve.vreg c i) i)))
  else .next s

end Sys2Proof.Machine
end

