-- ==== Sys2Proof/Machine/StreamOps.lean ====
section
/-!
DEFINITION. Stream transfers: descriptor, addresses, delivery, suspension and poison (R168 to R193).
-/

namespace Sys2Proof.Machine

/-! ### FARM (R168) -/

/-- R168: groups armed. -/
def CoreSt.armGroups (c : CoreSt) (k first need : Nat) : Nat → CoreSt
  | 0 => c
  | n + 1 => (c.setGrp k first ⟨need, 0, false⟩).armGroups k ((first + 1) % 2048) need n

def State.farmTake (s : State) (n k : Nat) (w : IWord) : State :=
  let count := field 21 11 w.pl
  let need := field 29 22 w.pl
  if count = 0 ∨ need = 0 then s.seqFault n k 2
  else s.updCore n (fun c => c.armGroups k (field 10 0 w.pl) need count)

/-! ### Descriptor (R170 to R177, R192) -/

/-- A signed 48-bit stride. -/
def stride48 (v : Nat) : Int := signed 48 v

/-- R171: the descriptor read at `a`, with the register offsets added; none when a field is refused. -/
def parseDesc (rd : Rd) (a srcOff dstOff : Nat) : Option SDesc :=
  let ew := rd (a + 16) 1
  let fl := rd (a + 17) 1
  let nd := rd (a + 18) 1
  let es := 2 ^ ew
  let src := rd a 6 + srcOff
  let dst := rd (a + 8) 6 + dstOff
  let counts := (List.range 6).map (fun i => rd (a + 32 + 4 * i) 3)
  let tops := (List.range 6).map (fun i => rd (a + 35 + 4 * i) 1)
  let ss := (List.range 5).map (fun i => stride48 (rd (a + 64 + 6 * i) 6))
  let ds := (List.range 5).map (fun i => stride48 (rd (a + 94 + 6 * i) 6))
  let srcSp := field 3 0 (rd (a + 6) 1)
  let dstSp := field 3 0 (rd (a + 14) 1)
  let d : SDesc :=
    { src := src, srcSpace := srcSp, dst := dst, dstSpace := dstSp, esize := es, transpose := bitN 0 fl,
      flagDim := field 3 1 fl, flagTarget := field 5 4 fl, ndim := nd, flagGroup := rd (a + 20) 2,
      flagStep := rd (a + 22) 2, flagCores := rd (a + 24) 2, counts := counts, srcStride := ss, dstStride := ds }
  if fits (a + 128) && rd (a + 6) 2 / 16 == 0 && rd (a + 14) 2 / 16 == 0 && decide (ew ≤ 4) && fl / 64 == 0 &&
    decide (1 ≤ nd) && decide (nd ≤ 6) && rd (a + 19) 1 == 0 && d.flagGroup / 2048 == 0 && d.flagStep / 2048 == 0 &&
    rd (a + 26) 6 == 0 && rd (a + 56) 8 == 0 && rd (a + 124) 4 == 0 && tops.all (· == 0) &&
    (List.range 6).all (fun i => if i < nd then counts.getD i 0 != 0 else counts.getD i 0 == 0) &&
    decide (srcSp ≤ 1) && decide (dstSp ≤ 1) && decide (d.flagTarget ≤ 2) &&
    (d.flagDim == 6 || (decide (1 ≤ d.flagDim) && decide (d.flagDim < nd))) &&
    (!d.transpose || (decide (2 ≤ nd) && decide (es ≤ 4) && decide (2 ≤ d.flagDim))) &&
    decide (src < 2 ^ 48) && decide (dst < 2 ^ 48) && src % es == 0 && dst % es == 0 &&
    ss.all (fun v => v % (es : Int) == 0) && ds.all (fun v => v % (es : Int) == 0) then some d
  else none

/-- Count of a dimension, 1 at or beyond ndim. -/
def SDesc.cnt (d : SDesc) (k : Nat) : Nat := max 1 (d.counts.getD k 0)

/-- Product of the counts of dimensions `a` to `b - 1`. -/
def SDesc.span (d : SDesc) (a b : Nat) : Nat := (List.range (b - a)).foldl (fun p i => p * d.cnt (a + i)) 1

def SDesc.total (d : SDesc) : Nat := d.span 0 6

/-- Indices i0 to i5 of a flat index. -/
def SDesc.idx (d : SDesc) (flat : Nat) : List Nat := (List.range 6).map (fun k => flat / d.span 0 k % d.cnt k)

/-- Sum of index times stride over dimensions `from` to 5. -/
def dotStride (idx : List Nat) (st : List Int) (from_ : Nat) : Int :=
  (List.range (6 - from_)).foldl (fun a i => a + (idx.getD (from_ + i) 0 : Int) * st.getD (from_ + i - 1) 0) 0

/-- R173, R174: source and destination address of an element. -/
def SDesc.srcAt (d : SDesc) (idx : List Nat) : Int := d.src + (idx.getD 0 0 : Int) * d.esize + dotStride idx d.srcStride 1
def SDesc.dstAt (d : SDesc) (idx : List Nat) : Int :=
  if d.transpose then
    d.dst + (idx.getD 1 0 : Int) * d.esize + (idx.getD 0 0 : Int) * d.dstStride.getD 0 0 + dotStride idx d.dstStride 2
  else d.dst + (idx.getD 0 0 : Int) * d.esize + dotStride idx d.dstStride 1

/-- The indices at the lower and upper corner of the range along each dimension: strides may be negative. -/
def corners : List (Nat × Int) → Int × Int
  | [] => (0, 0)
  | (c, st) :: t =>
    let r := corners t
    let e := ((c : Int) - 1) * st
    (r.1 + min 0 e, r.2 + max 0 e)

/-- R192: a space-0 range lies within core SRAM. -/
def SDesc.rangeOk (d : SDesc) : Bool :=
  let ok (base : Nat) (st : List (Nat × Int)) : Bool :=
    let r := corners st
    decide (0 ≤ (base : Int) + r.1) && decide ((base : Int) + r.2 + d.esize ≤ sramSize)
  let es : Int := d.esize
  let sIn := (List.range 6).map (fun k => (d.cnt k, if k = 0 then es else d.srcStride.getD (k - 1) 0))
  let dIn := (List.range 6).map (fun k => (d.cnt k,
    if d.transpose then (if k = 0 then d.dstStride.getD 0 0 else if k = 1 then es else d.dstStride.getD (k - 1) 0)
    else if k = 0 then es else d.dstStride.getD (k - 1) 0))
  (d.srcSpace == 1 || ok d.src sIn) && (d.dstSpace == 1 || ok d.dst dIn)

/-- Whether a virtual range overlaps the save area of a context of core `n` (R147): by the windows of that core's own SRAM. -/
def State.virtHits (s : State) (n tenant : Nat) (x : Ctx) (va len : Nat) : Bool :=
  x.saveArea.isSome && (List.range ((va + len - 1) / 65536 - va / 65536 + 1)).any (fun i =>
    let a := max va ((va / 65536 + i) * 65536)
    let e := min (va + len) ((va / 65536 + i + 1) * 65536)
    match (s.pageOf tenant a).2.dest with
    | .coreWin m w => m == n && x.hitsSave (w * 65536 + a % 65536) (e - a)
    | _ => false)

/-- Whether a line that a transfer writes overlaps the save area (R147): every line of dimension 0 (1 with transpose). -/
def State.hitsSave (s : State) (n : Nat) (x : Ctx) (d : SDesc) : Bool :=
  x.saveArea.isSome &&
    (let inner := if d.transpose then 1 else 0
     (List.range (d.total / d.cnt inner)).any (fun j =>
       let flat := if d.transpose then j % d.cnt 0 + j / d.cnt 0 * d.span 0 2 else j * d.cnt 0
       let a := (d.dstAt (d.idx flat)).toNat
       let len := d.cnt inner * d.esize
       if d.dstSpace = 0 then x.hitsSave a len else s.virtHits n x.prog.tenant x a len))

/-- R177: the destination kind taken at acceptance. -/
def State.dstKind (s : State) (n tenant : Nat) (d : SDesc) : PageKind :=
  if d.dstSpace = 0 then .coreWin n else (s.pageOf tenant d.dst).2.dest.kind

/-- R177: a flag_target that the destination allows. DESIGN CHOICE (log entry 81): the table names no receiver for a page of a host
region; such a page has no kind, as one that no map holds, so flag_target 0 is accepted and the transfer is delivered. -/
def targetOk (n : Nat) (d : SDesc) (k : PageKind) : Bool :=
  match d.flagTarget, k with
  | 0, .coreWin m => m == n
  | 0, .shared _ => false
  | 0, _ => true
  | 1, .coreWin m => m != n
  | 2, .shared _ => true
  | _, _ => false

/-- SXFER taken by the engine (R170, R192). -/
def State.sxferTake (s : State) (n k : Nat) (w : IWord) : State :=
  let x := s.ctx n k
  let off (sreg sh : Nat) : Nat := if sreg = 0 then 0 else (x.reg sreg).toNat * 2 ^ sh
  match parseDesc (s.rdCore n) (64 * field 16 0 w.pl) (off (field 21 17 w.pl) (field 30 27 w.pl))
      (off (field 26 22 w.pl) (field 34 31 w.pl)) with
  | none => s.seqFault n k 2
  | some d =>
    let kind := s.dstKind n x.prog.tenant d
    if !d.rangeOk || !targetOk n d kind || s.hitsSave n x d then s.seqFault n k 2
    else s.setCtx n k { x with st := some { desc := d, dstKind := kind, pos := 0, chunk := 0, chunkPoison := false,
                                            susp := none, dma := none, buf := [] } }

/-- A stream-engine instruction taken from the queue. -/
def State.stAccept (s : State) (n k : Nat) (w : IWord) : State :=
  if w.opc = 1 then s.farmTake n k w else s.sxferTake n k w

/-! ### Positions and chunks (R175, R176) -/

/-- Blocks of 64 along a dimension. -/
def SDesc.blocks (d : SDesc) (k : Nat) : Nat := ceilDiv (d.cnt k) 64

/-- Positions of the whole transfer: elements, or blocks with transpose. -/
def SDesc.positions (d : SDesc) : Nat :=
  if d.transpose then d.blocks 0 * d.blocks 1 * d.span 2 6 else d.total

/-- Positions of one chunk. -/
def SDesc.chunkLen (d : SDesc) : Nat :=
  if d.flagDim = 6 then d.positions
  else if d.transpose then d.blocks 0 * d.blocks 1 * d.span 2 d.flagDim else d.span 0 d.flagDim

def SDesc.chunks (d : SDesc) : Nat := d.positions / d.chunkLen

/-- Indices of the element at a position, or of the first element of a block. -/
def SDesc.at_ (d : SDesc) (pos : Nat) : List Nat :=
  if d.transpose then
    let q := pos / (d.blocks 0 * d.blocks 1)
    let b := pos % (d.blocks 0 * d.blocks 1)
    let outer := d.idx (q * d.span 0 2)
    (List.range 6).map (fun k =>
      if k = 0 then 64 * (b % d.blocks 0) else if k = 1 then 64 * (b / d.blocks 0) else outer.getD k 0)
  else d.idx pos

def setAt (l : List Nat) (i v : Nat) : List Nat := mapAt l i (fun _ => v)

/-- The runs of destination-contiguous elements at a position: the rest of the row, or each line of the block. A run
is its first indices, the dimension it moves along and its length. -/
def SDesc.runs (d : SDesc) (pos : Nat) : List (List Nat × Nat × Nat) :=
  let ix := d.at_ pos
  if d.transpose then
    let i0 := ix.getD 0 0
    let i1 := ix.getD 1 0
    (List.range (min 64 (d.cnt 0 - i0))).map (fun j => (setAt ix 0 (i0 + j), 1, min 64 (d.cnt 1 - i1)))
  else [(ix, 0, d.cnt 0 - ix.getD 0 0)]

/-- Indices of element `j` of a run. -/
def runAt (r : List Nat × Nat × Nat) (j : Nat) : List Nat := setAt r.1 r.2.1 (r.1.getD r.2.1 0 + j)

/-- The indices of a block's elements in ascending flat index. -/
def SDesc.blockFlat (d : SDesc) (pos : Nat) : List (List Nat) :=
  let ix := d.at_ pos
  let i0 := ix.getD 0 0
  let i1 := ix.getD 1 0
  (List.range (min 64 (d.cnt 1 - i1))).flatMap (fun j =>
    (List.range (min 64 (d.cnt 0 - i0))).map (fun i => setAt (setAt ix 0 (i0 + i)) 1 (i1 + j)))

/-! ### Faults (R187, R188) -/

/-- The fault of one side at an address: 0 for none. -/
def State.sideCode (s : State) (tenant space : Nat) (a : Int) (write : Bool) : Nat :=
  if space = 0 then 0 else if a < 0 ∨ (2 ^ 48 : Int) ≤ a then 3 else s.accessCode tenant a.toNat write

/-- The fault of a destination address. A page of another kind than the first faults with code 0x3, ahead of what else holds for it;
so does, where the first page has no kind, a page that no map holds (R177, R187). -/
def State.kindCode (s : State) (tenant : Nat) (t : StRun) (a : Int) : Nat :=
  let pg := (s.pageOf tenant a.toNat).2.dest
  if t.desc.dstSpace = 1 ∧ 0 ≤ a ∧ (if pg = .unmapped then t.dstKind = .none else pg.kind ≠ t.dstKind) then 3
  else s.sideCode tenant t.desc.dstSpace a true

/-- The fault of an element: code, side (true: destination) and address; the source first (R188). -/
def State.elemFault (s : State) (tenant : Nat) (t : StRun) (ix : List Nat) : Option (Nat × Bool × Nat) :=
  let sa := t.desc.srcAt ix
  let da := t.desc.dstAt ix
  let c := s.sideCode tenant t.desc.srcSpace sa false
  if c ≠ 0 then some (c, false, sa.toNat % 2 ^ 48)
  else
    let c := s.kindCode tenant t da
    if c ≠ 0 then some (c, true, da.toNat % 2 ^ 48) else none

/-- Where a source address is read: 0 on the module, 1 in host memory (R398), 2 in tier 2 through the guest die. -/
def State.srcClass (s : State) (tenant space : Nat) (a : Int) : Nat :=
  if space = 0 then 0
  else
    match (s.pageOf tenant a.toNat).2.dest with
    | .hostPage _ _ => 1
    | .tier2 _ _ => 2
    | _ => 0

/-- How many elements of a run come before the first that faults. -/
def State.goodLen (s : State) (tenant : Nat) (t : StRun) (r : List Nat × Nat × Nat) (j : Nat) : Nat → Nat
  | 0 => j
  | fuel + 1 =>
    if r.2.2 ≤ j then j
    else if (s.elemFault tenant t (runAt r j)).isSome then j
    else s.goodLen tenant t r (j + 1) fuel

/-- Whether an address of one side waits for a held channel or bank (R95, R249). -/
def State.sideHeld (s : State) (tenant space : Nat) (a : Int) : Bool :=
  space == 1 && (match s.physOf tenant a.toNat with
    | some p => s.heldAt p
    | none => false)

/-- The runs that the engine delivers next (R175): the block, or the rest of the row before its first faulting element. -/
def State.curRuns (s : State) (tenant : Nat) (t : StRun) : List (List Nat × Nat × Nat) :=
  if t.desc.transpose then t.desc.runs t.pos
  else (t.desc.runs t.pos).map (fun r => (r.1, r.2.1, s.goodLen tenant t r 0 (r.2.2 + 1)))

/-- The indices of their elements, in the order in which they are read and written. -/
def runsIdx (rs : List (List Nat × Nat × Nat)) : List (List Nat) :=
  rs.flatMap (fun r => (List.range r.2.2).map (runAt r))

/-- Whether one of these elements waits for a held channel or bank. -/
def State.runsHeld (s : State) (tenant : Nat) (t : StRun) (rs : List (List Nat × Nat × Nat)) : Bool :=
  (runsIdx rs).any (fun ix => s.sideHeld tenant t.desc.srcSpace (t.desc.srcAt ix) || s.sideHeld tenant t.desc.dstSpace (t.desc.dstAt ix))

/-- The fault at a transfer's position: of the element, or of the first faulting element of the block. -/
def State.posFault (s : State) (tenant : Nat) (t : StRun) : Option (Nat × Bool × Nat) :=
  if t.pos < t.desc.positions then
    if t.desc.transpose then (t.desc.blockFlat t.pos).findSome? (s.elemFault tenant t)
    else s.elemFault tenant t (t.desc.at_ t.pos)
  else none

/-- The bursts of `len` bytes that begin at byte `head` of the first. -/
def allBursts (head len : Nat) : List Nat := List.range ((head + len - 1) / 64 + 1)

/-! ### Moving data -/

/-- An element read: its bytes and whether it came poisoned. -/
def State.readElem (s : State) (n tenant space es : Nat) (a : Int) : List Byte × Bool :=
  if space = 0 then (s.sram n a.toNat es, false)
  else
    match s.physOf tenant a.toNat with
    | some p => s.rdPhys p es
    | none => (zeros es, true)

/-- Elements of a destination-contiguous run written within one page: SRAM takes zeros for a poisoned element (R190);
tier 1 takes whole bursts where the run covers them. -/
def State.writePieces (s : State) (p : Nat) (es : Nat) (els : List (List Byte × Bool)) : Nat → State
  | 0 => s
  | fuel + 1 =>
    match els with
    | [] => s
    | _ =>
      let m := max 1 ((64 - p % 64) / es)
      let now := els.take m
      (s.wrPiece p (now.flatMap (fun e => if e.2 then zeros es else e.1)) (now.any (·.2))).writePieces
        (p + m * es) es (els.drop m) fuel

/-- Elements written at a destination address. -/
def State.writeRun (s : State) (n tenant space es : Nat) (a : Int) (els : List (List Byte × Bool)) : State :=
  if space = 0 then s.writePieces (sramBase n + a.toNat) es els (els.length + 1)
  else
    match s.physOf tenant a.toNat with
    | some p => s.writePieces p es els (els.length + 1)
    | none =>
      match s.hostAddr tenant a.toNat with
      | some h => s.hostWrite h (els.flatMap (fun e => if e.2 then zeros es else e.1))
      | none => s

/-- A run cut where the destination enters another 64 KiB granule. -/
def State.writeCut (s : State) (n tenant space es : Nat) (a : Int) (els : List (List Byte × Bool)) : Nat → State
  | 0 => s
  | fuel + 1 =>
    match els with
    | [] => s
    | _ =>
      let m := max 1 ((65536 - a.toNat % 65536) / es)
      (s.writeRun n tenant space es a (els.take m)).writeCut n tenant space es (a + (m * es : Nat)) (els.drop m) fuel

/-- Source segments of a run, counted in heat page by page (R264). -/
def State.heatRun (s : State) (tenant space : Nat) (a : Int) (len : Nat) : Nat → State
  | 0 => s
  | fuel + 1 =>
    if len = 0 ∨ space = 0 then s
    else
      let m := min len (pageSize - a.toNat % pageSize)
      (s.heatRead tenant a.toNat m).heatRun tenant space (a + (m : Nat)) (len - m) fuel

/-- The translation cache (R179): a page not held counts a miss; a full cache replaces an entry of its own choice. -/
def State.touchPage (s : State) (n tenant space : Nat) (a : Int) : State :=
  if space = 0 then s
  else
    let key := (s.pageOf tenant a.toNat).1
    let st := (s.core n).st
    if st.tcache.contains key then s
    else
      let keep := if st.tcache.length < 64 then st.tcache else st.tcache.eraseIdx (Config.cacheVictim s.free % 64)
      s.bump.updCore n (fun c => { c with st := { c.st with tcache := keep ++ [key], tmiss := satAdd32 c.st.tmiss 1 } })

/-- The pages of a run's two sides touched. -/
def State.touchRun (s : State) (n tenant space es : Nat) (a : Int) : Nat → State
  | 0 => s
  | m + 1 => (s.touchRun n tenant space es a m).touchPage n tenant space (a + (m * es : Nat))

/-- The bursts of tier 1 that a row of elements lies in, each noted once as it is read (R215 to R217). -/
def State.noteElems (s : State) (tenant space : Nat) : List Int → Nat → State
  | [], _ => s
  | a :: r, last =>
    match (if space = 1 then s.physOf tenant a.toNat else none) with
    | some ph =>
      if isTier1 ph ∧ burstOf ph + 1 ≠ last then (s.noteRead ph 1).noteElems tenant space r (burstOf ph + 1)
      else s.noteElems tenant space r last
    | none => s.noteElems tenant space r last

/-- What moving a run gives: the state and whether an element was poisoned. -/
def State.moveRun (s : State) (n tenant : Nat) (t : StRun) (r : List Nat × Nat × Nat) (els : List (List Byte × Bool)) : State × Bool :=
  let d := t.desc
  let len := r.2.2
  let s := s.noteElems tenant d.srcSpace ((List.range len).map (fun j => d.srcAt (runAt r j))) 0
  let s := if d.transpose then
      (List.range len).foldl (fun s j =>
        (s.heatRun tenant d.srcSpace (d.srcAt (runAt r j)) d.esize 2).touchPage n tenant d.srcSpace (d.srcAt (runAt r j))) s
    else (s.heatRun tenant d.srcSpace (d.srcAt r.1) (len * d.esize) (len + 1)).touchRun n tenant d.srcSpace d.esize (d.srcAt r.1) len
  let s := s.touchRun n tenant d.dstSpace d.esize (d.dstAt r.1) len
  let s := s.writeCut n tenant d.dstSpace d.esize (d.dstAt r.1) els (len + 1)
  let s := s.updCore n (fun c => { c with st := { c.st with bytes := c.st.bytes + BitVec.ofNat 64 (len * d.esize) } })
  (s, els.any (·.2))

/-- The transfer of context `k`. -/
def State.setRun (s : State) (n k : Nat) (t : StRun) : State := s.updCtx n k (fun x => { x with st := some t })

/-- Elements read one by one, until one lies outside the module. -/
def State.readOn (s : State) (n tenant : Nat) (d : SDesc) : List (List Nat) → List (List Byte × Bool)
  | [] => []
  | ix :: rest =>
    let a := d.srcAt ix
    if s.srcClass tenant d.srcSpace a ≠ 0 then [] else s.readElem n tenant d.srcSpace d.esize a :: s.readOn n tenant d rest

/-- Elements written run by run. -/
def State.writeRuns (s : State) (n tenant : Nat) (t : StRun) (els : List (List Byte × Bool)) :
    List (List Nat × Nat × Nat) → State × Bool
  | [] => (s, false)
  | r :: rs =>
    let o := s.moveRun n tenant t r (els.take r.2.2)
    let o2 := o.1.writeRuns n tenant t (els.drop r.2.2) rs
    (o2.1, o.2 || o2.2)

/-- The next row, or block, moved (R174, R175): read entirely, then written. One with elements outside the module is read as far as
the first of them that is not here yet; one that meets a held channel or bank waits. None: nothing is written yet. -/
def State.moveNext (s : State) (n tenant : Nat) (t : StRun) : Option (State × StRun) × StRun :=
  let rs := s.curRuns tenant t
  let idx := runsIdx rs
  if s.runsHeld tenant t rs then (none, t)
  else
    let t := { t with buf := t.buf ++ s.readOn n tenant t.desc (idx.drop t.buf.length) }
    if t.buf.length < idx.length then (none, t)
    else
      let o := s.writeRuns n tenant t t.buf rs
      (some (o.1, { t with pos := t.pos + (if t.desc.transpose then 1 else idx.length), buf := [], chunkPoison := t.chunkPoison || o.2 }), t)

/-- Delivery from the transfer's position up to `stop`, or to the first fault, or to data that is not here yet. -/
def State.deliver (s : State) (n tenant : Nat) (t : StRun) (stop : Nat) : Nat → State × StRun
  | 0 => (s, t)
  | fuel + 1 =>
    if stop ≤ t.pos ∨ (s.posFault tenant t).isSome then (s, t)
    else
      match s.moveNext n tenant t with
      | (some o, _) => o.1.deliver n tenant o.2 stop fuel
      | (none, t') => (s, t')

/-! ### Arrivals (R176, R177) -/

/-- The cores that receive a chunk's arrival. -/
def StRun.receivers (t : StRun) (n : Nat) : List Nat :=
  match t.desc.flagTarget, t.dstKind with
  | 1, .coreWin m => [m]
  | 2, .shared d => ((List.range 16).filter (fun c => bitN c t.desc.flagCores)).map (fun c => 16 * d + c)
  | _, _ => [n]

/-- One arrival at the context of the sending program on core `m`; none there discards and logs it. -/
def State.sendArrival (s : State) (n k m g : Nat) (poison : Bool) : State × Bool :=
  let p := (s.ctx n k).prog
  if m = n then (s.arrive n k g poison, true)
  else
    match (s.core m).liveCtx p.id with
    | some j => (s.arrive m j g poison, true)
    | none => (s.logAs 1 n 0x0006 3 (some p.tenant) [(1, n), (1, m), (2, g)], false)

def State.sendArrivals (s : State) (n k g : Nat) (poison : Bool) : List Nat → State × Bool
  | [] => (s, true)
  | m :: ms =>
    let a := s.sendArrival n k m g poison
    let b := a.1.sendArrivals n k g poison ms
    (b.1, a.2 && b.2)

/-- The arrival of the chunk just completed; a receiver without a live context parks the sender (R177). -/
def State.chunkArrive (s : State) (n k : Nat) (t : StRun) (poison : Bool) : State :=
  let g := (t.desc.flagGroup + t.chunk * t.desc.flagStep) % 2048
  let p := poison || t.chunkPoison
  let got := (t.receivers n).filter (fun m => m == n || ((s.core m).liveCtx (s.ctx n k).prog.id).isSome)
  let o := s.sendArrivals n k g p (t.receivers n)
  let s := if p then o.1.updCore n (fun c => { c with st := { c.st with poison := satAdd32 c.st.poison got.length } })
    else o.1
  if !o.2 then (s.updCtx n k (fun x => { x with st := none })).seqFault n k 2
  else if t.chunk + 1 = t.desc.chunks then s.updCtx n k (fun x => { x with st := none })
  else s.setRun n k { t with chunk := t.chunk + 1, chunkPoison := false }

/-- R190: every remaining chunk arrives with poison and the transfer is complete. -/
def State.poisonOut (s : State) (n k : Nat) (t : StRun) : Nat → State
  | 0 => s
  | fuel + 1 =>
    let s := s.chunkArrive n k t true
    match (s.ctx n k).st with
    | some t' => s.poisonOut n k t' fuel
    | none => s

/-- The transfer that a core's stream engine works on and that can move: none while it waits for data from outside the module. -/
def State.moving (s : State) (n : Nat) : Option (Nat × StRun) :=
  match (s.core n).works .st with
  | none => none
  | some k =>
    match (s.ctx n k).st with
    | some t => if t.dma.isSome || s.stopped then none else some (k, t)
    | none => none

/-- A command sent to the guest die, with its tag (R426). -/
def State.guestSend (s : State) (kind : GKind) : State × Nat :=
  let tag := s.guest.nextTag
  ({ s with guest := { s.guest with cmds := s.guest.cmds ++ [⟨tag, kind, s.now, false⟩], nextTag := tag + 1 } }, tag)

/-- A read of `len` bytes from outside the module issued for a transfer: of host memory by DMA (R404), of tier 2 through
the guest die (R426). -/
def State.fetchFrom (s : State) (n k tenant : Nat) (t : StRun) (va len : Nat) : State :=
  match s.hostAddr tenant va with
  | some h =>
    let o := s.dmaRead (.stream n) h len
    o.1.setRun n k { t with dma := some (false, o.2) }
  | none =>
    match s.physOf tenant va with
    | some p =>
      let o := s.guestSend (.read n p len)
      o.1.setRun n k { t with dma := some (true, o.2) }
    | none => s

/-- The next elements that lie outside the module fetched: those of one row on one page, or one element of a block. -/
def State.outFetch (s : State) (n k tenant : Nat) (t : StRun) : State :=
  let rs := s.curRuns tenant t
  match (runsIdx rs).drop t.buf.length with
  | [] => s
  | ix :: rest =>
    let a := (t.desc.srcAt ix).toNat
    let cls := s.srcClass tenant t.desc.srcSpace a
    let granule := if cls = 1 then 65536 else pageSize
    let m := if t.desc.transpose then 1 else min (rest.length + 1) (max 1 ((granule - a % granule) / t.desc.esize))
    if cls = 0 ∨ s.runsHeld tenant t rs = true then s else s.fetchFrom n k tenant t a (m * t.desc.esize)

/-- Where a step of delivery ends: at the end of the chunk; once an interruption is asked for, at the next boundary, the end of the row
or block in hand (R98, R100). -/
def State.stopAt (s : State) (n : Nat) (t : StRun) : Nat :=
  match (s.core n).run with
  | .saving _ _ => t.pos + (if t.desc.transpose then 1 else ((t.desc.runs t.pos).map (·.2.2)).sum)
  | _ => (t.chunk + 1) * t.desc.chunkLen

/-- CHUNK_ARRIVAL: the rest of the chunk is delivered and gives its arrival. A chunk that meets host memory or tier 2
first fetches it; one that meets a fault waits for TRANSFER_SUSPEND. An engine that is to stop does so at its next boundary. -/
def State.chunkStep (s : State) (n k : Nat) (t : StRun) : State :=
  if t.susp.isSome then s
  else
    let tn := (s.ctx n k).prog.tenant
    let stop := s.stopAt n t
    let o := s.deliver n tn t stop (stop - t.pos + 1)
    if (t.chunk + 1) * t.desc.chunkLen ≤ o.2.pos then (o.1.chunkArrive n k o.2 false).updCore n (·.atBoundary .st)
    else if stop ≤ o.2.pos then (o.1.setRun n k o.2).updCore n (·.atBoundary .st)
    else if (s.posFault tn o.2).isSome then s
    else (o.1.setRun n k o.2).outFetch n k tn o.2

/-- TRANSFER_SUSPEND: delivery reaches an element on a faulting page (R188), which is a boundary (R175); an address that is not mapped is
logged (R15); a fault that cannot be resolved completes the transfer with poison (R190). -/
def State.suspendStep (s : State) (n k : Nat) (t : StRun) : State :=
  let tn := (s.ctx n k).prog.tenant
  let stop := s.stopAt n t
  let o := s.deliver n tn t stop (stop - t.pos + 1)
  match o.1.posFault tn o.2 with
  | none => s
  | some (code, side, va) =>
    let s := (o.1.setRun n k { o.2 with susp := some (code, side), buf := [] }).updCore n (·.atBoundary .st)
    let s := if t.susp.isSome then s
      else s.updCore n (fun c => { c with st := { c.st with fva := va, faults := satAdd32 c.st.faults 1 } })
    let s := if code = 3 then s.logUnmapped va ⟨1 + n, k⟩ side else s
    if code = 1 then s else s.poisonOut n k { o.2 with susp := none, buf := [] } (o.2.desc.chunks + 1)

/-- Every suspended transfer of a tenant whose page no longer moves resumes (R189, R191). -/
def State.resumeTransfers (s : State) (tenant key : Nat) : State :=
  { s with cores := s.cores.map (fun c => (c.1, { c.2 with ctxs := c.2.ctxs.map (fun x =>
      match x.2.st with
      | some t =>
        (match s.posFault tenant { t with susp := none } with
          | some (1, _, va) =>
            if x.2.prog.tenant == tenant && t.susp.isSome && (s.pageOf tenant va).1 == key then
              (x.1, { x.2 with st := some { t with susp := none } })
            else x
          | _ => x)
      | none => x) })) }

/-- FAULT_RESOLVED: the move of the page of `va` ends and the map is current (R187 code 0x1). -/
def State.pageSettled (s : State) (tenant va : Nat) : State :=
  let e := s.pageOf tenant va
  if e.2.moving then
    let s' := s.resumeTransfers tenant e.1
    { s' with pages := Sp.set PageEnt.none s'.pages e.1 { e.2 with moving := false } }
  else s

/-- Data from outside the module given to the transfer that waits for it, with the poisoned bursts of it (R404, R261, R190). `head` is
the place of its first byte in its burst. -/
def State.fetched (s : State) (n : Nat) (id : Bool × Nat) (head : Nat) (data : List Byte) (bad : List Nat) : State :=
  match (s.core n).works .st with
  | none => s
  | some k =>
    match (s.ctx n k).st with
    | none => s
    | some t =>
      if t.dma ≠ some id then s
      else
        let es := t.desc.esize
        let els := (List.range (data.length / es)).map (fun j =>
          ((data.drop (j * es)).take es, bad.any (fun b => decide ((head + j * es) / 64 ≤ b) && decide (b ≤ (head + j * es + es - 1) / 64))))
        s.setRun n k { t with dma := none, buf := t.buf ++ els }

end Sys2Proof.Machine
end

