-- ==== Sys2Proof/Machine/TierOps.lean ====
section
/-!
DEFINITION. Frames and tier-2 pages, promotion and dropping, quotas (R223, R256 to R275).
-/

namespace Sys2Proof.Machine

/-! ### Allocation (R223, R257) -/

/-- Frames of a die that hold nothing and are in use by nothing. -/
def State.freeOnDie (s : State) (d : Nat) : Nat := dieFrames - Sp.countRange (d * dieFrames) ((d + 1) * dieFrames) s.frames
def State.freeTotal (s : State) : Nat := s.freeOnDie 0 + s.freeOnDie 1 + s.freeOnDie 2 + s.freeOnDie 3

/-- `n` free frames of a die, looked for from `start` on. -/
def pickFrames (frames : Sp Frame) (d start : Nat) : Nat → Nat → List Nat
  | 0, _ => []
  | fuel + 1, n =>
    if n = 0 then []
    else
      let f := d * dieFrames + start % dieFrames
      if Sp.get Frame.free frames f = Frame.free then f :: pickFrames frames d (start + 1) fuel (n - 1)
      else pickFrames frames d (start + 1) fuel n

/-- First burst of a frame. -/
def frameBurst (f : Nat) : Nat := f * (pageSize / 64)

/-- The zero marker of every burst of a frame set, with new code words (R223): its bytes read as zero (R224), without poison. What
its data slots held is gone, since nothing reads it any more. -/
def State.zeroFrame (s : State) (f : Nat) : State :=
  { s with mem := Sp.eraseRange (f * pageSize) ((f + 1) * pageSize) s.mem,
           poison := Sp.eraseRange (frameBurst f) (frameBurst (f + 1)) s.poison }.updMc (f / dieFrames) (fun m =>
    { m with errs := Sp.eraseRange (frameBurst f) (frameBurst (f + 1)) m.errs,
             zeros := putRange (frameBurst f) (frameBurst (f + 1)) m.zeros })

/-- A frame given to an owner. -/
def State.giveFrame (s : State) (o : Nat × Nat × FrameUse) (f : Nat) : State :=
  (s.zeroFrame f).setFrame f { Frame.free with owner := some o }

/-- `n` frames of a die allocated to an owner and counted in the tenant's tier-1 use (R272); none when they lack. -/
def State.allocFrames (s : State) (d n : Nat) (o : Nat × Nat × FrameUse) : Option (State × List Nat) :=
  let fs := pickFrames s.frames d (Config.frameChoice s.free) (n + s.frames.length) n
  if fs.length = n then
    some ((fs.foldl (fun s f => s.giveFrame o f) s.bump).updTenant o.1 (fun t => { t with use1 := t.use1 + n }), fs)
  else none

/-- The die with the most free frames among those a predicate admits; the lowest of equals (R257). -/
def State.bestDie (s : State) (ok : Nat → Bool) : Option Nat :=
  [0, 1, 2, 3].foldl (fun b d =>
    if ok d then
      (match b with
        | none => some d
        | some e => if s.freeOnDie e < s.freeOnDie d then some d else b)
    else b) none

/-! ### Tier-2 pages -/

def tier2Pages : Nat := 7340032
/-- Pages that tier-2 tensors hold. -/
def State.t2Used (s : State) : Nat := s.t2.foldl (fun a t => a + t.2.pages.length) 0

/-- Free tier-2 pages, looked for from `start` on. -/
def pickT2 (used : List Nat) (start : Nat) : Nat → Nat → List Nat
  | 0, _ => []
  | fuel + 1, n =>
    if n = 0 then []
    else
      let p := start % tier2Pages
      if used.contains p then pickT2 used (start + 1) fuel n else p :: pickT2 used (start + 1) fuel (n - 1)

def State.setT2 (s : State) (key : Nat) (t : T2Tensor) : State := { s with t2 := Sp.set T2Tensor.none s.t2 key t }
def State.updT2 (s : State) (key : Nat) (f : T2Tensor → T2Tensor) : State := s.setT2 key (f (s.t2At key))
/-- Tenant of a tensor's key. -/
def keyTenant (key : Nat) : Nat := key / 2 ^ 24

/-! ### Page maps -/

def State.setPage (s : State) (k : Nat) (e : PageEnt) : State := { s with pages := Sp.set PageEnt.none s.pages k e }

/-- The page removed from every translation cache (R191, R217). -/
def State.invalidate (s : State) (key : Nat) : State :=
  { s with cores := s.cores.map (fun c => (c.1, { c.2 with st := { c.2.st with tcache := c.2.st.tcache.filter (· != key) } })) }

/-- Consecutive virtual pages of 2 MiB mapped. -/
def State.mapBig (s : State) (tenant va : Nat) (moving : Bool) (f : Nat → PageTo) : List Nat → State
  | [] => s
  | i :: is =>
    let k := pageKey tenant (va / 65536 + 32 * i)
    ((s.setPage k ⟨f i, moving, false⟩).invalidate k).mapBig tenant va moving f is

/-- Virtual pages of 2 MiB unmapped. -/
def State.unmapBig (s : State) (tenant va n : Nat) : State :=
  (List.range n).foldl (fun s i => (s.setPage (pageKey tenant (va / 65536 + 32 * i)) PageEnt.none).invalidate
    (pageKey tenant (va / 65536 + 32 * i))) s

/-- The place of page `i` of a list. -/
def nth (l : List Nat) (i : Nat) : Nat := l.getD i 0

/-! ### Promotion and dropping (R266, R267) -/

/-- R267, drop: the virtual pages lead to the tier-2 home again, and the frames are freed. -/
def State.dropCopy (s : State) (key : Nat) : State :=
  let t := s.t2At key
  if t.copy = [] then s
  else
    let tn := keyTenant key
    let s := s.mapBig tn t.va true (fun i => .tier2 (nth t.pages i) key) (List.range t.pages.length)
    let s := s.freeFrames tn (fun o => o.1 == tn && o.2.2 == .copy key)
    let s := s.setT2 key { s.t2At key with copy := [] }
    { s with tiers := { s.tiers with drops := satAdd32 s.tiers.drops 1 } }

/-- A promotion copy in progress stopped and its frames freed (R270). -/
def State.stopPromotion (s : State) : State :=
  match s.tiers.copying with
  | none => s
  | some (key, _) =>
    let tn := keyTenant key
    let s := s.freeFrames tn (fun o => o.1 == tn && o.2.2 == .copy key)
    { s with tiers := { s.tiers with copying := none },
             guest := { s.guest with cmds := s.guest.cmds.filter (fun c => c.kind != GKind.copy key) } }

/-- Mean heat of a tensor's pages, rounded down (R265). -/
def T2Tensor.meanHeat (t : T2Tensor) : Nat := t.heat.foldl (fun a h => a + h.2) 0 / max 1 t.pages.length

/-- Promoted tensors of a tenant, by ascending heat. -/
def coldest : Sp T2Tensor → Option (Nat × Nat)
  | [] => none
  | (k, t) :: r =>
    if t.copy = [] then coldest r
    else
      match coldest r with
      | none => some (k, t.meanHeat)
      | some (j, h) => if t.meanHeat ≤ h then some (k, t.meanHeat) else some (j, h)

/-- Promoted copies dropped in ascending heat while a condition holds (R270, R275). -/
def State.dropWhile (s : State) (sel : Nat → Bool) (cond : State → Bool) : Nat → State
  | 0 => s
  | fuel + 1 =>
    if cond s then
      match coldest (s.t2.filter (fun t => sel t.1)) with
      | none => s
      | some (k, _) => (s.dropCopy k).dropWhile sel cond fuel
    else s

/-- R266: the conditions of promotion, reserve included; the home die that meets them. -/
def State.promotable (s : State) (key : Nat) : Option Nat :=
  let t := s.t2At key
  let tn := s.tenant (keyTenant key)
  let n := t.pages.length
  if t.state = .sealed ∧ t.cls = 0 ∧ t.copy = [] ∧ n ≤ s.tiers.promMax * 512 ∧ 0 < s.tiers.promMax ∧
      tn.over1 = false ∧ tn.over2 = false ∧ tn.promStop = false ∧ tn.use1 + n ≤ tn.quota1 ∧ s.tiers.admitting = false then
    s.bestDie (fun d => decide (n + s.tiers.reserve * 128 ≤ s.freeOnDie d))
  else none

/-! ### Quotas (R275) -/

/-- Over quota in tier 1 or tier 2. -/
def Tenant.over (t : Tenant) : Bool := decide (t.quota1 < t.use1) || decide (t.quota2 < t.use2)

/-- The over-quota state of a tenant brought up to date (R275): while it is over quota in either tier, its promoted copies are dropped,
and its tensors leave the promotion queue until a later epoch end queues them again. -/
def State.settleQuota (s : State) (tn : Nat) : State :=
  let s := s.reportQuota tn
  if (s.tenant tn).over then
    let s := { s with tiers := { s.tiers with queue := s.tiers.queue.filter (fun q => keyTenant q.1 != tn) } }
    (s.dropWhile (fun k => keyTenant k == tn) (fun s => (s.tenant tn).over) (s.t2.length + 1)).reportQuota tn
  else s

/-- TI_STATUS.missing (R263, R277): tier 2 is mounted, and a tensor that the image requires is not Sealed. -/
def State.t2Missing (s : State) : Bool :=
  s.tiers.mounted && (match s.image with
    | some im => im.tensors.any (fun t => t.kind == 9 && (s.t2At (t2Key t.tenant t.t2id)).state != .sealed)
    | none => false)

/-- Device physical address of a register of the TN_ block. -/
def tnAddr (t off : Nat) : Nat := 0x300000000000 + 0x400000 + t * 0x40 + off

/-- QUOTA_CHANGE (R271, R275, R414). -/
def State.setQuota (s : State) (tn tier pages : Nat) : State :=
  let t := s.tenant tn
  let v := pages % 2 ^ 23
  (if tier = 1 then s.setTenant tn { t with quota1 := v } else s.setTenant tn { t with quota2 := v }).settleQuota tn

/-! ### Free virtual addresses -/

/-- A range of a tenant's address space that no page and no directory entry uses: where the steward chose, if that is free,
else behind everything. -/
def State.freshVa (s : State) (tn align len : Nat) : Nat :=
  let c := Config.virtualChoice s.free * align % 2 ^ 48
  let mapped : List (Nat × Nat) := (s.pages.filter (fun p => p.1 / 2 ^ 32 == tn)).map (fun p =>
    let a := p.1 % 2 ^ 32 * 65536
    (a, a + (if p.2.big then pageSize else 65536)))
  let named : List (Nat × Nat) := match s.image with
    | some im => (im.tensors.filter (fun t => t.tenant == tn)).map (fun t => (t.va, t.va + t.size * (if t.kind = 10 then 65536 else pageSize)))
    | none => []
  let used := mapped ++ named
  if 2 ^ 48 < c + len ∨ used.any (fun r => decide (c < r.2) && decide (r.1 < c + len)) = true then
    ceilDiv (used.foldl (fun m r => max m r.2) 0) align * align
  else c

/-! ### Copying ranges -/

/-- Entries of a table from `src` on, `n` keys of them, put at `dst`; what stood there is gone. -/
def copyRange {α : Type} [DecidableEq α] (d : α) (t : Sp α) (src dst n : Nat) : Sp α :=
  (t.filter (fun e => decide (src ≤ e.1) && decide (e.1 < src + n))).foldl
    (fun m e => Sp.set d m (dst + (e.1 - src)) e.2) (Sp.eraseRange dst (dst + n) t)

/-- The bursts of a frame of tier 1 read through: those that show an error, or are marked, noted (R215 to R217). -/
def State.noteFrame (s : State) (f cause : Nat) : State :=
  let lo := frameBurst f
  let hi := frameBurst (f + 1)
  let marked := Sp.countRange lo hi s.poison
  let bad := ((s.mcOf (f / dieFrames)).errs.filter (fun e => decide (lo ≤ e.1) && decide (e.1 < hi))).map (·.1)
  let s := s.updMc (f / dieFrames) (fun m => { m with poisonRd := (List.range marked).foldl (fun c _ => satAdd32 c 1) m.poisonRd })
  bad.foldl (fun (s : State) b => if s.isPoisoned (64 * b) then s else s.noteBurst b cause) s

/-- A page of 2 MiB put into a frame burst by burst: poison goes with the data, and the frame has new code words. -/
def State.fillFrame (s : State) (a dst : Nat) : State :=
  { s with mem := copyRange 0#8 s.mem a (dst * pageSize) pageSize,
           poison := copyRange false s.poison (a / 64) (frameBurst dst) (pageSize / 64) }.updMc (dst / dieFrames) (fun m =>
    { m with errs := Sp.eraseRange (frameBurst dst) (frameBurst (dst + 1)) m.errs,
             zeros := cutRanges (frameBurst dst) (frameBurst (dst + 1)) m.zeros })

/-- A frame of tier 1 copied into another, burst by burst, its errors noted. -/
def State.copyFrame (s : State) (src dst : Nat) : State :=
  (s.noteFrame src 1).fillFrame (src * pageSize) dst

end Sys2Proof.Machine
end

