-- ==== Sys2Proof/Machine/MemOps.lean ====
section
/-!
DEFINITION. The tier-1 controllers: reads and writes of bursts, errors, quarantine and retirement (R199 to R226).
-/

namespace Sys2Proof.Machine

/-- Tuber protocol version in use: the lowest reported (R197). -/
def State.tuberVersion (s : State) : Nat := (List.range 4).foldl (fun v d => min v (s.mcOf d).lowest) 2

/-! ### Retirement list (R220) -/

/-- A byte of the NOR flash; erased bytes read 0xFF. -/
def State.norAt (s : State) (a : Nat) : Byte := Sp.get 0xFF#8 s.nor a
def norRead (nor : Sp Byte) (a : Nat) : Nat → List Byte
  | 0 => []
  | n + 1 => Sp.get 0xFF#8 nor a :: norRead nor (a + 1) n
def State.norNat (s : State) (a n : Nat) : Nat := leVal (norRead s.nor a n)
/-- Bytes put into the NOR flash at `a`. -/
def norPut (nor : Sp Byte) (a : Nat) : List Byte → Sp Byte
  | [] => nor
  | b :: bs => norPut (Sp.set 0xFF#8 nor a b) (a + 1) bs

def retCopyBase (copy : Nat) : Nat := 0x4010000 + copy * 0x10000

/-- A copy of the list: generation and entries (page, cause); none when its magic, count or CRC fails. -/
def State.retCopy (s : State) (copy : Nat) : Option (Nat × List (Nat × Nat)) :=
  let b := retCopyBase copy
  let count := s.norNat (b + 8) 4
  if s.norNat b 4 = 0x7E715A02 ∧ count ≤ 8192 ∧
      s.norNat (b + 12) 4 = crc32 (norRead s.nor b 12 ++ norRead s.nor (b + 16) (4 * count)) then
    some (s.norNat (b + 4) 4, (List.range count).map (fun i =>
      let e := s.norNat (b + 16 + 4 * i) 4
      (field 19 0 e, field 23 20 e)))
  else none

/-- The copy in use: the valid one of the higher generation. -/
def State.retInUse (s : State) : Option (Nat × Nat × List (Nat × Nat)) :=
  match s.retCopy 0, s.retCopy 1 with
  | none, none => none
  | some a, none => some (0, a)
  | none, some b => some (1, b)
  | some a, some b => if a.1 < b.1 then some (1, b) else some (0, a)

/-- R221 step 1: the list written to the copy not in use, its generation incremented. -/
def State.writeRetList (s : State) (l : List (Nat × Nat)) : State :=
  let use := s.retInUse
  let copy := match use with
    | some (0, _) => 1
    | _ => 0
  let gen := match use with
    | some (_, g, _) => (g + 1) % 2 ^ 32
    | none => 1
  let hd := leBytes 4 0x7E715A02 ++ leBytes 4 gen ++ leBytes 4 l.length
  let es := l.flatMap (fun e => leBytes 4 (e.1 + e.2 * 2 ^ 20))
  { s with nor := norPut s.nor (retCopyBase copy) (hd ++ leBytes 4 (crc32 (hd ++ es)) ++ es), retired := l }

/-! ### Errors (R215 to R219) -/

/-- Tenant that owns a frame. -/
def Frame.tenant (f : Frame) : Option Nat := f.owner.map (·.1)

/-- A correctable burst (R215): counted, logged at the first of each channel in a window of 1 ms, and, at 16 in the
window, service request 0x2 (R471). -/
def State.correctable (s : State) (a : Nat) : State :=
  let d := dieOf a
  let ch := chanOf a
  let c := (s.mcOf d).chan ch
  let w := s.now / 1000000
  let n := if c.ceWin = w ∧ 0 < c.ceCount then c.ceCount + 1 else 1
  let s := s.updMc d (fun m => { m with ce := satAdd32 m.ce 1 })
  let s := s.updChan d ch (fun c => { c with ceWin := w, ceCount := n, reqs := if n = 16 then c.reqs ++ [2] else c.reqs })
  if n = 1 then s.logAs 2 (mcInst d ch) 0x0010 1 none [(6, a / 64 * 64), (4, 1)]
  else
    { s with log := { s.log with ring := s.log.ring.map (fun (p : Nat × LogRec) =>
        (p.1, if p.2.cls = 2 ∧ p.2.inst = mcInst d ch ∧ p.2.code = 0x0010 ∧ p.2.time / 1000000 = w ∧ p.2.crumb = false ∧
            chanOf (leVal (p.2.args.take 6)) = ch then
          { p.2 with args := p.2.args.take 6 ++ leBytes 4 n ++ p.2.args.drop 10 } else p.2)) } }

/-- Keys of the page-map entries that lead to a frame. -/
def State.mapsOf (s : State) (f : Nat) : List (Nat × PageEnt) :=
  s.pages.filter (fun p => match p.2.dest with
    | .tier1 g _ => g == f
    | _ => false)

/-- The entries that lead to a frame changed, and dropped from the translation caches. -/
def State.updMaps (s : State) (f : Nat) (g : PageEnt → PageEnt) : State :=
  (s.mapsOf f).foldl (fun s p => (s.setPage p.1 (g p.2)).invalidate p.1) s

/-- Transfers suspended on a page of these entries resume. -/
def State.resumeOn (s : State) (f : Nat) : State :=
  (s.mapsOf f).foldl (fun s p => s.resumeTransfers (p.1 / 2 ^ 32) p.1) s

/-- Whether a frame holds read-write data of an admitted job: its own, or a tensor that the jobs of its tenant share. -/
def State.holdsJobData (s : State) (f : Frame) : Bool :=
  match f.owner with
  | some (tn, j, .part _ _ _) => s.jobs.any (fun p => p.2.life != .none && p.2.info.tenant == tn && p.2.info.job == j)
  | some (tn, j, .tensor _ rw) =>
    rw && s.jobs.any (fun p => p.2.life != .none && p.2.info.tenant == tn && (p.2.info.job == j || j == 0xFFFF))
  | some (tn, j, .stepState _) => s.jobs.any (fun p => p.2.life != .none && p.2.info.tenant == tn && p.2.info.job == j)
  | some (tn, j, .requests _) => s.jobs.any (fun p => p.2.life != .none && p.2.info.tenant == tn && p.2.info.job == j)
  | some (tn, j, .retention _) => s.jobs.any (fun p => p.2.life != .none && p.2.info.tenant == tn && p.2.info.job == j)
  | _ => false

def State.logRetire (s : State) (page reason : Nat) : State := s.logAs 0 0 0x0012 1 none [(3, page), (2, reason)]

/-- MC_RETSTAT shows a result, and the event is logged. -/
def State.retireEnd (s : State) (d state reason page : Nat) : State :=
  (s.updMc d (fun m => { m with retState := state, retReason := reason, retPage := none, retDest := none })).logRetire page reason

/-- R219: the move of a page being retired stops; its destination frame is free again. The page is listed, and being quarantined its
frame is withdrawn (R221): the retirement is done. -/
def State.stopMove (s : State) (d f : Nat) : State :=
  let m := s.mcOf d
  match m.retPage, m.retDest with
  | some p, some g =>
    if p = f then
      let s := (s.updMaps f (fun e => { e with moving := false })).setFrame g Frame.free
      (s.setFrame f { s.frameAt f with withdrawn := true, pend := false }).retireEnd d 2 0 f
    else s
  | _, _ => s

/-- R217: a frame quarantined; a full list is a module fault (R218). -/
def State.quarantine (s : State) (f cause : Nat) : State :=
  let d := f / dieFrames
  let m := s.mcOf d
  if (s.frameAt f).quar then s
  else if 1024 ≤ m.quar.length then s.moduleFault
  else
    let s := s.stopMove d f
    let fr := s.frameAt f
    let s := s.updMc d (fun m => { m with quar := m.quar ++ [⟨f, cause, s.retired.any (fun e => e.1 == f)⟩] })
    let maps := s.mapsOf f
    let s := (s.setFrame f { fr with quar := true }).updMaps f (fun e => { e with quar := true })
    maps.foldl (fun s p => s.postEvent (p.1 / 2 ^ 32) 0x83 [(24, 8, p.1 % 2 ^ 32 * 65536)]) s

/-- What follows from a quarantine (R217): read-write data of an admitted job is a module fault, unless patrol scrub or
the start check found it; a promoted copy is dropped (R270). -/
def State.afterQuarantine (s : State) (f cause : Nat) : State :=
  let fr := s.frameAt f
  match fr.owner with
  | some (_, _, .copy key) =>
    (match s.tiers.copying with
      | some (k, fs) => if k = key ∧ fs.contains f then s.stopPromotion else s.dropCopy key
      | none => s.dropCopy key)
  | _ => if cause ≤ 2 && s.holdsJobData fr then s.moduleFault else s

/-- R216: an uncorrectable burst. -/
def State.uncorrectable (s : State) (a cause : Nat) : State :=
  let d := dieOf a
  let ch := chanOf a
  let f := a / pageSize
  let owner := (s.frameAt f).tenant
  let s := (s.setPoison a true).quarantine f cause
  let s := s.updMc d (fun m => { m with ue := satAdd32 m.ue 1, eValid := true, eCause := cause, eAddr := a / 64 * 64 })
  let s := s.updChan d ch (fun c => { c with reqs := c.reqs ++ [1] })
  let s := s.logAs 2 (mcInst d ch) 0x0011 2 owner [(6, a / 64 * 64), (1, cause)]
  s.afterQuarantine f cause

def State.countPoisonRead (s : State) (a : Nat) : State :=
  s.updMc (dieOf a) (fun m => { m with poisonRd := satAdd32 m.poisonRd 1 })

/-- What the code word of a burst shows at a read: what its cells and the access give, the worse of the two. -/
def Ecc.worse : Ecc → Ecc → Ecc
  | .uncorrectable, _ => .uncorrectable
  | _, .uncorrectable => .uncorrectable
  | .corrected, _ => .corrected
  | _, e => e

/-- A burst read at its controller (R202, R215 to R217): the state, the data and whether it is poisoned. -/
def State.burstRead (s : State) (a cause : Nat) (ecc : Ecc) : State × List Byte × Bool :=
  let b := a / 64 * 64
  let data := if s.zeroMarked b then zeros 64 else rdBytes s.mem b 64
  if s.quarantined b || s.isPoisoned b then (s.countPoisonRead b, data, true)
  else
    match ecc.worse (s.errAt b) with
    | .clean => (s, data, false)
    | .corrected => (s.correctable b, data, false)
    | .uncorrectable => (s.uncorrectable b cause, data, true)

/-- The errors that reads have met on a die, handled in the order in which they were met (R215, R216). -/
def State.settleDie (s : State) (d : Nat) : State :=
  (s.mcOf d).met.foldl (fun (s : State) e =>
    match e.2.2 with
    | .corrected => s.correctable (64 * e.1)
    | .uncorrectable => s.uncorrectable (64 * e.1) e.2.1
    | .clean => s) (s.updMc d (fun m => { m with met := [] }))
def State.settle (s : State) : State := (List.range 4).foldl State.settleDie s

/-- A request served by its controller (R203, R204): its answer, where it has one. -/
def State.serveAcc (s : State) (q : MemAcc) : State × List (Who × Nat × List Byte × Bool) :=
  match q with
  | .read who a ecc => let o := (s.access a 1).burstRead a 1 ecc; (o.1, [(who, a, o.2.1, o.2.2)])
  | .write _ a data p => (s.wrPiece (a / 64 * 64) (entryBytes data) p, [])
  | .merge _ a data ecc =>
    let s := s.access a 3
    if s.quarantined a then (s, [])
    else
      let o := s.burstRead a 2 ecc
      let bs := data.take (64 - a % 64)
      if o.2.2 then (o.1, [])
      else (({ o.1 with mem := wrBytes o.1.mem a bs }.newCode a false).noteWrite a bs false, [])

def MemAcc.addr : MemAcc → Nat
  | .read _ a _ => a
  | .write _ a _ _ => a
  | .merge _ a _ _ => a

/-- A request that waits is put behind those that wait already (R95, R203, R249). -/
def State.deferAcc (s : State) (q : MemAcc) : State :=
  { s.updMc (dieOf q.addr) (fun m => { m with waiting := m.waiting ++ [q] }) with resp := .deferred }

/-- Whether a request waits: for a held channel or bank, or behind an earlier one to the same burst (R203). -/
def State.accWaits (s : State) (a : Nat) : Bool :=
  s.heldAt a || (s.mcOf (dieOf a)).waiting.any (fun q => burstOf q.addr == burstOf a)

/-- The requests of a die that wait no longer, served in the order in which they came. -/
def State.serveDie (s : State) (d : Nat) : State :=
  let o := (s.mcOf d).waiting.foldl (fun (a : State × List (Who × Nat × List Byte × Bool)) q =>
    if a.1.accWaits q.addr then (a.1.updMc d (fun m => { m with waiting := m.waiting ++ [q] }), a.2)
    else let r := a.1.serveAcc q; (r.1, a.2 ++ r.2)) (s.updMc d (fun m => { m with waiting := [] }), [])
  if o.2 = [] then o.1 else { o.1 with resp := .served o.2 }
def State.serveWaiting (s : State) : State :=
  (List.range 4).foldl (fun (s : State) d => if (s.mcOf d).waiting = [] then s else s.serveDie d) s

/-- TIER1_READ (R203): served at once, or when what holds its channel or bank ends (R95, R249). -/
def execTier1Read (who : Who) (addr : Nat) (ecc : Ecc) (s : State) : Out :=
  if isTier1 addr then
    if s.accWaits addr then .next (s.deferAcc (.read who addr ecc))
    else
      let o := (s.access addr 1).burstRead addr 1 ecc
      .next { o.1 with resp := .burst o.2.1 o.2.2 }
  else .next (s.answerUnmapped addr who false)

/-- TIER1_WRITE (R204): a whole burst. -/
def execTier1Write (who : Who) (addr : Nat) (data : Entry) (poison : Bool) (s : State) : Out :=
  if isTier1 addr then
    if s.accWaits addr then .next (s.deferAcc (.write who addr data poison))
    else .next (s.serveAcc (.write who addr data poison)).1
  else .next (s.answerUnmapped addr who true)

/-- MERGED_WRITE (R204, R219): part of one burst. -/
def execMergedWrite (who : Who) (addr : Nat) (data : List Byte) (ecc : Ecc) (s : State) : Out :=
  if isTier1 addr then
    if s.accWaits addr then .next (s.deferAcc (.merge who addr data ecc))
    else .next (s.serveAcc (.merge who addr data ecc)).1
  else .next (s.answerUnmapped addr who true)

/-! ### Frames and refresh (R205, R206, R212) -/

/-- Whether a program's scheduled slot is running on a core of a die. -/
def State.slotRuns (s : State) (d prog : Nat) : Bool :=
  (List.range 16).any (fun i =>
    let c := s.core (16 * d + i)
    match c.slot with
    | 0 => false
    | k + 1 => match c.slots[k]? with
      | some sl => !sl.open_ && sl.prog == prog
      | none => false)

/-- Burst slots per frame granted on a die's channels now. -/
def State.grantsNow (s : State) (d : Nat) : Nat :=
  match s.image with
  | none => 0
  | some im => im.grants.foldl (fun a g => if g.kind = 0 ∧ g.target = d ∧ s.slotRuns g.die g.prog = true then a + g.w else a) 0

/-- FRAME_START (R205), on a channel in service: 64 burst slots, with the grants of the slot unit in which it begins. -/
def execFrameStart (die : Nat) (f : FrameRep) (s : State) : Out :=
  if (s.mcOf die).ready then
    let mine := f.upsets.filter (fun u => dieOf (64 * u.1) == die && chanOf (64 * u.1) == f.ch)
    .next ((mine.foldl (fun (s : State) u => s.setErr (64 * u.1) u.2) s).updChan die f.ch (fun c => { c with
      frame := c.frame + 1, left := 64, granted := s.grantsNow die
      mr97 := (List.range 4).map (fun r => min 255 (c.mr97.getD r 0 + f.dece.getD r 0)) }))
  else .next s

/-- PER_BANK_REFRESH (R212): the next bank of the rank is refreshed, and its row is closed. -/
def execPerBankRefresh (die ch rank : Nat) (s : State) : Out :=
  .next (s.updChan die ch (fun c => { c with
    open_ := Sp.set 0 c.open_ (rank * 16 + c.nextBank.getD rank 0) 0
    nextBank := mapAt c.nextBank rank (fun b => (b + 1) % 16) }))

/-- REFRESH_MANAGEMENT (R212): issued when the bank's count has reached the package's threshold; the count starts again. -/
def execRefreshManagement (die ch rank bank : Nat) (s : State) : Out :=
  if Config.rfmThreshold ≤ Sp.get 0 ((s.mcOf die).chan ch).raa (rank * 16 + bank) then
    .next (s.updChan die ch (fun c => { c with raa := Sp.set 0 c.raa (rank * 16 + bank) 0 }))
  else .next s

/-- One channel's mode register 4 read: the temperature code of each rank, and whether it reports 85 °C or more. -/
def ChSt.readTemps (c : ChSt) (codes : List (Nat × Bool)) : ChSt :=
  { c with temp := (List.range 4).map (fun r => (codes.getD r (c.temp.getD r 0, false)).1),
           mult2 := (List.range 4).map (fun r => (codes.getD r (0, c.mult2.getD r false)).2) }

def execModeRegisterReadout (die : Nat) (codes : List (Nat × Bool)) (s : State) : Out :=
  .next (s.updMc die (fun m => (List.range 32).foldl (fun m ch =>
    m.setChan ch ((m.chan ch).readTemps ((codes.drop (4 * ch)).take 4))) m))

/-! ### Retirement (R221) -/

/-- Device physical address of a register of a die block (R16). -/
def dieRegAddr (d off : Nat) : Nat := 0x300001000000 + d * 0x1000000 + off

/-- MC_RETIRE with go. -/
def State.retirePage (s : State) (d page : Nat) : State :=
  let m := s.mcOf d
  if m.retState = 1 then s.logRetire page 3
  else if page / dieFrames ≠ d then s.retireEnd d 3 1 page
  else if s.retired.any (fun e => e.1 == page) then s.retireEnd d 2 6 page
  else if 8192 ≤ s.retired.length then s.retireEnd d 3 2 page
  else s.setMc d { m with retState := 1, retReason := 0, retPage := some page, retArmed := s.now, retDest := none }

def execPageRetire (who : Who) (die page : Nat) (s : State) : Out :=
  if who.isDriver then .next (s.retirePage die page) else .next (s.logDiscard (dieRegAddr die 0x40) who true)

/-- The quarantine-list entry of a page marked as listed (R221 step 2). -/
def markListed (q : List QEnt) (page : Nat) : List QEnt := q.map (fun e => if e.page = page then { e with listed := true } else e)

/-- R221 step 3: the page's live use. A healthy allocated page is copied to a free frame of its die: the copy is in
progress until RETIRE_COMPLETE or FAULT_RESOLVED ends it. -/
def State.settlePage (s : State) (d page : Nat) : State :=
  let f := s.frameAt page
  if f.quar then (s.setFrame page { f with withdrawn := true }).retireEnd d 2 0 page
  else
    match f.owner with
    | none => (s.setFrame page { f with withdrawn := true }).retireEnd d 2 0 page
    | some _ =>
      match pickFrames s.frames d (Config.frameChoice s.free) (1 + s.frames.length) 1 with
      | g :: _ =>
        ((((s.bump.zeroFrame g).setFrame g { Frame.free with owner := some (4096, 0xFFFF, .moveTo page) }).setFrame page
          { f with pend := true }).updMaps page (fun e => { e with moving := true })).updMc d (fun m => { m with retDest := some g })
      | [] => (s.setFrame page { f with pend := true }).retireEnd d 2 5 page

/-- The copy of a retired page ends: its entries and whatever names the page lead to the new frame, and the old one is withdrawn. A page
that its tenant has freed meanwhile leaves the new frame free. -/
def State.finishMove (s : State) (d : Nat) : State :=
  match (s.mcOf d).retPage, (s.mcOf d).retDest with
  | some p, some g =>
    let s := s.resumeOn p
    let s := s.copyFrame p g
    let s := s.setFrame g { Frame.free with owner := (s.frameAt p).owner }
    let s := s.updMaps p (fun e => match e.dest with
      | .tier1 _ ro => ⟨.tier1 g ro, false, e.quar⟩
      | _ => e)
    let s := match (s.frameAt p).owner with
      | some (_, _, .copy key) => s.updT2 key (fun t => { t with copy := t.copy.map (fun f => if f = p then g else f) })
      | _ => s
    let moved (e : Nat × Nat × List Byte) : Nat × Nat × List Byte :=
      if e.2.1 / pageSize = p then (e.1, g * pageSize + e.2.1 % pageSize, e.2.2) else e
    let s := { s with jobs := s.jobs.map (fun (j : Nat × Job) => (j.1, { j.2 with upd := { j.2.upd with
      undo := j.2.upd.undo.map moved, page := if j.2.upd.page = some p then some g else j.2.upd.page } })) }
    (s.setFrame p { Frame.free with withdrawn := true }).retireEnd d 2 0 p
  | _, _ => s

/-- R459 row 20: the list write is refused 50 ms after it was armed. -/
def State.listTimeout (s : State) (die armed page : Nat) : State :=
  ((s.advanceTo (armed + 50000000)).logTimeout 20 armed).retireEnd die 3 4 page

/-- RETIRE_COMPLETE: the list write ends (`ok` false: the NOR write failed; a write that ends at or after its timeout comes
too late, R13), or the copy of the page does. -/
def execRetireComplete (die : Nat) (ok : Bool) (s : State) : Out :=
  let m := s.mcOf die
  match m.retPage with
  | none => .next s
  | some page =>
    if m.retDest.isSome then .next (s.finishMove die).settle
    else if m.retArmed + 50000000 ≤ s.now then .next (s.listTimeout die m.retArmed page)
    else if !ok then .next (s.retireEnd die 3 4 page)
    else
      let cause := ((m.quar.find? (fun e => e.page == page)).map (·.cause)).getD 0
      let s := s.writeRetList (s.retired ++ [(page, cause)])
      .next ((s.updMc die (fun m => { m with quar := markListed m.quar page })).settlePage die page)

def execRetirementWriteTimeout (die : Nat) (s : State) : Out :=
  let m := s.mcOf die
  match m.retPage with
  | none => .next s
  | some page =>
    if m.retDest.isSome then .next s
    else .next (s.listTimeout die m.retArmed page)

/-- FAULT_RESOLVED (R187, R189): the move of a page ends, its map is current, and suspended transfers resume. -/
def execFaultResolved (tenant va : Nat) (s : State) : Out :=
  let e := (s.pageOf tenant va).2
  match e.dest with
  | .tier1 f _ =>
    let d := f / dieFrames
    if e.moving && decide ((s.mcOf d).retPage = some f) && (s.mcOf d).retDest.isSome then .next (s.finishMove d).settle
    else .next (s.pageSettled tenant va)
  | _ => .next (s.pageSettled tenant va)

end Sys2Proof.Machine
end

