-- ==== Sys2Proof/Machine/TuberOps.lean ====
section
/-!
DEFINITION. Tuber near-bank processing: bands, records and their checks, and what each operation computes (R227 to
R249).
-/

namespace Sys2Proof.Machine

/-! ### Records (R236, R238) -/

/-- A record of a command list. The operation's own bytes stay in `raw`. -/
structure TRec where
  op : Nat
  wfmt : Nat
  afmt : Nat
  cycle : Bool
  latchB : Bool
  scaleMode : Nat
  waitX : Bool
  k : Nat
  banks : Nat
  ranks : Nat
  rows : Nat
  chans : Nat
  bandVa : Nat
  xgroup : Nat
  first : Nat
  bursts : Nat
  outs : Nat
  groups : Nat
  raw : Entry
deriving DecidableEq, Repr

def trec (e : Entry) : TRec :=
  let f := fun off n => entryField e off n
  let fl := f 3 1
  { op := f 0 1, wfmt := f 1 1, afmt := f 2 1, cycle := bitN 0 fl, latchB := bitN 1 fl, scaleMode := field 3 2 fl,
    waitX := bitN 4 fl, k := 2 ^ field 6 5 fl, banks := f 4 2, ranks := field 3 0 (f 6 1), rows := f 7 1, chans := f 8 4,
    bandVa := f 12 6, xgroup := f 18 1, first := f 20 3, bursts := f 24 3, outs := f 28 2, groups := f 30 2, raw := e }

/-- A field of the operation's own bytes. -/
def TRec.x (r : TRec) (off n : Nat) : Nat := entryField r.raw off n

/-- Bytes 32 to 63 that the operation does not name are zero (R239). -/
def TRec.tailZero (r : TRec) (from_ : Nat) : Bool := r.x from_ (64 - from_) == 0

/-- The units that a record targets, in ascending die channel, rank and bank. -/
def TRec.units (r : TRec) : List (Nat × Nat × Nat) :=
  ((List.range 32).filter (fun c => bitN c r.chans)).flatMap (fun c =>
    ((List.range 4).filter (fun k => bitN k r.ranks)).flatMap (fun k =>
      ((List.range 16).filter (fun b => bitN b r.banks)).map (fun b => (c, k, b))))

/-- The sum sets (R244) in ascending set index: the first channel and the rank. -/
def TRec.sets (r : TRec) : List (Nat × Nat) :=
  ((List.range (32 / r.k)).filter (fun i => (List.range r.k).any (fun j => bitN (i * r.k + j) r.chans))).flatMap (fun i =>
    ((List.range 4).filter (fun k => bitN k r.ranks)).map (fun k => (i * r.k, k)))

/-- The channels of a set that take part, ascending. -/
def TRec.slices (r : TRec) (first : Nat) : List Nat := (List.range r.k).filterMap (fun j =>
  if bitN (first + j) r.chans then some (first + j) else none)

def TRec.bankList (r : TRec) : List Nat := (List.range 16).filter (fun b => bitN b r.banks)

/-- The latch that a record names. -/
def TRec.latchNo (r : TRec) : Nat := b2n r.latchB

/-! ### Checks (R236 to R239) -/

/-- The tenant's exchange window: bytes, first group and group count. -/
def State.exchOf (s : State) (tenant : Nat) : Nat × Nat × Nat :=
  match s.image with
  | none => (0, 0, 0)
  | some im =>
    match im.tenants.find? (fun t => t.tenant == tenant) with
    | some t => (t.exchWin, t.exchFirst, t.exchCount)
    | none => (0, 0, 0)

def State.exchOk (s : State) (tenant off len : Nat) : Bool := decide (off + len ≤ (s.exchOf tenant).1)
def State.xgroupOk (s : State) (tenant g : Nat) : Bool :=
  decide ((s.exchOf tenant).2.1 ≤ g) && decide (g < (s.exchOf tenant).2.1 + (s.exchOf tenant).2.2)

/-- Whether a virtual range is granted to a tenant: every 64 KiB of it is mapped, and writable where it is written; a list of host
software names registered regions and tier-1 pages only (R251). -/
def State.virtOk (s : State) (tenant va len : Nat) (write host : Bool) : Bool :=
  decide (va + len ≤ 2 ^ 48) && (List.range ((va + len - 1) / 65536 - va / 65536 + 1)).all (fun i =>
    let a := (va / 65536 + i) * 65536
    let c := s.accessCode tenant a write
    c != 3 && c != 4 && c != 6 && (!host || (match (s.pageOf tenant a).2.dest with
      | .hostPage _ _ => true
      | .tier1 _ _ => true
      | _ => false)))

/-- The near-bank tensor of the directory that holds a virtual address. -/
def State.bandTensor (s : State) (tenant va : Nat) : Option TensorRec :=
  match s.image with
  | none => none
  | some im => im.tensors.find? (fun t => t.tenant == tenant && (t.kind == 1 || t.kind == 4) && decide (t.va ≤ va) &&
      decide (va < t.va + t.size * pageSize))

/-- R239: a share range within the bands of the span. -/
def State.shareOk (s : State) (tenant : Nat) (r : TRec) : Bool :=
  match s.bandTensor tenant r.bandVa with
  | none => true
  | some t => decide ((r.bandVa - t.va) / (15 * pageSize) + (r.first + r.bursts - 1) / 240 < t.size / 15)

/-- Bytes that a record moves to or from its virtual range. -/
def TRec.xferLen (r : TRec) : Nat := r.units.length * r.bursts * 64

/-- Place of a unit's slice in a row of TLATCH (R238). -/
def TRec.sliceNo (r : TRec) (u : Nat × Nat × Nat) : Nat := u.1 % r.k * 16 + u.2.2

/-- The last slice that a targeted unit takes. -/
def TRec.lastSlice (r : TRec) : Nat := r.units.foldl (fun m u => max m (r.sliceNo u)) 0

/-- End of what TLATCH reads: the last row's last slice, and of its scale plane in an exchange window (R113, R238). -/
def TRec.latchSpan (r : TRec) : Nat := (r.rows - 1) * r.x 42 4 + (r.lastSlice + 1) * r.x 40 2
def TRec.planeSpan (r : TRec) : Nat :=
  r.rows * r.x 42 4 + (r.rows - 1) * (r.x 42 4 / 32) + r.lastSlice * r.x 40 2 / 32 + ceilDiv (r.x 40 2) 32

def latchBytes (afmt : Nat) : Nat := if afmt ≤ 2 then 2 else 1

/-- Rows and outputs of the results of a record: TSQ has one result for each set. -/
def TRec.resRows (r : TRec) : Nat := if r.op = 6 then 1 else r.rows
def TRec.resOuts (r : TRec) : Nat := if r.op = 6 then 1 else r.outs

/-- The results of a record, for TMV and TSQ: how many. -/
def TRec.results (r : TRec) : Nat := r.resRows * r.sets.length * r.resOuts

/-- Bytes that a result window takes: FP32, or E4M3 with its scale plane. -/
def TRec.resultBytes (r : TRec) : Nat :=
  if r.x 41 1 = 1 then r.results + r.resRows * r.sets.length * ceilDiv r.resOuts 32 else 4 * r.results

/-- Whether a band format keeps scale bursts (R234). -/
def hasScales (w : OFmt) (mode : Nat) : Bool := decide (w.bits < 8) && mode != 0

/-- Weight bursts of a share of `n` bursts. -/
def weightBursts (n : Nat) : Nat := n / 17 * 16 + (n % 17 - 1)

/-- Elements of a share of `n` bursts. -/
def shareElems (n : Nat) (w : OFmt) (mode : Nat) : Nat := (if hasScales w mode then weightBursts n else n) * (512 / w.bits)

/-- Reduction indices of a share: groups of a lane-reduce record, or what the share holds for 16 outputs at a time. -/
def TRec.kb (r : TRec) (w : OFmt) : Nat :=
  if r.cycle then shareElems r.bursts w r.scaleMode / (16 * ceilDiv r.outs 16) else r.groups * groupLen w

/-- Operations that read a band operand, and those that name a latch (R236). -/
def TRec.readsBand (r : TRec) : Bool := r.op == 2 || r.op == 4 || r.op == 6
def TRec.usesLatch (r : TRec) : Bool := r.op == 3 || r.op == 4 || r.op == 5

/-- Elements of one row of a TEW record. -/
def TRec.perRow (r : TRec) : Nat := max 1 (r.x 39 2 / r.rows)

/-- Bytes of the exchange window that a TEW record reads, or that its row values take (R245). -/
def TRec.tewWindow (r : TRec) : Nat :=
  match r.x 32 1 with
  | 0x02 => 4 * r.perRow
  | 0x04 => 4 * r.rows
  | 0x06 => 8 * (r.x 39 2 / 2)
  | 0x08 => 4 * (r.rows * r.sets.length)
  | 0x09 => 4 * (r.rows * r.sets.length)
  | 0x0A => 4 * r.rows
  | _ => 0

/-- Whether a TEW offset names the result queue, by its bit 15, and not the latch. -/
def inQueue (off : Nat) : Bool := bitN 15 off

/-- Whether a TEW record reads a latch, or converts to its format: it then names the format (R236). -/
def TRec.tewFormat (r : TRec) : Bool :=
  r.x 32 1 == 7 || !inQueue (r.x 33 2) || ([0, 1, 2, 3, 5].contains (r.x 32 1) && !inQueue (r.x 35 2))

/-- The exchange window and group that a record's results go to, and what its finish reads (R238). -/
def State.resultOk (s : State) (tn : Nat) (r : TRec) : Bool :=
  r.tailZero 56 && r.x 43 1 == 0 && decide (r.x 41 1 ≤ 1) && decide (r.x 42 1 ≤ 3) && r.x 36 4 != 0 &&
    s.xgroupOk tn (r.x 40 1) && s.exchOk tn (r.x 32 4) r.resultBytes &&
    (!bitN 0 (r.x 42 1) || s.exchOk tn (r.x 44 4) (4 * r.results)) &&
    (!bitN 1 (r.x 42 1) || s.exchOk tn (r.x 48 4) (4 * r.resRows))

/-- The operation's own checks; `host` says that host software submitted the list. -/
def State.opOk (s : State) (tn : Nat) (host : Bool) (r : TRec) : Bool :=
  match r.op with
  | 1 => r.tailZero 38 && s.virtOk tn (r.x 32 6) r.xferLen false host
  | 2 => r.tailZero 38 && s.virtOk tn (r.x 32 6) r.xferLen true host
  | 3 =>
    r.tailZero 46 && decide (r.x 38 1 ≤ 1) && decide (r.x 39 1 + r.rows ≤ 32) && decide (16 ≤ r.x 40 2) &&
      decide (r.x 40 2 ≤ 512) && r.x 40 2 % 16 == 0 &&
      (if r.x 38 1 = 0 then s.virtOk tn (r.x 32 6) r.latchSpan false false
       else s.exchOk tn (r.x 32 6) r.latchSpan && (r.afmt != 3 || s.exchOk tn (r.x 32 6) r.planeSpan))
  | 4 =>
    (match OFmt.ofCode r.wfmt, OFmt.ofCode r.afmt with
      | some w, some a =>
        OFmt.pairOk a w && decide (r.kb w * latchBytes r.afmt ≤ 512) &&
          (if r.cycle then r.groups == 0 else decide (1 ≤ r.groups) && decide (r.groups ≤ 16)) &&
          (w != .code4 || s.exchOk tn (r.x 53 3) 32) && (w != .code2 || s.exchOk tn (r.x 53 3) 8)
      | _, _ => false) && s.resultOk tn r
  | 5 => r.tailZero 45 && decide (r.x 32 1 ≤ 0x0A) && r.x 39 2 != 0 && (!r.tewFormat || r.afmt != 0) &&
      (r.tewWindow == 0 || s.exchOk tn (r.x 41 4) r.tewWindow)
  | 6 => s.resultOk tn r && r.x 52 4 == 0
  | 8 => r.tailZero 35 && r.x 33 1 != 0 && r.x 34 1 != 0 && s.xgroupOk tn (r.x 32 1) && s.xgroupOk tn (r.x 32 1 + r.x 33 1 - 1)
  | _ => false

/-- R45: a scale mode of the band format. -/
def TRec.scaleOk (r : TRec) : Bool :=
  decide (r.scaleMode ≤ 2) && (match OFmt.ofCode r.wfmt with
    | some w => scaleModeOk w r.scaleMode
    | none => true)

/-- R239: a record of a list of a core or a host. -/
def State.recOk (s : State) (tn : Nat) (host : Bool) (e : Entry) : Bool :=
  let r := trec e
  entryField e 3 1 / 128 == 0 && entryField e 6 1 / 16 == 0 && entryField e 19 1 == 0 && entryField e 23 1 == 0 &&
    entryField e 27 1 == 0 && r.banks != 0 && r.ranks != 0 && r.chans != 0 && decide (1 ≤ r.rows) && decide (r.rows ≤ 32) &&
    r.outs != 0 && r.bursts != 0 && decide (r.wfmt ≤ 10) && decide (r.afmt ≤ 4) && (r.readsBand || r.wfmt == 0) &&
    (r.usesLatch || r.afmt == 0) && r.scaleOk &&
    (r.op == 4 || r.groups == 0) && (!r.waitX || s.xgroupOk tn r.xgroup) && s.shareOk tn r && s.opOk tn host r

/-! ### Bands (R231 to R234) -/

/-- Physical address of a bank's burst: home die, band of the die, share position within the band. -/
def bandBurst (d band : Nat) (u : Nat × Nat × Nat) (i : Nat) : Nat :=
  let row := 8 * band + i / 30
  d * dieTier1 + dieOffset u.1 ((((row * 4 + u.2.1) * 16 + u.2.2) * 30 + i % 30) * 64)

/-- Where the bands of a span lie: the home die and the band of each place; 15 consecutive frames make a band. -/
abbrev Span := Nat → Option (Nat × Nat)

/-- Whether the 15 pages from `va` on make a band, and which (R233, R239). -/
def State.bandAt (s : State) (tenant va : Nat) : Option (Nat × Nat) :=
  let f (i : Nat) : Option Nat := match (s.pageOf tenant (va + i * pageSize)).2.dest with
    | .tier1 g _ => some g
    | _ => none
  match f 0 with
  | none => none
  | some g =>
    if g % dieFrames % 15 = 0 ∧ (List.range 15).all (fun i => f i == some (g + i)) = true then
      some (g / dieFrames, g % dieFrames / 15)
    else none

/-- Whether a page of the band is read-only: a compute half, which TUPD alone writes (R278, R279). -/
def State.bandRo (s : State) (tenant va : Nat) : Bool :=
  (List.range 15).any (fun i => match (s.pageOf tenant (va + i * pageSize)).2.dest with
    | .tier1 _ ro => ro
    | _ => false)

/-- The span of a record by virtual address. -/
def State.virtSpan (s : State) (tenant bandVa : Nat) : Span := fun i => s.bandAt tenant (bandVa + i * 15 * pageSize)

/-- Physical address of share burst `i` of a unit in a span. -/
def shareBurst (sp : Span) (u : Nat × Nat × Nat) (i : Nat) : Option Nat :=
  (sp (i / 240)).map (fun b => bandBurst b.1 b.2 u (i % 240))

/-- The bands that a share range touches all exist. -/
def spanOk (sp : Span) (first n : Nat) : Bool :=
  (List.range ((first + n - 1) / 240 - first / 240 + 1)).all (fun i => (sp (first / 240 + i)).isSome)

/-! ### Bursts read by a unit -/

/-- A burst's data, with poison and quarantine (R217, R248). -/
structure UBurst where
  data : List Byte
  poison : Bool
  quar : Bool
deriving DecidableEq, Repr

/-- What a unit takes from a burst: poison where the page is quarantined, where the burst has the poison marker, and where its code word
shows an uncorrectable error. -/
def State.unitRead (s : State) (a : Nat) : UBurst := ⟨rdBytes s.mem a 64, s.readsBad a 64, s.quarantined a⟩

/-- The errors that a unit meets in a burst that it reads (R216, R248): the unit is the reader, and its row is activated (R212). -/
def State.noteUnit (s : State) (a : Nat) : State := (s.access a 0).noteBurst (burstOf a) 1

/-- The bursts of a record's shares read by its units. -/
def State.noteShares (s : State) (sp : Span) (r : TRec) : State :=
  r.units.foldl (fun (s : State) u => (List.range r.bursts).foldl (fun (s : State) i =>
    match shareBurst sp u (r.first + i) with
    | some a => s.noteUnit a
    | none => s) s) s

/-- The bursts of a unit's share. -/
def State.shareOf (s : State) (sp : Span) (u : Nat × Nat × Nat) (first n : Nat) : List UBurst :=
  (List.range n).map (fun i => match shareBurst sp u (first + i) with
    | some a => s.unitRead a
    | none => ⟨zeros 64, true, false⟩)

/-- Burst and scale burst of weight burst number `i` of a share of `n` bursts: groups of 16 weight bursts and a scale
burst, the last group possibly shorter. -/
def scaledBurst (n i : Nat) : Nat × Nat :=
  let g := i / 16
  (17 * g + i % 16, min (17 * g + 16) (n - 1))

/-- A byte of a share. -/
def shareByte (bs : List UBurst) (i b : Nat) : Nat := ((bs.getD i ⟨[], false, false⟩).data.getD b 0#8).toNat

/-- Place of the scale byte of element `q` of a group of 16 weight bursts: a block lies along the reduction index of one output, so in
cycle-reduce each of the 16 outputs has its own, in element order (R45, R234). -/
def scalePlace (cycle : Bool) (B q : Nat) : Nat := if cycle then q / 16 / B * 16 + q % 16 else q / B

/-- Element `e` of a share, expanded: its value and whether reading it raises denormal_input. -/
def bandElem (bs : List UBurst) (free : Nat) (cycle : Bool) (w : OFmt) (mode zp : Nat) (table : Nat → Nat) (e : Nat) : Elem :=
  let per := 512 / w.bits
  let sc := hasScales w mode
  let loc := if sc then scaledBurst bs.length (e / per) else (e / per, 0)
  let code := packedElem w.bits (shareByte bs loc.1) (e % per)
  let si := scalePlace cycle ((scaleBlock mode).getD 32) (e % (16 * per))
  let scale := if sc then some (if si < 64 then shareByte bs loc.2 si else Config.tuberScale (64 * free + e) % 256) else none
  let x : Expand := ⟨scale, zp, table code⟩
  (w.expand x code, w.denormal x code)

/-! ### Latches and exchange buffers -/

def unitNo (u : Nat × Nat × Nat) : Nat := (u.1 * 4 + u.2.1) * 16 + u.2.2
def latchKey (u : Nat × Nat × Nat) (l row b : Nat) : Nat := ((unitNo u * 2 + l) * 32 + row) * 512 + b
def lscaleKey (u : Nat × Nat × Nat) (l row i : Nat) : Nat := ((unitNo u * 2 + l) * 32 + row) * 16 + i
def lpoisKey (u : Nat × Nat × Nat) (l row : Nat) : Nat := (unitNo u * 2 + l) * 32 + row
def queueKey (u : Nat × Nat × Nat) (i : Nat) : Nat := unitNo u * 2048 + i % 2048

/-- A byte of a tenant's exchange window in a controller. -/
def xKey (ctl tenant off : Nat) : Nat := (ctl * 4096 + tenant) * 262144 + off
def xgKey (ctl g : Nat) : Nat := ctl * 256 + g

def TubDie.xByte (t : TubDie) (ctl tn off : Nat) : Byte := Sp.get 0#8 t.xbuf (xKey ctl tn off)
def TubDie.xNat (t : TubDie) (ctl tn off n : Nat) : Nat := leVal ((List.range n).map (fun i => t.xByte ctl tn (off + i)))
def TubDie.x32 (t : TubDie) (ctl tn off : Nat) : W32 := BitVec.ofNat 32 (t.xNat ctl tn off 4)
def TubDie.xPoison (t : TubDie) (ctl tn off n : Nat) : Bool :=
  (List.range n).any (fun i => Sp.get false t.xpois (xKey ctl tn (off + i)))

/-- Bytes written into an exchange window, with or without poison. -/
def TubDie.xWrite (t : TubDie) (ctl tn off : Nat) (bs : List Byte) (p : Bool) : TubDie :=
  let ks := (List.range bs.length).map (fun i => (xKey ctl tn (off + i), bs.getD i 0#8))
  { t with xbuf := ks.foldl (fun m e => Sp.set 0#8 m e.1 e.2) t.xbuf,
           xpois := ks.foldl (fun m e => Sp.set false m e.1 p) t.xpois }

def TubDie.xgrp (t : TubDie) (ctl g : Nat) : Grp := Sp.get Grp.start t.xgrps (xgKey ctl g)
def TubDie.setXgrp (t : TubDie) (ctl g : Nat) (v : Grp) : TubDie := { t with xgrps := Sp.set Grp.start t.xgrps (xgKey ctl g) v }

/-- Latch element `i` of a row: its value, with the block-32 scale of E4M3 and E5M2, and its denormal flag. -/
def TubDie.latchElem (t : TubDie) (u : Nat × Nat × Nat) (l : Nat) (a : OFmt) (row i : Nat) : Elem :=
  let w := latchBytes (if a.is16 then 1 else 3)
  let code := leVal ((List.range w).map (fun b => Sp.get 0#8 t.latch (latchKey u l row (i * w + b))))
  let x : Expand := ⟨if a.is16 then none else some (Sp.get 0#8 t.lscale (lscaleKey u l row (i / 32))).toNat, 0, 0⟩
  (a.expand x code, a.denormal x code)

/-! ### Virtual ranges -/

/-- Bytes of a virtual range, read burst by burst, and whether any was poisoned. What cannot be read now (unmapped, quarantined, of a
tensor that is not sealed: R187, R217, R258) reads as poisoned zeros. -/
def State.readVirt (s : State) (tenant va : Nat) : Nat → Nat → List Byte × Bool
  | _, 0 => ([], false)
  | n, fuel + 1 =>
    if n = 0 then ([], false)
    else
      let m := min n (64 - va % 64)
      let o := match s.physOf tenant va with
        | some p => if s.accessCode tenant va false ≤ 1 then s.rdPhys p m else (zeros m, true)
        | none => (zeros m, true)
      let r := s.readVirt tenant (va + m) (n - m) fuel
      (o.1 ++ r.1, o.2 || r.2)

/-- A read of a virtual range noted where it lands: the heat of its pages (R264) and the errors of its bursts (R215, R216). -/
def State.noteVirt (s : State) (tenant va n : Nat) : Nat → State
  | 0 => s
  | fuel + 1 =>
    if n = 0 then s
    else
      let m := min n (65536 - va % 65536)
      let s := s.heatRead tenant va m
      let s := match s.physOf tenant va with
        | some p => s.noteRead p m
        | none => s
      s.noteVirt tenant (va + m) (n - m) fuel

/-- Bytes written to a virtual range, burst by burst. -/
def State.writeVirt (s : State) (tenant va : Nat) (bs : List Byte) (p : Bool) : Nat → State
  | 0 => s
  | fuel + 1 =>
    match bs with
    | [] => s
    | _ =>
      let m := 64 - va % 64
      let s := match s.physOf tenant va with
        | some a => s.wrPiece a (if p && !isTier1 a then zeros (min m bs.length) else bs.take m) p
        | none => match s.hostAddr tenant va with
          | some h => s.hostWrite h (bs.take m)
          | none => s
      s.writeVirt tenant (va + m) (bs.drop m) p fuel

/-! ### Results (R244) -/

/-- What a record leaves: flags, poison, quarantine hit. -/
structure TOut where
  flags : NFlags
  poison : Bool
  quar : Bool
deriving DecidableEq, Repr

def TOut.none : TOut := ⟨0#7, false, false⟩
def TOut.or (a b : TOut) : TOut := ⟨a.flags ||| b.flags, a.poison || b.poison, a.quar || b.quar⟩

/-- The pending part of an accumulator joined to another sum. -/
def accPlus (a b : Acc) : Acc × NFlags :=
  let r := add32 a.val b.val
  (⟨r.1, a.pend ||| b.pend ||| r.2.pendingPart⟩, r.2.atOncePart)

/-- Sums in a fixed order from -0. -/
def sumAccs (l : List (Acc × NFlags)) : Acc × NFlags :=
  l.foldl (fun s x => let r := accPlus s.1 x.1; (r.1, s.2 ||| x.2 ||| r.2)) (Acc.clear, 0#7)

/-- Element number of output `n`, reduction index `κ` in a share of the record (R234). -/
def elemAt (cycle : Bool) (kb n κ : Nat) : Nat := if cycle then (n / 16 * kb + κ) * 16 + n % 16 else n * kb + κ

/-- The partial of one unit for output `n` and latch row `ρ` (R243, R244). -/
def unitPartial (we : Nat → Elem) (ae : Nat → Elem) (r : TRec) (w : OFmt) (kb n : Nat) : Acc × NFlags :=
  let G := groupLen w
  (List.range (ceilDiv kb G)).foldl (fun s g =>
    let ks := (List.range (min G (kb - g * G))).map (fun i => g * G + i)
    let ps := ks.map (fun κ => (ae κ, we (elemAt r.cycle kb n κ)))
    let gr := groupResult (ps.map (fun p => (p.1.1, p.2.1)))
    let o := s.1.add gr
    (o.1, s.2 ||| o.2 ||| NFlags.when (ps.any (fun p => p.1.2 || p.2.2)) fDenormal)) (Acc.clear, 0#7)

/-- The least scale byte for which no element of a block exceeds the largest finite value (R244). -/
def blockScale (F : FFmt) (xs : List W32) : Nat :=
  let ok (s : Nat) : Bool := xs.all (fun x => match f32 x with
    | .fin _ m e => !magLt F.maxFin.1 F.maxFin.2 m (e - ((s : Int) - 127))
    | .inf _ => decide (s = 254)
    | .nan _ => true)
  ((List.range 255).find? ok).getD 254

/-- A value divided by 2^(s - 127). -/
def unscale (s : Nat) (x : W32) : FV :=
  match f32 x with
  | .fin n m e => .fin n m (e - ((s : Int) - 127))
  | v => v

/-- One result before conversion: its sum, and the flags raised at once. -/
abbrev TRes := Acc × NFlags

/-- Conversion of a result row (R244): FP32, or E4M3 with a scale for each 32. The bytes, the scale bytes and the flags. -/
def convertRow (nm : NMode) (e4m3 : Bool) (row : List TRes) : List Byte × List Byte × NFlags :=
  let atOnce := row.foldl (fun f x => f ||| x.2) 0#7
  if e4m3 then
    let blocks := (List.range (ceilDiv row.length 32)).map (fun i => (row.drop (32 * i)).take 32)
    let cs := blocks.map (fun b =>
      let s := blockScale .e4m3 (b.map (·.1.val))
      (s, b.map (fun x =>
        let c := FFmt.e4m3.convert nm none (unscale s x.1.val)
        (c.1, NFlags.commit x.1.pend c.2 (FFmt.e4m3.decode c.1).isNan))))
    (cs.flatMap (fun b => b.2.map (fun c => BitVec.ofNat 8 c.1)), cs.map (fun b => BitVec.ofNat 8 b.1),
      cs.foldl (fun f b => b.2.foldl (fun f c => f ||| c.2) f) atOnce)
  else
    let cs := row.map (fun x =>
      let c := FFmt.fp32.convert nm none (f32 x.1.val)
      (c.1, NFlags.commit x.1.pend c.2 (FFmt.fp32.decode c.1).isNan))
    (cs.flatMap (fun c => leBytes 4 c.1), [], cs.foldl (fun f c => f ||| c.2) atOnce)

/-- Finish at the controller (R244): residual and row scale. -/
def finishResult (x : TRes) (residual scale : Option W32) : TRes :=
  let x := match residual with
    | some v => let r := add32 x.1.val v
                (⟨r.1, x.1.pend ||| r.2.pendingPart⟩, x.2 ||| r.2.atOncePart ||| operandFlags v)
    | none => x
  match scale with
  | some v => let r := mul32 x.1.val v
              (⟨r.1, x.1.pend ||| r.2.pendingPart⟩, x.2 ||| r.2.atOncePart ||| operandFlags v)
  | none => x

/-- Results delivered to the exchange windows of the packages in the mask, one arrival each (R238, R240). -/
def State.deliverX (s : State) (tn mask off group : Nat) (pieces : List (Nat × List Byte × Bool)) (poison : Bool) : State :=
  (List.range 32).foldl (fun s p =>
    if bitN p mask then
      s.updTub (p / 8) (fun t =>
        let t := pieces.foldl (fun t e => t.xWrite (p % 8) tn (off + e.1) e.2.1 e.2.2) t
        t.setXgrp (p % 8) group ((t.xgrp (p % 8) group).arrive poison))
    else s) s

/-! ### The operations (R237) -/

/-- Source bytes read from outside the module: the bytes and the poisoned bursts of them, numbered from the source's start. -/
abbrev TSource := List Byte × List Nat

/-- `n` bytes of a record's virtual source from `off` on: read now, or as they were fetched. -/
def State.sourceAt (s : State) (tn : Nat) (r : TRec) (data : Option TSource) (off n : Nat) : List Byte × Bool :=
  match data with
  | some d => ((d.1.drop off).take n, d.2.any (fun b => decide (off / 64 ≤ b) && decide (b ≤ (off + n - 1) / 64)))
  | none => s.readVirt tn (r.x 32 6 + off) n (n / 64 + 2)

/-- The unit and the burst of it, in packing order (R238). -/
def TRec.cells (r : TRec) : List (Nat × Nat) :=
  (List.range r.units.length).flatMap (fun i => (List.range r.bursts).map (fun j => (i, j)))

/-- TPUT: the shares written from a virtual range, packed by unit; poisoned source bursts write poison (R248). -/
def State.opTput (s : State) (tn : Nat) (sp : Span) (r : TRec) (data : Option TSource) : State × TOut :=
  r.cells.foldl (fun (a : State × TOut) c =>
    let u := r.units.getD c.1 (0, 0, 0)
    match shareBurst sp u (r.first + c.2) with
    | none => a
    | some p =>
      let o := s.sourceAt tn r data ((c.1 * r.bursts + c.2) * 64) 64
      (a.1.wrPiece p o.1 o.2, a.2.or ⟨0#7, o.2 || a.1.quarantined p, a.1.quarantined p⟩))
    (if data.isSome then s else s.noteVirt tn (r.x 32 6) r.xferLen (r.xferLen / 65536 + 2), TOut.none)

/-- TGET: the shares copied to a virtual range. -/
def State.opTget (s : State) (tn : Nat) (sp : Span) (r : TRec) : State × TOut :=
  let va := r.x 32 6
  r.cells.foldl (fun (a : State × TOut) c =>
    let u := r.units.getD c.1 (0, 0, 0)
    let off := (c.1 * r.bursts + c.2) * 64
    match shareBurst sp u (r.first + c.2) with
    | none => a
    | some p =>
      let b := s.unitRead p
      ((a.1.noteRead p 64).writeVirt tn (va + off) b.data b.poison 3, a.2.or ⟨0#7, b.poison, b.quar⟩)) (s, TOut.none)

/-- TLATCH: one unit's slice of one row: its bytes, its scales, whether it is poisoned. -/
def State.latchSlice (s : State) (d tn : Nat) (r : TRec) (data : Option TSource) (u : Nat × Nat × Nat) (ρ : Nat) :
    List Byte × List Byte × Bool :=
  let n := r.x 40 2
  let pitch := r.x 42 4
  let off := ρ * pitch + r.sliceNo u * n
  if r.x 38 1 = 0 then let o := s.sourceAt tn r data off n; (o.1, [], o.2)
  else
    let t := s.tubOf d
    let ctl := u.1 / 4
    let src := r.x 32 6
    let bs := (List.range n).map (fun i => t.xByte ctl tn (src + off + i))
    let scales := if r.afmt = 3 then
        (List.range (ceilDiv n 32)).map (fun i => t.xByte ctl tn (src + r.rows * pitch + ρ * (pitch / 32) + r.sliceNo u * n / 32 + i))
      else []
    (bs, scales, t.xPoison ctl tn (src + off) n)

/-- A latch row loaded; without scales in its source its scale bytes say 1. -/
def TubDie.setLatchRow (t : TubDie) (u : Nat × Nat × Nat) (l row : Nat) (bs sc : List Byte) (p : Bool) : TubDie :=
  { t with
    latch := (List.range bs.length).foldl (fun m i => Sp.set 0#8 m (latchKey u l row i) (bs.getD i 0#8)) t.latch
    lscale := (List.range 16).foldl (fun m i => Sp.set 0#8 m (lscaleKey u l row i) (sc.getD i 127#8)) t.lscale
    lpois := Sp.set false t.lpois (lpoisKey u l row) p }

def State.opTlatch (s : State) (d tn : Nat) (r : TRec) (data : Option TSource) : State × TOut :=
  let cells := r.units.flatMap (fun u => (List.range r.rows).map (fun ρ => (u, ρ)))
  let s0 := if data.isSome || r.x 38 1 != 0 then s else s.noteVirt tn (r.x 32 6) r.latchSpan (r.latchSpan / 65536 + 2)
  cells.foldl (fun (a : State × TOut) c =>
    let o := s.latchSlice d tn r data c.1 c.2
    (a.1.updTub d (fun t => t.setLatchRow c.1 r.latchNo (r.x 39 1 + c.2) o.1 o.2.1 o.2.2), a.2.or ⟨0#7, o.2.2, false⟩))
    (s0, TOut.none)

/-- The shares of the units of a set, with their poison. -/
def State.setShares (s : State) (sp : Span) (r : TRec) (c : Nat × Nat) : List (List ((Nat × Nat × Nat) × List UBurst)) :=
  (r.slices c.1).map (fun ch => r.bankList.map (fun b => ((ch, c.2, b), s.shareOf sp (ch, c.2, b) r.first r.bursts)))

def sharesPoison (l : List (List ((Nat × Nat × Nat) × List UBurst))) : Bool := l.any (·.any (fun u => u.2.any (·.poison)))
def sharesQuar (l : List (List ((Nat × Nat × Nat) × List UBurst))) : Bool := l.any (·.any (fun u => u.2.any (·.quar)))

/-- One unit's partial of a TMV (R243, R244), from what its latch and the window held when the record ran. -/
def tmvUnit (t : TubDie) (free tn : Nat) (r : TRec) (w a : OFmt) (u : Nat × Nat × Nat) (sh : List UBurst) (ρ n : Nat) : Acc × NFlags :=
  let table := fun code => t.xNat (u.1 / 4) tn (r.x 53 3 + 2 * code) 2
  unitPartial (bandElem sh free r.cycle w r.scaleMode (r.x 52 1) table) (t.latchElem u r.latchNo a ρ) r w (r.kb w) n

/-- TMV: one set's results for one latch row, before the finish (R244). -/
def tmvRow (t : TubDie) (free tn : Nat) (r : TRec) (w a : OFmt) (shares : List (List ((Nat × Nat × Nat) × List UBurst)))
    (ρ n : Nat) : TRes :=
  sumAccs (shares.map (fun slice => sumAccs (slice.map (fun u => tmvUnit t free tn r w a u.1 u.2 ρ n))))

/-- The result of a set: rows of outputs, and whether it is poisoned. -/
structure SetOut where
  rows : List (List TRes)
  poison : Bool
  quar : Bool
deriving DecidableEq, Repr

/-- The results of set number `pos`: the sums `part` with the finish (R244). `bad` says that what they used was poisoned. -/
def State.setOut (s : State) (d tn : Nat) (r : TRec) (pos : Nat) (c : Nat × Nat) (bad quar : Bool) (part : Nat → Nat → TRes) : SetOut :=
  let t := s.tubOf d
  let ctl := c.1 / 4
  let fin := r.x 42 1
  let res (ρ n : Nat) : Option W32 :=
    if bitN 0 fin then some (t.x32 ctl tn (r.x 44 4 + 4 * ((ρ * r.sets.length + pos) * r.resOuts + n))) else none
  let sc (ρ : Nat) : Option W32 := if bitN 1 fin then some (t.x32 ctl tn (r.x 48 4 + 4 * ρ)) else none
  let fp := (bitN 0 fin && t.xPoison ctl tn (r.x 44 4) (4 * r.results)) || (bitN 1 fin && t.xPoison ctl tn (r.x 48 4) (4 * r.resRows))
  ⟨(List.range r.resRows).map (fun ρ => (List.range r.resOuts).map (fun n => finishResult (part ρ n) (res ρ n) (sc ρ))), bad || fp, quar⟩

def State.tmvSet (s : State) (d tn : Nat) (sp : Span) (r : TRec) (w a : OFmt) (pos : Nat) (c : Nat × Nat) : SetOut :=
  let t := s.tubOf d
  let shares := s.setShares sp r c
  let lp := shares.any (·.any (fun u => (List.range r.rows).any (fun ρ => Sp.get false t.lpois (lpoisKey u.1 r.latchNo ρ))))
  s.setOut d tn r pos c (sharesPoison shares || lp) (sharesQuar shares) (tmvRow t s.free tn r w a shares)

/-- The last two rows of a unit's share, as its row latches hold them (R228). -/
def TubDie.keepRows (t : TubDie) (u : Nat × Nat × Nat) (first : Nat) (sh : List UBurst) : TubDie :=
  let last := (first + sh.length - 1) / 30
  { t with rowLatch := [last - 1, last].foldl (fun m row =>
      if row < first / 30 then m
      else Sp.set [] m (unitNo u * 2 + row % 2)
        (((List.range sh.length).filter (fun i => (first + i) / 30 == row)).flatMap (fun i => (sh.getD i ⟨[], false, false⟩).data))) t.rowLatch }

/-- What a TMV leaves in its units (R228): the rows in their row latches, the sums in their accumulators, the partials in their
result queues. -/
def State.keepQueue (s : State) (d tn : Nat) (sp : Span) (r : TRec) (w a : OFmt) (poisonIn : Bool) : State :=
  let t := s.tubOf d
  let cells := (List.range r.rows).flatMap (fun ρ => (List.range r.outs).map (fun n => (ρ, n)))
  let put (t' : TubDie) (u : Nat × Nat × Nat) : TubDie :=
    let sh := s.shareOf sp u r.first r.bursts
    let val (c : Nat × Nat) : Acc := (tmvUnit t s.free tn r w a u sh c.1 c.2).1
    let bad (ρ : Nat) : Bool := poisonIn || sh.any (·.poison) || Sp.get false t.lpois (lpoisKey u r.latchNo ρ)
    { t'.keepRows u r.first sh with
      acc := cells.foldl (fun m c => Sp.set Acc.clear m (unitNo u * 512 + c.1 * 16 + c.2 % 16) (val c)) t'.acc
      queue := cells.foldl (fun q c => Sp.set 0#32 q (queueKey u (c.1 * r.outs + c.2)) (val c).val) t'.queue
      qpois := cells.foldl (fun q c => Sp.set false q (queueKey u (c.1 * r.outs + c.2)) (bad c.1)) t'.qpois }
  s.updTub d (fun t' => r.units.foldl put t')

/-- The pieces of a result window: for each row and set its bytes, then the scale plane, a byte for each 32 outputs of a row of a set. -/
def resultPieces (nm : NMode) (e4m3 : Bool) (rows outs nset : Nat) (sets : List SetOut) : List (Nat × List Byte × Bool) × NFlags :=
  let es := if e4m3 then 1 else 4
  let cells := (List.range rows).flatMap (fun ρ => (List.range nset).map (fun i => (ρ, i)))
  let cs := cells.map (fun c =>
    let so := sets.getD c.2 ⟨[], false, false⟩
    let o := convertRow nm e4m3 (so.rows.getD c.1 [])
    let n := o.1.length
    let base := (c.1 * nset + c.2) * outs * es
    let plane := rows * nset * outs + (c.1 * nset + c.2) * ceilDiv outs 32
    ([(base, if so.poison then zeros n else o.1, so.poison), (plane, if so.poison then zeros o.2.1.length else o.2.1, so.poison)],
      if so.poison then 0#7 else o.2.2))
  (cs.flatMap (·.1), cs.foldl (fun f c => f ||| c.2) 0#7)

/-- The sets' results delivered (R244, R248). -/
def State.putResults (s : State) (tn : Nat) (nm : NMode) (r : TRec) (poisonIn : Bool) (sets : List SetOut) : State × TOut :=
  let outs := sets.map (fun o => { o with poison := o.poison || poisonIn })
  let p := resultPieces nm (r.x 41 1 == 1) r.resRows r.resOuts outs.length outs
  let pois := outs.any (·.poison)
  (s.deliverX tn (r.x 36 4) (r.x 32 4) (r.x 40 1) p.1 pois, ⟨p.2, pois, outs.any (·.quar)⟩)

def State.opTmv (s : State) (d tn : Nat) (nm : NMode) (sp : Span) (r : TRec) (poisonIn : Bool) : State × TOut :=
  match OFmt.ofCode r.wfmt, OFmt.ofCode r.afmt with
  | some w, some a =>
    let cs := r.sets
    let outs := (List.range cs.length).map (fun i => s.tmvSet d tn sp r w a i (cs.getD i (0, 0)))
    ((s.bump.noteShares sp r).keepQueue d tn sp r w a poisonIn).putResults tn nm r poisonIn outs
  | _, _ => (s, TOut.none)

/-- FP32 element `i` of a share. -/
def share32 (bs : List UBurst) (i : Nat) : W32 :=
  BitVec.ofNat 32 (leVal (((bs.getD (i / 16) ⟨[], false, false⟩).data.drop (4 * (i % 16))).take 4))

/-- TSQ: a bank's sum of squares in share order (R244, R285). -/
def bankSq (bs : List UBurst) : TRes :=
  (List.range (16 * bs.length)).foldl (fun s i =>
    let x := share32 bs i
    let r := fma32 x x s.1.val
    (⟨r.1, s.1.pend ||| r.2.pendingPart⟩, s.2 ||| r.2.atOncePart ||| operandFlags x)) (Acc.clear, 0#7)

/-- TSQ: a set's sum, finished as a TMV's. -/
def State.tsqSet (s : State) (d tn : Nat) (sp : Span) (r : TRec) (pos : Nat) (c : Nat × Nat) : SetOut :=
  let shares := s.setShares sp r c
  s.setOut d tn r pos c (sharesPoison shares) (sharesQuar shares)
    (fun _ _ => sumAccs (shares.map (fun slice => sumAccs (slice.map (fun u => bankSq u.2)))))

/-- What a TSQ leaves in a unit (R228): its rows, its sum, its result. -/
def TubDie.keepSq (t : TubDie) (u : Nat × Nat × Nat) (first : Nat) (sh : List UBurst) (sum : Acc) (poisonIn : Bool) : TubDie :=
  { t.keepRows u first sh with
    acc := Sp.set Acc.clear t.acc (unitNo u * 512) sum
    queue := Sp.set 0#32 t.queue (queueKey u 0) sum.val
    qpois := Sp.set false t.qpois (queueKey u 0) (poisonIn || sh.any (·.poison)) }

def State.opTsq (s : State) (d tn : Nat) (nm : NMode) (sp : Span) (r : TRec) (poisonIn : Bool) : State × TOut :=
  let cs := r.sets
  let outs := (List.range cs.length).map (fun i => s.tsqSet d tn sp r i (cs.getD i (0, 0)))
  let keep (t : TubDie) : TubDie := r.units.foldl (fun t u =>
    let sh := s.shareOf sp u r.first r.bursts
    t.keepSq u r.first sh (bankSq sh).1 poisonIn) t
  ((s.noteShares sp r).updTub d keep).putResults tn nm r poisonIn outs

/-- TARM: exchange groups armed in the controllers of the targeted channels (R168, R237). -/
def State.opTarm (s : State) (d : Nat) (r : TRec) : State :=
  s.updTub d (fun t => (List.range 8).foldl (fun t ctl =>
    if field (4 * ctl + 3) (4 * ctl) r.chans = 0 then t
    else (List.range (r.x 33 1)).foldl (fun t i => t.setXgrp ctl ((r.x 32 1 + i) % 256) ⟨r.x 34 1, 0, false⟩) t) t)

/-! ### TEW (R245) -/

/-- The float format of a latch format code; 0 stands for FP32 words as they are. -/
def latchFmt : Nat → FFmt
  | 0 => .fp32
  | 1 => .bf16
  | 2 => .fp16
  | 4 => .e5m2
  | _ => .e4m3

/-- Place of element `i` from a TEW offset: bytes apart as the queue or the latch holds them. -/
def tewPlace (afmt off i : Nat) : Nat := if inQueue off then off + 4 * i else off + (latchFmt afmt).bytes * i

/-- A value as a binary32 operand. -/
def fvTo32 : FV → W32 × NFlags
  | .nan s => nanResult s
  | .inf n => (inf32 n, 0#7)
  | .fin n m e => round32 n m e

/-- Scale byte of a place in a latch; the 16-bit formats have none. -/
def TubDie.scaleAt (t : TubDie) (u : Nat × Nat × Nat) (l afmt off : Nat) : Option Nat :=
  if 3 ≤ afmt then some (Sp.get 0#8 t.lscale (lscaleKey u l (off % 16384 / 512) (off % 512 / 32))).toNat else none

/-- An element of a unit's operand latch in the record's latch format, with its scale, or a word of its result queue; and the flags of
reading it. -/
def TubDie.tewWord (t : TubDie) (u : Nat × Nat × Nat) (l afmt off : Nat) : W32 × NFlags :=
  if inQueue off then (Sp.get 0#32 t.queue (queueKey u (off % 8192 / 4)), 0#7)
  else
    let F := latchFmt afmt
    let code := leVal ((List.range F.bytes).map (fun b => Sp.get 0#8 t.latch (latchKey u l (off % 16384 / 512) (off % 512 + b))))
    if afmt = 0 then (BitVec.ofNat 32 code, 0#7)
    else
      let v := fvTo32 (scaleFV (t.scaleAt u l afmt off) (F.decode code))
      (v.1, v.2 ||| NFlags.when (F.isSubnormal code) fDenormal)

/-- Bytes put into a latch row, and the scale of one of its blocks. -/
def TubDie.putLatch (t : TubDie) (u : Nat × Nat × Nat) (l row o : Nat) (bs : List Byte) : TubDie :=
  { t with latch := (List.range bs.length).foldl (fun m b => Sp.set 0#8 m (latchKey u l row (o + b)) (bs.getD b 0#8)) t.latch }
def TubDie.putScale (t : TubDie) (u : Nat × Nat × Nat) (l row i : Nat) (v : Byte) : TubDie :=
  { t with lscale := Sp.set 0#8 t.lscale (lscaleKey u l row i) v }

/-- A value divided by the scale `s` where there is one. -/
def unscaleBy (s : Option Nat) (x : W32) : FV :=
  match s with
  | some k => unscale k x
  | none => f32 x

/-- A result put into the queue, or, converted to the record's latch format with the scale that the place has, into the latch. -/
def TubDie.tewSet (t : TubDie) (u : Nat × Nat × Nat) (l afmt : Nat) (nm : NMode) (off : Nat) (v : W32) : TubDie × NFlags :=
  if inQueue off then ({ t with queue := Sp.set 0#32 t.queue (queueKey u (off % 8192 / 4)) v }, 0#7)
  else
    let F := latchFmt afmt
    let c := if afmt = 0 then (v.toNat, 0#7) else F.convert nm none (unscaleBy (t.scaleAt u l afmt off) v)
    (t.putLatch u l (off % 16384 / 512) (off % 512) (leBytes F.bytes c.1), c.2)

/-- Whether such a word is poisoned, and a word written with its poison: a latch row keeps the poison of any of its elements. -/
def TubDie.tewPoison (t : TubDie) (u : Nat × Nat × Nat) (l off : Nat) : Bool :=
  if inQueue off then Sp.get false t.qpois (queueKey u (off % 8192 / 4)) else Sp.get false t.lpois (lpoisKey u l (off % 16384 / 512))
def TubDie.tewMark (t : TubDie) (u : Nat × Nat × Nat) (l off : Nat) (p : Bool) : TubDie :=
  if inQueue off then { t with qpois := Sp.set false t.qpois (queueKey u (off % 8192 / 4)) p }
  else if p then { t with lpois := Sp.set false t.lpois (lpoisKey u l (off % 16384 / 512)) true } else t

/-- Two steps of binary32, the flags of both. -/
def andThen (a : W32 × NFlags) (f : W32 → W32 × NFlags) : W32 × NFlags := let r := f a.1; (r.1, a.2 ||| r.2)

/-- An element-wise step: A, B and the value of the row or the row vector (R245). -/
def tewStep (sub : Nat) (a b v : W32) : W32 × NFlags :=
  match sub with
  | 0x00 => vElem 0x10 a b v
  | 0x01 => vElem 0x12 a b v
  | 0x02 => vElem 0x13 a b v
  | 0x03 => vElem 0x14 a b v
  | 0x04 => andThen (vElem 0x11 a v v) TFun.exp.eval
  | 0x05 =>
    let e := andThen (vElem 0x17 a b v) TFun.exp.eval
    let d := andThen e (fun x => add32 one32 x)
    let q := andThen d (fun x => div32 a x)
    andThen q (fun x => let r := mul32 x b; (r.1, r.2 ||| denIn b))
  | _ => let r := div32 a v; (r.1, r.2 ||| denIn a ||| denIn v)

/-- Where the window holds the value for element `i`: a row scalar, or element `i` of a row vector. -/
def TRec.valueAt (r : TRec) (i : Nat) : Nat := if r.x 32 1 = 2 then r.x 41 4 + 4 * (i % r.perRow) else r.x 41 4 + 4 * (i / r.perRow)

/-- Places of A, B and the destination for element `i`. -/
def TRec.placeA (r : TRec) (i : Nat) : Nat := tewPlace r.afmt (r.x 33 2) i
def TRec.placeB (r : TRec) (i : Nat) : Nat := tewPlace r.afmt (r.x 35 2) i
def TRec.placeD (r : TRec) (i : Nat) : Nat := tewPlace r.afmt (r.x 37 2) i

/-- Whether a subcode takes B, and a value from the window. -/
def tewUsesB (sub : Nat) : Bool := [0, 1, 2, 3, 5].contains sub
def tewUsesV (sub : Nat) : Bool := [2, 4, 10].contains sub

/-- What an element-wise step leaves: the die, flags, and whether a poisoned operand was used. -/
structure TewOut where
  die : TubDie
  flags : NFlags
  poison : Bool
deriving DecidableEq, Repr

/-- A result word with its flags and poison put at element `i` of the destination. -/
def TewOut.put (a : TewOut) (u : Nat × Nat × Nat) (r : TRec) (nm : NMode) (i : Nat) (v : W32 × NFlags) (p : Bool) : TewOut :=
  let o := a.die.tewSet u r.latchNo r.afmt nm (r.placeD i) v.1
  ⟨o.1.tewMark u r.latchNo (r.placeD i) p, a.flags ||| v.2 ||| o.2, a.poison || p⟩

/-- Element-wise subcodes 0x00 to 0x05 and 0x0A in one unit: every operand is read before a result is written. -/
def TubDie.tewUnit (t : TubDie) (tn : Nat) (nm : NMode) (r : TRec) (u : Nat × Nat × Nat) : TewOut :=
  let sub := r.x 32 1
  let l := r.latchNo
  let os := (List.range (r.x 39 2)).map (fun i =>
    let a := t.tewWord u l r.afmt (r.placeA i)
    let b := if tewUsesB sub then t.tewWord u l r.afmt (r.placeB i) else (0#32, 0#7)
    let o := tewStep sub a.1 b.1 (if tewUsesV sub then t.x32 (u.1 / 4) tn (r.valueAt i) else 0#32)
    ((o.1, o.2 ||| a.2 ||| b.2), t.tewPoison u l (r.placeA i) || (tewUsesB sub && t.tewPoison u l (r.placeB i)) ||
      (tewUsesV sub && t.xPoison (u.1 / 4) tn (r.valueAt i) 4)))
  (List.range os.length).foldl (fun (a : TewOut) i => let o := os.getD i ((0#32, 0#7), false); a.put u r nm i o.1 o.2) ⟨t, 0#7, false⟩

/-- Rotary encoding of pairs: x·cos − y·sin and x·sin + y·cos; the window holds cosine and sine of each pair. -/
def TubDie.rotaryUnit (t : TubDie) (tn : Nat) (nm : NMode) (r : TRec) (u : Nat × Nat × Nat) : TewOut :=
  (List.range (r.x 39 2 / 2)).foldl (fun (a : TewOut) i =>
    let x := t.tewWord u r.latchNo r.afmt (r.placeA (2 * i))
    let y := t.tewWord u r.latchNo r.afmt (r.placeA (2 * i + 1))
    let c := t.x32 (u.1 / 4) tn (r.x 41 4 + 8 * i)
    let sn := t.x32 (u.1 / 4) tn (r.x 41 4 + 8 * i + 4)
    let bad := t.tewPoison u r.latchNo (r.placeA (2 * i)) || t.tewPoison u r.latchNo (r.placeA (2 * i + 1)) ||
      t.xPoison (u.1 / 4) tn (r.x 41 4 + 8 * i) 8
    let xc := vElem 0x12 x.1 c c
    let ys := vElem 0x12 y.1 sn sn
    let xs := vElem 0x12 x.1 sn sn
    let yc := vElem 0x12 y.1 c c
    let p := sub32 xc.1 ys.1
    let q := add32 xs.1 yc.1
    (a.put u r nm (2 * i) (p.1, p.2 ||| x.2 ||| y.2 ||| xc.2 ||| ys.2) bad).put u r nm (2 * i + 1) (q.1, q.2 ||| xs.2 ||| yc.2) bad)
    ⟨t, 0#7, false⟩

/-- Conversion of A to the latch format, with a Block 32 scale for the 8-bit formats (R245 subcode 0x07). -/
def TubDie.convertUnit (t : TubDie) (nm : NMode) (r : TRec) (u : Nat × Nat × Nat) : TewOut :=
  let F := latchFmt r.afmt
  let n := r.x 39 2
  let w := F.bytes
  let A := (List.range n).map (fun i => t.tewWord u r.latchNo r.afmt (r.placeA i))
  let scaled := decide (3 ≤ r.afmt)
  let dst := r.x 37 2 % 16384
  (List.range n).foldl (fun (a : TewOut) i =>
    let blk := (A.drop (i / 32 * 32)).take 32
    let s := if scaled then blockScale F (blk.map (·.1)) else 127
    let v := A.getD i (0#32, 0#7)
    let c := F.convert nm none (unscale s v.1)
    let o := dst + i * w
    let bad := t.tewPoison u r.latchNo (r.placeA i)
    let t1 : TubDie := a.die.putLatch u r.latchNo (o % 16384 / 512) (o % 512) (leBytes w c.1)
    let t2 : TubDie := if scaled then t1.putScale u r.latchNo (o % 16384 / 512) (o % 512 / 32) (BitVec.ofNat 8 s) else t1
    ⟨t2.tewMark u r.latchNo (o % 16384) bad, a.flags ||| c.2 ||| v.2 ||| operandFlags v.1, a.poison || bad⟩) ⟨t, 0#7, false⟩

/-- One unit's row value for subcodes 0x08 and 0x09: the maximum, or the sum from -0 in ascending order; and whether it is poisoned. -/
def TubDie.rowValue (t : TubDie) (r : TRec) (u : Nat × Nat × Nat) (ρ : Nat) : (W32 × NFlags) × Bool :=
  let is_ := (List.range r.perRow).map (fun i => ρ * r.perRow + i)
  let xs := is_.map (fun i => t.tewWord u r.latchNo r.afmt (r.placeA i))
  let v := if r.x 32 1 = 0x09 then vReduce 0x30 negZero32 0#7 (xs.map (·.1)) else vReduce 0x32 (inf32 true) 0#7 (xs.map (·.1))
  ((v.1, xs.foldl (fun f x => f ||| x.2) v.2), is_.any (fun i => t.tewPoison u r.latchNo (r.placeA i)))

/-- Row values combined along the chain and at the controller in the order of R244. -/
def chainRows (sum : Bool) (l : List ((W32 × NFlags) × Bool)) : (W32 × NFlags) × Bool :=
  l.foldl (fun a x => let r := if sum then add32 a.1.1 x.1.1 else max32 a.1.1 x.1.1; ((r.1, a.1.2 ||| x.1.2 ||| r.2), a.2 || x.2))
    ((if sum then negZero32 else inf32 true, 0#7), false)

/-- Subcodes 0x08 and 0x09: each set's row values, from every die of the set, written to the window of its controller in the order ρ,
then set (R244). -/
def TubDie.chainUnit (t : TubDie) (tn : Nat) (r : TRec) : TewOut :=
  let sum := r.x 32 1 == 0x09
  (List.range r.sets.length).foldl (fun (a : TewOut) pos =>
    let c := r.sets.getD pos (0, 0)
    (List.range r.rows).foldl (fun (a : TewOut) ρ =>
      let v := chainRows sum ((r.slices c.1).map (fun ch => chainRows sum (r.bankList.map (fun b => t.rowValue r (ch, c.2, b) ρ))))
      ⟨a.die.xWrite (c.1 / 4) tn (r.x 41 4 + 4 * (ρ * r.sets.length + pos)) (leBytes 4 v.1.1.toNat) v.2, a.flags ||| v.1.2, a.poison || v.2⟩) a)
    ⟨t, 0#7, false⟩

/-- A TEW record. -/
def State.opTew (s : State) (d tn : Nat) (nm : NMode) (r : TRec) : State × TOut :=
  let t := s.tubOf d
  let all (f : TubDie → (Nat × Nat × Nat) → TewOut) : TewOut :=
    r.units.foldl (fun a u => let o := f a.die u; ⟨o.die, a.flags ||| o.flags, a.poison || o.poison⟩) ⟨t, 0#7, false⟩
  let o := match r.x 32 1 with
    | 0x06 => all (fun t u => t.rotaryUnit tn nm r u)
    | 0x07 => all (fun t u => t.convertUnit nm r u)
    | 0x08 => t.chainUnit tn r
    | 0x09 => t.chainUnit tn r
    | _ => all (fun t u => t.tewUnit tn nm r u)
  (s.setTub d o.die, ⟨o.flags, o.poison, false⟩)

end Sys2Proof.Machine
end

