-- ==== Sys2Proof/Machine/UpdateOps.lean ====
section
/-!
DEFINITION. Weights, gradients and the update: parts and their spans, record partials, the decision, schedules, the update
rules, and the difference stream (R278 to R302).
-/

namespace Sys2Proof.Machine

/-! ### Parts (R280, R365) -/

/-- Logical shards of a job that a node holds, ascending. -/
def Job.heldBy (j : Job) (node : Nat) : List Nat :=
  (List.range j.map.length).filter (fun l => (j.map.getD l (0, 0)).1 == node)

/-- The shard maps of all stages of a job, in stage order (R384). -/
def Job.allMaps (j : Job) : List (List (Nat × Nat)) := if j.stages = [] then [j.map] else j.stages.set j.stage j.map

/-- Shard slot of a logical shard on its holder. -/
def Job.slotOf (j : Job) (l : Nat) : Nat := (j.map.getD l (0, 0)).2

/-- Update-set entries of the job in a slot. -/
def State.entriesOf (s : State) (k : Nat) : List UpdEntry :=
  match s.image with
  | some im =>
    (match im.sets.find? (fun u => u.job == (s.job k).info.job) with
      | some u => u.entries
      | none => [])
  | none => []

def noEntry : UpdEntry := ⟨0, 0, 0, 0, 0, 0, 0#32, 0, []⟩
def State.entryAt (s : State) (k t : Nat) : UpdEntry := (s.entriesOf k).getD t noEntry

/-- Directory entry of a job's tensor. -/
def State.tensorRec (s : State) (tn job id : Nat) : Option TensorRec :=
  match s.image with
  | some im => im.tensors.find? (fun t => t.tenant == tn && t.id == id && (t.job == job || t.job == 0xFFFF))
  | none => none

/-- The frame of a page of a part. -/
def State.partFrame (s : State) (tn job id slot page : Nat) : Option Nat :=
  (s.frames.find? (fun f => f.2.owner == some (tn, job, .part id slot page))).map (·.1)

/-- The span of a part's bands. -/
def State.partSpan (s : State) (tn job id slot : Nat) : Span := fun i =>
  (s.partFrame tn job id slot (15 * i)).map (fun f => (f / dieFrames, f % dieFrames / 15))

/-- Home die of a part. -/
def State.partDie (s : State) (tn job id slot : Nat) : Nat :=
  match s.partFrame tn job id slot 0 with
  | some f => f / dieFrames
  | none => 0

/-- Bursts of one bank's share of an entry's spans. -/
def State.shareLen (s : State) (k : Nat) (e : UpdEntry) : Nat :=
  let j := (s.job k).info
  match s.tensorRec j.tenant j.job e.grad with
  | some t => t.size / 15 * 240
  | none => 0

/-- Share range of record `r` of an entry (R451): first index and count. -/
def recRange (e : UpdEntry) (share r : Nat) : Nat × Nat :=
  let a := e.ranges.getD r 0
  let b := if r + 1 < e.records then e.ranges.getD (r + 1) 0 else share
  (a, b - a)

/-- Units of a die in packing order (R238). -/
def allUnits : List (Nat × Nat × Nat) :=
  (List.range 32).flatMap (fun c => (List.range 4).flatMap (fun k => (List.range 16).map (fun b => (c, k, b))))

/-- First logical element of burst `i` of a unit's share (R280), and how many of its 16 belong to the part. -/
def elemBase (share : Nat) (u : Nat × Nat × Nat) (i : Nat) : Nat := (unitNo u * share + i) * 16
def elemCount (partLen share : Nat) (u : Nat × Nat × Nat) (i n : Nat) : Nat := min (16 * n) (partLen - elemBase share u i)

/-- Record keys of the parts that this module holds, in canonical order. -/
def State.updKeys (s : State) (k : Nat) : List UpdKey :=
  let es := s.entriesOf k
  ((s.job k).heldBy s.self).flatMap (fun l => (List.range es.length).flatMap (fun t =>
    (List.range (es.getD t noEntry).records).map (fun r => (l, t, r))))

/-- What stands where no partial is known: no sum has this pattern. -/
def noPartial : W32 × Bool := (0xFFFFFFFF#32, true)

def partKey (p : UpdKey) : Nat := (p.1 * 65536 + p.2.1) * 65536 + p.2.2

/-! ### Record partials (R285) -/

/-- A bank's sum of squares of its elements of a record, in share order. -/
def bankPartial (bs : List UBurst) (count : Nat) : TRes :=
  (List.range count).foldl (fun a i =>
    let x := share32 bs i
    let r := fma32 x x a.1.val
    (⟨r.1, a.1.pend ||| r.2.pendingPart⟩, a.2 ||| r.2.atOncePart ||| operandFlags x)) (Acc.clear, 0#7)

/-- What one unit sums of a record. -/
def State.unitSq (s : State) (sp : Span) (partLen share first n : Nat) (u : Nat × Nat × Nat) : TRes :=
  bankPartial (s.shareOf sp u first n) (elemCount partLen share u first n)

/-- The result of sum set `σ`: the TSQ's result for it, in FP32. -/
def State.setPartial (s : State) (sp : Span) (partLen share first n σ : Nat) : TRes :=
  sumAccs ((List.range 8).map (fun i => sumAccs ((List.range 16).map (fun b =>
    s.unitSq sp partLen share first n (8 * (σ / 4) + i, σ % 4, b)))))

/-- The record partial of a share range of a gradient span, and the flags of its TSQ. The sequencer's own additions raise flags that no
register is named for: the model drops them (log entry 82). -/
def State.recordPartial (s : State) (sp : Span) (partLen share first n : Nat) : W32 × NFlags :=
  let rs := (List.range 16).map (s.setPartial sp partLen share first n)
  (rs.foldl (fun q r => (add32 q r.1.val).1) negZero32, rs.foldl (fun f r => f ||| (convertRow NMode.zero false [r]).2.2) 0#7)

/-- The TSQ record of a record partial (R285): k = 8 over every die channel, rank and bank. -/
def tsqRecord (first n : Nat) : Entry :=
  mkEntry [(0, 1, 6), (3, 1, 0x60), (4, 2, 0xFFFF), (6, 1, 0x0F), (7, 1, 1), (8, 4, 0xFFFFFFFF), (20, 3, first), (24, 3, n), (28, 2, 1)]

/-- Poison and quarantine met in a share range of every unit. -/
def State.sharePoison (s : State) (sp : Span) (partLen share first n : Nat) : Bool × Bool :=
  allUnits.foldl (fun a u =>
    let bs := s.shareOf sp u first (ceilDiv (elemCount partLen share u first n) 16)
    (a.1 || bs.any (·.poison), a.2 || bs.any (·.quar))) (false, false)

/-! ### Schedules and the decision (R286 to R291) -/

/-- Results that one line hands to the next are no operands read (R60): denormal_input is raised for what a computation reads. -/
def denAny (l : List W32) : NFlags := l.foldl (fun f w => f ||| denIn w) 0#7
def mulF (a b : W32) : W32 × NFlags := mul32 a b
def divF (a b : W32) : W32 × NFlags := div32 a b
def fmaF (a b c : W32) : W32 × NFlags := fma32 a b c
def sqrtF (a : W32) : W32 × NFlags := sqrt32 a
/-- A step whose flags join those of its operand. -/
def thenF (a : W32 × NFlags) (f : W32 → W32 × NFlags) : W32 × NFlags := let r := f a.1; (r.1, a.2 ||| r.2)

/-- The operands that a computation reads add their denormal_input. -/
def withDen (l : List W32) (r : W32 × NFlags) : W32 × NFlags := (r.1, r.2 ||| denAny l)

def half32 : W32 := 0x3F000000#32
def pi32 : W32 := 0x40490FDB#32
/-- A power of two as FP32. -/
def pow2 (e : Int) : W32 := (round32 false 1 e).1

/-- R290: the learning rate of step `n`. -/
def learningRate (j : JobRec) (n : Nat) : W32 × NFlags :=
  if j.sched = 0 then (j.lrPeak, 0#7)
  else if j.sched = 4 then
    (((j.pieces.filter (fun p => decide (p.1 ≤ n))).getLast?.getD (0, 0#32)).2, 0#7)
  else if n < j.warm then withDen [j.lrPeak] (thenF (divF (ofNat32 (n + 1)) (ofNat32 j.warm)) (fun q => mulF j.lrPeak q))
  else if j.sched = 3 then
    withDen [j.lrPeak] (thenF (thenF (divF (ofNat32 j.warm) (ofNat32 (n + 1))) sqrtF) (fun q => mulF j.lrPeak q))
  else if j.total ≤ n then (j.lrEnd, 0#7)
  else
    let t := divF (ofNat32 (n - j.warm)) (ofNat32 (j.total - j.warm))
    let d := sub32 j.lrPeak j.lrEnd
    let h :=
      if j.sched = 1 then
        thenF (thenF (thenF (thenF t (fun t => mulF pi32 t)) TFun.cos.eval) (fun c => add32 one32 c)) (fun x => mulF x half32)
      else thenF t (fun t => sub32 one32 t)
    let r := fmaF d.1 h.1 j.lrEnd
    withDen [j.lrPeak, j.lrEnd] (r.1, r.2 ||| d.2 ||| h.2)

/-- The outcome of a step (R286): the code, and gscale with the flags of its computation. -/
def decide286 (j : JobRec) (exp : Int) (g : W32) (poison : Bool) : Nat × W32 × NFlags :=
  let invS := pow2 (-exp)
  let n := withDen [g] (sqrtF g)
  let tn := thenF n (fun n => mulF n invS)
  let cf : W32 × NFlags := if lt32 j.clip tn.1 then withDen [j.clip] (divF j.clip tn.1) else (one32, 0#7)
  if poison then (4, 0#32, 0#7)
  else if isFinite32 g = false then (2, 0#32, 0#7)
  else if lt32 tn.1 j.limit = false then (3, 0#32, tn.2)
  else let r := mulF cf.1 invS; (1, r.1, tn.2 ||| cf.2 ||| r.2)

/-- R288: the loss scale and run after a step of an outcome. -/
def scaleAfter (j : JobRec) (st : StepSt) (outcome : Nat) : Int × W32 :=
  match outcome with
  | 1 =>
    if j.interval ≠ 0 ∧ st.run.toNat + 1 = j.interval then (min (st.exp + j.grow) j.eMax, 0#32)
    else (st.exp, st.run + 1)
  | 4 => (st.exp, st.run)
  | _ => (if j.interval = 0 then st.exp else max (st.exp - j.back) j.eMin, 0#32)

/-- R286, R287: the step state after step `n` with an outcome. -/
def stateAfter (j : JobRec) (st : StepSt) (n : W32) (outcome : Nat) (g : W32) : StepSt × NFlags :=
  let sc := scaleAfter j st outcome
  let lr := learningRate j n.toNat
  let st := { st with step := n, outcome := outcome, g := g, lr := lr.1, exp := sc.1, run := sc.2, nonfinite := 0#32 }
  if outcome = 1 then
    let p1 := withDen [st.p1, j.beta1] (mulF st.p1 j.beta1)
    let p2 := withDen [st.p2, j.beta2] (mulF st.p2 j.beta2)
    ({ st with applied := st.applied + 1, p1 := p1.1, p2 := p2.1 }, lr.2 ||| p1.2 ||| p2.2)
  else (st, lr.2)

/-! ### Update rules (R278, R291, R292) -/

/-- The constants of a step's records (R291) and those of the rule. -/
structure UpdK where
  gscale : W32
  negLr : W32
  keep : W32
  c1 : W32
  c2 : W32
  bc1 : W32
  bc2 : W32
  b1 : W32
  b2 : W32
  eps : W32
  mu : W32
deriving DecidableEq, Repr

/-- The constants of an entry, with the flags of their computation. -/
def updConsts (j : JobRec) (d : UpdDec) (wd : W32) : UpdK × NFlags :=
  let negLr := d.next.lr ^^^ 0x80000000#32
  let keep := fmaF negLr wd one32
  let c1 := sub32 one32 j.beta1
  let c2 := sub32 one32 j.beta2
  let bc1 := thenF (sub32 one32 d.next.p1) (fun x => divF one32 x)
  let bc2 := thenF (sub32 one32 d.next.p2) (fun x => divF one32 x)
  (⟨d.gscale, negLr, keep.1, c1.1, c2.1, bc1.1, bc2.1, j.beta1, j.beta2, j.eps, j.mu⟩,
    keep.2 ||| c1.2 ||| c2.2 ||| bc1.2 ||| bc2.2 ||| denAny [wd, j.beta1, j.beta2])

/-- The value that TUPD stores for a master or moment: its canonical pattern (R43). -/
def canon32 (w : W32) : W32 := if isNan32 w then nan32 else w

/-- One element under a rule: the new master and moments, and the flags raised. "Each line rounds once" is read as one rounding for each
operation that the line names, fma being one (log entry 85). -/
def updElem (rule : Nat) (k : UpdK) (grad w m1 m2 : W32) : W32 × W32 × W32 × NFlags :=
  let g := mulF grad k.gscale
  let wk := mulF w k.keep
  match rule with
  | 0 =>
    let cg := mulF k.c1 g.1
    let m1' := fmaF k.b1 m1 cg.1
    let gg := mulF g.1 g.1
    let cgg := mulF k.c2 gg.1
    let m2' := fmaF k.b2 m2 cgg.1
    let num := mulF m1'.1 k.bc1
    let rt := thenF (mulF m2'.1 k.bc2) sqrtF
    let den := thenF rt (fun x => add32 x k.eps)
    let d := divF num.1 den.1
    let w' := fmaF k.negLr d.1 wk.1
    (w'.1, m1'.1, m2'.1, denAny [grad, w, m1, m2, k.gscale, k.negLr, k.keep, k.c1, k.c2, k.bc1, k.bc2, k.b1, k.b2, k.eps] ||| g.2 ||| wk.2 ||| cg.2 ||| m1'.2 ||| gg.2 ||| cgg.2 ||| m2'.2 ||| num.2 ||| den.2 ||| d.2 ||| w'.2)
  | 1 =>
    let m1' := fmaF k.mu m1 g.1
    let w' := fmaF k.negLr m1'.1 wk.1
    (w'.1, m1'.1, m2, denAny [grad, w, m1, k.gscale, k.negLr, k.keep, k.mu] ||| g.2 ||| wk.2 ||| m1'.2 ||| w'.2)
  | _ =>
    let cg := mulF k.c1 g.1
    let c := fmaF k.b1 m1 cg.1
    let u := if isNan32 c.1 || (f32 c.1).isZero then c.1 else if lt32 c.1 0#32 then one32 ^^^ 0x80000000#32 else one32
    let w' := fmaF k.negLr u wk.1
    let cg2 := mulF k.c2 g.1
    let m1' := fmaF k.b2 m1 cg2.1
    (w'.1, m1'.1, m2, denAny [grad, w, m1, k.gscale, k.negLr, k.keep, k.c1, k.c2, k.b1, k.b2] ||| g.2 ||| wk.2 ||| cg.2 ||| c.2 ||| w'.2 ||| cg2.2 ||| m1'.2)

/-- R278: the master value of the two halves, and back. -/
def masterOf (hi lo : W16) : W32 := BitVec.ofNat 32 (hi.toNat * 65536 + lo.toNat) - 0x8000#32
def patternOf (m : W32) : W32 := m + 0x8000#32

/-! ### Step state in memory (R287) -/

def StepSt.bytes (st : StepSt) : List Byte :=
  leBytes 4 st.step.toNat ++ leBytes 4 st.applied.toNat ++ leBytes 4 (pow2 st.exp).toNat ++ leBytes 4 st.run.toNat ++
  leBytes 1 st.outcome ++ zeros 3 ++ leBytes 4 st.g.toNat ++ leBytes 4 st.lr.toNat ++ leBytes 4 st.p1.toNat ++
  leBytes 4 st.p2.toNat ++ leBytes 4 st.sealed.toNat ++ leBytes 4 st.nonfinite.toNat ++ zeros 20

/-- The job's step state replaced, in the sequencer and in its page. -/
def State.setStep (s : State) (k : Nat) (st : StepSt) : State :=
  let s' := match (s.job k).upd.page with
    | some p => s.wrPiece (p * pageSize) st.bytes false
    | none => s
  s'.updJob k (fun j => { j with upd := { j.upd with st := st } })

/-! ### The difference stream (R298 to R302) -/

/-- The 32 B header of a record with its crc field as given. -/
def WRec.head (r : WRec) (crc : Nat) : List Byte :=
  leBytes 1 r.kind ++ leBytes 1 r.flags ++ leBytes 2 r.job ++ leBytes 4 r.step ++ leBytes 4 r.data.length ++ leBytes 4 crc ++
    r.hdr.take 16 ++ zeros (16 - r.hdr.length)
def WRec.crc (r : WRec) : Nat := crc32 (r.head 0 ++ r.data)
def WRec.bytes (r : WRec) : List Byte := r.head r.crc ++ r.data

/-- Bytes cut into 64 B entries, the last padded with zeros. -/
def cut64 (bs : List Byte) : List Entry := (List.range (ceilDiv bs.length 64)).map (fun i => entryOf ((bs.drop (64 * i)).take 64))

/-- Room in queue 7 of a tenant. -/
def State.room7 (s : State) (tn : Nat) : Nat :=
  let q := (s.tenant tn).queue 7
  if q.depthExp = 0 then 0 else 2 ^ q.depthExp - q.shadow.length

def State.push7 (s : State) (tn : Nat) (es : List Entry) : State :=
  (es.foldl (fun s e => s.pushShadow tn 7 (fun _ => e)) s).flushQueue tn 7

def State.updUpd (s : State) (k : Nat) (f : UpdSt → UpdSt) : State := s.updJob k (fun j => { j with upd := f j.upd })

/-- Entries of a required host copy that queue 7 has room for now (R302). -/
def State.drainHost (s : State) (k : Nat) : State :=
  let j := s.job k
  let n := s.room7 j.info.tenant
  (s.updUpd k (fun u => { u with hostHold := u.hostHold.drop n })).push7 j.info.tenant (j.upd.hostHold.take n)

/-- The GAP record of a lossy host copy. -/
def gapRec (j : Job) (u : UpdSt) : WRec :=
  let g := u.gap.getD (0xFFFFFFFF#32, 0xFFFFFFFF#32)
  ⟨6, 0, j.info.job, u.st.step.toNat, leBytes 4 g.1.toNat ++ leBytes 4 g.2.toNat ++ leBytes 1 (b2n u.gapSnap.isSome) ++ zeros 3 ++
    leBytes 4 (u.gapSnap.getD 0#32).toNat, [], (0, 0)⟩

/-- R302: when queue 7 has space again, the GAP record of a lossy host copy names what is missing; a required copy goes on. -/
def State.hostReady (s : State) (k : Nat) : State :=
  let j := s.job k
  match j.info.hostCopy with
  | 1 => s.drainHost k
  | 2 =>
    if (j.upd.gap.isSome || j.upd.gapSnap.isSome) && decide (0 < s.room7 j.info.tenant) then
      (s.updUpd k (fun u => { u with gap := none, gapSnap := none })).push7 j.info.tenant (cut64 (gapRec j j.upd).bytes)
    else s
  | _ => s

/-- A record joins the host copy (R302). A lossy copy is kept or dropped at the end of a step or a snapshot. -/
def State.hostCopy (s : State) (k : Nat) (r : WRec) : State :=
  let j := s.job k
  match j.info.hostCopy with
  | 1 => (s.updUpd k (fun u => { u with hostHold := u.hostHold ++ cut64 r.bytes })).drainHost k
  | 2 =>
    let buf := j.upd.hostBuf ++ cut64 r.bytes
    if r.kind = 3 ∨ r.kind = 5 then
      let gapped := j.upd.gap.isSome || j.upd.gapSnap.isSome
      let all := (if gapped then cut64 (gapRec j j.upd).bytes else []) ++ buf
      if all.length ≤ s.room7 j.info.tenant then
        (s.updUpd k (fun u => { u with hostBuf := [], gap := none, gapSnap := none })).push7 j.info.tenant all
      else
        let g := if r.kind = 3 then some ((j.upd.gap.getD (BitVec.ofNat 32 r.step, 0#32)).1, BitVec.ofNat 32 r.step) else j.upd.gap
        let gs := if r.kind = 5 then some (BitVec.ofNat 32 (leVal (r.hdr.take 4))) else j.upd.gapSnap
        s.updUpd k (fun u => { u with hostBuf := [], gap := g, gapSnap := gs })
    else s.updUpd k (fun u => { u with hostBuf := buf })
  | _ => s

def State.upAt (s : State) (d : Nat) : UpDie := Sp.get UpDie.reset s.up d
def State.updUp (s : State) (d : Nat) (f : UpDie → UpDie) : State := { s with up := Sp.set UpDie.reset s.up d (f (s.upAt d)) }

/-- A record of the difference stream sent by a die. -/
def State.emit (s : State) (k die : Nat) (r : WRec) : State :=
  let n := r.bytes.length
  let s := { s with watchOut := s.watchOut ++ [r] }.updUp die (fun u => { u with txBytes := u.txBytes + BitVec.ofNat 64 n })
  let s := s.updUpd k (fun u =>
    if r.kind = 2 ∧ r.flags % 2 = 0 then { u with segs := u.segs + 1, crcs := u.crcs ^^^ r.crc, bytes := u.bytes + n }
    else if r.kind = 1 then { u with bytes := u.bytes + n }
    else u)
  s.hostCopy k r

/-- The SEG records that wait for STEP sent (R299). -/
def State.flushSegs (s : State) (k : Nat) : State :=
  (s.job k).upd.segOut.foldl (fun (s : State) r => s.emit k r.1 r.2) (s.updUpd k (fun u => { u with segOut := [] }))

/-- Whether a TUPD of the step in hand has begun. -/
def State.updBegun (s : State) (k : Nat) : Bool :=
  s.lists.any (fun l => match l.from_ with
    | .update k' _ _ _ => k' == k && (l.running || decide (0 < l.done))
    | _ => false) || (s.job k).upd.left != s.updKeys k

/-- Header of a SEG or ESEG record (R298, R463). -/
def segHdr (l t kind e0 n : Nat) : List Byte := leBytes 4 l ++ leBytes 2 t ++ leBytes 1 kind ++ zeros 1 ++ leBytes 4 e0 ++ leBytes 4 n

/-! ### TUPD (R293, R297) -/

/-- Tensor of a record's difference ring. -/
def State.ringTensor (s : State) (tn job : Nat) : Option TensorRec :=
  match s.image with
  | some im => im.tensors.find? (fun t => t.tenant == tn && t.job == job && t.kind == 8)
  | none => none

/-- The identifier that the ring's parts have: that of the directory's ring, or one beyond every tensor's where the image lists none (log
entry 83). -/
def State.ringId (s : State) (tn job : Nat) : Nat :=
  match s.ringTensor tn job with
  | some t => t.id
  | none => 2 ^ 24

/-- Word kinds of a rule: the master and one or two moments (R298). -/
def wordKinds (rule : Nat) : List Nat := if rule = 0 then [0, 1, 2] else [0, 1]

/-- Bursts of a share that the ring of a job holds. -/
def ringCap (j : JobRec) : Nat := j.ringBands * 240

/-- What one unit's burst of 16 elements becomes: new halves, moments, the XOR words by kind, poison, flags, and the
count of elements that are not finite. -/
structure UpdBurst where
  hi : List Byte
  lo : List Byte
  m1 : List Byte
  m2 : List Byte
  xor : List (List Byte)
  poison : Bool
  flags : NFlags
  bad : Nat
deriving DecidableEq, Repr

/-- Spans of a part's five tensors. -/
structure UpdSpans where
  grad : Span
  hi : Span
  lo : Span
  m1 : Span
  m2 : Span

/-- Half `i` mod 2 of burst `i` / 2 of a 16-bit span. -/
def State.halfBurst (s : State) (sp : Span) (u : Nat × Nat × Nat) (i : Nat) : List Byte × Bool :=
  match shareBurst sp u (i / 2) with
  | some a => let b := s.unitRead a; ((b.data.drop (32 * (i % 2))).take 32, b.poison)
  | none => (zeros 32, true)

def State.fullBurst (s : State) (sp : Span) (u : Nat × Nat × Nat) (i : Nat) : List Byte × Bool :=
  match shareBurst sp u i with
  | some a => let b := s.unitRead a; (b.data, b.poison)
  | none => (zeros 64, true)

def word16 (bs : List Byte) (i : Nat) : W16 := BitVec.ofNat 16 (leVal ((bs.drop (2 * i)).take 2))
def word32 (bs : List Byte) (i : Nat) : W32 := BitVec.ofNat 32 (leVal ((bs.drop (4 * i)).take 4))

/-- One burst of 16 elements, of which the first `n` belong to the part. -/
def State.updBurst (s : State) (rule : Nat) (k : UpdK) (sp : UpdSpans) (u : Nat × Nat × Nat) (i n : Nat) : UpdBurst :=
  let g := s.fullBurst sp.grad u i
  let h := s.halfBurst sp.hi u i
  let l := s.halfBurst sp.lo u i
  let a := s.fullBurst sp.m1 u i
  let b := if rule = 0 then s.fullBurst sp.m2 u i else (zeros 64, false)
  let os := (List.range 16).map (fun e =>
    let w := masterOf (word16 h.1 e) (word16 l.1 e)
    let m1 := word32 a.1 e
    let m2 := word32 b.1 e
    if e < n then
      let r := updElem rule k (word32 g.1 e) w m1 m2
      let w' := canon32 r.1
      let m1' := canon32 r.2.1
      let m2' := canon32 r.2.2.1
      ((patternOf w, m1, m2), (patternOf w', m1', m2'), r.2.2.2,
        b2n (!(isFinite32 w' && isFinite32 m1' && (rule != 0 || isFinite32 m2'))))
    else ((patternOf w, m1, m2), (patternOf w, m1, m2), 0#7, 0))
  { hi := os.flatMap (fun o => leBytes 2 (o.2.1.1.toNat / 65536)),
    lo := os.flatMap (fun o => leBytes 2 o.2.1.1.toNat),
    m1 := os.flatMap (fun o => leBytes 4 o.2.1.2.1.toNat),
    m2 := os.flatMap (fun o => leBytes 4 o.2.1.2.2.toNat),
    xor := [os.flatMap (fun o => leBytes 4 (o.1.1 ^^^ o.2.1.1).toNat),
      os.flatMap (fun o => leBytes 4 (o.1.2.1 ^^^ o.2.1.2.1).toNat),
      os.flatMap (fun o => leBytes 4 (o.1.2.2 ^^^ o.2.1.2.2).toNat)],
    poison := g.2 || h.2 || l.2 || a.2 || b.2,
    flags := os.foldl (fun f o => f ||| o.2.2.1) 0#7,
    bad := os.foldl (fun c o => c + o.2.2.2) 0 }

/-- A burst, or a half of one that the unit has read, written by the unit: it takes no slot of its channel. -/
def State.unitWrite (s : State) (a : Nat) (bs : List Byte) (p : Bool) : State :=
  if s.quarantined a then s
  else ({ (s.access a 0) with mem := wrBytes s.mem a bs }.newCode a (p || decide (bs.length < 64) && s.isPoisoned a)).noteWrite a bs p

def State.putShare (s : State) (sp : Span) (u : Nat × Nat × Nat) (i : Nat) (bs : List Byte) (p : Bool) : State :=
  match shareBurst sp u i with
  | some a => s.unitWrite a bs p
  | none => s

def State.putHalf (s : State) (sp : Span) (u : Nat × Nat × Nat) (i : Nat) (bs : List Byte) (p : Bool) : State :=
  match shareBurst sp u (i / 2) with
  | some a => s.unitWrite (a + 32 * (i % 2)) bs p
  | none => s

/-- The bursts that a TUPD reads for 16 elements of a unit noted (R215, R216). -/
def State.noteUpd (s : State) (rule : Nat) (sp : UpdSpans) (u : Nat × Nat × Nat) (i : Nat) : State :=
  ([(sp.grad, i), (sp.hi, i / 2), (sp.lo, i / 2), (sp.m1, i)] ++ (if rule = 0 then [(sp.m2, i)] else [])).foldl (fun (s : State) x =>
    match shareBurst x.1 u x.2 with
    | some a => s.noteUnit a
    | none => s) s

/-- A TUPD over one burst of a unit: state and ring written. -/
def State.updWrite (s : State) (rule : Nat) (k : UpdK) (sp : UpdSpans) (ring : Span) (cap pos n : Nat)
    (u : Nat × Nat × Nat) (i j cnt : Nat) : State × NFlags × Nat × Bool :=
  let o := s.updBurst rule k sp u i cnt
  let s := s.noteUpd rule sp u i
  let s := s.putHalf sp.hi u i o.hi o.poison
  let s := s.putHalf sp.lo u i o.lo o.poison
  let s := s.putShare sp.m1 u i o.m1 o.poison
  let s := if rule = 0 then s.putShare sp.m2 u i o.m2 o.poison else s
  let s := (wordKinds rule).foldl (fun s q => s.putShare ring u ((pos + q * n + j) % cap) (o.xor.getD q []) o.poison) s
  (s, o.flags, o.bad, o.poison)

/-- Where the window that the update records of a job read holds the constants of an entry: behind the tenants' windows (log entry 84). -/
def constKey (slot t i : Nat) : Nat := xKey (8 + slot * 16 + t / 4096) (t % 4096) i

/-- The constants of an entry written to that window of a die (R291), and read from it. -/
def TubDie.putConsts (t : TubDie) (slot e : Nat) (k : UpdK) : TubDie :=
  let bs := [k.gscale, k.negLr, k.keep, k.c1, k.c2, k.bc1, k.bc2].flatMap (fun w => leBytes 4 w.toNat)
  { t with xbuf := (List.range bs.length).foldl (fun m i => Sp.set 0#8 m (constKey slot e i) (bs.getD i 0#8)) t.xbuf }
def TubDie.constsAt (t : TubDie) (slot e : Nat) (j : JobRec) : UpdK :=
  let w (n : Nat) : W32 := BitVec.ofNat 32 (leVal ((List.range 4).map (fun i => Sp.get 0#8 t.xbuf (constKey slot e (4 * n + i)))))
  ⟨w 0, w 1, w 2, w 3, w 4, w 5, w 6, j.beta1, j.beta2, j.eps, j.mu⟩

/-- Dies that hold parts of a job. -/
def State.updDies (s : State) (k : Nat) : List Nat :=
  let j := s.job k
  (List.range 4).filter (fun d => (j.heldBy s.self).any (fun l => (s.entriesOf k).any (fun e =>
    s.partDie j.info.tenant j.info.job e.grad (j.slotOf l) == d)))

/-- R291: the constants of a step's records, for every entry on every die that holds parts, before its first TUPD. -/
def State.putConsts (s : State) (k : Nat) (d : UpdDec) : State :=
  let es := s.entriesOf k
  let j := (s.job k).info
  (s.updDies k).foldl (fun (s : State) die => (List.range es.length).foldl (fun (s : State) t =>
    let c := updConsts j d (es.getD t noEntry).wd
    (s.updTub die (fun u => u.putConsts k t c.1)).updUp die (fun u => { u with flags := u.flags ||| c.2 })) s) s

/-- The SEG records of a record's ring space, read back burst by burst: one for each unit and word kind. -/
def State.segsOf (s : State) (k : Nat) (key : UpdKey) (die share partLen first n : Nat) (ring : Span) (cap pos rule : Nat) :
    List WRec :=
  let j := (s.job k).info
  let st := (s.job k).upd.st.step + 1
  let us := allUnits.filter (fun u => decide (0 < elemCount partLen share u first n))
  let rs := us.flatMap (fun u => (wordKinds rule).map (fun q =>
    let c := elemCount partLen share u first n
    let bs := (List.range (ceilDiv c 16)).map (fun i => s.fullBurst ring u ((pos + q * n + i) % cap))
    (⟨2, 2 * b2n (bs.any (·.2)), j.job, st.toNat, segHdr key.1 key.2.1 q (elemBase share u first) c,
      (bs.flatMap (·.1)).take (4 * c), (die, 0)⟩ : WRec)))
  match rs.reverse with
  | [] => []
  | r :: more => ({ r with free := (die, (wordKinds rule).length * n) } :: more).reverse

/-- TUPD over one update record of a part; poison in its state is a module fault (R294, R466). -/
def State.opTupd (s : State) (k : Nat) (key : UpdKey) : State × TOut :=
  let j := s.job k
  match j.upd.dec with
  | none => (s, TOut.none)
  | some _ =>
    let e := s.entryAt k key.2.1
    let slot := j.slotOf key.1
    let span (id : Nat) : Span := s.partSpan j.info.tenant j.info.job id slot
    let sp : UpdSpans := ⟨span e.grad, span e.hi, span e.lo, span e.m1, span e.m2⟩
    let die := s.partDie j.info.tenant j.info.job e.grad slot
    let share := s.shareLen k e
    let rg := recRange e share key.2.2
    let ring : Span := s.partSpan j.info.tenant j.info.job (s.ringId j.info.tenant j.info.job) die
    let cap := max 1 (ringCap j.info)
    let pos := (Sp.get Ring.empty j.upd.rings die).pos
    let kk := (s.tubOf die).constsAt k key.2.1 j.info
    let kinds := (wordKinds j.info.rule).length
    let cells := allUnits.flatMap (fun u => (List.range (ceilDiv (elemCount e.partLen share u rg.1 rg.2) 16)).map (fun i => (u, i)))
    let o := cells.foldl (fun (a : State × NFlags × Nat × Bool) c =>
      let r := a.1.updWrite j.info.rule kk sp ring cap pos rg.2 c.1 (rg.1 + c.2) c.2 (elemCount e.partLen share c.1 (rg.1 + c.2) 1)
      (r.1, a.2.1 ||| r.2.1, a.2.2.1 + r.2.2.1, a.2.2.2 || r.2.2.2)) (s, 0#7, 0, false)
    let segs := o.1.segsOf k key die share e.partLen rg.1 rg.2 ring cap pos j.info.rule
    let s := o.1.updUpd k (fun u => { u with
      nonfinite := u.nonfinite + o.2.2.1
      poisoned := u.poisoned || o.2.2.2
      rings := Sp.upd Ring.empty u.rings die (fun r =>
        ⟨(r.pos + kinds * rg.2) % cap, r.used + (if segs = [] then 0 else kinds * rg.2)⟩)
      segOut := u.segOut ++ segs.map (fun r => (die, r)) })
    let s := s.updUp die (fun u => { u with flags := u.flags ||| o.2.1 })
    (if o.2.2.2 then s.moduleFault else s, ⟨0#7, o.2.2.2, false⟩)

end Sys2Proof.Machine
end

