-- ==== Sys2Proof/Machine/Tuber.lean ====
section
/-!
DEFINITION. Tuber command lists: acceptance, record starts, the operations and completion (R235 to R249).
-/

namespace Sys2Proof.Machine

/-! ### Lists -/

def State.listAt (s : State) (id : Nat) : Option TbList := s.lists.find? (fun l => l.id == id)
def State.setList (s : State) (l : TbList) : State := { s with lists := s.lists.map (fun m => if m.id = l.id then l else m) }

/-- A list handed to the controllers. -/
def State.addList (s : State) (f : ListFrom) (tenant nmode : Nat) (records : List Entry) (poisonIn : Bool) : State :=
  { s with
    lists := s.lists ++ [⟨s.nextList, f, tenant, nmode, records, 0, false, poisonIn, none, none, none, 0#7, false, false, 0⟩]
    nextList := s.nextList + 1 }

/-- TB_LIST taken from the queue (R235, R239). -/
def State.tbTake (s : State) (n k : Nat) (w : IWord) : State :=
  let p := w.pl
  let a := 64 * field 16 0 p
  let count := field 24 17 p
  let status := 16 * field 55 36 p
  let x := s.ctx n k
  let recs := (List.range count).map (fun i => entryOf (s.sram n (a + 64 * i) 64))
  if count = 0 ∨ !fits (a + 64 * count) ∨ !fits (status + 16) ∨ x.hitsSave status 16 ∨
      !recs.all (fun e => s.recOk x.prog.tenant false e) ∨
      recs.any (fun e => (trec e).op == 2 && s.virtHits n x.prog.tenant x ((trec e).x 32 6) (trec e).xferLen) then s.seqFault n k 2
  else (s.addList (.core n k (field 35 25 p) status) x.prog.tenant x.prog.nmode recs false).updCtx n k
    (fun x => { x with outCmds := x.outCmds + 1 })

/-! ### Spans, holds and paces (R240 to R242) -/

/-- The record that a list is at. -/
def TbList.current (l : TbList) : Option TRec := (l.records[l.done]?).map trec

/-- Where the record's share lies: by virtual address, or in the gradient span of a part. -/
def State.listSpan (s : State) (l : TbList) (r : TRec) : Span :=
  match l.from_ with
  | .partialOf k sh t _ =>
    let j := s.job k
    s.partSpan j.info.tenant j.info.job (s.entryAt k t).grad (j.slotOf sh)
  | .update k sh t _ =>
    let j := s.job k
    s.partSpan j.info.tenant j.info.job (s.entryAt k t).grad (j.slotOf sh)
  | _ => s.virtSpan l.tenant r.bandVa

/-- Whether the record touches the bursts of its shares. -/
def TRec.usesBands (r : TRec) : Bool := r.op == 1 || r.op == 2 || r.op == 4 || r.op == 6 || r.op == 7
/-- Whether it holds its banks and draws on the credit bucket. -/
def TRec.holds (r : TRec) : Bool := r.op == 4 || r.op == 6 || r.op == 7

/-- Whether a page of the record's bands is being moved (R249). -/
def State.bandsMove (s : State) (l : TbList) (r : TRec) : Bool :=
  match l.from_ with
  | .core _ _ _ _ | .host _ =>
    (List.range (15 * ((r.first + r.bursts - 1) / 240 + 1))).any (fun i =>
      let e := (s.pageOf l.tenant (r.bandVa + i * pageSize)).2
      e.moving)
  | _ => false

/-- Lane cycles of a record (R240, R293). -/
def TRec.laneCycles (r : TRec) (rule : Nat) : Nat :=
  match r.op with
  | 4 =>
    let passes := ceilDiv r.rows 16
    if r.cycle then
      (match OFmt.ofCode r.wfmt with
        | some w => r.kb w * ceilDiv r.outs 16 * passes
        | none => 0)
    else r.outs * r.groups * passes * (match OFmt.ofCode r.wfmt with
      | some w => if groupLen w = 32 then 2 else 1
      | none => 1)
  | 7 => r.bursts * (if rule = 0 then 8 else if rule = 1 then 3 else 4)
  | _ => 0

/-- Bursts that pass the column path, and bursts read, for each share burst of a record. -/
def TRec.columnBursts (r : TRec) (rule : Nat) : Nat := if r.op = 7 then r.bursts * (if rule = 0 then 10 else 7) else r.bursts
def TRec.readBursts (r : TRec) (rule : Nat) : Nat := if r.op = 7 then r.bursts * (if rule = 0 then 4 else 3) else r.bursts

/-- H in mc at pace `p` (R240), with `holes` refresh holes of tRFCpb each; where the lanes are slower than the column path, they fall into
the time that the array is idle (R242). -/
def TRec.hold (r : TRec) (rule holes p : Nat) : Nat :=
  let c := r.laneCycles rule
  let b := p * r.columnBursts rule
  if b < c then 30 + 2 * c else 30 + 2 * b + 112 * holes

/-- Nanoseconds of `n` mc, rounded up (R11). -/
def mcNs (n : Nat) : Nat := ceilDiv (n * 5) 4

/-- Paces of a protocol version (R241). -/
def paces (v : Nat) : List Nat := if v ≤ 1 then [8, 16] else [8, 10, 12, 16, 24, 32]

/-- The effective cap, coded as TB_CAP.cap: halved while the power and thermal controller signals its cap (R254, R460). -/
def State.effCap (s : State) (d : Nat) : Nat :=
  let c := (s.tubOf d).cap
  if c = 0 then 0 else if s.capOn then max 1 (c / 2) else c

/-- The cap in force in 1/32 B per nanosecond and package; none: no cap. -/
def State.tuberCap (s : State) (d : Nat) : Option Nat :=
  let c := s.effCap d
  if c = 0 then none else some (c * 500)

/-- Credit of a package now: accrued since its last change, up to the depth. -/
def State.creditNow (s : State) (d p : Nat) : Int :=
  let t := s.tubOf d
  let c := t.credit.getD p (0, 0)
  min ((t.depth * 65536 * 32 : Nat) : Int) (c.1 + (((s.now - c.2) * (s.tuberCap d).getD 0 : Nat) : Int))

/-- Every bucket brought up to now, before the cap or the depth changes. -/
def State.settleCredit (s : State) : State :=
  (List.range 4).foldl (fun (x : State) d => { x with tub := Sp.upd TubDie.reset x.tub d (fun t =>
    { t with credit := (List.range 8).map (fun p => (s.creditNow d p, s.now)) }) }) s

/-- Bytes that a record reads in one package, in 1/32 B. -/
def TRec.packageBytes (r : TRec) (rule p : Nat) : Nat :=
  32 * 64 * r.readBursts rule * ((r.units.filter (fun u => u.1 / 4 == p)).length)

/-- Packages of a record. -/
def TRec.packages (r : TRec) : List Nat := (List.range 8).filter (fun p => field (4 * p + 3) (4 * p) r.chans != 0)

/-- Whether a pace qualifies in every package (R241). -/
def State.paceOk (s : State) (d : Nat) (r : TRec) (rule holes p : Nat) : Bool :=
  match s.tuberCap d with
  | none => true
  | some cap => r.packages.all (fun k =>
      decide (0 ≤ s.creditNow d k - (r.packageBytes rule k : Int) + ((mcNs (r.hold rule holes p) * cap : Nat) : Int)))

def State.paceFor (s : State) (d : Nat) (r : TRec) (rule holes : Nat) : Option Nat :=
  (paces s.tuberVersion).find? (fun p => s.paceOk d r rule holes p)

/-- A record's bytes debited: what it draws on the accrual over its hold leaves the balance negative. -/
def TubDie.debit (t : TubDie) (cr : Nat → Int) (r : TRec) (rule now : Nat) : TubDie :=
  { t with credit := (List.range 8).map (fun p =>
      if r.packages.contains p then (cr p - (r.packageBytes rule p : Int), now) else t.credit.getD p (0, 0)) }

/-- Whether a maintenance beat of one of the record's channels begins before `t` or is in progress (R242). -/
def State.maintHits (s : State) (r : TRec) (t : Nat) : Bool :=
  let b0 := s.now / s.beatLen
  let b1 := t / s.beatLen
  (List.range (b1 + 1 - b0)).any (fun i =>
    let b := b0 + i
    b % s.maintPeriod == s.maintPeriod - 1 && bitN (b / s.maintPeriod % 32) r.chans)

/-- A record of another list has started on a bank of the record. -/
def State.banksHeld (s : State) (d : Nat) (l : TbList) (r : TRec) : Bool :=
  (s.tubOf d).holds.any (fun h => h.list != l.id && s.lists.any (fun m => m.id == h.list) && h.chans &&& r.chans != 0 &&
    h.ranks &&& r.ranks != 0 && h.banks &&& r.banks != 0)

/-- The exchange groups that a record waits on: set in every controller of its channels, and whether one is poisoned. -/
def State.xgroupsSet (s : State) (d : Nat) (r : TRec) : Bool × Bool :=
  if r.waitX then
    let gs := r.packages.map (fun p => (s.tubOf d).xgrp p r.xgroup)
    (gs.all (·.isSet), gs.any (·.poison))
  else (true, false)

/-- Rule of the job that an update list belongs to. -/
def State.listRule (s : State) (l : TbList) : Nat :=
  match l.from_ with
  | .update k _ _ _ => (s.job k).info.rule
  | _ => 0

/-- R279: a TPUT onto a band that the tenant may not write. -/
def State.putsRo (s : State) (l : TbList) (r : TRec) : Bool :=
  r.op == 1 && (List.range ((r.first + r.bursts - 1) / 240 - r.first / 240 + 1)).any (fun i =>
    s.bandRo l.tenant (r.bandVa + (r.first / 240 + i) * 15 * pageSize))

/-! ### Sources outside the module (R238, R251) -/

/-- Bytes that a record reads from its virtual source; 0 where it has none. -/
def TRec.sourceLen (r : TRec) : Nat := if r.op = 1 then r.xferLen else if r.op = 3 ∧ r.x 38 1 = 0 then r.latchSpan else 0

/-- Whether a virtual address lies in host memory (1) or tier 2 (2). -/
def State.outside (s : State) (tn va : Nat) : Nat :=
  match (s.pageOf tn va).2.dest with
  | .hostPage _ _ => 1
  | .tier2 _ _ => 2
  | _ => 0

/-- Whether a part of a record's source lies outside. -/
def State.sourceOut (s : State) (tn : Nat) (r : TRec) : Bool :=
  r.sourceLen != 0 && (List.range ((r.x 32 6 + r.sourceLen - 1) / 65536 - r.x 32 6 / 65536 + 1)).any (fun i =>
    s.outside tn ((r.x 32 6 / 65536 + i) * 65536) != 0)

/-- A piece of a source joined to what has been read; `bad` are its poisoned bursts, counted from the burst that its first byte lies in
at byte `head`. -/
def TbList.take (l : TbList) (head : Nat) (bs : List Byte) (bad : List Nat) : TbList :=
  let old := l.fetch.getD ([], [])
  let at_ (b : Nat) : List Nat :=
    let lo := (old.1.length + 64 * b - head) / 64
    let hi := (old.1.length + 64 * b + 63 - head) / 64
    if lo = hi then [lo] else [lo, hi]
  { l with dma := none, fetch := some (old.1 ++ bs, old.2 ++ bad.flatMap at_) }

/-- The answer of host memory or of the guest die to a list's read. -/
def State.listFetched (s : State) (l : Nat) (id : Bool × Nat) (head : Nat) (bs : List Byte) (bad : List Nat) : State :=
  match s.listAt l with
  | some x => if x.dma = some id then s.setList (x.take head bs bad) else s
  | none => s

/-- The next piece of a record's source read: asked for outside, or taken at once where it lies on the module. -/
def State.fetchSource (s : State) (l : TbList) (r : TRec) : Nat → State
  | 0 => s
  | fuel + 1 =>
    let got := (l.fetch.getD ([], [])).1.length
    let va := r.x 32 6 + got
    let rest := r.sourceLen - got
    if rest = 0 then s.setList l
    else
      let n := min rest (65536 - va % 65536)
      match s.hostAddr l.tenant va, s.outside l.tenant va, s.physOf l.tenant va with
      | some h, _, _ =>
        let o := s.dmaRead (.list l.id) h n
        o.1.setList { l with dma := some (false, o.2) }
      | none, 2, some p =>
        let o := (s.heatRead l.tenant va n).guestSend (.listRead l.id p n)
        o.1.setList { l with dma := some (true, o.2) }
      | _, _, _ =>
        let o := s.readVirt l.tenant va n (n / 64 + 2)
        (s.noteVirt l.tenant va n 2).fetchSource (l.take 0 o.1 (if o.2 then allBursts 0 n else [])) r fuel

/-- Whether all of a source that lies outside is here. -/
def TbList.fetched (l : TbList) (r : TRec) : Bool := decide (r.sourceLen ≤ (l.fetch.getD ([], [])).1.length)

/-! ### What an update record waits for (R37, R294, R301, R303, R464) -/

/-- The step before the one decided is not sealed. -/
def State.sealMissing (s : State) (k : Nat) : Bool :=
  match (s.job k).upd.dec with
  | some d => (s.job k).upd.st.sealed != d.next.step - 1
  | none => true

/-- The ring of a die has no room for a record's words. -/
def State.ringFull (s : State) (k die : Nat) (r : TRec) : Bool :=
  let j := s.job k
  decide (ringCap j.info < (Sp.get Ring.empty j.upd.rings die).used + (wordKinds j.info.rule).length * r.bursts)

/-- Whether a TUPD of a job may begin on a die: the first of a step waits for the seal of the step before, for a snapshot or an apply, and
for the acknowledgment of its decision; each waits for room in the ring. -/
def State.updMayStart (s : State) (k die : Nat) (r : TRec) : Bool :=
  let j := s.job k
  (s.updBegun k || (!s.sealMissing k && j.upd.snap.isNone && j.upd.ops.isEmpty &&
    !s.watchOut.any (fun w => w.kind == 0x22 && w.job == j.info.job))) && !s.ringFull k die r

def State.listMayStart (s : State) (l : TbList) (die : Nat) (r : TRec) : Bool :=
  match l.from_ with
  | .update k _ _ _ => s.updMayStart k die r
  | _ => true

/-- A TUPD that may not begin: its wait for the seal is counted per die; where the ring is full, the SEG records of the step go out before
its STEP, so that room is freed (log entry 86). -/
def State.updWaits (s : State) (l : TbList) (die : Nat) (r : TRec) : State :=
  match l.from_ with
  | .update k _ _ _ =>
    let s := if !s.updBegun k && s.sealMissing k && !(s.job k).upd.waitFrom.any (fun w => w.1 == die) then
        s.updUpd k (fun u => { u with waitFrom := u.waitFrom ++ [(die, s.now)] })
      else s
    if s.ringFull k die r then s.flushSegs k else s
  | _ => s

/-! ### A record starts -/

/-- The record of a list that may start does (R240): its pace is fixed, its bytes are debited, and its banks are its own. -/
def State.recordStart (s : State) (l : TbList) (d : Nat) (r : TRec) (poison : Bool) (p : Nat) : State :=
  let rule := s.listRule l
  let waited := match l.waitFrom with
    | some t => ceilDiv ((s.now - t) * 2) 5
    | none => 0
  let s := s.setList { l with running := true, poisonIn := poison, waitFrom := none }
  let s := if r.usesBands then s.updTub d (fun t => { t with holds := t.holds ++ [⟨l.id, r.chans, r.ranks, r.banks⟩] }) else s
  if r.holds then
    let cr (k : Nat) : Int := s.creditNow d k
    s.updTub d (fun t =>
      { t.debit cr r rule s.now with waitCyc := t.waitCyc + BitVec.ofNat 64 waited, paced := if 8 < p then s.beats.beat + 1 else t.paced })
  else s

/-- TUBER_RECORD_START: the next record of a list starts if nothing holds it back. -/
def execTuberRecordStart (start : RecordAt) (s : State) : Out :=
  match s.listAt start.list with
  | none => .next s
  | some l =>
    match l.current with
    | none => .next s
    | some r =>
      if l.running || l.code != 0 || s.stopped then .next s
      else
        let sp := s.listSpan l r
        match sp 0 with
        | none => .next (s.setList { l with code := 3 })
        | some b =>
          let d := b.1
          let rule := s.listRule l
          if r.usesBands && !spanOk sp r.first r.bursts then .next (s.setList { l with code := 3 })
          else if s.putsRo l r then .next (s.setList { l with code := 4 })
          else if s.bandsMove l r || (r.usesBands && s.banksHeld d l r) then .next s
          else if !s.listMayStart l d r then .next (s.updWaits l d r)
          else
            let g := s.xgroupsSet d r
            if !g.1 then .next s
            else if s.sourceOut l.tenant r && !l.fetched r then
              .next (if l.dma.isSome then s else s.fetchSource l r (r.sourceLen / 65536 + 3))
            else if !r.holds then .next (s.recordStart l d r g.2 8)
            else
              match s.paceFor d r rule start.holes with
              | none => .next (s.setList { l with waitFrom := some (l.waitFrom.getD s.now) })
              | some p =>
                let h := r.hold rule start.holes p
                if s.maintHits r (s.now + mcNs h) || (decide (112 < h) && s.grantsNow d != 0) then .next s
                else .next (s.recordStart l d r g.2 p)

/-! ### What a running record does -/

/-- The running record ends: its banks are free, counters, and what it adds to the list's status. -/
def State.recordDone (s : State) (l : TbList) (d : Nat) (r : TRec) (o : TOut) : State :=
  let rule := s.listRule l
  let bytes := if r.holds then r.units.length * r.readBursts rule * 64 else 0
  (s.setList { l with done := l.done + 1, running := false, poisonIn := false, dma := none, fetch := none,
                      flags := l.flags ||| o.flags, poison := l.poison || o.poison || l.poisonIn, quar := l.quar || o.quar }).updTub d
    (fun t => { t with
      holds := t.holds.filter (fun h => h.list != l.id)
      records := t.records + 1
      rdBytes := t.rdBytes + BitVec.ofNat 64 bytes
      poison := satAdd32 t.poison (b2n (o.poison || l.poisonIn)) })

/-- A record of operation `op` of a list that is running; `f` says what it does. Accesses that waited for its banks are served, and the
errors that it met handled. -/
def State.recordStep (s : State) (list op : Nat) (f : TbList → Nat → TRec → State × TOut) : Out :=
  match s.listAt list with
  | none => .next s
  | some l =>
    match l.current with
    | none => .next s
    | some r =>
      if l.running && r.op == op then
        let d := match s.listSpan l r 0 with
          | some b => b.1
          | none => 0
        let o := f l d r
        .next (o.1.recordDone l d r o.2).serveWaiting.settle
      else .next s

def execTput (list : Nat) (s : State) : Out :=
  s.recordStep list 1 (fun l _ r => s.opTput l.tenant (s.listSpan l r) r l.fetch)
def execTget (list : Nat) (s : State) : Out := s.recordStep list 2 (fun l _ r => s.opTget l.tenant (s.listSpan l r) r)
def execTlatch (list : Nat) (s : State) : Out := s.recordStep list 3 (fun l d r => s.opTlatch d l.tenant r l.fetch)
def execTmv (list : Nat) (s : State) : Out :=
  s.recordStep list 4 (fun l d r => s.opTmv d l.tenant (NMode.ofNat l.nmode) (s.listSpan l r) r l.poisonIn)

/-- TSQ of the update sequencer: the record partial is kept until all have landed (R285); a non-finite one is logged
(R286). -/
def State.partialStep (s : State) (k sh t rec : Nat) : State × TOut :=
  let j := s.job k
  let e := s.entryAt k t
  let share := s.shareLen k e
  let rg := recRange e share rec
  let sp := s.partSpan j.info.tenant j.info.job e.grad (j.slotOf sh)
  let q := s.recordPartial sp e.partLen share rg.1 rg.2
  let p := s.sharePoison sp e.partLen share rg.1 rg.2
  let s := (s.noteShares sp (trec (tsqRecord rg.1 rg.2))).updTub (s.partDie j.info.tenant j.info.job e.grad (j.slotOf sh)) (fun t =>
    allUnits.foldl (fun t u => t.keepSq u rg.1 (s.shareOf sp u rg.1 rg.2) (s.unitSq sp e.partLen share rg.1 rg.2 u).1 false) t)
  let s := s.updUpd k (fun u => { u with parts := Sp.set noPartial u.parts (partKey (sh, t, rec)) (q.1, p.1) })
  let s := if isFinite32 q.1 || p.1 then s
    else s.logAs 4 (s.partDie j.info.tenant j.info.job e.grad (j.slotOf sh)) 0x0044 1 (some j.info.tenant)
      [(1, k), (4, sh), (2, t), (2, rec)]
  (s, ⟨q.2, p.1, p.2⟩)

def execTsq (list : Nat) (s : State) : Out :=
  s.recordStep list 6 (fun l d r =>
    match l.from_ with
    | .partialOf k sh t rec => s.partialStep k sh t rec
    | _ => s.opTsq d l.tenant (NMode.ofNat l.nmode) (s.listSpan l r) r l.poisonIn)

def execTupd (list : Nat) (s : State) : Out :=
  s.recordStep list 7 (fun l _ _ =>
    match l.from_ with
    | .update k sh t rec => s.opTupd k (sh, t, rec)
    | _ => (s, TOut.none))

def execTarm (list : Nat) (s : State) : Out := s.recordStep list 8 (fun _ d r => (s.opTarm d r, TOut.none))

/-- A TEW record of one subcode. -/
def State.tewRow (s : State) (list sub : Nat) : Out :=
  match (s.listAt list).bind TbList.current with
  | some r =>
    if r.x 32 1 = sub then s.recordStep list 5 (fun l d r => s.opTew d l.tenant (NMode.ofNat l.nmode) r) else .next s
  | none => .next s

def execTewAdd (list : Nat) (s : State) : Out := s.tewRow list 0x00
def execTewMul (list : Nat) (s : State) : Out := s.tewRow list 0x01
def execTewFma (list : Nat) (s : State) : Out := s.tewRow list 0x02
def execTewMax (list : Nat) (s : State) : Out := s.tewRow list 0x03
def execTewExp (list : Nat) (s : State) : Out := s.tewRow list 0x04
def execTewGate (list : Nat) (s : State) : Out := s.tewRow list 0x05
def execTewRotary (list : Nat) (s : State) : Out := s.tewRow list 0x06
def execTewConvert (list : Nat) (s : State) : Out := s.tewRow list 0x07
def execTewRowMax (list : Nat) (s : State) : Out := s.tewRow list 0x08
def execTewRowSum (list : Nat) (s : State) : Out := s.tewRow list 0x09
def execTewDivide (list : Nat) (s : State) : Out := s.tewRow list 0x0A

/-! ### Completion (R228, R246) -/

/-- Every latch, accumulator and queue entry of a unit set to zero. -/
def TubDie.clearUnit (t : TubDie) (u : Nat × Nat × Nat) : TubDie :=
  let n := unitNo u
  { t with
    latch := Sp.eraseRange (n * 32768) ((n + 1) * 32768) t.latch
    lscale := Sp.eraseRange (n * 1024) ((n + 1) * 1024) t.lscale
    rowLatch := Sp.eraseRange (n * 2) ((n + 1) * 2) t.rowLatch
    acc := Sp.eraseRange (n * 512) ((n + 1) * 512) t.acc
    lpois := Sp.eraseRange (n * 64) ((n + 1) * 64) t.lpois
    queue := Sp.eraseRange (n * 2048) ((n + 1) * 2048) t.queue
    qpois := Sp.eraseRange (n * 2048) ((n + 1) * 2048) t.qpois }

/-- Units of a list cleared, and its flags entered in TB_NFLAGS of the home dies. -/
def State.clearList (s : State) (l : TbList) : State :=
  l.records.foldl (fun s e =>
    let r := trec e
    match s.listSpan l r 0 with
    | some b => s.updTub b.1 (fun t => { r.units.foldl TubDie.clearUnit t with flags := t.flags ||| l.flags })
    | none => s) s

/-- The 16 B completion status (R246). -/
def TbList.status (l : TbList) (now : Nat) : List Byte :=
  leBytes 4 (l.flags.toNat + 256 * b2n l.poison + 512 * b2n l.quar + 4096 * l.code) ++ leBytes 4 l.done ++ leBytes 8 now

/-- A command list ends: its units are cleared, and whoever it belongs to learns of it (R228, R246). -/
def State.listComplete (s : State) (list : Nat) : State :=
  match s.listAt list with
  | none => s
  | some l =>
    if l.running || (decide (l.done < l.records.length) && l.code == 0) then s
    else
      let s := (s.clearList l)
      let s := { s with lists := s.lists.filter (fun m => m.id != list) }
      match l.from_ with
      | .core n k g st =>
        ((s.setSram n st (l.status s.now)).updCtx n k (fun x => { x with outCmds := x.outCmds - 1 })).arrive n k g
          (l.poison || l.code != 0)
      | .host e =>
        s.finish l.tenant e (if l.code ≠ 0 then 4 else if l.poison then 5 else 0) 0 [(32, 16, leVal (l.status s.now))]
      | .partialOf _ _ _ _ => s
      | .update k sh t r => s.updUpd k (fun u => { u with left := u.left.filter (· != (sh, t, r)) })

end Sys2Proof.Machine
end

