-- ==== Sys2Proof/Machine/Tiers.lean ====
section
/-!
DEFINITION. Tier-2 tensors, heat, promotion and quotas as commands (R256 to R275).
-/

namespace Sys2Proof.Machine

/-- R259: a tier-2 status in a completion record. -/
def State.t2Finish (s : State) (tn : Nat) (e : Entry) (code : Nat) : State := s.finish tn e (if code = 0 then 0 else 1) code []

/-! ### Tier-2 tensors (R258 to R262) -/

/-- The directory entry of a tier-2 tensor that the image names. -/
def State.t2Named (s : State) (tn id : Nat) : Option TensorRec :=
  match s.image with
  | some im => im.tensors.find? (fun t => t.kind == 9 && t.tenant == tn && t.t2id == id)
  | none => none

/-- Whether an admitted job reads a tier-2 tensor. -/
def State.t2InUse (s : State) (tn id : Nat) : Bool :=
  match s.image with
  | some im => im.tensors.any (fun t => t.kind == 9 && t.tenant == tn && t.t2id == id &&
      s.jobs.any (fun j => j.2.life != .none && j.2.info.tenant == tn && (t.job == 0xFFFF || t.job == j.2.info.job)))
  | none => false

def State.t2UsedPages (s : State) : List Nat := s.t2.flatMap (fun t => t.2.pages)

/-- Units of 4 KiB of a tensor. -/
def T2Tensor.units (t : T2Tensor) : Nat := ceilDiv t.size 4096
/-- Physical address of a unit. -/
def T2Tensor.unitAddr (t : T2Tensor) (u : Nat) : Nat := tier2Base + nth t.pages (u / 512) * pageSize + u % 512 * 4096

/-- A tensor's pages unmapped and freed; it is Absent. -/
def State.t2Free (s : State) (key : Nat) : State :=
  let t := s.t2At key
  let tn := keyTenant key
  let s := s.unmapBig tn t.va t.pages.length
  let s := s.updTenant tn (fun x => { x with use2 := x.use2 - t.pages.length })
  (s.setT2 key T2Tensor.none).reportQuota tn

/-- T2_OPEN (R258, R259). -/
def State.t2Open (s : State) (tn : Nat) (e : Entry) : State :=
  let id := entryField e 16 3
  let size := entryField e 24 8
  let key := t2Key tn id
  let n := ceilDiv size pageSize
  let x := s.tenant tn
  if x.over1 || x.over2 then s.t2Finish tn e 0x0A
  else if (s.t2At key).state ≠ .absent then s.t2Finish tn e 3
  else if x.quota2 < x.use2 + n then s.t2Finish tn e 1
  else if tier2Pages < s.t2Used + n then s.t2Finish tn e 2
  else
    let named := s.t2Named tn id
    let va := match named with
      | some t => t.va
      | none => s.freshVa tn pageSize (n * pageSize)
    let cls := match named with
      | some t => t.cls
      | none => 0
    let pages := pickT2 s.t2UsedPages (Config.flashChoice s.free) (n + s.t2UsedPages.length) n
    let s := (s.bump.setT2 key { T2Tensor.none with state := .loading, size := size, va := va, pages := pages, cls := cls })
    let s := s.mapBig tn va false (fun i => .tier2 (nth pages i) key) (List.range n)
    (s.updTenant tn (fun x => { x with use2 := x.use2 + n })).t2Finish tn e 0

/-- Units stored in the flash, the last padded with zero bytes, and the guest die told to write them. -/
def State.t2Store (s : State) (tn : Nat) (e : Entry) (data : List Byte) (poison : Bool) : State :=
  let key := t2Key tn (entryField e 16 3)
  let first := entryField e 20 4
  let n := entryField e 24 4
  let t := s.t2At key
  if t.state ≠ .loading then s.t2Finish tn e 0x0B
  else if poison then
    (s.setT2 key { t with written := (List.range n).foldl (fun w i => Sp.set false w (first + i) false) t.written }).finish tn e 5 0 []
  else
    let bs := (data.take (t.size - first * 4096)) ++ zeros (first * 4096 + n * 4096 - t.size)
    let mem := (List.range n).foldl (fun m i => wrBytes m (t.unitAddr (first + i)) ((bs.drop (4096 * i)).take 4096)) s.mem
    ({ s with mem := mem }.guestSend (.write tn e)).1

/-- The guest die has stored the units of a T2_WRITE, or has failed to: then the pages are freed and the tensor is Absent (R260). -/
def State.t2Stored (s : State) (tn : Nat) (e : Entry) (ok : Bool) : State :=
  let key := t2Key tn (entryField e 16 3)
  let first := entryField e 20 4
  if ok then
    (s.updT2 key (fun t => if t.state = .loading then
        { t with stored := (List.range (entryField e 24 4)).foldl (fun w i => Sp.set false w (first + i) true) t.stored }
      else t)).t2Finish tn e 0
  else (if (s.t2At key).state = .loading then s.t2Free key else s).t2Finish tn e 8

/-- T2_WRITE (R259, R260, R409). -/
def State.t2Write (s : State) (tn : Nat) (e : Entry) : State :=
  let key := t2Key tn (entryField e 16 3)
  let first := entryField e 20 4
  let n := entryField e 24 4
  let rg := (s.tenant tn).region (entryField e 28 1)
  let off := entryField e 32 8
  let t := s.t2At key
  let len := min (n * 4096) (t.size - first * 4096)
  if n = 0 ∨ 65536 < n then s.finish tn e 2 0 []
  else if t.state ≠ .loading then s.t2Finish tn e 0x0B
  else if t.units < first + n then s.t2Finish tn e 4
  else if (List.range n).any (fun i => Sp.get false t.written (first + i)) then s.t2Finish tn e 5
  else if rg.len = 0 ∨ rg.len < off + len then s.finish tn e 4 0 []
  else
    let s := s.setT2 key { t with written := (List.range n).foldl (fun w i => Sp.set false w (first + i) true) t.written }
    if rg.host then (s.dmaRead (.t2write tn e) (rg.base + off) len).1
    else
      let d := s.readVirt tn (rg.va + off) len (len / 64 + 2)
      ((s.noteVirt tn (rg.va + off) len (len / 64 + 2)).t2Store tn e d.1 d.2).settle

/-- T2_SEAL (R259, R260): the guest die checks that every unit has been written, and commits. -/
def State.t2Seal (s : State) (tn : Nat) (e : Entry) : State :=
  let key := t2Key tn (entryField e 16 3)
  let t := s.t2At key
  if t.state ≠ .loading then s.t2Finish tn e 0x0B
  else ((s.setT2 key { t with state := .sealing, whole := (List.range t.units).all (fun u => Sp.get false t.stored u), crc := entryField e 20 4, sealCmd := e }).guestSend (.seal key)).1

/-- The stored bytes of a tensor. -/
def State.t2Bytes (s : State) (t : T2Tensor) : List Byte :=
  (t.pages.flatMap (fun p => rdBytes s.mem (tier2Base + p * pageSize) pageSize)).take t.size

/-- The end of a seal (R260): `ok` is false where the flash failed. -/
def State.sealCommit (s : State) (key : Nat) (ok : Bool) : State :=
  let t := s.t2At key
  let tn := keyTenant key
  if t.state ≠ .sealing then s
  else
    let s := { s with guest := { s.guest with cmds := s.guest.cmds.filter (fun c => c.kind != GKind.seal key) } }
    if !ok then (s.t2Free key).t2Finish tn t.sealCmd 8
    else if !t.whole then (s.t2Free key).t2Finish tn t.sealCmd 6
    else if crc32 (s.t2Bytes t) ≠ t.crc then (s.t2Free key).t2Finish tn t.sealCmd 7
    else (s.setT2 key { t with state := .sealed }).t2Finish tn t.sealCmd 0

/-- T2_ABORT (R259). -/
def State.t2Abort (s : State) (tn : Nat) (e : Entry) : State :=
  let key := t2Key tn (entryField e 16 3)
  if (s.t2At key).state ≠ .loading then s.t2Finish tn e 0x0B else (s.t2Free key).t2Finish tn e 0

/-- T2_DELETE (R259, R262). -/
def State.t2Delete (s : State) (tn : Nat) (e : Entry) : State :=
  let id := entryField e 16 3
  let key := t2Key tn id
  let t := s.t2At key
  if t.state ≠ .sealed ∧ t.state ≠ .damaged then s.t2Finish tn e 0x0B
  else if s.t2InUse tn id then s.t2Finish tn e 9
  else
    let s := match s.tiers.copying with
      | some (k, _) => if k = key then s.stopPromotion else s
      | none => s
    let s := { s with tiers := { s.tiers with queue := s.tiers.queue.filter (fun q => q.1 != key) } }
    (((s.dropCopy key).setT2 key { (s.dropCopy key).t2At key with state := .deleting }).t2Free key).t2Finish tn e 0

/-- T2_SEAL_COMMIT (R260): the guest die answers a seal. -/
def execT2SealCommit (tenant id : Nat) (ok : Bool) (s : State) : Out := .next (s.sealCommit (t2Key tenant id) ok)

/-! ### Heat and promotion (R264 to R267) -/

/-- A tensor at the end of an epoch: queued, dropped or left (R265). -/
def State.epochTensor (s : State) (key : Nat) : State :=
  let t := s.t2At key
  let h := t.meanHeat
  if t.cls ≠ 0 then s
  else if t.copy = [] then
    if s.tiers.promote ≤ h ∧ (s.promotable key).isSome = true ∧ !s.tiers.queue.any (fun q => q.1 == key) ∧
        s.tiers.copying.map (·.1) ≠ some key ∧ s.tiers.promEnable then
      { s with tiers := { s.tiers with queue := s.tiers.queue ++ [(key, h)] } }
    else s
  else if h < s.tiers.drop then s.dropCopy key
  else s

/-- Every counter halved, rounding down. -/
def T2Tensor.halve (t : T2Tensor) : T2Tensor :=
  { t with heat := (t.heat.filter (fun h => h.2 / 2 != 0)).map (fun h => (h.1, h.2 / 2)) }

/-- Beats of a heat epoch, and the beat at which the epoch in progress ends (R265). -/
def TierSt.epochLen (t : TierSt) : Nat := 2 ^ (4 + t.heatExp)
def TierSt.epochEnd (t : TierSt) : Nat := (t.epoch / t.epochLen + 1) * t.epochLen

/-- Every tensor at an epoch end. -/
def State.endEpoch (s : State) : State :=
  let s := { s with tiers := { s.tiers with epoch := s.tiers.epochEnd } }
  let s' := (s.t2.map (·.1)).foldl (fun s k => s.epochTensor k) s
  (s'.t2.map (·.1)).foldl (fun s k => s.updT2 k T2Tensor.halve) s'

/-- HEAT_EPOCH_END (R265): once per epoch, when its last beat has ended. -/
def execHeatEpochEnd (s : State) : Out :=
  if s.tiers.epochEnd ≤ s.beats.beat then .next s.endEpoch else .next s

/-- The entry of the promotion queue that is taken next: descending heat, then ascending key. -/
def hottest : List (Nat × Nat) → Option (Nat × Nat)
  | [] => none
  | q :: qs =>
    match hottest qs with
    | none => some q
    | some r => if r.2 < q.2 ∨ (r.2 = q.2 ∧ q.1 < r.1) then some q else some r

/-- PROMOTION_BEGIN (R266, R267 step 1). -/
def execPromotionBegin (s : State) : Out :=
  if s.tiers.copying.isSome || !s.tiers.promEnable || s.tiers.admitting || s.stopped then .next s
  else
    match hottest s.tiers.queue with
    | none => .next s
    | some (key, _) =>
      let s := { s with tiers := { s.tiers with queue := s.tiers.queue.filter (fun q => q.1 != key) } }
      match s.promotable key with
      | none => .next s
      | some d =>
        match s.allocFrames d (s.t2At key).pages.length (keyTenant key, 0xFFFF, .copy key) with
        | none => .next s
        | some (s, fs) =>
          let s := { s with tiers := { s.tiers with copying := some (key, fs) } }
          .next (s.guestSend (.copy key)).1

/-- PROMOTION_COPY_COMPLETE (R267 steps 2 to 4, R270). -/
def execPromotionCopyComplete (s : State) : Out :=
  match s.tiers.copying with
  | none => .next s
  | some (key, fs) =>
    let t := s.t2At key
    let tn := keyTenant key
    let x := s.tenant tn
    if t.state = .sealed ∧ x.use1 ≤ x.quota1 then
      let s := (List.range fs.length).foldl (fun s i => s.fillFrame (tier2Base + nth t.pages i * pageSize) (nth fs i)) s
      let s := s.mapBig tn t.va true (fun i => .tier1 (nth fs i) true) (List.range fs.length)
      let s := s.setT2 key { t with copy := fs }
      .next { s with
        tiers := { s.tiers with copying := none, promotions := satAdd32 s.tiers.promotions 1 }
        guest := { s.guest with cmds := s.guest.cmds.filter (fun c => c.kind != GKind.copy key) } }
    else .next s.stopPromotion

/-- R261: a tier-2 tensor becomes Damaged; a promoted copy of it is dropped, a copy in progress stops. -/
def State.t2Damage (s : State) (key : Nat) : State :=
  let t := s.t2At key
  if t.state ≠ .sealed then s
  else
    let s := match s.tiers.copying with
      | some (k, _) => if k = key then s.stopPromotion else s
      | none => s
    let s := (s.dropCopy key).updT2 key (fun t => { t with state := .damaged })
    s.logAs 0x0D 0 0x0050 2 (some (keyTenant key)) [(3, key % 2 ^ 24), (1, 4)]

/-- QUOTA_CHANGE (R271, R275, R414). -/
def execQuotaChange (who : Who) (tenant tier pages : Nat) (s : State) : Out :=
  let a := tnAddr tenant (if tier = 1 then 0x08 else 0x0C)
  if (!who.isDriver && !who.isSteward) || (s.tenant tenant).state == 0 then .next (s.logDiscard a who true)
  else .next (s.setQuota tenant tier pages)

end Sys2Proof.Machine
end

