-- ==== Sys2Proof/Machine/Update.lean ====
section
/-!
DEFINITION. The update sequencer: its instructions, the step stages, snapshots and acknowledgments (R282 to R302, R464).
-/

namespace Sys2Proof.Machine

/-! ### Snapshots and applies (R301) -/

def State.arriveAt (s : State) (g : Nat × Nat × Nat) : State := s.arrive g.1 g.2.1 g.2.2 false

/-- An outbound command of a context ends with an arrival. -/
def State.outDone (s : State) (g : Nat × Nat × Nat) : State :=
  (s.updCtx g.1 g.2.1 (fun x => { x with outCmds := x.outCmds - 1 })).arriveAt g

/-- The tensor that holds a word kind of an entry. -/
def UpdEntry.momentOf (e : UpdEntry) (kind : Nat) : Nat := if kind = 1 then e.m1 else e.m2

/-- The stored word of kind `kind` of logical element `i`, with its poison (R278, R280). -/
def State.updWord (s : State) (k : Nat) (l t kind i : Nat) : W32 × Bool :=
  let j := s.job k
  let e := s.entryAt k t
  let share := max 1 (s.shareLen k e)
  let u0 := i / (16 * share)
  let u := (u0 / 64, u0 / 16 % 4, u0 % 16)
  let b := i / 16 % share
  let sp (id : Nat) : Span := s.partSpan j.info.tenant j.info.job id (j.slotOf l)
  if kind = 0 then
    let h := s.halfBurst (sp e.hi) u b
    let w := s.halfBurst (sp e.lo) u b
    (BitVec.ofNat 32 ((word16 h.1 (i % 16)).toNat * 65536 + (word16 w.1 (i % 16)).toNat), h.2 || w.2)
  else
    let m := s.fullBurst (sp (e.momentOf kind)) u b
    (word32 m.1 (i % 16), m.2)

/-- A stored word written. -/
def State.putUpdWord (s : State) (k : Nat) (l t kind i : Nat) (v : W32) (p : Bool) : State :=
  let j := s.job k
  let e := s.entryAt k t
  let share := max 1 (s.shareLen k e)
  let u0 := i / (16 * share)
  let u := (u0 / 64, u0 / 16 % 4, u0 % 16)
  let b := i / 16 % share
  let sp (id : Nat) : Span := s.partSpan j.info.tenant j.info.job id (j.slotOf l)
  let put (s : State) (id burst off : Nat) (bs : List Byte) : State := match shareBurst (sp id) u burst with
    | some a => s.wrPiece (a + off) bs p
    | none => s
  if kind = 0 then
    put (put s e.hi (b / 2) (32 * (b % 2) + 2 * (i % 16)) (leBytes 2 (v.toNat / 65536))) e.lo (b / 2)
      (32 * (b % 2) + 2 * (i % 16)) (leBytes 2 v.toNat)
  else put s (e.momentOf kind) b (4 * (i % 16)) (leBytes 4 v.toNat)

/-- The SEG records of a snapshot: for every part, bank and word kind its words. -/
def State.snapSegs (s : State) (k : Nat) : List (Nat × WRec) :=
  let j := s.job k
  let es := s.entriesOf k
  (j.heldBy s.self).flatMap (fun l => (List.range es.length).flatMap (fun t =>
    let e := es.getD t noEntry
    let share := s.shareLen k e
    let die := s.partDie j.info.tenant j.info.job e.grad (j.slotOf l)
    (allUnits.filter (fun u => decide (0 < elemCount e.partLen share u 0 share))).flatMap (fun u =>
      (wordKinds j.info.rule).map (fun q =>
        let n := elemCount e.partLen share u 0 share
        let ws := (List.range n).map (fun i => s.updWord k l t q (elemBase share u 0 + i))
        (die, (⟨2, 1 + 2 * b2n (ws.any (·.2)), j.info.job, j.upd.st.step.toNat, segHdr l t q (elemBase share u 0) n,
          ws.flatMap (fun w => leBytes 4 w.1.toNat), (die, 0)⟩ : WRec))))))

/-- The frames of the residuals of a shard: those of the job's residual tensors (R314). -/
def State.residuals (s : State) (k : Nat) : List TensorRec :=
  match s.image with
  | some im => im.tensors.filter (fun t => t.kind == 5 && t.tenant == (s.job k).info.tenant && t.job == (s.job k).info.job)
  | none => []

/-- Physical address of the residual word of element `i` (counted from the leaf's first) of a leaf. -/
def State.leafWord (s : State) (k : Nat) (f : Leaf) (i : Nat) : Option Nat :=
  let j := s.job k
  let off := f.off + 4 * i
  (s.partFrame j.info.tenant j.info.job f.resid (j.slotOf f.shard) (off / pageSize)).map (fun g => g * pageSize + off % pageSize)

/-- An RBASE record of `n` words of a leaf from element `e0` on. -/
def baseRec (job step shard tensor e0 : Nat) (ws : List (W32 × Bool)) : WRec :=
  ⟨0x13, b2n (ws.any (·.2)), job, step, leBytes 4 shard ++ leBytes 4 tensor ++ leBytes 5 e0 ++ leBytes 3 ws.length,
    ws.flatMap (fun w => leBytes 4 w.1.toNat), (0, 0)⟩

/-- Key of a residual word of a leaf: shard, tensor, element; and the parts of a key. -/
def residKey (shard tensor e : Nat) : Nat := (shard * 2 ^ 24 + tensor) * 2 ^ 44 + e

/-- RBASE records of every residual word of the job's leaves on this module, up to 16,384 words each (R315, R316): of the leaves that
compressions have named, and of words that a takeover has restored and no compression has named yet. Every other residual is zero
(log entry 87). -/
def State.baseRecs (s : State) (k : Nat) : List WRec :=
  let j := s.job k
  let held := j.upd.leafs.filter (fun f => (j.heldBy s.self).contains f.shard)
  held.flatMap (fun f => (List.range (ceilDiv f.count 16384)).map (fun q =>
    baseRec j.info.job j.upd.st.step.toNat f.shard f.tensor (f.origin + 16384 * q) ((List.range (min 16384 (f.count - 16384 * q))).map (fun i =>
      match s.leafWord k f (16384 * q + i) with
      | some a => let o := s.rdPhys a 4; (word32 o.1 0, o.2)
      | none => (0#32, true))))) ++
  j.upd.restored.map (fun w => baseRec j.info.job j.upd.st.step.toNat (w.1 / 2 ^ 68) (w.1 / 2 ^ 44 % 2 ^ 24) (w.1 % 2 ^ 44) [w.2])

/-! ### Ends that wait for residual records (R316) -/

/-- Whether residual records that have not been acknowledged hold an END or a SNAP_END back. -/
def State.endHeld (s : State) (r : WRec) : Bool :=
  s.watchOut.any (fun w => w.job == r.job && (if r.kind = 3 then (w.kind == 0x11 || w.kind == 0x12) && w.step == r.step else w.kind == 0x13))

/-- END and SNAP_END records that nothing holds back sent, in their order. -/
def State.emitEnds (s : State) (k : Nat) : List WRec → State
  | [] => s.updUpd k (fun u => { u with ends := [] })
  | r :: rest =>
    if s.endHeld r then s.updUpd k (fun u => { u with ends := r :: rest })
    else
      let s := s.emit k 0 r
      (if r.kind = 3 then s.updUpd k (fun u => { u with endAt := u.endAt ++ [(BitVec.ofNat 32 r.step, leVal ((r.hdr.drop 8).take 4), leVal ((r.hdr.drop 12).take 4))] })
       else s).emitEnds k rest

def State.pumpEnds (s : State) (k : Nat) : State := s.emitEnds k (s.job k).upd.ends
def State.sendEnd (s : State) (k : Nat) (r : WRec) : State := (s.updUpd k (fun u => { u with ends := u.ends ++ [r] })).pumpEnds k

/-- The bursts that a snapshot reads noted (R215, R216). -/
def State.noteSnap (s : State) (k : Nat) : State :=
  let j := s.job k
  (j.heldBy s.self).foldl (fun (s : State) l => (s.entriesOf k).foldl (fun (s : State) e =>
    ([e.hi, e.lo, e.m1] ++ (if e.m2 = 0xFFFFFF then [] else [e.m2])).foldl (fun (s : State) id =>
      (List.range (match s.tensorRec j.info.tenant j.info.job id with
        | some t => t.size
        | none => 0)).foldl (fun (s : State) q => match s.partFrame j.info.tenant j.info.job id (j.slotOf l) q with
          | some f => s.noteFrame f 1
          | none => s) s) s) s) s

/-- UPD_SNAP runs (R301): SNAP_BEGIN, the words, the residuals, SNAP_END. -/
def State.runSnap (s : State) (k : Nat) (o : UpdOp) : State :=
  let j := s.job k
  let st := j.upd.st
  let mark (kind : Nat) (data : List Byte) : WRec :=
    ⟨kind, 0, j.info.job, st.step.toNat, leBytes 4 st.step.toNat ++ zeros 12, data, (0, 0)⟩
  let s1 := s.emit k 0 (mark 4 st.bytes)
  let s2 := (s.snapSegs k).foldl (fun s r => s.emit k r.1 r.2) (s1.noteSnap k)
  let s3 := if s.watched then { s2 with watchOut := s2.watchOut ++ s.baseRecs k } else s2
  (s3.updUpd k (fun u => { u with snap := some (o.core, o.ctx, o.doneGrp) })).sendEnd k (mark 5 [])

/-- The exponent of a loss scale that a snapshot may carry (R301). -/
def scaleExp (j : JobRec) (w : W32) : Option Int :=
  ((List.range 49).map (fun (i : Nat) => (i : Int) - 24)).find? (fun e => decide (j.eMin ≤ e) && decide (e ≤ j.eMax) && pow2 e == w)

/-- The step state that 64 bytes spell (R287). -/
def stepOf (bs : List Byte) (exp : Int) : StepSt :=
  let w (i : Nat) : W32 := BitVec.ofNat 32 (leVal ((bs.drop i).take 4))
  { step := w 0, applied := w 4, exp := exp, run := w 12, outcome := leVal ((bs.drop 16).take 1), g := w 20, lr := w 24,
    p1 := w 28, p2 := w 32, sealed := w 36, nonfinite := w 40 }

/-- The words of a SEG record applied: written where base is set, XORed otherwise. -/
def State.applyWords (s : State) (k l t kind e0 : Nat) (base p : Bool) (data : List Byte) (n : Nat) : State :=
  (List.range n).foldl (fun s i =>
    let v := word32 data i
    let old := s.updWord k l t kind (e0 + i)
    s.putUpdWord k l t kind (e0 + i) (if base then v else old.1 ^^^ v) p) s

/-- One record of an apply: none where it stops the job. -/
def State.applyRec (s : State) (k : Nat) (h data : List Byte) : Option State :=
  let j := s.job k
  let f (o n : Nat) : Nat := leVal ((h.drop o).take n)
  match f 0 1 with
  | 2 =>
    let l := f 16 4 % 2 ^ 20
    let t := f 20 2
    let kind := f 22 1
    let n := f 28 4
    if decide (j.map.length ≤ l) || decide ((s.entriesOf k).length ≤ t) || !(wordKinds j.info.rule).contains kind ||
        decide ((s.entryAt k t).partLen < f 24 4 + n) || data.length != 4 * n then none
    else if (j.heldBy s.self).contains l then some (s.applyWords k l t kind (f 24 4) (bitN 0 (f 1 1)) (bitN 1 (f 1 1)) data n)
    else some s
  | 4 =>
    if data.length ≠ 64 then none
    else
      match scaleExp j.info (word32 data 2) with
      | none => none
      | some e =>
        let st := stepOf data e
        some ((s.setStep k st).mapJobCtxs j.info (fun x => { x with stepReg := st.step + 1 }))
  | 1 => some s
  | 3 => some s
  | 5 => some s
  | 6 => some s
  | _ => none

/-- The records of a tensor applied from offset `pos` on, up to the end or to the first that stops the apply; and whether it came to the
end. A poisoned read stops the apply as a bad crc does. -/
def State.applyFrom (s : State) (k tn va size pos : Nat) : Nat → State × Bool
  | 0 => (s, true)
  | fuel + 1 =>
    if pos = size then (s, true)
    else if size < pos + 32 then (s, false)
    else
      let hr := s.readVirt tn (va + pos) 32 3
      let s := s.noteVirt tn (va + pos) 32 2
      let h := hr.1
      if hr.2 then (s, false)
      else if h.all (· == 0#8) then (s, true)
      else
        let len := leVal ((h.drop 8).take 4)
        if size < pos + 32 + len then (s, false)
        else
          let dr := s.readVirt tn (va + pos + 32) len (len / 64 + 2)
          let s := s.noteVirt tn (va + pos + 32) len (len / 65536 + 2)
          let data := dr.1
          let crc := leVal ((h.drop 12).take 4)
          if dr.2 || crc32 (h.take 12 ++ zeros 4 ++ h.drop 16 ++ data) != crc then (s, false)
          else
            match s.applyRec k h data with
            | none => (s, false)
            | some s' => s'.applyFrom k tn va size (pos + 32 + len) fuel

/-- UPD_APPLY runs; where it stops, the job fails, and the records before stay applied. -/
def State.runApply (s : State) (k : Nat) (o : UpdOp) : State :=
  let j := (s.job k).info
  let r := match s.tensorRec j.tenant j.job o.tensor with
    | some t => s.applyFrom k j.tenant t.va (t.size * pageSize) 0 (t.size * 65536 + 1)
    | none => (s, false)
  if r.2 then r.1.outDone (o.core, o.ctx, o.doneGrp)
  else (r.1.updCtx o.core o.ctx (fun x => { x with outCmds := x.outCmds - 1 })).stopJob k 0x200

/-- UPD_SNAP and UPD_APPLY wait until no TUPD is under way; a snapshot also for the seal of the last step. -/
def State.runOps (s : State) (k : Nat) : Nat → State
  | 0 => s
  | fuel + 1 =>
    let u := (s.job k).upd
    let idle := u.dec.isNone || !s.updBegun k
    match u.ops with
    | [] => s
    | o :: rest =>
      if !idle || u.snap.isSome || (!o.apply && u.st.sealed != u.st.step) then s
      else
        let s := s.updUpd k (fun u => { u with ops := rest })
        (if o.apply then s.runApply k o else s.runSnap k o).runOps k fuel

/-- The operations that may run do; the errors that their reads meet are handled behind them (R215, R216). -/
def State.pumpOps (s : State) (k : Nat) : State := (s.runOps k ((s.job k).upd.ops.length + 1)).settle

/-! ### The instructions (R282 to R284) -/

def State.updTake (s : State) (n k : Nat) (w : IWord) : State :=
  let p := w.pl
  let slot := field 3 0 p
  let x := s.ctx n k
  let j := s.job slot
  let doneGrp := field 14 4 p
  if j.life = .none ∨ j.info.tenant ≠ x.prog.tenant ∨ (w.opc = 3 ∧ s.entriesOf slot ≠ []) ∨
      (w.opc = 0 ∧ field 57 26 p ≠ x.stepReg.toNat) then s.seqFault n k 2
  else
    match w.opc with
    | 0 =>
      (s.updCtx n k (fun x => { x with stepReg := x.stepReg + 1 })).updUpd slot (fun u =>
        { u with issues := u.issues ++ [⟨x.stepReg, n, k, doneGrp, field 25 15 p⟩] })
    | 3 =>
      ((s.updCtx n k (fun x => { x with stepReg := x.stepReg + 1 })).setStep slot { j.upd.st with step := x.stepReg }).arriveAt
        (n, k, doneGrp)
    | _ =>
      ((s.updCtx n k (fun x => { x with outCmds := x.outCmds + 1 })).updUpd slot (fun u =>
        { u with ops := u.ops ++ [⟨w.opc == 2, n, k, doneGrp, field 81 58 p⟩] })).pumpOps slot

/-! ### Gradients and the norm (R285, R375, R377) -/

/-- The TUPD record of an update record. -/
def tupdRecord (first n : Nat) : Entry :=
  mkEntry [(0, 1, 7), (3, 1, 0x60), (4, 2, 0xFFFF), (6, 1, 0x0F), (7, 1, 1), (8, 4, 0xFFFFFFFF), (20, 3, first), (24, 3, n), (28, 2, 1)]

/-- The table entry of an instance. -/
def State.collEntry (s : State) (k id : Nat) : Option CollEntry :=
  match s.image with
  | some im =>
    (match im.colls.find? (fun c => c.job == (s.job k).info.job) with
      | some c => c.entries.find? (fun e => e.id == id)
      | none => none)
  | none => none

/-- Whether an instance has summed a record of a gradient span and not reported it yet (R375). -/
def State.sumsReady (s : State) (i : CollInst) (k sh t rec : Nat) : Bool :=
  i.job == k && (match s.collEntry k i.coll with
    | some e => e.dstKind == 1 && e.t == t
    | none => false) && i.step == (s.job k).upd.st.step + 1 &&
    i.sums.any (fun o => o.shard == sh && o.written.contains rec && !o.reported.contains rec)

def OwnSum.report (o : OwnSum) (sh rec : Nat) : OwnSum := if o.shard = sh then { o with reported := o.reported ++ [rec] } else o

/-- ESEG records of a gradient record (R463): one for each bank. -/
def State.esegs (s : State) (k sh t rec : Nat) : List WRec :=
  let j := s.job k
  let e := s.entryAt k t
  let share := s.shareLen k e
  let rg := recRange e share rec
  let sp := s.partSpan j.info.tenant j.info.job e.grad (j.slotOf sh)
  (allUnits.filter (fun u => decide (0 < elemCount e.partLen share u rg.1 rg.2))).map (fun u =>
    let n := elemCount e.partLen share u rg.1 rg.2
    let bs := (List.range (ceilDiv n 16)).map (fun i => s.fullBurst sp u (rg.1 + i))
    ⟨0x21, b2n (bs.any (·.2)), j.info.job, j.upd.st.step.toNat + 1, segHdr sh t 0 (elemBase share u rg.1) n,
      (bs.flatMap (·.1)).take (4 * n), (0, 0)⟩)

/-- GRADIENT_RECORD_LANDED. -/
def execGradientRecordLanded (slot shard entry record : Nat) (s : State) : Out :=
  if (s.job slot).life = .running ∧ s.coll.insts.any (fun i => s.sumsReady i slot shard entry record) = true then
    let s1 := { s with coll := { s.coll with insts := s.coll.insts.map (fun i =>
      if s.sumsReady i slot shard entry record then { i with sums := i.sums.map (fun (o : OwnSum) => o.report shard record) } else i) } }
    let s2 := s1.updUpd slot (fun u => { u with landed := u.landed ++ [(shard, entry, record)] })
    let s3 := if s.watched then { s2 with watchOut := s2.watchOut ++ s.esegs slot shard entry record } else s2
    let e := s.entryAt slot entry
    let rg := recRange e (s.shareLen slot e) record
    .next (s3.addList (.partialOf slot shard entry record) (s.job slot).info.tenant 0 [tsqRecord rg.1 rg.2] false)
  else .next s

/-- The shard partial of a held shard, once every record partial is there (R285). -/
def State.shardPartial (s : State) (k l : Nat) : Option (W32 × Bool) :=
  let u := (s.job k).upd
  let es := s.entriesOf k
  let keys := (List.range es.length).flatMap (fun t => (List.range (es.getD t noEntry).records).map (fun r => (l, t, r)))
  if keys.all (fun p => u.landed.contains p && Sp.get noPartial u.parts (partKey p) != noPartial) then
    some (keys.foldl (fun a p =>
      let q := Sp.get noPartial u.parts (partKey p)
      ((add32 a.1 q.1).1, a.2 || q.2)) (negZero32, false))
  else none

/-- Every context that issues UPD_STEP has done so for a step (R284). -/
def State.stepIssued (s : State) (k : Nat) (n : W32) : Bool :=
  let j := s.job k
  (List.range 4).all (fun d =>
    decide (j.info.stepCtxs.getD d 0 ≤ (j.upd.issues.filter (fun i => i.step == n && i.core / 16 == d)).length))

/-- Key of a shard partial of a stage. -/
def stageKey (p l : Nat) : Nat := p * 2 ^ 20 + l

/-- All shard partials of a step, over stages in ascending order and within a stage over shards (R377): those held here
and those received. -/
def State.allPartials (s : State) (k : Nat) : Option (List (W32 × Bool)) :=
  let j := s.job k
  let maps := j.allMaps
  ((List.range maps.length).flatMap (fun p => (List.range (maps.getD p []).length).map (fun l => (p, l)))).mapM (fun x =>
    if x.1 = j.stage ∧ (j.map.getD x.2 (0, 0)).1 = s.self then s.shardPartial k x.2
    else if Sp.get noPartial j.upd.shards (stageKey x.1 x.2) = noPartial then none
    else some (Sp.get noPartial j.upd.shards (stageKey x.1 x.2)))

/-- The update stage of a decided step ends (R287, R298, R299): the step state is written; STEP, the SEG records and END are sent; the
done arrivals are given. -/
def State.stageEnd (s : State) (k : Nat) (d : UpdDec) : State :=
  let j := s.job k
  let u := j.upd
  let st := { d.next with nonfinite := BitVec.ofNat 32 (min u.nonfinite (2 ^ 32 - 1)), sealed := u.st.sealed }
  let s := s.setStep k st
  let s := s.emit k 0 ⟨1, 0, j.info.job, st.step.toNat,
    leBytes 1 d.outcome ++ zeros 3 ++ leBytes 4 (pow2 st.exp).toNat ++ leBytes 4 st.g.toNat ++ leBytes 4 st.lr.toNat, st.bytes, (0, 0)⟩
  let s := s.flushSegs k
  let v := (s.job k).upd
  let s := s.sendEnd k ⟨3, 0, j.info.job, st.step.toNat, leBytes 8 v.bytes ++ leBytes 4 v.segs ++ leBytes 4 v.crcs, [], (0, 0)⟩
  let s := s.updUpd k (fun u => { u with
    dec := none, left := [], landed := [], parts := [], shards := [], waitNorm := false, nonfinite := 0,
    segs := 0, crcs := 0, bytes := 0, last := d.outcome, rend := false, leaves := 0, rsegs := 0, rcrc := 0, fails := (0#32, 0) })
  (u.issues.filter (fun i => i.step == st.step)).foldl (fun s i => s.arriveAt (i.core, i.ctx, i.doneGrp)) s

/-- The contexts that wait for the end of an update stage start again (R467 step 5). -/
def State.replayed (s : State) (k : Nat) : State := if (s.job k).upd.replay then s.restartJob k (s.job k).replayStep else s

/-- G, the decision, and what follows from it (R286 to R291). -/
def State.normStep (s : State) (k : Nat) (qs : List (W32 × Bool)) : State :=
  let j := s.job k
  let n := j.upd.st.step + 1
  let g := qs.foldl (fun a q => (add32 a q.1).1) negZero32
  let c := decide286 j.info j.upd.st.exp g (qs.any (·.2))
  let nx := stateAfter j.info j.upd.st n c.1 g
  let d : UpdDec := ⟨c.1, c.2.1, nx.1⟩
  let dies := s.updDies k
  let flag (s : State) : State := dies.foldl (fun s d => s.updUp d (fun u => { u with flags := u.flags ||| c.2.2 ||| nx.2 })) s
  if c.1 = 4 then (s.updUpd k (fun u => { u with last := 4 })).stepStop k 2
  else
    let s := flag s
    let s := if s.watched then
        { s with watchOut := s.watchOut ++ [⟨0x22, 0, j.info.job, n.toNat, leBytes 1 c.1 ++ zeros 3 ++
          leBytes 4 (pow2 nx.1.exp).toNat ++ leBytes 4 g.toNat ++ leBytes 4 nx.1.lr.toNat, [], (0, 0)⟩] }
      else s
    if c.1 = 1 then
      let keys := s.updKeys k
      let s := (s.updUpd k (fun u => { u with dec := some d, left := keys, nonfinite := 0, waitNorm := false })).putConsts k d
      keys.foldl (fun s p =>
        let e := s.entryAt k p.2.1
        let rg := recRange e (s.shareLen k e) p.2.2
        s.addList (.update k p.1 p.2.1 p.2.2) j.info.tenant 0 [tupdRecord rg.1 rg.2] false) s
    else
      let s := s.logAs 4 (dies.headD 0) 0x0043 1 (some j.info.tenant) [(1, k), (4, n.toNat), (1, c.1)]
      let s := dies.foldl (fun s d => s.updUp d (fun u => { u with skips := satAdd32 u.skips 1 })) s
      ((s.updUpd k (fun u => { u with nonfinite := 0 })).stageEnd k d).replayed k

/-- GLOBAL_NORM_COMPLETE: every issue of the step is there (or a takeover decides from the escrow, R467 step 4), and every partial. -/
def execGlobalNormComplete (slot : Nat) (s : State) : Out :=
  let j := s.job slot
  if j.life = .running ∧ j.upd.dec.isNone = true ∧ s.entriesOf slot ≠ [] ∧
      (s.stepIssued slot (j.upd.st.step + 1) || j.upd.replay) = true ∧ s.stopped = false then
    match s.allPartials slot with
    | some qs => .next (s.normStep slot qs)
    | none => .next s
  else .next s

/-- UPDATE_STAGE_END: the last TUPD of the step has completed. -/
def execUpdateStageEnd (slot : Nat) (s : State) : Out :=
  match (s.job slot).upd.dec with
  | some d => if (s.job slot).upd.left = [] then .next ((s.stageEnd slot d).replayed slot) else .next s
  | none => .next s

/-! ### Acknowledgments (R300, R463, R464) -/

/-- The oldest record of the session, a SEG of the job, is acknowledged; its ring space is freed. -/
def State.segAck (s : State) (slot : Nat) : State :=
  match s.watchOut with
  | r :: rest =>
    if r.kind = 2 ∧ r.job = (s.job slot).info.job ∧ (s.job slot).life ≠ .none then
      { s with watchOut := rest }.updUpd slot (fun u =>
        { u with rings := Sp.upd Ring.empty u.rings r.free.1 (fun q => { q with used := q.used - r.free.2 }) })
    else s
  | [] => s

/-- The TUPDs that waited for the seal wait for it no longer: UP_SEALWAIT counts how long they did (R303). -/
def State.sealWaits (s : State) (k : Nat) : State :=
  ((s.job k).upd.waitFrom.foldl (fun (s : State) w => s.updUp w.1 (fun u => { u with sealWait := u.sealWait + BitVec.ofNat 64 (s.now - w.2) })) s).updUpd k
    (fun u => { u with waitFrom := [] })

/-- END is acknowledged: the step is sealed when the count and the digest match (R300). -/
def State.endAck (s : State) (slot count digest : Nat) : State :=
  match s.watchOut, (s.job slot).upd.endAt with
  | r :: rest, e :: es =>
    let u := (s.job slot).upd
    if r.kind = 3 ∧ r.job = (s.job slot).info.job ∧ e.2.1 = count ∧ e.2.2 = digest ∧ u.poisoned = false ∧ u.hostHold = [] then
      let s := ({ s with watchOut := rest }.setStep slot { u.st with sealed := e.1 }).sealWaits slot
      let s := (u.issues.filter (fun i => i.step == e.1)).foldl (fun s i => s.arriveAt (i.core, i.ctx, i.sealGrp)) s
      (s.updUpd slot (fun u => { u with
        endAt := es, issues := u.issues.filter (fun i => i.step != e.1), undo := u.undo.filter (fun x => decide (e.1.toNat < x.1)) })).pumpOps slot
    else s
  | _, _ => s

/-- What the acknowledgment of a record other than SEG and END does. A snapshot of the steward (R301) has no issuer. -/
def State.recordAcked (s : State) (r : WRec) : State :=
  if r.kind = 0x24 then
    let q := leVal (r.hdr.take 1)
    let i := BitVec.ofNat 32 (leVal ((r.hdr.drop 4).take 4))
    (s.updTenant r.job (fun t => t.setQueue q { t.queue q with acked := i + 1 })).flushQueue r.job q
  else if r.kind = 5 then
    match s.jobs.find? (fun j => j.2.info.job == r.job && j.2.upd.snap.isSome) with
    | some (k, j) =>
      (match j.upd.snap with
        | some g =>
          let s := s.updUpd k (fun u => { u with snap := none })
          (if g.1 < 64 then s.outDone g else s).pumpOps k
        | none => s)
    | none => s
  else if r.kind = 0x22 then
    if s.watch.planned.isSome then { s with watch := { s.watch with edecs := s.watch.edecs ++ [r.job] } } else s
  else s

/-- The oldest record of the session is acknowledged (R463). -/
def State.recordAck (s : State) : State :=
  match s.watchOut with
  | r :: rest =>
    if r.kind = 2 ∨ r.kind = 3 then s
    else (s.jobs.map (·.1)).foldl (fun (s : State) k => s.pumpEnds k) ({ s with watchOut := rest }.recordAcked r)
  | [] => s

end Sys2Proof.Machine
end

