-- ==== Sys2Proof/Machine/Admit.lean ====
section
/-!
DEFINITION. Admission of jobs: footprints, near-bank parts, retention, SRAM windows, zero-fill (R223, R233, R271 to R276,
R280, R297, R366, R382).
-/

namespace Sys2Proof.Machine

/-! ### Bands (R233) -/

def dieBands : Nat := 16384

/-- Whether all 15 pages of a band are free. -/
def bandFree (frames : Sp Frame) (d b : Nat) : Bool :=
  Sp.countRange (d * dieFrames + 15 * b) (d * dieFrames + 15 * (b + 1)) frames == 0

/-- `n` free bands of a die, looked for from `start` on; no more than the die's bands are looked at, so that none is taken twice. -/
def pickBands (frames : Sp Frame) (d start : Nat) : Nat → Nat → List Nat
  | 0, _ => []
  | fuel + 1, n =>
    if n = 0 then []
    else
      let b := start % dieBands
      if bandFree frames d b then b :: pickBands frames d (start + 1) fuel (n - 1) else pickBands frames d (start + 1) fuel n

/-- A near-bank tensor of `pages` pages in whole bands of a die; `use` names the owner of each page. None where the die
lacks bands. -/
def State.allocBands (s : State) (d pages tn job : Nat) (use : Nat → FrameUse) : Option State :=
  let n := ceilDiv pages 15
  let bs := pickBands s.frames d (Config.frameChoice s.free) (min (n + s.frames.length) dieBands) n
  if bs.length = n then
    let fs := bs.flatMap (fun b => (List.range 15).map (fun q => d * dieFrames + 15 * b + q))
    some (((List.range fs.length).foldl (fun s i => s.giveFrame (tn, job, use i) (fs.getD i 0)) s.bump).updTenant tn
      (fun t => { t with use1 := t.use1 + 15 * n }))
  else none

/-- Pages of a near-bank tensor: whole bands (R233). -/
def bandPages (n : Nat) : Nat := 15 * ceilDiv n 15

/-- Home die of a tensor that needs `n` free pages (R257). -/
def State.homeOf (s : State) (t : TensorRec) (n : Nat) : Nat :=
  if t.home < 4 then t.home else (s.bestDie (fun d => decide (n ≤ s.freeOnDie d))).getD 0

/-- The frames of an owner's uses, mapped at consecutive virtual pages from `va`. -/
def State.mapUse (s : State) (tn va n : Nat) (ro : Bool) (o : Nat → Nat × Nat × FrameUse) : State :=
  s.mapBig tn va false (fun i =>
    match s.frames.find? (fun f => f.2.owner == some (o i)) with
    | some f => .tier1 f.1 ro
    | none => .unmapped) (List.range n)

/-! ### Parts of shards (R280, R314, R365) -/

/-- Tensors of a job that a shard holds parts of: those of its update set, with their kinds, and its residuals. -/
def State.partTensors (s : State) (k : Nat) : List TensorRec :=
  let j := (s.job k).info
  let ids := (s.entriesOf k).flatMap (fun e => [e.grad, e.hi, e.lo, e.m1] ++ (if e.m2 = 0xFFFFFF then [] else [e.m2]))
  ids.filterMap (fun id => s.tensorRec j.tenant j.job id) ++ s.residuals k

/-- Where the part of a tensor in a shard slot is mapped; none for update-only tensors and residuals (R279, R314). -/
def TensorRec.partVa (t : TensorRec) (slot : Nat) : Option Nat :=
  if t.kind = 1 ∨ t.kind = 4 then some (t.va + slot * t.size * pageSize) else none

/-- A part of a tensor in a shard slot allocated on a die, and mapped. -/
def State.allocPart (s : State) (job slot d : Nat) (t : TensorRec) : Option State :=
  let r :=
    if t.kind = 5 then
      (s.allocFrames d t.size (t.tenant, job, .part t.id slot 0)).map (fun (a : State × List Nat) =>
        (List.range a.2.length).foldl (fun (s : State) i =>
          s.setFrame (a.2.getD i 0) { Frame.free with owner := some (t.tenant, job, .part t.id slot i) }) a.1)
    else s.allocBands d t.size t.tenant job (fun i => .part t.id slot i)
  match r with
  | none => none
  | some s =>
    match t.partVa slot with
    | some va => some (s.mapUse t.tenant va (bandPages t.size) (t.kind == 4) (fun i => (t.tenant, job, .part t.id slot i)))
    | none => some s

/-- The parts of every update-set entry, and the residuals, for a shard slot; the five tensors of an entry on one die. -/
def State.allocSlot (s : State) (k slot : Nat) : Option State :=
  let j := (s.job k).info
  let entry (a : Option State) (e : UpdEntry) : Option State :=
    match a with
    | none => none
    | some s =>
      match s.tensorRec j.tenant j.job e.grad with
      | none => none
      | some g =>
        let d := s.homeOf g (5 * g.size)
        ([e.grad, e.hi, e.lo, e.m1] ++ (if e.m2 = 0xFFFFFF then [] else [e.m2])).foldl (fun (a : Option State) id =>
          match a with
          | none => none
          | some s =>
            match s.tensorRec j.tenant j.job id with
            | some t => s.allocPart j.job slot d t
            | none => none) (some s)
  let resid (a : Option State) (t : TensorRec) : Option State :=
    match a with
    | none => none
    | some s => s.allocPart j.job slot (s.homeOf t t.size) t
  (s.residuals k).foldl resid ((s.entriesOf k).foldl entry (some s))

/-- The pages of a shard slot's parts freed and unmapped. -/
def State.freeSlot (s : State) (k slot : Nat) : State :=
  let j := (s.job k).info
  s.freeFrames j.tenant (fun o => o.1 == j.tenant && o.2.1 == j.job &&
    (match o.2.2 with
      | .part id sl _ => sl == slot && s.ringId j.tenant j.job != id
      | _ => false))

/-! ### The footprint of a job (R273) -/

/-- Dense and near-bank tensors that belong to no shard part, staging included. -/
def State.plainTensors (s : State) (k : Nat) : List TensorRec :=
  let j := (s.job k).info
  let parts := (s.partTensors k).map (·.id)
  match s.image with
  | some im => im.tensors.filter (fun t => t.tenant == j.tenant && (t.kind == 0 || t.kind == 1 || t.kind == 7) && !parts.contains t.id &&
      (t.job == j.job || (t.job == 0xFFFF && s.frames.all (fun f => f.2.owner != some (t.tenant, 0xFFFF, .tensor t.id true)))))
  | none => []

def State.allocPlain (s : State) (t : TensorRec) : Option State :=
  let d := s.homeOf t t.size
  if t.kind = 1 then
    (s.allocBands d t.size t.tenant t.job (fun _ => .tensor t.id true)).map (fun s' =>
      let fs := (s'.frames.filter (fun f => f.2.owner == some (t.tenant, t.job, .tensor t.id true))).map (·.1)
      s'.mapBig t.tenant t.va false (fun i => .tier1 (nth fs i) false) (List.range (bandPages t.size)))
  else
    (s.allocFrames d t.size (t.tenant, t.job, .tensor t.id true)).map (fun (a : State × List Nat) =>
      a.1.mapBig t.tenant t.va false (fun i => .tier1 (nth a.2 i) false) (List.range t.size))

/-- The difference rings of a job on dies that hold parts of it and have none (R297). -/
def State.allocRings (s : State) (k : Nat) (dies : List Nat) : Option State :=
  let j := (s.job k).info
  let id := s.ringId j.tenant j.job
  dies.foldl (fun (a : Option State) d => a.bind (fun s =>
    if (s.partFrame j.tenant j.job id d 0).isSome then some s
    else s.allocBands d (15 * j.ringBands) j.tenant j.job (fun i => .part id d i))) (some s)

/-- The page of a job's step state (R287), mapped read-only into the tenant's space where the steward chose (log entry 88). -/
def State.allocStep (s : State) (k : Nat) : Option State :=
  let j := (s.job k).info
  match s.bestDie (fun d => decide (0 < s.freeOnDie d)) with
  | none => none
  | some d => (s.allocFrames d 1 (j.tenant, j.job, .stepState j.slot)).map (fun (a : State × List Nat) =>
      let f := a.2.headD 0
      (a.1.mapBig j.tenant (a.1.freshVa j.tenant pageSize pageSize) false (fun _ => .tier1 f true) [0]).bump.updUpd k
        (fun u => { u with page := some f }))

/-- The other members that hold shards of a job, on every stage of it: the entries of its request table (R371). -/
def State.peers (s : State) (k : Nat) : Nat :=
  (((s.job k).allMaps.flatMap (fun m => m.map (·.1))).eraseDups.filter (· != s.self)).length

/-- The request table of a job (R371): one entry of 16 B for each peer, in tier 1. -/
def State.allocTable (s : State) (k : Nat) : Option State :=
  let j := (s.job k).info
  let n := ceilDiv (16 * s.peers k) pageSize
  if n = 0 then some s
  else (s.bestDie (fun d => decide (n ≤ s.freeOnDie d))).bind (fun d =>
    (s.allocFrames d n (j.tenant, j.job, .requests j.slot)).map (·.1))

/-- The mandatory tier-1 pages of a job allocated; none where some tensor's die lacks room. -/
def State.allocJob (s : State) (k : Nat) : Option State :=
  let plain := (s.plainTensors k).foldl (fun (a : Option State) t =>
    match a with
    | none => none
    | some s => s.allocPlain t) (some s)
  let parts := ((s.job k).heldBy s.self).foldl (fun (a : Option State) l =>
    match a with
    | none => none
    | some s => s.allocSlot k ((s.job k).slotOf l)) plain
  (((parts.bind (fun s => s.allocRings k (s.updDies k))).bind (fun s => s.allocStep k)).bind (fun s => s.allocTable k)).map (fun s =>
    s.setStep k (s.job k).upd.st)

/-- Retention entries of a job, in layer order. -/
def State.retentions (s : State) (j : JobRec) : List TensorRec :=
  match s.image with
  | some im => im.tensors.filter (fun t => t.kind == 6 && t.tenant == j.tenant && t.job == j.job)
  | none => []

/-- R273 step 3: pages of a retention entry on the die that the directory names, or else that with most room; none where it has not
enough (R257). -/
def State.grantLayer (s : State) (j : JobRec) (l : Nat) (t : TensorRec) : Option (State × List Nat) :=
  match s.bestDie (fun d => decide (j.layerPages ≤ s.freeOnDie d) && (decide (4 ≤ t.home) || d == t.home)) with
  | none => none
  | some d => s.allocFrames d j.layerPages (j.tenant, j.job, .retention l)

/-- R382: an entry that is not granted lies on a slot of the staging. -/
def State.stageLayer (s : State) (j : JobRec) (l : Nat) (t : TensorRec) : State :=
  match s.image with
  | some im =>
    (match im.tensors.find? (fun x => x.kind == 7 && x.tenant == j.tenant && x.job == j.job) with
      | some g => s.mapBig j.tenant t.va false (fun i =>
          (s.pageOf j.tenant (g.va + (l % max 1 j.staging * j.layerPages + i) * pageSize)).2.dest) (List.range t.size)
      | none => s)
  | none => s

/-- The retention entries in layer order: granted while they fit, and from the first that does not on the staging. The answer is the
state and how many are granted. -/
def State.mapLayers (s : State) (j : JobRec) (n : Nat) : State × Nat :=
  let ts := s.retentions j
  (List.range ts.length).foldl (fun (a : State × Nat) l =>
    match ts[l]? with
    | some t =>
      (match (if a.2 = l ∧ l < n then a.1.grantLayer j l t else none) with
        | some g => (g.1.mapBig j.tenant t.va false (fun i => .tier1 (nth g.2 i) false) (List.range t.size), l + 1)
        | none => (a.1.stageLayer j l t, a.2))
    | none => a) (s, 0)

/-- The kind-10 windows of a job mapped (R445). -/
def State.mapWindows (s : State) (j : JobRec) : State :=
  (s.jobWindows j).foldl (fun (s : State) t => (List.range t.size).foldl (fun (s : State) i =>
    let w := Config.windowPlace t.tenant t.id + i
    let dest : PageTo := if t.core < 64 then .coreWin t.core (w % 128) else .dieWin (t.core % 4) (w % 1024)
    s.setPage (pageKey t.tenant (t.va / 65536 + i)) ⟨dest, false, false⟩) s) s

/-- Windows granted on the whole module. -/
def State.windowsUsed (s : State) : Nat := s.tenants.foldl (fun a t => a + t.2.use0) 0

/-- Pages that promoted copies hold. -/
def State.copyPages (s : State) : Nat := s.t2.foldl (fun a t => a + t.2.copy.length) 0

/-- R273 step 1, R274: the refusal code of the tier part, 0 for none. The checks are taken in code order behind that of
the over-quota state. -/
def State.tierCode (s : State) (j : JobRec) : Nat :=
  let t := s.tenant j.tenant
  let sealed := match s.image with
    | some im => im.tensors.all (fun x => !(x.kind == 9 && x.tenant == j.tenant && (x.job == j.job || x.job == 0xFFFF)) ||
        decide ((s.t2At (t2Key j.tenant x.t2id)).state = .sealed))
    | none => true
  if t.over1 || t.over2 then 0x24
  else if t.quota0 - t.use0 < j.mand0 ∨ 12288 - s.windowsUsed < j.mand0 then 0x20
  else if t.quota1 - t.use1 < j.mand1 then 0x21
  else if s.freeTotal + s.copyPages < j.mand1 then 0x22
  else if !sealed then 0x23
  else 0

/-- The shard map in force for a job at its start: the image's, or one shard here for a job with an update set alone. -/
def State.firstMap (s : State) (k : Nat) : List (Nat × Nat) :=
  let j := (s.job k).info
  match s.image with
  | none => []
  | some im =>
    match im.maps.find? (fun m => m.job == j.job) with
    | some m => m.entries
    | none =>
      match im.stages.find? (fun m => m.1 == j.job) with
      | some st => ((st.2.find? (fun m => m.entries.any (fun e => e.1 == im.fabric.self))).map (·.entries)).getD []
      | none => if s.entriesOf k = [] then [] else [(im.fabric.self, 0)]

/-- Layers of retention that fit behind the mandatory part (R273 step 3). -/
def State.layersFit (s : State) (j : JobRec) : Nat :=
  let t := s.tenant j.tenant
  if j.layerPages = 0 then j.layers
  else min j.layers (min (t.quota1 - t.use1) s.freeTotal / j.layerPages)

/-- Retention, windows and page maps of a job whose mandatory pages are allocated; the zero-fill runs. -/
def State.fillJob (s : State) (k : Nat) : State :=
  let j := (s.job k).info
  let g := s.mapLayers j (s.layersFit j)
  let n := if j.layerPages = 0 then j.layers else g.2
  let s := g.1.mapWindows j
  let s := s.updTenant j.tenant (fun t => { t with use0 := t.use0 + (s.windowKeys j).length, promStop := t.promStop || decide (n < j.layers) })
  let s := { s with mc := [0, 1, 2, 3].foldl (fun m d => Sp.upd McSt.reset m d (fun c => { c with zeroing := true })) s.mc }
  ({ s with tiers := { s.tiers with admitting := true } }.settleQuota j.tenant).updJob k (fun x => { x with life := .filling, layers := n })

/-- A job's contexts at step entry; the flags of all of them, those that a bank switch has retired among them, as a job start
leaves them (R165, R283). -/
def CoreSt.startJob (c : CoreSt) (j : JobRec) (r : W32) : CoreSt :=
  let ps := c.progs c.active
  let mine := (c.ctxs.filter (fun x => x.2.ofJob j && ps.any (fun p => p.id == x.2.prog.id))).map (·.1)
  { c.clearGroups ((c.ctxs.filter (fun x => x.2.ofJob j)).map (·.1)) with
    ctxs := c.ctxs.map (fun x => (x.1, if mine.contains x.1 then x.2.restart r else x.2)) }

/-- Command code of an admitted JOB_START (R274, R409): the code, and with code 0x01 the number of layers retained in bits 31 to 16, which
R409 leaves open (log entry 89). -/
def Job.admitCode (j : Job) : Nat := if j.layers < j.info.layers then 1 + 65536 * j.layers else 0

/-- The zero-fill of a job is done: it is admitted, and its JOB_START completes with the code of R274. -/
def State.filled (s : State) (k : Nat) : State :=
  let j := s.job k
  if j.life = .filling then
    let s := s.updJob k (fun x => { x with life := .running, cmd := 0#512 })
    let s := { s with cores := s.cores.map (fun (c : Nat × CoreSt) => (c.1, c.2.startJob j.info 0#32)) }
    s.finish j.info.tenant j.cmd 0 j.admitCode []
  else s

/-- ZERO_FILL_COMPLETE (R223): the last channel of the allocations in progress reports. -/
def execZeroFillComplete (s : State) : Out :=
  let s1 := (s.jobs.map (·.1)).foldl State.filled s
  .next { s1 with mc := s1.mc.map (fun (m : Nat × McSt) => (m.1, { m.2 with zeroing := false })), tiers := { s1.tiers with admitting := false } }

end Sys2Proof.Machine
end

