-- ==== Sys2Proof/Machine/CompressOps.lean ====
section
/-!
DEFINITION. The compressor's blocks: form, compression and expansion of 256 values (R305 to R312, R320).
-/

namespace Sys2Proof.Machine

/-! ### Numbers -/

/-- The signed significand and exponent of a finite value. -/
def finInt (w : W32) : Int × Int :=
  match f32 w with
  | .fin n m e => (if n then -(m : Int) else (m : Int), e)
  | _ => (0, 0)

/-- `v` times 2^`k` rounded to the nearest integer, ties to even. -/
def rneInt (v k : Int) : Int :=
  if 0 ≤ k then v * 2 ^ k.toNat
  else
    let d : Int := 2 ^ (-k).toNat
    let q := v / d
    let r := v % d
    if 2 * r < d then q else if d < 2 * r then q + 1 else if q % 2 = 0 then q else q + 1

/-- floor(`v` times 2^`k` + `u` / 2^32). -/
def ditherInt (v k : Int) (u : Nat) : Int :=
  if 0 ≤ k then v * 2 ^ k.toNat
  else (v * 2 ^ 32 + (u : Int) * 2 ^ (-k).toNat) / (2 ^ (32 + (-k).toNat))

def clampInt (v b : Int) : Int := if v < -b then -b else if b < v then b else v

/-- (`y` - `q` times 2^`de`) times 2^(-`exp`), rounded once. From -0 nothing but +0 is taken off: the difference keeps its sign (R53). -/
def residual (y : W32) (q de exp : Int) : W32 × NFlags :=
  let a := finInt y
  if q = 0 ∧ a.1 = 0 then (y, 0#7) else
  let f := min a.2 de
  round32Int (a.1 * 2 ^ (a.2 - f).toNat - q * 2 ^ (de - f).toNat) (f - exp)

/-- Whether |a| < |b| for finite values. -/
def absLt (a b : W32) : Bool := lt32 (a &&& 0x7FFFFFFF#32) (b &&& 0x7FFFFFFF#32)

/-! ### Compression (R311) -/

/-- Exponent byte of a sub-block of the 256 values, leaving one element out. -/
def expByte (ys : List W32) (j : Nat) (skip : Option Nat) : Nat :=
  let sub := (List.range 32).map (fun i => (32 * j + i, ys.getD (32 * j + i) 0#32))
  if sub.any (fun y => !isFinite32 y.2) then 0xFF
  else
    let a := sub.foldl (fun m y => if skip == some y.1 then m else if absLt m y.2 then y.2 else m) 0#32
    let v := finInt a
    if v.1 = 0 then 0
    else (clampInt ((Nat.log2 v.1.natAbs : Int) + v.2 + 128 - 127) 127 + 127).toNat |> max 1 |> min 254

/-- Whether an exponent byte is that of coded values. -/
def coded (s : Nat) : Bool := decide (1 ≤ s) && decide (s ≤ 254)

/-- The sub-block that gets the next two bits. -/
def coarsest (s w : List Nat) : Nat :=
  let open_ (j : Nat) : Bool := decide (w.getD j 0 < 8)
  let live := (List.range 8).filter (fun j => coded (s.getD j 0) && open_ j)
  match live with
  | [] => ((List.range 8).find? open_).getD 0
  | j0 :: js => js.foldl (fun b j =>
      if (s.getD b 0 : Int) - w.getD b 0 < (s.getD j 0 : Int) - w.getD j 0 then j else b) j0

def allocGo (s : List Nat) : Nat → List Nat → List Nat
  | 0, w => w
  | fuel + 1, w => if 32 ≤ w.foldl (· + ·) 0 then w else allocGo s fuel (mapAt w (coarsest s w) (· + 2))

/-- Element widths of the adaptive policy. -/
def allocate (s : List Nat) : List Nat := allocGo s 16 (s.map (fun x => if coded x then 2 else 0))

/-- The outlier: the largest magnitude outside sub-blocks that are not finite. -/
def outlier (ys : List W32) (s : List Nat) : Option Nat :=
  (List.range 256).foldl (fun b i =>
    let y := ys.getD i 0#32
    if s.getD (i / 32) 0 = 0xFF ∨ (f32 y).isZero then b
    else
      match b with
      | none => some i
      | some o => if absLt (ys.getD o 0#32) y then some i else b) none

/-- What the compressor makes of a block: its 144 bytes, the new residual words (none: not written), its mode, and the
flags raised. -/
structure CzBlock where
  bytes : List Byte
  resid : List (Option W32)
  mode : Nat
  flags : NFlags
deriving DecidableEq, Repr

/-- BF16 pattern of the outlier, clamped to the largest finite magnitude. -/
def outlierBf16 (y : W32) : Nat × NFlags :=
  let c := FFmt.bf16.convert NMode.zero none (f32 y)
  if (FFmt.bf16.decode c.1).isInf then (FFmt.bf16.withSign (bitN 31 y.toNat) 0x7F7F, c.2) else c

/-- Start of an element's code (R308). -/
def codeStart (w : List Nat) (i : Nat) : Nat := 32 * (w.take (i / 32)).foldl (· + ·) 0 + w.getD (i / 32) 0 * (i % 32)

/-- R311: one block of `n` values (256 but for the last). `g` leaf values, `r` residual words, `u` dither words. -/
def compressBlock (policy : Nat) (dither : Bool) (exp : Int) (k n : Nat) (g r : Nat → W32) (u : Nat → Nat) : CzBlock :=
  let yf := (List.range 256).map (fun i => if i < n then withDen [r i, g i] (fma32 (r i) (pow2 exp) (g i)) else (0#32, 0#7))
  let ys := yf.map (·.1)
  let s0 := (List.range 8).map (fun j => expByte ys j none)
  let four := List.replicate 8 4
  let w := if policy = 2 then allocate s0 else four
  let mode := if policy = 0 then 0 else if w = four then 1 else 2
  let o := if mode = 1 then outlier ys s0 else none
  let s := match o with
    | some i => mapAt s0 (i / 32) (fun _ => expByte ys (i / 32) (some i))
    | none => s0
  let cells := (List.range 256).map (fun i =>
    let y := ys.getD i 0#32
    let sj := s.getD (i / 32) 0
    let wj := w.getD (i / 32) 0
    if o = some i then
      let v := outlierBf16 y
      let vi := finInt (FFmt.bf16.widen v.1)
      let rn := residual y vi.1 vi.2 exp
      (0, some rn.1, v.2 ||| rn.2)
    else if sj = 0xFF then (0, some (r i), 0#7)
    else if coded sj && wj != 0 then
      let de : Int := (sj : Int) - 126 - wj
      let v := finInt y
      let q0 := if dither then ditherInt v.1 (v.2 - de) (u i) else rneInt v.1 (v.2 - de)
      let q := clampInt q0 (2 ^ (wj - 1) - 1)
      let rn := residual y q de exp
      (toBits wj q, some rn.1, rn.2)
    else
      let rn := mul32 y (pow2 (-exp))
      (0, some rn.1, rn.2))
  let codes := (List.range 256).foldl (fun c i => c + (cells.getD i (0, none, 0#7)).1 * 2 ^ codeStart w i) 0
  let slot := match mode with
    | 1 => (match o with
      | some i => i + 256 * (outlierBf16 (ys.getD i 0#32)).1
      | none => 0)
    | 2 => (List.range 8).foldl (fun t j => t + (w.getD j 0 / 2) * 8 ^ j) 0
    | _ => 0
  let head := leBytes 1 mode ++ leBytes 1 k
  let body := s.map (fun x => BitVec.ofNat 8 x) ++ leBytes 128 codes ++ leBytes 4 slot
  { bytes := head ++ leBytes 2 (crc16 (head ++ body)) ++ body,
    resid := (List.range 256).map (fun i => if i < n then (cells.getD i (0, none, 0#7)).2.1 else none),
    mode := mode,
    flags := cells.foldl (fun f c => f ||| c.2.2) (yf.foldl (fun f y => f ||| y.2) 0#7) }

/-! ### Expansion (R308, R320) -/

/-- Element widths of a block, or none where the block is damaged (R307, R320). -/
def blockWidths (b : List Byte) (k : Nat) : Option (Nat × List Nat) :=
  let mode := (b.getD 0 0#8).toNat
  let slot := leVal ((b.drop 140).take 4)
  if b.length ≠ 144 ∨ leVal ((b.drop 2).take 2) ≠ crc16 (b.take 2 ++ b.drop 4) ∨ (b.getD 1 0#8).toNat ≠ k % 256 then none
  else
    match mode with
    | 0 => if slot = 0 then some (0, List.replicate 8 4) else none
    | 1 => if slot / 2 ^ 24 = 0 then some (1, List.replicate 8 4) else none
    | 2 =>
      let cs := (List.range 8).map (fun j => slot / 8 ^ j % 8)
      let w := cs.map (2 * ·)
      if slot / 2 ^ 24 = 0 ∧ cs.all (fun c => decide (c ≤ 4)) = true ∧ w.foldl (· + ·) 0 = 32 then some (2, w) else none
    | _ => none

/-- The 256 values of a block read at index `k`; none where it is damaged. -/
def expandBlock (b : List Byte) (k : Nat) : Option (List W32) :=
  match blockWidths b k with
  | none => none
  | some (mode, w) =>
    let codes := leVal ((b.drop 12).take 128)
    let slot := leVal ((b.drop 140).take 4)
    some ((List.range 256).map (fun i =>
      let s := (b.getD (4 + i / 32) 0#8).toNat
      let wj := w.getD (i / 32) 0
      if s = 0xFF then nan32
      else if mode = 1 ∧ slot % 256 = i then FFmt.bf16.widen (slot / 256 % 65536)
      else if s = 0 ∨ wj = 0 then 0#32
      else
        let q := signed wj (codes / 2 ^ codeStart w i)
        if q = 0 then 0#32 else (round32Int q ((s : Int) - 126 - wj)).1))

end Sys2Proof.Machine
end

