-- ==== Sys2Proof/Machine/LinkOps.lean ====
section
/-!
DEFINITION. Griuk Link: message form, routing, the ports' queues, sending and receiving (R331 to R341, R349 to R351, R360).
-/

namespace Sys2Proof.Machine

/-! ### Messages (R349) -/

def LMsg.kind (m : LMsg) : Nat := m.f 0 1
def LMsg.cls (m : LMsg) : Nat := m.f 1 1 % 4
def LMsg.poison (m : LMsg) : Bool := bitN 2 (m.f 1 1)
def LMsg.len (m : LMsg) : Nat := 16 * (m.f 2 2 % 8192)
def LMsg.epoch (m : LMsg) : W32 := BitVec.ofNat 32 (m.f 4 4)
def LMsg.src (m : LMsg) : Nat := m.f 8 3 % 2 ^ 18
def LMsg.key (m : LMsg) : Nat := m.f 8 3 / 2 ^ 18 % 16
def LMsg.dst (m : LMsg) : Nat := m.f 11 3 % 2 ^ 18
def LMsg.tenant (m : LMsg) : Nat := m.f 14 2 % 4096
def LMsg.tag (m : LMsg) : Nat := m.f 16 2
/-- Subkind, epoch concerned, node concerned and count of a MEMBER message. -/
def LMsg.sub (m : LMsg) : Nat := m.f 16 1
def LMsg.about (m : LMsg) : W32 := BitVec.ofNat 32 (m.f 20 4)
def LMsg.node (m : LMsg) : Nat := m.f 24 3 % 2 ^ 18
def LMsg.count (m : LMsg) : Nat := m.f 27 4

/-- R351 check 3: kind and reserved fields. A GET carries no payload: its length field gives the length asked for. -/
def LMsg.wellKind (m : LMsg) : Bool :=
  decide (1 ≤ m.kind) && decide (m.kind ≤ 9) && m.cls != 3 && m.f 1 1 / 8 == 0 && m.f 2 2 / 8192 == 0 && m.f 8 3 / 2 ^ 22 == 0 &&
    m.f 11 3 / 2 ^ 18 == 0 && m.hdr.length == 32 && m.data.length == (if m.kind = 2 then 0 else m.len) &&
    (match m.kind with
      | 3 => m.f 19 13 == 0
      | 9 => m.f 19 13 == 0
      | 6 => m.f 31 1 == 0 && m.f 19 1 == 0 && m.f 14 2 == 0 && (m.sub == 4 || m.f 18 1 == 0) &&
        (m.sub == 2 || m.sub == 5 || m.count == 0) && decide (1 ≤ m.sub) && decide (m.sub ≤ 9) && decide (m.len ≤ (if m.sub = 4 then 4096 else 0))
      | 5 => m.f 18 1 / 8 == 0 && (!bitN 0 (m.f 18 1) || m.len == 0)
      | 8 => m.f 23 9 == 0 && m.f 14 2 == 0 && m.len == 0
      | 1 => m.f 24 8 == 0
      | 2 => m.f 24 8 == 0
      | 4 => m.f 24 8 == 0
      | _ => true)

/-- A message built from its fields; the payload is padded to whole units of 16 B. -/
def mkMsg (kind cls : Nat) (poison : Bool) (epoch : W32) (src key dst tenant slot : Nat) (spec data : List Byte) : LMsg :=
  let n := ceilDiv data.length 16
  ⟨leBytes 1 kind ++ leBytes 1 (cls + 4 * b2n poison) ++ leBytes 2 n ++ leBytes 4 epoch.toNat ++
    leBytes 3 (src + key * 2 ^ 18) ++ leBytes 3 dst ++ leBytes 2 (tenant + 4096 * slot) ++ spec.take 16 ++ zeros (16 - spec.length),
    data ++ zeros (16 * n - data.length)⟩

/-! ### The fabric (R325, R337) -/

def State.fabric (s : State) : FabMap :=
  match s.image with
  | some im => im.fabric
  | none => ⟨[], 0, [], 0⟩

def dimStride (dims : List Nat) (i : Nat) : Nat := (dims.take i).foldl (· * ·) 1
/-- Coordinate of a node in dimension `i`. -/
def coordOf (dims : List Nat) (id i : Nat) : Nat := id / dimStride dims i % max 1 (dims.getD i 1)
/-- The node with one coordinate replaced. -/
def withCoord (dims : List Nat) (id i x : Nat) : Nat := id - coordOf dims id i * dimStride dims i + x * dimStride dims i
def nodeCount (dims : List Nat) : Nat := dims.foldl (· * ·) 1
/-- Steps in the plus direction of a ring. -/
def plusSteps (dims : List Nat) (a b i : Nat) : Nat :=
  let n := max 1 (dims.getD i 1)
  (coordOf dims b i + n - coordOf dims a i) % n
/-- The shorter way; plus when equal. -/
def goesPlus (dims : List Nat) (a b i : Nat) : Bool := decide (2 * plusSteps dims a b i ≤ max 1 (dims.getD i 1))
/-- Neighbour in a dimension and direction. -/
def neighbour (dims : List Nat) (a i : Nat) (plus : Bool) : Nat :=
  let n := max 1 (dims.getD i 1)
  withCoord dims a i (if plus then (coordOf dims a i + 1) % n else (coordOf dims a i + n - 1) % n)
/-- Dimensions in which two nodes differ, ascending. -/
def diffDims (dims : List Nat) (a b : Nat) : List Nat := (List.range dims.length).filter (fun i => coordOf dims a i != coordOf dims b i)

/-- Ports of a trunk, ascending. -/
def trunk (f : FabMap) (i : Nat) (plus : Bool) : List Nat :=
  (List.range 18).filter (fun p => match f.ports[p]? with
    | some q => !q.unused && q.dim == i && q.minus == !plus
    | none => false)

def State.port (s : State) (p : Nat) : Port := Sp.get Port.reset s.ports p
def State.setPort (s : State) (p : Nat) (q : Port) : State := { s with ports := Sp.set Port.reset s.ports p q }
def State.updPort (s : State) (p : Nat) (f : Port → Port) : State := s.setPort p (f (s.port p))

/-- Whether a port carries a class of frames: up, and class 2 only where the digests differ (R330); in beacon mode class 2
only (R327). -/
def Port.carries (q : Port) (cls : Nat) : Bool := (q.state == 3 && (q.reason != 5 || cls == 2)) || (q.state == 1 && cls == 2)

/-- The way round ring `i` that a message takes: one that comes by this ring goes on as it came, so that a message that has taken the
other way (R341) keeps it; else the shorter way (R337). `from_` is the port and VC by which it came. -/
def State.wayOf (s : State) (m : LMsg) (from_ : Option (Nat × Nat)) (i : Nat) : Bool :=
  let f := s.fabric
  match from_.bind (fun x => f.ports[x.1]?) with
  | some q => if q.dim = i ∧ q.unused = false then q.minus else goesPlus f.dims f.self m.dst i
  | none => goesPlus f.dims f.self m.dst i

/-- The port a message leaves by toward a node, and whether it falls back (R337, R341). Where every port of both trunks is
down, the message waits at the one it would take. -/
def State.route (s : State) (m : LMsg) (from_ : Option (Nat × Nat)) : Option (Nat × Bool) :=
  let f := s.fabric
  match diffDims f.dims f.self m.dst with
  | [] => none
  | i :: _ =>
    let plus := s.wayOf m from_ i
    let ups (d : Bool) : List Nat := (trunk f i d).filter (fun p => (s.port p).carries m.cls)
    let pick (l : List Nat) : Option Nat := match l with
      | [] => none
      | p :: _ =>
        let key := if (s.port p).version ≤ 1 then (m.src ^^^ m.dst) % 16 else m.key
        l[key % l.length]?
    match pick (ups plus) with
    | some p => some (p, false)
    | none =>
      match pick (ups (!plus)) with
      | some p => some (p, true)
      | none => (pick (trunk f i plus)).map (fun p => (p, false))

/-- VC of a message on a hop (R338): the lower one of its class, the higher one from the dateline of the ring on. -/
def State.vcOf (s : State) (m : LMsg) (p : Nat) (from_ : Option (Nat × Nat)) : Nat :=
  let f := s.fabric
  let q := f.ports.getD p ⟨0, false, true, 0, 0⟩
  let x := coordOf f.dims f.self q.dim
  let date := if q.minus then x == 0 else x + 1 == f.dims.getD q.dim 1
  let kept := match from_ with
    | some (ip, vc) => (f.ports.getD ip ⟨0, false, true, 0, 0⟩).dim == q.dim && vc % 2 == 1
    | none => false
  2 * m.cls + b2n (date || kept)

/-! ### Sending (R332 to R335, R340) -/

/-- Whether a waiting message may go on now: isolation holds classes 0 and 1, a drain holds what starts here. -/
def State.mayInject (s : State) (e : Egress) : Bool :=
  e.vc / 2 == 2 || (!s.gl.isolated && (!s.gl.stopInject || e.pos != 0 || e.cont || e.msg.src != s.self))

/-- Flits of a message. -/
def LMsg.flits (m : LMsg) : Nat := ceilDiv (32 + m.data.length) 248
/-- R342, R351: a class-2 message begins only within the rate of its window of 10 µs. -/
def State.paced (s : State) (q : Port) (e : Egress) : Bool :=
  e.vc / 2 != 2 || e.pos != 0 || q.paceWin != s.now / 10000 ||
    (decide (q.paceMsgs + 1 ≤ 64) && decide (q.paceFlits + e.msg.flits ≤ 289))

/-- The first message of each claim, in the order in which they wait. -/
def firstClaims : List Egress → List Egress → List Egress
  | [], done => done
  | e :: es, done => firstClaims es (if done.any (fun x => x.claim == e.claim) then done else done ++ [e])

/-- The messages that may send the next flit of a VC: the one under way, alone, so that messages of a VC do not interleave; else the first
of every input (R340). -/
def Port.heads (q : Port) (vc : Nat) : List Egress :=
  match q.egress.find? (fun e => e.vc == vc && e.pos != 0) with
  | some e => [e]
  | none => firstClaims (q.egress.filter (fun e => e.vc == vc)) []

/-- Of several claims the one that a rotating pointer picks (R340, R388): the lowest at or above it, else the lowest of all. -/
def pickClaim (turn : Nat) (l : List Egress) : Option Egress :=
  let low (l : List Egress) : Option Egress := match l with
    | [] => none
    | x :: xs => some (xs.foldl (fun a e => if e.claim < a.claim then e else a) x)
  match low (l.filter (fun e => decide (turn ≤ e.claim))) with
  | some e => some e
  | none => low l

/-- The waiting message whose flit goes next: class 2, then 0, then 1, and within a class by the rotating pointer. -/
def State.nextEgress (s : State) (p : Nat) : Option Egress :=
  let q := s.port p
  [2, 0, 1].findSome? (fun c => pickClaim (q.turn.getD c 0) (([2 * c, 2 * c + 1].flatMap q.heads).filter (fun e =>
    decide (0 < q.credits.getD e.vc 0) && s.mayInject e && s.paced q e && q.carries c)))

/-- A waiting message replaced by what is left of it. -/
def replaceFirst (l : List Egress) (old : Egress) (e : Option Egress) : List Egress :=
  match l with
  | [] => []
  | x :: xs => if x = old then e.toList ++ xs else x :: replaceFirst xs old e

/-- One flit put on the link. -/
def State.sendFlit (s : State) (p : Nat) (e : Egress) : State :=
  let q := s.port p
  let all := e.msg.hdr ++ e.msg.data
  let bs := (all.drop e.pos).take 248
  let last := decide (all.length ≤ e.pos + 248)
  let f : Flit := ⟨q.txSeq, e.vc, e.pos == 0 && !e.cont, last, bs⟩
  let q' := { q with
    txSeq := (q.txSeq + 1) % 4096
    sent := q.sent ++ [(f, e)]
    ackAt := if q.sent = [] then s.now else q.ackAt
    credits := mapAt q.credits e.vc (· - 1)
    turn := mapAt q.turn (e.vc / 2) (fun _ => e.claim + 1)
    egress := replaceFirst q.egress e (if last then none else some { e with pos := e.pos + 248 })
    txb := if last then q.txb + BitVec.ofNat 64 e.msg.data.length else q.txb }
  let q' := if e.vc / 2 = 2 ∧ e.pos = 0 then
      let old := decide (q.paceWin = s.now / 10000)
      { q' with
        paceWin := s.now / 10000, paceMsgs := (if old then q.paceMsgs else 0) + 1
        paceFlits := (if old then q.paceFlits else 0) + e.msg.flits }
    else q'
  { s.setPort p q' with linkOut := s.linkOut ++ [.flit p f] }

/-- Flits sent while credits, the retry buffer and the link allow. -/
def State.pump (s : State) (p : Nat) : Nat → State
  | 0 => s
  | fuel + 1 =>
    let q := s.port p
    if q.held || q.retrain.isSome || decide (2048 ≤ q.sent.length) then s
    else
      match s.nextEgress p with
      | none => s
      | some e => (s.sendFlit p e).pump p fuel

def State.pumpAll (s : State) : State := (List.range 18).foldl (fun s p => s.pump p 400) s

/-- A message handed to a port. -/
def State.enqueue (s : State) (p : Nat) (m : LMsg) (from_ : Option (Nat × Nat)) : State :=
  let vc := s.vcOf m p from_
  (s.updPort p (fun q => { q with egress := q.egress ++ [(⟨m, vc, 0, false, (match from_ with
    | some (ip, v) => 6 * ip + v
    | none => 6 * 18 + vc)⟩ : Egress)] })).pump p 400

/-- A message sent on its route; none where every port toward the node is down. -/
def State.tryPost (s : State) (m : LMsg) (from_ : Option (Nat × Nat)) : Option State :=
  match s.route m from_ with
  | none => none
  | some (p, fb) =>
    let s := if fb && !s.gl.fallbacks.contains (p, m.dst) then
        { s.logAs 6 p 0x0021 2 none [(1, p), (3, m.dst)] with gl := { s.gl with fallbacks := s.gl.fallbacks ++ [(p, m.dst)] } }
      else s
    some (s.enqueue p m from_)

def State.post (s : State) (m : LMsg) (from_ : Option (Nat × Nat)) : State := (s.tryPost m from_).getD s

/-! ### Messages of this module -/

/-- A MEMBER message. -/
def State.member (s : State) (sub frag frags : Nat) (about : W32) (node count dst : Nat) (data : List Byte) : State :=
  if dst = s.self then s
  else s.post (mkMsg 6 2 false s.gl.epoch s.self 0 dst 0 0
    (leBytes 1 sub ++ leBytes 1 frag ++ leBytes 1 frags ++ zeros 1 ++ leBytes 4 about.toNat ++ leBytes 3 node ++ leBytes 4 count) data) none

/-- A FENCE to a node (R360), counted in GL_FENCES. -/
def State.fenceTo (s : State) (dst : Nat) (epoch : W32) (leader : Nat) : State :=
  let s := { s with gl := { s.gl with fences := satAdd32 s.gl.fences 1 } }
  s.post (mkMsg 8 2 false s.gl.epoch s.self 0 dst 0 0 (leBytes 4 epoch.toNat ++ leBytes 3 leader) []) none

/-- R476 0x0020: a port reported with its state. -/
def State.logPort (s : State) (p : Nat) : State :=
  let q := s.port p
  s.logAs 6 p 0x0020 (if q.state = 3 then 1 else 2) none [(1, p), (1, q.state), (2, q.reason)]

/-- R476 0x0022: a frame discarded. -/
def State.logFrame (s : State) (p : Nat) (m : LMsg) (check : Nat) : State :=
  s.logAs 6 p 0x0022 1 none [(1, p), (1, m.kind), (3, m.src), (1, check)]

/-- A message sent as outstanding (R350). A COLL_SEG has no tag: its first two specific bytes stand for it. -/
def State.postOut (s : State) (kind cls : Nat) (poison : Bool) (key dst tenant slot : Nat) (spec data : List Byte) (use : OutUse) : State :=
  let tag := if kind = 5 then leVal (spec.take 2) else s.gl.nextTag % 65536
  let spec := if kind = 5 then spec else leBytes 2 tag ++ spec
  let s := { s with gl := { s.gl with
    outs := s.gl.outs ++ [(⟨tag, dst, s.now, use⟩ : OutMsg)], nextTag := if kind = 5 then s.gl.nextTag else s.gl.nextTag + 1 } }
  s.post (mkMsg kind cls poison s.gl.epoch s.self key dst tenant slot spec data) none

/-- An answer to a tagged message: GET_RESP or ACK. -/
def State.answer (s : State) (kind : Nat) (m : LMsg) (tag status : Nat) (poison : Bool) (data : List Byte) : State :=
  s.post (mkMsg kind m.cls poison s.gl.epoch s.self m.key m.src m.tenant m.slot (leBytes 2 tag ++ leBytes 1 status) data) none

/-! ### Receiving (R334, R351, R360) -/

/-- Payload limit of a link version (R329). -/
def Port.maxLen (q : Port) : Nat := if q.version ≤ 1 then 4096 else 65536

/-- The class-2 rate check of a port (R351 check 2): whether the message is kept. -/
def State.rateCheck (s : State) (p : Nat) (m : LMsg) : State × Bool :=
  if m.cls ≠ 2 then (s, true)
  else
    let q := s.port p
    let w := s.now / 10000
    let q := if q.rateWin = w then q else { q with rateWin := w, rateMsgs := 0, rateFlits := 0 }
    if q.rateMsgs + 1 ≤ 64 ∧ q.rateFlits + m.flits ≤ 289 then
      (s.setPort p { q with rateMsgs := q.rateMsgs + 1, rateFlits := q.rateFlits + m.flits }, true)
    else
      let first := decide (q.rateMsgs < 1000)
      let s := s.setPort p { q with rate := satAdd32 q.rate 1, rateMsgs := 1000 }
      (if first then s.logFrame p m 2 else s, false)

/-- Whether a state of R357 belongs to a member of a view: joining, spare or active. -/
def memberState (x : Nat) : Bool := decide (2 ≤ x) && decide (x ≤ 4)

/-- The checks 2 to 5 of a message for this module; what passes waits in the port's inbox. -/
def State.receive (s : State) (p : Nat) (m : LMsg) : State :=
  let r := s.rateCheck p m
  if !r.2 || decide (s.start.stage < 4) then r.1
  else
    let s := r.1
    let q := s.port p
    let E := s.gl.epoch
    if !m.wellKind then s.logFrame p m 3
    else
      let old := decide (m.epoch.toNat < E.toNat)
      let new := decide (E.toNat < m.epoch.toNat)
      let excluded := match s.gl.prop with
        | some pr => decide (pr.view ≠ []) && memberState (s.gl.view.getD m.src 0) && !memberState (pr.view.getD m.src 0)
        | none => false
      if excluded && m.kind != 8 then
        s.fenceTo m.src ((s.gl.prop.map (·.epoch)).getD E) ((s.gl.prop.map (·.proposer)).getD s.gl.leader)
      else if m.cls = 2 then
        if old && !(m.kind == 6 && (m.sub == 7 || m.sub == 8)) then
          s.fenceTo m.src E s.gl.leader
        else s.updPort p (fun q => { q with inbox := q.inbox ++ [m] })
      else if old then
        (s.updPort p (fun q => { q with stale := satAdd32 q.stale 1 })).fenceTo m.src E s.gl.leader
      else if new then
        let size := q.heldMsgs.foldl (fun a m => a + 32 + m.data.length) (32 + m.data.length)
        if 65536 < size then s.logFrame p m 8
        else s.updPort p (fun q => { q with heldMsgs := q.heldMsgs ++ [m], heldAt := if q.heldMsgs = [] then s.now else q.heldAt })
      else if q.maxLen < m.data.length then (s.logFrame p m 5).answer 9 m m.tag 2 false []
      else s.updPort p (fun q => { q with inbox := q.inbox ++ [m] })

/-- A whole message has arrived on a port: delivered here, or sent on its way (R337). -/
def State.arrived (s : State) (p vc : Nat) (m : LMsg) : State :=
  let s := s.updPort p (fun q => { q with rxb := q.rxb + BitVec.ofNat 64 m.data.length })
  if m.dst = s.self then s.receive p m else s.post m (some (p, vc))

/-- The message at the front of a port's inbox, of a kind and (for MEMBER) a subkind. -/
def State.front (s : State) (p kind sub : Nat) : Option LMsg :=
  match (s.port p).inbox with
  | [] => none
  | m :: _ => if m.kind = kind ∧ (kind ≠ 6 ∨ m.sub = sub) then some m else none
def State.popInbox (s : State) (p : Nat) : State := s.updPort p (fun q => { q with inbox := q.inbox.drop 1 })

/-- A row that takes one message from a port. -/
def State.takeMsg (s : State) (p kind sub : Nat) (f : State → LMsg → State) : Out :=
  match s.front p kind sub with
  | none => .next s
  | some m => .next (f (s.popInbox p) m)

end Sys2Proof.Machine
end

