-- ==== Sys2Proof/Machine/CollOps.lean ====
section
/-!
DEFINITION. The collective engine: instances, requests and answers, placement, owned sums, re-sharding (R365 to R385), and
the compressions that reduce-scatters start (R310 to R317).
-/

namespace Sys2Proof.Machine

/-! ### The table entry (R368) -/

def CollEntry.es (e : CollEntry) : Nat := 2 ^ e.esize
def CollEntry.compressed (e : CollEntry) : Bool := bitN 0 e.flags
def CollEntry.outBf16 (e : CollEntry) : Bool := bitN 1 e.flags
def CollEntry.isMax (e : CollEntry) : Bool := bitN 2 e.flags
def CollEntry.permMode (e : CollEntry) : Nat := field 4 3 e.flags
def CollEntry.retain (e : CollEntry) : Bool := bitN 5 e.flags
/-- Traffic class of a collective's frames (R338, R379). -/
def CollEntry.cls (e : CollEntry) : Nat := if e.res = 0xFFFF then 1 else 0
def CollEntry.segSize (e : CollEntry) : Nat := if e.compressed then 4032 else 4096

/-- Bytes of a destination element (R367). -/
def CollEntry.outSize (e : CollEntry) : Nat := if e.outBf16 then 2 else 4

/-- Streams of an all-gather (R372), and the elements of one. -/
def State.streams (s : State) : Nat := max 1 s.fabric.dims.length
def State.streamLo (s : State) (e : CollEntry) (i : Nat) : Nat := i * e.partLen / s.streams

/-- The tensor index that asks for a re-shard report instead of a tensor. -/
def reportIdx : Nat := 0xFFFFF

/-- R376: an all-reduce of more than 1 MiB of vectors runs as a reduce-scatter and an all-gather of its parts. -/
def State.redSplit (s : State) (k : Nat) (e : CollEntry) : Bool := e.op == 2 && decide (2 ^ 20 < e.partLen * (s.job k).map.length * 4)
/-- First element and length of a part of such an all-reduce. -/
def State.redPart (s : State) (k : Nat) (e : CollEntry) (l : Nat) : Nat × Nat :=
  let c := ceilDiv e.partLen (s.job k).map.length
  (min e.partLen (l * c), min e.partLen (l * c + c) - min e.partLen (l * c))
/-- First element and length of a stream of a part (R372). -/
def State.redStream (s : State) (k : Nat) (e : CollEntry) (l st : Nat) : Nat × Nat :=
  let p := s.redPart k e l
  (p.1 + st * p.2 / s.streams, (st + 1) * p.2 / s.streams - st * p.2 / s.streams)

/-- The elements of the vectors that the answer to a request of an all-reduce carries: the whole vector of the source; or, in two phases,
the destination's part of it, and of the reduced part of a shard, whose requests name it as source and destination, one stream (log
entry 67). -/
def State.redSpan (s : State) (k : Nat) (e : CollEntry) (q : SegKey) : Nat × Nat :=
  if !s.redSplit k e then (0, e.partLen)
  else if q.src = q.dst then s.redStream k e q.src q.stream
  else s.redPart k e q.dst

/-- Bytes of the answer to a request (R371). -/
def State.answerLen (s : State) (k : Nat) (e : CollEntry) (q : SegKey) : Nat :=
  match e.op with
  | 0 => (s.streamLo e (q.stream + 1) - s.streamLo e q.stream) * e.es
  | 1 => if e.compressed then e.partLen / 256 * 144 else 4 * e.partLen
  | 2 => 4 * (s.redSpan k e q).2
  | _ =>
    if e.permMode = 1 then
      (if q.dst = reportIdx then 16 else (((s.partTensors k)[q.dst]?).map (·.size)).getD 0 * pageSize)
    else e.partLen * e.es

def State.segCount (s : State) (k : Nat) (e : CollEntry) (q : SegKey) : Nat := ceilDiv (s.answerLen k e q) e.segSize
/-- Bytes of one segment of an answer. -/
def State.segLen (s : State) (k : Nat) (e : CollEntry) (q : SegKey) (seg : Nat) : Nat :=
  min e.segSize (s.answerLen k e q - seg * e.segSize)

/-! ### Instances (R370) -/

def CollInst.is (i : CollInst) (k coll : Nat) (step : W32) : Bool := i.job == k && i.coll == coll && i.step == step
def State.inst (s : State) (k coll : Nat) (step : W32) : Option CollInst := s.coll.insts.find? (fun i => i.is k coll step)
def State.putInst (s : State) (i : CollInst) : State :=
  let old := s.coll.insts
  let mine (x : CollInst) : Bool := x.is i.job i.coll i.step
  let new := if old.any mine = true then old.map (fun x => if mine x = true then i else x) else old ++ [i]
  { s with coll := { s.coll with insts := new } }
def CollInst.issue (i : CollInst) (shard : Nat) : Option CollIssue := i.issues.find? (fun x => x.shard == shard)
def CollInst.mapIssue (i : CollInst) (sel : CollIssue → Bool) (f : CollIssue → CollIssue) : CollInst :=
  { i with issues := i.issues.map (fun x => if sel x then f x else x) }

/-- The shards of a job held here. -/
def State.held (s : State) (k : Nat) : List Nat := (s.job k).heldBy s.self
def State.holder (s : State) (k l : Nat) : Nat := ((s.job k).map.getD l (0, 0)).1
def State.tn (s : State) (k : Nat) : Nat := (s.job k).info.tenant

/-- Distinct destinations of a gather's issues. -/
def CollInst.dests (i : CollInst) : List Nat := (i.issues.map (·.dst)).eraseDups

/-! ### Data -/

def State.virtGet (s : State) (tn va n : Nat) : List Byte × Bool := s.readVirt tn va n (n / 64 + 2)
def State.virtPut (s : State) (tn va : Nat) (bs : List Byte) (p : Bool) : State := s.writeVirt tn va bs p (bs.length / 64 + 2)

/-- Bytes of a part in a shard slot, read from its pages. -/
def State.partGet (s : State) (k slot off n : Nat) (t : TensorRec) : List Byte × Bool :=
  let j := (s.job k).info
  match s.partFrame j.tenant j.job t.id slot (off / pageSize) with
  | some f => s.rdPhys (f * pageSize + off % pageSize) n
  | none => (zeros n, true)

def State.partPut (s : State) (k slot off : Nat) (t : TensorRec) (bs : List Byte) (p : Bool) : State :=
  let j := (s.job k).info
  match s.partFrame j.tenant j.job t.id slot (off / pageSize) with
  | some f => s.wrPhys (f * pageSize + off % pageSize) bs p
  | none => s

/-- Compute halves of elements of a held part (R280, R372). -/
def State.halves (s : State) (k l t e0 n : Nat) : List Byte × Bool :=
  let ws := (List.range n).map (fun i => s.updWord k l t 0 (e0 + i))
  (ws.flatMap (fun w => leBytes 2 (w.1.toNat / 65536)), ws.any (·.2))

/-- Digest of a shard map (R365). -/
def mapDigest (m : List (Nat × Nat)) : Nat := crc32 (m.flatMap (fun e => leBytes 4 (e.1 + e.2 * 2 ^ 18)))

/-- Shards that a pending map brings to this module, with their slots. -/
def State.gained (s : State) (k : Nat) (m : List (Nat × Nat)) : List (Nat × Nat) :=
  (List.range m.length).filterMap (fun l =>
    let e := m.getD l (0, 0)
    if e.1 = s.self ∧ s.holder k l ≠ s.self then some (l, e.2) else none)

/-- What this member reports for a re-shard at a step: the digest of its pending map, and whether what it would gain fits. -/
def State.reshardReport (s : State) (k : Nat) (step : W32) : Nat × Bool :=
  let j := s.job k
  match j.pend with
  | some (st, m) =>
    if st = step then
      let pages := ((s.partTensors k).map (·.size)).foldl (· + ·) 0 * (s.gained k m).length
      let t := s.tenant j.info.tenant
      (mapDigest m, decide (pages ≤ t.quota1 - t.use1) && decide (pages ≤ s.freeTotal) && !t.over1)
    else (0, true)
  | none => (0, true)

/-- Where the leaf of an issue begins: its block area, or the FP32 range. -/
def CollIssue.leaf (x : CollIssue) : Nat := match x.comp with
  | some d => entryField d 12 6
  | none => x.src

/-- Key of a byte of an all-reduce's vectors. The reduced parts of other shards stand behind the vectors, as one of the shard beyond the
last. -/
def vecKey (src off : Nat) : Nat := src * 2 ^ 28 + off

/-- A word of the vectors of an all-reduce. -/
def vecWord (b : Sp (Byte × Bool)) (src i : Nat) : W32 × Bool :=
  let g (o : Nat) : Byte × Bool := Sp.get (0#8, false) b (vecKey src (4 * i + o))
  (BitVec.ofNat 32 (leVal [(g 0).1, (g 1).1, (g 2).1, (g 3).1]), (g 0).2)

/-- R376: element `i` of the result, in ascending source shard. -/
def allReduce (mx : Bool) (b : Sp (Byte × Bool)) (n i : Nat) : W32 × Bool :=
  let vs := (List.range n).map (fun l => vecWord b l i)
  (if mx then
      (match vs with
        | [] => negZero32
        | v :: r => r.foldl (fun a v => (max32 a v.1).1) (copy32 v.1).1)
    else vs.foldl (fun a v => (add32 a v.1).1) negZero32, vs.any (·.2))

/-- Bytes of a vector kept in an instance. -/
def CollInst.keepVec (i : CollInst) (src off : Nat) (bs : List Byte) (p : Bool) : CollInst :=
  { i with buf := (List.range bs.length).foldl (fun b x =>
      Sp.set (0#8, false) b (vecKey src (off + x)) (if p then 0#8 else bs.getD x 0#8, p)) i.buf }

/-- The shard whose part of a split all-reduce holds element `j`. -/
def State.redOwner (s : State) (k : Nat) (e : CollEntry) (j : Nat) : Nat := j / ceilDiv e.partLen (s.job k).map.length

/-- Element `j` of the result of an all-reduce: summed here, or, in the part of a shard held elsewhere, as it was gathered. -/
def State.redWord (s : State) (i : CollInst) (e : CollEntry) (j : Nat) : W32 × Bool :=
  let n := (s.job i.job).map.length
  if s.redSplit i.job e && s.holder i.job (s.redOwner i.job e j) != s.self then vecWord i.buf n j else allReduce e.isMax i.buf n j

/-- The reads that `n` bytes of an answer take noted (R215, R216, R264). -/
def State.noteAnswer (s : State) (i : CollInst) (e : CollEntry) (q : SegKey) (off n : Nat) : State :=
  let k := i.job
  let tn := s.tn k
  let virt (va : Nat) : State := s.noteVirt tn va n (n / 65536 + 2)
  match e.op with
  | 0 =>
    if s.holder k q.src == s.self && i.phase != 1 then
      match i.issue q.src with
      | some x => if e.srcKind = 1 then s else virt (x.src + (q.src * e.partLen + s.streamLo e q.stream) * e.es + off)
      | none => s
    else virt (i.dests.headD 0 + (q.src * e.partLen + s.streamLo e q.stream) * e.es + off)
  | 1 =>
    (match i.issue q.src with
      | some x => virt (x.leaf + q.dst * s.answerLen k e q + off)
      | none => s)
  | 2 =>
    if s.redSplit k e && q.src == q.dst then s
    else
      (match i.issue q.src with
        | some x => virt (x.src + 4 * (s.redSpan k e q).1 + off)
        | none => s)
  | _ =>
    if e.permMode = 1 then
      (match (s.partTensors k)[q.dst]? with
        | some t => (match s.partFrame tn (s.job k).info.job t.id ((s.job k).slotOf q.src) (off / pageSize) with
          | some f => s.noteRead (f * pageSize + off % pageSize) n
          | none => s)
        | none => s)
    else
      (match i.issue q.src with
        | some x => virt (x.src + off)
        | none => s)

/-- `n` bytes of an answer from offset `off` on. -/
def State.answerBytes (s : State) (i : CollInst) (e : CollEntry) (q : SegKey) (off n : Nat) : List Byte × Bool :=
  let k := i.job
  let tn := s.tn k
  let own := s.holder k q.src == s.self
  let iss := i.issue q.src
  match e.op with
  | 0 =>
    let e0 := s.streamLo e q.stream
    let at_ := (q.src * e.partLen + e0) * e.es + off
    if own && i.phase != 1 then
      match iss with
      | some x => if e.srcKind = 1 then s.halves k q.src e.t (e0 + off / 2) (n / 2) else s.virtGet tn (x.src + at_) n
      | none => (zeros n, true)
    else s.virtGet tn (i.dests.headD 0 + at_) n
  | 1 =>
    (match iss with
      | some x => s.virtGet tn (x.leaf + q.dst * s.answerLen k e q + off) n
      | none => (zeros n, true))
  | 2 =>
    if s.redSplit k e && q.src == q.dst then
      let ws := (List.range (n / 4)).map (fun j => s.redWord i e ((s.redSpan k e q).1 + off / 4 + j))
      (ws.flatMap (fun w => leBytes 4 w.1.toNat), ws.any (·.2))
    else
      (match iss with
        | some x => s.virtGet tn (x.src + 4 * (s.redSpan k e q).1 + off) n
        | none => (zeros n, true))
  | _ =>
    if e.permMode = 1 then
      if q.dst = reportIdx then
        let r := s.reshardReport k i.step
        ((leBytes 4 r.1 ++ leBytes 1 (b2n r.2) ++ zeros 11), false)
      else
        match (s.partTensors k)[q.dst]? with
        | some t => s.partGet k ((s.job k).slotOf q.src) off n t
        | none => (zeros n, true)
    else
      match iss with
      | some x => s.virtGet tn (x.src + off) n
      | none => (zeros n, true)

/-- Receive slot of source shard `src` in the area of an owned shard (R374). -/
def State.recvSlot (s : State) (k : Nat) (e : CollEntry) (src dst : Nat) : Nat :=
  e.recvVa + ((s.job k).slotOf dst * (s.job k).map.length + src) * s.answerLen k e ⟨src, dst, 0, 0⟩

/-- Bytes of an answer put where they belong. Into a page that is being moved they land at once and move with it, so that what R385 has
wait until the move has ended reads the same (log entry 68). -/
def State.place (s : State) (i : CollInst) (e : CollEntry) (q : SegKey) (off : Nat) (bs : List Byte) (p : Bool) : State × CollInst :=
  let k := i.job
  let tn := s.tn k
  match e.op with
  | 0 =>
    let at_ := (q.src * e.partLen + s.streamLo e q.stream) * e.es + off
    (i.dests.foldl (fun s d => s.virtPut tn (d + at_) bs p) s, i)
  | 1 => (s.virtPut tn (s.recvSlot k e q.src q.dst + off) bs p, i)
  | 2 =>
    let row := if s.redSplit k e && q.src == q.dst then (s.job k).map.length else q.src
    (s, i.keepVec row (4 * (s.redSpan k e q).1 + off) bs p)
  | _ =>
    if e.permMode = 1 then
      if q.dst = reportIdx then (s, { i with reports := i.reports ++ [(q.src, leVal (bs.take 4), bitN 0 (leVal ((bs.drop 4).take 1)) && !p)] })
      else
        match (s.partTensors k)[q.dst]? with
        | some t => (s.partPut k (movingSlot + q.src) off t bs p, i)
        | none => (s, i)
    else
      match i.issue q.dst with
      | some x => (s.virtPut tn (x.dst + off) bs p, i)
      | none => (s, i)

/-! ### Messages (R371) -/

/-- Fields of a COLL_SEG. -/
def LMsg.coll (m : LMsg) : Nat := m.f 16 2
def LMsg.cflags (m : LMsg) : Nat := m.f 18 1
def LMsg.step (m : LMsg) : W32 := BitVec.ofNat 32 (m.f 20 4)
def LMsg.segKey (m : LMsg) : SegKey := ⟨m.f 24 5 % 2 ^ 20, m.f 24 5 / 2 ^ 20, m.f 19 1, m.f 29 3⟩

/-- The acknowledgment of a COLL_SEG. -/
def State.ackSeg (s : State) (m : LMsg) (status : Nat) : State := s.answer 9 m m.coll status false []

/-- Marks the request itself, among the outstanding messages. -/
def reqSeg : Nat := 2 ^ 24

def collSpec (coll flags stream : Nat) (step : W32) (src dst seg : Nat) : List Byte :=
  leBytes 2 coll ++ leBytes 1 flags ++ leBytes 1 stream ++ leBytes 4 step.toNat ++ leBytes 5 (src + dst * 2 ^ 20) ++ leBytes 3 seg

def State.countTx (s : State) (n : Nat) : State := { s with coll := { s.coll with segTx := s.coll.segTx + BitVec.ofNat 64 n } }
def State.countRx (s : State) : State := { s with coll := { s.coll with segRx := s.coll.segRx + 1 } }

/-- A request. `seg` is 0 for the whole answer, or one more than the segment that is asked for again (R321). -/
def State.sendReq (s : State) (k coll : Nat) (step : W32) (cls : Nat) (comp : Bool) (q : SegKey) (seg node : Nat) : State :=
  let j := (s.job k).info
  (s.countTx 1).postOut 5 cls false 0 node j.tenant j.slot
    (collSpec coll (1 + 4 * b2n comp) q.stream step q.src q.dst seg) [] (.seg k coll step { q with seg := reqSeg })

/-- One segment of an answer in a traffic class; a compressed segment with a damaged block is sent with poison (R321). -/
def State.sendSeg (s : State) (i : CollInst) (e : CollEntry) (q : SegKey) (node seg cls : Nat) : State :=
  let j := (s.job i.job).info
  let r := s.answerBytes i e q (seg * e.segSize) (s.segLen i.job e q seg)
  let s := s.noteAnswer i e q (seg * e.segSize) (s.segLen i.job e q seg)
  let bad := if e.compressed && e.op == 1 then
      ((List.range (r.1.length / 144)).filter (fun b =>
        (blockWidths ((r.1.drop (144 * b)).take 144) (q.dst * (e.partLen / 256) + 28 * seg + b)).isNone)).length
    else 0
  let die := match i.issue q.src with
    | some x => (match s.physOf j.tenant x.leaf with
      | some a => dieOf a
      | none => 0)
    | none => 0
  let s := if bad = 0 then s else
    { s with cz := Sp.upd CzDie.reset s.cz die (fun d => { d with damaged := satAdd32 d.damaged bad }) }
  let last := b2n (seg + 1 == s.segCount i.job e q)
  (s.countTx 1).postOut 5 cls (r.2 || bad != 0) (seg % 16) node j.tenant j.slot
    (collSpec i.coll (2 * last + 4 * b2n e.compressed) q.stream i.step q.src q.dst seg) r.1 (.seg i.job i.coll i.step { q with seg := seg })

/-! ### Compressions (R310, R317) -/

/-- The `n`-th block of a controller. -/
def CzRun.blockOf (c n : Nat) : Nat := 4 * (n / 4 * 8 + c) + n % 4
/-- Whether a block's group has been written. -/
def CzRun.written (r : CzRun) (b : Nat) : Bool :=
  let g := b / 4
  let last := min (4 * g + 3) (r.blocks - 1)
  decide (4 * (g / 8) + last % 4 < r.groups.getD (g % 8) 0)
def CzRun.done (r : CzRun) : Bool := (List.range 8).all (fun c => decide (r.blocks ≤ CzRun.blockOf c (r.groups.getD c 0)))

def State.czAt (s : State) (d : Nat) : CzDie := Sp.get CzDie.reset s.cz d
def State.updCz (s : State) (d : Nat) (f : CzDie → CzDie) : State := { s with cz := Sp.set CzDie.reset s.cz d (f (s.czAt d)) }

/-- R310, R323: checks of a compression descriptor. -/
def descOk (d : Entry) : Bool :=
  entryField d 0 6 % 4 == 0 && entryField d 6 6 % 4 == 0 && entryField d 12 6 % 64 == 0 && entryField d 18 1 % 4 != 3 &&
    entryField d 18 1 / 8 == 0 && entryField d 19 1 / 16 == 0 && entryField d 23 1 == 0 && entryField d 24 4 / 2 ^ 20 == 0 &&
    entryField d 28 8 % 256 == 0 && entryField d 36 8 != 0 && decide (entryField d 36 8 ≤ 2 ^ 40) &&
    decide (entryField d 28 8 + entryField d 36 8 ≤ 2 ^ 44) && entryField d 44 20 == 0

/-- Every page of a virtual range lies in tier 1 on one die. -/
def State.rangeOnDie (s : State) (tn va n die : Nat) : Bool :=
  (List.range ((va + n - 1) / 65536 - va / 65536 + 1)).all (fun i => match (s.pageOf tn ((va / 65536 + i) * 65536)).2.dest with
    | .tier1 f _ => f / dieFrames == die
    | _ => false)

/-- The residual tensor, slot and offset that a residual address names (R314). -/
def State.residAt (s : State) (k shard va : Nat) : Option (TensorRec × Nat × Nat) :=
  ((s.residuals k).find? (fun t => decide (t.va ≤ va) && decide (va < t.va + t.size * pageSize) &&
      ((s.job k).heldBy s.self).contains shard)).map
    (fun t => (t, (s.job k).slotOf shard, va - t.va))

/-- Home die of a compression: that of its leaf. -/
def State.descDie (s : State) (k : Nat) (d : Entry) : Nat :=
  match s.physOf (s.tn k) (entryField d 0 6) with
  | some a => dieOf a
  | none => 0

/-- The leaf values and the residual words of a descriptor, all of them, lie in tier-1 pages of one home die (R310). -/
def State.descPlaced (s : State) (k : Nat) (d : Entry) : Bool :=
  let n := 4 * entryField d 36 8
  let die := s.descDie k d
  match s.residAt k (entryField d 24 4) (entryField d 6 6) with
  | some (t, slot, off) =>
    s.rangeOnDie (s.tn k) (entryField d 0 6) n die && decide (off + n ≤ t.size * pageSize) &&
      (List.range ((off + n - 1) / pageSize - off / pageSize + 1)).all (fun i =>
        match s.partFrame (s.tn k) (s.job k).info.job t.id slot (off / pageSize + i) with
        | some f => f / dieFrames == die
        | none => false)
  | none => false

/-- The leaf that a descriptor names (R310, R314). -/
def State.descLeaf (s : State) (k : Nat) (d : Entry) : Leaf :=
  let at_ := (s.residAt k (entryField d 24 4) (entryField d 6 6)).map (fun r => (r.1.id, r.2.2))
  ⟨entryField d 24 4, entryField d 20 3, entryField d 28 8, entryField d 36 8, (at_.getD (0, 0)).1, (at_.getD (0, 0)).2⟩

/-- A leaf that a compression names kept; residual words of it that a takeover restored take their places (log entry 87). -/
def State.nameLeaf (s : State) (k : Nat) (f : Leaf) : State :=
  let lo := residKey f.shard f.tensor f.origin
  let mine (e : Nat) : Bool := decide (lo ≤ e) && decide (e < lo + f.count)
  let u := (s.job k).upd
  (u.restored.filter (fun w => mine w.1)).foldl (fun (s : State) w => match s.leafWord k f (w.1 - lo) with
    | some a => s.wrPhys a (leBytes 4 w.2.1.toNat) w.2.2
    | none => s) (s.updUpd k (fun u => { u with
      leafs := if u.leafs.contains f then u.leafs else u.leafs ++ [f], restored := u.restored.filter (fun w => !mine w.1) }))

/-- A compression started for an issue of the job in slot `inst`; the descriptor names the slot whose scale and residuals it takes. -/
def State.startCz (s : State) (n c inst coll : Nat) (step : W32) (d : Entry) : State :=
  let k := entryField d 19 1 % 16
  let die := s.descDie k d
  let s := s.nameLeaf k (s.descLeaf k d)
  let r : CzRun :=
    { core := n, ctx := c, inst := inst, jobSlot := k, die := die, grad := entryField d 0 6, resid := entryField d 6 6, out := entryField d 12 6,
      policy := entryField d 18 1 % 4, dither := bitN 2 (entryField d 18 1), tensor := entryField d 20 3, shard := entryField d 24 4,
      origin := entryField d 28 8, count := entryField d 36 8, exp := (s.job k).upd.st.exp, step := step, coll := coll,
      groups := List.replicate 8 0, bufs := List.replicate 8 ([], false), xors := [], bad := [] }
  s.updCz die (fun z =>
    let z := { z with runs := z.runs ++ [r] }
    { z with cqMax := max z.cqMax z.fullest })

/-- Whether the leaf blocks of an issue for a destination shard are written. -/
def State.leafReady (s : State) (i : CollInst) (e : CollEntry) (q : SegKey) : Bool :=
  !e.compressed || !(s.cz.any (fun d => d.2.runs.any (fun r => r.inst == i.job && r.coll == i.coll && r.step == i.step &&
    r.shard == q.src && (List.range (e.partLen / 256)).any (fun b =>
      decide (q.dst * (e.partLen / 256) + b < r.blocks) && !r.written (q.dst * (e.partLen / 256) + b)))))

/-! ### What an expander may add (R318, R374) -/

/-- What a range of an owned sum takes from the blocks of a slot: block, first element, count. -/
def State.rangeWork (s : State) (k : Nat) (e : CollEntry) (shard dst q : Nat) : List (Nat × Nat × Nat) :=
  let cut (a n : Nat) : List (Nat × Nat × Nat) :=
    if n = 0 then []
    else (List.range ((a + n - 1) / 256 - a / 256 + 1)).map (fun i =>
      let lo := max a ((a / 256 + i) * 256)
      let hi := min (a + n) ((a / 256 + i + 1) * 256)
      (a / 256 + i, lo, hi - lo))
  if e.dstKind = 1 then
    let u := s.entryAt k e.t
    let share := s.shareLen k u
    let rg := recRange u share q
    allUnits.flatMap (fun x => cut (elemBase share x rg.1) (elemCount e.partLen share x rg.1 rg.2))
  else
    let base := dst + shard * e.partLen * e.outSize
    let lo := (((base / pageSize + q) * pageSize - base) + e.outSize - 1) / e.outSize
    let hi := min e.partLen (((base / pageSize + q + 1) * pageSize - base + e.outSize - 1) / e.outSize)
    cut lo (hi - lo)

/-- Bytes of a block of a slot: 144 compressed, 1,024 otherwise. -/
def CollEntry.blockBytes (e : CollEntry) : Nat := if e.compressed then 144 else 1024

/-- The next block that a range of an owned sum adds: source shard, block, first element, count. -/
def State.nextAdd (s : State) (i : CollInst) (e : CollEntry) (o : OwnSum) (dst q : Nat) : Option (Nat × Nat × Nat × Nat) :=
  let c := o.added.getD q (0, 0)
  if (s.job i.job).map.length ≤ c.1 then none
  else
    match (s.rangeWork i.job e o.shard dst q)[c.2]? with
    | none => none
    | some w =>
      let per := e.segSize / e.blockBytes
      if i.got.contains ⟨c.1, o.shard, 0, w.1 / per⟩ then some (c.1, w) else none

/-- The controller of a die whose channel holds the first byte of a block. -/
def State.blockAt (s : State) (k : Nat) (e : CollEntry) (src dst b : Nat) : Option (Nat × Nat) :=
  (s.physOf (s.tn k) (s.recvSlot k e src dst + e.blockBytes * b)).map (fun a => (dieOf a, chanOf a / 4))

/-- The next block that the expander of a controller may add: its instance, table entry, owned sum, destination, range, and place. -/
def State.expandable (s : State) (die ctl : Nat) : Option (CollInst × CollEntry × OwnSum × Nat × Nat × Nat × Nat × Nat × Nat) :=
  s.coll.insts.findSome? (fun i => match s.collEntry i.job i.coll with
    | some e =>
      if e.op = 1 then
        i.sums.findSome? (fun o => match i.issue o.shard with
          | some x => (List.range o.added.length).findSome? (fun q => match s.nextAdd i e o x.dst q with
            | some a => if s.blockAt i.job e a.1 o.shard a.2.1 = some (die, ctl) then some (i, e, o, x.dst, q, a) else none
            | none => none)
          | none => none)
      else none
    | none => none)

/-! ### Answering (R371, R372) -/

/-- The last dimension, in a stream's order, in which two nodes differ. -/
def lastDim (dims : List Nat) (a b stream : Nat) : Option Nat :=
  (((List.range dims.length).map (fun x => (stream + x) % dims.length)).filter (fun d => coordOf dims a d != coordOf dims b d)).getLast?

/-- Where a module asks for the stream of a part that another node holds: the member of its ring in the phase that brings
it, or the holder itself where that node is no member of the job. -/
def State.gatherSource (s : State) (k node holder stream : Nat) : Nat :=
  let dims := s.fabric.dims
  match lastDim dims node holder stream with
  | none => holder
  | some d =>
    let v := withCoord dims node d (coordOf dims holder d)
    if (s.job k).map.any (fun e => e.1 == v) then v else holder

/-- Whether every segment of an answer has been accepted. -/
def State.gotAll (s : State) (i : CollInst) (e : CollEntry) (q : SegKey) : Bool :=
  (List.range (s.segCount i.job e q)).all (fun g => i.got.contains { q with seg := g })

/-- Whether every vector's share of the part of a shard is here (R376). -/
def State.partSummed (s : State) (i : CollInst) (e : CollEntry) (l : Nat) : Bool :=
  (s.held i.job).all (fun x => (i.issue x).isSome) &&
    (List.range (s.job i.job).map.length).all (fun src => s.holder i.job src == s.self || s.gotAll i e ⟨src, l, 0, 0⟩)

/-- Whether the data that a request asks for is ready here. -/
def State.ready (s : State) (i : CollInst) (e : CollEntry) (q : SegKey) : Bool :=
  let own := s.holder i.job q.src == s.self
  match e.op with
  | 0 =>
    if i.phase = 1 then i.issues != []
    else if own then (i.issue q.src).isSome
    else match i.issues.head? with
      | some x => s.gotAll i e { q with dst := x.shard, seg := 0 }
      | none => false
  | 1 => (i.issue q.src).isSome && s.leafReady i e q
  | 2 =>
    if s.redSplit i.job e && q.src == q.dst then
      if own then s.partSummed i e q.src else s.gotAll i e { q with seg := 0 }
    else (i.issue q.src).isSome
  | _ =>
    if e.permMode = 1 then
      (i.issue q.src).isSome && (if q.dst = reportIdx then
        s.entriesOf i.job == [] || (s.job i.job).upd.st.sealed + 1 == i.step
      else i.phase == 1)
    else (i.issue q.src).isSome

/-- The answer to a request: all of it, or the segment asked for again, which travels unscheduled (R338). -/
def State.giveAnswer (s : State) (i : CollInst) (e : CollEntry) (h : HeldReq) : State :=
  let q := { h.key with seg := 0 }
  if h.key.seg = 0 then
    let s := (List.range (s.segCount i.job e q)).foldl (fun s g => s.sendSeg i e q h.node g e.cls) s
    s.putInst { i with sent := i.sent ++ [q] }
  else s.sendSeg i e q h.node (h.key.seg - 1) 1

/-- R464: partials of a step go out once the escrow of the step is acknowledged, and the decision of the step before. -/
def State.partialsFree (s : State) (k : Nat) (step : W32) : Bool :=
  let job := (s.job k).info.job
  !(s.watchOut.any (fun r => r.job == job && (((r.kind == 0x21 || r.kind == 0x12) && r.step == step.toNat) ||
    (r.kind == 0x22 && r.step + 1 == step.toNat))))

/-- An answer to a request for a shard partial (R377). -/
def State.giveNorm (s : State) (h : HeldReq) (q : W32 × Bool) : State :=
  let j := (s.job h.job).info
  (s.countTx 1).postOut 5 1 q.2 0 h.node j.tenant j.slot (collSpec 0xFFFF 2 0 h.step h.key.src h.key.dst 0) (leBytes 4 q.1.toNat)
    (.seg h.job 0xFFFF h.step { h.key with seg := 0 })

/-- R467 step 4: a watcher whose escrow of the step was not complete answers the requests of the old attempt with poison: those
that come before its own contexts take part in the step. -/
def State.escrowLost (s : State) (k : Nat) : Bool :=
  let u := (s.job k).upd
  u.noEscrow && u.landed.isEmpty && s.coll.insts.all (fun i => i.job != k)

/-- A held request served, if what it asks for is ready. -/
def State.serve (s : State) (h : HeldReq) : Option State :=
  if h.coll = 0xFFFF then
    if h.step = (s.job h.job).upd.st.step + 1 ∧ s.partialsFree h.job h.step = true then
      (match s.shardPartial h.job h.key.src with
        | some q => some (s.giveNorm h q)
        | none => if s.escrowLost h.job then some (s.giveNorm h (nan32, true)) else none)
    else none
  else
    match s.inst h.job h.coll h.step, s.collEntry h.job h.coll with
    | some i, some e => if s.ready i e h.key then some (s.giveAnswer i e h) else none
    | _, _ => none

/-- Every held request that can be served now. -/
def State.serveHeld (s : State) : State :=
  s.coll.held.foldl (fun s h => match s.serve h with
    | some s' => { s' with coll := { s'.coll with held := s'.coll.held.filter (· != h) } }
    | none => s) s

/-! ### The request table (R371, R385) -/

/-- Whether the request table of a job has an entry free: it has one for each peer. -/
def State.tableRoom (s : State) (k : Nat) : Bool := decide ((s.coll.held.filter (fun h => h.job == k)).length < s.peers k)

/-- The entry that a request takes. -/
def LMsg.heldReq (m : LMsg) : HeldReq := ⟨m.slot, m.coll, m.step, m.segKey, m.src⟩

/-- A request takes its entry, and is acknowledged. -/
def State.holdReq (s : State) (m : LMsg) : State :=
  let s := s.countRx
  let h := s.coll.held ++ [m.heldReq]
  { s with coll := { s.coll with held := h, reqMax := max s.coll.reqMax h.length } }.ackSeg m 0

/-- The requests that wait at their requesters, in their order: one that finds an entry free, or that can be answered at once, is taken. -/
def State.admitReqs (s : State) : State :=
  s.coll.waiting.foldl (fun s m =>
    if s.tableRoom m.slot || (s.serve m.heldReq).isSome then
      ({ s with coll := { s.coll with waiting := s.coll.waiting.erase m } }).holdReq m
    else s) s

/-- Requests served and taken in turn. -/
def State.pumpReqs (s : State) : Nat → State
  | 0 => s
  | n + 1 =>
    let t := s.serveHeld
    if t.coll.waiting.isEmpty then t else t.admitReqs.pumpReqs n

/-! ### Asking -/

/-- What an issue asks for, and from whom. -/
def State.wants (s : State) (i : CollInst) (e : CollEntry) (x : CollIssue) : List (SegKey × Nat) :=
  let k := i.job
  let far := (List.range (s.job k).map.length).filter (fun l => s.holder k l != s.self)
  match e.op with
  | 0 =>
    if i.phase = 1 || (i.issues.any (fun y => y.shard != x.shard && y.dst == x.dst)) then []
    else far.flatMap (fun l => (List.range s.streams).filterMap (fun st =>
      let q : SegKey := ⟨l, x.shard, st, 0⟩
      if s.answerLen k e q = 0 then none else some (q, s.gatherSource k s.self (s.holder k l) st)))
  | 1 => far.map (fun l => (⟨l, x.shard, 0, 0⟩, s.holder k l))
  | 2 =>
    let first := !i.issues.any (fun y => y.shard != x.shard)
    if !s.redSplit k e then (if first then far.map (fun l => (⟨l, x.shard, 0, 0⟩, s.holder k l)) else [])
    else
      (far.map (fun l => ((⟨l, x.shard, 0, 0⟩ : SegKey), s.holder k l)) ++
        (if first then far.flatMap (fun l => (List.range s.streams).map (fun st =>
          ((⟨l, l, st, 0⟩ : SegKey), s.gatherSource k s.self (s.holder k l) st))) else [])).filter (fun w => s.answerLen k e w.1 != 0)
  | _ =>
    if e.permMode = 1 then
      if i.issues.any (fun y => y.shard != x.shard) then [] else far.map (fun l => (⟨l, reportIdx, 0, 0⟩, s.holder k l))
    else if e.permMode = 2 then
      let maps := (s.job k).allMaps
      let from_ := ((s.job k).stage : Int) - signed 8 e.stageDelta
      if 0 ≤ from_ ∧ from_ < maps.length then [(⟨x.shard, x.shard, 0, 0⟩, ((maps.getD from_.toNat []).getD x.shard (0, 0)).1)] else []
    else []

/-- The requests of an issue sent. -/
def State.askFor (s : State) (i : CollInst) (e : CollEntry) (ws : List (SegKey × Nat)) : State :=
  let s := s.putInst { i with asked := i.asked ++ ws.map (fun w => { w.1 with seg := s.segCount i.job e w.1 }) }
  ws.foldl (fun s w => s.sendReq i.job i.coll i.step e.cls e.compressed w.1 0 w.2) s

/-! ### What is supplied here -/

/-- A whole answer placed here without a message. -/
def State.supply (s : State) (i : CollInst) (e : CollEntry) (q : SegKey) : State × CollInst :=
  let n := s.segCount i.job e q
  let r := s.answerBytes i e q 0 (s.answerLen i.job e q)
  let s := s.noteAnswer i e q 0 (s.answerLen i.job e q)
  let o := s.place i e q 0 r.1 r.2
  let poison (x : CollIssue) : CollIssue := if r.2 then { x with poison := true } else x
  (o.1, { o.2.mapIssue (fun x => e.op == 0 || e.op == 2 || x.shard == q.dst) poison with
    got := o.2.got ++ (List.range n).map (fun g => { q with seg := g }) })

/-- The supplies of shard `l` to this module's own destinations. -/
def State.supplyOwn (s : State) (i : CollInst) (e : CollEntry) (l : Nat) : State × CollInst :=
  match e.op with
  | 0 =>
    if i.phase = 1 then (s, i)
    else
      i.issues.foldl (fun (a : State × CollInst) x => (List.range s.streams).foldl (fun (a : State × CollInst) st =>
        if s.answerLen i.job e ⟨x.shard, l, st, 0⟩ = 0 then a else a.1.supply a.2 e ⟨x.shard, l, st, 0⟩) a) (s, i)
  | 1 => (s.held i.job).foldl (fun (a : State × CollInst) d => a.1.supply a.2 e ⟨l, d, 0, 0⟩) (s, i)
  | 2 =>
    if s.redSplit i.job e then
      (match i.issue l with
        | some x =>
          let r := s.virtGet (s.tn i.job) x.src (4 * e.partLen)
          (s.noteVirt (s.tn i.job) x.src (4 * e.partLen) (e.partLen / 16384 + 2),
            (i.mapIssue (fun _ => true) (fun y => if r.2 then { y with poison := true } else y)).keepVec l 0 r.1 r.2)
        | none => (s, i))
    else s.supply i e ⟨l, l, 0, 0⟩
  | _ => (s, i)

/-! ### Acceptance (R369, R370) -/

/-- Every 64 KiB page of a range is mapped, and, to be written, is not read-only: a compute half is no destination of a collective (R279,
R369; log entry 90). -/
def State.mapped (s : State) (tn va n : Nat) (write : Bool) : Bool :=
  (List.range ((va + n - 1) / 65536 - va / 65536 + 1)).all (fun i =>
    let c := s.accessCode tn ((va / 65536 + i) * 65536) write
    c != 3 && c != 4 && c != 6)

/-- What an issue reads, and what it writes, by virtual address: first byte and length. -/
def State.issueReads (s : State) (k shard src : Nat) (e : CollEntry) : List (Nat × Nat) :=
  let n := e.partLen * e.es
  match e.op with
  | 0 => if e.srcKind = 1 then [] else [(src + shard * n, n)]
  | 1 => if e.compressed then [] else [(src, (s.job k).map.length * 4 * e.partLen)]
  | 2 => [(src, n)]
  | _ => if e.permMode = 2 then [(src, n)] else []
def State.issueWrites (s : State) (k shard dst : Nat) (e : CollEntry) (comp : Option Entry) : List (Nat × Nat) :=
  let n := e.partLen * e.es
  (match e.op with
    | 0 => [(dst, (s.job k).map.length * n)]
    | 1 => if e.dstKind = 1 then [] else [(dst + shard * e.partLen * e.outSize, e.partLen * e.outSize)]
    | 2 => [(dst, n)]
    | _ => if e.permMode = 2 then [(dst, n)] else []) ++
  (match comp with
    | some d => [(entryField d 12 6, 576 * ceilDiv (ceilDiv (entryField d 36 8) 256) 4)]
    | none => [])

/-- Ranges of an issue that must lie in the tenant's map. -/
def State.rangesOk (s : State) (k shard src dst : Nat) (e : CollEntry) (comp : Option Entry) : Bool :=
  (s.issueReads k shard src e).all (fun r => s.mapped (s.tn k) r.1 r.2 false) &&
    (s.issueWrites k shard dst e comp).all (fun r => s.mapped (s.tn k) r.1 r.2 true)

/-- Ranges of an owned sum (R374): the update records of the entry, or the 2 MiB pages of the destination. -/
def State.sumRanges (s : State) (k shard dst : Nat) (e : CollEntry) : Nat :=
  if e.dstKind = 1 then (s.entryAt k e.t).records
  else
    let a := dst + shard * e.partLen * e.outSize
    (a + e.partLen * e.outSize - 1) / pageSize - a / pageSize + 1

/-- A gather of a layer whose retention was granted and that an earlier entry has gathered already (R381). -/
def State.retained (s : State) (k : Nat) (e : CollEntry) (dst : Nat) : Bool :=
  let j := s.job k
  let layer := (s.retentions j.info).findIdx? (fun t => decide (t.va ≤ dst) && decide (dst < t.va + t.size * pageSize))
  let second := match s.image with
    | some im => (match im.colls.find? (fun c => c.job == j.info.job) with
      | some c => (match c.entries.find? (fun x => x.op == 0 && x.retain && x.dstVa == e.dstVa) with
        | some x => x.id != e.id
        | none => false)
      | none => false)
    | none => false
  e.op == 0 && e.retain && second && (match layer with
    | some l => decide (l < j.layers)
    | none => false)

/-- Whether nothing more will happen to an instance. -/
def CollInst.settled (i : CollInst) : Bool := i.issues.all (·.done) && i.sums.all (fun o => o.written == o.reported || i.issues == [])

/-- An issue accepted: what it supplies here, what it asks for, and what it lets others have. -/
def State.beginIssue (s : State) (k : Nat) (step : W32) (e : CollEntry) (x : CollIssue) : State :=
  let s := { s with coll := { s.coll with insts := s.coll.insts.filter (fun i => !(i.job == k && i.step != step && i.settled)) } }
  let i0 : CollInst := (s.inst k e.id step).getD
    { job := k, coll := e.id, step := step, issues := [], asked := [], got := [], sent := [], buf := [], sums := [], reports := [],
      tries := [], kept := [], phase := b2n (s.retained k e x.dst) }
  let i1 := { i0 with issues := i0.issues ++ [x] }
  let i2 := if e.op = 1 then
      { i1 with sums := i1.sums ++ [⟨x.shard, List.replicate (s.sumRanges k x.shard x.dst e) (0, 0), [], [], []⟩] }
    else i1
  let ws := s.wants i2 e x
  let s := (s.putInst i2).updCtx x.core x.ctx (fun c => { c with outCmds := c.outCmds + 1 })
  let s := match x.comp with
    | some d => s.startCz x.core x.ctx k e.id step d
    | none => s
  let o : State × CollInst := if x.comp.isSome then (s, i2) else
    if e.op = 0 then i2.issues.foldl (fun (a : State × CollInst) y => a.1.supplyOwn a.2 e y.shard) (s, i2) else s.supplyOwn i2 e x.shard
  let s := o.1.askFor o.2 e ws
  s.pumpReqs (s.coll.waiting.length + 1)

/-- R369, R370: a collective instruction taken from the outbound queue. -/
def State.collTake (s : State) (n c : Nat) (w : IWord) : State :=
  let p := w.pl
  let x := s.ctx n c
  match s.jobSlot x.prog with
  | none => s.seqFault n c 2
  | some k =>
    match s.collEntry k (field 15 0 p), s.actingShard k n x.prog.id with
    | some e, some shard =>
      let cd := field 43 27 p
      let off := (x.reg (field 48 44 p)).toNat * 2 ^ field 52 49 p
      let status := 16 * field 72 53 p
      let comp := if e.op = 1 ∧ e.compressed = true then some (entryOf (s.sram n (64 * cd) 64)) else none
      let dst := e.dstVa + off
      let src := if e.op = 1 then (if comp.isSome then 0 else (Config.partnerRange e.dstVa).toNat + off)
        else if e.srcKind = 0 then e.srcVa + off else 0
      let again := match s.inst k e.id x.stepReg with
        | some i => (i.issue shard).isSome
        | none => false
      let descBad := match comp with
        | some d =>
          let slot := entryField d 19 1 % 16
          !descOk d || (s.job slot).life == .none || (s.job slot).info.tenant != x.prog.tenant || !s.descPlaced slot d
        | none => false
      if e.op ≠ w.opc ∨ (comp = none ∧ cd ≠ 0) ∨ sramSize < 64 * cd + 64 ∨ sramSize < status + 16 ∨ x.hitsSave status 16 = true ∨ 2 ^ 48 ≤ dst ∨ 2 ^ 48 ≤ src ∨ again = true ∨
          descBad = true ∨ s.rangesOk k shard src dst e comp = false ∨
          (s.issueWrites k shard dst e comp).any (fun r => s.virtHits n x.prog.tenant x r.1 r.2) = true then s.seqFault n c 2
      else
        s.beginIssue k x.stepReg e ⟨shard, n, c, field 26 16 p, status, src, dst, comp, 0, false, false, false, false⟩
    | _, _ => s.seqFault n c 2

end Sys2Proof.Machine
end

