-- ==== Sys2Proof/Machine/Coll.lean ====
section
/-!
DEFINITION. Commands of the collective engine, the compressors and the expanders (R304 to R322, R365 to R385), and the
acknowledgments that let held requests go on.
-/

namespace Sys2Proof.Machine

/-! ### Completion of an issue (R378) -/

/-- Requests that peers make of this module for the part of a shard in a gather: stream and asking node. -/
def State.gatherAskers (s : State) (k : Nat) (e : CollEntry) (l : Nat) : List (Nat × Nat) :=
  let nodes := ((s.job k).map.map (·.1)).eraseDups.filter (fun v => v != s.self)
  (List.range s.streams).flatMap (fun st => (nodes.filter (fun v =>
    s.holder k l != v && s.gatherSource k v (s.holder k l) st == s.self && s.answerLen k e ⟨l, 0, st, 0⟩ != 0)).map (fun v => (st, v)))

/-- Whether an instance has segments under way. -/
def State.segsOut (s : State) (i : CollInst) (sel : SegKey → Bool) : Bool :=
  s.gl.outs.any (fun o => match o.use with
    | .seg k c st q => i.is k c st && sel q
    | _ => false)

/-- Every answer that an issue of shard `x` waits for has come. -/
def State.allGot (s : State) (i : CollInst) (e : CollEntry) (sel : SegKey → Bool) : Bool :=
  i.asked.all (fun q => !sel q || s.gotAll i e { q with seg := 0 })

/-- Whether an issue's part of its instance is done. -/
def State.issueDone (s : State) (i : CollInst) (e : CollEntry) (x : CollIssue) : Bool :=
  let k := i.job
  x.abandoned || x.lost ||
  (match e.op with
    | 0 =>
      i.phase == 1 ||
        (s.allGot i e (fun _ => true) && (s.held k).all (fun l => (i.issue l).isSome) &&
          (s.gatherAskers k e x.shard).all (fun a => i.sent.any (fun q => q.src == x.shard && q.stream == a.1 && s.holder k q.dst == a.2)))
    | 1 =>
      (List.range (s.job k).map.length).all (fun d => s.holder k d == s.self ||
        i.sent.contains ⟨x.shard, d, 0, 0⟩) && !s.segsOut i (fun q => q.src == x.shard && q.seg != reqSeg) &&
        i.sums.all (fun o => o.shard != x.shard || o.written.length == o.added.length)
    | 2 => s.allGot i e (fun _ => true) && (s.held k).all (fun l => (i.issue l).isSome)
    | _ =>
      if e.permMode = 1 then i.phase == 2
      else if e.permMode = 2 then
        let dest := ((s.job k).stage : Int) + signed 8 e.stageDelta
        s.allGot i e (fun q => q.dst == x.shard) &&
          (!(decide (0 ≤ dest) && decide (dest < (s.job k).allMaps.length)) ||
            (i.sent.any (fun q => q.src == x.shard) && !s.segsOut i (fun q => q.src == x.shard && q.seg != reqSeg)))
      else true)

/-- The result of an all-reduce written for an issue, with its poison. -/
def State.writeVec (s : State) (i : CollInst) (e : CollEntry) (x : CollIssue) : State × Bool :=
  let ws := (List.range e.partLen).map (fun j => s.redWord i e j)
  ((List.range (ceilDiv e.partLen 16)).foldl (fun (s : State) c =>
    let w := (ws.drop (16 * c)).take 16
    s.virtPut (s.tn i.job) (x.dst + 64 * c) (w.flatMap (fun v => leBytes 4 v.1.toNat)) (w.any (·.2))) s, ws.any (·.2))

/-- The result of an all-reduce that is not complete: poison. -/
def State.poisonVec (s : State) (i : CollInst) (e : CollEntry) (x : CollIssue) : State × Bool :=
  (s.virtPut (s.tn i.job) x.dst (zeros (4 * e.partLen)) true, true)

/-- An issue completes: status record, arrival, counters (R378). -/
def State.endIssue (s : State) (i : CollInst) (e : CollEntry) (x : CollIssue) : State :=
  let o := if e.op ≠ 2 then (s, false)
    else if x.abandoned = false ∧ s.allGot i e (fun _ => true) = true ∧ (s.held i.job).all (fun l => (i.issue l).isSome) = true then s.writeVec i e x
    else s.poisonVec i e x
  let p := x.poison || o.2 || x.abandoned || x.lost || (e.op == 1 && i.sums.any (fun q => q.shard == x.shard && q.acc.any (fun a => a.2.2)))
  let s := o.1.putInst (i.mapIssue (fun y => y.shard == x.shard) (fun y => { y with done := true, poison := p }))
  let s := { s with coll := { s.coll with lost := satAdd32 s.coll.lost (b2n x.lost) } }
  let rec16 := leBytes 4 (b2n p + 2 * b2n x.abandoned + 4 * b2n x.lost) ++ leBytes 4 x.segs ++ leBytes 8 s.now
  ((s.setSram x.core x.status rec16).updCtx x.core x.ctx (fun c => { c with outCmds := c.outCmds - 1 })).arrive x.core x.ctx x.group p

/-- COLLECTIVE_COMPLETE: the first issue of instance `id` of the engine's list whose part is done completes. -/
def execCollectiveComplete (id : Nat) (s : State) : Out :=
  match s.coll.insts[id]? with
  | none => .next s
  | some i =>
    match s.collEntry i.job i.coll with
    | none => .next s
    | some e =>
      match i.issues.find? (fun x => !x.done && s.issueDone i e x) with
      | some x => .next (s.endIssue i e x)
      | none => .next s

/-! ### Re-sharding (R383) -/

/-- Whether a pending map can be installed on every holder. -/
def State.mapFits (s : State) (k : Nat) (m : List (Nat × Nat)) : Bool :=
  let j := s.job k
  decide (m.length = j.map.length) && m.all (fun e => (s.gl.view.getD e.1 0 == 4 || e.1 == s.self) && decide (e.2 < 2 ^ j.info.hExp)) &&
    m.eraseDups.length == m.length

/-- Contexts of a job by the shard slot they are bound to. -/
def State.mapSlotCtxs (s : State) (k : Nat) (sel : Nat → Bool) (f : Ctx → Ctx) : State :=
  let j := s.job k
  { s with cores := s.cores.map (fun (c : Nat × CoreSt) => (c.1, { c.2 with ctxs := c.2.ctxs.map (fun (x : Nat × Ctx) =>
      (x.1, if x.2.ofJob j.info && sel (j.slotFor c.1 x.2.prog.id) then f x.2 else x.2)) })) }

/-- The contexts bound to some slots begin at the step entry (R383); their flags are those of a start. -/
def State.beginSlots (s : State) (k : Nat) (sel : Nat → Bool) (step : W32) : State :=
  let j := s.job k
  { s with cores := s.cores.map (fun (c : Nat × CoreSt) =>
      let mine := (c.2.ctxs.filter (fun x => x.2.ofJob j.info && sel (j.slotFor c.1 x.2.prog.id))).map (·.1)
      (c.1, { c.2 with
        ctxs := c.2.ctxs.map (fun (x : Nat × Ctx) => (x.1, if mine.contains x.1 then x.2.restart step else x.2))
        grps := mine.foldl (fun g x => Sp.eraseRange (x * 2048) ((x + 1) * 2048) g) c.2.grps })) }

/-- Frames of a job's parts put into another slot. -/
def State.renameSlot (s : State) (k from_ dest : Nat) : State :=
  let j := (s.job k).info
  { s with frames := s.frames.map (fun (f : Nat × Frame) => (f.1, match f.2.owner with
    | some (t, b, .part id sl pg) => if t = j.tenant ∧ b = j.job ∧ sl = from_ ∧ s.ringId t b ≠ id then { f.2 with owner := some (t, b, .part id dest pg) } else f.2
    | _ => f.2)) }

/-- The virtual pages of the parts in a slot mapped. -/
def State.mapSlot (s : State) (k slot : Nat) : State :=
  let j := (s.job k).info
  (s.partTensors k).foldl (fun (s : State) t => match t.partVa slot with
    | some va => s.mapUse t.tenant va (bandPages t.size) (t.kind == 4) (fun i => (t.tenant, j.job, .part t.id slot i))
    | none => s) s

/-- The new map takes effect: pages of shards that left are freed, those of shards that came take their slots; contexts of
vacated slots retire, those of filled slots begin at step entry; a changed holder sends a snapshot. -/
def State.installMap (s : State) (k : Nat) (step : W32) (m : List (Nat × Nat)) : State :=
  let old := s.held k
  let won := s.gained k m
  let left := old.filter (fun l => (m.getD l (0, 0)).1 != s.self)
  let kept := old.filter (fun l => (m.getD l (0, 0)).1 == s.self)
  let was := old.map (fun l => ((s.job k).slotOf l, l))
  let s := left.foldl (fun (s : State) l => s.freeSlot k ((s.job k).slotOf l)) s
  let s := kept.foldl (fun (s : State) l => s.renameSlot k ((s.job k).slotOf l) (2 * movingSlot + l)) s
  let s := kept.foldl (fun (s : State) l => s.renameSlot k (2 * movingSlot + l) (m.getD l (0, 0)).2) s
  let s := won.foldl (fun (s : State) w => s.renameSlot k (movingSlot + w.1) w.2) s
  let s := s.updJob k (fun j => { j with map := m, pend := none })
  let now := (s.held k).map (fun l => ((s.job k).slotOf l, l))
  let s := now.foldl (fun (s : State) σ => s.mapSlot k σ.1) s
  let same := now.filter (fun x => was.contains x)
  let s := s.mapSlotCtxs k (fun σ => was.any (fun x => x.1 == σ) && !now.any (fun x => x.1 == σ)) (fun x => { x.endTick with life := .halted })
  let s := s.beginSlots k (fun σ => now.any (fun x => x.1 == σ) && !same.any (fun x => x.1 == σ)) step
  let s := { s with coll := { s.coll with insts := s.coll.insts.map (fun (i : CollInst) =>
    if i.job = k ∧ i.step = step then { i with issues := i.issues.filter (fun x => same.any (fun y => y.2 == x.shard)) } else i) } }
  let s := (s.allocRings k (s.updDies k)).getD s
  if left = [] ∧ won = [] then s
  else (s.updUpd k (fun u => { u with ops := u.ops ++ [⟨false, 64, 0, 0, 0⟩] })).pumpOps k

/-- A re-shard refused (R383): logged; the job goes on under the old map. -/
def State.refuseMap (s : State) (k : Nat) : State :=
  let j := s.job k
  let s := if j.pend.isSome then s.logAs 0 0 0x0052 1 (some j.info.tenant) [(2, j.info.job), (1, 3), (1, (Config.refusalCode 1).toNat)] else s
  s.updJob k (fun j => { j with pend := none })

/-- The shards that come here allocated, and asked for tensor by tensor. -/
def State.beginMove (s : State) (i : CollInst) (e : CollEntry) (m : List (Nat × Nat)) : State :=
  let k := i.job
  let won := s.gained k m
  let dies (s : State) : List Nat := won.flatMap (fun w => (s.entriesOf k).map (fun u =>
    s.partDie (s.tn k) (s.job k).info.job u.grad (movingSlot + w.1)))
  let r := (won.foldl (fun (a : Option State) w => a.bind (fun s => s.allocSlot k (movingSlot + w.1))) (some s)).bind (fun s =>
    s.allocRings k (dies s).eraseDups)
  match r with
  | none => (s.putInst { i with phase := 2 }).refuseMap k
  | some s =>
    let ws : List (SegKey × Nat) := won.flatMap (fun w => (List.range (s.partTensors k).length).map (fun t => (⟨w.1, t, 0, 0⟩, s.holder k w.1)))
    let s := s.askFor { i with phase := 1 } e ws
    s.pumpReqs (s.coll.waiting.length + 1)

/-- The phases of a re-shard: reports, moves, installation. -/
def State.pumpMove (s : State) (i : CollInst) (e : CollEntry) : State :=
  let k := i.job
  let j := s.job k
  if i.phase = 0 then
    let ready := (s.held k).all (fun l => (i.issue l).isSome) && (s.entriesOf k == [] || j.upd.st.sealed + 1 == i.step)
    let far := (List.range j.map.length).filter (fun l => s.holder k l != s.self)
    if !ready || !far.all (fun l => i.reports.any (fun r => r.1 == l)) then s
    else
      let mine := s.reshardReport k i.step
      let all := mine :: i.reports.map (fun r => (r.2.1, r.2.2))
      match j.pend with
      | some (st, m) =>
        if st = i.step ∧ mine.1 ≠ 0 ∧ all.all (fun r => r.1 == mine.1 && r.2) = true ∧ s.mapFits k m = true then s.beginMove i e m
        else if st = i.step then (s.putInst { i with phase := 2 }).refuseMap k
        else s.putInst { i with phase := 2 }
      | none => s.putInst { i with phase := 2 }
  else if i.phase = 1 then
    match j.pend with
    | some (_, m) =>
      let gone := (s.held k).filter (fun l => (m.getD l (0, 0)).1 != s.self)
      let given := gone.all (fun l => (List.range (s.partTensors k).length).all (fun t => i.sent.contains ⟨l, t, 0, 0⟩))
      if s.allGot i e (fun _ => true) && given && !s.segsOut i (fun q => q.dst != reportIdx) then
        (s.putInst { i with phase := 2 }).installMap k i.step m
      else s
    | none => s
  else s

/-- Held requests that can be answered are, and those that wait at their requesters join the table as entries come free; re-shards go
on. -/
def State.collPump (s : State) : State :=
  let s := s.pumpReqs (s.coll.waiting.length + 1)
  s.coll.insts.foldl (fun (s : State) i0 =>
    match s.inst i0.job i0.coll i0.step, s.collEntry i0.job i0.coll with
    | some i, some e => if e.op = 3 ∧ e.permMode = 1 then s.pumpMove i e else s
    | _, _ => s) s

/-! ### Segments that arrive (R371, R375, R321, R385) -/

/-- A request that arrives: refused where its source shard is not held here, else held until it can be answered. Where the job's table is
full, it waits at its requester: it is not acknowledged until it joins the table (R385). -/
def State.takeReq (s : State) (k : Nat) (m : LMsg) : State :=
  let q := m.segKey
  let known := m.coll == 0xFFFF || (s.collEntry k m.coll).isSome
  let any := match s.collEntry k m.coll with
    | some e => m.coll != 0xFFFF && (e.op == 0 || (s.redSplit k e && q.src == q.dst))
    | none => false
  if !known || !(any || s.holder k q.src == s.self) || decide ((s.job k).map.length ≤ q.src) then s.ackSeg m 3
  else if s.tableRoom k then (s.holdReq m).collPump
  else { s with coll := { s.coll with waiting := s.coll.waiting ++ [m] } }.collPump

/-- Segments that an issue will never get, given as poison. -/
def State.poisonRest (s : State) (i : CollInst) (e : CollEntry) (q : SegKey) : State × CollInst :=
  (List.range (s.segCount i.job e q)).foldl (fun (a : State × CollInst) g =>
    if a.2.got.contains { q with seg := g } then a
    else
      let o := a.1.place a.2 e q (g * e.segSize) (zeros (s.segLen i.job e q g)) true
      (o.1, { o.2 with got := o.2.got ++ [{ q with seg := g }] })) (s, i)

/-- A segment discarded and logged; the issue that it belongs to completes with lost, and what its answer has not brought is poison, so
that the step fails on every member (R378, R385). -/
def State.dropSeg (s : State) (k : Nat) (m : LMsg) : State :=
  let s := s.logAs 8 0 0x0053 1 (some (s.tn k)) [(1, k), (2, m.coll), (4, m.step.toNat)]
  let whole : SegKey := { m.segKey with seg := 0 }
  let s := match s.inst k m.coll m.step, s.collEntry k m.coll with
    | some i, some e =>
      let o := if i.asked.any (fun a => { a with seg := 0 } == whole) then s.poisonRest i e whole else (s, i)
      o.1.putInst (o.2.mapIssue (fun x => x.shard == m.segKey.dst && !x.done) (fun x => { x with lost := true, poison := true }))
    | _, _ => s
  (s.ackSeg m 0).collPump

/-- The stage of a job whose map gives a shard to a node. -/
def Job.stageOfNode (j : Job) (node l : Nat) : Nat := (j.allMaps.findIdx? (fun m => (m.getD l (0, 0)).1 == node)).getD j.stage

/-- Blocks of a compressed segment: number in the segment, and its bytes. -/
def segBlocks (bs : List Byte) : List (Nat × List Byte) := (List.range (bs.length / 144)).map (fun b => (b, (bs.drop (144 * b)).take 144))

/-- The blocks of a compressed segment as they stand after this copy: a block that came undamaged before stands as it did; none where all
copies were damaged (R321, R322). -/
def CollInst.segCopy (i : CollInst) (e : CollEntry) (q : SegKey) (bs : List Byte) : List (Nat × Option (List Byte)) :=
  (segBlocks bs).map (fun b => (b.1, match i.kept.find? (fun x => x.1 == q && x.2.1 == b.1) with
    | some x => some x.2.2
    | none => if (blockWidths b.2 (q.dst * (e.partLen / 256) + 28 * q.seg + b.1)).isSome then some b.2 else none))

/-- A segment that is taken put where it belongs: whole, or block by block where some are damaged, which are poison. -/
def State.putSeg (s : State) (i : CollInst) (e : CollEntry) (q : SegKey) (bs : List Byte) (copy : List (Nat × Option (List Byte))) (p : Bool) :
    State × CollInst :=
  let whole : SegKey := { q with seg := 0 }
  let off := q.seg * e.segSize
  if copy.all (fun b => b.2.isSome) then
    s.place i e whole off (if copy = [] then bs else copy.flatMap (fun b => b.2.getD [])) p
  else
    copy.foldl (fun (a : State × CollInst) b => a.1.place a.2 e whole (off + 144 * b.1) (b.2.getD (zeros 144)) (p || b.2.isNone)) (s, i)

/-- A segment of an answer, from a port. -/
def State.takeSeg (s : State) (port k : Nat) (m : LMsg) : State :=
  let q := m.segKey
  if m.coll = 0xFFFF then
    let v := (BitVec.ofNat 32 (leVal (m.data.take 4)), m.poison)
    (s.countRx.updUpd k (fun u => if m.step = u.st.step + 1 then
      { u with shards := Sp.set noPartial u.shards (stageKey ((s.job k).stageOfNode m.src q.src) q.src) v } else u)).ackSeg m (b2n m.poison)
  else
    match s.inst k m.coll m.step, s.collEntry k m.coll with
    | some i, some e =>
      let whole : SegKey := { q with seg := 0 }
      let n := s.segLen k e whole q.seg
      if i.got.contains q then ({ s with coll := { s.coll with dup := satAdd32 s.coll.dup 1 } }).ackSeg m 0
      else if !i.asked.any (fun a => { a with seg := 0 } == whole) || decide (s.segCount k e whole ≤ q.seg) || m.data.length != 16 * ceilDiv n 16 then
        s.dropSeg k m
      else
        let bs := m.data.take n
        let copy := if e.op == 1 && e.compressed && !m.poison then i.segCopy e q bs else []
        let bad := (copy.filter (fun b => b.2.isNone)).length
        let tries := (i.tries.filter (· == q)).length
        if bad ≠ 0 ∧ tries < 16 then
          let die := match s.physOf (s.tn k) (s.recvSlot k e q.src q.dst) with
            | some a => dieOf a
            | none => 0
          let good := copy.filterMap (fun b => b.2.map (fun x => (q, b.1, x)))
          let s := (s.updCz die (fun d => { d with retries := satAdd32 d.retries bad })).putInst
            { i with tries := i.tries ++ [q], kept := i.kept.filter (fun x => x.1 != q) ++ good }
          (s.sendReq k m.coll m.step 1 true whole (q.seg + 1) m.src).ackSeg m 0
        else
          let p := m.poison || decide (bad ≠ 0)
          let s := if bad ≠ 0 then s.logPort port else s
          let o := s.countRx.putSeg i e q bs copy m.poison
          let mine (x : CollIssue) : Bool := e.op == 0 || e.op == 2 || (e.op == 3 && e.permMode == 1) || x.shard == q.dst
          let i' := { o.2.mapIssue mine (fun x => { x with segs := x.segs + 1, poison := x.poison || p }) with
            got := o.2.got ++ [q], kept := o.2.kept.filter (fun x => x.1 != q) }
          ((o.1.putInst i').ackSeg m (b2n p)).collPump
    | _, _ => s.dropSeg k m

/-- COLL_SEG (R371): a request or a segment at the front of a port's inbox. -/
def execCollSeg (port : Nat) (s : State) : Out :=
  s.takeMsg port 5 0 (fun s m =>
    let j := s.job m.slot
    if j.life ≠ .running ∨ j.info.tenant ≠ m.tenant then s.ackSeg m 3
    else if bitN 0 m.cflags then s.takeReq m.slot m
    else s.takeSeg port m.slot m)

/-- An outstanding segment or request that is lost or refused (R336, R378, R385): its issue completes with lost. -/
def State.segLost (s : State) (k coll : Nat) (step : W32) (q : SegKey) : State :=
  match s.inst k coll step, s.collEntry k coll with
  | some i, some e =>
    let whole : SegKey := { q with seg := 0 }
    if q.seg = reqSeg then
      let o := s.poisonRest i e whole
      o.1.putInst (o.2.mapIssue (fun x => !x.done && (x.shard == q.dst || e.op == 0 || e.op == 2 || e.op == 3)) (fun x => { x with lost := true, poison := true }))
    else s.putInst (i.mapIssue (fun x => !x.done && x.shard == q.src) (fun x => { x with lost := true, poison := true }))
  | _, _ =>
    if coll = 0xFFFF ∧ q.seg = reqSeg then
      s.updUpd k (fun u => { u with shards := Sp.set noPartial u.shards (stageKey (s.job k).stage q.src) (nan32, true) })
    else s

/-! ### The compressors (R311, R312, R315, R317, R322) -/

/-- Compressed leaves that a step of a job has on this module. -/
def State.leafCount (s : State) (k : Nat) : Nat :=
  match s.image with
  | some im =>
    (match im.colls.find? (fun c => c.job == (s.job k).info.job) with
      | some c => (c.entries.filter (fun e => e.op == 1 && e.compressed)).length * (s.held k).length
      | none => 0)
  | none => 0

/-- The residual word at element `i` of a compression: physical address. -/
def State.residWord (s : State) (r : CzRun) (i : Nat) : Option Nat :=
  match s.residAt r.jobSlot r.shard (r.resid + 4 * i) with
  | some (t, slot, off) => (s.partFrame (s.tn r.jobSlot) (s.job r.jobSlot).info.job t.id slot (off / pageSize)).map
      (fun f => f * pageSize + off % pageSize)
  | none => none

/-- One block of a compression: its 144 bytes and poison; the residual words written; and, for each of them, old XOR new. The dither draws
on the seed of the job in the descriptor's slot (R312). -/
def State.czBlock (s : State) (r : CzRun) (b : Nat) : State × CzBlock × Bool × List (Nat × W32) :=
  let tn := s.tn r.jobSlot
  let n := min 256 (r.count - 256 * b)
  let g := s.virtGet tn (r.grad + 1024 * b) (4 * n)
  let rs := (List.range n).map (fun i => match s.residWord r (256 * b + i) with
    | some a => let o := s.rdPhys a 4; (some a, word32 o.1 0, o.2)
    | none => (none, 0#32, true))
  let seed := (s.job r.jobSlot).seed.toNat
  let u (i : Nat) : Nat := cgWord0 seed r.step.toNat r.tensor purposeDither (r.shard * 2 ^ 44 + r.origin + 256 * b + i)
  let o := compressBlock r.policy r.dither r.exp b n (fun i => word32 g.1 i) (fun i => (rs.getD i (none, 0#32, true)).2.1) u
  let p := g.2 || rs.any (·.2.2)
  let bursts := ((rs.filterMap (·.1)).map burstOf).eraseDups
  let s := bursts.foldl (fun (s : State) x => (s.access (64 * x) 1).noteBurst x 1) (s.noteVirt tn (r.grad + 1024 * b) (4 * n) 3)
  let s := (List.range n).foldl (fun (s : State) i =>
    match (rs.getD i (none, 0#32, true)).1, o.resid.getD i none with
    | some a, some v => s.wrPhys a (leBytes 4 v.toNat) p
    | _, _ => s) s
  let xs := (List.range n).filterMap (fun i => (o.resid.getD i none).map (fun v => (i, v ^^^ (rs.getD i (none, 0#32, true)).2.1)))
  let undo := xs.filterMap (fun x => (rs.getD x.1 (none, 0#32, true)).1.map (fun a => (r.step.toNat, a, leBytes 4 x.2.toNat)))
  (s.updUpd r.jobSlot (fun x => { x with undo := x.undo ++ undo }), o, p, xs.map (fun x => (256 * b + x.1, x.2)))

/-- An RSEG record of the XOR words of blocks `b0` up to `b1` of a compression sent to the watcher (R315). -/
def State.rseg (s : State) (r : CzRun) (b0 b1 : Nat) : State :=
  if s.watched then
    let n := min r.count (256 * b1) - 256 * b0
    let p := r.bad.any (fun b => decide (b0 ≤ b) && decide (b < b1))
    let w : WRec := ⟨0x11, b2n p, (s.job r.jobSlot).info.job, r.step.toNat,
      leBytes 4 r.shard ++ leBytes 4 r.tensor ++ leBytes 5 (r.origin + 256 * b0) ++ leBytes 3 n,
      (List.range n).flatMap (fun i => leBytes 4 (Sp.get 0#32 r.xors (256 * b0 + i)).toNat), (0, 0)⟩
    ({ s with watchOut := s.watchOut ++ [w] }).updUpd r.jobSlot (fun u => { u with rsegs := u.rsegs + 1, rcrc := u.rcrc ^^^ w.crc })
  else s

/-- What follows when a group of a compression has been written: the RSEG of its 64 blocks once all of them are done, or, for a group with
poison, its own at once, after which the module fails (R315, R322, R466). -/
def State.groupDone (s : State) (r : CzRun) (g : Nat) (p : Bool) : State × CzRun :=
  let lo := g / 16 * 64
  let hi := min r.blocks (lo + 64)
  if p then ((s.rseg r (4 * g) (min r.blocks (4 * g + 4))).moduleFault, r)
  else if (List.range (hi - lo)).all (fun i => r.written (lo + i)) then
    (s.rseg r lo hi, { r with xors := Sp.eraseRange (256 * lo) (256 * hi) r.xors })
  else (s, r)

/-- A leaf is compressed: REND behind the last of the step (R315), and its own part placed (R373). -/
def State.czDone (s : State) (r : CzRun) : State :=
  let k := r.jobSlot
  let s := s.updUpd k (fun u => { u with leaves := u.leaves + 1 })
  let u := (s.job k).upd
  let s := if s.watched && u.leaves == s.leafCount k && !u.rend then
      { s with watchOut := s.watchOut ++ [(⟨0x12, 0, (s.job k).info.job, r.step.toNat,
        zeros 4 ++ leBytes 4 u.rsegs ++ leBytes 8 u.rcrc, [], (0, 0)⟩ : WRec)] }.updUpd k (fun u => { u with rend := true })
    else s
  match s.inst r.inst r.coll r.step, s.collEntry r.inst r.coll with
  | some i, some e =>
    let o := s.supplyOwn i e r.shard
    (o.1.putInst o.2).collPump
  | _, _ => s

/-- COMPRESS_BLOCK: controller `ctl` of a die compresses its next block; a group that is complete is written whole, with poison if one of
its blocks has it. -/
def State.compressStep (s : State) (die ctl : Nat) (r : CzRun) : State :=
  let n := r.groups.getD ctl 0
  let b := CzRun.blockOf ctl n
  let g := b / 4
  let o := s.czBlock r b
  let buf := r.bufs.getD ctl ([], false)
  let bs := buf.1 ++ o.2.1.bytes
  let p := buf.2 || o.2.2.1
  let full := b % 4 == 3 || b + 1 == r.blocks
  let r1 := { r with
    groups := mapAt r.groups ctl (· + 1), bufs := mapAt r.bufs ctl (fun _ => if full then ([], false) else (bs, p))
    xors := o.2.2.2.foldl (fun m x => Sp.set 0#32 m x.1 x.2) r.xors, bad := if o.2.2.1 then r.bad ++ [b] else r.bad }
  let s1 := if full then (o.1.virtPut (o.1.tn r.jobSlot) (r.out + 576 * g) (bs ++ zeros (576 - bs.length)) p).groupDone r1 g p else (o.1, r1)
  let r' := s1.2
  let s2 := s1.1.updCz die (fun z => { z with
    runs := if r'.done then z.runs.filter (· != r) else z.runs.map (fun x => if x = r then r' else x)
    flags := z.flags ||| o.2.1.flags
    blk0 := z.blk0 + BitVec.ofNat 64 (b2n (o.2.1.mode == 0))
    blk1 := z.blk1 + BitVec.ofNat 64 (b2n (o.2.1.mode == 1))
    blk2 := z.blk2 + BitVec.ofNat 64 (b2n (o.2.1.mode == 2)) })
  (if r'.done then s2.czDone r' else s2.collPump).settle

/-- Whether a page of 2 MiB is being moved (R191). -/
def State.frameMoves (s : State) (f : Nat) : Bool :=
  let m := s.mcOf (f / dieFrames)
  m.retPage == some f && m.retDest.isSome

/-- A page of the leaf, the residual or the block area of a block is being moved: the block waits (R322). -/
def State.czWaits (s : State) (r : CzRun) (b : Nat) : Bool :=
  let at_ (va : Nat) : Bool := match s.physOf (s.tn r.jobSlot) va with
    | some a => s.frameMoves (a / pageSize)
    | none => false
  let last := min r.count (256 * (b + 1)) - 1
  at_ (r.grad + 1024 * b) || at_ (r.grad + 4 * last) || at_ (r.out + 576 * (b / 4)) || at_ (r.out + 576 * (b / 4) + 575) ||
    [256 * b, last].any (fun i => match s.residWord r i with
      | some a => s.frameMoves (a / pageSize)
      | none => false)

def execCompressBlock (die ctl : Nat) (s : State) : Out :=
  match (s.czAt die).runs.find? (fun r => decide (CzRun.blockOf ctl (r.groups.getD ctl 0) < r.blocks)) with
  | some r => if s.stopped || s.czWaits r (CzRun.blockOf ctl (r.groups.getD ctl 0)) then .next s else .next (s.compressStep die ctl r)
  | none => .next s

/-! ### The expanders (R318, R320, R374) -/

/-- The values of a block of a slot, with poison, its mode, and whether it is damaged or reads poisoned (R320, R321). -/
def State.slotBlock (s : State) (k : Nat) (e : CollEntry) (src dst b : Nat) : List W32 × Bool × Nat × Bool :=
  let r := s.virtGet (s.tn k) (s.recvSlot k e src dst + e.blockBytes * b) (min e.blockBytes (s.answerLen k e ⟨src, dst, 0, 0⟩ - e.blockBytes * b))
  if e.compressed then
    let kk := dst * (e.partLen / 256) + b
    match expandBlock r.1 kk with
    | some vs => (vs, r.2, (r.1.getD 0 0#8).toNat, r.2)
    | none => (List.replicate 256 nan32, true, 0, true)
  else ((List.range 256).map (fun i => word32 r.1 i), r.2, 0, false)

/-- A range that is complete written to the gradient span or the dense destination; with `bad` all of it is poison (R385). -/
def State.writeRange (s : State) (i : CollInst) (e : CollEntry) (o : OwnSum) (dst q : Nat) (bad : Bool) : State :=
  let k := i.job
  let j := (s.job k).info
  let get (x : Nat) : W32 × Bool := Sp.get (negZero32, false) o.acc x
  let chunks := (s.rangeWork k e o.shard dst q).flatMap (fun w => (List.range (ceilDiv w.2.2 16)).map (fun c => (w.2.1 + 16 * c, min 16 (w.2.2 - 16 * c))))
  chunks.foldl (fun (s : State) c =>
    let vs := (List.range c.2).map (fun x => get (c.1 + x))
    let p := bad || vs.any (·.2)
    if e.dstKind = 1 then
      let u := s.entryAt k e.t
      let share := max 1 (s.shareLen k u)
      let un := c.1 / (16 * share)
      let bs := vs.flatMap (fun v => leBytes 4 v.1.toNat)
      s.putShare (s.partSpan j.tenant j.job u.grad ((s.job k).slotOf o.shard)) (un / 64, un / 16 % 4, un % 16) (c.1 / 16 % share)
        (bs ++ zeros (64 - bs.length)) p
    else
      let bs := vs.flatMap (fun v => if e.outBf16 then leBytes 2 (FFmt.bf16.convert NMode.zero none (f32 v.1)).1 else leBytes 4 v.1.toNat)
      s.virtPut j.tenant (dst + (o.shard * e.partLen + c.1) * e.outSize) bs p) s

/-- R385: the incomplete instances of a job abandoned; what was not delivered is written with poison. -/
def State.abandon (s : State) (k : Nat) : State :=
  let live := s.coll.insts.filter (fun i => i.job == k && i.issues.any (fun x => !x.done))
  let s := live.foldl (fun (s : State) i0 =>
    match s.inst i0.job i0.coll i0.step, s.collEntry i0.job i0.coll with
    | some i, some e =>
      let o := i.asked.foldl (fun (a : State × CollInst) q => a.1.poisonRest a.2 e { q with seg := 0 }) (s, i)
      let s := i.sums.foldl (fun (s : State) u => match i.issue u.shard with
        | some x => ((List.range u.added.length).filter (fun q => !u.written.contains q)).foldl (fun (s : State) q =>
            s.writeRange i e u x.dst q true) s
        | none => s) o.1
      let s := s.logAs 8 0 0x0053 2 (some (s.tn k)) [(1, k), (2, i.coll), (4, i.step.toNat)]
      let i' := o.2.mapIssue (fun x => !x.done) (fun x => { x with abandoned := true })
      let s := { s with coll := { s.coll with abandon := satAdd32 s.coll.abandon 1, abandoned := true } }.putInst i'
      (i'.issues.filter (fun x => !x.done)).foldl (fun (s : State) x => match s.inst i.job i.coll i.step with
        | some i => s.endIssue i e x
        | none => s) s
    | _, _ => s) s
  let s := s.dropMove k
  { s with coll := { s.coll with
    insts := s.coll.insts.filter (fun i => i.job != k)
    held := s.coll.held.filter (fun h => h.job != k || h.coll == 0xFFFF)
    waiting := s.coll.waiting.filter (fun m => m.slot != k || m.coll == 0xFFFF) } }

/-- One block added to a range of an owned sum. No register is named for the flags of these sums, nor for those of the other reductions of the
engine: the model drops them (R69; log entry 82). -/
def State.expandStep (s : State) (die : Nat) (i : CollInst) (e : CollEntry) (o : OwnSum) (dst q : Nat) (a : Nat × Nat × Nat × Nat) : State :=
  let v := s.slotBlock i.job e a.1 o.shard a.2.1
  let s := s.noteVirt (s.tn i.job) (s.recvSlot i.job e a.1 o.shard + e.blockBytes * a.2.1) e.blockBytes 2
  let acc := (List.range a.2.2.2).foldl (fun (m : Sp (W32 × Bool)) x =>
    let el := a.2.2.1 + x
    let old := Sp.get (negZero32, false) m el
    Sp.set (negZero32, false) m el ((add32 old.1 (v.1.getD (el % 256) 0#32)).1, old.2 || v.2.1)) o.acc
  let c := o.added.getD q (0, 0)
  let work := (s.rangeWork i.job e o.shard dst q).length
  let c' := if c.2 + 1 = work then (c.1 + 1, 0) else (c.1, c.2 + 1)
  let fin := decide ((s.job i.job).map.length ≤ c'.1)
  let o' := { o with acc := acc, added := mapAt o.added q (fun _ => c'), written := if fin then o.written ++ [q] else o.written }
  let s := if fin then s.writeRange i e o' dst q false else s
  let anyP := fin && acc.any (fun x => x.2.2)
  let i' := { i with sums := i.sums.map (fun (x : OwnSum) => if x = o then o' else x) }
  let s := s.putInst (i'.mapIssue (fun x => x.shard == o.shard && anyP) (fun x => { x with poison := true }))
  s.updCz die (fun z => { z with
    damaged := satAdd32 z.damaged (b2n v.2.2.2)
    eblk := z.eblk + BitVec.ofNat 64 (b2n (e.compressed && !v.2.2.2))
    eblk2 := z.eblk2 + BitVec.ofNat 64 (b2n (e.compressed && !v.2.2.2 && v.2.2.1 == 2)) })

/-- EXPAND_BLOCK: controller `ctl` of a die expands the next block that lies in its channels, and adds it in shard order. -/
def execExpandBlock (die ctl : Nat) (s : State) : Out :=
  match s.expandable die ctl with
  | some (i, e, o, dst, q, a) => if s.stopped then .next s else .next (s.expandStep die i e o dst q a).settle
  | none => .next s

/-! ### The global norm (R377) and acknowledgments -/

/-- The partials of other holders asked for, once those of the shards held here are formed. -/
def State.askNorm (s : State) (k : Nat) : State :=
  let j := s.job k
  let n := j.upd.st.step + 1
  let mine := s.held k
  if j.map = [] || j.upd.waitNorm || mine = [] || !mine.all (fun l => (s.shardPartial k l).isSome) then s
  else
    let maps := j.allMaps
    let far := (List.range maps.length).flatMap (fun p => (List.range (maps.getD p []).length).filterMap (fun l =>
      let v := ((maps.getD p []).getD l (0, 0)).1
      if v = s.self then none else some (l, v)))
    let s := s.updUpd k (fun u => { u with waitNorm := true })
    far.foldl (fun (s : State) x => s.sendReq k 0xFFFF n 1 false ⟨x.1, 0, 0, 0⟩ 0 x.2) s

/-- SEG_ACK (R297, R300). -/
def execSegAck (slot : Nat) (s : State) : Out := .next (s.segAck slot)
/-- END_ACK (R300). -/
def execEndAck (slot count digest : Nat) (s : State) : Out := .next (s.endAck slot count digest).collPump
/-- WATCH_RECORD_ACK (R463). -/
def execWatchRecordAck (s : State) : Out := .next s.recordAck.collPump

end Sys2Proof.Machine
end

