-- ==== Sys2Proof/Machine/HostOps.lean ====
section
/-!
DEFINITION. The host-queue engine: queues, regions, the commands of queue 0 and what they do (R400 to R412).
-/

namespace Sys2Proof.Machine

/-! ### Queues of a tenant (R405, R406, R411) -/

/-- A queue put into the error state (R406): reported on queue 1 unless it is that queue. -/
def State.queueError (s : State) (tn q : Nat) : State :=
  let t := s.tenant tn
  let s := s.setTenant tn { t.setQueue q { t.queue q with err := true } with qerr := true }
  if q = 1 then s else s.postEvent tn 0x85 [(16, 1, q)]

/-- Whether a queue runs from host to device. -/
def isInput (q : Nat) : Bool := q == 0 || (decide (2 ≤ q) && decide (q ≤ 4))

/-- Whether an input queue has an entry that has been announced and not taken. -/
def State.inputWaits (s : State) (tn q : Nat) : Bool :=
  let t := s.tenant tn
  let x := t.queue q
  decide (s.hl.state = 1) && t.hostEn && x.isSet && !x.err && x.prod != x.cons

/-- The oldest index that host software has not acknowledged. -/
def Queue.acked1 (q : Queue) : W32 := match q.shadow with
  | e :: _ => e.1
  | [] => q.prod

/-! ### Regions (R400, R401) -/

/-- Whether two address ranges overlap. -/
def overlaps (a m b n : Nat) : Bool := decide (a < b + n) && decide (b < a + m)

/-- Whether a stream transfer's source or destination range overlaps a range of virtual addresses. -/
def SDesc.touches (d : SDesc) (va len : Nat) : Bool :=
  let side (space base : Nat) (st : List (Nat × Int)) : Bool :=
    let r := corners st
    space == 1 && overlaps ((base : Int) + r.1).toNat ((r.2 - r.1).toNat + d.esize) va len
  let es : Int := d.esize
  let sIn := (List.range 6).map (fun k => (d.cnt k, if k = 0 then es else d.srcStride.getD (k - 1) 0))
  let dIn := (List.range 6).map (fun k => (d.cnt k,
    if d.transpose then (if k = 0 then d.dstStride.getD 0 0 else if k = 1 then es else d.dstStride.getD (k - 1) 0)
    else if k = 0 then es else d.dstStride.getD (k - 1) 0))
  side d.srcSpace d.src sIn || side d.dstSpace d.dst dIn

/-- Whether a command or transfer that names a region is not complete. -/
def State.regionUsed (s : State) (tn r : Nat) : Bool :=
  let g := (s.tenant tn).region r
  let names (e : Entry) (off : Nat) : Bool := entryField e off 1 == r
  s.hl.dma.any (fun d => match d.use with
    | .t2write t e => t == tn && names e 28
    | .submit t e => t == tn && names e 16
    | .reshard t e => t == tn && names e 28
    | _ => g.host && overlaps d.addr d.len g.base g.len) ||
  s.guest.cmds.any (fun c => match c.kind with
    | .write t e => t == tn && names e 28
    | _ => false) ||
  s.lists.any (fun l => match l.from_ with
    | .host e => l.tenant == tn && names e 16
    | _ => false) ||
  s.cores.any (fun c => c.2.ctxs.any (fun x => x.2.prog.tenant == tn && (match x.2.st with
    | some t => t.desc.touches g.va g.len
    | none => false)))

/-- A region gone; the pages of a host region are unmapped, those of a device region no longer counted for it (R272, R275). -/
def State.dropRegion (s : State) (tn r : Nat) : State :=
  let t := s.tenant tn
  let g := t.region r
  let s := s.setTenant tn { t with
    regions := Sp.set Region.none t.regions r Region.none, use1 := if g.host then t.use1 else t.use1 - g.len / pageSize }
  let s := if g.host then s else s.settleQuota tn
  { s with pages := s.pages.filter (fun p => !(p.1 / 2 ^ 32 == tn && (match p.2.dest with
    | .hostPage x _ => x == r
    | _ => false))) }

/-- Releases that wait (R401) complete when nothing uses their region any more. -/
def State.pumpRelease (s : State) : State :=
  s.tenants.foldl (fun (s : State) t => t.2.regions.foldl (fun (s : State) r =>
    if r.2.releasing && !s.regionUsed t.1 r.1 then
      { s.dropRegion t.1 r.1 with hl := { s.hl with cstate := 2, creason := 0, cres := 0#64 } }
    else s) s) s

/-! ### Device regions (R400, R404, R413) -/

/-- The tenant, number and region that a predicate finds. -/
def State.findRegion (s : State) (f : Region → Bool) : Option (Nat × Nat × Region) :=
  s.tenants.findSome? (fun t => (t.2.regions.find? (fun r => decide (r.2.len ≠ 0) && f r.2)).map (fun r => (t.1, r.1, r.2)))

/-- R476 0x0075: an access outside every registered region. -/
def State.logOutside (s : State) (off port : Nat) (write : Bool) : State :=
  s.logAs 9 port 0x0075 1 none [(6, off), (1, port), (1, b2n write)]

/-! ### Commands of queue 0 (R407 to R409) -/

/-- Opcodes of R408. -/
def cmdOpcodes : List Nat := [0x01, 0x02, 0x03, 0x04, 0x10, 0x11, 0x12, 0x13, 0x14, 0x20]

/-- Bytes of a command entry that must be zero, as (offset, length) pairs. -/
def cmdZero : Nat → List (Nat × Nat)
  | 0x01 => [(18, 6), (32, 32)]
  | 0x02 => [(18, 46)]
  | 0x03 => [(16, 48)]
  | 0x04 => [(17, 1), (20, 4), (32, 32)]
  | 0x10 => [(19, 5), (32, 32)]
  | 0x11 => [(19, 1), (29, 3), (40, 24)]
  | 0x12 => [(19, 1), (24, 40)]
  | 0x13 => [(19, 45)]
  | 0x14 => [(19, 45)]
  | 0x20 => [(18, 2), (29, 3), (40, 24)]
  | _ => []

/-- R407: the form of a command entry at index `i`. -/
def cmdOk (e : Entry) (i : W32) : Bool :=
  entryField e 4 4 == i.toNat && entryField e 1 1 / 2 == 0 && entryField e 2 2 == 0 && cmdOpcodes.contains (entryField e 0 1) &&
    (cmdZero (entryField e 0 1)).all (fun z => entryField e z.1 z.2 == 0)

/-- An entry under a queue index: what its completion record names (R409). -/
def withIndex (e : Entry) (i : W32) : Entry :=
  e - (BitVec.ofNat 512 (entryField e 4 4) <<< 32) + (BitVec.ofNat 512 i.toNat <<< 32)

/-- R476 0x0052: an admission refused. -/
def State.logRefused (s : State) (tn job part code : Nat) : State :=
  s.logAs 0 0 0x0052 1 (some tn) [(2, job), (1, part), (1, code)]

/-- A JOB_START or RESHARD refused by a part of admission (R409). -/
def State.refuse (s : State) (tn : Nat) (e : Entry) (part code : Nat) : State :=
  (s.logRefused tn (entryField e 16 2) part code).finish tn e 1 (part * 256 + code) []

/-- The code of a refusal that no table lists (R383, R409). -/
def openCode (cause : Nat) : Nat := (Config.refusalCode cause).toNat

/-- The slot of a tenant's job on this module. -/
def State.jobOf (s : State) (tn job : Nat) : Option Nat :=
  (s.jobs.find? (fun j => j.2.life != .none && j.2.info.tenant == tn && j.2.info.job == job)).map (·.1)

/-- R330: whether frames of a job would cross a port that carries class 2 alone. -/
def State.crossesDiffering (s : State) (j : JobRec) : Bool :=
  match s.image with
  | some im =>
    let nodes := ((im.maps.filter (fun m => m.job == j.job)).flatMap (fun m => m.entries)) ++
      ((im.stages.filter (fun m => m.1 == j.job)).flatMap (fun m => m.2.flatMap (fun x => x.entries)))
    nodes.any (fun e => e.1 != s.self && (match diffDims s.fabric.dims s.self e.1 with
      | [] => false
      | i :: _ => (trunk s.fabric i (goesPlus s.fabric.dims s.self e.1 i)).any (fun p => (s.port p).reason == 5)))
  | none => false

/-- The members that hold shards of a job, on every stage of it. -/
def State.membersOf (s : State) (j : JobRec) : List Nat :=
  match s.image with
  | some im => ((im.maps.filter (fun m => m.job == j.job)).flatMap (fun m => m.entries.map (·.1))) ++
      ((im.stages.filter (fun m => m.1 == j.job)).flatMap (fun m => m.2.flatMap (fun x => x.entries.map (·.1))))
  | none => []

/-- R27: what members report of their beat lengths; the last word of a member stands. -/
def State.hearBeats (s : State) (told : List (Nat × Nat)) : State :=
  { s with gl := { s.gl with beatExps := s.gl.beatExps.filter (fun e => !told.any (fun t => t.1 == e.1)) ++ told } }

/-- R27: whether a member of the job carries another beat length than this module. A member that has reported none is taken to
carry the same (log entry 70). -/
def State.beatsDiffer (s : State) (j : JobRec) : Bool :=
  s.gl.beatExps.any (fun e => (s.membersOf j).contains e.1 && e.2 != s.beats.exp)

/-- JOB_START (R27, R273, R274, R408): the job is admitted and filled, or refused. -/
def State.jobStart (s : State) (tn : Nat) (e : Entry) : State :=
  let n := entryField e 16 2
  let found : Option JobRec := match s.image with
    | some im => im.jobs.find? (fun j => j.job == n && j.tenant == tn)
    | none => none
  match found with
  | none => s.finish tn e 3 0 []
  | some j =>
    let k := j.slot
    if (s.job k).life ≠ .none then s.refuse tn e 3 (openCode 3)
    else if s.beatsDiffer j then s.refuse tn e 1 (openCode 1)
    else if s.crossesDiffering j then s.refuse tn e 2 (openCode 2)
    else
      let s := s.stopPromotion
      let code := s.tierCode j
      if code ≠ 0 then s.refuse tn e 0 code
      else
        let s0 := s
        let s := s.setJob k { Job.none with info := j, seed := BitVec.ofNat 64 (entryField e 24 8), cmd := e, upd := { UpdSt.none with st := StepSt.init j.eInit } }
        let ms : List (List (Nat × Nat)) := match s.image with
          | some im => ((im.stages.filter (fun m => m.1 == j.job)).flatMap (fun m => m.2.map (·.entries)))
          | none => []
        let mine := (ms.findIdx? (fun m => m.any (fun x => x.1 == s.self))).getD 0
        let s := s.updJob k (fun x => { x with map := s.firstMap k, stages := ms, stage := mine })
        let s := s.dropWhile (fun _ => true) (fun s => decide (s.freeTotal < j.mand1) || (s.allocJob k).isNone) (s.t2.length + 1)
        match s.allocJob k with
        | some s => s.fillJob k
        | none => s0.refuse tn e 0 0x22

/-- JOB_STOP (R408): contexts retire at their next tick end; the command completes when the last has. -/
def State.jobStop (s : State) (tn : Nat) (e : Entry) : State :=
  let n := entryField e 16 2
  let given := match s.image with
    | some im => im.jobs.any (fun j => j.job == n && j.tenant == tn)
    | none => false
  if !given then s.finish tn e 3 0 []
  else
    match s.jobOf tn n with
    | none => s.finish tn e 1 0 []
    | some k =>
      let s := s.filled k
      let j := s.job k
      if entryField j.cmd 0 1 = 2 then s.finish tn e 1 0 []
      else (s.setJob k { j with life := .stopping, cmd := e }).endJob k

/-- FENCE (R408). -/
def State.fenceCmd (s : State) (tn : Nat) (e : Entry) : State :=
  let t := s.tenant tn
  let w := t.open_.filter (· != entryField e 4 4)
  if w = [] then s.finish tn e 0 0 [] else s.setTenant tn { t with fences := t.fences ++ [(e, w)] }

/-- The records of a TB_SUBMIT are here: checked and handed to the controllers (R239). -/
def State.submitList (s : State) (tn : Nat) (e : Entry) (data : List Byte) (poison : Bool) : State :=
  let recs := (List.range (entryField e 18 2)).map (fun i => entryOf ((data.drop (64 * i)).take 64))
  if poison then s.finish tn e 5 0 []
  else if recs.all (fun r => s.recOk tn true r) then s.addList (.host e) tn 0 recs false
  else s.finish tn e 2 0 []

/-- The map of a RESHARD is here: it is pending until the instance of its step (R383). -/
def State.reshardMap (s : State) (tn : Nat) (e : Entry) (data : List Byte) (poison : Bool) : State :=
  let step := BitVec.ofNat 32 (entryField e 20 4)
  match s.jobOf tn (entryField e 16 2) with
  | none => s.refuse tn e 3 (openCode 4)
  | some k =>
    let m := (List.range (s.job k).map.length).map (fun i =>
      let v := leVal ((data.drop (4 * i)).take 4)
      (v % 2 ^ 18, v / 2 ^ 18))
    let begun := s.cores.any (fun c => c.2.ctxs.any (fun x => x.2.ofJob (s.job k).info && x.2.life == .live && decide (step.toNat ≤ x.2.stepReg.toNat)))
    if poison then s.finish tn e 5 0 []
    else if mapDigest m ≠ entryField e 24 4 ∨ (s.job k).pend.isSome = true ∨ begun = true then s.refuse tn e 3 (openCode 5)
    else (s.updJob k (fun j => { j with pend := some (step, m) })).finish tn e 0 0 []

/-- A command that reads `len` bytes of a region: by DMA from a host region, at once from a device region. -/
def State.fromRegion (s : State) (tn : Nat) (e : Entry) (r off len : Nat) (use : DmaUse) (f : State → List Byte → Bool → State) : State :=
  let g := (s.tenant tn).region r
  if g.len < off + len ∨ g.len = 0 then s.finish tn e 4 0 []
  else if g.host then (s.dmaRead use (g.base + off) len).1
  else
    let d := s.readVirt tn (g.va + off) len (len / 64 + 2)
    (f (s.noteVirt tn (g.va + off) len (len / 65536 + 2)) d.1 d.2).settle

/-- TB_SUBMIT (R408). -/
def State.tbSubmit (s : State) (tn : Nat) (e : Entry) : State :=
  let n := entryField e 18 2
  if n = 0 ∨ 255 < n then s.finish tn e 2 0 []
  else s.fromRegion tn e (entryField e 16 1) (entryField e 24 8) (64 * n) (.submit tn e) (fun s d p => s.submitList tn e d p)

/-- RESHARD (R383, R408). -/
def State.reshard (s : State) (tn : Nat) (e : Entry) : State :=
  let n := entryField e 16 2
  let given := match s.image with
    | some im => im.jobs.any (fun j => j.job == n && j.tenant == tn)
    | none => false
  if !given then s.finish tn e 3 0 []
  else
    match s.jobOf tn n with
    | none => s.refuse tn e 3 (openCode 4)
    | some k =>
      if (s.job k).life ≠ .running ∨ (s.job k).map = [] then s.refuse tn e 3 (openCode 4)
      else s.fromRegion tn e (entryField e 28 1) (entryField e 32 8) (4 * (s.job k).map.length) (.reshard tn e)
        (fun s d p => s.reshardMap tn e d p)

/-- What a well-formed command does. -/
def State.runCommand (s : State) (tn : Nat) (e : Entry) : State :=
  match entryField e 0 1 with
  | 0x01 => s.jobStart tn e
  | 0x02 => s.jobStop tn e
  | 0x03 => s.fenceCmd tn e
  | 0x04 => s.tbSubmit tn e
  | 0x10 => s.t2Open tn e
  | 0x11 => s.t2Write tn e
  | 0x12 => s.t2Seal tn e
  | 0x13 => s.t2Abort tn e
  | 0x14 => s.t2Delete tn e
  | _ => s.reshard tn e

/-- Whether the host-queue engine accepts a command of a tenant now: 4 in a window of 1 µs, and room for completions
(R412). -/
def State.mayAccept (s : State) (tn : Nat) : Bool :=
  let t := s.tenant tn
  (t.takeWin != s.now / 1000 || decide (t.takeCount < 4)) && (t.queue 1).room && t.waiting.isEmpty

/-- A command accepted: the consumer index goes on, the engine's pointer moves behind the tenant (R388), and the command runs; one that breaks
R407 is malformed. -/
def State.acceptCommand (s : State) (tn : Nat) (e : Entry) : State :=
  let t := s.tenant tn
  let q := t.queue 0
  let w := s.now / 1000
  let n := if t.takeWin = w then t.takeCount + 1 else 1
  let s := s.setTenant tn { t.setQueue 0 { q with cons := q.cons + 1 } with
    takeWin := w, takeCount := n, open_ := t.open_ ++ [q.cons.toNat] }
  let s := { s with hl := { s.hl with rot := tn + 1 } }
  if cmdOk e q.cons then s.runCommand tn e else s.finish tn (withIndex e q.cons) 2 0 []

/-- The row of an opcode: `e` is what the ring of queue 0 holds at the index behind the entries held back. It is
accepted, held back, or no command of this row. An opcode that R408 does not list is taken by every row. -/
def State.commandRow (s : State) (tn : Nat) (e : Entry) (op : Nat) : Out :=
  let o := entryField e 0 1
  let t := s.tenant tn
  let q := t.queue 0
  if (o ≠ op ∧ cmdOpcodes.contains o = true) ∨ s.inputWaits tn 0 = false ∨ (q.prod - q.cons).toNat ≤ t.held.length then .next s
  else if t.held = [] ∧ s.mayAccept tn = true then .next (s.acceptCommand tn e)
  else .next (s.setTenant tn { t with held := t.held ++ [e] })

/-- The tenant that the rotating pointer gives the engine to, of those with a command held back that may be accepted. -/
def State.nextTenant (s : State) : Option Nat :=
  let can := (s.tenants.filter (fun t => t.2.held != [] && s.inputWaits t.1 0 && s.mayAccept t.1)).map (·.1)
  match can.find? (fun t => decide (s.hl.rot ≤ t)) with
  | some t => some t
  | none => can.head?

/-- Commands held back accepted while the window allows. -/
def State.takeHeld (s : State) : Nat → State
  | 0 => s
  | fuel + 1 =>
    match s.nextTenant with
    | none => s
    | some tn =>
      match (s.tenant tn).held with
      | [] => s
      | e :: es =>
        ((s.updTenant tn (fun t => { t with held := es })).acceptCommand tn e).takeHeld fuel

/-! ### DMA reads (R404) -/

/-- What a DMA read of host memory brings, given to what asked for it. `lost` says that the region was released by a
detach: a command then completes with status 0x06 (R396). -/
def State.dmaDone (s : State) (r : DmaRead) (data : List Byte) (poison lost : Bool) : State :=
  let s := { s with hl := { s.hl with dma := s.hl.dma.filter (fun d => d.id != r.id) } }
  let bad := poison || data.length != r.len
  let bs := if bad then zeros r.len else data
  match r.use with
  | .stream c => s.fetched c (false, r.id) (r.addr % 64) bs (if bad then allBursts (r.addr % 64) r.len else [])
  | .list l => s.listFetched l (false, r.id) (r.addr % 64) bs (if bad then allBursts (r.addr % 64) r.len else [])
  | .t2write tn e =>
    if lost then
      let key := t2Key tn (entryField e 16 3)
      (s.updT2 key (fun t => { t with written := (List.range (entryField e 24 4)).foldl (fun w i =>
        Sp.set false w (entryField e 20 4 + i) false) t.written })).finish tn e 6 0 []
    else s.t2Store tn e bs bad
  | .submit tn e => if lost then s.finish tn e 6 0 [] else s.submitList tn e bs bad
  | .reshard tn e => if lost then s.finish tn e 6 0 [] else s.reshardMap tn e bs bad

/-! ### Attach and detach (R394 to R397) -/

/-- R476 0x0073. -/
def State.logAttach (s : State) (port cause sev : Nat) : State :=
  s.logAs 9 port 0x0073 sev none [(1, port), (2, s.hl.session), (1, cause)]

/-- A tenant whose host is gone: host regions released, rings and doorbell line dropped, commands not accepted forgotten. -/
def Tenant.orphan (t : Tenant) : Tenant :=
  { t with
    doorbell := Option.none
    held := []
    regions := t.regions.filter (fun r => !r.2.host)
    queues := t.queues.map (fun (q : Nat × Queue) => (q.1, { q.2 with isSet := false })) }

/-- The module detaches (R396). -/
def State.detach (s : State) (cause port : Nat) : State :=
  if s.hl.state ≠ 1 then s
  else
    let reads := s.hl.dma
    let s := { s with
      tenants := s.tenants.map (fun (t : Nat × Tenant) => (t.1, t.2.orphan))
      pages := s.pages.filter (fun p => match p.2.dest with
        | .hostPage _ _ => false
        | _ => true)
      hl := { s.hl with state := 2, cause := cause, inUse := 0, att := [], cstate := if s.hl.cstate = 1 then 2 else s.hl.cstate } }
    let s := (reads.foldl (fun (s : State) r => s.dmaDone r [] true true) s).settle
    s.logAttach port cause (if cause = 3 then 1 else 2)

end Sys2Proof.Machine
end

