-- ==== Sys2Proof/Machine/PeaOps.lean ====
section
/-!
DEFINITION. Pea transfers (R182 to R186): checks, delivery and arrivals on this module. Remote transfers travel as
messages of Griuk Link.
-/

namespace Sys2Proof.Machine

/-- The payload of a Pea instruction, without the data that PEA_PUT and PEA_ADD carry. -/
def peaOf (w : IWord) (k : Nat) : PeaMsg :=
  let p := w.pl
  { op := w.opc, ctx := k, loc := field 22 0 p, len := 16 * field 27 23 p, remote := bitN 28 p, core := field 34 29 p,
    target := field 57 35 p, group := field 68 58 p, shard := field 88 69 p, data := [] }

/-- The logical shard count of the job of a program. -/
def State.shardCount (s : State) (p : Prog) : Nat :=
  match s.jobSlot p with
  | some j => 2 ^ (s.job j).info.sExp
  | none => 0

/-- Whether a transfer of a context of core `n` stays on this module: a remote one whose shard this module holds does. -/
def State.peaHere (s : State) (n : Nat) (m : PeaMsg) : Bool :=
  !m.remote || (match s.jobSlot (s.ctx n m.ctx).prog with
    | some k =>
      let map := (s.job k).map
      map.isEmpty || (map.getD m.shard (0, 0)).1 == s.self
    | none => true)

/-- R192 and R147: a Pea payload's checks. -/
def peaOk (s : State) (x : Ctx) (n : Nat) (m : PeaMsg) : Bool :=
  decide (m.len ≠ 0) && m.loc % 16 == 0 && m.target % 16 == 0 && fits (m.loc + m.len) && fits (m.target + m.len) &&
    (!m.remote || decide (m.shard < s.shardCount x.prog)) &&
    (if m.op = 1 then !x.hitsSave m.loc m.len else !s.peaHere n m || m.core != n || !x.hitsSave m.target m.len)

/-- Windows of 64 KiB of core SRAM that a tenant's map grants. -/
def State.granted (s : State) (tenant core win : Nat) : Bool :=
  s.pages.any (fun p => p.1 / 2 ^ 32 == tenant && p.2.dest == .coreWin core win)

/-- R184: a range lies within granted windows. -/
def State.rangeGranted (s : State) (tenant core off len : Nat) : Bool :=
  (List.range ((off + len - 1) / 65536 - off / 65536 + 1)).all (fun i => s.granted tenant core (off / 65536 + i))

/-- A Pea instruction taken from the queue (R183); local data of PUT and ADD is read now. -/
def State.peAccept (s : State) (n k : Nat) (w : IWord) : State :=
  let x := s.ctx n k
  let m := peaOf w k
  if !peaOk s x n m then s.seqFault n k 2
  else
    let m := if m.op = 1 then m else { m with data := s.sram n m.loc m.len }
    s.updCore n (fun c => { c with peas := c.peas ++ [m], st := { c.st with pea := c.st.pea + 1#64 } })

/-- 32-bit words added modulo 2^32 (R183). -/
def addWords : List Byte → List Byte → List Byte
  | a0 :: a1 :: a2 :: a3 :: as, b0 :: b1 :: b2 :: b3 :: bs =>
    leBytes 4 ((leVal [a0, a1, a2, a3] + leVal [b0, b1, b2, b3]) % 2 ^ 32) ++ addWords as bs
  | _, _ => []

/-- A transfer discarded: logged, and its context parked with illegal operand (R184). -/
def State.peaDiscard (s : State) (n : Nat) (m : PeaMsg) : State :=
  let p := (s.ctx n m.ctx).prog
  (s.logAs 1 n 0x0006 3 (some p.tenant) [(1, n), (1, m.core), (2, m.group)]).seqFault n m.ctx 2

/-- A local transfer lands and gives its arrival (R183 to R185). -/
def State.peaLand (s : State) (n : Nat) (m : PeaMsg) : State :=
  let p := (s.ctx n m.ctx).prog
  let tgt : Option Nat := if m.core = n then some m.ctx else (s.core m.core).liveCtx p.id
  match tgt with
  | none => s.peaDiscard n m
  | some j =>
    if (m.core ≠ n ∨ m.remote = true) ∧ s.rangeGranted p.tenant m.core m.target m.len = false then s.peaDiscard n m
    else
      match m.op with
      | 0 => (s.setSram m.core m.target m.data).arrive m.core j m.group false
      | 1 => (s.setSram n m.loc (s.sram m.core m.target m.len)).arrive n m.ctx m.group false
      | _ => (s.setSram m.core m.target (addWords (s.sram m.core m.target m.len) m.data)).arrive m.core j m.group false

/-- The first transfer to a target core of those a predicate admits. -/
def firstPea (here : PeaMsg → Bool) (target : Nat) : List PeaMsg → Option PeaMsg
  | [] => none
  | m :: ms => if m.core = target ∧ here m = true then some m else firstPea here target ms

/-- The list without that transfer. -/
def dropPea (here : PeaMsg → Bool) (target : Nat) : List PeaMsg → List PeaMsg
  | [] => []
  | m :: ms => if m.core = target ∧ here m = true then ms else m :: dropPea here target ms

/-- PEA_ARRIVAL: the oldest local transfer of a core to a target core completes (R185). -/
def execPeaArrival (core target : Nat) (s : State) : Out :=
  match firstPea (s.peaHere core) target (s.core core).peas with
  | none => .next s
  | some m => .next ((s.updCore core (fun c => { c with peas := dropPea (s.peaHere core) target c.peas })).peaLand core m)

end Sys2Proof.Machine
end

