-- ==== Sys2Proof/Machine/OutboundOps.lean ====
section
/-!
DEFINITION. The outbound queue: Tuber lists, update instructions, host queues and collectives (classes 0x7 to 0xA), and the
Pea transfers that leave the module (R182, R235, R282, R369, R411).
-/

namespace Sys2Proof.Machine

/-! ### Host queues (R411) -/

/-- R411 and R147: the operands of HQ_POST and HQ_TAKE. -/
def hqOk (x : Ctx) (w : IWord) : Bool :=
  let p := w.pl
  let a := field 22 0 p
  let q := field 25 23 p
  a % 64 == 0 && fits (a + 64) && (if w.opc = 0 then decide (5 ≤ q) else decide (2 ≤ q) && decide (q ≤ 4) && !x.hitsSave a 64)

/-- HQ_POST: the entry, with its index in bytes 0 to 3, goes into the shadow. -/
def State.hqPostTake (s : State) (n k : Nat) (w : IWord) : State :=
  let p := w.pl
  let q := field 25 23 p
  let tn := (s.ctx n k).prog.tenant
  let bs := s.sram n (field 22 0 p) 64
  ((s.pushShadow tn q (fun i => entryOf (leBytes 4 i.toNat ++ bs.drop 4))).flushQueue tn q).arrive n k (field 36 26 p) false

/-- HQ_TAKE: the next entry of the ring goes to the core; one that names another index puts the queue into the error
state. -/
def State.hqTakeTake (s : State) (n k : Nat) (w : IWord) (ring : Entry) : State :=
  let p := w.pl
  let q := field 25 23 p
  let tn := (s.ctx n k).prog.tenant
  let t := s.tenant tn
  let x := t.queue q
  if entryField ring 0 4 = x.cons.toNat then
    ((s.setTenant tn (t.setQueue q { x with cons := x.cons + 1 })).setSram n (field 22 0 p) (entryBytes ring)).arrive n k (field 36 26 p) false
  else (s.queueError tn q).arrive n k (field 36 26 p) true

/-! ### Acceptance -/

/-- Whether the outbound unit takes an instruction now. `ring` is the entry of the ring, where the command brings one. -/
def State.obReady (s : State) (n k : Nat) (w : IWord) (ring : Option Entry) : Bool :=
  let x := s.ctx n k
  if w.cls = 9 ∧ hqOk x w = true then
    let q := field 25 23 w.pl
    if w.opc = 0 then ((s.tenant x.prog.tenant).queue q).room else ring.isSome && s.inputWaits x.prog.tenant q
  else true

/-- An outbound instruction handed to its unit. -/
def State.obAccept (s : State) (n k : Nat) (w : IWord) (ring : Option Entry) : State :=
  match w.cls with
  | 7 => s.tbTake n k w
  | 10 => s.updTake n k w
  | 9 =>
    if hqOk (s.ctx n k) w = false then s.seqFault n k 2
    else if w.opc = 0 then s.hqPostTake n k w
    else s.hqTakeTake n k w (ring.getD 0#512)
  | _ => s.collTake n k w

/-! ### Remote Pea transfers (R182, R184, R349, R379) -/

/-- Traffic class of the messages of a context: scheduled while its program holds a reservation in a slot of its own. -/
def State.peaClass (s : State) (n k : Nat) : Nat :=
  let p := (s.ctx n k).prog
  let held := match s.image with
    | some im => im.resvs.any (fun g => g.any (fun r => r.prog == p.id))
    | none => false
  if (s.core n).run = .running k false ∧ held = true then 0 else 1

/-- A message with another value in its length field: a GET names the length that it asks for. -/
def LMsg.withLen (m : LMsg) (units : Nat) : LMsg := { m with hdr := m.hdr.take 2 ++ leBytes 2 units ++ m.hdr.drop 4 }

/-- A transfer to a shard that another module holds leaves as PUT, GET or ATOMIC. -/
def State.peaSend (s : State) (n : Nat) (m : PeaMsg) : State :=
  let p := (s.ctx n m.ctx).prog
  match s.jobSlot p with
  | none => s
  | some k =>
    let kind := match m.op with
      | 0 => 1
      | 1 => 2
      | _ => 4
    let tag := s.gl.nextTag % 65536
    let dst := s.holder k m.shard
    let spec := leBytes 2 tag ++ leBytes 1 m.core ++ leBytes 3 m.target ++ leBytes 2 m.group
    let o : OutMsg := ⟨tag, dst, s.now, .pea n m⟩
    let s := { s with gl := { s.gl with outs := s.gl.outs ++ [o], nextTag := s.gl.nextTag + 1 } }
    s.post ((mkMsg kind (s.peaClass n m.ctx) false s.gl.epoch s.self ((n + m.core) % 16) dst p.tenant (s.job k).info.slot spec m.data).withLen
      (m.len / 16)) none

/-- A Pea instruction taken from the queue (R183); a transfer to another module is sent. -/
def State.peTake (s : State) (n k : Nat) (w : IWord) : State :=
  let before := (s.core n).peas.length
  let s := s.peAccept n k w
  match (s.core n).peas[before]? with
  | some m => if s.peaHere n m then s else s.peaSend n m
  | none => s

end Sys2Proof.Machine
end

