-- ==== Sys2Proof/Machine/Host.lean ====
section
/-!
DEFINITION. The host link as commands: attach and detach, the mailbox, doorbells, commands of queue 0, direct placement,
CXL.mem accesses and DMA (R391 to R416).
-/

namespace Sys2Proof.Machine

/-- Device physical address of an HL_ register. -/
def hlAddr (off : Nat) : Nat := 0x300000020000 + off

/-- Who may write the driver's registers: the driver and the steward (R390). -/
def Who.mayDrive (w : Who) : Bool := w.isDriver || w.isSteward
/-- The host-link port of a requester. -/
def Who.port (w : Who) : Nat := if w.index = 0x5B then 1 else 0

/-! ### Attach and detach (R394 to R397) -/

/-- A write of HL_ATTACH with go. -/
def State.attach (s : State) (port : Nat) (v : W32) : State :=
  let n := v.toNat
  let ver := n % 16
  let host := n / 256
  let h := s.hl
  let full := (match s.image with
    | some _ => true
    | none => false) && s.start.stage == 4 && s.start.done
  let r := if !full then 3 else if ver ≠ 1 ∧ ver ≠ 2 then 1 else if h.state = 1 ∧ h.att.any (· != port) = true ∧ h.hostId ≠ host then 2 else 0
  if r ≠ 0 then { s with hl := { h with refusal := r } }
  else
    let s := { s with hl := { h with
      refusal := 0, state := 1, session := (h.session + 1) % 65536, hostId := host, inUse := ver, hbArmed := s.now
      att := if h.att.contains port then h.att else h.att ++ [port] } }
    s.logAttach port 0 0

/-- ATTACH (R394): the go bit of HL_ATTACH written without detach. -/
def execAttach (who : Who) (value : W32) (s : State) : Out :=
  if !who.mayDrive then .next (s.logDiscard (hlAddr 4) who true)
  else if bitN 4 value.toNat && !bitN 5 value.toNat then .next (s.attach who.port value)
  else .next s

/-- DETACH (R395): the detach bit of HL_ATTACH written. -/
def execDetach (who : Who) (value : W32) (s : State) : Out :=
  if !who.mayDrive then .next (s.logDiscard (hlAddr 4) who true)
  else if bitN 5 value.toNat then .next (s.detach 3 who.port)
  else .next s

/-- The heartbeat timer has expired: the module detaches. -/
def State.heartbeatLost (s : State) : State :=
  let t := s.hl.hbArmed
  ((s.advanceTo (t + 4000000000)).logTimeout 19 t).detach 1 0

/-- A write of HL_HBEAT (R395): the timer starts again. One that comes at its expiry or later finds it expired (R13), and a heartbeat after a
detach does not re-attach (R458). -/
def State.heartbeat (s : State) : State :=
  if s.hl.state ≠ 1 then s
  else if s.hl.hbArmed + 4000000000 ≤ s.now then s.heartbeatLost
  else { s with hl := { s.hl with hbArmed := s.now } }

/-- HEARTBEAT: HL_HBEAT written. -/
def execHeartbeat (who : Who) (s : State) : Out :=
  .next (if who.mayDrive then s.heartbeat else s.logDiscard (hlAddr 0xC) who true)

/-- HEARTBEAT_TIMEOUT (R395, R459): 4 s after the last heartbeat. -/
def execHeartbeatTimeout (s : State) : Out := if s.hl.state = 1 then .next s.heartbeatLost else .next s

def HlPort.down : HlPort := ⟨0, 0, 0, false, false⟩

/-- HOST_LINK_DOWN (R395): both ports lose link. -/
def execHostLinkDown (s : State) : Out :=
  let s := s.detach 2 0
  .next { s with hl := { s.hl with ports := [HlPort.down, HlPort.down] } }

/-- A port as training at a speed code and a width leaves it (R392, R415): CXL.io alone before full function. -/
def State.trainedPort (s : State) (speed width : Nat) : HlPort :=
  if speed = 0 ∨ width = 0 ∨ s.start.stage = 0 then HlPort.down
  else if s.start.stage = 4 ∧ s.start.done = true then ⟨2, min speed 6, min width 16, true, true⟩
  else ⟨1, 1, min width 16, false, false⟩

/-- HOST_PORT_RESET (R424): PERST# or a hot reset; the port trains again, at the speed and width that come of it. -/
def execHostPortReset (port speed width : Nat) (s : State) : Out :=
  .next { s with hl := { s.hl with ports := mapAt s.hl.ports port (fun _ => s.trainedPort speed width) } }

/-! ### The mailbox (R401, R416) -/

def HlSt.tenant (h : HlSt) : Nat := h.csel.toNat % 4096
def HlSt.object (h : HlSt) : Nat := h.csel.toNat / 4096 % 64

/-- The mailbox refuses with a reason. -/
def State.mbRefuse (s : State) (reason : Nat) : State := { s with hl := { s.hl with cstate := 3, creason := reason, cres := 0#64 } }
/-- The mailbox is done with a result. -/
def State.mbDone (s : State) (res : Nat) : State := { s with hl := { s.hl with cstate := 2, creason := 0, cres := BitVec.ofNat 64 res } }

/-- A write of HL_CCMD: by the driver while the mailbox is idle. `f` is given the tenant and the object. -/
def State.mailboxRun (s : State) (who : Who) (f : State → Nat → Nat → State) : State :=
  if !who.mayDrive || s.hl.cstate == 1 then s.logDiscard (hlAddr 0x38) who true
  else if (s.tenant s.hl.tenant).state = 0 then s.mbRefuse 1
  else if s.hl.state ≠ 1 then s.mbRefuse 6
  else f s s.hl.tenant s.hl.object

def State.mailbox (s : State) (who : Who) (f : State → Nat → Nat → State) : Out := .next (s.mailboxRun who f)

/-- HREG: a host region registered and mapped at 64 KiB pages. -/
def State.hreg (s : State) (tn r : Nat) : State :=
  let a := s.hl.carg0.toNat
  let len := s.hl.carg1.toNat % 2 ^ 40
  let t := s.tenant tn
  if a % 65536 ≠ 0 ∨ len % 65536 ≠ 0 ∨ len = 0 then s.mbRefuse 2
  else if t.over1 then s.mbRefuse 3
  else if 64 ≤ t.regions.length then s.mbRefuse 4
  else if (t.region r).len ≠ 0 then s.mbRefuse 7
  else
    let va := s.freshVa tn 65536 len
    let g : Region := { Region.none with host := true, base := a, va := va, len := len, write := bitN 40 s.hl.carg1.toNat }
    let s := s.bump.setTenant tn { t with regions := Sp.set Region.none t.regions r g }
    ((List.range (len / 65536)).foldl (fun (s : State) i =>
      s.setPage (pageKey tn (va / 65536 + i)) ⟨.hostPage r i, false, false⟩) s).mbDone va

/-- R400: a page that no device region may include: of a band, an update-only tensor, a residual or the compute half, or no
tier-1 page at all. -/
def State.forbiddenPage (s : State) (tn va : Nat) : Bool :=
  let named := match s.image with
    | some im => im.tensors.any (fun t => t.tenant == tn && t.kind != 0 && t.kind != 6 && t.kind != 7 && t.kind != 9 && t.kind != 10 &&
        decide (t.va ≤ va) && decide (va < t.va + t.size * pageSize))
    | none => false
  let e := (s.pageOf tn va).2
  named || (match e.dest with
    | .tier1 f _ => (match (s.frameAt f).owner with
      | some (_, _, .part _ _ _) => true
      | some (_, _, .copy _) => true
      | _ => false)
    | _ => true)

/-- Offset for a new window of `len` bytes beside windows already given: where the steward chose, or behind all. -/
def freshWindow (used : List (Nat × Nat)) (choice align size len : Nat) : Nat :=
  let c := choice * align % size
  if size < c + len ∨ used.any (fun w => overlaps c len w.1 w.2) = true then
    ceilDiv (used.foldl (fun m w => max m (w.1 + w.2)) 0) align * align
  else c

/-- DREG: a device region registered, and counted in the tenant's tier-1 use (R272, R400; log entry 91); with placement, at host interface version 2, mapped into BAR 2. -/
def State.dreg (s : State) (tn r : Nat) : State :=
  let va := s.hl.carg0.toNat
  let a := s.hl.carg1.toNat
  let len := a % 2 ^ 40
  let t := s.tenant tn
  let place := bitN 41 a && s.hl.inUse == 2
  if va % pageSize ≠ 0 ∨ len % pageSize ≠ 0 ∨ len = 0 ∨ 2 ^ 48 < va + len then s.mbRefuse 2
  else if t.over1 then s.mbRefuse 3
  else if 64 ≤ t.regions.length then s.mbRefuse 4
  else if (List.range (len / pageSize)).any (fun i => s.forbiddenPage tn (va + i * pageSize)) then s.mbRefuse 5
  else if (t.region r).len ≠ 0 then s.mbRefuse 7
  else
    let all := s.tenants.flatMap (fun x => (x.2.regions.filter (fun g => !g.2.host)).map (·.2))
    let hdm := freshWindow (all.map (fun g => (g.hdm, g.len))) (Config.hdmChoice s.free) pageSize (2 ^ 41) len
    let bar := freshWindow ((all.filter (·.placement)).map (fun g => (g.bar2, g.len))) (Config.bar2Choice s.free) 65536 (2 ^ 39) len
    let g : Region := { Region.none with
      va := va, len := len, write := bitN 40 a, placement := place, adapter := a / 2 ^ 48, hdm := hdm, bar2 := if place then bar else 0 }
    ((s.bump.setTenant tn { t with regions := Sp.set Region.none t.regions r g, use1 := t.use1 + len / pageSize }).settleQuota tn).mbDone (hdm % 2 ^ 41 + (if place then bar / 65536 else 0) * 2 ^ 41)

/-- RREL: the release waits until nothing uses the region. -/
def State.rrel (s : State) (tn r : Nat) : State :=
  let t := s.tenant tn
  let g := t.region r
  if g.len = 0 then s.mbRefuse 2
  else
    { s.setTenant tn { t with regions := Sp.set Region.none t.regions r { g with releasing := true } } with
      hl := { s.hl with cstate := 1, creason := 0, cres := 0#64 } }.pumpRelease

/-- DBELL: the doorbell line of a tenant. -/
def State.dbell (s : State) (tn : Nat) : State :=
  let a := s.hl.carg0.toNat
  if a % 64 ≠ 0 then s.mbRefuse 2 else (s.updTenant tn (fun t => { t with doorbell := some a })).mbDone 0

/-- What QSET and QRESET return (R397, R416): the restart index, and the next produced index. -/
def Queue.restart (q : Queue) (input : Bool) : Nat :=
  if input then q.cons.toNat + q.cons.toNat * 2 ^ 32 else q.acked1.toNat + q.prod.toNat * 2 ^ 32

/-- A queue served again from its restart index: the host announces its entries again, the module writes every entry that
is not acknowledged. -/
def Queue.again (q : Queue) (input : Bool) : Queue := if input then { q with prod := q.cons } else { q with wrote := q.acked1 }

/-- The queue's entries written, once it is served (again): completions that waited get room. -/
def State.serveQueue (s : State) (tn q : Nat) : State :=
  let s := if q = 1 then s.drainWaiting tn (s.tenant tn).waiting.length else s
  let s := s.flushQueue tn q
  if q = 7 then (s.jobs.filter (fun j => j.2.info.tenant == tn)).foldl (fun (s : State) j => s.hostReady j.1) s else s

/-- Pages of the shadow of a queue of depth 2^n (R405). -/
def shadowPages (q n : Nat) : Nat := if isInput q then 0 else ceilDiv (64 * 2 ^ n) pageSize

/-- QSET (R397, R405): a ring set. The shadow of a device-to-host queue is allocated in the tenant's tier-1 pages. -/
def State.qset (s : State) (tn q : Nat) : State :=
  let a := s.hl.carg1.toNat
  let base := s.hl.carg0.toNat
  let n := a % 32
  let x := (s.tenant tn).queue q
  if 8 ≤ q ∨ base % 4096 ≠ 0 ∨ n < 6 ∨ 16 < n ∨ 2 ^ n < x.shadow.length then s.mbRefuse 2
  else
    let s1 := s.freeFrames tn (fun o => o == (tn, 0xFFFF, FrameUse.shadow q))
    let t1 := s1.tenant tn
    let m := shadowPages q n
    if t1.quota1 < t1.use1 + m then s.mbRefuse 3
    else
      let got : Option State :=
        if m = 0 then some s1
        else (s1.bestDie (fun d => decide (m ≤ s1.freeOnDie d))).bind (fun d => (s1.allocFrames d m (tn, 0xFFFF, .shadow q)).map (·.1))
      match got with
      | none => s.mbRefuse 3
      | some s2 =>
        let y := { x with isSet := true, base := base, depthExp := n, port := b2n (bitN 8 a), err := false }.again (isInput q)
        ((s2.updTenant tn (fun t => t.setQueue q y)).serveQueue tn q).mbDone (x.restart (isInput q))

/-- QRESET (R406, R416): a queue leaves the error state. -/
def State.qreset (s : State) (tn q : Nat) : State :=
  if 8 ≤ q then s.mbRefuse 2
  else
    let x := (s.tenant tn).queue q
    let y := { x with err := false }.again (isInput q)
    let s := s.updTenant tn (fun t => if q = 0 then { t.setQueue q y with held := [] } else t.setQueue q y)
    (s.serveQueue tn q).mbDone (x.restart (isInput q))

def execHreg (who : Who) (s : State) : Out := s.mailbox who (fun s tn r => s.hreg tn r)
def execDreg (who : Who) (s : State) : Out := s.mailbox who (fun s tn r => s.dreg tn r)
def execRrel (who : Who) (s : State) : Out := s.mailbox who (fun s tn r => s.rrel tn r)
def execDbell (who : Who) (s : State) : Out := s.mailbox who (fun s tn _ => s.dbell tn)
def execQset (who : Who) (s : State) : Out := s.mailbox who (fun s tn q => s.qset tn q)
def execQreset (who : Who) (s : State) : Out := s.mailbox who (fun s tn q => s.qreset tn q)

/-! ### The doorbell line (R406) -/

/-- R406: an index has moved backward. -/
def backward (new old : W32) : Bool := decide (2 ^ 31 ≤ (new - old).toNat)

/-- The check of one index of the line; a failed one puts the queue into the error state. -/
def State.bellQueue (s : State) (tn q : Nat) (v : W32) : State :=
  let t := s.tenant tn
  let x := t.queue q
  if !x.isSet || x.err then s
  else if isInput q then
    if backward v x.prod || decide (2 ^ x.depthExp < (v - x.cons).toNat) then s.queueError tn q
    else s.setTenant tn (t.setQueue q { x with prod := v })
  else
    let a := x.acked1
    if backward v a || decide ((x.prod - a).toNat < (v - a).toNat) then s.queueError tn q
    else
      let w := if backward x.wrote v then v else x.wrote
      (s.setTenant tn (t.setQueue q { x with shadow := x.shadow.drop (v - a).toNat, wrote := w })).serveQueue tn q

/-- DOORBELL: the line as it is read again after a host store. -/
def execDoorbell (tenant : Nat) (line : Entry) (s : State) : Out :=
  let t := s.tenant tenant
  if s.hl.state = 1 ∧ t.hostEn = true ∧ t.doorbell.isSome = true then
    .next ((List.range 8).foldl (fun (s : State) q => s.bellQueue tenant q (BitVec.ofNat 32 (entryField line (4 * q) 4))) s)
  else .next s

/-! ### Commands of queue 0 (R408, R412) -/

/-- JOB_START, after the steward has heard what members have told (R27). -/
def execJobStart (tenant : Nat) (j : JobEntry) (s : State) : Out := (s.hearBeats j.told).commandRow tenant j.entry 0x01
def execJobStop (tenant : Nat) (entry : Entry) (s : State) : Out := s.commandRow tenant entry 0x02
def execFenceCommand (tenant : Nat) (entry : Entry) (s : State) : Out := s.commandRow tenant entry 0x03
def execTbSubmit (tenant : Nat) (entry : Entry) (s : State) : Out := s.commandRow tenant entry 0x04
def execT2Open (tenant : Nat) (entry : Entry) (s : State) : Out := s.commandRow tenant entry 0x10
def execT2Write (tenant : Nat) (entry : Entry) (s : State) : Out := s.commandRow tenant entry 0x11
def execT2Seal (tenant : Nat) (entry : Entry) (s : State) : Out := s.commandRow tenant entry 0x12
def execT2Abort (tenant : Nat) (entry : Entry) (s : State) : Out := s.commandRow tenant entry 0x13
def execT2Delete (tenant : Nat) (entry : Entry) (s : State) : Out := s.commandRow tenant entry 0x14
def execReshard (tenant : Nat) (entry : Entry) (s : State) : Out := s.commandRow tenant entry 0x20

/-- COMMAND_TAKE_WINDOW (R412): a new window of 1 µs begins. -/
def execCommandTakeWindow (s : State) : Out :=
  let s := s.advanceTo ((s.now / 1000 + 1) * 1000)
  .next (s.takeHeld (s.tenants.foldl (fun a t => a + t.2.held.length) 0))

/-! ### Direct placement (R413) -/

/-- The placement region that a range of BAR 2 lies in, for its adapter. -/
def State.placement (s : State) (requester off len : Nat) : Option (Nat × Nat × Region) :=
  if s.hl.state = 1 ∧ s.hl.inUse = 2 then
    s.findRegion (fun g => g.placement && g.adapter == requester && decide (g.bar2 ≤ off) && decide (off + len ≤ g.bar2 + g.len))
  else none

/-- An adapter's bytes stored, and counted for the next notice. -/
def State.placeBytes (s : State) (x : Nat × Nat × Region) (off : Nat) (data : List Byte) : State :=
  let g := x.2.2
  let s := (s.writeVirt x.1 (g.va + (off - g.bar2)) data false (data.length / 64 + 2)).settle
  s.updTenant x.1 (fun t => { t with regions := Sp.set Region.none t.regions x.2.1 { g with placed := g.placed + data.length } })

/-- PLACEMENT_WRITE: a posted write outside the notify line. -/
def execPlacementWrite (requester off : Nat) (data : List Byte) (s : State) : Out :=
  match s.placement requester off data.length with
  | none => .next (s.logOutside off (Config.hostPort off % 2) true)
  | some x => if x.2.2.bar2 + x.2.2.len < off + data.length + 64 then .next s else .next (s.placeBytes x off data)

/-- PLACEMENT_NOTIFY: a write that reaches the notify line, the last 64 B of the region; what it brings ahead of the line counts as placed. -/
def execPlacementNotify (requester off : Nat) (data : List Byte) (s : State) : Out :=
  match s.placement requester off data.length with
  | none => .next (s.logOutside off (Config.hostPort off % 2) true)
  | some x =>
    let g := x.2.2
    if g.bar2 + g.len < off + data.length + 64 then
      let s := (s.writeVirt x.1 (g.va + (off - g.bar2)) data false (data.length / 64 + 2)).settle
      let s := s.postEvent x.1 0x81 [(16, 1, x.2.1), (24, 8, g.placed + (g.bar2 + g.len - 64 - off))]
      .next (s.updTenant x.1 (fun t => { t with regions := Sp.set Region.none t.regions x.2.1 { g with placed := 0 } }))
    else .next s

/-! ### CXL.mem (R402, R404) -/

/-- CXL_MEM_ACCESS: a 64 B read, or a write of `data`, at an offset of the HDM decoder of a port. It waits for a held channel or bank
(R95, R249). A page being moved keeps its old frame until the move ends, so an access served before then and one that waits for the
end see the same bytes (R404). -/
def execCxlMemAccess (port off : Nat) (data : Option Entry) (poison : Bool) (s : State) : Out :=
  if !(s.hl.ports.getD port HlPort.down).mem then .next s
  else
    let off := off / 64 * 64
    let hit := s.findRegion (fun g => !g.host && decide (g.hdm ≤ off) && decide (off < g.hdm + g.len))
    let at_ : Option (Nat × Nat × Region) := match hit with
      | some x => ((s.physOf x.1 (x.2.2.va + (off - x.2.2.hdm))).filter isTier1).map (fun a => (a, x.1, x.2.2))
      | none => none
    match at_, data with
    | none, none => .next { s.logOutside off port false with resp := .burst (zeros 64) true }
    | none, some _ => .next (s.logOutside off port true)
    | some (a, tn, _), none =>
      if s.accWaits a then .next (s.deferAcc (.read ⟨0x5A + port, tn⟩ a .clean))
      else
        let o := (s.access a 1).burstRead a 1 .clean
        .next { o.1 with resp := .burst o.2.1 o.2.2 }
    | some (a, tn, g), some d =>
      if !g.write then .next (s.logDiscard a ⟨0x5A + port, tn⟩ true)
      else if s.accWaits a then .next (s.deferAcc (.write ⟨0x5A + port, tn⟩ a d poison))
      else .next (s.wrPhys a (entryBytes d) poison)

/-! ### DMA reads (R404) -/

/-- An answer to no DMA read: discarded and logged (R458). -/
def State.strayDma (s : State) : State := s.logDiscard 0 ⟨0x5A, 0x1000⟩ false

/-- A DMA read that was not answered within 50 ms delivers poison (R404, R459). -/
def State.dmaExpired (s : State) (r : DmaRead) : State :=
  (((s.advanceTo (r.armed + 50000000)).logTimeout 18 r.armed).dmaDone r [] true false).settle.pumpRelease

/-- HOST_DMA_COMPLETE: the answer to a DMA read; one that nothing waits for, or that comes at the end of the 50 ms or later (R13), is
discarded (R458). -/
def execHostDmaComplete (id : Nat) (data : List Byte) (poison : Bool) (s : State) : Out :=
  match s.hl.dma.find? (fun d => d.id == id) with
  | none => .next s.strayDma
  | some r =>
    if r.armed + 50000000 ≤ s.now then .next (s.dmaExpired r).strayDma
    else .next (s.dmaDone r data poison false).settle.pumpRelease

/-- HOST_DMA_TIMEOUT: 50 ms without an answer. -/
def execHostDmaTimeout (id : Nat) (s : State) : Out :=
  match s.hl.dma.find? (fun d => d.id == id) with
  | none => .next s
  | some r => .next (s.dmaExpired r)

/-- TB_LIST_COMPLETE (R246): the list's status is written; partials of a norm, and releases that waited, go on. -/
def execTbListComplete (list : Nat) (s : State) : Out :=
  let s := s.listComplete list
  .next (((s.jobs.map (·.1)).foldl (fun (s : State) k => if s.entriesOf k = [] then s else s.askNorm k) s).collPump).pumpRelease

end Sys2Proof.Machine
end

