-- ==== Sys2Proof/Machine/ImageOps.lean ====
section
/-!
DEFINITION. The Helsar image: how its header, section table and sections are read, and the image check (R80, R87, R206, R207,
R265, R280, R288, R289, R292, R325, R342, R365 to R368, R379, R441 to R453).
-/

namespace Sys2Proof.Machine

/-- Bytes `o` to `o + n - 1` as a number. -/
def at_ (bs : List Byte) (o n : Nat) : Nat := leVal ((bs.drop o).take n)
def isZero (bs : List Byte) (o n : Nat) : Bool := ((bs.drop o).take n).all (· == 0#8)
/-- Records of `n` bytes. -/
def chunks (bs : List Byte) (n : Nat) : List (List Byte) := (List.range (bs.length / n)).map (fun i => (bs.drop (n * i)).take n)
def fp (bs : List Byte) (o : Nat) : W32 := BitVec.ofNat 32 (at_ bs o 4)
/-- A field whose all-ones code selects a default (R444). -/
def dflt (bs : List Byte) (o n d : Nat) : Nat := let v := at_ bs o n; if v = 2 ^ (8 * n) - 1 then d else v

/-! ### Header and section table (R441, R442) -/

/-- A section table entry. -/
structure SecEnt where
  type : Nat
  flags : Nat
  off : Nat
  len : Nat
deriving DecidableEq, Repr

def imageCount (img : List Byte) : Nat := at_ img 24 2
def imageLen (img : List Byte) : Nat := at_ img 20 4
def sectionTable (img : List Byte) : List SecEnt :=
  (List.range (imageCount img)).map (fun i => ⟨at_ img (1024 + 64 * i) 2, at_ img (1026 + 64 * i) 1, at_ img (1032 + 64 * i) 4,
    at_ img (1036 + 64 * i) 4⟩)
def sectionOf (img : List Byte) (e : SecEnt) : List Byte := (img.drop e.off).take e.len

/-- The header's checks in the order of R434: the check code of SY_IMGERR, none where it passes. A wrong magic or length counts
as a wrong signature. -/
def headerCheck (img : List Byte) (sigOk certOk : Bool) (fused : Nat) : Option Nat :=
  if at_ img 0 4 ≠ 0x4E1A5E7B ∨ imageCount img = 0 ∨ 256 < imageCount img ∨ 33554432 < imageLen img ∨
      imageLen img < 1024 + 64 * imageCount img ∨ sigOk = false then some 1
  else if certOk = false ∨ at_ img 8 8 < at_ img 336 8 then some 2
  else if at_ img 4 2 ≠ 2 ∧ at_ img 4 2 ≠ 3 then some 3
  else if at_ img 28 4 ≠ 0xB02D70 then some 4
  else if at_ img 16 4 < fused then some 5
  else none

/-- Section types that every image holds (R443). -/
def requiredSections : List Nat := [1, 2, 3, 4, 6, 7, 9]
def knownSection (major t : Nat) : Bool := (decide (1 ≤ t) && decide (t ≤ 14)) || (t == 15 && major == 3)

/-- The check of one section table entry (R442, R443). -/
def tableCheck (img : List Byte) (i : Nat) : Option Nat :=
  let es := sectionTable img
  let e := es.getD i ⟨0, 0, 0, 0⟩
  let clash := (List.range es.length).any (fun j => let x := es.getD j ⟨0, 0, 0, 0⟩
    j != i && decide (e.off < x.off + x.len) && decide (x.off < e.off + e.len))
  if 1 < e.flags ∨ isZero img (1027 + 64 * i) 5 = false then some 8
  else if e.off % 64 ≠ 0 ∨ imageLen img < e.off + e.len ∨ e.off < 1024 + 64 * es.length ∨ clash = true then some 7
  else if !knownSection (at_ img 4 2) e.type && (e.flags == 1 || e.type == 15) then some 0x0C
  else if knownSection (at_ img 4 2) e.type && (List.range i).any (fun j => (es.getD j ⟨0, 0, 0, 0⟩).type == e.type) then some 7
  else none

/-! ### Sections read (R444 to R452) -/

def readCfg (b : List Byte) : ModCfg :=
  { beatExp := dflt b 0 1 2, maintExp := dflt b 1 1 2, heatExp := dflt b 2 1 2, maxVersion := dflt b 3 1 3,
    promote := dflt b 4 2 0x100, drop := dflt b 6 2 0x20, reserve := dflt b 8 1 0x40, promMax := dflt b 9 1 0x20,
    tuberCap := dflt b 10 1 0x20, tuberDepth := dflt b 11 1 0x20, holdCc := dflt b 12 2 0x0A28, ramp := dflt b 14 2 0x28A,
    balEnable := dflt b 16 1 1 == 1 }

def readTenant (b : List Byte) : TenRec :=
  ⟨at_ b 0 2, at_ b 4 4, at_ b 8 4, at_ b 12 4, at_ b 16 4, at_ b 20 1, at_ b 21 1⟩

def readTensor (b : List Byte) : TensorRec :=
  ⟨at_ b 0 3, at_ b 3 1, at_ b 4 2, at_ b 6 2, at_ b 8 1, at_ b 9 1, at_ b 12 4, at_ b 16 6, at_ b 22 2, at_ b 24 4⟩

def wordsOf (b : List Byte) : List IWord := (chunks b 16).map (fun w => BitVec.ofNat 128 (leVal w))

/-- A program's header at word `i` of a group (R80). -/
def progAt (b : List Byte) (i : Nat) : Prog :=
  let h := b.drop (16 * i)
  { id := at_ h 0 2, tenant := at_ h 2 2 % 4096, start := i, length := at_ h 4 4, nmode := at_ h 8 1,
    fillEligible := bitN 0 (at_ h 9 1), entry := at_ h 10 2 }

/-- Programs of a group, each at a multiple of 4 words. -/
def progsOf (b : List Byte) (i : Nat) : Nat → List Prog
  | 0 => []
  | fuel + 1 =>
    if b.length < 16 * i + 64 then []
    else
      let p := progAt b i
      p :: progsOf b (4 * ceilDiv (i + max 4 p.length) 4) fuel

def readGroups (b : List Byte) : Nat → List ProgGroup
  | 0 => []
  | fuel + 1 =>
    if b.length < 16 then []
    else
      let n := at_ b 8 4
      let body := (b.drop 16).take (16 * n)
      ⟨at_ b 0 8, wordsOf body, progsOf body 0 (n + 1)⟩ :: readGroups (b.drop (16 + 16 * n)) fuel

def readSlot (b : List Byte) : Slot :=
  let v := leVal b
  ⟨field 9 0 v, field 11 10 v == 1, field 23 12 v, field 39 24 v⟩

def readTable (b : List Byte) : BeatTable :=
  ⟨(List.range (at_ b 0 1)).map (fun k => readSlot ((b.drop (4 + 8 * k)).take 8)), (List.range (at_ b 1 1)).map (fun i => at_ b (516 + 2 * i) 2)⟩

def readGrant (b : List Byte) : Grant :=
  let v := leVal b
  ⟨field 15 0 v, field 17 16 v, field 19 18 v, field 21 20 v, field 27 22 v, field 35 28 v⟩

def readFabric (b : List Byte) : FabMap :=
  let d := at_ b 0 1
  { dims := (List.range d).map (fun i => at_ b (8 + 3 * i) 3), self := at_ b 2 3 % 2 ^ 18
    ports := (List.range 18).map (fun p => let v := at_ b (40 + 4 * p) 4; ⟨field 3 0 v, bitN 4 v, bitN 5 v, field 24 16 v, field 29 25 v⟩)
    digest := crc32 (b.take 2 ++ zeros 3 ++ b.drop 5) }

def sbyte (b : List Byte) (o : Nat) : Int := signed 8 (at_ b o 1)

/-- The pairs of a piecewise schedule: the first, and those whose start is not 0. -/
def readPieces (b : List Byte) : List (Nat × W32) :=
  let ps := (List.range 8).map (fun i => (at_ b (64 + 8 * i) 4, fp b (68 + 8 * i)))
  ps.take 1 ++ (ps.drop 1).takeWhile (fun p => p.1 != 0)

def readJob (b : List Byte) : JobRec :=
  { job := at_ b 0 2, tenant := at_ b 2 2, kind := at_ b 4 1, slot := at_ b 5 1, sExp := at_ b 6 1, hExp := at_ b 7 1,
    rule := at_ b 8 1, sched := at_ b 9 1, hostCopy := at_ b 10 1, ringBands := dflt b 11 1 8, staging := at_ b 12 1,
    eInit := sbyte b 13, eMin := sbyte b 14, eMax := sbyte b 15, interval := at_ b 16 4, grow := at_ b 20 1, back := at_ b 21 1,
    beta1 := fp b 24, beta2 := fp b 28, eps := fp b 32, mu := fp b 36, limit := fp b 40, clip := fp b 44, lrPeak := fp b 48,
    lrEnd := fp b 52, warm := at_ b 56 4, total := at_ b 60 4, pieces := readPieces b, mand0 := at_ b 128 4, mand1 := at_ b 132 4,
    layers := at_ b 136 2, layerPages := at_ b 140 4, stepCtxs := (List.range 4).map (fun d => at_ b (144 + d) 1),
    progs := ((List.range 16).map (fun i => at_ b (148 + 2 * i) 2)).filter (· != 0xFFFF) }

def mapEntry (b : List Byte) : Nat × Nat := let v := leVal b; (field 17 0 v, field 25 18 v)

/-- Bytes of the shard-map record at the front. -/
def mapBytes (b : List Byte) : Nat := 4 + 4 * 2 ^ (at_ b 2 1 % 32)
def readMap (b : List Byte) : ShardMap :=
  ⟨at_ b 0 2, at_ b 2 1, at_ b 3 1, (chunks ((b.take (mapBytes b)).drop 4) 4).map mapEntry⟩

def readMaps (b : List Byte) : Nat → List ShardMap
  | 0 => []
  | fuel + 1 => if b.length < 4 then [] else readMap b :: readMaps (b.drop (mapBytes b)) fuel

/-- Pipeline stages: for each job its number, its stage count, and that many shard-map records. -/
def readStageMaps (b : List Byte) : Nat → List ShardMap × List Byte
  | 0 => ([], b)
  | n + 1 => if b.length < 4 then ([], b) else let r := readStageMaps (b.drop (mapBytes b)) n; (readMap b :: r.1, r.2)

def readStages (b : List Byte) : Nat → List (Nat × List ShardMap)
  | 0 => []
  | fuel + 1 =>
    if b.length < 4 then []
    else let r := readStageMaps (b.drop 4) (at_ b 2 1); (at_ b 0 2, r.1) :: readStages r.2 fuel

def readUpd (sec b : List Byte) : UpdEntry :=
  let n := at_ b 24 2
  let o := at_ b 28 4
  { grad := at_ b 0 3, hi := at_ b 3 3, lo := at_ b 6 3, m1 := at_ b 9 3, m2 := at_ b 12 3, partLen := at_ b 16 4, wd := fp b 20,
    records := n, ranges := (List.range n).map (fun j => at_ sec (o + 4 * j) 4) }

/-- Update sets: the records end where the first range table begins. -/
def readSets (sec : List Byte) (pos stop : Nat) : Nat → List UpdSet
  | 0 => []
  | fuel + 1 =>
    if min stop sec.length < pos + 4 then []
    else
      let n := at_ sec (pos + 2) 2
      let es := (chunks ((sec.drop (pos + 4)).take (32 * n)) 32)
      ⟨at_ sec pos 2, es.map (readUpd sec)⟩ :: readSets sec (pos + 4 + 32 * n) ((es.map (fun e => at_ e 28 4)).foldl min stop) fuel

def readColl (b : List Byte) : CollEntry :=
  ⟨at_ b 0 2, at_ b 2 1, at_ b 3 1, at_ b 4 1, at_ b 5 1, at_ b 6 1, at_ b 7 1, at_ b 8 2, at_ b 10 2, at_ b 12 4, at_ b 16 6, at_ b 22 6,
    at_ b 28 6⟩

def readColls (b : List Byte) : Nat → List CollTable
  | 0 => []
  | fuel + 1 =>
    if b.length < 4 then []
    else
      let n := at_ b 2 2
      ⟨at_ b 0 2, (chunks ((b.drop 4).take (64 * n)) 64).map readColl⟩ :: readColls (b.drop (4 + 64 * n)) fuel

def readResv (b : List Byte) : Resv := let v := at_ b 2 1; ⟨at_ b 0 2, field 4 0 v, field 5 5 v, field 7 6 v, at_ b 3 1⟩
def readResvs (b : List Byte) : Nat → List (List Resv)
  | 0 => []
  | fuel + 1 =>
    if b.length < 4 then []
    else
      let n := at_ b 0 4
      ((chunks ((b.drop 4).take (8 * n)) 8).map readResv) :: readResvs (b.drop (4 + 8 * n)) fuel

/-- The bytes of the section of a type, empty where the image has none. -/
def secOfType (img : List Byte) (t : Nat) : List Byte :=
  match (sectionTable img).find? (fun e => e.type == t) with
  | some e => sectionOf img e
  | none => []

/-- The instruction words of a program of the image, behind its header of four words, as bytes. -/
def progBytes (gs : List ProgGroup) (id : Nat) : List Byte :=
  match gs.findSome? (fun g => (g.progs.find? (fun p => p.id == id)).map (fun p => (g, p))) with
  | some (g, p) => (((g.words.drop p.start).take p.length).drop 4).flatMap (fun w => leBytes 16 w.toNat)
  | none => []

/-- R465: the job digest of a job record, given as its bytes. -/
def jobDigest (gs : List ProgGroup) (b : List Byte) : Nat × Nat :=
  ((readJob b).job, crc32 (b ++ (readJob b).progs.flatMap (progBytes gs)))

/-- The image with every section read. -/
def readImage (img : List Byte) : Image :=
  let s := secOfType img
  let n := img.length
  let beat := s 7
  let gr := s 8
  { major := at_ img 4 2, minor := at_ img 6 2, sequence := at_ img 8 8, secVersion := at_ img 16 4, cfg := readCfg (s 1),
    guestIface := at_ (s 3) 0 2, tenants := (chunks (s 4) 32).map readTenant, tensors := (chunks (s 5) 32).map readTensor,
    progs := readGroups (s 6) n, tables := (chunks (beat.drop 128) 576).map readTable,
    binding := (List.range 64).map (fun i => at_ beat (64 + i) 1), grants := (chunks (gr.drop 16) 8).map readGrant,
    fabric := readFabric (s 9), jobs := (chunks (s 10) 192).map readJob, maps := readMaps (s 11) n,
    sets := readSets (s 12) 0 (s 12).length n, colls := readColls (s 13) n, resvs := readResvs (s 14) n, stages := readStages (s 15) n,
    digests := (chunks (s 10) 192).map (jobDigest (readGroups (s 6) n)) }

/-! ### Field checks (R453) -/

/-- The first failing entry of a section: its check code and number. -/
def firstBad (l : List (Option Nat)) : Option (Nat × Nat) :=
  (l.findIdx? (·.isSome)).map (fun i => ((l.getD i none).getD 0, i))

/-- Programs of the image with the mask of their group. -/
def Image.allProgs (im : Image) : List (Nat × Prog) := im.progs.flatMap (fun g => g.progs.map (fun p => (g.mask, p)))
def Image.prog (im : Image) (id : Nat) : Option Prog := (im.allProgs.find? (fun p => p.2.id == id)).map (·.2)
def Image.hasTenant (im : Image) (t : Nat) : Bool := im.tenants.any (fun x => x.tenant == t)
def Image.hasJob (im : Image) (j : Nat) : Bool := im.jobs.any (fun x => x.job == j)
def Image.jobRec (im : Image) (j : Nat) : JobRec := (im.jobs.find? (fun x => x.job == j)).getD JobRec.none

def cfgCheck (c : ModCfg) (b : List Byte) : Option Nat :=
  if b.length ≠ 64 then some 7
  else if 6 < c.beatExp ∨ 4 < c.maintExp ∨ 6 < c.heatExp ∨ c.maxVersion = 0 ∨ 3 < c.maxVersion ∨ c.promote ≤ c.drop ∨ 0x34 < c.tuberCap ∨
      c.tuberDepth = 0 ∨ 4095 < c.ramp ∨ (1 < at_ b 16 1 ∧ at_ b 16 1 ≠ 0xFF) ∨ isZero b 17 47 = false then some 8
  else none

def tenantCheck (ts : List TenRec) (i : Nat) (b : List Byte) : Option Nat :=
  let t := readTenant b
  if 0xFFF < t.tenant ∨ isZero b 2 2 = false ∨ isZero b 22 10 = false ∨ (ts.take i).any (fun x => x.tenant == t.tenant) = true ∨
      262144 < t.exchWin ∨ 256 < t.exchFirst + t.exchCount then some 8
  else none

def tensorCheck (im : Image) (i : Nat) (b : List Byte) : Option Nat :=
  let t := readTensor b
  let own := (im.tensors.take i).filter (fun x => x.tenant == t.tenant && x.id == t.id)
  if 10 < t.kind ∨ (3 < t.home ∧ t.home ≠ 0xFF) ∨ 1 < t.cls ∨ (t.kind ≠ 9 ∧ (t.cls ≠ 0 ∨ t.t2id ≠ 0)) ∨ isZero b 10 2 = false ∨ isZero b 28 4 = false ∨
      (t.kind ≠ 10 ∧ t.core ≠ 0) ∨ (t.kind = 10 ∧ 63 < t.core ∧ (t.core < 0x100 ∨ 0x103 < t.core)) ∨ 2 ^ 24 ≤ t.t2id ∨ own ≠ [] then some 8
  else if im.hasTenant t.tenant = false ∨ (t.job ≠ 0xFFFF ∧ im.hasJob t.job = false) then some 9
  else if t.kind = 10 ∧ (if t.core < 64 then 128 else 1024) <
      ((im.tensors.take (i + 1)).filter (fun x => x.kind == 10 && x.core == t.core)).foldl (fun a x => a + x.size) 0 then some 0x0A
  else none

/-- One program of a group: its header, its instructions and their targets (R80). -/
def progCheck (b : List Byte) (p : Prog) : Option Nat :=
  let h := b.drop (16 * p.start)
  let ws := wordsOf ((h.take (16 * p.length)).drop 64)
  let aims (w : IWord) : Bool := !(w.cls == 0 && decide (1 ≤ w.opc) && decide (w.opc ≤ 4)) || decide (field 12 0 w.pl < p.length)
  if p.length < 5 ∨ 8192 < p.length ∨ h.length < 16 * p.length then some 7
  else if p.id = 0xFFFF ∨ 4095 < at_ h 2 2 ∨ 7 < p.nmode ∨ 1 < at_ h 9 1 ∨ p.entry < 4 ∨ p.length ≤ p.entry ∨ isZero h 16 48 = false ∨
      ws.all (fun w => wordLegal w && aims w) = false then some 8
  else none

/-- Words of the groups that reach a core. -/
def coreWords (gs : List ProgGroup) (n : Nat) : Nat := (gs.filter (fun g => bitN n g.mask)).foldl (fun a g => a + g.words.length) 0

def groupCheck (im : Image) (i : Nat) (b : List Byte) (g : ProgGroup) : Option Nat :=
  let old := im.progs.take i
  let wordsFor (x : ProgGroup) (p : Prog) : List IWord := (x.words.drop p.start).take p.length
  let dup := g.progs.any (fun p => old.any (fun x => x.progs.any (fun q => q.id == p.id && (x.mask &&& g.mask != 0 || wordsFor x q != wordsFor g p)))) ||
    (g.progs.map (·.id)).eraseDups.length != g.progs.length
  match g.progs.findSome? (progCheck b) with
  | some c => some c
  | none =>
    if dup then some 8
    else if g.progs.any (fun p => !im.hasTenant p.tenant) then some 9
    else if (List.range 64).any (fun n => bitN n g.mask && decide (8192 < coreWords (old ++ [g]) n)) then some 0x0A
    else none

/-- Bytes of the words of each group, in order. -/
def groupBodies (b : List Byte) : Nat → List (List Byte)
  | 0 => []
  | fuel + 1 =>
    if b.length < 16 then []
    else let n := at_ b 8 4; (b.drop 16).take (16 * n) :: groupBodies (b.drop (16 + 16 * n)) fuel

/-- Length of slot `k` of a table in 1/1024 of a beat. -/
def slotSpan (sl : List Slot) (k : Nat) : Int := (((sl.getD (k + 1) ⟨1024, true, 0, 0⟩).start : Int)) - (sl.getD k ⟨0, true, 0, 0⟩).start

def beatTableCheck (im : Image) (i : Nat) (b : List Byte) : Option Nat :=
  let t := im.tables.getD i ⟨[], []⟩
  let cores := (List.range 64).filter (fun n => im.binding.getD n 0 == i)
  let L := 4096 * 2 ^ im.cfg.beatExp
  let n := t.slots.length
  let kinds := (List.range n).map (fun k => field 11 10 (at_ b (4 + 8 * k) 8))
  let names := ((t.slots.filter (fun s => !s.open_)).map (·.prog) ++ t.fill).eraseDups
  let reaches (id : Nat) : Bool := cores.all (fun c => im.allProgs.any (fun p => p.2.id == id && bitN c p.1))
  if n = 0 ∨ 64 < n ∨ 16 < t.fill.length ∨ isZero b 2 2 = false ∨ (t.slots.headD ⟨1, true, 0, 0⟩).start ≠ 0 ∨ kinds.any (fun k => decide (1 < k)) = true ∨
      (List.range n).any (fun k => decide (slotSpan t.slots k * L < 4096 * 1024)) = true ∨
      t.slots.any (fun s => s.open_ && (s.tenant != 0 || s.prog != 0xFFFF)) = true ∨ isZero b (4 + 8 * n) (512 - 8 * n) = false ∨
      isZero b (516 + 2 * t.fill.length) (60 - 2 * t.fill.length) = false then some 8
  else if t.slots.any (fun s => !s.open_ && (match im.prog s.prog with
      | some p => p.tenant != s.tenant || !reaches s.prog
      | none => true)) = true ∨ t.fill.any (fun id => match im.prog id with
      | some p => !p.fillEligible || !reaches id
      | none => true) = true then some 9
  else if 64 < names.length then some 0x0A
  else none

/-- Programs that hold a scheduled slot in unit `u` of the beat on a core of a die. -/
def Image.runsIn (im : Image) (die u prog : Nat) : Bool :=
  (List.range 16).any (fun c =>
    let t := im.tables.getD (im.binding.getD (16 * die + c) 0) ⟨[], []⟩
    (List.range t.slots.length).any (fun k =>
      let s := t.slots.getD k ⟨0, true, 0, 0⟩
      !s.open_ && s.prog == prog && decide (s.start ≤ u) && decide ((u : Int) < (s.start : Int) + slotSpan t.slots k)))

def Image.runsAny (im : Image) (u prog : Nat) : Bool := (List.range 4).any (fun d => im.runsIn d u prog)

/-- Rate across the link of a die in one direction in unit `u`, in units of 0.2 GB/s (R207). -/
def Image.linkLoad (im : Image) (gs : List Grant) (die dir u : Nat) : Nat :=
  (gs.filter (fun g => im.runsIn g.die u g.prog && g.die != g.target && (g.die == die || g.target == die))).foldl
      (fun a g => a + 64 * (if g.kind = 0 then g.w else g.units)) 0 +
    ((im.resvs.flatten).filter (fun r => r.die == die && r.dir == dir && im.runsAny u r.prog)).foldl (fun a r => a + 5 * r.rate) 0

def grantCheck (im : Image) (i : Nat) (die : Nat) (b : List Byte) : Option Nat :=
  let g := readGrant b
  let upto := im.grants.take (i + 1)
  if 1 < g.kind ∨ g.die ≠ die ∨ leVal b / 2 ^ 36 ≠ 0 ∨ (g.kind = 0 ∧ (g.w = 0 ∨ 48 < g.w ∨ g.units ≠ 0)) ∨
      (g.kind = 1 ∧ (g.w ≠ 0 ∨ g.units = 0 ∨ 187 < g.units)) then some 8
  else if (im.prog g.prog).isNone = true ∨ !(List.range 1024).any (fun u => im.runsIn g.die u g.prog) then some 9
  else if (List.range 1024).any (fun u =>
      decide (48 < (upto.filter (fun x => x.kind == 0 && x.target == g.target && im.runsIn x.die u x.prog)).foldl (fun a x => a + x.w) 0) ||
      [g.die, g.target].any (fun d => [0, 1].any (fun dir => decide (12000 < im.linkLoad upto d dir u)))) then some 0x0A
  else none

/-- Die under which grant `i` is listed. -/
def grantDie (b : List Byte) (i : Nat) : Nat :=
  let n (d : Nat) : Nat := at_ b (4 * d) 4
  if i < n 0 then 0 else if i < n 0 + n 1 then 1 else if i < n 0 + n 1 + n 2 then 2 else 3

/-- R325, R449. -/
def fabricCheck (f : FabMap) (b : List Byte) : Option Nat :=
  let d := f.dims.length
  let used := f.ports.filter (fun p => !p.unused)
  let cnt (i : Nat) (m : Bool) : List FabPort := used.filter (fun p => p.dim == i && p.minus == m)
  let pairs (i : Nat) : Bool := (List.range (cnt i false).length).all (fun j =>
    ((cnt i false).getD j ⟨0, false, true, 0, 0⟩).delay == ((cnt i true).getD j ⟨0, false, true, 0, 0⟩).delay)
  let slots := (used.filter (fun p => !p.minus)).map (·.slot)
  if b.length ≠ 112 then some 7
  else if d = 0 ∨ 9 < d ∨ isZero b 1 1 = false ∨ isZero b 5 3 = false ∨ isZero b 35 5 = false ∨ 2 ^ 18 ≤ at_ b 2 3 ∨
      isZero b (8 + 3 * d) (27 - 3 * d) = false ∨ f.dims.any (fun n => decide (n < 2)) = true ∨ 2 ^ 18 < nodeCount f.dims ∨ nodeCount f.dims ≤ f.self ∨
      (List.range 18).any (fun p => let v := at_ b (40 + 4 * p) 4; field 15 6 v != 0 || field 31 30 v != 0) = true ∨
      used.any (fun p => decide (d ≤ p.dim) || decide (500 < p.delay) || (p.minus && p.slot != 0)) = true ∨
      (List.range d).any (fun i => (cnt i false).length != (cnt i true).length || decide (9 < (cnt i false).length) || !pairs i) = true ∨
      slots.eraseDups.length ≠ slots.length then some 8
  else none

/-- A factor from 0 up to but not including 1 (R292). -/
def unitFactor (w : W32) : Bool := !bitN 31 w.toNat && decide (w.toNat < 0x3F800000)

def jobCheck (im : Image) (i : Nat) (b : List Byte) : Option Nat :=
  let j := readJob b
  let starts := j.pieces.map (·.1)
  let pieces := (List.range 8).map (fun q => at_ b (64 + 8 * q) 8)
  if 2 < j.kind ∨ 15 < j.slot ∨ 20 < j.sExp ∨ 8 < j.hExp ∨ 2 < j.rule ∨ 4 < j.sched ∨ 2 < j.hostCopy ∨ j.ringBands = 0 ∨ 64 < j.ringBands ∨
      (j.layers ≠ 0 ∧ (j.staging < 2 ∨ 16 < j.staging)) ∨ j.eMin < -24 ∨ j.eInit < j.eMin ∨ j.eMax < j.eInit ∨ 24 < j.eMax ∨
      isZero b 22 2 = false ∨ isZero b 138 2 = false ∨ isZero b 180 12 = false ∨
      unitFactor j.beta1 = false ∨ unitFactor j.beta2 = false ∨ unitFactor j.mu = false ∨ j.eps.toNat = 0 ∨ 0x7F800000 < j.eps.toNat ∨
      ((j.sched = 1 ∨ j.sched = 2) ∧ j.total ≤ j.warm) ∨
      (j.sched = 4 ∧ (starts.headD 1 ≠ 0 ∨ (List.range (starts.length - 1)).any (fun q => decide (starts.getD (q + 1) 0 ≤ starts.getD q 0)) = true)) ∨
      (pieces.drop j.pieces.length).any (· != 0) = true ∨ (im.jobs.take i).any (fun x => x.job == j.job) = true then some 8
  else if im.hasTenant j.tenant = false ∨ j.progs.any (fun p => match im.prog p with
      | some q => q.tenant != j.tenant
      | none => true) = true then some 9
  else none

def mapCheck (im : Image) (m : ShardMap) : Option Nat :=
  let j := im.jobRec m.job
  if im.hasJob m.job = false then some 9
  else if m.sExp ≠ j.sExp ∨ m.hExp ≠ j.hExp ∨ m.entries.length ≠ 2 ^ m.sExp ∨ m.entries.eraseDups.length ≠ m.entries.length ∨
      m.entries.any (fun e => decide (2 ^ m.hExp ≤ e.2)) = true then some 8
  else if m.entries.any (fun e => decide (nodeCount im.fabric.dims ≤ e.1)) then some 9
  else none

/-- R209, R293: every slot unit of the beat has a memory grant in force on the home die that the directory gives a gradient; its update records,
which hold their banks for more than 112 mc, could never be issued. -/
def Image.updStarved (im : Image) (e : UpdEntry) : Bool :=
  im.tensors.any (fun t => t.id == e.grad && decide (t.home < 4) && (List.range 1024).all (fun u =>
    im.grants.any (fun g => g.kind == 0 && g.target == t.home && im.runsIn g.die u g.prog)))

def setCheck (im : Image) (u : UpdSet) : Option Nat :=
  let ok (id : Nat) : Bool := im.tensors.any (fun t => t.id == id && t.job == u.job)
  if im.hasJob u.job = false then some 9
  else if u.entries.any (fun e => e.partLen == 0 || e.records == 0 ||
      (List.range (e.records - 1)).any (fun j => decide (e.ranges.getD (j + 1) 0 ≤ e.ranges.getD j 0)) || bitN 31 e.wd.toNat || decide (0x7F800000 ≤ e.wd.toNat)) then some 8
  else if u.entries.any (fun e => !(ok e.grad && ok e.hi && ok e.lo && ok e.m1) ||
      (if (im.jobRec u.job).rule = 0 then !ok e.m2 else e.m2 != 0xFFFFFF)) then some 9
  else if u.entries.any im.updStarved then some 0x0A
  else none

/-- R368 with R367. -/
def collEntryBad (e : CollEntry) (raw : List Byte) : Bool :=
  let mode := field 4 3 e.flags
  decide (3 < e.op) || decide (63 < e.flags) || (bitN 0 e.flags && e.op != 1) || (bitN 1 e.flags && (e.op != 1 || e.dstKind != 0)) ||
    (bitN 2 e.flags && e.op != 2) || mode == 3 || ((mode != 0) != (e.op == 3)) || decide (2 < e.esize) || ((e.op == 1 || e.op == 2) && e.esize != 2) ||
    decide (1 < e.srcKind) || decide (1 < e.dstKind) || (e.srcKind == 1 && e.op != 0) || (e.dstKind == 1 && e.op != 1) || e.partLen == 0 ||
    (e.op == 2 && decide (2 ^ 24 < e.partLen)) || (bitN 0 e.flags && e.partLen % 1024 != 0) ||
    (mode == 2 && (signed 8 e.stageDelta == 0 || decide (signed 8 e.stageDelta < -63) || decide (63 < signed 8 e.stageDelta))) ||
    (mode != 2 && e.stageDelta != 0) || !isZero raw 34 30

def collCheck (im : Image) (t : CollTable) (raw : List (List Byte)) : Option Nat :=
  let n := ((im.sets.find? (fun u => u.job == t.job)).map (fun u => u.entries.length)).getD 0
  let ids := t.entries.map (·.id)
  if im.hasJob t.job = false then some 9
  else if ids.eraseDups.length ≠ ids.length ∨ (List.range t.entries.length).any (fun i =>
      match t.entries[i]? with
      | some e => collEntryBad e (raw.getD i [])
      | none => false) = true then some 8
  else if t.entries.any (fun e => ((e.srcKind == 1 || e.dstKind == 1) && decide (n ≤ e.t)) || (e.res != 0xFFFF && decide (im.resvs.length ≤ e.res))) then some 9
  else none

/-- Raw entries of each collective table, in order. -/
def collRaws (b : List Byte) : Nat → List (List (List Byte))
  | 0 => []
  | fuel + 1 =>
    if b.length < 4 then [] else let n := at_ b 2 2; chunks ((b.drop 4).take (64 * n)) 64 :: collRaws (b.drop (4 + 64 * n)) fuel

def resvCheck (im : Image) (i : Nat) (g : List Resv) : Option Nat :=
  let upto := (im.resvs.take (i + 1)).flatten
  if g = [] ∨ 18 < g.length ∨ g.any (fun r => decide (17 < r.port) || r.rate == 0 || decide (206 < r.rate)) = true then some 8
  else if g.any (fun r => (im.prog r.prog).isNone) then some 9
  else if (List.range 1024).any (fun u => g.any (fun r =>
      decide (2068 < 10 * ((upto.filter (fun x => x.port == r.port && x.dir == r.dir && im.runsAny u x.prog)).foldl (fun a x => a + x.rate) 0)) ||
      decide (12000 < im.linkLoad im.grants r.die r.dir u))) then some 0x0A
  else none

def stageCheck (im : Image) (x : Nat × List ShardMap) : Option Nat :=
  if im.hasJob x.1 = false then some 9
  else if x.2.length < 2 ∨ 64 < x.2.length ∨ x.2.any (fun m => m.job != x.1) = true then some 8
  else x.2.findSome? (mapCheck im)

/-- The field checks of a section: check code and entry of the first failure. -/
def sectionCheck (im : Image) (type : Nat) (b : List Byte) : Option (Nat × Nat) :=
  let each (l : List (List Byte)) (f : Nat → List Byte → Option Nat) : Option (Nat × Nat) :=
    firstBad ((List.range l.length).map (fun i => f i (l.getD i [])))
  match type with
  | 1 => (cfgCheck im.cfg b).map (fun c => (c, 0))
  | 3 => if b.length < 16 then some (7, 0) else none
  | 4 => if b.length % 32 ≠ 0 then some (7, 0) else each (chunks b 32) (tenantCheck im.tenants)
  | 5 => if b.length % 32 ≠ 0 then some (7, 0) else each (chunks b 32) (tensorCheck im)
  | 6 =>
    let bodies := groupBodies b (b.length + 1)
    firstBad ((List.range im.progs.length).map (fun i => groupCheck im i (bodies.getD i []) (im.progs.getD i ⟨0, [], []⟩)))
  | 7 =>
    if b.length ≠ 128 + 576 * at_ b 0 1 then some (7, 0)
    else if at_ b 0 1 = 0 ∨ 64 < at_ b 0 1 ∨ isZero b 1 63 = false ∨ im.binding.any (fun t => decide (at_ b 0 1 ≤ t)) = true then some (8, 0)
    else each (chunks (b.drop 128) 576) (beatTableCheck im)
  | 8 =>
    if b.length ≠ 16 + 8 * (at_ b 0 4 + at_ b 4 4 + at_ b 8 4 + at_ b 12 4) then some (7, 0)
    else each (chunks (b.drop 16) 8) (fun i g => grantCheck im i (grantDie b i) g)
  | 9 => (fabricCheck im.fabric b).map (fun c => (c, 0))
  | 10 => if b.length % 192 ≠ 0 then some (7, 0) else each (chunks b 192) (jobCheck im)
  | 11 => firstBad (im.maps.map (mapCheck im))
  | 12 => firstBad (im.sets.map (setCheck im))
  | 13 =>
    let raws := collRaws b (b.length + 1)
    firstBad ((List.range im.colls.length).map (fun i => collCheck im (im.colls.getD i ⟨0, []⟩) (raws.getD i [])))
  | 14 => firstBad ((List.range im.resvs.length).map (fun i => resvCheck im i (im.resvs.getD i [])))
  | 15 => firstBad (im.stages.map (stageCheck im))
  | _ => none

/-- The first failure of an image behind its header: check, section and entry, in section order; `bad` are the sections whose
digest differs. A missing section is shown behind the table's last entry. -/
def imageFail (img : List Byte) (bad : List Nat) : Option (Nat × Nat × Nat) :=
  let es := sectionTable img
  let im := readImage img
  let n := es.length
  let one (i : Nat) : Option (Nat × Nat × Nat) := match tableCheck img i with
    | some c => some (c, i, 0)
    | none =>
      let e := es.getD i ⟨0, 0, 0, 0⟩
      if bad.contains i then some (6, i, 0) else (sectionCheck im e.type (sectionOf img e)).map (fun r => (r.1, i, r.2))
  match (List.range n).findSome? one with
  | some r => some r
  | none => if requiredSections.any (fun t => !es.any (fun e => e.type == t)) then some (0x0B, n, 0) else none

/-- Sections of unknown type that are ignored. -/
def ignoredSections (img : List Byte) : List Nat :=
  (List.range (imageCount img)).filter (fun i => let e := (sectionTable img).getD i ⟨0, 0, 0, 0⟩; !knownSection (at_ img 4 2) e.type && e.flags == 0)

end Sys2Proof.Machine
end

