-- ==== Sys2Proof/Machine/PortOps.lean ====
section
/-!
DEFINITION. Ports of Griuk Link: training, lost messages, failed ports and fast retrain, flits received (R326 to R336, R341,
R348).
-/

namespace Sys2Proof.Machine

/-- A timeout of row `row` of R459, armed at `t`, expires after `d`. -/
def State.expire (s : State) (row t d : Nat) : State := (s.advanceTo (t + d)).logTimeout row t

/-! ### The map of a port (R325) -/

def State.fabPort (s : State) (p : Nat) : FabPort := s.fabric.ports.getD p ⟨0, false, true, 0, 0⟩
/-- Ports of the trunk that a port belongs to. -/
def State.trunkOf (s : State) (p : Nat) : List Nat := trunk s.fabric (s.fabPort p).dim (!(s.fabPort p).minus)
/-- Neighbour that a port leads to. -/
def State.peerOf (s : State) (p : Nat) : Nat := neighbour s.fabric.dims s.fabric.self (s.fabPort p).dim (!(s.fabPort p).minus)
/-- The peer's port number: its port of the other direction at the same trunk position. -/
def State.peerPortOf (s : State) (p : Nat) : Nat :=
  let f := s.fabric
  (trunk f (s.fabPort p).dim (s.fabPort p).minus).getD ((s.trunkOf p).findIdx (· == p)) 31

/-! ### Lost messages (R336) -/

/-- An outstanding message that is lost: a Pea transfer fails the step of its job, a segment its issue. -/
def State.outLost (s : State) (o : OutMsg) : State :=
  let s := { s with gl := { s.gl with outs := s.gl.outs.erase o } }
  match o.use with
  | .pea n m =>
    let k := s.jobSlot (s.ctx n m.ctx).prog
    let s := s.updCore n (fun c => { c with peas := c.peas.erase m })
    (match k with
      | some k => s.stepStop k 3
      | none => s)
  | .seg k c st q => (s.segLost k c st q).collPump

/-- The outstanding message that a message of this module is. -/
def State.outOf (s : State) (m : LMsg) : Option OutMsg :=
  if m.src = s.self ∧ (m.kind = 1 ∨ m.kind = 2 ∨ m.kind = 4 ∨ m.kind = 5) then
    s.gl.outs.find? (fun o => o.tag == m.tag && o.dst == m.dst)
  else none

def State.msgLost (s : State) (m : LMsg) : State :=
  match s.outOf m with
  | some o => s.outLost o
  | none => s

/-! ### Failed ports (R336, R341, R348) -/

/-- What a failed port has not delivered, given the entries that the peer has not accepted: for each message the first
entry that is lost, the rest of a message being continued, then what was never sent. -/
def undelivered (sent : List (Flit × Egress)) (queue : List Egress) : List Egress :=
  let firsts := sent.foldl (fun (a : List Egress) x => if a.any (fun y => y.vc == x.2.vc && y.msg == x.2.msg) then a else a ++ [x.2]) []
  let rest := queue.filter (fun y => !(firsts.any (fun x => x.vc == y.vc && x.msg == y.msg) && y.pos != 0))
  (firsts ++ rest).map (fun (y : Egress) => { y with cont := y.cont || y.pos != 0 })

/-- A message waits behind the one that is under way on its VC and before every other. -/
def putNext (l : List Egress) (new : List Egress) : List Egress :=
  let mine (v : Nat) : Bool := new.any (fun y => y.vc == v)
  let under := l.filter (fun y => mine y.vc && y.pos != 0)
  under ++ new ++ l.filter (fun y => !(mine y.vc && y.pos != 0))

/-- Every port of a trunk is down: what is partly sent is lost, what was not sent goes another way (R341). -/
def State.trunkLost (s : State) (p : Nat) : State :=
  (s.trunkOf p).foldl (fun (s : State) r =>
    let q := s.port r
    let s := s.setPort r { q with sent := [], egress := [], asm := [], replays := 0 }
    let all := undelivered q.sent q.egress
    let cut := all.filter (fun e => e.cont || q.sent.any (fun x => x.2.msg == e.msg && x.2.vc == e.vc))
    let s := cut.foldl (fun (s : State) e => s.msgLost e.msg) s
    (all.filter (fun e => !cut.contains e)).foldl (fun (s : State) e => s.post e.msg (claimFrom e.claim)) s) s

/-- A port goes down: the other ports of its trunk tell the peer what was accepted on it. -/
def State.portDown (s : State) (p reason : Nat) : State :=
  let q := s.port p
  if q.state ≠ 3 ∧ q.retrain.isNone = true then s
  else
    let s := (s.setPort p { q with
      state := 0, reason := reason, step := 0, retrain := none, nack := false, retryAt := some (s.now + 1000000000) }).logPort p
    match (s.trunkOf p).filter (fun r => (s.port r).state == 3) with
    | r :: _ => s.updPort r (fun x => { x with notes := x.notes ++ [(p, q.rxSeq)] })
    | [] => (s.trunkLost p).pumpAll

/-- The peer names the last seq that it accepted on a failed port: what follows it goes by port `p`. -/
def State.resend (s : State) (p down seq : Nat) : State :=
  match (s.trunkOf p).find? (fun r => (s.port r).state == 0 && (s.port r).peerPort == down) with
  | none => s
  | some r =>
    let q := s.port r
    let left := match q.sent.findIdx? (fun x => x.1.seq == seq) with
      | some i => q.sent.drop (i + 1)
      | none => q.sent
    let all := undelivered left q.egress
    let s := s.setPort r { q with sent := [], egress := [], replays := 0 }
    (s.updPort p (fun x => { x with egress := putNext x.egress all })).pump p 400

/-- A fast retrain (R348): the spare takes the place of a lane that lost lock; on a degraded port the port goes down. -/
def State.fastRetrain (s : State) (p : Nat) (lane : Option Nat) : State :=
  let q := s.port p
  if q.state ≠ 3 ∨ q.retrain.isSome = true then s
  else if q.spare = 15 then s.portDown p 1
  else
    match lane with
    | none => s.setPort p { q with retrain := some s.now, step := 4, armed := s.now, replays := 0 }
    | some l =>
      let s := s.setPort p { q with
        retrain := some s.now, step := 4, armed := s.now, replays := 0
        lanes := q.lanes.map (fun (x : Nat) => if x = l then q.spare else x), retired := q.retired ++ [l], spare := 15 }
      s.logAs 6 p 0x0023 2 none [(1, p), (1, q.spare), (1, l)]

/-- The unacknowledged flits sent again (R334); after 16 replays of one flit the port retrains. -/
def State.replay (s : State) (p : Nat) : State :=
  let q := s.port p
  match q.sent with
  | [] => s
  | x :: _ =>
    let s := { s.setPort p { q with retries := satAdd32 q.retries 1, replays := q.replays + 1, ackAt := s.now } with
      linkOut := s.linkOut ++ [LinkOut.replay p x.1.seq] }
    if 16 ≤ q.replays + 1 then s.fastRetrain p none else s

/-! ### Training (R327 to R330) -/

/-- Full-rate training is begun on a port of the map. -/
def State.beginTraining (s : State) (p : Nat) : State :=
  if (s.fabPort p).unused then s.updPort p (fun q => { q with state := 0, reason := 6, retryAt := none })
  else if (s.port p).state = 3 then s
  else s.updPort p (fun q => { q with state := 2, reason := 0, step := 1, armed := s.now, retryAt := none })

/-- A training step fails: the port falls back to beacon mode and tries again after 1 s. -/
def State.trainFail (s : State) (p reason : Nat) : State :=
  (s.updPort p (fun q => { q with state := 1, reason := reason, step := 0, retryAt := some (s.now + 1000000000) })).logPort p

/-- The port goes down with a reason of R326, R329 or R330. -/
def State.trainDown (s : State) (p reason : Nat) (again : Bool) : State :=
  (s.updPort p (fun q => { q with
    state := 0, reason := reason, step := 0, retryAt := if again then some (s.now + 1000000000) else none })).logPort p

/-- The port is up: seq, credits and buffers begin anew (R333, R335). -/
def State.linkUp (s : State) (p : Nat) : State :=
  let q := s.port p
  let s := s.setPort p { q with
    state := 3, step := 0, retrain := none, txSeq := 1, sent := [], replays := 0, rxSeq := 0, nack := false, asm := [],
    credits := List.replicate 6 64, freed := List.replicate 6 0, lastRx := s.now, silent := false, notes := [], retryAt := none }
  let s := (s.trunkOf p).foldl (fun (s : State) r => s.updPort r (fun x => { x with notes := x.notes.filter (fun n => n.1 != p) })) s
  (s.logPort p).pumpAll

/-- The lane with the smallest margin, the lowest of equals. -/
def worstLane (eyes : List Nat) : Nat :=
  (List.range 9).foldl (fun b i => if eyes.getD i 0 < eyes.getD b 0 then i else b) 0

/-- Highest version in both masks, 0 for none. -/
def commonVersion (mask verMax : Nat) : Nat :=
  ([3, 2, 1].find? (fun v => bitN (v - 1) mask && decide (v ≤ verMax))).getD 0

/-- One step of training answered (R328). -/
def State.trainStep (s : State) (p : Nat) (ev : TrainEv) : State :=
  let q := s.port p
  let on (n : Nat) (q : Port) : State := s.setPort p { q with step := n, armed := s.now }
  match q.step, ev with
  | 1, .signal ls => if (List.range 9).all (fun l => ls.contains l) then on 2 q else s.trainFail p 1
  | 2, .equalised bad =>
    (match bad with
      | [] => on 3 { q with spare := 15 }
      | [l] => on 3 { q with spare := l }
      | _ => s.trainDown p 2 false)
  | 3, .margins eyes =>
    let sp := if q.spare = 15 then worstLane eyes else q.spare
    on 4 { q with spare := sp, lanes := (List.range 9).filter (· != sp) }
  | 4, .order ls => if ls.length = 8 ∧ ls.all (fun l => q.lanes.contains l) = true ∧ ls.eraseDups = ls then on 5 { q with lanes := ls } else s.trainFail p 0
  | 5, .locked ok => if !ok then s.trainFail p 0 else if q.retrain.isSome then s.linkUp p else on 6 q
  | 6, .record node port digest mask =>
    let v := commonVersion mask s.gl.verMax
    let q := { q with peerNode := node, peerPort := port, version := v, mapOk := node == s.peerOf p && port == s.peerPortOf p }
    let s := s.setPort p q
    if q.mapOk = false then s.trainDown p 4 true
    else if v = 0 then s.trainDown p 3 true
    else s.setPort p { q with step := 7, armed := s.now, reason := if digest = s.fabric.digest then 0 else 5 }
  | 7, .delays a => (s.updPort p (fun q => { q with asym := a })).linkUp p
  | _, _ => s

/-- Steps 4 and 5 of a fast retrain on a port that is up. -/
def State.retrainStep (s : State) (p : Nat) (ev : TrainEv) : State :=
  let q := s.port p
  match q.step, ev with
  | 4, .order ls => if ls.length = 8 ∧ ls.all (fun l => q.lanes.contains l) = true ∧ ls.eraseDups = ls then s.setPort p { q with step := 5, lanes := ls } else s.portDown p 1
  | 5, .locked ok =>
    if ok then
      let s := s.setPort p { q with step := 0, retrain := none }
      let s := match q.sent with
        | x :: _ => { s with linkOut := s.linkOut ++ [LinkOut.replay p x.1.seq] }
        | [] => s
      s.pump p 400
    else s.portDown p 1
  | _, _ => s

/-- R327: the lane of beacon mode, of those that lock: lane 0, or the lowest. -/
def beaconLaneOf (ls : List Nat) : Option Nat := ((List.range 9).filter (fun l => ls.contains l)).head?

/-- Limits of the training steps (R328). -/
def stepLimit (n : Nat) : Nat := [1000000, 30000000, 5000000, 2000000, 1000000, 1000000, 5000000].getD (n - 1) 0

/-- The training step in progress has taken its limit: the port falls back to beacon mode (R328, R459). -/
def State.stepExpired (s : State) (p : Nat) : State :=
  let q := s.port p
  (s.expire 6 q.armed (stepLimit q.step)).trainFail p (if q.step = 1 then 1 else 0)

/-- PORT_TRAINING: what the lanes and the peer of a port report. What comes at the limit of a training step or later comes too late (R13). -/
def execPortTraining (port : Nat) (ev : TrainEv) (s : State) : Out :=
  let q := s.port port
  if s.start.pwrGood = false ∨ 18 ≤ port then .next s
  else
    match q.state, ev with
    | 0, .signal ls =>
      let lane := beaconLaneOf ls
      if q.reason = 6 ∨ q.reason = 7 ∨ q.reason = 2 then .next s
      else if lane.isNone then .next (s.setPort port { q with reason := 1 })
      else if q.reason = 1 ∧ q.version ≠ 0 then
        .next (s.setPort port { q with state := 2, reason := 0, step := 4, armed := s.now, retrain := some s.now, retryAt := none })
      else
        .next ((s.setPort port { q with state := 1, reason := 0, beaconLane := lane.getD 0, retryAt := if s.start.stage = 4 then some (s.now + 1000000000) else none }).logPort port)
    | 0, _ => .next s
    | 1, .signal ls =>
      (match beaconLaneOf ls with
        | none => .next ((s.setPort port { q with state := 0, reason := 1 }).logPort port)
        | some l => .next (if ls.contains q.beaconLane then s else s.setPort port { q with beaconLane := l }))
    | 1, _ => .next s
    | 2, e =>
      if q.step ≠ 0 ∧ q.retrain.isNone = true ∧ q.armed + stepLimit q.step ≤ s.now then .next (s.stepExpired port)
      else .next (s.trainStep port e)
    | _, .signal ls => .next (if (beaconLaneOf ls).isSome then s else s.portDown port 1)
    | _, e => .next (if q.retrain.isSome then s.retrainStep port e else s)

def execTrainingStepTimeout (port : Nat) (s : State) : Out :=
  let q := s.port port
  if q.state = 2 ∧ q.step ≠ 0 then .next (s.stepExpired port)
  else .next s

def execTrainingRetry (port : Nat) (s : State) : Out :=
  match (s.port port).retryAt with
  | some t => if s.start.stage = 4 ∧ port < 18 then .next ((s.advanceTo t).beginTraining port) else .next s
  | none => .next s

/-- BEACON_MODE_TIMEOUT: a port without beacon mode 10 ms after power-good. -/
def execBeaconModeTimeout (port : Nat) (s : State) : Out :=
  let q := s.port port
  if s.start.pwrGood = true ∧ q.state = 0 ∧ q.reason = 0 ∧ port < 18 then
    .next (((s.expire 5 0 10000000).setPort port { q with reason := 1 }).logPort port)
  else .next s

/-! ### Retransmission and fast retrain (R334, R348) -/

def execAckTimeout (port : Nat) (s : State) : Out :=
  let q := s.port port
  if q.sent = [] ∨ q.state ≠ 3 ∨ q.retrain.isSome = true then .next s
  else .next ((s.expire 7 q.ackAt 4000).replay port)

def execFastRetrain (port lane : Nat) (s : State) : Out :=
  if (s.port port).lanes.contains lane && !(s.port port).held then .next (s.fastRetrain port (some lane)) else .next s

def execFastRetrainTimeout (port : Nat) (s : State) : Out :=
  match (s.port port).retrain with
  | some t =>
    let s := s.expire 8 t 20000
    if (s.port port).state = 2 then .next ((s.updPort port (fun q => { q with retrain := none })).trainFail port 1)
    else .next (s.portDown port 1)
  | none => .next s

/-! ### Data flits (R332 to R335) -/

/-- The bytes that a VC's message has so far; the rest of a message of a failed port follows on this one (R336). -/
def State.asmOf (s : State) (p vc : Nat) : State × List Byte :=
  match Sp.get [] (s.port p).asm vc with
  | [] =>
    (match (s.trunkOf p).find? (fun r => (s.port r).state == 0 && Sp.get [] (s.port r).asm vc != []) with
      | some r => (s.updPort r (fun q => { q with asm := Sp.set [] q.asm vc [] }), Sp.get [] (s.port r).asm vc)
      | none => (s, []))
  | bs => (s, bs)

/-- An accepted data flit joins its message. -/
def State.takeFlit (s : State) (p : Nat) (h : Nat) (bytes : List Byte) : State :=
  let vc := field 16 14 h
  let body := (bytes.drop 4).take (field 26 19 h)
  let a := if bitN 17 h then (s, []) else s.asmOf p vc
  let all := a.2 ++ body
  let s := a.1.updPort p (fun q => { q with
    rxSeq := field 11 0 h, nack := false
    freed := mapAt q.freed vc (· + 1)
    asm := Sp.set [] q.asm vc (if bitN 18 h then [] else all) })
  if bitN 18 h then s.arrived p vc ⟨all.take 32, all.drop 32⟩ else s

/-- Whether the header of a data flit has a form that R332 allows. -/
def flitForm (h : Nat) : Bool := field 31 27 h == 0 && decide (field 16 14 h < 6) && decide (1 ≤ field 26 19 h) && decide (field 26 19 h ≤ 248)

/-- The codeword and CRC of a flit (R331, R332): whether the flit is kept. -/
def State.flitChecks (s : State) (p : Nat) (fixed : Option Nat) (bytes : List Byte) : State × Bool :=
  match fixed with
  | none => (s.updPort p (fun q => { q with fecu := satAdd32 q.fecu 1 }), false)
  | some n =>
    let s := s.updPort p (fun q => { q with fecc := q.fecc + BitVec.ofNat 64 (min n 8) })
    if bytes.length = 256 ∧ crc32 (bytes.take 252) = leVal (bytes.drop 252) then
      (s.updPort p (fun q => { q with lastRx := s.now, silent := false }), true)
    else (s.updPort p (fun q => { q with crcs := satAdd32 q.crcs 1 }), false)

/-- DATA_FLIT: a codeword of a data or idle flit. `fixed` is the count of bytes corrected, none where it cannot be
corrected. -/
def execDataFlit (port : Nat) (fixed : Option Nat) (bytes : List Byte) (s : State) : Out :=
  if (s.port port).state = 0 then .next s
  else
    let r := s.flitChecks port fixed bytes
    let h := leVal (bytes.take 4)
    let bad (s : State) : Out := .next (s.updPort port (fun q => { q with nack := true }))
    if !r.2 then bad r.1
    else if field 13 12 h = 1 ∨ field 13 12 h = 2 then .next r.1
    else if field 13 12 h ≠ 0 ∨ flitForm h = false ∨ field 11 0 h ≠ ((r.1.port port).rxSeq + 1) % 4096 then bad r.1
    else .next (r.1.takeFlit port h bytes)

end Sys2Proof.Machine
end

