-- ==== Sys2Proof/Machine/PeaLink.lean ====
section
/-!
DEFINITION. Commands of the ports of Griuk Link: control flits, and the messages that carry Pea transfers and their answers
(R332, R349 to R351, R182 to R190).
-/

namespace Sys2Proof.Machine

/-! ### Pea messages that arrive (R350, R351) -/

def LMsg.core (m : LMsg) : Nat := m.f 18 1 % 64
def LMsg.offset (m : LMsg) : Nat := m.f 19 3 % 2 ^ 23
def LMsg.group (m : LMsg) : Nat := m.f 22 2 % 2048
/-- Status of a GET_RESP or ACK. -/
def LMsg.status (m : LMsg) : Nat := m.f 18 1

/-- The live context of the sending program on the target core (R183, R184), where the program is one of the job that the message's job
slot names. The message has no field for the program: the command tells it (log entry 92). -/
def State.targetCtx (s : State) (m : LMsg) (prog : Nat) : Option Nat :=
  let j := s.job m.slot
  if j.life = .running ∧ j.info.tenant = m.tenant ∧ j.info.progs.contains prog then (s.core m.core).liveCtx prog else none

/-- Checks 6 and 7 of a message: the target context, or the number of the failed check. -/
def State.peaCheck (s : State) (m : LMsg) (prog : Nat) : Except Nat Nat :=
  match s.targetCtx m prog with
  | none => .error 6
  | some k =>
    if m.len = 0 ∨ 0x800000 < m.offset + m.len ∨ m.offset % 16 ≠ 0 ∨ s.rangeGranted m.tenant m.core m.offset m.len = false then .error 7
    else .ok k

/-- A message that fails check 6 or 7: logged, and answered with status 3 or 4. -/
def State.peaRefuse (s : State) (p : Nat) (m : LMsg) (check : Nat) : State :=
  (s.logFrame p m check).answer (if m.kind = 2 then 3 else 9) m m.tag (check - 3) false []

/-- PUT: the bytes are written, the arrival is given, an ACK is sent. -/
def execPut (f : PeaAt) (s : State) : Out :=
  s.takeMsg f.port 1 0 (fun s m =>
    match s.peaCheck m f.prog with
    | .error c => s.peaRefuse f.port m c
    | .ok k => ((s.setSram m.core m.offset m.data).arrive m.core k m.group m.poison).answer 9 m m.tag (b2n m.poison) false [])

/-- GET: answered with the bytes read. -/
def execGet (f : PeaAt) (s : State) : Out :=
  s.takeMsg f.port 2 0 (fun s m =>
    match s.peaCheck m f.prog with
    | .error c => s.peaRefuse f.port m c
    | .ok _ => s.answer 3 m m.tag (b2n m.poison) m.poison (s.sram m.core m.offset m.len))

/-- ATOMIC: words added modulo 2^32. -/
def execAtomic (f : PeaAt) (s : State) : Out :=
  s.takeMsg f.port 4 0 (fun s m =>
    match s.peaCheck m f.prog with
    | .error c => s.peaRefuse f.port m c
    | .ok k => ((s.setSram m.core m.offset (addWords (s.sram m.core m.offset m.data.length) m.data)).arrive m.core k m.group m.poison).answer
        9 m m.tag (b2n m.poison) false [])

/-! ### Answers (R350, R458) -/

/-- The outstanding message that an answer names. -/
def State.answered (s : State) (m : LMsg) : Option OutMsg := s.gl.outs.find? (fun o => o.tag == m.tag && o.dst == m.src)

/-- A transfer is outstanding no longer. Whether its context still waits for it. -/
def State.peaSettled (s : State) (o : OutMsg) (n : Nat) (pm : PeaMsg) : State × Bool :=
  let live := (s.core n).peas.contains pm
  ({ s with gl := { s.gl with outs := s.gl.outs.erase o } }.updCore n (fun c => { c with peas := c.peas.erase pm }), live)

/-- GET_RESP: the data lands and gives its arrival; a refused GET parks its context (R184). -/
def execGetResp (port : Nat) (s : State) : Out :=
  s.takeMsg port 3 0 (fun s m =>
    match s.answered m with
    | some o =>
      (match o.use with
        | .pea n pm =>
          let r := s.peaSettled o n pm
          if pm.op ≠ 1 ∨ r.2 = false then r.1
          else if m.status = 3 ∨ m.status = 4 then r.1.peaDiscard n pm
          else if m.status = 2 ∨ m.data.length ≠ pm.len then r.1.arrive n pm.ctx pm.group true
          else (r.1.setSram n pm.loc m.data).arrive n pm.ctx pm.group (m.poison || m.status == 1)
        | .seg _ _ _ _ => s.logFrame port m 3)
    | none => s.logFrame port m 3)

/-- ACK: a PUT, ATOMIC or COLL_SEG of this module is delivered, or refused. -/
def execAck (port : Nat) (s : State) : Out :=
  s.takeMsg port 9 0 (fun s m =>
    match s.answered m with
    | none => s.logFrame port m 3
    | some o =>
      match o.use with
      | .pea n pm =>
        let r := s.peaSettled o n pm
        if r.2 = true ∧ (m.status = 3 ∨ m.status = 4) then r.1.peaDiscard n pm else r.1
      | .seg k c st q =>
        let s := { s with gl := { s.gl with outs := s.gl.outs.erase o } }
        if m.status ≤ 1 then s.collPump else (s.segLost k c st q).collPump)

/-- TIME: discarded. -/
def execTime (port : Nat) (s : State) : Out := s.takeMsg port 7 0 (fun s _ => s)

end Sys2Proof.Machine
end

