-- ==== Sys2Proof/Machine/WatchOps.lean ====
section
/-!
DEFINITION. The watching spare: records received, mirrors, and what takeover makes of them (R462 to R469).
-/

namespace Sys2Proof.Machine

/-! ### Records received (R463, R298, R315) -/

/-- Kinds of records on a watch session; GAP is in the host copy alone. -/
def watchKinds : List Nat := [1, 2, 3, 4, 5, 0x11, 0x12, 0x13, 0x21, 0x22, 0x23, 0x24]

/-- The record that bytes spell; none where its kind, length or crc is wrong. -/
def watchRec (bs : List Byte) : Option WRec :=
  let f (o n : Nat) : Nat := leVal ((bs.drop o).take n)
  let r : WRec := ⟨f 0 1, f 1 1, f 2 2, f 4 4, (bs.drop 16).take 16, bs.drop 32, (0, 0)⟩
  if 32 ≤ bs.length ∧ watchKinds.contains r.kind = true ∧ bs.length = 32 + f 8 4 ∧
      crc32 (bs.take 12 ++ zeros 4 ++ bs.drop 16) = f 12 4 then some r
  else none

def WRec.sameKey (a b : WRec) : Bool := a.kind == b.kind && a.job == b.job && a.step == b.step && a.hdr == b.hdr
def WRec.hdrF (r : WRec) (o n : Nat) : Nat := leVal ((r.hdr.drop (o - 16)).take n)

/-- A record held: one with the same key is replaced (R316); writes are kept in order. -/
def holdRec (l : List WRec) (r : WRec) : List WRec :=
  if r.kind ≠ 0x23 ∧ l.any (fun x => x.sameKey r) = true then l.map (fun (x : WRec) => if x.sameKey r then r else x) else l ++ [r]

def State.mirror (s : State) (node : Nat) : List WRec := Sp.get [] s.watch.mirrors node

/-- Count and digest of the SEG records of a step (R298, END). -/
def segDigest (l : List WRec) (job step : Nat) : Nat × Nat :=
  let q := l.filter (fun r => r.kind == 2 && r.job == job && r.step == step && !bitN 0 r.flags)
  (q.length, q.foldl (fun a r => a ^^^ r.crc) 0)

/-- Whether an END record matches what has come before it (R300). -/
def WRec.seals (r : WRec) (l : List WRec) : Bool := r.kind == 3 && segDigest l r.job r.step == (r.hdrF 24 4, r.hdrF 28 4)

/-- R465: the digest that this module's image gives a job. -/
def State.jobDigest (s : State) (job : Nat) : Option Nat :=
  match s.image with
  | some im => (im.digests.find? (fun d => d.1 == job)).map (·.2)
  | none => none

/-- Records that name a job, and not a tenant (R463). -/
def WRec.ofJob (r : WRec) : Bool := r.kind != 0x24

/-- WATCH_SESSION_RECORD: the record is held and acknowledged, or asked for again. ESEG and EDEC are kept until the step is
sealed. A module whose digest for the job is another cannot stand in, and watches that module no longer (R462, R465). -/
def execWatchSessionRecord (node : Nat) (m : WatchMsg) (s : State) : Out :=
  if s.gl.watches.contains node = false then .next s
  else
    match watchRec m.bytes with
    | none => .next { s with linkOut := s.linkOut ++ [.watchAck node false 0 0] }
    | some r =>
      if r.ofJob && s.jobDigest r.job != some m.told.1 then
        .next { s with
          gl := { s.gl with watches := s.gl.watches.filter (· != node) }
          watch := { s.watch with mirrors := Sp.set [] s.watch.mirrors node [] } }
      else
        let old := s.mirror node
        let kept := if r.seals old then old.filter (fun x => !((x.kind == 0x21 || x.kind == 0x22) && x.job == r.job && decide (x.step ≤ r.step))) else old
        let d := if r.kind = 3 then segDigest old r.job r.step else (0, 0)
        .next { s with
          watch := { s.watch with
            mirrors := Sp.set [] s.watch.mirrors node (holdRec kept r)
            seeds := if r.ofJob then Sp.set 0#64 s.watch.seeds r.job m.told.2 else s.watch.seeds }
          linkOut := s.linkOut ++ [.watchAck node true d.1 d.2] }

/-! ### Mirrors turned into the job's tensors (R467 steps 2 and 3) -/

/-- The last sealed step of a job in a mirror. -/
def sealedStep (l : List WRec) (job : Nat) : Option Nat :=
  ((l.filter (fun r => r.seals l && r.job == job)).map (·.step)).max?

/-- Residual words of a leaf of a shard, written or XORed at element `e0`. They wait by leaf and element until the first compression of the
leaf says where its residual lies here (R31, R315, R467; log entry 87). -/
def State.putResid (s : State) (k l id e0 : Nat) (xor p : Bool) (data : List Byte) : State :=
  s.updUpd k (fun u => { u with restored := (List.range (data.length / 4)).foldl (fun m i =>
    Sp.upd (0#32, false) m (residKey l id (e0 + i)) (fun w =>
      (if xor then w.1 ^^^ word32 data i else word32 data i, p || (xor && w.2)))) u.restored })

/-- Reduced-gradient words of an escrow record put into the gradient part. -/
def State.putGrad (s : State) (k : Nat) (r : WRec) : State :=
  let j := s.job k
  let l := r.hdrF 16 4 % 2 ^ 20
  let e := s.entryAt k (r.hdrF 20 2)
  let share := max 1 (s.shareLen k e)
  let sp := s.partSpan j.info.tenant j.info.job e.grad (j.slotOf l)
  (List.range (r.data.length / 4)).foldl (fun (s : State) i =>
    let x := r.hdrF 24 4 + i
    let u0 := x / (16 * share)
    match shareBurst sp (u0 / 64, u0 / 16 % 4, u0 % 16) (x / 16 % share) with
    | some a => s.wrPiece (a + 4 * (x % 16)) ((r.data.drop (4 * i)).take 4) (bitN 0 r.flags)
    | none => s) s

/-- A sealed record applied to the job. -/
def State.applySealed (s : State) (k : Nat) (r : WRec) : State :=
  match r.kind with
  | 1 => (s.applyRec k (leBytes 1 4 ++ (r.head 0).drop 1) r.data).getD s
  | 2 => (s.applyRec k (r.head 0) r.data).getD s
  | 4 => (s.applyRec k (r.head 0) r.data).getD s
  | 0x11 => s.putResid k (r.hdrF 16 4 % 2 ^ 20) (r.hdrF 20 4 % 2 ^ 24) (r.hdrF 24 5) true (bitN 0 r.flags) r.data
  | 0x13 => s.putResid k (r.hdrF 16 4 % 2 ^ 20) (r.hdrF 20 4 % 2 ^ 24) (r.hdrF 24 5) false (bitN 0 r.flags) r.data
  | _ => s

/-- The update of an escrowed step run from the escrowed gradients: none where no EDEC is held. -/
def State.runEscrow (s : State) (k : Nat) (l : List WRec) : Option State :=
  let j := s.job k
  let n := j.upd.st.step + 1
  match l.find? (fun r => r.kind == 0x22 && r.job == j.info.job && r.step == n.toNat) with
  | none => none
  | some d =>
    let g := BitVec.ofNat 32 (d.hdrF 24 4)
    let out := d.hdrF 16 1
    let dec : UpdDec := ⟨out, (decide286 j.info j.upd.st.exp g false).2.1, (stateAfter j.info j.upd.st n out g).1⟩
    let s := (l.filter (fun r => r.kind == 0x21 && r.job == j.info.job && r.step == n.toNat)).foldl (fun (s : State) r => s.putGrad k r) s
    if out = 1 then
      let s := (s.updUpd k (fun u => { u with dec := some dec, nonfinite := 0 })).putConsts k dec
      some (((s.updKeys k).foldl (fun (s : State) key => (s.opTupd k key).1) s).stageEnd k dec)
    else some ((s.updUpd k (fun u => { u with nonfinite := 0 })).stageEnd k dec)

def State.runEscrows (s : State) (k : Nat) (l : List WRec) : Nat → State
  | 0 => s
  | fuel + 1 =>
    match s.runEscrow k l with
    | some s' => s'.runEscrows k l fuel
    | none => s

/-- R467: for a generation job, the last step mirrored in full is the one before the newest that any record names. -/
def lastWhole (l : List WRec) (job : Nat) : Nat :=
  (((l.filter (fun r => r.kind == 0x23 && r.job == job)).map (·.step)).max?.getD 0) - 1

/-- The writes of a generation job's steps that were mirrored in full. -/
def State.applyWrites (s : State) (k : Nat) (l : List WRec) : State :=
  let j := (s.job k).info
  (l.filter (fun r => r.kind == 0x23 && r.job == j.job && decide (r.step ≤ lastWhole l j.job))).foldl (fun (s : State) r =>
    match s.tensorRec j.tenant j.job (r.hdrF 16 3) with
    | some t =>
      (match s.physOf j.tenant (t.va + r.hdrF 20 8) with
        | some a => { s with mem := wrBytes s.mem a r.data }
        | none => s)
    | none => s) s

/-- Mirrored queue entries become the shadow of their queue; the rings are orphaned until QSET (R467 step 6). -/
def State.applyQueues (s : State) (l : List WRec) : State :=
  (l.filter (fun r => r.kind == 0x24)).foldl (fun (s : State) r =>
    let q := r.hdrF 16 1
    let i := BitVec.ofNat 32 (r.hdrF 20 4)
    s.updTenant r.job (fun t =>
      let x := t.queue q
      t.setQueue q { x with isSet := false, prod := i + 1, shadow := x.shadow ++ [(i, entryOf r.data)], acked := i + 1 })) s

/-- R476 0x0040. -/
def State.logTakeover (s : State) (x w k : Nat) (r : W32) : State := s.logAs 0 0 0x0040 4 none [(3, x), (3, w), (1, k), (4, r.toNat)]

/-- Whether the escrow of a step holds every reduced gradient of the shards held (R463). -/
def State.escrowWhole (s : State) (k : Nat) (l : List WRec) (n : Nat) : Bool :=
  let j := s.job k
  let es := s.entriesOf k
  es != [] && (j.heldBy s.self).all (fun sh => (List.range es.length).all (fun t =>
    let q := l.filter (fun r => r.kind == 0x21 && r.job == j.info.job && r.step == n && r.hdrF 16 4 % 2 ^ 20 == sh && r.hdrF 20 2 == t)
    q.foldl (fun a r => a + r.hdrF 28 4) 0 == (es.getD t noEntry).partLen))

/-- R467 step 4: with the whole escrow of the step in flight, its partials are formed and its decision is awaited; otherwise its
partials are answered with poison, and the contexts start at step `r`. -/
def State.takeFlight (s : State) (k : Nat) (l : List WRec) (r : W32) : State :=
  let j := s.job k
  let n := j.upd.st.step.toNat + 1
  if s.escrowWhole k l n then
    let s := (l.filter (fun r => r.kind == 0x21 && r.job == j.info.job && r.step == n)).foldl (fun (s : State) r => s.putGrad k r) s
    let keys := s.updKeys k
    let s := s.updUpd k (fun u => { u with landed := keys })
    let s := keys.foldl (fun (s : State) p =>
      let e := s.entryAt k p.2.1
      let rg := recRange e (s.shareLen k e) p.2.2
      s.addList (.partialOf k p.1 p.2.1 p.2.2) j.info.tenant 0 [tsqRecord rg.1 rg.2] false) s
    s.holdJob k
  else
    let s := s.updUpd k (fun u => { u with noEscrow := true })
    { s with cores := s.cores.map (fun (c : Nat × CoreSt) => (c.1, c.2.startJob j.info r)) }

/-- This module takes over the shards that a job of its image has on node `x` (R467 steps 2 and 3): allocated and zeroed,
filled from the mirror, brought to the last decided step. None where the shards do not fit, or where the job is held here already. -/
def State.takeJob (s : State) (x : Nat) (j : JobRec) (m : List (Nat × Nat)) : Option State :=
  let k := j.slot
  let l := s.mirror x
  let fresh := decide ((s.job k).life = .none)
  let s := if fresh then
      s.setJob k { Job.none with info := j, life := .filling, seed := Sp.get 0#64 s.watch.seeds j.job, upd := { UpdSt.none with st := StepSt.init j.eInit } }
    else s
  let s := s.updJob k (fun y => { y with map := m })
  match (if fresh then s.allocJob k else none) with
  | none => none
  | some s =>
    let s := s.fillJob k
    let last := (sealedStep l j.job)
    let s := (l.filter (fun r => r.job == j.job && (r.kind == 4 || r.kind == 0x13 || (r.kind == 2 && bitN 0 r.flags) ||
      (match last with
        | some n => decide (r.step ≤ n)
        | none => false)))).foldl (fun (s : State) r => s.applySealed k r) s
    let s := (s.runEscrows k l (l.length + 1)).applyWrites k l
    let r := if j.kind = 1 then BitVec.ofNat 32 (lastWhole l j.job + 1) else (s.job k).replayStep
    let s := s.updJob k (fun y => { y with life := .running, cmd := 0#512 })
    some (s.takeFlight k l r)

end Sys2Proof.Machine
end

