-- ==== Sys2Proof/Machine/MemberOps.lean ====
section
/-!
DEFINITION. Membership: the time tree, views, isolation, proposals, drains, installation and fencing (R352 to R362, R467).
-/

namespace Sys2Proof.Machine

/-! ### The time tree (R352, R355) -/

/-- Hops from one node to another on the dimension-ordered route. -/
def depthOf (dims : List Nat) (root n : Nat) : Nat :=
  (List.range dims.length).foldl (fun a i => let p := plusSteps dims root n i; a + min p (max 1 (dims.getD i 1) - p)) 0

/-- The neighbour one hop nearer the root on the route from the root; none for the root. -/
def treeParent (dims : List Nat) (root n : Nat) : Option Nat :=
  ((diffDims dims root n).getLast?).map (fun i => neighbour dims n i (!goesPlus dims root n i))

def neighbours (dims : List Nat) (n : Nat) : List Nat :=
  (((List.range dims.length).flatMap (fun i => [neighbour dims n i true, neighbour dims n i false])).eraseDups).filter (· != n)

def treeChildren (dims : List Nat) (root n : Nat) : List Nat := (neighbours dims n).filter (fun m => treeParent dims root m == some n)

/-! ### The error of the route to the root (R329, R353) -/

/-- Tenths of a nanosecond that a hop adds: 0.2 ns at version 2 and above, 0.5 ns at version 1. The versions of links that
are not this module's own are free values. -/
def State.hopError (s : State) (n parent : Nat) : Nat :=
  let old := if n = s.self then
      (List.range 18).any (fun p => (s.port p).state == 3 && s.peerOf p == parent && !(s.fabPort p).unused && decide ((s.port p).version ≤ 1))
    else Config.hopVersion1 n parent
  if old then 5 else 2

/-- Tenths of a nanosecond from a node up to the root. -/
def State.routeError (s : State) : Nat → Nat → Nat
  | 0, _ => 0
  | fuel + 1, n =>
    match treeParent s.fabric.dims s.gl.leader n with
    | some p => s.hopError n p + s.routeError fuel p
    | none => 0

/-- The summed error bound of this module's route to the root, in tenths of a nanosecond. -/
def State.timeBudget (s : State) : Nat := s.routeError (depthOf s.fabric.dims s.gl.leader s.self) s.self

/-! ### Views (R355, R357, R358) -/

def stateIn (v : List Nat) (n : Nat) : Nat := v.getD n 0
/-- Members of a view: joining, spare and active. -/
def isMember (v : List Nat) (n : Nat) : Bool := memberState (stateIn v n)
def members (v : List Nat) : List Nat := (List.range v.length).filter (isMember v)
/-- The leader of a view: its lowest active node. -/
def viewLeader (v : List Nat) : Option Nat := v.findIdx? (· == 4)

/-- Fragment `f` of a view. -/
def viewFrag (v : List Nat) (f : Nat) : List Byte :=
  let part := (v.drop (8192 * f)).take 8192
  (List.range (ceilDiv part.length 2)).map (fun i => BitVec.ofNat 8 (part.getD (2 * i) 0 % 8 + 16 * (part.getD (2 * i + 1) 0 % 8)))
def fragCount (v : List Nat) : Nat := ceilDiv v.length 8192
/-- The view of `n` nodes that fragments spell. -/
def viewOf (frags : List (List Byte)) (n : Nat) : List Nat :=
  ((frags.flatMap (fun f => f.flatMap (fun b => [b.toNat % 8, b.toNat / 16 % 8])))).take n

def State.dims (s : State) : List Nat := s.fabric.dims
def State.isLeader (s : State) : Bool := s.gl.view != [] && s.gl.leader == s.self
def State.updGl (s : State) (f : GlSt → GlSt) : State := { s with gl := f s.gl }

/-- Own time parent, and the children that belong to a view. -/
def State.parent (s : State) : Option Nat := treeParent s.dims s.gl.leader s.self
def State.children (s : State) : List Nat := (treeChildren s.dims s.gl.leader s.self).filter (isMember s.gl.view)

/-! ### Counts up the tree (R329, R332) -/

/-- The ports toward a neighbour that are up. -/
def State.portsTo (s : State) (n : Nat) : List Nat :=
  (List.range 18).filter (fun p => !(s.fabPort p).unused && s.peerOf p == n && (s.port p).state == 3)

/-- A BEACON_ACK (kind 1) or DRAINED (kind 2) sent: in the control flits of a version-3 link, else as a MEMBER message. -/
def State.sendCount (s : State) (kind : Nat) (about : W32) (count dst : Nat) : State :=
  match (s.portsTo dst).find? (fun p => (s.port p).version == 3) with
  | some p => s.updPort p (fun q => { q with ctl := (kind, about.toNat, count) })
  | none => s.member (if kind = 1 then 2 else 5) 0 0 about 0 count dst []

/-! ### BEACON (R355) -/

/-- The BEACON forwarded to the children, those that are no members included: a joiner learns the leader from it. -/
def State.beaconDown (s : State) : State :=
  (treeChildren s.dims s.gl.leader s.self).foldl (fun (s : State) c => s.member 1 0 0 s.gl.epoch s.gl.leader 0 c []) s

def countSum (c : Sp Nat) : Nat := c.foldl (fun a x => a + x.2) 0

/-- The count reported to the parent. -/
def State.ackUp (s : State) : State :=
  let s := s.updGl (fun g => { g with acked := true })
  match s.parent with
  | some p => s.sendCount 1 s.gl.epoch (1 + countSum s.gl.counts) p
  | none => s

/-- A leader with a majority of the view (R356). -/
def State.majority (s : State) (n : Nat) : Bool := decide ((members s.gl.view).length < 2 * n)

/-- What follows when counts have come: the leader's majority, a member's own report. -/
def State.counted (s : State) : State :=
  if s.isLeader then
    if s.majority (1 + countSum s.gl.counts) then s.updGl (fun g => { g with lastMajority := s.now }) else s
  else if s.gl.beacon.isSome ∧ s.gl.acked = false ∧ s.children.all (fun c => s.gl.counts.any (fun x => x.1 == c)) = true then s.ackUp
  else s

/-- A BEACON_ACK count of a child. -/
def State.takeCount (s : State) (child : Nat) (epoch : W32) (n : Nat) : State :=
  if epoch = s.gl.epoch ∧ s.children.contains child = true then
    (s.updGl (fun g => { g with counts := Sp.set 0 g.counts child n })).counted
  else s

/-! ### Isolation (R356) -/

def State.isolate (s : State) : State :=
  if s.gl.isolated then s
  else
    let s := (s.updGl (fun g => { g with isolated := true })).logAs 7 0 0x0032 4 none [(4, s.gl.epoch.toNat), (3, s.self)]
    (List.range 64).foldl (fun (s : State) n => s.drainCore n) s

def State.endIsolation (s : State) : State :=
  if s.gl.isolated then
    ((List.range 64).foldl (fun (s : State) n => s.resumeCore n) (s.updGl (fun g => { g with isolated := false }))).pumpAll
  else s

/-! ### Fencing (R361) -/

/-- A view or a FENCE of a newer epoch shuts this module out. -/
def State.fenced (s : State) (epoch : W32) (leader : Nat) : State :=
  if s.sealRun.isSome then s
  else
    let s := (List.range 18).foldl (fun (s : State) p => s.updPort p (fun q => { q with egress := q.egress.filter (fun e => e.vc / 2 == 2) })) s
    let s := s.logAs 7 0 0x0031 4 none [(4, epoch.toNat), (3, leader)]
    { s.updGl (fun g => { g with mstate := 6 }) with stopped := true, sealRun := some ⟨1, s.now, some 3⟩ }

/-! ### Proposals and drains (R358, R359) -/

def State.propRoot (pr : Proposal) : Nat := (viewLeader pr.view).getD pr.proposer
def State.propChildren (s : State) (pr : Proposal) : List Nat :=
  (treeChildren s.dims (State.propRoot pr) s.self).filter (isMember pr.view)

/-- The fragments of a proposal sent to a node. -/
def State.sendView (s : State) (pr : Proposal) (dst : Nat) : State :=
  (List.range (fragCount pr.view)).foldl (fun (s : State) f =>
    s.member 4 f (fragCount pr.view) pr.epoch pr.proposer 0 dst (viewFrag pr.view f)) s

/-- A proposal sent down the tree of the new view. -/
def State.viewDown (s : State) (pr : Proposal) : State :=
  let dest := if pr.proposer = s.self ∧ State.propRoot pr ≠ s.self then [State.propRoot pr] else s.propChildren pr
  dest.foldl (fun (s : State) c => s.sendView pr c) s

def newProposal (epoch : W32) (proposer now count : Nat) (view : List Nat) : Proposal :=
  { epoch := epoch, proposer := proposer, armed := now, count := count, frags := [], view := view, drained := false,
    reported := false, counts := [], misses := [] }

/-- A view proposed by this module for the next epoch; injection stops. -/
def State.propose (s : State) (v : List Nat) : State :=
  let pr := newProposal (s.gl.epoch + 1) s.self s.now (fragCount v) v
  (s.updGl (fun g => { g with prop := some pr, stopInject := true })).viewDown pr

/-- Watchers take the place of the active nodes that a view loses (R362, R467); the nodes themselves become absent. -/
def State.without (s : State) (gone : List Nat) : List Nat :=
  let v := s.gl.view
  let subs := gone.filterMap (fun x => if stateIn v x = 4 then (let w := Sp.get (2 ^ 18) s.gl.assign x; if stateIn v w = 3 ∧ !gone.contains w then some w else none) else none)
  (List.range v.length).map (fun i => if gone.contains i then 0 else if subs.contains i then 4 else stateIn v i)

/-- What the leader proposes: the dead left out, the joiners as spares. -/
def State.nextView (s : State) : List Nat :=
  let v := s.without s.gl.dead
  (List.range v.length).map (fun i => if s.gl.joiners.contains i && !s.gl.dead.contains i && v.getD i 0 == 0 then 3 else v.getD i 0)

/-! ### Installation (R359 step 4, R462, R467) -/

/-- Watchers of a view: the assignments that stand are kept, every other active node gets the lowest spare with room
(R462). -/
def assignWatchers (v : List Nat) (old : Sp Nat) : Sp Nat :=
  let actives := (List.range v.length).filter (fun i => stateIn v i == 4)
  let spares := (List.range v.length).filter (fun i => stateIn v i == 3)
  let kept := old.filter (fun a => stateIn v a.1 == 4 && stateIn v a.2 == 3)
  actives.foldl (fun (a : Sp Nat) x =>
    if a.any (fun e => e.1 == x) then a
    else
      match spares.find? (fun w => decide ((a.filter (fun e => e.2 == w)).length < 16)) with
      | some w => Sp.set (2 ^ 18) a x w
      | none => a) kept

/-- The active nodes that an epoch removes, each with the spare that takes its place. -/
def replaced (old new : List Nat) (assign : Sp Nat) : List (Nat × Option Nat) :=
  let gone := (List.range old.length).filter (fun i => stateIn old i == 4 && stateIn new i != 4)
  let risen := (List.range new.length).filter (fun i => stateIn old i == 3 && stateIn new i == 4)
  gone.map (fun x => let w := Sp.get (2 ^ 18) assign x; (x, if risen.contains w then some w else none))

/-- R467 step 4: the partials in flight that were asked of node `x` are asked of `w`. -/
def State.resendNorm (s : State) (k : Nat) (maps : List (List (Nat × Nat))) (x w : Nat) : State :=
  let u := (s.job k).upd
  let open_ := (List.range maps.length).flatMap (fun p => (List.range (maps.getD p []).length).filter (fun l =>
    ((maps.getD p []).getD l (0, 0)).1 == x && Sp.get noPartial u.shards (stageKey p l) == noPartial))
  open_.foldl (fun (s : State) l => s.sendReq k 0xFFFF (u.st.step + 1) 1 false ⟨l, 0, 0, 0⟩ 0 w) s

/-- A job of this module loses node `x` to `w`: its map is rewritten, its instances are abandoned, and it starts again at
the replay step; without a watcher it stops (R467, R469). -/
def State.survive (s : State) (k x : Nat) (w : Option Nat) : State :=
  let j := s.job k
  if j.life = .none ∨ !(j.allMaps.any (fun m => m.any (fun e => e.1 == x))) then s
  else
    match w with
    | none => (s.abandon k).stopJob k 0x300
    | some w =>
      let sub (m : List (Nat × Nat)) : List (Nat × Nat) := m.map (fun (e : Nat × Nat) => if e.1 = x then (w, e.2) else e)
      let r := j.replayStep
      let s := if j.life = .running then s.abandon k else s
      let s := s.updJob k (fun j => { j with map := sub j.map, stages := j.stages.map sub, pend := none })
      if j.life ≠ .running then s
      else
        let s := (s.logTakeover x w k r).logAs 0 0 0x0042 3 (some j.info.tenant) [(1, k), (4, r.toNat), (1, 4)]
        if j.upd.waitNorm && j.upd.dec.isNone then (s.resendNorm k j.allMaps x w).holdJob k else s.replayJob k

/-- Every shard-map entry of the image that names `x` names `w` (R467 step 1). -/
def State.remapImage (s : State) (x w : Nat) : State :=
  let sub (m : List (Nat × Nat)) : List (Nat × Nat) := m.map (fun (e : Nat × Nat) => if e.1 = x then (w, e.2) else e)
  { s with image := s.image.map (fun im => { im with
      maps := im.maps.map (fun m => { m with entries := sub m.entries })
      stages := im.stages.map (fun m => (m.1, m.2.map (fun q => { q with entries := sub q.entries }))) }) }

/-- The watcher becomes active for the shards of node `x`. -/
def State.activate467 (s : State) (x : Nat) : State :=
  match s.image with
  | none => s
  | some im =>
    let s := s.applyQueues (s.mirror x)
    let maps (j : JobRec) : List (List (Nat × Nat)) := ((im.maps.filter (fun m => m.job == j.job)).map (·.entries)) ++
      ((im.stages.filter (fun m => m.1 == j.job)).flatMap (fun m => m.2.map (·.entries)))
    let mine := im.jobs.filterMap (fun j => ((maps j).find? (fun m => m.any (fun e => e.1 == x))).map (fun m => (j, m)))
    let s := mine.foldl (fun (s : State) (q : JobRec × List (Nat × Nat)) =>
      match s.takeJob x q.1 (q.2.map (fun (e : Nat × Nat) => if e.1 = x then (s.self, e.2) else e)) with
      | some s => s.logTakeover x s.self q.1.slot (s.job q.1.slot).replayStep
      | none => if (s.job q.1.slot).life = .running then s.stopJob q.1.slot 0x301 else s.postEvent q.1.tenant 0x82 [(16, 2, q.1.job), (18, 2, (Config.stopReason 0x301).toNat)]) s
    { s with watch := { s.watch with mirrors := Sp.set [] s.watch.mirrors x [], takeover := some (x, s.now) } }

/-- The watcher is lost (R462, R469): what waited for its acknowledgment by R464 goes on; the difference stream stays, so seals
wait (R300). -/
def State.dropWatcher (s : State) (w : Nat) : State :=
  let s := { s.updGl (fun g => { g with watcher := none }) with
    watched := false, watchOut := s.watchOut.filter (fun r => decide (r.kind ≤ 6)) }
  let s := s.logAs 0 0 0x0041 2 none [(3, s.self), (3, w)]
  (s.tenants.map (·.1)).foldl (fun (s : State) t => (List.range 32).foldl (fun (s : State) q =>
    if isInput q then s else s.flushQueue t q) s) s

/-- The watcher of this module under new assignments: a new one is sent a snapshot of every job (R462, R301). -/
def State.newWatcher (s : State) (w : Option Nat) : State :=
  if w = s.gl.watcher then s
  else
    let s := match s.gl.watcher with
      | some o => s.dropWatcher o
      | none => s
    match w with
    | none => s
    | some w =>
      let s := { s.updGl (fun g => { g with watcher := some w }) with watched := true }
      let s := s.logAs 0 0 0x0041 0 none [(3, s.self), (3, w)]
      (s.jobs.map (·.1)).foldl (fun (s : State) k =>
        if s.entriesOf k = [] then s else (s.updUpd k (fun u => { u with ops := u.ops ++ [⟨false, 64, 0, 0, 0⟩] })).pumpOps k) s

/-- Assignments of the new view taken: what this module watches, and who watches it; having no watcher is logged (R462, log entry 106). -/
def State.takeAssign (s : State) : State :=
  let a := assignWatchers s.gl.view s.gl.assign
  let mine := if s.watch.failed || s.watch.testing || s.watch.mustTest then [] else (a.filter (fun e => e.2 == s.self)).map (·.1)
  let s := s.updGl (fun g => { g with assign := a, watches := mine })
  let s := { s with watch := { s.watch with mirrors := s.watch.mirrors.filter (fun m => mine.contains m.1) } }
  let on := stateIn s.gl.view s.self == 4
  let w := if on then (a.find? (fun e => e.1 == s.self)).map (·.2) else none
  (if on && w.isNone && s.gl.watcher.isNone then s.logAs 0 0 0x0041 2 none [(3, s.self), (3, 0)] else s).newWatcher w

/-- Messages held for the epoch now in force are checked. -/
def State.releaseHeld (s : State) : State :=
  (List.range 18).foldl (fun (s : State) p =>
    let l := (s.port p).heldMsgs
    l.foldl (fun (s : State) m => s.receive p m) (s.updPort p (fun q => { q with heldMsgs := [] }))) s

/-- The next epoch takes effect. -/
def State.install (s : State) (pr : Proposal) : State :=
  let old := s.gl.view
  let ld := State.propRoot pr
  let reps := replaced old pr.view s.gl.assign
  let s := (s.propChildren pr).foldl (fun (s : State) c => s.member 6 0 0 pr.epoch ld 0 c []) s
  let fresh := if pr.proposer = s.self then (members pr.view).filter (fun i => !isMember old i && i != s.self) else []
  let s := fresh.foldl (fun (s : State) i => s.sendView pr i) s
  let s := s.updGl (fun g => { g with
    epoch := pr.epoch, view := pr.view, leader := ld, mstate := stateIn pr.view s.self, stopInject := false, prop := none,
    lastBeacon := s.now, lastMajority := s.now, beacon := none, acked := false, counts := [], suspects := [], dead := [],
    joiners := g.joiners.filter (fun j => !isMember pr.view j), fallbacks := [] })
  let s := s.logAs 7 0 0x0030 0 none [(4, pr.epoch.toNat), (3, ld), (3, ((reps.map (·.1)).headD 0))]
  let s := s.endIsolation
  let s := s.releaseHeld
  let s := reps.foldl (fun (s : State) (x : Nat × Option Nat) =>
    let s := if x.2 = some s.self then s.activate467 x.1
      else (s.jobs.map (·.1)).foldl (fun (s : State) k => s.survive k x.1 x.2) s
    match x.2 with
    | some w => s.remapImage x.1 w
    | none => s) s
  (s.takeAssign.pumpAll).collPump

/-- The proposer installs when the counts cover every member of the new view and a majority of the present one. -/
def State.mayInstall (s : State) : State :=
  match s.gl.prop with
  | none => s
  | some pr =>
    let n := b2n pr.drained + countSum pr.counts
    if pr.proposer = s.self ∧ pr.view ≠ [] ∧ (members pr.view).length ≤ n ∧ s.majority n = true then
      let s := if State.propRoot pr ≠ s.self then s.member 6 0 0 pr.epoch (State.propRoot pr) 0 (State.propRoot pr) [] else s
      s.install pr
    else s

/-- The count of the drained members of this module's subtree reported: to the parent in the new view, to the proposer where
there is none. -/
def State.report (s : State) : State :=
  match s.gl.prop with
  | none => s
  | some pr =>
    let s := s.updGl (fun g => { g with prop := some { pr with reported := true } })
    if pr.proposer = s.self ∧ State.propRoot pr = s.self then s.mayInstall
    else
      let n := 1 + countSum pr.counts
      let dest := match treeParent s.dims (State.propRoot pr) s.self with
        | some p => if isMember pr.view p then p else pr.proposer
        | none => pr.proposer
      if dest = s.self then s.mayInstall else s.sendCount 2 pr.epoch n dest

/-- A member whose drain is done reports when every child has. -/
def State.mayReport (s : State) : State :=
  match s.gl.prop with
  | some pr =>
    if pr.view ≠ [] ∧ pr.drained = true ∧ pr.reported = false ∧ (s.propChildren pr).all (fun c => pr.counts.any (fun x => x.1 == c)) = true then
      s.report
    else s.mayInstall
  | none => s

/-- A DRAINED count. -/
def State.takeDrained (s : State) (src : Nat) (epoch : W32) (n : Nat) : State :=
  match s.gl.prop with
  | some pr =>
    if epoch = pr.epoch ∧ pr.view ≠ [] then
      (s.updGl (fun g => { g with prop := some { pr with counts := Sp.set 0 pr.counts src n } })).mayReport
    else s
  | none => s

/-- This module's own drain is done when nothing is outstanding; what is addressed to nodes that the view excludes is lost. -/
def State.ownDrain (s : State) (all : Bool) : State :=
  match s.gl.prop with
  | some pr =>
    if pr.view = [] ∨ pr.drained = true then s
    else
      let s := (s.gl.outs.filter (fun o => all || !isMember pr.view o.dst)).foldl (fun (s : State) o => s.outLost o) s
      if s.gl.outs = [] then
        (s.updGl (fun g => { g with prop := g.prop.map (fun (p : Proposal) => { p with drained := true }) })).mayReport
      else s
  | none => s

end Sys2Proof.Machine
end

