-- ==== Sys2Proof/Machine/Member.lean ====
section
/-!
DEFINITION. Commands of membership and time: control flits, MEMBER and FENCE messages, and the timers of chapter 12.
-/

namespace Sys2Proof.Machine

/-! ### Control flits (R332, R335, R336, R352 to R354) -/

/-- The control flit that this end sends: acks, credits, stamps, the note of a failed port, the latest acknowledgment. -/
def Port.control (q : Port) (t16 : Nat) : List Byte :=
  let note := q.notes.headD (0, 0)
  let ctl := if q.version = 3 then q.ctl else (0, 0, 0)
  let body := leBytes 4 4096 ++ leBytes 2 (q.rxSeq + 4096 * b2n q.nack) ++ q.freed.flatMap (leBytes 2) ++ leBytes 8 t16 ++ leBytes 8 q.tRx ++
    leBytes 8 q.tPeer ++ leBytes 2 note.1 ++ leBytes 2 note.2 ++ leBytes 1 ctl.1 ++ zeros 1 ++ leBytes 4 ctl.2.1 ++ leBytes 4 ctl.2.2
  let all := body ++ zeros (252 - body.length)
  all ++ leBytes 4 (crc32 all)

/-- The control flit of a port goes out: nack and credits are given once, the notes of failed ports in turn. -/
def State.sendControl (s : State) (p t16 : Nat) : State :=
  let q := s.port p
  { s.setPort p { q with nack := false, freed := List.replicate 6 0, notes := q.notes.drop 1 ++ q.notes.take 1 } with
    linkOut := s.linkOut ++ [.control p (q.control t16)] }

/-- The ack of a control flit: what it covers leaves the retry buffer; a nack replays the rest (R334). -/
def State.takeAck (s : State) (p ack : Nat) (nack : Bool) : State :=
  let q := s.port p
  let s := match q.sent.findIdx? (fun x => x.1.seq == ack) with
    | some i => s.setPort p { q with sent := q.sent.drop (i + 1), ackAt := s.now, replays := 0 }
    | none => s
  if nack then s.replay p else s

/-- Credits returned, never above the 64 of a buffer (R335). -/
def State.takeCredits (s : State) (p : Nat) (bytes : List Byte) : State :=
  s.updPort p (fun q => { q with credits := (List.range 6).map (fun v =>
    min 64 (q.credits.getD v 0 + leVal ((bytes.drop (6 + 2 * v)).take 2))) })

/-- The offset from the parent that a control flit shows, in 1/16 ns (R352). -/
def offsetOf (t16 tTx tRx tPeer : Nat) (asym : Int) : Int := ((t16 : Int) - tTx - ((tRx : Int) - tPeer) - asym) / 2

/-- The first alignment sets the counter once; later offsets are filtered, and their time beyond 20 ns is watched. -/
def State.takeOffset (s : State) (o : Int) : State :=
  if s.aligned = false then { s with now := ((s.now : Int) - o / 16).toNat, aligned := true }
  else
    let l := (s.gl.samples.filter (fun x => decide (s.now < x.1 + 1000000))) ++ [(s.now, o)]
    let f := Config.timeFilter l
    let far := decide (320 < f) || decide (f < -320)
    s.updGl (fun g => { g with samples := l, offset := f, offSince := if far then (match g.offSince with
      | some t => some t
      | none => some s.now) else none })

/-- Time transfer from the time parent. -/
def State.takeTime (s : State) (p t16 : Nat) (bytes : List Byte) : State :=
  let f (o : Nat) : Nat := leVal ((bytes.drop o).take 8)
  let q := s.port p
  let s1 := s.setPort p { q with tPeer := f 18, tRx := t16 }
  if s.parent = some q.peerNode ∧ f 34 ≠ 0 ∧ q.held = false then s1.takeOffset (offsetOf t16 (f 18) (f 26) (f 34) q.asym) else s1

/-- What a kept control flit brings, in the order of its fields; this end's own goes out with it. -/
def State.takeControl (s : State) (p t16 : Nat) (bytes : List Byte) : State :=
  let f (o n : Nat) : Nat := leVal ((bytes.drop o).take n)
  let q := s.port p
  let s := s.setPort p { q with lastRx := s.now, silent := false }
  let s := (s.takeAck p (f 4 2 % 4096) (bitN 12 (f 4 2))).takeCredits p bytes
  let s := s.takeTime p t16 bytes
  let s := if f 42 4 = 0 then s else s.resend p (f 42 2 % 32) (f 44 2 % 4096)
  let s := if q.version = 3 then
      (match f 46 1 with
        | 1 => s.takeCount q.peerNode (BitVec.ofNat 32 (f 48 4)) (f 52 4)
        | 2 => s.takeDrained q.peerNode (BitVec.ofNat 32 (f 48 4)) (f 52 4)
        | _ => s)
    else s
  (s.sendControl p t16).pump p 400

/-- CONTROL_FLIT: a codeword of a control flit. `frac` are the sixteenths of a nanosecond of its arrival. -/
def execControlFlit (port : Nat) (fixed : Option Nat) (frac : Nat) (bytes : List Byte) (s : State) : Out :=
  if (s.port port).state = 0 then .next s
  else
    let r := s.flitChecks port fixed bytes
    if r.2 = true ∧ leVal (bytes.take 4) = 4096 then .next (r.1.takeControl port (16 * s.now + frac % 16) bytes) else .next r.1

/-- OUT_OF_TIME (R354, R466). -/
def execOutOfTime (s : State) : Out :=
  match s.gl.offSince with
  | some t =>
    let s := (s.expire 15 t 1000000).updGl (fun g => { g with outOfTime := true, offSince := none })
    .next ((s.logAs 7 0 0x0033 4 none [(4, toBits 32 s.gl.offset)]).moduleFault)
  | none => .next s

/-! ### BEACON (R355, R356) -/

/-- BEACON_TICK: the leader's BEACON at the next multiple of 100,000 ns. -/
def execBeaconTick (s : State) : Out :=
  if s.isLeader = false ∨ s.gl.isolated = true then .next s
  else
    let t := (s.now / 100000 + 1) * 100000
    let s := (s.advanceTo t).updGl (fun g => { g with beacon := some t, acked := true, counts := [], lastBeacon := t })
    .next (s.beaconDown.counted)

/-- JOIN sent to the leader, once its identifier is known (R357, R361, R434) and the time is within R353. -/
def State.askJoin (s : State) : State :=
  if s.gl.mstate = 2 ∧ s.gl.asked = false ∧ s.start.stage = 4 ∧ s.aligned = true ∧ s.timeBudget ≤ 100 then
    (s.updGl (fun g => { g with asked := true })).member 7 0 0 s.gl.epoch s.self 0 s.gl.leader []
  else s

/-- No BEACON of the epoch in force for 1 ms (R356). -/
def State.leaseLost (s : State) : State := if s.gl.isolated then s else (s.expire 10 s.gl.lastBeacon 1000000).isolate

/-- BEACON: of the epoch in force it renews the lease (one that comes at its end or later finds the module isolated: R13), goes on to the children and is answered; a module without a view
learns the leader. -/
def execBeacon (port : Nat) (s : State) : Out :=
  s.takeMsg port 6 1 (fun s m =>
    if s.gl.view = [] then
      let s := s.updGl (fun g => { g with leader := m.node })
      s.askJoin
    else if m.about = s.gl.epoch ∧ m.node = s.gl.leader ∧ s.isLeader = false then
      let s := if s.gl.lastBeacon + 1000000 ≤ s.now then s.leaseLost else s
      let s := s.updGl (fun g => { g with lastBeacon := s.now, beacon := some (s.now / 100000 * 100000), acked := false, counts := [] })
      (s.endIsolation.beaconDown).counted
    else s)

def execBeaconAck (port : Nat) (s : State) : Out := s.takeMsg port 6 2 (fun s m => s.takeCount m.src m.about m.count)

/-- BEACON_ACK_DEADLINE: 80 µs less 3 µs per hop of depth after the BEACON's time. -/
def execBeaconAckDeadline (s : State) : Out :=
  match s.gl.beacon with
  | some t =>
    if s.gl.acked then .next s
    else .next ((s.advanceTo (t + 80000 - 3000 * depthOf s.dims s.gl.leader s.self)).ackUp)
  | none => .next s

/-- LEASE_EXPIRY: 1 ms without a BEACON of the epoch in force. -/
def execLeaseExpiry (s : State) : Out :=
  if s.gl.view = [] ∨ s.isLeader = true then .next s else .next s.leaseLost

/-- LEADER_LEASE_EXPIRY: 1 ms without acknowledgments of a majority. -/
def execLeaderLeaseExpiry (s : State) : Out :=
  if s.isLeader = false ∨ s.gl.isolated = true then .next s else .next ((s.advanceTo (s.gl.lastMajority + 1000000)).isolate)

/-! ### Silence, declarations, succession (R355, R356) -/

/-- A report of a silent node, taken by the leader: the node, who reports it, and when it last heard it. -/
def State.suspect (s : State) (node by_ last : Nat) : State :=
  if s.gl.suspects.any (fun x => x.1 == node && x.2.1 == by_) then s
  else s.updGl (fun g => { g with suspects := g.suspects ++ [(node, by_, last)] })

/-- LINK_SILENT: nothing received on a link for 200 µs, be its port up or down; timers do not run for a held link (R346). -/
def execLinkSilent (port : Nat) (s : State) : Out :=
  let q := s.port port
  if q.held = true ∨ q.silent = true ∨ (s.fabPort port).unused = true then .next s
  else
    let s := (s.expire 9 q.lastRx 200000).setPort port { q with silent := true }
    let n := s.peerOf port
    let links := (List.range 18).filter (fun p => !(s.fabPort p).unused && s.peerOf p == n)
    if s.gl.view = [] ∨ !(links.all (fun p => (s.port p).silent)) then .next s
    else if s.isLeader then .next (s.suspect n s.self q.lastRx)
    else .next (s.member 3 0 0 s.gl.epoch n 0 s.gl.leader [])

def execSuspect (port : Nat) (s : State) : Out :=
  s.takeMsg port 6 3 (fun s m => if s.isLeader then s.suspect m.node m.src (s.now - 200000) else s)

/-- The leader proposes the next view unless one is under way. -/
def State.proposeNext (s : State) : State :=
  if s.gl.prop.isSome || s.gl.isolated then s else s.propose s.nextView

/-- DECLARATION: every neighbour has reported the node, and 2 ms have passed since any of them heard it. -/
def execDeclaration (node : Nat) (s : State) : Out :=
  let by_ := (neighbours s.dims node).filter (isMember s.gl.view)
  let reps := s.gl.suspects.filter (fun x => x.1 == node)
  if s.isLeader = true ∧ by_ ≠ [] ∧ by_.all (fun n => reps.any (fun x => x.2.1 == n)) = true ∧ s.gl.dead.contains node = false ∧
      isMember s.gl.view node = true then
    let t := (reps.map (fun x => x.2.2)).foldl max 0
    .next (((s.expire 11 t 2000000).updGl (fun g => { g with dead := g.dead ++ [node] })).proposeNext)
  else .next s

/-- LEAVE: a declaration at once. -/
def execLeave (port : Nat) (s : State) : Out :=
  s.takeMsg port 6 8 (fun s m =>
    if s.isLeader = true ∧ isMember s.gl.view m.src = true then
      (s.updGl (fun g => { g with dead := if g.dead.contains m.src then g.dead else g.dead ++ [m.src] })).proposeNext
    else s)

/-- SUCCESSION: 500 µs without a BEACON; the active member with the next-lowest identifier proposes a view without the
leader. -/
def execSuccession (s : State) : Out :=
  let next := (List.range s.gl.view.length).find? (fun i => stateIn s.gl.view i == 4 && i != s.gl.leader)
  if s.gl.view = [] ∨ s.isLeader = true ∨ next ≠ some s.self ∨ s.gl.prop.isSome = true ∨ s.gl.isolated = true then .next s
  else .next ((s.expire 10 s.gl.lastBeacon 500000).propose (s.without [s.gl.leader]))

/-! ### Epoch changes (R358, R359) -/

/-- A proposal is complete: a member begins its drain; a module that it shuts out is fenced (R361). -/
def State.complete358 (s : State) (pr : Proposal) : State :=
  let v := viewOf (pr.frags.map (·.2)) (nodeCount s.dims)
  let pr := { pr with view := v }
  if !isMember v s.self ∨ (s.gl.mstate = 4 ∧ stateIn v s.self ≠ 4) then s.fenced pr.epoch pr.proposer
  else
    let s := s.updGl (fun g => { g with prop := some pr, stopInject := true })
    (s.viewDown pr).ownDrain false

/-- A proposal whose fragments are not all here 1 ms after the first counts as not received (R358, R13). -/
def State.dropStale (s : State) : State :=
  match s.gl.prop with
  | some pr => if pr.view = [] ∧ pr.armed + 1000000 ≤ s.now then s.updGl (fun g => { g with prop := none }) else s
  | none => s

/-- PROPOSE: one fragment. A proposal of a lower node replaces that of a higher one, whose proposer is answered with FENCE
(R362); a fragment after the last begins a new proposal of the same proposer. -/
def execPropose (port : Nat) (s : State) : Out :=
  s.takeMsg port 6 4 (fun s m =>
    let s := s.dropStale
    let frag := m.f 17 1
    let n := m.f 18 1
    let by_ := m.node
    if m.about.toNat ≤ s.gl.epoch.toNat ∨ n = 0 ∨ n ≤ frag then s
    else
      let fresh := newProposal m.about by_ s.now n []
      let pick : Option Proposal := match s.gl.prop with
        | none => some fresh
        | some pr =>
          if pr.epoch.toNat < m.about.toNat then some fresh
          else if m.about.toNat < pr.epoch.toNat then none
          else if by_ < pr.proposer then some fresh
          else if pr.proposer < by_ then none
          else if pr.view ≠ [] then some fresh
          else some pr
      match pick with
      | none => s.fenceTo by_ m.about s.gl.leader
      | some pr =>
        let s := match s.gl.prop with
          | some old => if old.epoch = m.about ∧ by_ < old.proposer ∧ old.proposer ≠ s.self then s.fenceTo old.proposer m.about by_ else s
          | none => s
        let pr := { pr with frags := Sp.set [] pr.frags frag m.data }
        let s := s.updGl (fun g => { g with prop := some pr })
        if pr.frags.length = pr.count then s.complete358 pr else s)

/-- FRAGMENT_TIMEOUT: a proposal not complete 1 ms after its first fragment counts as not received. -/
def execFragmentTimeout (s : State) : Out :=
  match s.gl.prop with
  | some pr => if pr.view = [] then .next ((s.advanceTo (pr.armed + 1000000)).updGl (fun g => { g with prop := none })) else .next s
  | none => .next s

/-- DRAIN_DONE: the own drain ends once nothing is outstanding to members of the new view. -/
def execDrainDone (s : State) : Out := .next (s.ownDrain false)

/-- DRAIN_MESSAGE_TIMEOUT: what is outstanding 1 ms after the PROPOSE is abandoned. -/
def execDrainMessageTimeout (s : State) : Out :=
  match s.gl.prop with
  | some pr => if pr.view = [] ∨ pr.drained = true then .next s else .next ((s.expire 12 pr.armed 1000000).ownDrain true)
  | none => .next s

def execDrained (port : Nat) (s : State) : Out := s.takeMsg port 6 5 (fun s m => s.takeDrained m.src m.about m.count)

/-- DRAINED_DEADLINE: 1.9 ms less 30 µs per hop of depth after the PROPOSE; children that have not reported are named. -/
def execDrainedDeadline (s : State) : Out :=
  match s.gl.prop with
  | some pr =>
    if pr.view = [] ∨ pr.reported = true then .next s
    else
      let s := (s.advanceTo (pr.armed + 1900000 - 30000 * depthOf s.dims (State.propRoot pr) s.self)).ownDrain true
      match s.gl.prop with
      | some pr =>
        if pr.reported then .next s
        else
          let late := (s.propChildren pr).filter (fun c => !(pr.counts.any (fun x => x.1 == c)))
          let s := late.foldl (fun (s : State) c =>
            if pr.proposer = s.self then s.updGl (fun g => { g with prop := g.prop.map (fun (p : Proposal) => { p with misses := p.misses ++ [c] }) })
            else s.member 9 0 0 pr.epoch c 0 pr.proposer []) s
          .next s.report
      | none => .next s
  | none => .next s

def execDrainMiss (port : Nat) (s : State) : Out :=
  s.takeMsg port 6 9 (fun s m => match s.gl.prop with
    | some pr =>
      if pr.proposer = s.self ∧ m.about = pr.epoch then s.updGl (fun g => { g with prop := some { pr with misses := pr.misses ++ [m.node] } }) else s
    | none => s)

/-- PROPOSAL_TIMEOUT: the counts do not cover the new view within 2 ms. The proposer proposes again without the nodes named,
or, without a majority, isolates itself. -/
def execProposalTimeout (s : State) : Out :=
  match s.gl.prop with
  | some pr =>
    if pr.proposer ≠ s.self ∨ pr.view = [] then .next s
    else
      let s := s.expire 13 pr.armed 2000000
      let n := b2n pr.drained + countSum pr.counts
      let s := s.updGl (fun g => { g with prop := none, dead := g.dead ++ pr.misses.filter (fun x => !g.dead.contains x) })
      if s.majority n then .next (s.propose ((List.range pr.view.length).map (fun i => if pr.misses.contains i then 0 else pr.view.getD i 0)))
      else .next (s.updGl (fun g => { g with stopInject := false })).isolate
  | none => .next s

/-- INSTALL: the proposal of the same epoch is in force. -/
def execInstall (port : Nat) (s : State) : Out :=
  s.takeMsg port 6 6 (fun s m => match s.gl.prop with
    | some pr => if m.about = pr.epoch ∧ pr.view ≠ [] then s.install pr else s
    | none => s)

/-! ### Joins (R357, R361) -/

def execJoin (port : Nat) (s : State) : Out :=
  s.takeMsg port 6 7 (fun s m =>
    if s.isLeader = true ∧ isMember s.gl.view m.src = false ∧ s.gl.joiners.contains m.src = false then
      s.updGl (fun g => { g with joiners := g.joiners ++ [m.src] })
    else s)

/-- JOIN_BATCH_INTERVAL: the joiners are admitted together, at most once in 10 ms. -/
def execJoinBatchInterval (s : State) : Out :=
  if s.isLeader = true ∧ s.gl.joiners ≠ [] ∧ s.gl.prop.isNone = true ∧ s.gl.isolated = false then
    let s := s.advanceTo (s.gl.lastJoin + 10000000)
    .next ((s.updGl (fun g => { g with lastJoin := s.now })).proposeNext)
  else .next s

/-! ### FENCE and held frames (R360, R361) -/

/-- FENCE_NOTICE: a FENCE with a newer epoch than this module's. -/
def execFenceNotice (port : Nat) (s : State) : Out :=
  s.takeMsg port 8 0 (fun s m =>
    let e := BitVec.ofNat 32 (m.f 16 4)
    if s.gl.epoch.toNat < e.toNat then s.fenced e (m.f 20 3 % 2 ^ 18) else s)

/-- HELD_FRAME_TIMEOUT: frames of a future epoch held for 2 ms are discarded and logged. -/
def execHeldFrameTimeout (s : State) : Out :=
  match (List.range 18).find? (fun p => (s.port p).heldMsgs != []) with
  | some p =>
    let q := s.port p
    let s := (s.expire 14 q.heldAt 2000000).setPort p { q with heldMsgs := [] }
    .next (q.heldMsgs.foldl (fun (s : State) m => s.logFrame p m 8) s)
  | none => .next s

end Sys2Proof.Machine
end

