-- ==== Sys2Proof/Machine/NorOps.lean ====
section
/-!
DEFINITION. What the steward keeps in the NOR flash (R431): the boot descriptor (R432), the on-time ring (R433), the start ledger
(R438), the image slots and the crumbs (R477, R478); and log records as bytes (R474).
-/

namespace Sys2Proof.Machine

/-! ### Log records as bytes (R474) -/

def LogRec.flags (r : LogRec) : Nat :=
  r.sev % 8 + b2n r.unaligned * 8 + b2n r.tenant.isSome * 16 + b2n r.crumb * 32 + r.rep % 1024 * 64

/-- The 32 bytes of a record. -/
def LogRec.bytes (r : LogRec) : List Byte :=
  leBytes 8 r.time ++ leBytes 4 r.seq ++ leBytes 1 r.inst ++ leBytes 1 r.cls ++ leBytes 2 r.code ++ leBytes 2 r.flags ++
    leBytes 2 (r.tenant.getD 0) ++ r.args.take 12 ++ zeros (12 - r.args.length)

/-- A record read back from its bytes. -/
def LogRec.ofBytes (b : List Byte) : LogRec :=
  let v (o n : Nat) : Nat := leVal ((b.drop o).take n)
  let f := v 16 2
  { time := v 0 8, seq := v 8 4, inst := v 12 1, cls := v 13 1, code := v 14 2, sev := f % 8, unaligned := bitN 3 f,
    tenant := if bitN 4 f then some (v 18 2 % 4096) else Option.none, crumb := bitN 5 f, rep := f / 64, args := (b.drop 20).take 12 }

/-- The record of a ring slot; beyond the ring there is none (R454). -/
def LogSt.at_ (l : LogSt) (slot : Nat) : LogRec := if slot < 2048 then Sp.get LogRec.none l.ring slot else LogRec.none

/-- The newest `n` records, oldest first. -/
def LogSt.newest (l : LogSt) (n : Nat) : List LogRec :=
  ((List.range n).map (fun i => (l.next + 2 ^ 32 - n + i) % 2 ^ 32)).filterMap (fun q =>
    let r := Sp.get LogRec.none l.ring (q % 2048)
    if r.code ≠ 0 ∧ r.seq = q then some r else none)

/-- The records that a seal begun at a time writes (R477): the newest 256 of those that the ring held then. -/
def LogSt.sealed (l : LogSt) (t : Nat) : List LogRec :=
  let rs := (l.newest 2048).filter (fun x => x.crumb || decide (x.time ≤ t))
  rs.drop (rs.length - 256)

/-- The low state of SMB_ALERT_N (R487). -/
def LogSt.alert (l : LogSt) : Bool :=
  l.alertLost || l.ring.any (fun p => decide (3 ≤ p.2.sev) && !(Sp.get false l.read p.1))

/-! ### Boot descriptor (R432) -/

/-- A copy's generation, committed slot and pending slot, where its magic and CRC are valid. -/
def State.bootCopy (s : State) (copy : Nat) : Option (Nat × Nat × Nat) :=
  let b := copy * 0x8000
  if s.norNat b 4 = 0x5B007D1E ∧ s.norNat (b + 28) 4 = crc32 (norRead s.nor b 28) then
    some (s.norNat (b + 4) 4, s.norNat (b + 8) 1, s.norNat (b + 9) 1)
  else none

/-- The copy in use, with its committed and pending slot. -/
def State.boot (s : State) : Option (Nat × Nat × Nat × Nat) :=
  match s.bootCopy 0, s.bootCopy 1 with
  | none, none => none
  | some a, none => some (0, a)
  | none, some b => some (1, b)
  | some a, some b => if a.1 < b.1 then some (1, b) else some (0, a)

/-- The committed slot, and the pending one (0xFF: none). -/
def State.committed (s : State) : Option Nat := s.boot.map (·.2.2.1)
def State.pendingSlot (s : State) : Option Nat :=
  match s.boot with
  | some (_, _, _, p) => if p < 2 then some p else none
  | none => none

/-- The other copy written, its generation incremented. -/
def State.writeBoot (s : State) (committed pending : Nat) : State :=
  let r := match s.boot with
    | some (c, g, _, _) => (1 - c, (g + 1) % 2 ^ 32)
    | none => (0, 1)
  let hd := leBytes 4 0x5B007D1E ++ leBytes 4 r.2 ++ leBytes 1 committed ++ leBytes 1 pending ++ zeros 18
  { s with nor := norPut s.nor (r.1 * 0x8000) (hd ++ leBytes 4 (crc32 hd)) }

/-! ### On-time ring (R433) -/

def onTimeBase : Nat := 0x4040000

/-- The index of the next record, and the running count. -/
def State.onTime (s : State) : Nat × Nat :=
  let idx := ((s.nor.filter (fun p => decide (onTimeBase ≤ p.1) && decide (p.1 < onTimeBase + 0x100000))).map
    (fun p => (p.1 - onTimeBase) / 4)).eraseDups
  idx.foldl (fun a i => let v := s.norNat (onTimeBase + 4 * i) 4
    if a.2 ≤ v then ((i + 1) % 262144, v) else a) (0, 0)

/-- One more minute appended. -/
def State.addMinute (s : State) : State :=
  let o := s.onTime
  { s with nor := norPut s.nor (onTimeBase + 4 * o.1) (leBytes 4 (o.2 + 1)), start := { s.start with minute := s.now } }

/-! ### Start ledger (R438) -/

def ledgerBase : Nat := 0x4030000

/-- Valid entries, oldest first: minute, reason, stage, slot. -/
def State.ledger (s : State) : List (Nat × Nat × Nat × Nat) :=
  (List.range 8).filterMap (fun i =>
    let b := ledgerBase + 16 * i
    if s.norNat (b + 12) 4 = crc32 (norRead s.nor b 12) then
      some (s.norNat b 4, s.norNat (b + 4) 1, s.norNat (b + 5) 1, s.norNat (b + 6) 1)
    else none)

def ledgerBytes (e : Nat × Nat × Nat × Nat) : List Byte :=
  let hd := leBytes 4 e.1 ++ leBytes 1 e.2.1 ++ leBytes 1 e.2.2.1 ++ leBytes 1 e.2.2.2 ++ zeros 5
  hd ++ leBytes 4 (crc32 hd)

/-- The ledger written anew with these entries. -/
def State.writeLedger (s : State) (es : List (Nat × Nat × Nat × Nat)) : State :=
  { s with nor := norPut (Sp.eraseRange ledgerBase (ledgerBase + 128) s.nor) ledgerBase (es.flatMap ledgerBytes) }

/-- A failed start entered; of nine entries the oldest goes. A part minute is rounded up (R433). -/
def State.addLedger (s : State) (reason stage slot : Nat) : State :=
  let s := if s.now = s.start.minute then s else s.addMinute
  let es := s.ledger ++ [(s.onTime.2, reason, stage, slot)]
  s.writeLedger (es.drop (es.length - 8))

/-- R439: three entries within 30 minutes of one another. -/
def State.ledgerHolds (s : State) : Bool :=
  let ms := s.ledger.map (·.1)
  ms.any (fun m => decide (3 ≤ (ms.filter (fun x => decide (m ≤ x) && decide (x < m + 30))).length))

/-- The three latest reasons, the newest first. -/
def State.lastReasons (s : State) : List Nat := ((s.ledger.map (fun e => e.2.1)).reverse).take 3

/-! ### Image slots (R431) -/

def slotBase (slot : Nat) : Nat := 0x10000 + slot * 0x2000000

/-- The bytes of the image in a slot, by the length in its header. -/
def State.slotImage (s : State) (slot : Nat) : List Byte :=
  let n := s.norNat (slotBase slot + 20) 4
  norRead s.nor (slotBase slot) (max 1024 (if n ≤ 33554432 then n else 1024))

/-! ### Crumbs (R477, R478) -/

def crumbBase (slot : Nat) : Nat := 0x4140000 + slot * 0x4000

/-- A valid crumb slot: generation, cause and record count. -/
def State.crumbSlot (s : State) (slot : Nat) : Option (Nat × Nat × Nat) :=
  let b := crumbBase slot
  let n := s.norNat (b + 8) 2
  if s.norNat b 4 = 0x3C7B1A05 ∧ n ≤ 256 ∧
      s.norNat (b + 60) 4 = crc32 (norRead s.nor b 60 ++ norRead s.nor (b + 64) (32 * n)) then
    some (s.norNat (b + 4) 4, s.norNat (b + 10) 1, n)
  else none

/-- The newest valid slot, with its generation, cause and count. -/
def State.newestCrumb (s : State) : Option (Nat × Nat × Nat × Nat) :=
  (List.range 4).foldl (fun a i => match s.crumbSlot i, a with
    | some c, some b => if b.2.1 < c.1 then some (i, c) else a
    | some c, none => some (i, c)
    | none, _ => a) none

def eraseCrumb (nor : Sp Byte) (slot : Nat) : Sp Byte := Sp.eraseRange (crumbBase slot) (crumbBase slot + 0x4000) nor

/-- The slot after the newest valid one, and the generation that goes there. -/
def State.crumbNext (s : State) : Nat × Nat :=
  match s.newestCrumb with
  | some (i, g, _, _) => ((i + 1) % 4, (g + 1) % 2 ^ 32)
  | none => (0, 1)

/-- The steward keeps the slot of the next seal erased. -/
def State.eraseNextCrumb (s : State) : State := { s with nor := eraseCrumb s.nor s.crumbNext.1 }

/-- R477: the newest 256 records of a log sealed, with cause and device time. -/
def State.writeCrumbs (s : State) (cause time : Nat) (rs : List LogRec) : State :=
  let x := s.crumbNext
  let body := rs.flatMap LogRec.bytes
  let hd := leBytes 4 0x3C7B1A05 ++ leBytes 4 x.2 ++ leBytes 2 rs.length ++ leBytes 1 cause ++ zeros 1 ++ leBytes 8 time ++
    leBytes 4 s.onTime.2 ++ zeros 36
  { s with nor := norPut (eraseCrumb s.nor x.1) (crumbBase x.1) (hd ++ leBytes 4 (crc32 (hd ++ body)) ++ body) }.eraseNextCrumb

/-- R478: the newest valid slot's records loaded into an empty ring, and the record 0x00FF. -/
def State.loadCrumbs (s : State) : State :=
  match s.newestCrumb with
  | none => s
  | some (i, _, cause, n) =>
    let rs := (List.range n).map (fun k => LogRec.ofBytes (norRead s.nor (crumbBase i + 64 + 32 * k) 32))
    let ring := rs.foldl (fun (t : Sp LogRec) r => Sp.set LogRec.none t (r.seq % 2048) { r with crumb := true }) []
    let next := match rs.getLast? with
      | some r => (r.seq + 1) % 2 ^ 32
      | none => 0
    { s with log := { s.log with ring := ring, next := next, crumbs := true } }.logAs 0 0 0x00FF 0 Option.none [(1, i), (4, n), (1, cause)]

end Sys2Proof.Machine
end

