-- ==== Sys2Proof/Machine/Sensor.lean ====
section
/-!
DEFINITION. What the sensors read (R457), and the start window (R491).
-/

namespace Sys2Proof.Machine

/-! ### Sensors (R457). Numbers: cores 0 to 63, hub 64 to 71, guest die 72 and 73, coolant inlet 74 and outlet 75, input voltage 76 and
current 77. Temperatures are in 0.1 °C, voltages in mV, currents in mA. -/

/-- The sensors of one die, and the coolant pair: neighbours of one another. -/
def sensorGroup (i : Nat) : List Nat :=
  if i < 64 then (List.range 16).map (fun k => i / 16 * 16 + k)
  else if i < 72 then (List.range 8).map (64 + ·)
  else if i < 74 then [72, 73]
  else if i < 76 then [74, 75]
  else [i]

/-- The code of record 0x0060 for a sensor (R502). -/
def sensorInput (i : Nat) : Nat := if i < 74 then 3 else if i = 74 then 4 else if i = 75 then 5 else if i = 76 then 6 else 7

/-- Sorted into rising order. -/
def insertInt (x : Int) : List Int → List Int
  | [] => [x]
  | y :: ys => if x ≤ y then x :: y :: ys else y :: insertInt x ys
def sortInts (l : List Int) : List Int := l.foldr insertInt []

/-- Median; of an even number of samples the mean of the two in the middle. -/
def median (l : List Int) : Int :=
  let s := sortInts l
  let n := s.length
  if n % 2 = 1 then s.getD (n / 2) 0 else (s.getD (n / 2 - 1) 0 + s.getD (n / 2) 0) / 2

def PmSt.sensor (p : PmSt) (i : Nat) : Sensor := Sp.get Sensor.reset p.sensors i

/-- Whether a sample is plausible: in range, and within 5 °C, or 5 %, of the median of the last 8 plausible samples. -/
def Sensor.plausible (x : Sensor) (i : Nat) (v : Int) : Bool :=
  let r := Config.sensorRange i
  let m := median x.good
  decide (r.1 ≤ v) && decide (v ≤ r.1 + r.2) &&
    (x.good.isEmpty || (if i < 76 then decide ((v - m).natAbs ≤ 50) else decide (20 * (v - m).natAbs ≤ m.natAbs)))

/-- The value in use: the median; of a failed sensor the highest among its plausible neighbours plus 5 °C. -/
def PmSt.reading (p : PmSt) (i : Nat) : Int :=
  let x := p.sensor i
  if !x.failed then median x.good
  else
    let vs := ((sensorGroup i).filter (fun k => k != i && !(p.sensor k).failed && !(p.sensor k).good.isEmpty)).map (fun k => median (p.sensor k).good)
    match vs with
    | [] => median x.good
    | v :: vs => vs.foldl max v + 50

/-- T: the highest filtered die temperature. -/
def PmSt.tMax (p : PmSt) : Int :=
  let vs := ((List.range 74).filter (fun i => (p.sensor i).failed || !(p.sensor i).good.isEmpty)).map p.reading
  match vs with
  | [] => 0
  | v :: vs => vs.foldl max v

/-! ### The start window (R491) -/

/-- Whether a sensor reads within bounds; one that has no plausible sample yet says nothing (log entry 10). -/
def PmSt.within (p : PmSt) (i : Nat) (lo hi : Int) : Bool :=
  ((p.sensor i).good.isEmpty && !(p.sensor i).failed) || (decide (lo ≤ p.reading i) && decide (p.reading i ≤ hi))

/-- R491: input 48.0 V to 60.0 V, coolant inlet 15 °C to 45 °C, every die below 85 °C. -/
def State.startWindow (s : State) : Bool :=
  s.pm.within 76 48000 60000 && s.pm.within 74 150 450 && decide (s.pm.tMax < 850)

end Sys2Proof.Machine
end

