-- ==== Sys2Proof/Machine/StartOps.lean ====
section
/-!
DEFINITION. Resets and start: what a reset clears (R424), the crumb seal and what follows it (R477), failed starts and Sprout mode
(R437 to R439), the stages (R434 to R436, R440) and the image applied.
-/

namespace Sys2Proof.Machine

/-! ### Resets (R424) -/

/-- What the module is after a reset: all volatile state cleared. The NOR flash, the FRU memory, the sealed contents of tier 2, the
fuses, the auxiliary supply, a trip hold and the order for a full-module test stay. -/
def State.afterReset (s : State) (hold : ResetHold) : State :=
  let z := State.reset
  { z with
    pending := s.pending
    free := s.free
    resp := s.resp
    hostOut := s.hostOut
    linkOut := s.linkOut
    mem := s.mem.filter (fun p => isTier2 p.1)
    poison := s.poison.filter (fun p => isTier2 (p.1 * 64))
    t2 := s.t2.map (fun (t : Nat × T2Tensor) => (t.1, { t.2 with heat := [], copy := [] }))
    nor := s.nor
    pm := { z.pm with tripHold := s.pm.tripHold }
    start := { z.start with
      hold := hold
      cause := s.start.cause
      secMin := s.start.secMin
      aux := s.start.aux
      fru := s.start.fru
      addr := s.start.addr }
    dd := { z.dd with fused := s.dd.fused }
    watch := { z.watch with mustTest := s.watch.mustTest } }

/-- The log record of a start stage (R476 0x0070). -/
def State.logStage (s : State) (stage reason sev : Nat) : State :=
  s.logAs 0x0E 0 0x0070 sev Option.none [(1, stage), (2, reason), (1, s.start.slot)]

/-- A stage is entered. -/
def State.enter (s : State) (stage : Nat) : State := { s with start := { s.start with stage := stage } }.logStage stage 0 0

/-- The Sprout stage begins: the log runs, crumbs are loaded ahead of any new record. -/
def State.beginStart (s : State) (cause : Nat) : State :=
  let s := { s with start := { s.start with pwrGood := true, hold := .none, cause := cause, reason := 0 }, gl := { s.gl with mstate := 1 } }
  s.loadCrumbs.enter 1

/-- A module reset (R424), and the start that follows it: at once, or when the trip hold ends (R460). -/
def State.moduleReset (s : State) (cause : Nat) : State :=
  if s.pm.tripHold then
    let s := s.afterReset .trip
    { s with start := { s.start with cause := cause } }
  else (s.afterReset .none).beginStart cause

/-! ### Failed starts and Sprout mode (R437 to R439) -/

/-- A start fails in a stage, with a reason of R440: logged, entered in the ledger, a pending image in use cleared, and the crumbs
sealed; what follows the seal is `afterSeal`. -/
def State.failedStart (s : State) (stage reason : Nat) : State :=
  let s := (s.logStage stage reason 4).addLedger reason stage s.start.slot
  let s := match s.start.pending, s.committed with
    | true, some c => s.writeBoot c 0xFF
    | _, _ => s
  { s with start := { s.start with reason := reason }, stopped := true, sealRun := some ⟨3, s.now, some 4⟩ }

/-- Sprout mode, held (R439). -/
def State.holdSprout (s : State) : State :=
  { s with
    start := { s.start with stage := 5, held := true }
    stopped := false
    sealRun := Option.none
    gl := { s.gl with mstate := 1 } }

/-- What follows a seal, complete or abandoned: the reset that caused it, a hold in Sprout mode, or the wait for power. -/
def State.afterSeal (s : State) (r : SealRun) : State :=
  match r.reset with
  | some c => if c = 4 && s.ledgerHolds then s.holdSprout else s.moduleReset c
  | Option.none =>
    let z := s.afterReset (if s.start.hold = .none then .power else s.start.hold)
    { z with start := { z.start with cause := if r.cause = 2 then 7 else 0 } }

/-- The power-loss sequence (R479): issue stops, the arrays gate, LEAVE goes out, the seal begins, and the module then waits. A seal in progress for
another cause continues (R481). -/
def State.powerLoss (s : State) (hold : ResetHold) : State :=
  if s.start.pwrGood = false then s
  else
    let s := { s with stopped := true, start := { s.start with hold := hold } }.suspendBallast
    match s.sealRun with
    | some r => { s with sealRun := some { r with reset := Option.none } }
    | Option.none => { s with linkOut := s.linkOut ++ [LinkOut.leave], sealRun := some ⟨0, s.now, Option.none⟩ }

/-! ### The Sprout stage (R434, R436, R440) -/

/-- The start's reason for a header check that fails. -/
def headerReason (check : Nat) : Nat := if check ≤ 2 then 2 else if check = 3 then 3 else if check = 4 then 4 else 6

/-- SY_IMGERR set, and logged as 0x0071. -/
def State.imageError (s : State) (e : Nat × Nat × Nat) : State :=
  { s with start := { s.start with imgErr := e } }.logAs 0x0E 0 0x0071 2 Option.none [(1, e.2.1), (2, e.2.2), (1, e.1)]

/-- The slots tried in order: the one whose header passes; else the reason of the last one tried. -/
def State.trySlots (s : State) : List (Nat × SlotCheck) → Nat → State × Option Nat × Nat
  | [], last => (s, Option.none, last)
  | (k, c) :: rest, _ =>
    let s := { s with start := { s.start with slot := k, pending := s.pendingSlot == some k } }
    match headerCheck (s.slotImage k) c.sig c.cert s.start.secMin with
    | Option.none => (s, some k, 0)
    | some e =>
      let s := s.imageError (e, 0, 0)
      if e = 4 then (s, Option.none, 4) else s.trySlots rest (headerReason e)

/-- Order of the slots: the pending one first, then the other; the committed one first where none is pending. -/
def State.slotOrder (s : State) (c : SlotCheck × SlotCheck) : List (Nat × SlotCheck) :=
  let first := match s.pendingSlot with
    | some p => p
    | Option.none => s.committed.getD 0
  if first = 0 then [(0, c.1), (1, c.2)] else [(1, c.2), (0, c.1)]

/-- The host ports as they train. -/
def State.trainHosts (s : State) (hosts : List (Nat × Nat)) : State :=
  { s with hl := { s.hl with ports := (List.range 2).map (fun p => let h := hosts.getD p (0, 0); s.trainedPort h.1 h.2) } }

/-! ### Stage 1: lanes (R418) -/

/-- The lane map of a direction of a module whose lanes `bad` fail now (64 + i: repair lane i): the map to use with the data lanes newly
given a repair lane, or none where more than four are needed. -/
def LaneMap.repair (m : LaneMap) (bad : List Nat) : Option (LaneMap × List Nat) :=
  let old := (List.range 4).map (fun i => m.repaired.getD i 0x7F)
  let lost := (List.range 4).filterMap (fun i => if bad.contains (64 + i) ∧ old.getD i 0x7F ≠ 0x7F then some (old.getD i 0x7F) else Option.none)
  let kept := (List.range 4).map (fun i => if bad.contains (64 + i) then 0x7F else old.getD i 0x7F)
  let need := (lost ++ (bad.filter (fun l => decide (l < 64) && !old.contains l))).eraseDups
  let open_ := (List.range 4).filter (fun i => kept.getD i 0x7F == 0x7F && !bad.contains (64 + i))
  if open_.length < need.length then Option.none
  else
    let place (i : Nat) : Nat := match open_.findIdx? (· == i) with
      | some j => need.getD j 0x7F
      | Option.none => kept.getD i 0x7F
    some (⟨(List.range 4).map place, m.assembly⟩, need)

/-- Every direction with failing lanes repaired; none where one of them cannot be. New repairs are logged. -/
def State.repairLanes (s : State) (bad : List (Nat × Nat)) : List Nat → Option State
  | [] => some s
  | k :: ks =>
    match (Sp.get LaneMap.none s.dd.fused k).repair ((bad.filter (fun b => b.1 == k)).map (·.2)) with
    | Option.none => Option.none
    | some (m, new) =>
      let s := { s with dd := { s.dd with lanes := Sp.set LaneMap.none s.dd.lanes k m } }
      let s := new.foldl (fun (s : State) l => s.logAs 0x0C (k / 32) 0x0074 1 Option.none [(1, k / 32), (1, k / 2 % 16), (1, l)]) s
      s.repairLanes bad ks

/-- Stage 1 behind the Sprout stage. -/
def State.stage1 (s : State) (r : Stage1Rep) : State :=
  let s := s.enter 2
  let s := { s with dd := { s.dd with lanes := s.dd.fused } }
  if !(r.window && s.startWindow) then s.failedStart 2 8
  else if !r.firmware then s.failedStart 2 6
  else
    match s.repairLanes r.lanes (r.lanes.map (·.1)).eraseDups with
    | Option.none => s.failedStart 2 9
    | some s =>
      if !r.trained then s.failedStart 2 0x0A
      else
        let s := { s with dd := { s.dd with up := List.replicate 5 true } }
        if !r.scrub then s.failedStart 2 0x0B else s

/-- The rest of the Sprout stage, and stage 1. -/
def State.sproutStage (s : State) (r : Stage1Rep) : State :=
  if !r.rom then s.failedStart 1 5
  else if !r.nor || s.boot.isNone then (s.imageError (0, 0xFF, 0)).failedStart 1 1
  else
    match s.trySlots (s.slotOrder r.slots) 2 with
    | (s, Option.none, reason) => s.failedStart 1 reason
    | (s, some _, _) =>
      let s := s.trainHosts r.hosts
      if s.ledgerHolds then s.holdSprout else s.stage1 r

/-! ### Stage 2 -/

/-- The retirement list read (R220): its frames are withdrawn. -/
def State.readRetired (s : State) : State :=
  match s.retInUse with
  | Option.none => { s with retired := [] }.logAs 0 0 0x0012 2 Option.none [(3, 0), (2, 0x10)]
  | some (_, _, l) => l.foldl (fun (s : State) e => s.setFrame e.1 { s.frameAt e.1 with withdrawn := true }) { s with retired := l }

/-- R197: every package reports one version, 1 or 2, on all its ranks. -/
def versionsOk (vs : List (List Nat)) : Bool :=
  vs.all (fun p => p.all (fun v => v == p.headD 0) && decide (1 ≤ p.headD 0) && decide (p.headD 0 ≤ 2))

/-- The lowest Tuber version reported by the packages of a die. -/
def dieVersion (vs : List (List Nat)) (d : Nat) : Nat := ((vs.drop (8 * d)).take 8).foldl (fun a p => min a (p.headD 2)) 2

/-- A die's controllers at stage 2: the temperatures against which write leveling ran are those of its training (R196, R213), the pages that
the retirement list names are kept for patrol scrub (R220), and the writes of the stage leave every code word clean (R225). -/
def McSt.trained (m : McSt) (d lowest : Nat) (retired : List (Nat × Nat)) : McSt :=
  { m with
    ready := true, lowest := lowest, errs := [], met := [], zeros := [],
    startList := (retired.map (·.1)).filter (fun f => dieOf (f * pageSize) == d)
    chans := m.chans.map (fun c => (c.1, { c.2 with baseTemp := c.2.temp })) }

def State.stage2 (s : State) (r : Stage2Rep) : State :=
  let s := (s.enter 3).readRetired
  if !r.trained then s.failedStart 3 0x0C
  else if !versionsOk r.versions then s.failedStart 3 0x0D
  else
    let s := (List.range 4).foldl (fun (s : State) d => s.updMc d (fun m => m.trained d (dieVersion r.versions d) s.retired)) s
    let s := (List.range 4).foldl (fun (s : State) d => { s with tub := Sp.upd TubDie.reset s.tub d (fun t =>
      { t with ready := !r.failed.contains d, checkFail := r.failed.contains d }) }) s
    if r.failed ≠ [] then s.failedStart 3 0x0E
    else
      let s := (r.frames.filter (fun f => decide (f < 4 * dieFrames) && !s.retired.any (fun e => e.1 == f))).foldl
        (fun (s : State) f => s.quarantine f 4) s
      if s.sealRun.isSome then s
      else if s.pm.charged = false ∨ s.pm.energy < 200 then s.failedStart 3 8
      else s

/-! ### Stage 3: the image applied (R435, R444 to R452) -/

/-- The groups of the program set that a core receives, laid out in order: the words, and the programs at their indices (R446). -/
def coreBank (gs : List ProgGroup) (n : Nat) : List IWord × List Prog :=
  (gs.filter (fun g => bitN n g.mask)).foldl (fun a g =>
    (a.1 ++ g.words, a.2 ++ g.progs.map (fun (p : Prog) => { p with start := p.start + a.1.length }))) ([], [])

/-- Words put into a bank from index `i`. -/
def putWords (b : Sp IWord) (i : Nat) : List IWord → Sp IWord
  | [] => b
  | w :: ws => putWords (Sp.set 0#128 b i w) (i + 1) ws

/-- A core's slot table, fill list and matrix settings from the image; its programs in bank 1, with a switch requested. The service context
of the start ends with it, and its vector registers are +0 again (R148). -/
def Image.coreFor (im : Image) (n : Nat) (c : CoreSt) : CoreSt :=
  let t := im.tables.getD (im.binding.getD n 0) ⟨[], []⟩
  let b := coreBank im.progs n
  { c with
    slots := t.slots
    fillList := t.fill
    bank1 := putWords [] 0 b.1
    progs1 := b.2
    switchPending := true
    ve := { c.ve with vregs := [] }
    mx := { c.mx with balEnable := im.cfg.balEnable, balRamp := im.cfg.ramp, balHold := im.cfg.holdCc } }

/-- Scheduled time of a tenant per beat over all cores, in units of L / 1024, and its fill entries (R414). -/
def Image.shareOf (im : Image) (t : Nat) : Nat × Nat :=
  let used := (List.range 64).map (fun n => im.tables.getD (im.binding.getD n 0) ⟨[], []⟩)
  let span (tb : BeatTable) (k : Nat) : Nat := (tb.slots.getD (k + 1) ⟨1024, true, 0, 0⟩).start - (tb.slots.getD k ⟨0, true, 0, 0⟩).start
  let mine (tb : BeatTable) (k : Nat) : Bool := match tb.slots[k]? with
    | some sl => !sl.open_ && sl.tenant == t
    | Option.none => false
  (used.foldl (fun a tb => (List.range tb.slots.length).foldl (fun a k => if mine tb k then a + span tb k else a) a) 0,
   used.foldl (fun a tb => a + (tb.fill.filter (fun p => (im.prog p).any (fun q => q.tenant == t))).length) 0)

/-- A tenant of the image (R414, R445). -/
def Image.tenantFor (im : Image) (s : State) (t : TenRec) : Tenant :=
  let sh := im.shareOf t.tenant
  { Tenant.none with
    state := 1, quota0 := t.quota0, quota1 := t.quota1, quota2 := t.quota2, slots := sh.1, fill := sh.2
    use2 := s.t2.foldl (fun a x => if keyTenant x.1 = t.tenant then a + x.2.pages.length else a) 0 }

/-- Registers, tenant table, maps and program banks set from an image. -/
def State.applyImage (s : State) (im : Image) : State :=
  let c := im.cfg
  let s := { s with
    image := some im
    beats := { s.beats with exp := c.beatExp, maintExp := c.maintExp, beat := s.now / (4096 * 2 ^ c.beatExp) }
    gl := { s.gl with verMax := c.maxVersion }
    tiers := { s.tiers with heatExp := c.heatExp, promote := c.promote, drop := c.drop, reserve := c.reserve, promMax := c.promMax } }
  let s := im.tenants.foldl (fun (s : State) t => s.setTenant t.tenant (im.tenantFor s t)) s
  let s := (List.range 4).foldl (fun (s : State) d => { s with tub := Sp.upd TubDie.reset s.tub d (fun t =>
    { t with cap := c.tuberCap, depth := c.tuberDepth }) }) s
  (List.range 64).foldl (fun (s : State) n => s.updCore n (im.coreFor n)) s

/-- R262: a tensor that was not sealed when the module stopped is deleted and logged; another is mapped again. A deletion takes 1 µs, so
that R475 does not count the record of the next one in its own (log entry 93). -/
def State.mountTensor (s : State) (key : Nat) : State :=
  let t := s.t2At key
  let tn := keyTenant key
  match t.state with
  | .absent => s
  | .sealed => s.mapBig tn t.va false (fun i => .tier2 (nth t.pages i) key) (List.range t.pages.length)
  | .damaged => s.mapBig tn t.va false (fun i => .tier2 (nth t.pages i) key) (List.range t.pages.length)
  | _ =>
    let s := s.updTenant tn (fun x => { x with use2 := x.use2 - t.pages.length })
    { s with now := s.now + 1000 }.setT2 key T2Tensor.none |>.logAs 0x0D 0 0x0050 1 (some tn) [(3, key % 2 ^ 24), (1, t.state.code)]

/-- The place and class that the image's directory gives a tier-2 tensor. -/
def State.placeTensor (s : State) (key : Nat) : State :=
  match s.t2Named (keyTenant key) (key % 2 ^ 24) with
  | some r => s.updT2 key (fun t => { t with va := r.va, cls := r.cls })
  | Option.none => s

/-- Tier 2 mounted (R262, R263). -/
def State.mountTier2 (s : State) : State :=
  let keys := s.t2.map (·.1)
  let s := keys.foldl (fun (s : State) k => (s.placeTensor k).mountTensor k) s
  { s with tiers := { s.tiers with mounted := true } }

/-- A pending image becomes the committed one; the fused minimum rises to its security version (R437, R441). -/
def State.commitImage (s : State) : State :=
  if s.start.pending then
    let v := match s.image with
      | some im => im.secVersion
      | Option.none => 0
    let s := s.writeBoot s.start.slot 0xFF
    { s with start := { s.start with pending := false, secMin := max s.start.secMin v } }
  else s

def State.stage3 (s : State) (r : Stage3Rep) : State :=
  let s := s.enter 4
  let img := s.slotImage s.start.slot
  if !(r.window && s.startWindow) then s.failedStart 4 8
  else
    match imageFail img r.digests with
    | some e => (s.imageError e).failedStart 4 (if e.1 = 6 then 6 else 4)
    | Option.none =>
      let s := (ignoredSections img).foldl (fun (s : State) i => s.logAs 0x0E 0 0x0071 1 Option.none [(1, i), (2, 0), (1, 0)]) s
      let s := s.applyImage (readImage img)
      if !r.guest then s.failedStart 4 0x10
      else if !r.tier2 then s.failedStart 4 0x11
      else
        let s := s.mountTier2
        let s := { s with
          guest := { s.guest with phase := 3 }
          gl := { s.gl with mstate := 2 }
          start := { s.start with done := true } }
        let s := s.trainHosts r.hosts
        let s := (List.range 18).foldl (fun (s : State) p => s.beginTraining p) s
        s.commitImage.eraseNextCrumb.askJoin

end Sys2Proof.Machine
end

