-- ==== Sys2Proof/Machine/PowerOps.lean ====
section
/-!
DEFINITION. The power and thermal controller: samples (R457), the input (R456) and the levels of R460.
-/

namespace Sys2Proof.Machine

/-! ### Samples (R457) -/

def State.updPm (s : State) (f : PmSt → PmSt) : State := { s with pm := f s.pm }

/-- A sensor is failed: logged; a die without a plausible sensor left is a module fault. -/
def State.failSensor (s : State) (i : Nat) : State :=
  let x := s.pm.sensor i
  if x.failed then s
  else
    let s := s.updPm (fun p => { p with sensors := Sp.set Sensor.reset p.sensors i { x with failed := true } })
    if decide (i < 74) && (sensorGroup i).all (fun k => (s.pm.sensor k).failed) then s.moduleFault else s

/-- Signed argument of a log record. -/
def logInt (v : Int) : Nat := toBits 32 v

/-- One sample of a sensor. -/
def State.sample (s : State) (i : Nat) (v : Int) : State :=
  let x := s.pm.sensor i
  if x.failed then s
  else if x.plausible i v then
    s.updPm (fun p => { p with sensors := Sp.set Sensor.reset p.sensors i { x with good := (v :: x.good).take 8, bad := 0 } })
  else
    let s := s.updPm (fun p => { p with sensors := Sp.set Sensor.reset p.sensors i { x with bad := x.bad + 1 } })
    if x.bad + 1 < 8 then s
    else (s.logAs 0x0B 0 0x0060 2 none [(1, sensorInput i), (4, logInt v), (4, logInt (median x.good))]).failSensor i

/-! ### Levels (R460) -/

/-- Average input power of the last 100 ms, in W. -/
def PmSt.p100 (p : PmSt) : Nat := p.powers.foldl (· + ·) 0 / max 1 p.powers.length

/-- Whether something has held since `t` for `d` ns. -/
def heldFor (t : Option Nat) (now d : Nat) : Bool :=
  match t with
  | some a => decide (a + d ≤ now)
  | none => false

/-- The time from which a condition holds. -/
def since (t : Option Nat) (now : Nat) (c : Bool) : Option Nat := if c then some (t.getD now) else none

/-- The level whose entry condition holds. -/
def PmSt.wanted (p : PmSt) (now : Nat) : Nat :=
  let t := p.tMax
  if 1100 ≤ t then 4
  else if 1050 ≤ t then 3
  else if 1000 ≤ t ∨ heldFor p.hot now 1000000000 = true then 2
  else if 950 ≤ t ∨ 2000 < p.p100 ∨ 450 < p.reading 74 ∨ p.vinBad = true then 1
  else 0

/-- Threshold of a level, in 0.1 °C. -/
def levelTemp : Nat → Int
  | 1 => 950
  | 2 => 1000
  | 3 => 1050
  | _ => 1100

/-- Stretch exponent of a level. -/
def levelStretch (l : Nat) : Nat := l - 1

/-- A new level: logged; the cap and the stretch factor follow. -/
def State.setLevel (s : State) (l : Nat) : State :=
  let old := s.pm.level
  if l = old then s
  else
    let t := s.pm.tMax
    let s := s.settleCredit.updPm (fun p => { p with level := l, leave := none, hot := none })
    let s := { s with beats := { s.beats with stretchNext := levelStretch l } }
    let s := if old = 0 then s.suspendBallast else if l = 0 then s.resumeBallast else s
    s.logAs 0x0B 0 0x0062 (if old < l then 2 else 0) none [(1, old), (1, l), (1, toBits 8 (t / 10)), (2, s.pm.watts)]

/-- The levels judged: entered at once, left one at a time after 10 ms. -/
def State.judge (s : State) : State :=
  let s := s.updPm (fun p => { p with hot := since p.hot s.now (p.level == 1 && decide (2000 < p.p100)) })
  let p := s.pm
  let w := p.wanted s.now
  if p.level < w then s.setLevel w
  else
    let cool := decide (0 < p.level) && decide (w < p.level) && decide (p.tMax + 50 ≤ levelTemp p.level) && decide (p.p100 ≤ 2000)
    let l := since p.leave s.now cool
    if heldFor l s.now 10000000 then s.setLevel (p.level - 1) else s.updPm (fun p => { p with leave := l })

/-- A thermal trip: a module fault, and the module stays in reset until T is below 85 °C. -/
def State.trip (s : State) : State := (s.updPm (fun p => { p with tripHold := true })).moduleFault

/-- Power of the millisecond that ends, from the last plausible samples. -/
def PmSt.wattsNow (p : PmSt) : Nat := (((p.sensor 76).good.headD 0) * ((p.sensor 77).good.headD 0) / 1000000).toNat

/-- What the controller makes of a round of samples. -/
def State.control (s : State) : State :=
  let w := s.pm.wattsNow
  let s := s.updPm (fun p => { p with
    watts := min w 65535, peak := max p.peak (min w 65535), powers := (w :: p.powers).take 100
    vin := (p.reading 76).toNat / 10, surge := since p.surge s.now (decide (2400 < w)) })
  let s := if s.pm.reading 74 < 200 ∧ (s.pm.sensor 74).good ≠ [] then
      s.logAs 0x0B 0 0x0060 2 none [(1, 9), (4, logInt (s.pm.reading 74)), (4, 200)] else s
  if 1150 ≤ s.pm.tMax ∨ heldFor s.pm.surge s.now 10000000 = true then s.trip else s.judge

/-- The trip hold ends below 85 °C, and the start begins. -/
def State.endTrip (s : State) : State :=
  if s.pm.tMax < 850 then
    let s := s.updPm (fun p => { p with tripHold := false })
    if s.start.hold = .trip then s.beginStart s.start.cause else s
  else s

/-- SENSOR_SAMPLE (R457): every 1 ms. In a trip hold only the hold is judged. -/
def execSensorSample (readings : Readings) (s : State) : Out :=
  if s.start.pwrGood = false ∧ s.start.hold ≠ .trip then .next s
  else
    let s := s.advanceTo ((s.now / 1000000 + 1) * 1000000)
    let s := (readings.filter (fun r => decide (r.1 < 78))).foldl (fun (s : State) r => s.sample r.1 r.2) s
    if s.start.hold = .trip then .next s.endTrip
    else if s.sealRun.isSome then .next s
    else .next s.control

/-! ### The input (R456) -/

/-- INPUT_SAMPLE (R456, R489): every 10 µs the input voltage in mV, and a rail outside ±3 % of its set point with its value and limit. -/
def execInputSample (mv : Nat) (rail : Option (Int × Int)) (s : State) : Out :=
  if s.start.pwrGood = false then .next s
  else
    let s := s.advanceTo ((s.now / 10000 + 1) * 10000)
    let out := decide (mv < 48000) || decide (60000 < mv)
    let s := s.updPm (fun p => { p with
      vinLow := since p.vinLow s.now (decide (mv < 45000)), vinHigh := since p.vinHigh s.now (decide (62000 < mv))
      vinOut := since p.vinOut s.now out, railOut := since p.railOut s.now rail.isSome, vinBad := p.vinBad && out })
    if heldFor s.pm.vinLow s.now 10000 || heldFor s.pm.vinHigh s.now 10000 then .next (s.powerLoss .power)
    else if s.sealRun.isSome then .next s
    else
      let s := if heldFor s.pm.vinOut s.now 1000000 && !s.pm.vinBad then
          ((s.updPm (fun p => { p with vinBad := true })).logAs 0x0B 0 0x0060 2 none
            [(1, 1), (4, mv), (4, if mv < 48000 then 48000 else 60000)]).judge
        else s
      match rail with
      | some r =>
        if heldFor s.pm.railOut s.now 100000 then
          .next (s.logAs 0x0B 0 0x0060 2 none [(1, 2), (4, logInt r.1), (4, logInt r.2)]).moduleFault
        else .next s
      | none => .next s

end Sys2Proof.Machine
end

