-- ==== Sys2Proof/Machine/Watch.lean ====
section
/-!
DEFINITION. Commands of watching, takeover, firmware change and self-test (R459, R462, R467, R470 to R472).
-/

namespace Sys2Proof.Machine

/-- WATCH_ACK_TIMEOUT (R459): a record unacknowledged for 50 ms; the watcher is lost. -/
def execWatchAckTimeout (s : State) : Out :=
  match s.gl.watcher, s.watchOut with
  | some w, _ :: _ => .next ((s.logTimeout 21 (s.now - 50000000)).dropWatcher w)
  | _, _ => .next s

/-- TAKEOVER_TIMEOUT (R459): 5 s from the declaration; logged, and the activation continues. -/
def execTakeoverTimeout (s : State) : Out :=
  match s.watch.takeover with
  | some (_, t) => .next (s.expire 22 t 5000000000)
  | none => .next s

/-! ### Firmware change by takeover (R470) -/

/-- The module leaves and resets for takeover. -/
def State.leaveReset (s : State) : State := { s with linkOut := s.linkOut ++ [LinkOut.leave] }.moduleReset 6

/-- A planned takeover is decided: a spare that watches nothing resets at once; another module waits. -/
def State.planLeave (s : State) : State :=
  if s.gl.mstate = 3 ∧ s.gl.watches = [] then s.moduleReset 6
  else if s.gl.mstate = 3 ∨ s.gl.mstate = 4 then { s with watch := { s.watch with planned := some s.now, edecs := [] } }
  else s

/-- Whether a planned takeover may go on now: a spare once it watches nothing, an active module once the EDEC of some step has been
acknowledged for every job it holds. -/
def State.planReady (s : State) : Bool :=
  s.watch.planned.isSome &&
    ((s.gl.mstate == 3 && s.gl.watches.isEmpty) ||
     (s.gl.mstate == 4 && s.jobs.all (fun j => j.2.life == .none || s.watch.edecs.contains j.2.info.job)))

/-- At a beat start a planned takeover that is ready happens. -/
def State.planBeat (s : State) : State :=
  if s.planReady then (if s.gl.mstate = 4 then s.leaveReset else s.moduleReset 6) else s

/-- PLANNED_TAKEOVER_TIMEOUT (R459, R470): an active module leaves 10 s after the image was closed. -/
def execPlannedTakeoverTimeout (s : State) : Out :=
  match s.watch.planned with
  | some t => if s.gl.mstate = 4 then .next ((s.expire 24 t 10000000000).leaveReset) else .next s
  | none => .next s

/-! ### Full-module test (R471 request 0x5, R472) -/

/-- The test begins: every core drains. -/
def State.beginTest (s : State) : State :=
  (List.range 64).foldl (fun (s : State) n => s.drainCore n) { s with watch := { s.watch with testing := true } }

/-- A test is ordered: a spare that watches nothing begins it; another module first leaves, as for a planned takeover. -/
def State.orderTest (s : State) : State :=
  if s.watch.testing then s
  else if s.gl.mstate = 3 ∧ s.gl.watches = [] then s.beginTest
  else if s.watch.mustTest then s
  else { s with watch := { s.watch with mustTest := true } }.planLeave

/-- FULL_MODULE_TEST (R472). -/
def execFullModuleTest (s : State) : Out := .next s.orderTest

/-- R476 0x0080: a request, its channel or port, and whether it failed. -/
def State.logService (s : State) (req place : Nat) (fail : Bool) : State :=
  s.logAs 0 0 0x0080 (if fail then 2 else 0) none [(1, req), (1, place), (1, b2n fail)]

/-- FULL_MODULE_TEST_COMPLETE: the cores resume; a failure keeps the module out of watch assignment. -/
def execFullModuleTestComplete (ok : Bool) (s : State) : Out :=
  if s.watch.testing then
    let s := { s with watch := { s.watch with testing := false, mustTest := false, failed := !ok } }
    .next (((List.range 64).foldl (fun (s : State) n => s.resumeCore n) s).logService 5 0 (!ok))
  else .next s

end Sys2Proof.Machine
end

