-- ==== Sys2Proof/Machine/Beat.lean ====
section
/-!
DEFINITION. BEAT_START (R26, R91, R94 to R96, R460, R461) with what comes about at it: overrun records, bank switches, maintenance
visits of channels (R213, R214) and links (R346, R347), and service requests (R471).
-/

namespace Sys2Proof.Machine

/-! ### Work that fits in a visit -/

/-- Steps run in order while the rest of the beat holds them: those that run, those carried, and the time that remains. -/
def fitSteps (dur : Nat → Nat) : List Nat → Nat → List Nat × List Nat × Nat
  | [], t => ([], [], t)
  | x :: xs, t =>
    if dur x ≤ t then
      let r := fitSteps dur xs (t - dur x)
      (x :: r.1, r.2.1, r.2.2)
    else
      let r := fitSteps dur xs t
      (r.1, x :: r.2.1, r.2.2)

/-- Carried steps come ahead of the visit's own. -/
def withCarried (carried own : List Nat) : List Nat := carried ++ own.filter (fun x => !carried.contains x)

/-! ### Service requests (R471) -/

/-- A request of 0x1 to 0x3 that failed; the second within 24 h raises the full-module test. -/
def State.serviceFault (s : State) : State :=
  let l := s.watch.faults.filter (fun t => decide (s.now - t < 86400000000000)) ++ [s.now]
  let s := { s with watch := { s.watch with faults := l } }
  if 2 ≤ l.length then s.orderTest else s

/-! ### Channels (R213, R214) -/

/-- A channel step's number is its order in R213; a request of code c is 16 + c. Durations in ns. -/
def chanDur : Nat → Nat
  | 1 => 100
  | 2 => 1100
  | 4 => 2000
  | 5 => 2000
  | 6 => 1500
  | 17 => 1500
  | 18 => 2000
  | _ => 0

/-- A drift retrain is due: a rank's temperature code moved by two or more steps since the last write leveling. -/
def ChSt.drift (c : ChSt) : Bool := (List.range 4).any (fun r =>
  let a := c.temp.getD r 0
  let b := c.baseTemp.getD r 0
  decide (b + 2 ≤ a) || decide (a + 2 ≤ b))

/-- The steps of a visit before patrol scrub. -/
def ChSt.plan (c : ChSt) : List Nat :=
  withCarried c.carried ([1, 2] ++ c.reqs.map (16 + ·) ++
    (if c.visits % 4 = 1 ∨ c.drift = true then [4] else []) ++ (if c.visits % 4 = 3 ∨ c.drift = true then [5] else []) ++
    (if c.visits % 4 = 0 then [6] else []))

/-- The order number that record 0x0013 shows. -/
def stepNo (x : Nat) : Nat := if 16 ≤ x then 3 else x

/-- The outcome of a training step: repeated at the next visit, and at the third failure in a row a module fault (R219). -/
def State.trainResult (s : State) (d ch x : Nat) (fail : Bool) : State :=
  if fail then
    let n := Sp.get 0 ((s.mcOf d).chan ch).fails x + 1
    let s := s.updChan d ch (fun c => { c with fails := Sp.set 0 c.fails x n, carried := c.carried ++ [x] })
    let s := s.logAs 2 (mcInst d ch) 0x0013 2 none [(1, ch), (1, stepNo x)]
    if 3 ≤ n then s.moduleFault else s
  else s.updChan d ch (fun c => { c with fails := Sp.set 0 c.fails x 0 })

/-- One step of a visit that fits. -/
def State.chanStep (s : State) (d ch : Nat) (r : ChanVisit) (x : Nat) : State :=
  if x = 1 then s.updChan d ch (fun c => c.readTemps r.temps)
  else if x = 17 then
    let s := (s.updChan d ch (fun c => { c with reqs := c.reqs.erase 1 })).logService 1 ch (r.service.contains 1)
    if r.service.contains 1 then s.serviceFault.moduleFault else s
  else if x = 18 then
    let bad := r.service.contains 2
    let s := (s.updChan d ch (fun c => { c with reqs := c.reqs.erase 2 })).logService 2 ch bad
    let s := (if bad then s.serviceFault else s).trainResult d ch 18 bad
    if bad then s else s.updChan d ch (fun c => { c with baseTemp := c.temp })
  else
    let s := s.trainResult d ch x (r.failed.contains x)
    if x = 4 ∧ r.failed.contains 4 = false then s.updChan d ch (fun c => { c with baseTemp := c.temp }) else s

/-- Bursts of data slots in a channel (R199, R214). -/
def chanBursts : Nat := 251658240

/-- Patrol scrub skips a quarantined page (R217) and a page listed at start (R220). -/
def State.scrubSkips (s : State) (a : Nat) : Bool := s.quarantined a || (s.mcOf (dieOf a)).startList.contains (a / pageSize)

/-- The bursts of a scrub whose cells show an error, as the visit's outcomes are given: place from the channel's start, and outcome. -/
def State.scrubErrs (s : State) (d ch at0 n : Nat) : List (Nat × Ecc) :=
  (s.mcOf d).errs.filterMap (fun e =>
    let a := 64 * e.1
    let q := at0 + (chanOffset a / 64 + chanBursts - at0) % chanBursts
    if chanOf a = ch ∧ q < at0 + n then some (q, e.2) else none)

/-- Patrol scrub of `n` bursts from where the last visit stopped: what the code word checks find, and the place to go on. -/
def State.scrub (s : State) (d ch n : Nat) (found : List (Nat × Ecc)) : State :=
  let at0 := ((s.mcOf d).chan ch).scrub
  let marked := (s.poison.filter (fun p => let a := 64 * p.1
    p.2 && dieOf a == d && chanOf a == ch && decide ((chanOffset a / 64 + chanBursts - at0) % chanBursts < n) && !s.scrubSkips a)).length
  let s := s.updMc d (fun m => { m with poisonRd := satAdd32 m.poisonRd marked })
  let s := ((found.filter (fun f => decide (at0 ≤ f.1) && decide (f.1 < at0 + n))) ++ s.scrubErrs d ch at0 n).foldl (fun (s : State) f =>
    let a := d * dieTier1 + dieOffset ch (f.1 % chanBursts * 64)
    if s.scrubSkips a || s.isPoisoned a then s
    else
      match f.2 with
      | .clean => s
      | .corrected => (s.correctable a).setErr a .clean
      | .uncorrectable => s.uncorrectable a 3) s
  s.updChan d ch (fun c => { c with scrub := (at0 + n) % chanBursts, passes := c.passes + (at0 + n) / chanBursts })

/-- A maintenance visit of the held channel of a die. -/
def State.chanVisit (s : State) (d ch : Nat) (r : ChanVisit) : State :=
  let c := (s.mcOf d).chan ch
  let w := fitSteps chanDur (c.readTemps r.temps).plan s.beatLen
  let s := s.updChan d ch (fun c => { c with
    carried := w.2.1
    visits := c.visits + 1
    caRank := if c.visits % 4 = 0 then c.visits / 4 % 4 else c.caRank
    mr97 := [0, 0, 0, 0]
    reqs := if (c.visits + 1) % 1024 = 0 then c.reqs ++ [1] else c.reqs })
  let s := s.updMc d (fun m => { m with dece := satAdd32 m.dece c.mr97.sum })
  let s := w.2.1.foldl (fun (s : State) x => s.logAs 2 (mcInst d ch) 0x0013 1 none [(1, ch), (1, stepNo x)]) s
  let s := w.1.foldl (fun (s : State) x => s.chanStep d ch r x) s
  s.scrub d ch (min 2048 (w.2.2 * 2048 / 5500)) r.scrub

/-! ### Links (R346, R347) -/

/-- The maintenance slot of a port's link: that of the plus port at its trunk position. -/
def State.linkSlot (s : State) (p : Nat) : Nat :=
  let q := s.fabPort p
  if !q.minus then q.slot
  else
    let j := (s.trunkOf p).findIdx (· == p)
    (s.fabPort ((trunk s.fabric q.dim true).getD j 31)).slot

/-- The phase of a port's link: by the coordinate of the module whose plus port it uses. -/
def State.linkPhase (s : State) (p : Nat) : Nat :=
  let q := s.fabPort p
  let n := max 1 (s.dims.getD q.dim 1)
  let x := coordOf s.dims s.self q.dim
  let y := if q.minus then (x + n - 1) % n else x
  if n % 2 = 1 ∧ y = n - 1 then 2 else y % 2

/-- Whether a port's link is held in maintenance beat `k`. -/
def State.linkHeld (s : State) (k p : Nat) : Bool :=
  !(s.fabPort p).unused && s.linkSlot p == k % 32 && s.linkPhase p == k / 32 % 3

/-- A link step's number is its order in R347; 19 is request 0x3. -/
def linkDur : Nat → Nat
  | 1 => 1000
  | 2 => 2000
  | 3 => 2000
  | 4 => 1000
  | 19 => 2000
  | _ => 0

/-- Whether an active lane asks for the spare: corrected symbols above 10^-6, or a margin below the floor. -/
def laneWeak (r : LinkVisit) (l : Nat) : Bool := decide (1000 < r.rates.getD l 0) || decide (r.eyes.getD l Config.eyeFloor < Config.eyeFloor)

/-- The active lane with the highest rate. -/
def worstRate (rates : List Nat) (lanes : List Nat) : Nat :=
  lanes.foldl (fun a l => if rates.getD a 0 < rates.getD l 0 then l else a) (lanes.headD 0)

def Port.planLink (q : Port) (r : LinkVisit) : List Nat :=
  withCarried q.carried ([1] ++ (if q.spare ≠ 15 ∧ q.lanes.any (laneWeak r) = true then [2] else []) ++ [3] ++
    (if q.visits % 4 = 3 then [4] else []) ++ (if (q.visits + 1) % 64 = 0 ∧ q.spare ≠ 15 then [19] else []))

/-- The spare is gone: the port is degraded. -/
def State.degrade (s : State) (p lane : Nat) : State :=
  (s.updPort p (fun q => { q with spare := 15, retired := q.retired ++ [lane] })).logAs 6 p 0x0023 2 none [(1, p), (1, 15), (1, lane)]

/-- Spare swap: the replaced lane becomes the spare, or is retired. -/
def State.swapSpare (s : State) (p : Nat) (r : LinkVisit) : State :=
  let q := s.port p
  if q.spare = 15 then s
  else
    let w := worstRate r.rates q.lanes
    let s := (s.setPort p { q with lanes := q.lanes.map (fun l => if l = w then q.spare else l), spare := w }).logAs 6 p 0x0023 1 none
      [(1, p), (1, q.spare), (1, w)]
    if r.eyes.getD w 0 < Config.eyeFloor then s.degrade p w else s

def State.linkStep (s : State) (p : Nat) (r : LinkVisit) (x : Nat) : State :=
  if x = 2 then s.swapSpare p r
  else if x = 4 then s.updPort p (fun q => { q with asym := r.asym })
  else if x = 19 then
    let s := s.logService 3 p r.prbs
    if r.prbs then (s.degrade p (s.port p).spare).serviceFault else s
  else s

/-- A visit of a held link. -/
def State.linkVisit (s : State) (r : LinkVisit) : State :=
  let p := r.port
  let q := s.port p
  let w := fitSteps linkDur (q.planLink r) s.beatLen
  let s := s.setPort p { q with carried := w.2.1, visits := q.visits + 1 }
  let s := w.2.1.foldl (fun (s : State) x => s.logAs 6 p 0x0013 1 none [(1, p), (1, if x = 19 then 3 else x)]) s
  w.1.foldl (fun (s : State) x => s.linkStep p r x) s

/-! ### Cores -/

/-- The overrun records of the beats behind the one that ends up to `b`, which begins (R91): of the scheduled programs whose tick
is still in progress. -/
def State.overruns (s : State) (b n : Nat) : State :=
  ((s.core n).ctxs.filter (fun x => x.2.inTick)).foldl (fun (s : State) x => s.overrunTo n x.1 s.beats.beat b) s

/-- A core at a beat start: a pending bank switch (R84), and the slot table from its beginning. -/
def State.coreBeat (s : State) (n : Nat) : State := s.updCore n (fun c => { c.takeSwitch with slot := 0 })

/-! ### The beat -/

/-- The held links of the beat that ends are free again; a maintenance beat that ends counts one visit per die (R226). -/
def State.endBeat (s : State) : State :=
  let s := if s.isMaint s.beats.beat then
      (List.range 4).foldl (fun (s : State) d => s.updMc d (fun m => { m with maintCnt := m.maintCnt + 1 })) s
    else s
  ((List.range 18).foldl (fun (s : State) p => if (s.port p).held then s.updPort p (fun q => { q with held := false }) else s) s).pumpAll

/-- Beats from the one behind `a` to `b` that a stretch factor excludes. -/
def excludedIn (st a b : Nat) : Nat := (b - a) - (b / 2 ^ st - a / 2 ^ st)

/-- The beat timer at beat `b`: its number, a new stretch factor at a multiple of 8, and the beats excluded (R460, R461, R484). -/
def State.beatNumber (s : State) (b : Nat) : State :=
  let a := s.beats.beat
  let m := min b (a / 8 * 8 + 7)
  { s.advanceTo (b * s.beatLen) with beats := { s.beats with
      beat := b, stretch := s.stretchOf b,
      excluded := s.beats.excluded + BitVec.ofNat 64 (excludedIn s.beats.stretch a m + excludedIn s.beats.stretchNext m b) } }

/-- Maintenance of beat `b` (R94, R95): a channel of each die, the links due, the sensors' cross-check. -/
def State.maintain (s : State) (b : Nat) (chans : List ChanVisit) (links : List LinkVisit) (sensors : List Nat) : State :=
  let k := b / s.maintPeriod
  let s := (List.range 4).foldl (fun (s : State) d =>
    if (s.mcOf d).ready then s.chanVisit d (k % 32) (chans.getD d ⟨[], [], [], []⟩) else s) s
  let held := (List.range 18).filter (fun p => s.linkHeld k p)
  let s := held.foldl (fun (s : State) p => s.updPort p (fun q => { q with held := true })) s
  let s := (links.filter (fun r => held.contains r.port && (s.port r.port).state == 3)).foldl (fun (s : State) r => s.linkVisit r) s
  let s := sensors.foldl (fun (s : State) i => s.failSensor i) s
  s.logService 4 0 (!sensors.isEmpty)

/-- A takeover whose activation has ended is logged as complete (R467, R476 0x0040). -/
def State.endTakeover (s : State) : State :=
  match s.watch.takeover with
  | some (x, _) =>
    let s := s.jobs.foldl (fun (s : State) j => if j.2.life = .running then s.logTakeover x s.self j.1 j.2.replayStep else s) s
    { s with watch := { s.watch with takeover := none } }
  | none => s

/-- BEAT_START: device time reaches the boundary of the next beat. The accesses that waited for the channel held until now are served
(R95). -/
def execBeatStart (chans : List ChanVisit) (links : List LinkVisit) (sensors : List Nat) (s : State) : Out :=
  if s.start.pwrGood = false then .next s
  else
    let b := max (s.beats.beat + 1) (s.now / s.beatLen)
    let s := s.endBeat
    let s := (if s.stopped then s else (List.range 64).foldl (fun (s : State) n => s.overruns b n) s).beatNumber b
    if s.stopped then .next s
    else
      let s := s.serveWaiting
      let s := (List.range 64).foldl (fun (s : State) n => s.coreBeat n) s
      let s := if s.isMaint b then s.maintain b chans links sensors else s
      .next s.endTakeover.planBeat

end Sys2Proof.Machine
end

