-- ==== Sys2Proof/Machine/Control.lean ====
section
/-!
DEFINITION. The commands of the control class and of the scalar class: one step of a sequencer each (R78, R79).
-/

namespace Sys2Proof.Machine

def execNop (core : Nat) (ecc : Ecc) (s : State) : Out := .next (s.ownStep core ecc 0 0 effNop)
def execJump (core : Nat) (ecc : Ecc) (s : State) : Out := .next (s.ownStep core ecc 0 1 effJump)
def execBranchNz (core : Nat) (ecc : Ecc) (s : State) : Out := .next (s.ownStep core ecc 0 2 effBranchNz)
def execBranchZ (core : Nat) (ecc : Ecc) (s : State) : Out := .next (s.ownStep core ecc 0 3 effBranchZ)
def execLoop (core : Nat) (ecc : Ecc) (s : State) : Out := .next (s.ownStep core ecc 0 4 effLoop)
def execLoopEnd (core : Nat) (ecc : Ecc) (s : State) : Out := .next (s.ownStep core ecc 0 5 effLoopEnd)
def execFence (core : Nat) (ecc : Ecc) (s : State) : Out := .next (s.ownStep core ecc 0 6 effFence)
def execTickEnd (core : Nat) (ecc : Ecc) (s : State) : Out := .next (s.ownStep core ecc 0 7 effTickEnd)
def execHalt (core : Nat) (ecc : Ecc) (s : State) : Out := .next (s.ownStep core ecc 0 8 effHalt)
def execReadFlags (core : Nat) (ecc : Ecc) (s : State) : Out := .next (s.ownStep core ecc 0 9 effReadFlags)
def execClearFlags (core : Nat) (ecc : Ecc) (s : State) : Out := .next (s.ownStep core ecc 0 10 effClearFlags)
def execMovi (core : Nat) (ecc : Ecc) (s : State) : Out := .next (s.ownStep core ecc 1 0 effMovi)
def execAdd (core : Nat) (ecc : Ecc) (s : State) : Out := .next (s.ownStep core ecc 1 1 effAdd)
def execSub (core : Nat) (ecc : Ecc) (s : State) : Out := .next (s.ownStep core ecc 1 2 effSub)
def execMul (core : Nat) (ecc : Ecc) (s : State) : Out := .next (s.ownStep core ecc 1 3 effMul)
def execAnd (core : Nat) (ecc : Ecc) (s : State) : Out := .next (s.ownStep core ecc 1 4 effAnd)
def execOr (core : Nat) (ecc : Ecc) (s : State) : Out := .next (s.ownStep core ecc 1 5 effOr)
def execXor (core : Nat) (ecc : Ecc) (s : State) : Out := .next (s.ownStep core ecc 1 6 effXor)
def execShl (core : Nat) (ecc : Ecc) (s : State) : Out := .next (s.ownStep core ecc 1 7 effShl)
def execShr (core : Nat) (ecc : Ecc) (s : State) : Out := .next (s.ownStep core ecc 1 8 effShr)
def execSltu (core : Nat) (ecc : Ecc) (s : State) : Out := .next (s.ownStep core ecc 1 9 effSltu)
def execAddi (core : Nat) (ecc : Ecc) (s : State) : Out := .next (s.ownStep core ecc 1 10 effAddi)

end Sys2Proof.Machine
end

