-- ==== Sys2Proof/Machine/Engine.lean ====
section
/-!
DEFINITION. Engine queues: dispatch, wait groups and acceptance (R72, R73, R76, R166, R169).
-/

namespace Sys2Proof.Machine

/-- Whether an engine can take an instruction of context `k` now. -/
def State.engReady (s : State) (n k : Nat) (e : Eng) (w : IWord) (ring : Option Entry) : Bool :=
  match e with
  | .mx => (s.ctx n k).mxReady w
  | .st => (s.ctx n k).st.isNone
  | .ob => s.obReady n k w ring
  | .ve => true
  | .pe => true

/-- What an engine does with an instruction it takes. `ring` is the entry that HQ_TAKE reads from the host's ring. -/
def State.engEffect (s : State) (n k : Nat) (e : Eng) (w : IWord) (ring : Option Entry) : State :=
  match e with
  | .mx => s.mxAccept n k w
  | .ve => s.veAccept n k w
  | .st => s.stAccept n k w
  | .pe => s.peTake n k w
  | .ob => s.obAccept n k w ring

/-- Whether the head of an engine's queue can be taken: its wait group is set and the engine is ready. -/
def State.headReady (s : State) (n k : Nat) (e : Eng) (ring : Option Entry) : Bool :=
  match (s.ctx n k).queue e with
  | [] => false
  | w :: _ => decide ((s.core n).waitState k w ≠ .held) && (decide ((s.core n).waitState k w = .poisoned) || s.engReady n k e w ring)

/-- The head of an engine's queue is taken (R76, R169); a poisoned wait group stops the context. -/
def State.acceptHead (s : State) (n k : Nat) (e : Eng) (ring : Option Entry) : State :=
  match (s.ctx n k).queue e with
  | [] => s
  | w :: _ =>
    match (s.core n).waitState k w with
    | .held => s
    | .poisoned => s.poisonStop n k w.waitGroup
    | .ready => if s.engReady n k e w ring then (s.updCtx n k (·.popQueue e)).engEffect n k e w ring else s

/-- R72: an instruction put into its engine's queue, or held in the sequencer while the queue of 8 is full; an idle
engine takes it at once. -/
def effDispatch (e : Eng) (ring : Option Entry) (s : State) (n k : Nat) (w : IWord) : State :=
  let x := s.ctx n k
  let q := x.queue e
  if 8 ≤ q.length then s.setCtx n k { x with hold := .full }
  else
    let s := s.setCtx n k { x.setQueue e (q ++ [w]) with pc := x.pc + 1 }
    if q.isEmpty then s.acceptHead n k e ring else s

/-- A step that concerns one instruction of an engine class: the engine takes it from the head of its queue, or the
sequencer dispatches it. -/
def State.engStep (s : State) (n : Nat) (ecc : Ecc) (e : Eng) (cls opc : Nat) (ring : Option Entry) : State :=
  match (s.core n).running with
  | none => s
  | some k =>
    match (s.ctx n k).queue e with
    | w :: _ =>
      if w.cls = cls ∧ w.opc = opc ∧ s.headReady n k e ring = true ∧ s.stopped = false then s.acceptHead n k e ring
      else s.seqStep n ecc cls opc (effDispatch e ring)
    | [] => s.seqStep n ecc cls opc (effDispatch e ring)

/-- ENGINE_DISPATCH (R72): the sequencer, stalled on a full queue, dispatches when there is room. -/
def execEngineDispatch (core : Nat) (s : State) : Out :=
  match (s.core core).running with
  | none => .next s
  | some k =>
    let x := s.ctx core k
    if x.hold = .full ∧ s.stopped = false then
      let w := (s.core core).word (s.core core).active (x.prog.start + x.pc)
      match engOfClass w.cls with
      | none => .next s
      | some e =>
        if (x.queue e).length < 8 then .next (effDispatch e none (s.setCtx core k { x with hold := .none }) core k w)
        else .next s
    else .next s

/-- WAIT_GROUP_RELEASE (R166, R169): the head of an engine's queue, or the sequencer's own instruction, goes on. -/
def execWaitGroupRelease (core : Nat) (eng : Option Eng) (s : State) : Out :=
  match eng with
  | none => .next (s.releaseSeq core)
  | some e =>
    match (s.core core).running with
    | none => .next s
    | some k => if s.stopped then .next s else .next (s.acceptHead core k e none)

/-! ### Matrix, vector, stream and Pea instructions -/

def execTseq (core : Nat) (ecc : Ecc) (s : State) : Out := .next (s.engStep core ecc .mx 2 0x00 none)
def execTseqConv (core : Nat) (ecc : Ecc) (s : State) : Out := .next (s.engStep core ecc .mx 2 0x01 none)
def execConvSet (core : Nat) (ecc : Ecc) (s : State) : Out := .next (s.engStep core ecc .mx 3 0x00 none)
def execVsetsave (core : Nat) (ecc : Ecc) (s : State) : Out := .next (s.engStep core ecc .ve 4 0x00 none)
def execVsrSet (core : Nat) (ecc : Ecc) (s : State) : Out := .next (s.engStep core ecc .ve 4 0x01 none)
def execVload (core : Nat) (ecc : Ecc) (s : State) : Out := .next (s.engStep core ecc .ve 4 0x02 none)
def execVstore (core : Nat) (ecc : Ecc) (s : State) : Out := .next (s.engStep core ecc .ve 4 0x03 none)
def execVadd (core : Nat) (ecc : Ecc) (s : State) : Out := .next (s.engStep core ecc .ve 4 0x10 none)
def execVsub (core : Nat) (ecc : Ecc) (s : State) : Out := .next (s.engStep core ecc .ve 4 0x11 none)
def execVmul (core : Nat) (ecc : Ecc) (s : State) : Out := .next (s.engStep core ecc .ve 4 0x12 none)
def execVfma (core : Nat) (ecc : Ecc) (s : State) : Out := .next (s.engStep core ecc .ve 4 0x13 none)
def execVmax (core : Nat) (ecc : Ecc) (s : State) : Out := .next (s.engStep core ecc .ve 4 0x14 none)
def execVmin (core : Nat) (ecc : Ecc) (s : State) : Out := .next (s.engStep core ecc .ve 4 0x15 none)
def execVabs (core : Nat) (ecc : Ecc) (s : State) : Out := .next (s.engStep core ecc .ve 4 0x16 none)
def execVneg (core : Nat) (ecc : Ecc) (s : State) : Out := .next (s.engStep core ecc .ve 4 0x17 none)
def execVcopy (core : Nat) (ecc : Ecc) (s : State) : Out := .next (s.engStep core ecc .ve 4 0x18 none)
def execVtrans (core : Nat) (ecc : Ecc) (s : State) : Out := .next (s.engStep core ecc .ve 4 0x19 none)
def execVdrop (core : Nat) (ecc : Ecc) (s : State) : Out := .next (s.engStep core ecc .ve 4 0x1A none)
def execVrcp (core : Nat) (ecc : Ecc) (s : State) : Out := .next (s.engStep core ecc .ve 4 0x20 none)
def execVrsqrt (core : Nat) (ecc : Ecc) (s : State) : Out := .next (s.engStep core ecc .ve 4 0x21 none)
def execVsqrt (core : Nat) (ecc : Ecc) (s : State) : Out := .next (s.engStep core ecc .ve 4 0x22 none)
def execVexp (core : Nat) (ecc : Ecc) (s : State) : Out := .next (s.engStep core ecc .ve 4 0x23 none)
def execVexp2 (core : Nat) (ecc : Ecc) (s : State) : Out := .next (s.engStep core ecc .ve 4 0x24 none)
def execVlog2 (core : Nat) (ecc : Ecc) (s : State) : Out := .next (s.engStep core ecc .ve 4 0x25 none)
def execVtanh (core : Nat) (ecc : Ecc) (s : State) : Out := .next (s.engStep core ecc .ve 4 0x26 none)
def execVsigmoid (core : Nat) (ecc : Ecc) (s : State) : Out := .next (s.engStep core ecc .ve 4 0x27 none)
def execVsin (core : Nat) (ecc : Ecc) (s : State) : Out := .next (s.engStep core ecc .ve 4 0x28 none)
def execVcos (core : Nat) (ecc : Ecc) (s : State) : Out := .next (s.engStep core ecc .ve 4 0x29 none)
def execVrsum (core : Nat) (ecc : Ecc) (s : State) : Out := .next (s.engStep core ecc .ve 4 0x30 none)
def execVrsumsq (core : Nat) (ecc : Ecc) (s : State) : Out := .next (s.engStep core ecc .ve 4 0x31 none)
def execVrmax (core : Nat) (ecc : Ecc) (s : State) : Out := .next (s.engStep core ecc .ve 4 0x32 none)
def execVcsum (core : Nat) (ecc : Ecc) (s : State) : Out := .next (s.engStep core ecc .ve 4 0x33 none)
def execVcsumsq (core : Nat) (ecc : Ecc) (s : State) : Out := .next (s.engStep core ecc .ve 4 0x34 none)
def execVcmax (core : Nat) (ecc : Ecc) (s : State) : Out := .next (s.engStep core ecc .ve 4 0x35 none)
def execFarm (core : Nat) (ecc : Ecc) (s : State) : Out := .next (s.engStep core ecc .st 5 0x01 none)
def execSxfer (core : Nat) (ecc : Ecc) (s : State) : Out := .next (s.engStep core ecc .st 5 0x00 none)
def execPeaPut (core : Nat) (ecc : Ecc) (s : State) : Out := .next (s.engStep core ecc .pe 6 0x00 none)
def execPeaGet (core : Nat) (ecc : Ecc) (s : State) : Out := .next (s.engStep core ecc .pe 6 0x01 none)
def execPeaAdd (core : Nat) (ecc : Ecc) (s : State) : Out := .next (s.engStep core ecc .pe 6 0x02 none)

/-! ### The outbound queue -/

def execTbList (core : Nat) (ecc : Ecc) (s : State) : Out := .next (s.engStep core ecc .ob 7 0x00 none)
def execGather (core : Nat) (ecc : Ecc) (s : State) : Out := .next (s.engStep core ecc .ob 8 0x00 none)
def execRscat (core : Nat) (ecc : Ecc) (s : State) : Out := .next (s.engStep core ecc .ob 8 0x01 none)
def execAllred (core : Nat) (ecc : Ecc) (s : State) : Out := .next (s.engStep core ecc .ob 8 0x02 none)
def execPerm (core : Nat) (ecc : Ecc) (s : State) : Out := .next (s.engStep core ecc .ob 8 0x03 none)
def execHqPost (core : Nat) (ecc : Ecc) (s : State) : Out := .next (s.engStep core ecc .ob 9 0x00 none)
/-- HQ_TAKE: `entry` is what the ring in host memory holds at the next index. -/
def execHqTake (core : Nat) (ecc : Ecc) (entry : Entry) (s : State) : Out := .next (s.engStep core ecc .ob 9 0x01 (some entry))
def execUpdStep (core : Nat) (ecc : Ecc) (s : State) : Out := .next (s.engStep core ecc .ob 10 0x00 none)
def execUpdSnap (core : Nat) (ecc : Ecc) (s : State) : Out := .next (s.engStep core ecc .ob 10 0x01 none)
def execUpdApply (core : Nat) (ecc : Ecc) (s : State) : Out := .next (s.engStep core ecc .ob 10 0x02 none)
def execUpdAdvance (core : Nat) (ecc : Ecc) (s : State) : Out := .next (s.engStep core ecc .ob 10 0x03 none)

/-- HQ_RESUME (R411): a waiting HQ_POST or HQ_TAKE at the head of the outbound queue goes on; `entry` is what the ring
holds at the next index. -/
def execHqResume (core : Nat) (entry : Entry) (s : State) : Out :=
  match (s.core core).running with
  | none => .next s
  | some k =>
    match (s.ctx core k).qob with
    | w :: _ => if w.cls = 9 ∧ s.stopped = false then .next (s.acceptHead core k .ob (some entry)) else .next s
    | [] => .next s

/-! ### Progress of transfers (R176, R188, R189) -/

def execChunkArrival (core : Nat) (s : State) : Out :=
  match s.moving core with
  | none => .next s
  | some (k, t) => .next (s.chunkStep core k t).settle.pumpRelease

def execTransferSuspend (core : Nat) (s : State) : Out :=
  match s.moving core with
  | none => .next s
  | some (k, t) => .next (s.suspendStep core k t).settle.pumpRelease

end Sys2Proof.Machine
end

