-- ==== Sys2Proof/Machine/Guest.lean ====
section
/-!
DEFINITION. The firewall in front of the guest die (R425 to R427): the checks of its messages, retries, and guest resets.
-/

namespace Sys2Proof.Machine

/-- Guest resets of the last 10 minutes of device time. -/
def State.guestResets (s : State) : List Nat := s.guest.resets.filter (fun t => decide (s.now - t < 600000000000))

/-- R476 0x0072. -/
def State.logFirewall (s : State) (check : Nat) : State :=
  s.logAs 0x0A 0 0x0072 2 none [(1, check), (1, s.guestResets.length)]

/-- A guest reset (R427); the third within 10 minutes is a module fault. -/
def State.guestReset (s : State) (check : Nat) : State :=
  let rs := s.guestResets ++ [s.now]
  let s := { s with guest := { s.guest with phase := 1, armed := s.now, resets := rs, badWin := 0, badCount := 0 } }
  let s := s.logFirewall check
  if 3 ≤ rs.length then s.moduleFault else s

def State.dropGCmd (s : State) (tag : Nat) : State := { s with guest := { s.guest with cmds := s.guest.cmds.filter (fun c => c.tag != tag) } }

/-- The tier-2 tensor that holds a physical address. -/
def State.t2KeyAt (s : State) (addr : Nat) : Option Nat :=
  (s.t2.find? (fun t => t.2.pages.contains ((addr - tier2Base) / pageSize))).map (·.1)

/-- A command that fails for good (R426): a read is delivered poisoned, a write or seal completes with status 0x08, a copy stops. -/
def State.guestFail (s : State) (c : GCmd) : State :=
  let s := s.dropGCmd c.tag
  match c.kind with
  | .read n a len => s.fetched n (true, c.tag) (a % 64) (zeros len) (allBursts (a % 64) len)
  | .listRead l a len => s.listFetched l (true, c.tag) (a % 64) (zeros len) (allBursts (a % 64) len)
  | .write tn e => s.t2Stored tn e false
  | .seal key => s.sealCommit key false
  | .copy _ => s.stopPromotion

/-- The command sent again; its time counts from now. -/
def State.guestRetry (s : State) (c : GCmd) : State :=
  { s with guest := { s.guest with cmds := s.guest.cmds.map (fun (x : GCmd) =>
      if x.tag = c.tag then { x with armed := s.now, retried := true } else x) } }

/-- Retried once, then completed. -/
def State.guestAgain (s : State) (c : GCmd) : State := if c.retried then s.guestFail c else s.guestRetry c

/-- Whether kind and length of a message are what the command asked for. -/
def GKind.fits (k : GKind) (m : GMsg) : Bool :=
  match k, m with
  | .read _ _ len, .data bs _ => bs.length == len
  | .listRead _ _ len, .data bs _ => bs.length == len
  | .write _ _, .wrote _ => true
  | .seal _, .committed _ => true
  | .copy _, .copied _ => true
  | _, _ => false

/-- Bursts that the guest could not correct are logged, and damage the tensor (R261). -/
def State.guestBad (s : State) (a : Nat) (bad : List Nat) : State :=
  if bad = [] then s
  else
    match s.t2KeyAt a with
    | some k => (s.logFirewall 4).t2Damage k
    | none => s.logFirewall 4

/-- An answer delivered; the bursts that the guest could not correct are poisoned (R261). -/
def State.guestDeliver (s : State) (c : GCmd) (m : GMsg) : State :=
  match c.kind, m with
  | .read n a _, .data bs bad => ((s.dropGCmd c.tag).fetched n (true, c.tag) (a % 64) bs bad).guestBad a bad
  | .listRead l a _, .data bs bad => ((s.dropGCmd c.tag).listFetched l (true, c.tag) (a % 64) bs bad).guestBad a bad
  | .write tn e, .wrote ok => (s.dropGCmd c.tag).t2Stored tn e ok
  | .seal key, .committed ok => s.sealCommit key ok
  | .copy key, .copied bad => if bad then ((s.dropGCmd c.tag).logFirewall 4).t2Damage key else s.dropGCmd c.tag
  | _, _ => s

/-- A message without an outstanding command: discarded, logged, and counted in its window of 10 µs. -/
def State.guestStray (s : State) : State :=
  let w := s.now / 10000
  let n := if s.guest.badWin = w then s.guest.badCount + 1 else 1
  let s := { s with guest := { s.guest with badWin := w, badCount := n } }
  if 64 < n then s.guestReset 1 else s.logFirewall 1

/-- Time within which a command is to be answered, in ns. -/
def GKind.limit : GKind → Nat
  | .write _ _ => 200000000
  | .seal _ => 1000000000
  | _ => 50000000

/-- A command whose time has run out (R426, R459): retried once, then completed and the guest reset. -/
def State.guestLate (s : State) (c : GCmd) : State :=
  let s := s.expire 16 c.armed c.kind.limit
  if c.retried then (s.guestFail c).settle.pumpRelease.guestReset 3 else (s.logFirewall 3).guestRetry c

/-- GUEST_MESSAGE (R426). An answer stamped at or after the end of its command's time comes too late (R13). -/
def execGuestMessage (tag : Nat) (msg : GMsg) (s : State) : Out :=
  if s.guest.phase ≠ 3 then .next s
  else
    match s.guest.cmds.find? (fun c => c.tag == tag) with
    | none => .next s.guestStray
    | some c =>
      if c.armed + c.kind.limit ≤ s.now then .next (s.guestLate c)
      else .next (if c.kind.fits msg then s.guestDeliver c msg else (s.logFirewall 2).guestAgain c).settle.pumpRelease

/-- GUEST_COMMAND_TIMEOUT (R426, R459). -/
def execGuestCommandTimeout (tag : Nat) (s : State) : Out :=
  if s.guest.phase ≠ 3 then .next s
  else
    match s.guest.cmds.find? (fun c => c.tag == tag) with
    | none => .next s
    | some c => .next (s.guestLate c)

/-- GUEST_RESET_RELEASE (R427): 1 ms after the reset; the firmware is loaded again and the ready message awaited. -/
def execGuestResetRelease (s : State) : Out :=
  if s.guest.phase ≠ 1 then .next s
  else
    let s := s.advanceTo (s.guest.armed + 1000000)
    .next { s with guest := { s.guest with phase := 2, armed := s.now } }

/-- No ready message within 2 s (R427, R459). -/
def State.guestMute (s : State) : State := (s.expire 17 s.guest.armed 2000000000).guestReset 3

/-- GUEST_READY (R427): outstanding commands are resent once; seals among them ask for the state of tensors in Sealing. One stamped at or
after the end of its time comes too late (R13). -/
def execGuestReady (s : State) : Out :=
  if s.guest.phase ≠ 2 then .next s
  else if s.guest.armed + 2000000000 ≤ s.now then .next s.guestMute
  else .next { s with guest := { s.guest with
    phase := 3, cmds := s.guest.cmds.map (fun (c : GCmd) => { c with armed := s.now, retried := true }) } }

/-- GUEST_READY_TIMEOUT (R427, R459): counted as a further guest reset. -/
def execGuestReadyTimeout (s : State) : Out :=
  if s.guest.phase ≠ 2 then .next s else .next s.guestMute

end Sys2Proof.Machine
end

