-- ==== Sys2Proof/Machine/Interrupt.lean ====
section
/-!
DEFINITION. Interruption: when a context that holds fill time cannot proceed, and how a context is saved and restored (R92, R97 to
R101, R146).
-/

namespace Sys2Proof.Machine

/-- Whether the head of an engine's queue cannot be taken: there is none, or its wait group is not set (R92). -/
def CoreSt.headHeld (c : CoreSt) (k : Nat) (q : List IWord) : Bool :=
  match q with
  | [] => true
  | w :: _ => decide (c.waitState k w = .held)

/-- Whether the sequencer of a context cannot issue (R72, R76, R78). -/
def State.seqHeld (s : State) (n k : Nat) : Bool :=
  let c := s.core n
  let x := c.ctx k
  let w := c.word c.active (x.prog.start + x.pc)
  match x.hold with
  | .none => false
  | .wait => decide (c.waitState k w = .held)
  | .full => (engOfClass w.cls).all (fun e => decide (8 ≤ (x.queue e).length))
  | _ => !s.quiet n k

/-- Whether the outbound queue of a context cannot hand its head over: a host-queue instruction waits for room, or for an entry
(R411). -/
def State.obHeld (s : State) (n k : Nat) : Bool :=
  match (s.ctx n k).qob with
  | [] => true
  | w :: _ =>
    match (s.core n).waitState k w with
    | .held => true
    | .poisoned => false
    | .ready => !s.obReady n k w (some 0#512)

/-- R92: neither the sequencer nor any engine of a context can proceed. -/
def State.stuck (s : State) (n k : Nat) : Bool :=
  let c := s.core n
  let x := c.ctx k
  s.seqHeld n k && x.mx.isEmpty && c.headHeld k x.qmx && c.headHeld k x.qve &&
    (match x.st with
      | some t => t.susp.isSome
      | none => c.headHeld k x.qst) &&
    c.headHeld k x.qpe && s.obHeld n k

/-- FILL_YIELD (R92). -/
def execFillYield (core : Nat) (s : State) : Out :=
  let c := s.core core
  match c.run with
  | .running k true =>
    if s.stuck core k then .next (s.setCore core { c.interrupt k true with yielded := some (c.ctx k).prog.id })
    else .next s
  | _ => .next s

/-- The save area of a context (R145). -/
def State.saveBase (s : State) (n k : Nat) : Nat := sramBase n + (s.ctx n k).saveArea.getD 0

/-- R98, R100, R145, R146: the running context saved: each valid buffer, and the partial accumulators of an interrupted column
reduction, go to the save area. -/
def State.saveCtx (s : State) (n k : Nat) : State :=
  let s := s.cutVe n k
  let c := (s.core n).giveVe k
  let x := c.ctx k
  let any := x.valid.any id
  let base := s.saveBase n k
  let mem := if any then saveTiles s.mem base c.ve x.valid [0, 1, 2, 3] else s.mem
  let mem := match x.ve with
    | some r => if r.accs.isEmpty then mem else wrBytes mem (base + 147456) (r.accs.flatMap (fun a => leBytes 4 a.toNat))
    | none => mem
  let ve := { clearTiles c.ve with saves := if any then satAdd32 c.ve.saves 1 else c.ve.saves }
  { s with mem := mem }.setCore n { c.setCtx k x.saved with ve := ve }

/-- The mode that the arrays show once a context is on the core: that of its sequence (R142). -/
def MxSt.showMode (m : MxSt) (q : List MxRun) : MxSt :=
  match q with
  | r :: _ => { m with lastMode := r.mode }
  | [] => m

/-- R74, R101, R142, R146, R179: a context put on the core; its engines go on from their progress words. -/
def State.restoreCtx (s : State) (n k : Nat) (fill : Bool) : State :=
  let c := s.core n
  let x := c.ctx k
  let x := if x.inTick then x else x.beginTick (if fill then x.tickBeat else s.beats.beat + 1)
  let ve := loadTiles s.mem (s.saveBase n k) x.valid (clearTiles c.ve) [0, 1, 2, 3]
  (s.setCore n { c.setCtx k x with run := .running k fill, ve := ve, mx := c.mx.showMode x.mx,
                                   st := { c.st with tcache := [] } }).resumeVe n k

/-- CONTEXT_SAVED (R98, R104): the save completes; the core is drained, or takes what the slot gives it. -/
def execContextSaved (core : Nat) (s : State) : Out :=
  match (s.core core).run with
  | .saving k _ =>
    let pass := (s.core core).yielded
    .next (((s.saveCtx core k).updCore core (fun c => { c with run := .idle })).schedule core pass pass.isNone)
  | _ => .next s

/-- CONTEXT_RESTORED (R74, R90, R101). A context that may no longer hold the core, because its job has stopped meanwhile, does not
begin. -/
def execContextRestored (core : Nat) (s : State) : Out :=
  match (s.core core).run with
  | .restoring k f =>
    if s.mayHold core k then .next (s.restoreCtx core k f)
    else .next ((s.updCore core (fun c => { c with run := .idle })).schedule core none)
  | _ => .next s

end Sys2Proof.Machine
end

