-- ==== Sys2Proof/Machine/Mgmt.lean ====
section
/-!
DEFINITION. Management and test access: the commands of the SMBus mailbox (R454, R487, R488) and of the test access port (R429,
R430), with the SY_ start registers that STATUS reports (R455).
-/

namespace Sys2Proof.Machine

/-! ### SY_ start registers (R455) -/

/-- The reason that SY_START shows: that of the start which has failed, else that of the last failed start, from the ledger, once the
Sprout stage has read it (log entry 41). -/
def State.startReason (s : State) : Nat :=
  if s.start.reason ≠ 0 ∨ s.start.stage < 2 then s.start.reason else s.lastReasons.getD 0 0

/-- SY_START: before power-good the reason shown is 0x07 (R421). -/
def State.syStart (s : State) : Nat :=
  let waits := !s.start.pwrGood && (s.start.hold == .power || s.start.hold == .modEn)
  s.start.stage + 8 * b2n s.start.done + 256 * (if waits then 7 else s.startReason)

/-- SY_SPROUT: the reasons come from the ledger once the Sprout stage has read it. -/
def State.sySprout (s : State) : Nat :=
  let r := s.lastReasons
  b2n s.start.held * 2 ^ 24 + (if s.start.stage < 2 then 0 else r.getD 0 0 + 256 * r.getD 1 0 + 65536 * r.getD 2 0)

/-- SY_IMAGE: the image of the slot in use, once one is chosen. -/
def State.syImage (s : State) : Nat :=
  if s.start.stage < 2 then 0
  else
    let b := slotBase s.start.slot
    s.norNat (b + 4) 2 % 256 * 2 ^ 24 + s.norNat (b + 6) 2 % 256 * 65536 + b2n s.start.pending * 256 + s.start.slot

/-- SY_IMGERR. -/
def State.syImgErr (s : State) : Nat := let e := s.start.imgErr; e.1 % 256 + e.2.1 % 256 * 256 + e.2.2 % 65536 * 65536

/-! ### The FRU memory and the status lights (R487, R488, R499) -/

/-- `n` decimal digits of a number. -/
def digits : Nat → Nat → String
  | 0, _ => ""
  | n + 1, v => digits n (v / 10) ++ toString (v % 10)

/-- The serial number: UZ and ten decimal digits. -/
def Fru.serialText (f : Fru) : String := "UZ" ++ digits 10 f.serial

/-- The Data Matrix code of the label: part number, stepping and serial number. -/
def Fru.dataMatrix (f : Fru) : String := f.part ++ "/" ++ f.stepping ++ "/" ++ f.serialText

/-- What the UART console sends for a log record (R487): one line. -/
def LogRec.line (r : LogRec) : String := Config.consoleText r.bytes ++ "\n"

/-- The lines of the records that the ring holds of this run, in their order: those loaded from crumbs were sent before. -/
def State.consoleLines (s : State) : List String := ((s.log.newest 2048).filter (fun r => !r.crumb)).map LogRec.line

/-- The 7-bit address at which the SMBus target answers, and that of the FRU memory: both run from P3V3_AUX. -/
def State.smbusAddr (s : State) : Option Nat := if s.start.aux then some (0x58 + s.start.addr) else none
def State.fruAddr (s : State) : Option Nat := if s.start.aux then some (0x50 + s.start.addr) else none

/-- What a status light shows. -/
inductive Light where
  | off | lit | flashing
deriving DecidableEq, Repr

/-- Power: green, lit while PWRGD is high. The lights run from P3V3_AUX (R487). -/
def State.greenLight (s : State) : Light := if s.start.aux && s.start.pwrGood then .lit else .off

/-- Attention: amber, lit in held Sprout mode, flashing during a full-module test. -/
def State.amberLight (s : State) : Light :=
  if !s.start.aux then .off else if s.start.stage = 5 then .lit else if s.watch.testing then .flashing else .off

/-! ### The SMBus mailbox -/

/-- A command of the mailbox: it runs from P3V3_AUX; without it nothing answers. -/
def State.smbus (s : State) (f : State → State) : Out := if s.start.aux then .next (f s) else .next { s with resp := .nack }

def State.nack (s : State) : State := { s with resp := .nack }
def State.reply (s : State) (bs : List Byte) : State := { s with resp := .bytes bs }

def execStatus (s : State) : Out :=
  s.smbus (fun s =>
    { s with log := { s.log with alertLost := false } }.reply
      (leBytes 4 s.syStart ++ leBytes 4 s.sySprout ++ leBytes 4 s.syImage ++ leBytes 1 s.ledger.length ++
        leBytes 1 (b2n s.log.alertLost) ++ zeros 2))

/-- Whether a start is in progress. -/
def State.starting (s : State) : Bool := s.start.pwrGood && !s.start.done && s.start.stage != 5

/-- NOR_OPEN: the slot is erased; a pending mark on it is gone with its contents. -/
def execNorOpen (slot : Nat) (s : State) : Out :=
  s.smbus (fun s =>
    if 2 ≤ slot ∨ s.committed = some slot ∨ (s.pendingSlot = some slot ∧ s.starting = true) then s.nack
    else
      let s := if s.pendingSlot = some slot then s.writeBoot (s.committed.getD (1 - slot)) 0xFF else s
      { s with
        nor := Sp.eraseRange (slotBase slot) (slotBase slot + 0x2000000) s.nor
        start := { s.start with openSlot := some slot, programmed := [] } }.reply [])

/-- NOR_WRITE: a byte is programmed once. -/
def execNorWrite (off : Nat) (data : List Byte) (s : State) : Out :=
  s.smbus (fun s =>
    match s.start.openSlot with
    | none => s.nack
    | some k =>
      if data = [] ∨ 248 < data.length ∨ 0x2000000 < off + data.length ∨
          (List.range data.length).any (fun i => Sp.get false s.start.programmed (off + i)) = true then s.nack
      else
        { s with
          nor := norPut s.nor (slotBase k + off) data
          start := { s.start with programmed :=
            (List.range data.length).foldl (fun p i => Sp.set false p (off + i) true) s.start.programmed } }.reply [])

/-- NOR_CLOSE: the full image check; on success the slot is pending, and a planned takeover follows (R470). -/
def execNorClose (check : SlotCheck) (bad : List Nat) (s : State) : Out :=
  s.smbus (fun s =>
    match s.start.openSlot with
    | none => s.nack
    | some k =>
      let img := s.slotImage k
      let s := { s with start := { s.start with openSlot := Option.none, programmed := [] } }
      match headerCheck img check.sig check.cert s.start.secMin, imageFail img bad with
      | some e, _ => (s.imageError (e, 0, 0)).reply []
      | Option.none, some e => (s.imageError e).reply []
      | Option.none, Option.none =>
        let s := (s.writeBoot (s.committed.getD (1 - k)) k).reply []
        if s.start.done then s.planLeave else s)

/-- A module reset ordered over SMBus; a module without power, or in a seal, has none to perform. -/
def State.orderedReset (s : State) (cause : Nat) : State :=
  if s.start.pwrGood && s.sealRun.isNone then s.moduleReset cause else s

/-- RELEASE (R439): the ledger is cleared, and the module resets. -/
def execRelease (s : State) : Out := s.smbus (fun s => ((s.writeLedger []).reply []).orderedReset 2)

def execReset (s : State) : Out := s.smbus (fun s => (s.reply []).orderedReset 1)

/-- TEST_UNLOCK (R430): only in Sprout mode, with a record that the owner key of the committed image signed. -/
def execTestUnlock (record : List Byte) (sigOk : Bool) (s : State) : Out :=
  s.smbus (fun s =>
    if s.start.stage = 5 ∧ record.length = 128 ∧ sigOk = true then { s with start := { s.start with unlocked := true } }.reply []
    else s.nack)

/-- LOG_READ: the record of a ring slot, which is then marked read. -/
def execLogRead (slot : Nat) (s : State) : Out :=
  s.smbus (fun s =>
    let r := s.log.at_ slot
    if r = LogRec.none then s.reply (zeros 32)
    else { s with log := { s.log with read := Sp.set false s.log.read slot true } }.reply r.bytes)

/-! ### The test access port -/

/-- An instruction of the hub's register; where it is not allowed it acts as BYPASS. -/
def State.tapGo (s : State) (ok : Bool) (code : Nat) (drive : Bool) : State :=
  if ok then { s with tap := { s.tap with ir := code, driving := drive } } else { s with tap := { s.tap with ir := 0xFF, driving := false } }

def execIdcode (s : State) : Out := .next { s.tapGo true 1 false with resp := .reg 32 0xB2D700EF }

/-- SAMPLE/PRELOAD: the pins are captured in the boundary register. -/
def execSamplePreload (pins : List Bool) (s : State) : Out :=
  let s := s.tapGo true 2 false
  .next { s with tap := { s.tap with boundary := pins } }

def execExtest (s : State) : Out := .next (s.tapGo s.start.unlocked 3 true)
def execDieWrapperSelect (s : State) : Out := .next (s.tapGo s.start.unlocked 4 false)

/-- Instruments in the order of R429: 0 PLL status and 4 thermal sensing are always allowed. -/
def execInstrumentAccess (inst : Nat) (s : State) : Out := .next (s.tapGo (s.start.unlocked || inst == 0 || inst == 4) 5 false)

def execBypass (s : State) : Out := .next (s.tapGo true 0xFF false)

/-- TEST_RESET (R424): TRST_N; no effect on function. -/
def execTestReset (s : State) : Out := .next { s with tap := TapSt.reset }

end Sys2Proof.Machine
end

