-- ==== Sys2Proof/Machine/RegRead.lean ====
section
/-!
DEFINITION. What the registers show: one function per block, for the 32-bit and for the 64-bit registers (the register tables of all
chapters). Offsets are those of R16. No value: an unassigned offset.
-/

namespace Sys2Proof.Machine

/-- A register value put together from (lowest bit, value) pairs. -/
def fields (l : List (Nat × Nat)) : Nat := l.foldl (fun a f => a + f.2 * 2 ^ f.1) 0

/-- A number of one bit per place where `p` holds. -/
def bitsOf (n : Nat) (p : Nat → Bool) : Nat := (List.range n).foldl (fun a i => a + b2n (p i) * 2 ^ i) 0

/-! ### SY_ (R4, R96, R455, R483) -/

def State.sy32 (s : State) (o : Nat) : Option Nat :=
  match o with
  | 0x000 => some (fields [(16, 0x2D70), (8, 0xB0), (4, 1)])
  | 0x010 => some s.syStart
  | 0x014 => some s.sySprout
  | 0x018 => some s.syImage
  | 0x01C => some s.syImgErr
  | 0x020 => some s.start.cause
  | 0x030 => some (fields [(25, b2n s.watch.testing), (20, min 16 s.gl.watches.length), (19, b2n (s.gl.mstate == 3)), (18, b2n s.gl.watcher.isSome),
      (0, s.gl.watcher.getD 0)])
  | 0x040 => some s.log.next
  | 0x044 => some (fields [(12, b2n s.log.crumbs), (0, min 2048 s.log.ring.length)])
  | 0x100 => some (fields [(4, s.beats.maintExp), (0, s.beats.exp)])
  | _ => none

def State.sy64 (s : State) (o : Nat) : Option Nat := if o = 0x108 then some (s.now / s.beatLen) else none

/-! ### LG_ (R482) -/

def State.lg32 (s : State) (o : Nat) : Option Nat := some (leVal (((s.log.at_ (o / 32)).bytes.drop (o % 32)).take 4))

/-! ### HL_ (R415, R416) -/

def HlPort.word (p : HlPort) : Nat := fields [(12, b2n p.cache), (11, b2n p.mem), (8, p.speed), (3, p.width), (0, p.state)]

def State.hl32 (s : State) (o : Nat) : Option Nat :=
  let h := s.hl
  match o with
  | 0x00 => some (fields [(4, h.inUse), (0, 3)])
  | 0x04 => some 0
  | 0x08 => some (fields [(16, h.session % 65536), (8, h.refusal), (4, h.cause), (0, h.state)])
  | 0x0C => some 0
  | 0x10 => some (h.ports.getD 0 HlPort.down).word
  | 0x14 => some (h.ports.getD 1 HlPort.down).word
  | 0x20 => some h.csel.toNat
  | 0x38 => some 0
  | 0x3C => some (fields [(8, h.creason), (0, h.cstate)])
  | _ => none

def State.hl64 (s : State) (o : Nat) : Option Nat :=
  match o with
  | 0x28 => some s.hl.carg0.toNat
  | 0x30 => some s.hl.carg1.toNat
  | 0x40 => some s.hl.cres.toNat
  | _ => none

/-! ### PW_ (R484, R500) -/

def State.pw32 (s : State) (o : Nat) : Option Nat :=
  let p := s.pm
  match o with
  | 0x00 => some (min p.vin 65535)
  | 0x04 => some (fields [(16, p.peak), (0, p.watts)])
  | 0x08 => some (fields [(17, b2n p.degraded), (16, b2n p.charged), (0, p.energy)])
  | 0x40 => some (fields [(16, toBits 8 (p.tMax / 10)), (8, toBits 8 (p.reading 74 / 10)), (3, s.beats.stretch), (0, p.level)])
  | 0x44 => some ((List.range 78).filter (fun i => (p.sensor i).failed)).length
  | _ => none

def State.pw64 (s : State) (o : Nat) : Option Nat := if o = 0x48 then some s.beats.excluded.toNat else none

/-! ### DD_ (R420) -/

/-- Key of the selected direction; none where the selection shows zero. -/
def DdSt.key (d : DdSt) : Option Nat :=
  if 4 < d.link ∨ 11 < d.mod ∨ (d.link = 4 ∧ d.mod ≠ 0) then none else some ((d.link * 16 + d.mod) * 2 + d.dir)

def State.dd32 (s : State) (o : Nat) : Option Nat :=
  let d := s.dd
  match o with
  | 0x00 => some (bitsOf 5 (fun i => d.up.getD i false))
  | 0x04 => some (fields [(8, d.dir), (4, d.mod), (0, d.link)])
  | 0x10 => some (match d.key with
    | some k => (Sp.get 0#32 d.replay k).toNat
    | none => 0)
  | _ => none

def State.dd64 (s : State) (o : Nat) : Option Nat :=
  if o = 0x08 then
    some (match s.dd.key with
      | some k =>
        if !s.dd.up.getD s.dd.link false then 0
        else
          let m := Sp.get LaneMap.none s.dd.lanes k
          let l := (List.range 4).map (fun i => m.repaired.getD i 0x7F)
          fields ([(60, (l.filter (· != 0x7F)).length), (56, m.assembly)] ++ (List.range 4).map (fun i => (7 * i, l.getD i 0x7F)))
      | none => 0)
  else none

/-! ### GL_ (R363, R364) -/

def Port.reg32 (q : Port) (o : Nat) : Option Nat :=
  match o with
  | 0x00 => some (fields [(12, q.reason), (8, q.spare), (6, b2n (q.spare == 15)), (5, b2n q.mapOk), (4, b2n q.held), (2, q.version), (0, q.state)])
  | 0x04 => some (fields [(18, q.peerPort), (0, q.peerNode)])
  | 0x08 => some (fields ((List.range 8).map (fun i => (4 * i, q.lanes.getD i 0))))
  | 0x18 => some q.fecu.toNat
  | 0x1C => some q.crcs.toNat
  | 0x20 => some q.retries.toNat
  | 0x24 => some q.stale.toNat
  | 0x28 => some q.rate.toNat
  | _ => none

def Port.reg64 (q : Port) (o : Nat) : Option Nat :=
  match o with
  | 0x10 => some q.fecc.toNat
  | 0x40 => some q.txb.toNat
  | 0x48 => some q.rxb.toNat
  | _ => none

def State.glCommon (s : State) (o : Nat) : Option Nat :=
  let g := s.gl
  match o with
  | 0x00 => some (fields [(18, s.dims.length), (0, s.self)])
  | 0x04 => some (fields [(4, b2n g.isolated), (3, b2n s.isLeader), (0, g.mstate)])
  | 0x08 => some g.epoch.toNat
  | 0x0C => some g.leader
  | 0x10 => some (fields [(16, if g.view = [] then 0 else min 255 (ceilDiv (16 * s.timeBudget) 10)), (8, if g.view = [] then 0 else min 255 (depthOf s.dims g.leader s.self)), (2, b2n g.outOfTime),
      (1, b2n s.isLeader), (0, b2n s.aligned)])
  | 0x14 => some (toBits 32 g.offset)
  | 0x18 => some g.fences.toNat
  | 0x1C => some (fields [(4, g.verMax), (0, 7)])
  | _ => none

def State.gl32 (s : State) (o : Nat) : Option Nat :=
  if 0x20000 ≤ o then s.glCommon (o - 0x20000) else if o / 4096 < 18 then (s.port (o / 4096)).reg32 (o % 4096) else none
def State.gl64 (s : State) (o : Nat) : Option Nat := if o / 4096 < 18 then (s.port (o / 4096)).reg64 (o % 4096) else none

/-! ### CL_ (R386) -/

def State.cl32 (s : State) (o : Nat) : Option Nat :=
  let c := s.coll
  let j := s.job c.jobSel
  match o with
  | 0x00 => some (fields [(4, b2n c.abandoned), (3, b2n (s.jobs.any (fun x => x.2.pend.isSome))), (2, b2n !c.held.isEmpty),
      (1, b2n !c.insts.isEmpty), (0, b2n s.start.done)])
  | 0x04 => some c.jobSel
  | 0x08 => some (if j.map = [] then 0 else fields [(17, (s.held c.jobSel).length), (9, 2 ^ j.info.hExp - 1), (0, j.info.sExp)])
  | 0x0C => some c.smapIdx
  | 0x10 => some (match j.map[c.smapIdx]? with
    | some e => fields [(18, e.2), (0, e.1)]
    | none => 0)
  | 0x14 => some (if j.map = [] then 0 else mapDigest j.map)
  | 0x30 => some c.dup.toNat
  | 0x34 => some c.lost.toNat
  | 0x38 => some c.abandon.toNat
  | 0x3C => some c.reqMax
  | _ => none

def State.cl64 (s : State) (o : Nat) : Option Nat :=
  match o with
  | 0x20 => some s.coll.segTx.toNat
  | 0x28 => some s.coll.segRx.toNat
  | _ => none

/-! ### TN_ (R414) -/

def State.tn32 (s : State) (o : Nat) : Option Nat :=
  let k := o / 64
  let t := s.tenant k
  let n := (s.jobs.filter (fun j => j.2.life != .none && j.2.info.tenant == k)).length
  match o % 64 with
  | 0x00 => some (fields [(8, n), (3, b2n t.qerr), (2, b2n (t.doorbell.isSome && t.queues.any (fun q => q.2.isSet))),
      (0, if t.state = 0 then 0 else if n = 0 then 1 else 2)])
  | 0x04 => some t.quota0
  | 0x08 => some t.quota1
  | 0x0C => some t.quota2
  | 0x10 => some (fields [(24, t.fill), (0, t.slots)])
  | 0x14 => some (fields [(2, min 63 t.regions.length), (1, b2n (decide (64 ≤ t.regions.length))), (0, b2n t.hostEn)])
  | _ => some 0

/-! ### TI_ (R277) -/

def State.ti32 (s : State) (o : Nat) : Option Nat :=
  let t := s.tiers
  let q := s.tenant t.qsel
  match o with
  | 0x00 => some (fields [(4, b2n (s.tenants.any (fun x => x.2.over1 || x.2.over2))), (3, b2n t.admitting), (2, b2n t.copying.isSome),
      (1, b2n s.t2Missing), (0, b2n t.mounted)])
  | 0x04 => some (if (s.mcOf 0).ready then s.freeTotal else 0)
  | 0x08 => some s.retired.length
  | 0x0C => some (if t.mounted then tier2Pages - s.t2Used else 0)
  | 0x10 => some t.heatExp
  | 0x14 => some (fields [(16, t.promote), (0, t.drop)])
  | 0x18 => some (fields [(31, b2n t.promEnable), (8, t.reserve), (0, t.promMax)])
  | 0x20 => some t.qsel
  | 0x24 => some q.use0
  | 0x28 => some q.use1
  | 0x2C => some q.use2
  | 0x30 => some (fields [(31, b2n q.over2), (30, b2n q.over1), (0, q.excess)])
  | 0x40 => some t.promotions.toNat
  | 0x44 => some t.drops.toNat
  | _ => none

/-! ### MC_ (R226) -/

/-- The largest sum of memory grants in any unit of the beat plan on a die. -/
def Image.peakGrant (im : Image) (d : Nat) : Nat :=
  (List.range 1024).foldl (fun m u =>
    max m ((im.grants.filter (fun g => g.kind == 0 && g.target == d && im.runsIn g.die u g.prog)).foldl (fun a g => a + g.w) 0)) 0

def State.mc32 (s : State) (d o : Nat) : Option Nat :=
  let m := s.mcOf d
  let maint := s.isMaint s.beats.beat && s.start.pwrGood
  match o with
  | 0x00 => some (fields [
      (16, bitsOf 8 (fun i => (List.range 4).any (fun k => (m.chan (4 * i + k)).mult2.any (· == true)))),
      (5, if maint then s.beats.beat / s.maintPeriod % 32 else 0), (4, b2n maint), (3, b2n (decide (1024 ≤ m.quar.length))),
      (2, b2n (s.frames.any (fun f => f.2.pend && f.1 / dieFrames == d && m.retPage != some f.1))), (1, b2n m.zeroing), (0, b2n m.ready)])
  | 0x04 => some (fields [(4, if m.lowest = 0 then 0 else s.tuberVersion), (0, m.lowest)])
  | 0x10 => some m.ce.toNat
  | 0x14 => some m.ue.toNat
  | 0x18 => some m.poisonRd.toNat
  | 0x1C => some m.dece.toNat
  | 0x30 => some m.quar.length
  | 0x34 => some m.qIndex
  | 0x48 => some (fields [(16, s.retired.length), (8, m.retReason), (0, m.retState)])
  | 0x50 => some (match s.image with
    | some im => im.peakGrant d
    | none => 0)
  | 0x54 => some m.maintCnt.toNat
  | 0x58 => some (((List.range 32).foldl (fun a c => min a (m.chan c).passes) (m.chan 0).passes) % 2 ^ 32)
  | _ => none

def State.mc64 (s : State) (d o : Nat) : Option Nat :=
  let m := s.mcOf d
  match o with
  | 0x20 => some (fields [(63, b2n m.eValid), (48, m.eCause), (0, m.eAddr)])
  | 0x38 => some (match m.quar[m.qIndex]? with
    | some e => fields [(24, b2n e.listed), (20, e.cause), (0, e.page)]
    | none => 0)
  | 0x40 => some 0
  | _ => none

/-! ### CZ_, TB_ and UP_ (R323, R254, R303) -/


def State.cz32 (s : State) (d o : Nat) : Option Nat :=
  let z := s.czAt d
  match o with
  | 0x00 => some (fields [
      (16, bitsOf 8 (fun c => z.queue c == 256)),
      (8, bitsOf 8 (fun c => z.queue c != 0)),
      (0, bitsOf 8 (fun c => (s.expandable d c).isSome))])
  | 0x04 => some z.flags.toNat
  | 0x08 => some z.damaged.toNat
  | 0x0C => some z.retries.toNat
  | 0x10 => some (max z.cqMax z.fullest)
  | _ => none

def State.cz64 (s : State) (d o : Nat) : Option Nat :=
  let z := s.czAt d
  match o with
  | 0x20 => some z.blk0.toNat
  | 0x28 => some z.blk1.toNat
  | 0x30 => some z.blk2.toNat
  | 0x38 => some z.eblk.toNat
  | 0x40 => some z.eblk2.toNat
  | _ => none

/-- The die a record of a list runs on. -/
def State.listDie (s : State) (l : TbList) (r : TRec) : Option Nat := (s.listSpan l r 0).map (fun b => b.1)

/-- Whether a package of a die has a record in progress. -/
def State.tubBusy (s : State) (d p : Nat) : Bool :=
  s.lists.any (fun l => l.running && (match l.current with
    | some r => (s.listDie l r == some d) && r.packages.contains p
    | none => false))

def State.tb32 (s : State) (d o : Nat) : Option Nat :=
  let t := s.tubOf d
  match o with
  | 0x00 => some (fields [(8, bitsOf 8 (fun p => s.tubBusy d p)), (2, b2n (t.paced == s.beats.beat + 1)), (1, b2n t.checkFail), (0, b2n t.ready)])
  | 0x04 => some (fields [(8, s.effCap d), (0, t.cap)])
  | 0x08 => some t.depth
  | 0x10 => some t.flags.toNat
  | 0x14 => some t.poison.toNat
  | _ => none

def State.tb64 (s : State) (d o : Nat) : Option Nat :=
  let t := s.tubOf d
  match o with
  | 0x20 => some t.records.toNat
  | 0x28 => some t.rdBytes.toNat
  | 0x30 => some t.waitCyc.toNat
  | _ => none

/-- A list of the update sequencer that waits, and does so for ring space. -/
def State.ringWait (s : State) (d : Nat) : Bool :=
  s.lists.any (fun l => !l.running && (match l.from_, l.current with
    | .update k _ _ _, some r => (s.listDie l r == some d) && s.ringFull k d r
    | _, _ => false))

def State.up32 (s : State) (d o : Nat) : Option Nat :=
  let u := s.upAt d
  let j := s.job u.jobSel
  let st := j.upd.st
  let live := j.life != .none
  match o with
  | 0x00 => some (fields [
      (5, bitsOf 16 (fun k => !(s.entriesOf k).isEmpty && (s.job k).life != .none && (s.updDies k).contains d)),
      (4, b2n (s.jobs.any (fun x => (x.2.upd.snap.isSome || !x.2.upd.ops.isEmpty) && (s.updDies x.1).contains d))), (3, b2n (s.ringWait d)),
      (2, b2n (s.jobs.any (fun x => x.2.upd.waitFrom.any (fun w => w.1 == d)))),
      (1, b2n (s.jobs.any (fun x => x.2.upd.waitNorm && (s.updDies x.1).contains d))), (0, b2n s.start.done)])
  | 0x04 => some u.jobSel
  | 0x10 => some (if live then st.sealed.toNat else 0)
  | 0x14 => some (if live then (pow2 st.exp).toNat else 0)
  | 0x18 => some (if live then st.g.toNat else 0)
  | 0x1C => some (if live then j.upd.last else 0)
  | 0x20 => some u.flags.toNat
  | 0x24 => some u.skips.toNat
  | 0x28 => some (if live then min (2 ^ 24 - 1) (2048 * (ringCap j.info - (Sp.get Ring.empty j.upd.rings d).used)) else 0)
  | _ => none

def State.up64 (s : State) (d o : Nat) : Option Nat :=
  let u := s.upAt d
  let j := s.job u.jobSel
  match o with
  | 0x08 => some (if j.life = .none then 0 else fields [(32, j.upd.st.applied.toNat), (0, j.upd.st.step.toNat)])
  | 0x30 => some u.txBytes.toNat
  | 0x38 => some u.sealWait.toNat
  | _ => none

/-! ### The blocks of a core (R62, R63, R86, R104, R142, R164, R193) -/

/-- The running context of a core; a fresh one where none runs. -/
def CoreSt.runCtx (c : CoreSt) : Ctx :=
  match c.running with
  | some k => c.ctx k
  | none => Ctx.fresh

/-- Whether an engine of the running context waits on arrival flags. -/
def CoreSt.stalled (c : CoreSt) : Bool :=
  match c.running with
  | some k => let x := c.ctx k
    [x.qmx, x.qve, x.qst, x.qpe, x.qob].any (fun q => match q with
      | w :: _ => decide (c.waitState k w = .held)
      | [] => false)
  | none => false

def State.cp32 (s : State) (n o : Nat) : Option Nat :=
  let c := s.core n
  match o with
  | 0x00 =>
    let st := match c.run with
      | .running k f => (k, if f then 2 else 1)
      | .drained => (0, 3)
      | _ => (0, 0)
    some (fields [(9, b2n (s.isMaint s.beats.beat && s.start.pwrGood)), (8, b2n c.stalled), (2, st.1), (0, st.2)])
  | 0x04 => some (fields [(2, b2n c.wrFault), (1, b2n c.switchPending), (0, b2n c.active)])
  | 0x08 => some (fields [(13, b2n c.pwBank), (0, c.pwIndex)])
  | 0x10 => some 0
  | 0x14 => some 0
  | 0x18 => some 0
  | 0x1C => some 0
  | 0x20 => some (fields [(16, c.faultCtx), (8, c.faultCode), (3, b2n c.fault), (2, b2n (c.run == .drained))])
  | 0x24 => some c.overruns.toNat
  | 0x40 => some c.runCtx.flags.toNat
  | 0x44 => some (c.runCtx.prog.nmode % 8)
  | _ => none

def State.mx32 (s : State) (n o : Nat) : Option Nat :=
  let c := s.core n
  let m := c.mx
  match o with
  | 0x00 => some (fields [
      (12, bitsOf 4 (fun a => (m.arrays.getD a ArrSt.reset).pow == .gated && !c.arrayBusy a)),
      (8, bitsOf 4 (fun a => (m.arrays.getD a ArrSt.reset).pow == .ballast && !c.arrayBusy a)),
      (4, bitsOf 4 (fun a => c.arrayBusy a)), (0, m.lastMode)])
  | 0x10 => some (fields [(31, b2n m.balEnable), (16, m.balRamp), (0, m.balHold)])
  | 0x14 => some (fields [(1, b2n m.capSeen), (0, b2n s.capOn)])
  | 0x40 => some (c.runCtx.mxDone % 65536)
  | _ => none

def State.mx64 (s : State) (n o : Nat) : Option Nat :=
  let m := (s.core n).mx.tickCycles s.now s.free
  match o with
  | 0x20 => some m.actCyc.toNat
  | 0x28 => some m.balCyc.toNat
  | 0x30 => some m.gateCyc.toNat
  | _ => none

/-- Whether a pipe holds an instruction (R164): a free value while the engine may have one in flight. -/
def State.vePipe (s : State) (x : Ctx) (p : Nat) : Bool := x.ve.isSome && Config.veBusy s.free p

/-- Whether a column reduction holds partial accumulators now. -/
def State.vePartial (s : State) (x : Ctx) : Bool :=
  match x.ve with
  | some r => decide (3 < r.word.opc) && vCols r.word.opc && Config.veBusy s.free 3
  | none => false

/-- Progress word 0 of the vector engine: the rows that the instruction in flight has completed (R100, R164). -/
def State.veDone (s : State) (x : Ctx) : Nat :=
  match x.ve with
  | some r => r.done + Config.veRows s.free % (vRowCount r.word - r.done + 1)
  | none => 0

def State.ve32 (s : State) (n o : Nat) : Option Nat :=
  let c := s.core n
  let x := c.runCtx
  match o with
  | 0x00 => some (fields [(10, b2n x.saveArea.isSome), (9, b2n x.rnd.isSome), (8, b2n (s.vePartial x)), (4, bitsOf 4 (fun i => x.valid.getD i false)),
      (2, b2n (!x.veArr.isEmpty || s.vePipe x 2)), (1, b2n (s.vePipe x 1)), (0, b2n (s.vePipe x 0))])
  | 0x04 => some (s.veDone x)
  | 0x08 => some c.ve.saves.toNat
  | _ => none

def State.ve64 (s : State) (n o : Nat) : Option Nat :=
  match o with
  | 0x10 => some (s.core n).ve.arithCyc.toNat
  | 0x18 => some (s.core n).ve.transCyc.toNat
  | _ => none

/-- Progress words 0 to 5 of a stream transfer (R175). -/
def Ctx.stPos (x : Ctx) (k : Nat) : Nat :=
  match x.st with
  | some t => (t.desc.at_ t.pos).getD k 0
  | none => 0

def State.st32 (s : State) (n o : Nat) : Option Nat :=
  let c := s.core n
  let x := c.runCtx
  if 0x10 ≤ o ∧ o < 0x28 then some (x.stPos ((o - 0x10) / 4) % 2 ^ 24)
  else
    match o with
    | 0x00 =>
      let susp := x.st.bind (·.susp)
      let poisoned := match c.running with
        | some k => c.grps.any (fun g => g.1 / 2048 == k && g.2.isSet && g.2.poison)
        | none => false
      some (fields [(8, (susp.map (·.1)).getD 0), (4, b2n ((susp.map (·.2)).getD false)),
        (3, b2n (match c.running with
          | some k => c.peas.any (fun m => m.ctx == k)
          | none => false)),
        (2, b2n poisoned), (1, b2n susp.isSome), (0, b2n x.st.isSome)])
    | 0x30 => some c.st.faults.toNat
    | 0x34 => some c.st.poison.toNat
    | 0x38 => some c.st.tmiss.toNat
    | _ => none

def State.st64 (s : State) (n o : Nat) : Option Nat :=
  let t := (s.core n).st
  match o with
  | 0x08 => some t.fva
  | 0x40 => some t.bytes.toNat
  | 0x48 => some t.pea.toNat
  | _ => none

/-! ### The register space (R16) -/

/-- Where an offset lies: a hub block, a die block or a core block, with the offset inside it. -/
inductive RegAt where
  | sy (o : Nat) | lg (o : Nat) | hl (o : Nat) | pw (o : Nat) | dd (o : Nat) | gl (o : Nat) | cl (o : Nat) | tn (o : Nat) | ti (o : Nat)
  | mc (d o : Nat) | cz (d o : Nat) | tb (d o : Nat) | up (d o : Nat)
  | cp (n o : Nat) | mx (n o : Nat) | ve (n o : Nat) | st (n o : Nat)
  | hole
deriving DecidableEq, Repr

def dieReg (d o : Nat) : RegAt :=
  if o < 0x10000 then .mc d o
  else if o < 0x20000 then .cz d (o - 0x10000)
  else if o < 0x30000 then .tb d (o - 0x20000)
  else if o < 0x40000 then .up d (o - 0x30000)
  else if o < 0x800000 ∨ 0x900000 ≤ o then .hole
  else
    let n := 16 * d + (o - 0x800000) / 0x10000
    let r := o % 0x10000
    if r < 0x4000 then .cp n r else if r < 0x8000 then .mx n (r - 0x4000) else if r < 0xC000 then .ve n (r - 0x8000) else .st n (r - 0xC000)

def regAt (off : Nat) : RegAt :=
  if off < 0x10000 then .sy off
  else if off < 0x20000 then .lg (off - 0x10000)
  else if off < 0x30000 then .hl (off - 0x20000)
  else if off < 0x40000 then .pw (off - 0x30000)
  else if off < 0x50000 then .dd (off - 0x40000)
  else if off < 0x100000 then .hole
  else if off < 0x130000 then .gl (off - 0x100000)
  else if off < 0x200000 then .hole
  else if off < 0x210000 then .cl (off - 0x200000)
  else if off < 0x400000 then .hole
  else if off < 0x440000 then .tn (off - 0x400000)
  else if off < 0x800000 then .hole
  else if off < 0x810000 then .ti (off - 0x800000)
  else if off < 0x1000000 ∨ 0x5000000 ≤ off then .hole
  else dieReg ((off - 0x1000000) / 0x1000000) (off % 0x1000000)

/-- The 32-bit register at an offset. -/
def State.reg32 (s : State) (off : Nat) : Option Nat :=
  if off % 4 ≠ 0 then none
  else
    match regAt off with
    | .sy o => s.sy32 o
    | .lg o => s.lg32 o
    | .hl o => s.hl32 o
    | .pw o => s.pw32 o
    | .dd o => s.dd32 o
    | .gl o => s.gl32 o
    | .cl o => s.cl32 o
    | .tn o => s.tn32 o
    | .ti o => s.ti32 o
    | .mc d o => s.mc32 d o
    | .cz d o => s.cz32 d o
    | .tb d o => s.tb32 d o
    | .up d o => s.up32 d o
    | .cp n o => s.cp32 n o
    | .mx n o => s.mx32 n o
    | .ve n o => s.ve32 n o
    | .st n o => s.st32 n o
    | .hole => none

/-- The 64-bit register at an offset. -/
def State.reg64 (s : State) (off : Nat) : Option Nat :=
  match regAt off with
  | .sy o => s.sy64 o
  | .hl o => s.hl64 o
  | .pw o => s.pw64 o
  | .dd o => s.dd64 o
  | .gl o => s.gl64 o
  | .cl o => s.cl64 o
  | .mc d o => s.mc64 d o
  | .cz d o => s.cz64 d o
  | .tb d o => s.tb64 d o
  | .up d o => s.up64 d o
  | .mx n o => s.mx64 n o
  | .ve n o => s.ve64 n o
  | .st n o => s.st64 n o
  | _ => none

end Sys2Proof.Machine
end

