-- ==== Sys2Proof/Machine/Regs.lean ====
section
/-!
DEFINITION. The register space as commands: writes, reads with their side effects, and accesses in halves (R18 to R22, R390).
-/

namespace Sys2Proof.Machine

/-- Device physical address of a register (R16). -/
def regAddr (off : Nat) : Nat := 0x300000000000 + off

/-- Bytes of the register space (R15). -/
def regSpace : Nat := 0x10000000

/-- Who reaches the register space (R390). -/
def Who.reaches (w : Who) : Bool := w.isSteward || w.isDriver

/-- The offset a driver may write (R390). -/
def driverMay (off : Nat) : Bool :=
  match regAt off with
  | .hl o => o = 0x04 || o = 0x0C || o = 0x20 || (decide (0x28 ≤ o) && decide (o < 0x3C))
  | .tn o => [0x00, 0x08, 0x0C, 0x14].contains (o % 64)
  | .dd o => o = 0x04
  | .mc _ o => o = 0x34 || o = 0x40 || o = 0x44
  | .ti o => o = 0x20
  | .up _ o => o = 0x04
  | .cl o => o = 0x04 || o = 0x0C
  | _ => false

def stewardMay (off : Nat) : Bool :=
  match regAt off with
  | .mc _ o => o ≠ 0x40 && o ≠ 0x44
  | _ => true

/-- R390: whether the table admits a write. -/
def Who.mayWrite (w : Who) (off : Nat) : Bool := (w.isSteward && stewardMay off) || (w.isDriver && driverMay off)

/-- R246, R303: TB_NFLAGS and UP_NFLAGS are read by the steward alone. -/
def Who.mayRead (w : Who) (off : Nat) : Bool :=
  w.isSteward || (w.isDriver && (match regAt off with
    | .tb _ o => o ≠ 0x10
    | .up _ o => o ≠ 0x20
    | _ => true))

/-- A W1C field of seven flags after a write of `v`, where hardware sets `hw` in the same hc (R18, R19). -/
def w1c (old : BitVec 7) (v hw : Nat) : BitVec 7 := (old &&& ~~~ BitVec.ofNat 7 v) ||| BitVec.ofNat 7 hw

/-- The same of one bit. -/
def w1cBit (old : Bool) (b v hw : Nat) : Bool := (old && !bitN b v) || bitN b hw

/-! ### Writes of 32-bit registers, block by block -/

def State.putHl (s : State) (who : Who) (o v : Nat) : State :=
  match o with
  | 0x04 => if bitN 5 v then s.detach 3 who.port else if bitN 4 v then s.attach who.port (BitVec.ofNat 32 v) else s
  | 0x0C => s.heartbeat
  | 0x20 => { s with hl := { s.hl with csel := BitVec.ofNat 32 (v % 2 ^ 18) } }
  | 0x38 =>
    if s.hl.cstate = 1 then s.logDiscard (hlAddr 0x38) who true
    else
      match v % 16 with
      | 1 => s.mailboxRun who (fun s tn r => s.hreg tn r)
      | 2 => s.mailboxRun who (fun s tn r => s.dreg tn r)
      | 3 => s.mailboxRun who (fun s tn r => s.rrel tn r)
      | 4 => s.mailboxRun who (fun s tn _ => s.dbell tn)
      | 5 => s.mailboxRun who (fun s tn q => s.qset tn q)
      | 6 => s.mailboxRun who (fun s tn q => s.qreset tn q)
      | _ => s.mbRefuse 8
  | _ => s

/-- TN_HOST.host_en written; the tenant's queues are served again where it is set. -/
def State.setHostEn (s : State) (tn : Nat) (b : Bool) : State :=
  let s := s.updTenant tn (fun t => { t with hostEn := b })
  if b then [1, 5, 6, 7].foldl (fun (s : State) q => s.serveQueue tn q) s else s

def State.putTn (s : State) (who : Who) (o v hw : Nat) : State :=
  let tn := o / 64
  if (s.tenant tn).state = 0 then s.logDiscard (regAddr (0x400000 + o)) who true
  else
    match o % 64 with
    | 0x00 => s.updTenant tn (fun t => { t with qerr := w1cBit t.qerr 3 v hw })
    | 0x08 => s.setQuota tn 1 v
    | 0x0C => s.setQuota tn 2 v
    | 0x14 => s.setHostEn tn (bitN 0 v)
    | _ => s

def State.putDd (s : State) (o v : Nat) : State :=
  if o = 0x04 then { s with dd := { s.dd with dir := v / 256 % 2, mod := v / 16 % 16, link := v % 16 } } else s

/-- The common GL_ registers; `o` counts from 0x012_0000. -/
def State.putGl (s : State) (who : Who) (off o v : Nat) : State :=
  if o = 0x1C then
    if v / 16 % 4 = 0 then s.logDiscard (regAddr off) who true else { s with gl := { s.gl with verMax := v / 16 % 4 } }
  else s

def State.putCl (s : State) (o v hw : Nat) : State :=
  match o with
  | 0x00 => { s with coll := { s.coll with abandoned := w1cBit s.coll.abandoned 4 v hw } }
  | 0x04 => { s with coll := { s.coll with jobSel := v % 16 } }
  | 0x0C => { s with coll := { s.coll with smapIdx := v % 2 ^ 20 } }
  | _ => s

def State.putTi (s : State) (who : Who) (off o v : Nat) : State :=
  let t := s.tiers
  match o with
  | 0x10 => if 6 < v % 16 then s.logDiscard (regAddr off) who true else { s with tiers := { t with heatExp := v % 16 } }
  | 0x14 =>
    if v / 65536 % 65536 ≤ v % 65536 then s.logDiscard (regAddr off) who true
    else { s with tiers := { t with promote := v / 65536 % 65536, drop := v % 65536 } }
  | 0x18 => { s with tiers := { t with promEnable := bitN 31 v, reserve := v / 256 % 256, promMax := v % 256 } }
  | 0x20 => { s with tiers := { t with qsel := v % 4096 } }
  | _ => s

def State.putTb (s : State) (who : Who) (off d o v hw : Nat) : State :=
  match o with
  | 0x04 => if 0x34 < v % 64 then s.logDiscard (regAddr off) who true else s.settleCredit.updTub d (fun t => { t with cap := v % 64 })
  | 0x08 =>
    if v % 256 = 0 then s.logDiscard (regAddr off) who true
    else (s.settleCredit.updTub d (fun t => { t with depth := v % 256 })).settleCredit
  | 0x10 => s.updTub d (fun t => { t with flags := w1c t.flags v hw })
  | _ => s

def State.putUp (s : State) (d o v hw : Nat) : State :=
  match o with
  | 0x04 => s.updUp d (fun u => { u with jobSel := v % 16 })
  | 0x20 => s.updUp d (fun u => { u with flags := w1c u.flags v hw })
  | _ => s

/-- CP_BANK: of a request and a withdrawal in one write the withdrawal wins (R84). -/
def State.putBank (s : State) (n v hw : Nat) : State :=
  let s := s.updCore n (fun c => { c with wrFault := w1cBit c.wrFault 2 v hw })
  if bitN 4 v then s.updCore n (fun c => { c with switchPending := false })
  else if bitN 3 v then s.updCore n CoreSt.requestSwitch
  else s

/-- CP_INT: drain has precedence over resume (R104). -/
def State.putInt (s : State) (n v hw : Nat) : State :=
  let s := s.updCore n (fun c => { c with fault := w1cBit c.fault 3 v hw })
  if bitN 0 v then s.drainCore n else if bitN 1 v then s.resumeCore n else s

/-- CP_NFLAGS of the running context. -/
def State.putNflags (s : State) (n v hw : Nat) : State :=
  match (s.core n).running with
  | some k => s.updCtx n k (fun x => { x with flags := w1c x.flags v hw })
  | none => s

def State.putCp (s : State) (n o v hw : Nat) : State :=
  let hold (i : Nat) : State := s.updCore n (fun c => { c with pwData := c.pwData.set i (some (BitVec.ofNat 32 v)) })
  match o with
  | 0x04 => s.putBank n v hw
  | 0x08 => s.updCore n (fun c => { c with pwBank := bitN 13 v, pwIndex := v % 8192 })
  | 0x10 => hold 0
  | 0x14 => hold 1
  | 0x18 => hold 2
  | 0x1C => s.commitWord n (BitVec.ofNat 32 v)
  | 0x20 => s.putInt n v hw
  | 0x40 => s.putNflags n v hw
  | _ => s

def State.updMx (s : State) (n : Nat) (f : MxSt → MxSt) : State := s.updCore n (fun c => { c with mx := f c.mx })

def State.putMx (s : State) (n o v hw : Nat) : State :=
  match o with
  | 0x10 =>
    let s := s.updMx n (fun m => { m with balEnable := bitN 31 v, balRamp := v / 65536 % 4096, balHold := v % 65536 })
    if bitN 31 v then s.resumeBallast else s.mapMx MxSt.gateAll
  | 0x14 => s.updMx n (fun m => { m with capSeen := w1cBit m.capSeen 1 v hw })
  | _ => s

/-- A write of a 32-bit register by a requester that may write it (R18, R21). -/
def State.put32 (s : State) (who : Who) (off v hw : Nat) : State :=
  match regAt off with
  | .hl o => s.putHl who o v
  | .dd o => s.putDd o v
  | .gl o => if 0x20000 ≤ o then s.putGl who off (o - 0x20000) v else s
  | .cl o => s.putCl o v hw
  | .tn o => s.putTn who o v hw
  | .ti o => s.putTi who off o v
  | .mc d o => if o = 0x34 then s.updMc d (fun m => { m with qIndex := v % 1024 }) else s
  | .cz d o => if o = 0x04 then s.updCz d (fun z => { z with flags := w1c z.flags v hw }) else s
  | .tb d o => s.putTb who off d o v hw
  | .up d o => s.putUp d o v hw
  | .cp n o => s.putCp n o v hw
  | .mx n o => s.putMx n o v hw
  | _ => s

/-! ### Writes of 64-bit registers -/

/-- Whether a 64-bit register has a field that is written. -/
def writable64 (off : Nat) : Bool :=
  match regAt off with
  | .hl o => o = 0x28 || o = 0x30
  | .mc _ o => o = 0x40
  | _ => false

def State.put64 (s : State) (off v : Nat) : State :=
  match regAt off with
  | .hl o =>
    if o = 0x28 then { s with hl := { s.hl with carg0 := BitVec.ofNat 64 v } }
    else if o = 0x30 then { s with hl := { s.hl with carg1 := BitVec.ofNat 64 v } }
    else s
  | .mc d o => if o = 0x40 ∧ bitN 63 v = true then s.retirePage d (v % 2 ^ 20) else s
  | _ => s

/-! ### Accesses of 32 bits (R18 to R22) -/

/-- The place of a latched or held half. -/
def halfKey (who : Who) (off : Nat) : Nat × Nat × Nat := (who.index, who.sub, off)
def halfOf (l : List ((Nat × Nat × Nat) × W32)) (k : Nat × Nat × Nat) : Option W32 := (l.find? (fun e => e.1 == k)).map (·.2)
def dropHalf (l : List ((Nat × Nat × Nat) × W32)) (k : Nat × Nat × Nat) : List ((Nat × Nat × Nat) × W32) := l.filter (fun e => e.1 != k)

/-- A half of a 64-bit register written (R22): the low half is held, the high half applies both. DESIGN CHOICE (log entry
75): a held low half is kept for its requester, as R22 says of a latched high half, and a 64-bit access between the two
halves neither drops nor uses what is held or latched. A register without a written field holds halves alike, and applies
nothing. -/
def State.writeHalf (s : State) (who : Who) (off v : Nat) : State :=
  let base := off / 8 * 8
  let k := halfKey who base
  if off = base then { s with split := { s.split with low := dropHalf s.split.low k ++ [(k, BitVec.ofNat 32 v)] } }
  else
    match halfOf s.split.low k with
    | some lo => { s with split := { s.split with low := dropHalf s.split.low k } }.put64 base (lo.toNat + v % 2 ^ 32 * 2 ^ 32)
    | none => s.logDiscard (regAddr off) who true

/-- A 32-bit write at an offset. -/
def State.write32 (s : State) (who : Who) (off v hw : Nat) : State :=
  if off % 4 ≠ 0 ∨ who.reaches = false then s.logDiscard (regAddr off) who true
  else
    match s.reg32 off, s.reg64 (off / 8 * 8) with
    | some _, _ => if who.mayWrite off then s.put32 who off (v % 2 ^ 32) hw else s.logDiscard (regAddr off) who true
    | none, some _ => if who.mayWrite off then s.writeHalf who off v else s.logDiscard (regAddr off) who true
    | none, none => s.logDiscard (regAddr off) who true

/-- What a read of a 32-bit register clears: a field keeps what hardware adds, or observes, in the same hc (R18, R19). -/
def State.clear32 (s : State) (off hw : Nat) : State :=
  let w : W32 := BitVec.ofNat 32 hw
  match regAt off with
  | .pw o => if o = 0x04 then { s with pm := { s.pm with peak := hw % 65536 } } else s
  | .dd o =>
    (match o, s.dd.key with
      | 0x10, some k => { s with dd := { s.dd with replay := Sp.set 0#32 s.dd.replay k w } }
      | _, _ => s)
  | .gl o =>
    if o = 0x20018 then { s with gl := { s.gl with fences := w } }
    else
      (match o % 4096 with
        | 0x18 => s.updPort (o / 4096) (fun q => { q with fecu := w })
        | 0x1C => s.updPort (o / 4096) (fun q => { q with crcs := w })
        | 0x20 => s.updPort (o / 4096) (fun q => { q with retries := w })
        | 0x24 => s.updPort (o / 4096) (fun q => { q with stale := w })
        | 0x28 => s.updPort (o / 4096) (fun q => { q with rate := w })
        | _ => s)
  | .cl o =>
    (match o with
      | 0x30 => { s with coll := { s.coll with dup := w } }
      | 0x34 => { s with coll := { s.coll with lost := w } }
      | 0x38 => { s with coll := { s.coll with abandon := w } }
      | 0x3C => { s with coll := { s.coll with reqMax := w.toNat } }
      | _ => s)
  | .ti o =>
    (match o with
      | 0x40 => { s with tiers := { s.tiers with promotions := w } }
      | 0x44 => { s with tiers := { s.tiers with drops := w } }
      | _ => s)
  | .mc d o =>
    (match o with
      | 0x10 => s.updMc d (fun m => { m with ce := w })
      | 0x14 => s.updMc d (fun m => { m with ue := w })
      | 0x18 => s.updMc d (fun m => { m with poisonRd := w })
      | 0x1C => s.updMc d (fun m => { m with dece := w })
      | _ => s)
  | .cz d o =>
    (match o with
      | 0x08 => s.updCz d (fun z => { z with damaged := w })
      | 0x0C => s.updCz d (fun z => { z with retries := w })
      | 0x10 => s.updCz d (fun z => { z with cqMax := z.fullest })
      | _ => s)
  | .tb d o => if o = 0x14 then s.updTub d (fun t => { t with poison := w }) else s
  | .up d o => if o = 0x24 then s.updUp d (fun u => { u with skips := w }) else s
  | .cp n o => if o = 0x24 then s.updCore n (fun c => { c with overruns := w }) else s
  | .ve n o =>
    if o = 0x08 then s.updCore n (fun c => { c with ve := { c.ve with saves := w } })
    else if o ≤ 0x04 then s.bump
    else s
  | .st n o =>
    (match o with
      | 0x30 => s.updCore n (fun c => { c with st := { c.st with faults := w } })
      | 0x34 => s.updCore n (fun c => { c with st := { c.st with poison := w } })
      | 0x38 => s.updCore n (fun c => { c with st := { c.st with tmiss := w } })
      | _ => s)
  | _ => s

/-- The counters of ballast and gated idle, once read, hold what was read (R142). -/
def State.seen64 (s : State) (off : Nat) : State :=
  match regAt off with
  | .mx n o => if o = 0x28 ∨ o = 0x30 then (s.updMx n (fun m => m.tickCycles s.now s.free)).bump else s
  | _ => s

/-- A half of a 64-bit register read: the low half latches the high half for the requester. -/
def State.readHalf (s : State) (who : Who) (off v : Nat) : State × Nat :=
  let base := off / 8 * 8
  let k := halfKey who base
  if off = base then
    let s := s.seen64 base
    ({ s with split := { s.split with high := dropHalf s.split.high k ++ [(k, BitVec.ofNat 32 (v / 2 ^ 32))] } }, v % 2 ^ 32)
  else
    match halfOf s.split.high k with
    | some h => ({ s with split := { s.split with high := dropHalf s.split.high k } }, h.toNat)
    | none => (s.seen64 base, v / 2 ^ 32)

/-- A 32-bit read at an offset: the state after it and its value. -/
def State.read32 (s : State) (who : Who) (off hw : Nat) : State × Nat :=
  if off % 4 ≠ 0 ∨ who.mayRead off = false then (s.logDiscard (regAddr off) who false, 0)
  else
    match s.reg32 off, s.reg64 (off / 8 * 8) with
    | some v, _ => (s.clear32 off hw, v)
    | none, some v => s.readHalf who off v
    | none, none => (s.logDiscard (regAddr off) who false, 0)

/-! ### Accesses of 64 bits (R22) -/

def State.write64 (s : State) (who : Who) (off v hw : Nat) : State :=
  if off % 8 ≠ 0 ∨ who.reaches = false then s.logDiscard (regAddr off) who true
  else
    match s.reg64 off with
    | some _ => if who.mayWrite off then s.put64 off v else s.logDiscard (regAddr off) who true
    | none => (s.write32 who off (v % 2 ^ 32) (hw % 2 ^ 32)).write32 who (off + 4) (v / 2 ^ 32) (hw / 2 ^ 32)

def State.read64 (s : State) (who : Who) (off hw : Nat) : State × Nat :=
  if off % 8 ≠ 0 ∨ who.reaches = false then (s.logDiscard (regAddr off) who false, 0)
  else
    match s.reg64 off with
    | some v => (s.seen64 off, v)
    | none =>
      let a := s.read32 who off (hw % 2 ^ 32)
      let b := a.1.read32 who (off + 4) (hw / 2 ^ 32)
      (b.1, a.2 + b.2 * 2 ^ 32)

/-- A read that is answered. -/
def State.answerReg (w : Nat) (r : State × Nat) : State := { r.1 with resp := .reg w r.2 }

/-- REGISTER_WRITE: `hwSet` are the W1C bits that hardware sets in the same hc. -/
def execRegisterWrite (who : Who) (width off value hwSet : Nat) (s : State) : Out :=
  if regSpace ≤ off then .next (s.answerUnmapped (regAddr off) who true)
  else if width = 32 then .next (s.write32 who off value hwSet)
  else if width = 64 then .next (s.write64 who off value hwSet)
  else .next (s.logDiscard (regAddr off) who true)

/-- REGISTER_READ_CLEAR: `hwAdd` is what hardware adds to, or observes for, the field in the same hc. -/
def execRegisterReadClear (who : Who) (width off hwAdd : Nat) (s : State) : Out :=
  if regSpace ≤ off then .next (s.answerUnmapped (regAddr off) who false)
  else if width = 32 then .next (State.answerReg 32 (s.read32 who off hwAdd))
  else if width = 64 then .next (State.answerReg 64 (s.read64 who off hwAdd))
  else .next (State.answerReg width (s.logDiscard (regAddr off) who false, 0))

/-- REGISTER_SPLIT_LOW_READ: a 32-bit read of a low half. -/
def execRegisterSplitLowRead (who : Who) (off : Nat) (s : State) : Out :=
  if regSpace ≤ off then .next (s.answerUnmapped (regAddr off) who false)
  else .next (State.answerReg 32 (s.read32 who off 0))

/-! ### An empty queue -/

/-- With no command waiting, device time goes on by one hc of 1 ns once the module has left reset (R10, R13). -/
def State.idle (s : State) : State := if s.start.pwrGood then { s with now := s.now + 1 } else s

end Sys2Proof.Machine
end

