-- ==== Sys2Proof/Machine/Start.lean ====
section
/-!
DEFINITION. Commands of start and reset: power-good, the stages and their limits, the watchdog, the reference, the die-to-die
links, power loss and the crumb seal (R419 to R437, R459, R477, R479, R488 to R492).
-/

namespace Sys2Proof.Machine

/-- POWER_GOOD (R421): a cold start begins; SY_RSTCAUSE shows 0x7 where reference loss led here (R423, R455). It comes with MOD_EN high
(R492). Nothing happens while power is already good or while a seal runs. -/
def execPowerGood (s : State) : Out :=
  if s.start.pwrGood || s.sealRun.isSome then .next s
  else if s.pm.tripHold then .next { s with start := { s.start with hold := .trip } }
  else .next ((s.afterReset .none).beginStart s.start.cause)

/-- Whether the steward runs a start whose stage `n` was entered last. -/
def State.startAt (s : State) (n : Nat) : Bool :=
  s.start.pwrGood && !s.start.done && s.sealRun.isNone && s.start.stage == n

/-- Limit of a stage (0: Sprout) in ns from power-good, its row of R459 and its reason. -/
def stageLimit : Nat → Nat × Nat × Nat
  | 0 => (40000000, 3, 0x0F)
  | 1 => (500000000, 4, 0x0F)
  | 2 => (5000000000, 4, 0x0F)
  | _ => (120000000000, 4, 0x12)

/-- A start fails because a stage is not complete at its limit. -/
def State.stageMissed (s : State) (stage : Nat) : State :=
  let l := stageLimit stage
  (s.expire l.2.1 0 l.1).failedStart (stage + 1) l.2.2

/-- STAGE_LIMIT_TIMEOUT (R434, R459): a stage is not complete at its limit. -/
def execStageLimitTimeout (stage : Nat) (s : State) : Out :=
  if stage ≤ 3 ∧ s.startAt (max 1 stage) = true then .next (s.stageMissed stage) else .next s

/-- A stage that completes in time is entered; one whose limit has passed by now ends the start (R13, R434). -/
def State.inTime (s : State) (stage : Nat) (t : State) : State := if (stageLimit stage).1 ≤ s.now then s.stageMissed stage else t

/-- START_STAGE_1: the Sprout stage and stage 1. -/
def execStartStage1 (rep : Stage1Rep) (s : State) : Out := if s.startAt 1 then .next (s.inTime 1 (s.sproutStage rep)) else .next s
def execStartStage2 (rep : Stage2Rep) (s : State) : Out := if s.startAt 2 then .next (s.inTime 2 (s.stage2 rep)) else .next s
def execStartStage3 (rep : Stage3Rep) (s : State) : Out := if s.startAt 3 then .next (s.inTime 3 (s.stage3 rep)) else .next s

/-- WATCHDOG_TIMEOUT (R424, R459): during a start a failed start with reason 0x13; else a module reset with cause 0x5. -/
def execWatchdogTimeout (armed : Nat) (s : State) : Out :=
  if s.start.pwrGood = false then .next s
  else
    let t := s.expire 2 armed 100000000
    if s.start.done || s.start.stage == 5 then .next (t.moduleReset 5)
    else if s.sealRun.isSome then .next t
    else .next (t.failedStart s.start.stage 0x13)

/-- REFERENCE_LOSS (R423, R459): issue stops, LEAVE, crumbs with cause 2; then reset until power-good. -/
def execReferenceLoss (armed : Nat) (s : State) : Out :=
  if s.start.pwrGood = false ∨ s.sealRun.isSome = true then .next s
  else
    let s := s.expire 1 armed 1000
    .next { s with
      stopped := true, linkOut := s.linkOut ++ [LinkOut.leave], sealRun := some ⟨2, s.now, Option.none⟩
      start := { s.start with hold := .power } }

/-- D2D_LINK_FAULT (R419): replays above the rate, or lane lock lost, on a direction of a module: a module fault. -/
def execD2dLinkFault (link wing dir replays : Nat) (s : State) : Out :=
  if s.start.pwrGood = false ∨ 5 ≤ link ∨ 12 ≤ wing ∨ 2 ≤ dir then .next s
  else
    let k := (link * 16 + wing) * 2 + dir
    .next ({ s with dd := { s.dd with replay := Sp.upd 0#32 s.dd.replay k (fun c => satAdd32 c replays) } }.moduleFault)

/-! ### Power (R479, R488 to R492) -/

/-- POWER_LOSS (R456, R479): the input stayed below 45.0 V for 10 µs. -/
def execPowerLoss (s : State) : Out := .next (s.powerLoss .power)

/-- OVERVOLTAGE_DISCONNECT (R489): above 62.0 V for 10 µs; the sequence runs from the hold-up store. -/
def execOvervoltageDisconnect (s : State) : Out := .next (s.powerLoss .power)

/-- MOD_EN_LOW (R492): low for 10 µs; the module stays in reset until MOD_EN is high again. -/
def execModEnLow (s : State) : Out := .next (s.powerLoss .modEn)

/-- P3V3_AUX_RISE (R488): the straps are read once; the SMBus target answers. -/
def execP3v3AuxRise (straps : Nat) (s : State) : Out :=
  if s.start.aux then .next s else .next { s with start := { s.start with aux := true, addr := straps % 8 } }

/-- HOLD_UP_BOOST_COMPLETE (R490): the store is at 80 V; its usable energy is measured, in 0.1 J. -/
def execHoldUpBoostComplete (energy : Nat) (s : State) : Out :=
  if s.start.pwrGood = false then .next s
  else
    let e := min energy 65535
    let s := { s with pm := { s.pm with charged := true, energy := e, degraded := decide (e < 600) } }
    .next (if e < 600 then s.logAs 0x0B 0 0x0060 2 none [(1, 8), (4, e), (4, 600)] else s)

/-! ### The crumb seal (R477) -/

/-- A seal not complete in 8 ms is abandoned, and the previous slot stands (R459, R477). -/
def State.sealExpired (s : State) (r : SealRun) : State := (s.expire 23 r.armed 8000000).afterSeal r

/-- CRUMB_SEAL_COMPLETE: one that comes at the end of the 8 ms or later comes too late (R13). The newest 256 records up to the seal's
beginning lie in the flash; the reset or hold that caused the seal follows. -/
def execCrumbSealComplete (s : State) : Out :=
  match s.sealRun with
  | none => .next s
  | some r =>
    if r.armed + 8000000 ≤ s.now then .next (s.sealExpired r)
    else
    .next ((s.writeCrumbs r.cause r.armed (s.log.sealed r.armed)).afterSeal r)

/-- CRUMB_SEAL_TIMEOUT (R459, R477): 8 ms; the seal is abandoned and the previous slot stands. -/
def execCrumbSealTimeout (s : State) : Out :=
  match s.sealRun with
  | none => .next s
  | some r => .next (s.sealExpired r)

/-- ON_TIME_TICK (R433): a further 60 s of device time; the running count is appended. -/
def execOnTimeTick (s : State) : Out :=
  if s.start.pwrGood = false then .next s else .next ((s.advanceTo (s.start.minute + 60000000000)).addMinute)

end Sys2Proof.Machine
end

