-- ==== Sys2Proof/Machine/Dispatch.lean ====
section
/-!
DEFINITION. One arm per command: each calls the meaning of that command.
-/

namespace Sys2Proof.Machine

def exec (i : Instr) (s : State) : Host.Outcome State Fault Refusal :=
  match i with
  | .registerWrite who width off value hwSet => Sys2Proof.Machine.execRegisterWrite who width off value hwSet s
  | .registerReadClear who width off hwAdd => Sys2Proof.Machine.execRegisterReadClear who width off hwAdd s
  | .registerSplitLowRead who off => Sys2Proof.Machine.execRegisterSplitLowRead who off s
  | .beatStart chans links sensors => Sys2Proof.Machine.execBeatStart chans links sensors s
  | .slotStart core => Sys2Proof.Machine.execSlotStart core s
  | .fillYield core => Sys2Proof.Machine.execFillYield core s
  | .contextSaved core => Sys2Proof.Machine.execContextSaved core s
  | .contextRestored core => Sys2Proof.Machine.execContextRestored core s
  | .drain who core => Sys2Proof.Machine.execDrain who core s
  | .resume who core => Sys2Proof.Machine.execResume who core s
  | .bankSwitchRequest who core => Sys2Proof.Machine.execBankSwitchRequest who core s
  | .bankSwitchCancel who core => Sys2Proof.Machine.execBankSwitchCancel who core s
  | .programWordCommit who core data3 => Sys2Proof.Machine.execProgramWordCommit who core data3 s
  | .engineDispatch core => Sys2Proof.Machine.execEngineDispatch core s
  | .waitGroupRelease core eng => Sys2Proof.Machine.execWaitGroupRelease core eng s
  | .nop core ecc => Sys2Proof.Machine.execNop core ecc s
  | .jump core ecc => Sys2Proof.Machine.execJump core ecc s
  | .branchNz core ecc => Sys2Proof.Machine.execBranchNz core ecc s
  | .branchZ core ecc => Sys2Proof.Machine.execBranchZ core ecc s
  | .loop core ecc => Sys2Proof.Machine.execLoop core ecc s
  | .loopEnd core ecc => Sys2Proof.Machine.execLoopEnd core ecc s
  | .fence core ecc => Sys2Proof.Machine.execFence core ecc s
  | .fenceComplete core => Sys2Proof.Machine.execFenceComplete core s
  | .tickEnd core ecc => Sys2Proof.Machine.execTickEnd core ecc s
  | .tickEndRetire core => Sys2Proof.Machine.execTickEndRetire core s
  | .halt core ecc => Sys2Proof.Machine.execHalt core ecc s
  | .haltRetire core => Sys2Proof.Machine.execHaltRetire core s
  | .readFlags core ecc => Sys2Proof.Machine.execReadFlags core ecc s
  | .clearFlags core ecc => Sys2Proof.Machine.execClearFlags core ecc s
  | .movi core ecc => Sys2Proof.Machine.execMovi core ecc s
  | .add core ecc => Sys2Proof.Machine.execAdd core ecc s
  | .sub core ecc => Sys2Proof.Machine.execSub core ecc s
  | .mul core ecc => Sys2Proof.Machine.execMul core ecc s
  | .and core ecc => Sys2Proof.Machine.execAnd core ecc s
  | .or core ecc => Sys2Proof.Machine.execOr core ecc s
  | .xor core ecc => Sys2Proof.Machine.execXor core ecc s
  | .shl core ecc => Sys2Proof.Machine.execShl core ecc s
  | .shr core ecc => Sys2Proof.Machine.execShr core ecc s
  | .sltu core ecc => Sys2Proof.Machine.execSltu core ecc s
  | .addi core ecc => Sys2Proof.Machine.execAddi core ecc s
  | .tseq core ecc => Sys2Proof.Machine.execTseq core ecc s
  | .tseqConv core ecc => Sys2Proof.Machine.execTseqConv core ecc s
  | .unitComplete core => Sys2Proof.Machine.execUnitComplete core s
  | .convSet core ecc => Sys2Proof.Machine.execConvSet core ecc s
  | .ballastHoldExpiry core array => Sys2Proof.Machine.execBallastHoldExpiry core array s
  | .ballastRampUp core array => Sys2Proof.Machine.execBallastRampUp core array s
  | .vsetsave core ecc => Sys2Proof.Machine.execVsetsave core ecc s
  | .vsrSet core ecc => Sys2Proof.Machine.execVsrSet core ecc s
  | .vload core ecc => Sys2Proof.Machine.execVload core ecc s
  | .vstore core ecc => Sys2Proof.Machine.execVstore core ecc s
  | .vstoreArrival core => Sys2Proof.Machine.execVstoreArrival core s
  | .vadd core ecc => Sys2Proof.Machine.execVadd core ecc s
  | .vsub core ecc => Sys2Proof.Machine.execVsub core ecc s
  | .vmul core ecc => Sys2Proof.Machine.execVmul core ecc s
  | .vfma core ecc => Sys2Proof.Machine.execVfma core ecc s
  | .vmax core ecc => Sys2Proof.Machine.execVmax core ecc s
  | .vmin core ecc => Sys2Proof.Machine.execVmin core ecc s
  | .vabs core ecc => Sys2Proof.Machine.execVabs core ecc s
  | .vneg core ecc => Sys2Proof.Machine.execVneg core ecc s
  | .vcopy core ecc => Sys2Proof.Machine.execVcopy core ecc s
  | .vtrans core ecc => Sys2Proof.Machine.execVtrans core ecc s
  | .vdrop core ecc => Sys2Proof.Machine.execVdrop core ecc s
  | .vrcp core ecc => Sys2Proof.Machine.execVrcp core ecc s
  | .vrsqrt core ecc => Sys2Proof.Machine.execVrsqrt core ecc s
  | .vsqrt core ecc => Sys2Proof.Machine.execVsqrt core ecc s
  | .vexp core ecc => Sys2Proof.Machine.execVexp core ecc s
  | .vexp2 core ecc => Sys2Proof.Machine.execVexp2 core ecc s
  | .vlog2 core ecc => Sys2Proof.Machine.execVlog2 core ecc s
  | .vtanh core ecc => Sys2Proof.Machine.execVtanh core ecc s
  | .vsigmoid core ecc => Sys2Proof.Machine.execVsigmoid core ecc s
  | .vsin core ecc => Sys2Proof.Machine.execVsin core ecc s
  | .vcos core ecc => Sys2Proof.Machine.execVcos core ecc s
  | .vrsum core ecc => Sys2Proof.Machine.execVrsum core ecc s
  | .vrsumsq core ecc => Sys2Proof.Machine.execVrsumsq core ecc s
  | .vrmax core ecc => Sys2Proof.Machine.execVrmax core ecc s
  | .vcsum core ecc => Sys2Proof.Machine.execVcsum core ecc s
  | .vcsumsq core ecc => Sys2Proof.Machine.execVcsumsq core ecc s
  | .vcmax core ecc => Sys2Proof.Machine.execVcmax core ecc s
  | .vrLoad core reg off => Sys2Proof.Machine.execVrLoad core reg off s
  | .vrStore core reg off => Sys2Proof.Machine.execVrStore core reg off s
  | .vrFrombuf core reg buf row => Sys2Proof.Machine.execVrFrombuf core reg buf row s
  | .vrOp core opc dst a b c => Sys2Proof.Machine.execVrOp core opc dst a b c s
  | .farm core ecc => Sys2Proof.Machine.execFarm core ecc s
  | .sxfer core ecc => Sys2Proof.Machine.execSxfer core ecc s
  | .chunkArrival core => Sys2Proof.Machine.execChunkArrival core s
  | .transferSuspend core => Sys2Proof.Machine.execTransferSuspend core s
  | .faultResolved tenant va => Sys2Proof.Machine.execFaultResolved tenant va s
  | .peaPut core ecc => Sys2Proof.Machine.execPeaPut core ecc s
  | .peaGet core ecc => Sys2Proof.Machine.execPeaGet core ecc s
  | .peaAdd core ecc => Sys2Proof.Machine.execPeaAdd core ecc s
  | .peaArrival core target => Sys2Proof.Machine.execPeaArrival core target s
  | .tier1Read who addr ecc => Sys2Proof.Machine.execTier1Read who addr ecc s
  | .tier1Write who addr data poison => Sys2Proof.Machine.execTier1Write who addr data poison s
  | .mergedWrite who addr data ecc => Sys2Proof.Machine.execMergedWrite who addr data ecc s
  | .frameStart die frame => Sys2Proof.Machine.execFrameStart die frame s
  | .perBankRefresh die ch rank => Sys2Proof.Machine.execPerBankRefresh die ch rank s
  | .refreshManagement die ch rank bank => Sys2Proof.Machine.execRefreshManagement die ch rank bank s
  | .modeRegisterReadout die codes => Sys2Proof.Machine.execModeRegisterReadout die codes s
  | .pageRetire who die page => Sys2Proof.Machine.execPageRetire who die page s
  | .retireComplete die ok => Sys2Proof.Machine.execRetireComplete die ok s
  | .retirementWriteTimeout die => Sys2Proof.Machine.execRetirementWriteTimeout die s
  | .zeroFillComplete => Sys2Proof.Machine.execZeroFillComplete s
  | .tbList core ecc => Sys2Proof.Machine.execTbList core ecc s
  | .tuberRecordStart start => Sys2Proof.Machine.execTuberRecordStart start s
  | .tput list => Sys2Proof.Machine.execTput list s
  | .tget list => Sys2Proof.Machine.execTget list s
  | .tlatch list => Sys2Proof.Machine.execTlatch list s
  | .tmv list => Sys2Proof.Machine.execTmv list s
  | .tsq list => Sys2Proof.Machine.execTsq list s
  | .tupd list => Sys2Proof.Machine.execTupd list s
  | .tarm list => Sys2Proof.Machine.execTarm list s
  | .tewAdd list => Sys2Proof.Machine.execTewAdd list s
  | .tewMul list => Sys2Proof.Machine.execTewMul list s
  | .tewFma list => Sys2Proof.Machine.execTewFma list s
  | .tewMax list => Sys2Proof.Machine.execTewMax list s
  | .tewExp list => Sys2Proof.Machine.execTewExp list s
  | .tewGate list => Sys2Proof.Machine.execTewGate list s
  | .tewRotary list => Sys2Proof.Machine.execTewRotary list s
  | .tewConvert list => Sys2Proof.Machine.execTewConvert list s
  | .tewRowMax list => Sys2Proof.Machine.execTewRowMax list s
  | .tewRowSum list => Sys2Proof.Machine.execTewRowSum list s
  | .tewDivide list => Sys2Proof.Machine.execTewDivide list s
  | .tbListComplete list => Sys2Proof.Machine.execTbListComplete list s
  | .t2Open tenant entry => Sys2Proof.Machine.execT2Open tenant entry s
  | .t2Write tenant entry => Sys2Proof.Machine.execT2Write tenant entry s
  | .t2Seal tenant entry => Sys2Proof.Machine.execT2Seal tenant entry s
  | .t2SealCommit tenant id ok => Sys2Proof.Machine.execT2SealCommit tenant id ok s
  | .t2Abort tenant entry => Sys2Proof.Machine.execT2Abort tenant entry s
  | .t2Delete tenant entry => Sys2Proof.Machine.execT2Delete tenant entry s
  | .heatEpochEnd => Sys2Proof.Machine.execHeatEpochEnd s
  | .promotionBegin => Sys2Proof.Machine.execPromotionBegin s
  | .promotionCopyComplete => Sys2Proof.Machine.execPromotionCopyComplete s
  | .quotaChange who tenant tier pages => Sys2Proof.Machine.execQuotaChange who tenant tier pages s
  | .updStep core ecc => Sys2Proof.Machine.execUpdStep core ecc s
  | .updSnap core ecc => Sys2Proof.Machine.execUpdSnap core ecc s
  | .updApply core ecc => Sys2Proof.Machine.execUpdApply core ecc s
  | .updAdvance core ecc => Sys2Proof.Machine.execUpdAdvance core ecc s
  | .gradientRecordLanded slot shard entry record => Sys2Proof.Machine.execGradientRecordLanded slot shard entry record s
  | .globalNormComplete slot => Sys2Proof.Machine.execGlobalNormComplete slot s
  | .updateStageEnd slot => Sys2Proof.Machine.execUpdateStageEnd slot s
  | .segAck slot => Sys2Proof.Machine.execSegAck slot s
  | .endAck slot count digest => Sys2Proof.Machine.execEndAck slot count digest s
  | .compressBlock die ctl => Sys2Proof.Machine.execCompressBlock die ctl s
  | .expandBlock die ctl => Sys2Proof.Machine.execExpandBlock die ctl s
  | .portTraining port ev => Sys2Proof.Machine.execPortTraining port ev s
  | .trainingStepTimeout port => Sys2Proof.Machine.execTrainingStepTimeout port s
  | .trainingRetry port => Sys2Proof.Machine.execTrainingRetry port s
  | .dataFlit port fixed bytes => Sys2Proof.Machine.execDataFlit port fixed bytes s
  | .controlFlit port fixed frac bytes => Sys2Proof.Machine.execControlFlit port fixed frac bytes s
  | .ackTimeout port => Sys2Proof.Machine.execAckTimeout port s
  | .fastRetrain port lane => Sys2Proof.Machine.execFastRetrain port lane s
  | .fastRetrainTimeout port => Sys2Proof.Machine.execFastRetrainTimeout port s
  | .put from_ => Sys2Proof.Machine.execPut from_ s
  | .get from_ => Sys2Proof.Machine.execGet from_ s
  | .getResp port => Sys2Proof.Machine.execGetResp port s
  | .atomic from_ => Sys2Proof.Machine.execAtomic from_ s
  | .collSeg port => Sys2Proof.Machine.execCollSeg port s
  | .ack port => Sys2Proof.Machine.execAck port s
  | .time port => Sys2Proof.Machine.execTime port s
  | .fenceNotice port => Sys2Proof.Machine.execFenceNotice port s
  | .beacon port => Sys2Proof.Machine.execBeacon port s
  | .beaconAck port => Sys2Proof.Machine.execBeaconAck port s
  | .suspect port => Sys2Proof.Machine.execSuspect port s
  | .propose port => Sys2Proof.Machine.execPropose port s
  | .drained port => Sys2Proof.Machine.execDrained port s
  | .install port => Sys2Proof.Machine.execInstall port s
  | .join port => Sys2Proof.Machine.execJoin port s
  | .leave port => Sys2Proof.Machine.execLeave port s
  | .drainMiss port => Sys2Proof.Machine.execDrainMiss port s
  | .beaconTick => Sys2Proof.Machine.execBeaconTick s
  | .beaconAckDeadline => Sys2Proof.Machine.execBeaconAckDeadline s
  | .linkSilent port => Sys2Proof.Machine.execLinkSilent port s
  | .leaseExpiry => Sys2Proof.Machine.execLeaseExpiry s
  | .declaration node => Sys2Proof.Machine.execDeclaration node s
  | .succession => Sys2Proof.Machine.execSuccession s
  | .drainDone => Sys2Proof.Machine.execDrainDone s
  | .drainedDeadline => Sys2Proof.Machine.execDrainedDeadline s
  | .drainMessageTimeout => Sys2Proof.Machine.execDrainMessageTimeout s
  | .proposalTimeout => Sys2Proof.Machine.execProposalTimeout s
  | .fragmentTimeout => Sys2Proof.Machine.execFragmentTimeout s
  | .heldFrameTimeout => Sys2Proof.Machine.execHeldFrameTimeout s
  | .outOfTime => Sys2Proof.Machine.execOutOfTime s
  | .gather core ecc => Sys2Proof.Machine.execGather core ecc s
  | .rscat core ecc => Sys2Proof.Machine.execRscat core ecc s
  | .allred core ecc => Sys2Proof.Machine.execAllred core ecc s
  | .perm core ecc => Sys2Proof.Machine.execPerm core ecc s
  | .collectiveComplete id => Sys2Proof.Machine.execCollectiveComplete id s
  | .attach who value => Sys2Proof.Machine.execAttach who value s
  | .detach who value => Sys2Proof.Machine.execDetach who value s
  | .heartbeat who => Sys2Proof.Machine.execHeartbeat who s
  | .heartbeatTimeout => Sys2Proof.Machine.execHeartbeatTimeout s
  | .hostLinkDown => Sys2Proof.Machine.execHostLinkDown s
  | .hostPortReset port speed width => Sys2Proof.Machine.execHostPortReset port speed width s
  | .hreg who => Sys2Proof.Machine.execHreg who s
  | .dreg who => Sys2Proof.Machine.execDreg who s
  | .rrel who => Sys2Proof.Machine.execRrel who s
  | .dbell who => Sys2Proof.Machine.execDbell who s
  | .qset who => Sys2Proof.Machine.execQset who s
  | .qreset who => Sys2Proof.Machine.execQreset who s
  | .doorbell tenant line => Sys2Proof.Machine.execDoorbell tenant line s
  | .jobStart tenant job => Sys2Proof.Machine.execJobStart tenant job s
  | .jobStop tenant entry => Sys2Proof.Machine.execJobStop tenant entry s
  | .fenceCommand tenant entry => Sys2Proof.Machine.execFenceCommand tenant entry s
  | .tbSubmit tenant entry => Sys2Proof.Machine.execTbSubmit tenant entry s
  | .reshard tenant entry => Sys2Proof.Machine.execReshard tenant entry s
  | .hqPost core ecc => Sys2Proof.Machine.execHqPost core ecc s
  | .hqTake core ecc entry => Sys2Proof.Machine.execHqTake core ecc entry s
  | .hqResume core entry => Sys2Proof.Machine.execHqResume core entry s
  | .placementWrite requester off data => Sys2Proof.Machine.execPlacementWrite requester off data s
  | .placementNotify requester off data => Sys2Proof.Machine.execPlacementNotify requester off data s
  | .cxlMemAccess port off data poison => Sys2Proof.Machine.execCxlMemAccess port off data poison s
  | .hostDmaComplete id data poison => Sys2Proof.Machine.execHostDmaComplete id data poison s
  | .hostDmaTimeout id => Sys2Proof.Machine.execHostDmaTimeout id s
  | .powerGood => Sys2Proof.Machine.execPowerGood s
  | .startStage1 rep => Sys2Proof.Machine.execStartStage1 rep s
  | .startStage2 rep => Sys2Proof.Machine.execStartStage2 rep s
  | .startStage3 rep => Sys2Proof.Machine.execStartStage3 rep s
  | .stageLimitTimeout stage => Sys2Proof.Machine.execStageLimitTimeout stage s
  | .watchdogTimeout armed => Sys2Proof.Machine.execWatchdogTimeout armed s
  | .referenceLoss armed => Sys2Proof.Machine.execReferenceLoss armed s
  | .d2dLinkFault link wing dir replays => Sys2Proof.Machine.execD2dLinkFault link wing dir replays s
  | .guestMessage tag msg => Sys2Proof.Machine.execGuestMessage tag msg s
  | .guestCommandTimeout tag => Sys2Proof.Machine.execGuestCommandTimeout tag s
  | .guestReady => Sys2Proof.Machine.execGuestReady s
  | .guestReadyTimeout => Sys2Proof.Machine.execGuestReadyTimeout s
  | .status => Sys2Proof.Machine.execStatus s
  | .norOpen slot => Sys2Proof.Machine.execNorOpen slot s
  | .norWrite off data => Sys2Proof.Machine.execNorWrite off data s
  | .norClose check bad => Sys2Proof.Machine.execNorClose check bad s
  | .release => Sys2Proof.Machine.execRelease s
  | .reset => Sys2Proof.Machine.execReset s
  | .testUnlock record sigOk => Sys2Proof.Machine.execTestUnlock record sigOk s
  | .logRead slot => Sys2Proof.Machine.execLogRead slot s
  | .idcode => Sys2Proof.Machine.execIdcode s
  | .samplePreload pins => Sys2Proof.Machine.execSamplePreload pins s
  | .extest => Sys2Proof.Machine.execExtest s
  | .dieWrapperSelect => Sys2Proof.Machine.execDieWrapperSelect s
  | .instrumentAccess inst => Sys2Proof.Machine.execInstrumentAccess inst s
  | .bypass => Sys2Proof.Machine.execBypass s
  | .testReset => Sys2Proof.Machine.execTestReset s
  | .sensorSample readings => Sys2Proof.Machine.execSensorSample readings s
  | .inputSample mv rail => Sys2Proof.Machine.execInputSample mv rail s
  | .powerLoss => Sys2Proof.Machine.execPowerLoss s
  | .crumbSealTimeout => Sys2Proof.Machine.execCrumbSealTimeout s
  | .overvoltageDisconnect => Sys2Proof.Machine.execOvervoltageDisconnect s
  | .modEnLow => Sys2Proof.Machine.execModEnLow s
  | .onTimeTick => Sys2Proof.Machine.execOnTimeTick s
  | .watchRecordAck => Sys2Proof.Machine.execWatchRecordAck s
  | .watchAckTimeout => Sys2Proof.Machine.execWatchAckTimeout s
  | .takeoverTimeout => Sys2Proof.Machine.execTakeoverTimeout s
  | .plannedTakeoverTimeout => Sys2Proof.Machine.execPlannedTakeoverTimeout s
  | .fullModuleTest => Sys2Proof.Machine.execFullModuleTest s
  | .beaconModeTimeout port => Sys2Proof.Machine.execBeaconModeTimeout port s
  | .leaderLeaseExpiry => Sys2Proof.Machine.execLeaderLeaseExpiry s
  | .watchSessionRecord node msg => Sys2Proof.Machine.execWatchSessionRecord node msg s
  | .crumbSealComplete => Sys2Proof.Machine.execCrumbSealComplete s
  | .guestResetRelease => Sys2Proof.Machine.execGuestResetRelease s
  | .holdUpBoostComplete energy => Sys2Proof.Machine.execHoldUpBoostComplete energy s
  | .p3v3AuxRise straps => Sys2Proof.Machine.execP3v3AuxRise straps s
  | .joinBatchInterval => Sys2Proof.Machine.execJoinBatchInterval s
  | .fullModuleTestComplete ok => Sys2Proof.Machine.execFullModuleTestComplete ok s
  | .commandTakeWindow => Sys2Proof.Machine.execCommandTakeWindow s

end Sys2Proof.Machine
end

