-- ==== Sys2Proof/WellFormed.lean ====
section
/-!
DEFINITION. Well-formed commands: operands in the ranges the manual numbers (R14, R387, R86, R148, R198, R226, R277, R420, R426,
R488). A meaning is total all the same: an operand out of range names nothing, and the command changes nothing or is logged.
-/

namespace Sys2Proof

open Machine

/-- A number below `n`. -/
def below (n x : Nat) : Bool := decide (x < n)
/-- A core of the module (R14). -/
def coreOk (n : Nat) : Bool := below 64 n
/-- A compute die (R14). -/
def dieOk (d : Nat) : Bool := below 4 d
/-- A Griuk Link port (R14). -/
def portOk (p : Nat) : Bool := below 18 p
/-- A tenant (R14). -/
def tenantOk (t : Nat) : Bool := below 4096 t
/-- A tier whose quota is written (R414). -/
def tierOk (t : Nat) : Bool := t == 1 || t == 2
/-- A requester index and sub-index (R387). -/
def whoOk (w : Who) : Bool := below 256 w.index && below 65536 w.sub
/-- A width of a register access (R22). -/
def widthOk (w : Nat) : Bool := w == 32 || w == 64
/-- At least one and at most `n` bytes. -/
def lengthOk (n : Nat) (l : List Byte) : Bool := decide (l.length ≠ 0) && decide (l.length ≤ n)
/-- Exactly `n` bytes. -/
def exactly (n : Nat) (l : List Byte) : Bool := l.length == n

/-- Whether the operands of a command are in range. -/
def Instr.wellFormed (i : Instr) : Bool :=
  match i with
  | .registerWrite who width off value _ => whoOk who && widthOk width && below 0x5000000 off && below (2 ^ width) value
  | .registerReadClear who width off _ => whoOk who && widthOk width && below 0x5000000 off
  | .registerSplitLowRead who off => whoOk who && below 0x5000000 off
  | .beatStart _ _ _ => true
  | .slotStart core => coreOk core
  | .fillYield core => coreOk core
  | .contextSaved core => coreOk core
  | .contextRestored core => coreOk core
  | .drain who core => whoOk who && coreOk core
  | .resume who core => whoOk who && coreOk core
  | .bankSwitchRequest who core => whoOk who && coreOk core
  | .bankSwitchCancel who core => whoOk who && coreOk core
  | .programWordCommit who core _ => whoOk who && coreOk core
  | .engineDispatch core => coreOk core
  | .waitGroupRelease core _ => coreOk core
  | .nop core _ => coreOk core
  | .jump core _ => coreOk core
  | .branchNz core _ => coreOk core
  | .branchZ core _ => coreOk core
  | .loop core _ => coreOk core
  | .loopEnd core _ => coreOk core
  | .fence core _ => coreOk core
  | .fenceComplete core => coreOk core
  | .tickEnd core _ => coreOk core
  | .tickEndRetire core => coreOk core
  | .halt core _ => coreOk core
  | .haltRetire core => coreOk core
  | .readFlags core _ => coreOk core
  | .clearFlags core _ => coreOk core
  | .movi core _ => coreOk core
  | .add core _ => coreOk core
  | .sub core _ => coreOk core
  | .mul core _ => coreOk core
  | .and core _ => coreOk core
  | .or core _ => coreOk core
  | .xor core _ => coreOk core
  | .shl core _ => coreOk core
  | .shr core _ => coreOk core
  | .sltu core _ => coreOk core
  | .addi core _ => coreOk core
  | .tseq core _ => coreOk core
  | .tseqConv core _ => coreOk core
  | .unitComplete core => coreOk core
  | .convSet core _ => coreOk core
  | .ballastHoldExpiry core array => coreOk core && below 4 array
  | .ballastRampUp core array => coreOk core && below 4 array
  | .vsetsave core _ => coreOk core
  | .vsrSet core _ => coreOk core
  | .vload core _ => coreOk core
  | .vstore core _ => coreOk core
  | .vstoreArrival core => coreOk core
  | .vadd core _ => coreOk core
  | .vsub core _ => coreOk core
  | .vmul core _ => coreOk core
  | .vfma core _ => coreOk core
  | .vmax core _ => coreOk core
  | .vmin core _ => coreOk core
  | .vabs core _ => coreOk core
  | .vneg core _ => coreOk core
  | .vcopy core _ => coreOk core
  | .vtrans core _ => coreOk core
  | .vdrop core _ => coreOk core
  | .vrcp core _ => coreOk core
  | .vrsqrt core _ => coreOk core
  | .vsqrt core _ => coreOk core
  | .vexp core _ => coreOk core
  | .vexp2 core _ => coreOk core
  | .vlog2 core _ => coreOk core
  | .vtanh core _ => coreOk core
  | .vsigmoid core _ => coreOk core
  | .vsin core _ => coreOk core
  | .vcos core _ => coreOk core
  | .vrsum core _ => coreOk core
  | .vrsumsq core _ => coreOk core
  | .vrmax core _ => coreOk core
  | .vcsum core _ => coreOk core
  | .vcsumsq core _ => coreOk core
  | .vcmax core _ => coreOk core
  | .vrLoad core reg off => coreOk core && below 32 reg && below (2 ^ 23) off
  | .vrStore core reg off => coreOk core && below 32 reg && below (2 ^ 23) off
  | .vrFrombuf core reg buf row => coreOk core && below 32 reg && below 4 buf && below 96 row
  | .vrOp core opc dst a b c => coreOk core && below 64 opc && below 32 dst && below 32 a && below 32 b && below 32 c
  | .farm core _ => coreOk core
  | .sxfer core _ => coreOk core
  | .chunkArrival core => coreOk core
  | .transferSuspend core => coreOk core
  | .faultResolved tenant va => tenantOk tenant && below (2 ^ 48) va
  | .peaPut core _ => coreOk core
  | .peaGet core _ => coreOk core
  | .peaAdd core _ => coreOk core
  | .peaArrival core _ => coreOk core
  | .tier1Read who addr _ => whoOk who && below (2 ^ 48) addr
  | .tier1Write who addr _ _ => whoOk who && below (2 ^ 48) addr
  | .mergedWrite who addr data _ => whoOk who && below (2 ^ 48) addr && lengthOk 64 data
  | .frameStart die f => dieOk die && below 32 f.ch && f.dece.all (below 256)
  | .perBankRefresh die ch rank => dieOk die && below 32 ch && below 4 rank
  | .refreshManagement die ch rank bank => dieOk die && below 32 ch && below 4 rank && below 16 bank
  | .modeRegisterReadout die _ => dieOk die
  | .pageRetire who die page => whoOk who && dieOk die && below (2 ^ 20) page
  | .retireComplete die _ => dieOk die
  | .retirementWriteTimeout die => dieOk die
  | .zeroFillComplete => true
  | .tbList core _ => coreOk core
  | .tuberRecordStart _ => true
  | .tput _ => true
  | .tget _ => true
  | .tlatch _ => true
  | .tmv _ => true
  | .tsq _ => true
  | .tupd _ => true
  | .tarm _ => true
  | .tewAdd _ => true
  | .tewMul _ => true
  | .tewFma _ => true
  | .tewMax _ => true
  | .tewExp _ => true
  | .tewGate _ => true
  | .tewRotary _ => true
  | .tewConvert _ => true
  | .tewRowMax _ => true
  | .tewRowSum _ => true
  | .tewDivide _ => true
  | .tbListComplete _ => true
  | .t2Open tenant _ => tenantOk tenant
  | .t2Write tenant _ => tenantOk tenant
  | .t2Seal tenant _ => tenantOk tenant
  | .t2SealCommit tenant _ _ => tenantOk tenant
  | .t2Abort tenant _ => tenantOk tenant
  | .t2Delete tenant _ => tenantOk tenant
  | .heatEpochEnd => true
  | .promotionBegin => true
  | .promotionCopyComplete => true
  | .quotaChange who tenant tier _ => whoOk who && tenantOk tenant && tierOk tier
  | .updStep core _ => coreOk core
  | .updSnap core _ => coreOk core
  | .updApply core _ => coreOk core
  | .updAdvance core _ => coreOk core
  | .gradientRecordLanded slot shard _ _ => below 16 slot && below 256 shard
  | .globalNormComplete slot => below 16 slot
  | .updateStageEnd slot => below 16 slot
  | .segAck slot => below 16 slot
  | .endAck slot _ _ => below 16 slot
  | .compressBlock die ctl => dieOk die && below 8 ctl
  | .expandBlock die ctl => dieOk die && below 8 ctl
  | .portTraining port _ => portOk port
  | .trainingStepTimeout port => portOk port
  | .trainingRetry port => portOk port
  | .dataFlit port _ bytes => portOk port && exactly 256 bytes
  | .controlFlit port _ _ _ => portOk port
  | .ackTimeout port => portOk port
  | .fastRetrain port lane => portOk port && below 9 lane
  | .fastRetrainTimeout port => portOk port
  | .put f => portOk f.port && below 65536 f.prog
  | .get f => portOk f.port && below 65536 f.prog
  | .getResp port => portOk port
  | .atomic f => portOk f.port && below 65536 f.prog
  | .collSeg port => portOk port
  | .ack port => portOk port
  | .time port => portOk port
  | .fenceNotice port => portOk port
  | .beacon port => portOk port
  | .beaconAck port => portOk port
  | .suspect port => portOk port
  | .propose port => portOk port
  | .drained port => portOk port
  | .install port => portOk port
  | .join port => portOk port
  | .leave port => portOk port
  | .drainMiss port => portOk port
  | .beaconTick => true
  | .beaconAckDeadline => true
  | .linkSilent port => portOk port
  | .leaseExpiry => true
  | .declaration node => below (2 ^ 18) node
  | .succession => true
  | .drainDone => true
  | .drainedDeadline => true
  | .drainMessageTimeout => true
  | .proposalTimeout => true
  | .fragmentTimeout => true
  | .heldFrameTimeout => true
  | .outOfTime => true
  | .gather core _ => coreOk core
  | .rscat core _ => coreOk core
  | .allred core _ => coreOk core
  | .perm core _ => coreOk core
  | .collectiveComplete _ => true
  | .attach who _ => whoOk who
  | .detach who _ => whoOk who
  | .heartbeat who => whoOk who
  | .heartbeatTimeout => true
  | .hostLinkDown => true
  | .hostPortReset port speed width => below 2 port && below 7 speed && below 17 width
  | .hreg who => whoOk who
  | .dreg who => whoOk who
  | .rrel who => whoOk who
  | .dbell who => whoOk who
  | .qset who => whoOk who
  | .qreset who => whoOk who
  | .doorbell tenant _ => tenantOk tenant
  | .jobStart tenant j => tenantOk tenant && j.told.all (fun t => decide (t.1 < 4096) && decide (t.2 < 7))
  | .jobStop tenant _ => tenantOk tenant
  | .fenceCommand tenant _ => tenantOk tenant
  | .tbSubmit tenant _ => tenantOk tenant
  | .reshard tenant _ => tenantOk tenant
  | .hqPost core _ => coreOk core
  | .hqTake core _ _ => coreOk core
  | .hqResume core _ => coreOk core
  | .placementWrite requester off _ => below 65536 requester && below (2 ^ 39) off
  | .placementNotify requester off _ => below 65536 requester && below (2 ^ 39) off
  | .cxlMemAccess port off _ _ => below 2 port && below (2 ^ 41) off
  | .hostDmaComplete _ _ _ => true
  | .hostDmaTimeout _ => true
  | .powerGood => true
  | .startStage1 _ => true
  | .startStage2 _ => true
  | .startStage3 _ => true
  | .stageLimitTimeout stage => below 4 stage
  | .watchdogTimeout _ => true
  | .referenceLoss _ => true
  | .d2dLinkFault link wing dir _ => below 5 link && below 12 wing && below 2 dir
  | .guestMessage _ _ => true
  | .guestCommandTimeout _ => true
  | .guestReady => true
  | .guestReadyTimeout => true
  | .status => true
  | .norOpen slot => below 2 slot
  | .norWrite off data => below 0x2000000 off && lengthOk 248 data
  | .norClose _ _ => true
  | .release => true
  | .reset => true
  | .testUnlock record _ => exactly 128 record
  | .logRead slot => below 2048 slot
  | .idcode => true
  | .samplePreload _ => true
  | .extest => true
  | .dieWrapperSelect => true
  | .instrumentAccess inst => below 5 inst
  | .bypass => true
  | .testReset => true
  | .sensorSample _ => true
  | .inputSample _ _ => true
  | .powerLoss => true
  | .crumbSealTimeout => true
  | .overvoltageDisconnect => true
  | .modEnLow => true
  | .onTimeTick => true
  | .watchRecordAck => true
  | .watchAckTimeout => true
  | .takeoverTimeout => true
  | .plannedTakeoverTimeout => true
  | .fullModuleTest => true
  | .beaconModeTimeout port => portOk port
  | .leaderLeaseExpiry => true
  | .watchSessionRecord node m => below (2 ^ 18) node && below (2 ^ 32) m.told.1
  | .crumbSealComplete => true
  | .guestResetRelease => true
  | .holdUpBoostComplete _ => true
  | .p3v3AuxRise straps => below 8 straps
  | .joinBatchInterval => true
  | .fullModuleTestComplete _ => true
  | .commandTakeWindow => true

end Sys2Proof
end

