-- ==== Sys2Proof/Safety.lean ====
section
/-!
DEFINITION. What the statements speak of: when an instruction issues, what counts as a state free of reserved codes, and the
frames that say what a command leaves alone.
-/

namespace Sys2Proof.Machine

/-- Context `k` runs on core `n`, and the word at its program counter, `w`, is fetched, legal and ready to issue (R72, R76, R81,
R102, R166). -/
structure State.Issues (s : State) (n k : Nat) (w : IWord) (ecc : Ecc) : Prop where
  running : (s.core n).running = some k
  going : s.stopped = false
  tick : (s.ctx n k).inTick = true
  free : (s.ctx n k).hold = .none
  inProgram : (s.ctx n k).pc < (s.ctx n k).prog.length
  readable : ecc ≠ .uncorrectable
  word : (s.core n).word (s.core n).active ((s.ctx n k).prog.start + (s.ctx n k).pc) = w
  legal : wordLegal w = true
  ready : (s.core n).waitState k w = .ready

/-- The state as an issued instruction finds it: a corrected program word has been recorded (R81). -/
def State.issued (s : State) (n k : Nat) (ecc : Ecc) : State := s.logCorrected n k ecc

/-- The state as an engine finds it that takes an issued instruction at once: the program counter is at the next one (R72). -/
def State.taken (s : State) (n k : Nat) (ecc : Ecc) : State := (s.issued n k ecc).updCtx n k Ctx.next

/-- Record `r` of list `l`, on home die `d`, has all that R240 to R242, R247 and R249 ask for before it starts. -/
structure State.MayStart (s : State) (l : TbList) (r : TRec) (d : Nat) : Prop where
  listed : s.listAt l.id = some l
  current : l.current = some r
  waiting : l.running = false
  good : l.code = 0
  going : s.stopped = false
  home : ∃ b, s.listSpan l r 0 = some (d, b)
  bands : r.usesBands = true → spanOk (s.listSpan l r) r.first r.bursts = true
  writable : s.putsRo l r = false
  still : s.bandsMove l r = false
  free : r.usesBands = true → s.banksHeld d l r = false
  allowed : s.listMayStart l d r = true
  set : (s.xgroupsSet d r).1 = true
  here : s.sourceOut l.tenant r = true → l.fetched r = true

/-- What waits for a list, a partial or an acknowledgment goes on: norms are asked for, held segments served, releases completed. -/
def State.resumed (s : State) : State :=
  (((s.jobs.map (·.1)).foldl (fun (s : State) k => if s.entriesOf k = [] then s else s.askNorm k) s).collPump).pumpRelease

/-- The entry that waits at the head of queue 0 of a tenant is a well-formed command of opcode `op`, and the host-queue engine takes it
now (R407, R408, R412). -/
structure State.Accepts (s : State) (tn : Nat) (e : Entry) (op : Nat) : Prop where
  opcode : entryField e 0 1 = op
  form : cmdOk e ((s.tenant tn).queue 0).cons = true
  waits : s.inputWaits tn 0 = true
  first : (s.tenant tn).held = []
  mayTake : s.mayAccept tn = true

/-- The state once the command has been taken: the consumer index goes on, the window counts it, it is open, and the engine's pointer stands
behind the tenant (R388, R403, R412). -/
def State.accepted (s : State) (tn : Nat) (e : Entry) : State :=
  let t := s.tenant tn
  { s.setTenant tn { t.setQueue 0 { t.queue 0 with cons := (t.queue 0).cons + 1 } with
      takeWin := s.now / 1000, takeCount := if t.takeWin = s.now / 1000 then t.takeCount + 1 else 1,
      open_ := t.open_ ++ [entryField e 4 4] } with hl := { s.hl with rot := tn + 1 } }

/-- The next block that controller `ctl` of a die adds to an owned sum (R320, R374): the instance, its entry, the sum, the destination
of its issue, the range, and the source shard, block, first element and count. -/
def State.nextExpand (s : State) (die ctl : Nat) : Option (CollInst × CollEntry × OwnSum × Nat × Nat × (Nat × Nat × Nat × Nat)) :=
  s.coll.insts.findSome? (fun i => match s.collEntry i.job i.coll with
    | some e =>
      if e.op = 1 then
        i.sums.findSome? (fun o => match i.issue o.shard with
          | some x => (List.range o.added.length).findSome? (fun q => match s.nextAdd i e o x.dst q with
            | some a => if s.blockAt i.job e a.1 o.shard a.2.1 = some (die, ctl) then some (i, e, o, x.dst, q, a) else none
            | none => none)
          | none => none)
      else none
    | none => none)

/-- Device memory once the step state of a job has been written to its page (R287): a job without a page writes none, and a page that is
quarantined takes nothing (R217). -/
def State.stepMem (s : State) (k : Nat) (st : StepSt) : Sp Byte :=
  match (s.job k).upd.page with
  | some p => if s.quarantined (p * pageSize) = true then s.mem else wrBytes s.mem (p * pageSize) st.bytes
  | none => s.mem

/-- The directory's record of the job that a JOB_START or JOB_STOP entry of a tenant names (R450). -/
def State.namedJob (s : State) (tn : Nat) (e : Entry) : Option JobRec :=
  match s.image with
  | some im => im.jobs.find? (fun j => j.job == entryField e 16 2 && j.tenant == tn)
  | none => none

/-- A job put into its slot, with promotions out of the way (R270, R273): what the allocator then works on. -/
def State.placing (s : State) (e : Entry) (j : JobRec) : State :=
  let k := j.slot
  let s := s.setJob k { Job.none with
    info := j, seed := BitVec.ofNat 64 (entryField e 24 8), cmd := e, upd := { UpdSt.none with st := StepSt.init j.eInit } }
  let ms : List (List (Nat × Nat)) := match s.image with
    | some im => ((im.stages.filter (fun m => m.1 == j.job)).flatMap (fun m => m.2.map (·.entries)))
    | none => []
  let mine := (ms.findIdx? (fun m => m.any (fun x => x.1 == s.self))).getD 0
  let s := s.updJob k (fun x => { x with map := s.firstMap k, stages := ms, stage := mine })
  s.dropWhile (fun _ => true) (fun s => decide (s.freeTotal < j.mand1) || (s.allocJob k).isNone) (s.t2.length + 1)

/-- The state once a new window of 1 µs has begun (R412). -/
def State.nextWindow (s : State) : State := s.advanceTo ((s.now / 1000 + 1) * 1000)

/-! ### What every step keeps -/

/-- The canonical form of device memory, of its poison marks and of the NOR flash: keys strictly rising, and no entry that an unlisted
key reads as. -/
def State.MemoryOk (s : State) : Prop := Memory.wf s.mem = true ∧ Sp.wf false s.poison = true ∧ Sp.wf 0xFF#8 s.nor = true

/-- The fields whose code spaces the register tables leave partly reserved hold no reserved code (R96, R277, R364, R415, R416, R455,
R460). -/
structure State.CodesOk (s : State) : Prop where
  beat : s.beats.exp ≤ 6
  maint : s.beats.maintExp ≤ 4
  heat : s.tiers.heatExp ≤ 6
  version : 1 ≤ s.gl.verMax ∧ s.gl.verMax ≤ 3
  session : s.hl.state ≤ 2
  mailbox : s.hl.cstate ≤ 3 ∧ s.hl.creason ≤ 8
  level : s.pm.level ≤ 4
  stage : s.start.stage ≤ 5

end Sys2Proof.Machine
end

