-- ==== Sys2Proof/Certificates/Slice0/Obligations.lean ====
section
/-!
DEFINITION. The statements of this row: what the commands of the block do, by the numbered rules of the manual, and what every step
keeps.
-/

open Sys2Proof Sys2Proof.Machine

/-- R15 and R390: who reaches a register and may write it. Beyond the register space (R15) the access is logged as one to an unmapped
address and answered with that status. -/
def Obligations.RegisterAccess : Prop :=
  (∀ (s : State) (who : Who) (off v hw : Nat), off % 4 = 0 → off < regSpace →
    (who.reaches = false →
      exec (.registerWrite who 32 off v hw) s = .next (s.logDiscard (regAddr off) who true) ∧
      exec (.registerReadClear who 32 off hw) s = .next { s.logDiscard (regAddr off) who false with resp := .reg 32 0 } ∧
      exec (.registerSplitLowRead who off) s = .next { s.logDiscard (regAddr off) who false with resp := .reg 32 0 }) ∧
    (who.reaches = true → s.reg32 off = none → s.reg64 (off / 8 * 8) = none →
      exec (.registerWrite who 32 off v hw) s = .next (s.logDiscard (regAddr off) who true) ∧
      exec (.registerReadClear who 32 off hw) s = .next { s.logDiscard (regAddr off) who false with resp := .reg 32 0 }) ∧
    (who.mayWrite off = false → exec (.registerWrite who 32 off v hw) s = .next (s.logDiscard (regAddr off) who true)) ∧
    (who.mayRead off = false →
      exec (.registerReadClear who 32 off hw) s = .next { s.logDiscard (regAddr off) who false with resp := .reg 32 0 })) ∧
  (∀ (s : State) (who : Who) (width off v hw : Nat), regSpace ≤ off →
    exec (.registerWrite who width off v hw) s = .next { s.logUnmapped (regAddr off) who true with resp := .unmapped } ∧
    exec (.registerReadClear who width off hw) s = .next { s.logUnmapped (regAddr off) who false with resp := .unmapped } ∧
    exec (.registerSplitLowRead who off) s = .next { s.logUnmapped (regAddr off) who false with resp := .unmapped })

/-- R18 and R19 on registers of each kind of access: a W1C bit is cleared by a 1, kept by a 0 and stays set where hardware sets it in
the same hc (CP_INT.fault of core n, written alone); an RW field takes the value written (TI_QSEL); an RO register ignores the
write (SY_RSTCAUSE); a code that no encoding table lists leaves TI_HEATCFG as it was and is logged (R21). -/
def Obligations.RegisterWrites : Prop :=
  ∀ (s : State) (who : Who) (v hw : Nat), who.index = 0 → v < 2 ^ 32 →
    (∀ n, n < 64 → v % 4 = 0 →
      exec (.registerWrite who 32 (0x1800020 + n / 16 * 0x1000000 + n % 16 * 0x10000) v hw) s =
        .next (s.setCore n { s.core n with fault := ((s.core n).fault && !v.testBit 3) || hw.testBit 3 })) ∧
    exec (.registerWrite who 32 0x800020 v hw) s = .next { s with tiers := { s.tiers with qsel := v % 4096 } } ∧
    exec (.registerWrite who 32 0x20 v hw) s = .next s ∧
    (v % 16 ≤ 6 → exec (.registerWrite who 32 0x800010 v hw) s = .next { s with tiers := { s.tiers with heatExp := v % 16 } }) ∧
    (6 < v % 16 → exec (.registerWrite who 32 0x800010 v hw) s = .next (s.logDiscard (regAddr 0x800010) who true))

/-- R18 and R19: a read of an RC count answers the value from before the access, and leaves the amount that hardware adds in the same
hc: CP_OVERRUNS of core n, MC_CE of die d, GL_FENCES. Nothing else changes but the answer. -/
def Obligations.ReadsClear : Prop :=
  ∀ (s : State) (who : Who) (hw : Nat), who.reaches = true → hw < 2 ^ 32 →
    (∀ n, n < 64 → exec (.registerReadClear who 32 (0x1800024 + n / 16 * 0x1000000 + n % 16 * 0x10000) hw) s =
      .next { s.setCore n { s.core n with overruns := BitVec.ofNat 32 hw } with resp := .reg 32 (s.core n).overruns.toNat }) ∧
    (∀ d, d < 4 → exec (.registerReadClear who 32 (0x1000010 + d * 0x1000000) hw) s =
      .next { s.setMc d { s.mcOf d with ce := BitVec.ofNat 32 hw } with resp := .reg 32 (s.mcOf d).ce.toNat }) ∧
    exec (.registerReadClear who 32 0x120018 hw) s =
      .next { s with gl := { s.gl with fences := BitVec.ofNat 32 hw }, resp := .reg 32 s.gl.fences.toNat }

/-- R22: a 32-bit read of the low half of a 64-bit register latches its high half for the requester, and the same requester's read of
the high half returns what was latched, whatever the register holds by then (shown for UP_TXBYTES of die d). A 32-bit write of the low
half is held and changes no register; the write of the high half applies both (shown for HL_CARG0); the high half alone is discarded and
logged, of a read-only 64-bit register too (shown for UP_TXBYTES, by the steward). -/
def Obligations.SplitAccesses : Prop :=
  (∀ (s : State) (who : Who) (d : Nat), who.reaches = true → d < 4 →
    let off := 0x1030030 + d * 0x1000000
    let v := (s.upAt d).txBytes.toNat
    ∃ t, exec (.registerSplitLowRead who off) s = .next t ∧ t.resp = .reg 32 (v % 2 ^ 32) ∧
      t = { s with split := t.split, resp := t.resp } ∧
      (∀ f, ∃ u, exec (.registerReadClear who 32 (off + 4) 0) (t.updUp d f) = .next u ∧ u.resp = .reg 32 (v / 2 ^ 32) ∧ u.up = (t.updUp d f).up)) ∧
  (∀ (s : State) (who : Who) (lo hi hw : Nat), who.reaches = true → lo < 2 ^ 32 → hi < 2 ^ 32 →
    (∃ t, exec (.registerWrite who 32 0x20028 lo hw) s = .next t ∧ t = { s with split := t.split } ∧
      ∃ u, exec (.registerWrite who 32 0x2002C hi hw) t = .next u ∧ u.hl = { s.hl with carg0 := BitVec.ofNat 64 (lo + hi * 2 ^ 32) } ∧
        u = { s with hl := u.hl, split := u.split }) ∧
    (halfOf s.split.low (halfKey who 0x20028) = none →
      exec (.registerWrite who 32 0x2002C hi hw) s = .next (s.logDiscard (regAddr 0x2002C) who true))) ∧
  (∀ (s : State) (who : Who) (d hi hw : Nat), who.index = 0 → d < 4 →
    let off := 0x1030030 + d * 0x1000000
    halfOf s.split.low (halfKey who off) = none →
      exec (.registerWrite who 32 (off + 4) hi hw) s = .next (s.logDiscard (regAddr (off + 4)) who true))

/-- R79 and R75: the scalar instructions, each with its whole next state. MOVI and ADDI take the immediate; the others take two
registers; shifts take the count modulo 32; arithmetic wraps modulo 2^32; s0 discards its result (`Ctx.setReg`). -/
def Obligations.ScalarResults : Prop :=
  ∀ (s : State) (n k : Nat) (w : IWord) (ecc : Ecc), s.Issues n k w ecc → w.cls = 1 →
    let t := fun (f : W32 → W32 → W32) => Host.Outcome.next (φ := Fault) (ρ := Refusal)
      ((s.issued n k ecc).updCtx n k (fun x => (x.setReg (scDst w) (f (x.reg (scA w)) (x.reg (scB w)))).next))
    (w.opc = 0x00 → exec (.movi n ecc) s = t (fun _ _ => ctlImm w)) ∧
    (w.opc = 0x01 → exec (.add n ecc) s = t (fun a b => a + b)) ∧
    (w.opc = 0x02 → exec (.sub n ecc) s = t (fun a b => a - b)) ∧
    (w.opc = 0x03 → exec (.mul n ecc) s = t (fun a b => a * b)) ∧
    (w.opc = 0x04 → exec (.and n ecc) s = t (fun a b => a &&& b)) ∧
    (w.opc = 0x05 → exec (.or n ecc) s = t (fun a b => a ||| b)) ∧
    (w.opc = 0x06 → exec (.xor n ecc) s = t (fun a b => a ^^^ b)) ∧
    (w.opc = 0x07 → exec (.shl n ecc) s = t (fun a b => a <<< (b.toNat % 32))) ∧
    (w.opc = 0x08 → exec (.shr n ecc) s = t (fun a b => a >>> (b.toNat % 32))) ∧
    (w.opc = 0x09 → exec (.sltu n ecc) s = t (fun a b => if a.toNat < b.toNat then 1 else 0)) ∧
    (w.opc = 0x0A → exec (.addi n ecc) s = t (fun a _ => a + ctlImm w))

/-- R78: NOP, the jumps and the loops, each with its whole next state: a branch goes to its target or to the next instruction;
LOOP pushes its count and the address of its body, or skips to its target at count 0; LOOP_END decrements, and goes to the body
or pops. -/
def Obligations.ControlFlow : Prop :=
  ∀ (s : State) (n k : Nat) (w : IWord) (ecc : Ecc), s.Issues n k w ecc → w.cls = 0 →
    let x := s.ctx n k
    let t := fun (y : Ctx) => Host.Outcome.next (φ := Fault) (ρ := Refusal) ((s.issued n k ecc).setCtx n k y)
    (w.opc = 0x00 → exec (.nop n ecc) s = t { x with pc := x.pc + 1 }) ∧
    (w.opc = 0x01 → ctlTarget w < x.prog.length → exec (.jump n ecc) s = t { x with pc := ctlTarget w }) ∧
    (w.opc = 0x02 → ctlTarget w < x.prog.length →
      exec (.branchNz n ecc) s = t { x with pc := if x.reg (ctlSreg w) ≠ 0 then ctlTarget w else x.pc + 1 }) ∧
    (w.opc = 0x03 → ctlTarget w < x.prog.length →
      exec (.branchZ n ecc) s = t { x with pc := if x.reg (ctlSreg w) = 0 then ctlTarget w else x.pc + 1 }) ∧
    (w.opc = 0x04 → ctlTarget w < x.prog.length → loopCount x w = 0 → exec (.loop n ecc) s = t { x with pc := ctlTarget w }) ∧
    (w.opc = 0x04 → ctlTarget w < x.prog.length → loopCount x w ≠ 0 → x.loops.length < 8 →
      exec (.loop n ecc) s = t { x with loops := (loopCount x w, x.pc + 1) :: x.loops, pc := x.pc + 1 }) ∧
    (∀ c body rest, w.opc = 0x05 → x.loops = (c, body) :: rest → c ≠ 1 →
      exec (.loopEnd n ecc) s = t { x with loops := (c - 1, body) :: rest, pc := body }) ∧
    (∀ body rest, w.opc = 0x05 → x.loops = (1, body) :: rest →
      exec (.loopEnd n ecc) s = t { x with loops := rest, pc := x.pc + 1 })

/-- R78: FENCE goes on where the context has nothing queued, running or outstanding and is held otherwise; TICK_END and HALT
hold the sequencer; READ_FLAGS copies the sticky flag word; CLEAR_FLAGS clears the flags its mask names. FENCE_COMPLETE releases
a held FENCE.
R75, R90, R91, R408: TICK_END_RETIRE completes the tick of the running context: s31 counts it, and its other registers and its flags
stay. A scheduled program has no tick in progress any more; a fill program whose job runs goes on with its next tick at its entry, in a
beat that stretching does not exclude. HALT_RETIRE leaves the context halted, with no tick in progress and every register as it was. A
context whose job is stopping is retired. A tick that ends before its beat does is no overrun; one that ends in the next beat is counted
as one, where the program has a slot and stretching does not exclude that beat. The registers, flags and program counters of every other
context stay; memory stays. -/
def Obligations.HoldsAndTicks : Prop :=
  ((∀ (s : State) (n k : Nat) (w : IWord) (ecc : Ecc), s.Issues n k w ecc → w.cls = 0 →
    let x := s.ctx n k
    let t := fun (y : Ctx) => Host.Outcome.next (φ := Fault) (ρ := Refusal) ((s.issued n k ecc).setCtx n k y)
    (w.opc = 0x06 → s.quiet n k = true → exec (.fence n ecc) s = t { x with pc := x.pc + 1, ve := none }) ∧
    (w.opc = 0x06 → s.quiet n k = false → exec (.fence n ecc) s = t { x with hold := .fence }) ∧
    (w.opc = 0x07 → exec (.tickEnd n ecc) s = t { x with hold := .tickEnd }) ∧
    (w.opc = 0x08 → exec (.halt n ecc) s = t { x with hold := .halt }) ∧
    (w.opc = 0x09 → exec (.readFlags n ecc) s = t (x.setReg (ctlSreg w) (x.flags.setWidth 32)).next) ∧
    (w.opc = 0x0A → exec (.clearFlags n ecc) s =
      t { x with flags := x.flags &&& ~~~ ((ctlImm w).setWidth 7), pc := x.pc + 1 })) ∧
  (∀ (s : State) (n k : Nat), (s.core n).running = some k → (s.ctx n k).hold = .fence → s.quiet n k = true → s.stopped = false →
    exec (.fenceComplete n) s = .next (s.updCtx n k (fun x => { x with hold := .none, pc := x.pc + 1, ve := none })))) ∧
  (∀ (s : State) (n k : Nat) (f : Bool), (s.core n).run = .running k f → s.quiet n k = true → s.stopped = false →
    let x := s.ctx n k
    let stops := (s.jobSlot x.prog).any (fun j => (s.job j).life == .stopping)
    let goesOn := f = true ∧ x.life = .live ∧ s.mayTick n x.prog = true ∧ s.excludes s.beats.beat = false
    let b := s.now / s.beatLen
    (x.hold = .tickEnd → ∃ t, exec (.tickEndRetire n) s = .next t ∧
      (t.ctx n k).reg 31 = x.reg 31 + 1 ∧ (∀ r, r < 31 → (t.ctx n k).reg r = x.reg r) ∧ (t.ctx n k).flags = x.flags ∧
      (t.ctx n k).hold = .none ∧ (t.ctx n k).life = (if stops then .retired else x.life) ∧
      (goesOn → (t.ctx n k).inTick = true ∧ (t.ctx n k).pc = x.prog.entry) ∧ (¬goesOn → (t.ctx n k).inTick = false) ∧
      (f = true ∨ b ≤ s.beats.beat → (t.core n).overruns = (s.core n).overruns) ∧
      (f = false → b = s.beats.beat + 1 → (firstSlot (s.core n).slots x.prog.id).isSome = true → b % 2 ^ s.stretchOf b = 0 →
        (t.core n).overruns = satAdd32 (s.core n).overruns 1) ∧
      (∀ j, j ≠ k → (t.ctx n j).regs = (s.ctx n j).regs ∧ (t.ctx n j).flags = (s.ctx n j).flags ∧ (t.ctx n j).pc = (s.ctx n j).pc) ∧
      t.mem = s.mem) ∧
    (x.hold = .halt → ∃ t, exec (.haltRetire n) s = .next t ∧
      (∀ r, (t.ctx n k).reg r = x.reg r) ∧ (t.ctx n k).flags = x.flags ∧ (t.ctx n k).hold = .none ∧
      (t.ctx n k).life = (if stops then .retired else .halted) ∧ (t.ctx n k).inTick = false ∧
      (∀ j, j ≠ k → (t.ctx n j).regs = (s.ctx n j).regs ∧ (t.ctx n j).flags = (s.ctx n j).flags ∧ (t.ctx n j).pc = (s.ctx n j).pc) ∧
      t.mem = s.mem))

/-- R102, R103: what the sequencer cannot take is a fault of the running context, recorded in CP_INT with its code: an illegal word
0x01, an uncorrectable program word 0x03, a fetch beyond the program 0x05, whichever control or scalar instruction the command names. The
context is parked, with its registers as they were, and runs no tick; its job stops, and with it, once no tick of it is in progress, the
context is retired. Fault 0x03 is a fault of the module instead. -/
def Obligations.FetchFaults : Prop :=
  ∀ (s : State) (n k : Nat) (ecc : Ecc), (s.core n).running = some k → s.stopped = false → (s.ctx n k).inTick = true →
    (s.ctx n k).hold = .none →
    let x := s.ctx n k
    let w := (s.core n).word (s.core n).active (x.prog.start + x.pc)
    let code := if x.prog.length ≤ x.pc then 5 else if ecc = .uncorrectable then 3 else 1
    (x.prog.length ≤ x.pc ∨ ecc = .uncorrectable ∨ wordLegal w = false) →
    ∀ i ∈ [Instr.nop n ecc, .jump n ecc, .branchNz n ecc, .branchZ n ecc, .loop n ecc, .loopEnd n ecc, .fence n ecc, .tickEnd n ecc,
        .halt n ecc, .readFlags n ecc, .clearFlags n ecc, .movi n ecc, .add n ecc, .sub n ecc, .mul n ecc, .and n ecc, .or n ecc,
        .xor n ecc, .shl n ecc, .shr n ecc, .sltu n ecc, .addi n ecc],
      ∃ t, exec i s = .next t ∧ (t.core n).fault = true ∧ (t.core n).faultCode = code ∧ (t.core n).faultCtx = k ∧
        ((t.ctx n k).life = .parked ∨ (t.ctx n k).life = .retired) ∧ (t.ctx n k).inTick = false ∧ (t.ctx n k).regs = x.regs ∧
        t.mem = s.mem ∧
        (s.jobSlot x.prog = none ∨ code = 3 → (t.ctx n k).life = .parked) ∧
        (∀ j, s.jobSlot x.prog = some j → code ≠ 3 → (t.job j).life ≠ .running) ∧
        (code = 3 → s.sealRun = none → t.stopped = true ∧ t.sealRun = some ⟨4, s.now, some 6⟩ ∧ t.jobs = s.jobs)

/-- R88, R92, R97, R98, R101, R103, R104, R146: the slots of a core. SLOT_START moves to the next entry of the slot table and asks a
running context to save; a core that runs none takes what the slot gives it, and a core that is saving or drained stays so. FILL_YIELD asks
stuck fill work to save. CONTEXT_SAVED writes the context's saved form, with the valid tile buffers in its save area, and frees the core.
CONTEXT_RESTORED puts the context on the core, beginning its tick where none is in progress; one that may no longer hold the core gives it
up. -/
def Obligations.SlotsAndContexts : Prop :=
  (∀ (s : State) (n : Nat) (sl : Slot), (s.core n).slots[(s.core n).slot]? = some sl → s.stopped = false →
    let c := { s.core n with slot := (s.core n).slot + 1, yielded := none }
    let u := { s with now := max s.now (s.beats.beat * 2 ^ (12 + s.beats.exp) + sl.start * 2 ^ (12 + s.beats.exp) / 1024) }
    (∀ k f, (s.core n).run = .running k f → exec (.slotStart n) s = .next (u.setCore n { c with run := .saving k f, bound := [] })) ∧
    ((s.core n).run = .drained ∨ (∃ k f, (s.core n).run = .saving k f) → exec (.slotStart n) s = .next (u.setCore n c)) ∧
    ((s.core n).run = .idle ∨ (∃ k f, (s.core n).run = .restoring k f) →
      exec (.slotStart n) s = .next ((u.setCore n c).schedule n none true))) ∧
  (∀ (s : State) (n k : Nat), (s.core n).run = .running k true → s.stuck n k = true →
    exec (.fillYield n) s =
      .next (s.setCore n { s.core n with run := .saving k true, bound := [], yielded := some ((s.core n).ctx k).prog.id })) ∧
  (∀ (s : State) (n k : Nat) (f : Bool), (s.core n).run = .saving k f →
    let u := s.cutVe n k
    let y := ((u.core n).giveVe k).ctx k
    ∃ t, exec (.contextSaved n) s = .next t ∧ t.ctx n k = y.saved ∧ (∀ m, m ≠ n → t.core m = s.core m) ∧
      ((s.core n).drainReq = true → (t.core n).run = .drained) ∧ (∀ j g, (t.core n).run ≠ .saving j g) ∧
      ((s.ctx n k).ve = none → (s.ctx n k).valid.any id = false → t.mem = s.mem) ∧
      ((s.ctx n k).ve = none → ∀ b e, b < 4 → (s.ctx n k).valid.getD b false = true → e < 9216 →
        t.sramNat n ((s.ctx n k).saveArea.getD 0 + 36864 * b + 4 * e) 4 = (Sp.get 0#32 (s.core n).ve.tiles (b * 9216 + e)).toNat)) ∧
  (∀ (s : State) (n k : Nat) (f : Bool), (s.core n).run = .restoring k f →
    (s.mayHold n k = true → ∃ t, exec (.contextRestored n) s = .next t ∧
      (t.core n).run = .running k f ∧ (t.ctx n k).inTick = true ∧ (t.ctx n k).regs = (s.ctx n k).regs ∧
      ((s.ctx n k).inTick = false → (t.ctx n k).pc = (s.ctx n k).prog.entry) ∧
      ((s.ctx n k).inTick = true → (s.ctx n k).ve = none → t.ctx n k = s.ctx n k) ∧
      (∀ m, m ≠ n → t.core m = s.core m) ∧ ((s.ctx n k).inTick = false ∨ (s.ctx n k).ve = none → t.mem = s.mem)) ∧
    (s.mayHold n k = false → exec (.contextRestored n) s = .next ((s.updCore n (fun c => { c with run := .idle })).schedule n none)))

/-- R97, R104: a drain by the steward saves the running context, and leaves a core that runs nothing drained; resume leaves the
drained state. A write of CP_INT or CP_BANK, or a commit, by any other requester is discarded and logged. -/
def Obligations.DrainAndResume : Prop :=
  (∀ (s : State) (who : Who) (n : Nat), who.index = 0 →
    (∀ k f, (s.core n).run = .running k f →
      exec (.drain who n) s = .next (s.setCore n { s.core n with drainReq := true, run := .saving k f, bound := [] })) ∧
    (∀ k f, (s.core n).run = .saving k f → exec (.drain who n) s = .next (s.setCore n { s.core n with drainReq := true })) ∧
    ((s.core n).run = .idle ∨ (∃ k f, (s.core n).run = .restoring k f) →
      exec (.drain who n) s = .next (s.setCore n { s.core n with drainReq := true, run := .drained })) ∧
    ((s.core n).run = .drained → exec (.resume who n) s =
      .next (s.setCore n { s.core n with drainReq := false, run := .idle, ve := { (s.core n).ve with vregs := [] } })) ∧
    ((s.core n).run ≠ .drained → exec (.resume who n) s = .next s)) ∧
  (∀ (s : State) (who : Who) (n : Nat) (d : W32), who.index ≠ 0 →
    exec (.drain who n) s = .next (s.logDiscard (cpAddr n 0x20) who true) ∧
    exec (.resume who n) s = .next (s.logDiscard (cpAddr n 0x20) who true) ∧
    exec (.bankSwitchRequest who n) s = .next (s.logDiscard (cpAddr n 0x04) who true) ∧
    exec (.bankSwitchCancel who n) s = .next (s.logDiscard (cpAddr n 0x04) who true) ∧
    exec (.programWordCommit who n d) s = .next (s.logDiscard (cpAddr n 0x1C) who true))

/-- R81 to R84, R86: a bank switch is requested, which binds the programs whose headers stand in the bank that is not active, and
withdrawn; a commit to the bank that is not active writes the word that CP_PWADDR
names, and the index goes on, from 8,191 to 0; the held words stand. A commit to the active bank is rejected: the held words are discarded, wr_fault is set,
record 0x0007 is written and nothing else but the index changes. A write of CP_PWADDR or CP_PWDATA0 to CP_PWDATA3 by anyone but the
steward is discarded and logged. -/
def Obligations.ProgramBanks : Prop :=
  (∀ (s : State) (who : Who) (n : Nat), who.index = 0 →
    let a := (s.core n).active
    (∃ t, exec (.bankSwitchRequest who n) s = .next t ∧ (t.core n).switchPending = true ∧ (t.core n).active = a ∧
      (t.core n).progs (!a) = scanBank (if a then (s.core n).bank0 else (s.core n).bank1) ∧
      (t.core n).progs a = (s.core n).progs a ∧ (t.core n).ctxs = (s.core n).ctxs ∧ (t.core n).bank0 = (s.core n).bank0 ∧
      (t.core n).bank1 = (s.core n).bank1 ∧ (∀ m, m ≠ n → t.core m = s.core m) ∧ t.mem = s.mem) ∧
    exec (.bankSwitchCancel who n) s = .next (s.setCore n { s.core n with switchPending := false })) ∧
  (∀ (s : State) (who : Who) (n : Nat) (d0 d1 d2 d3 : W32) (x : Option W32), who.index = 0 →
    (s.core n).pwData = [some d0, some d1, some d2, x] → (s.core n).pwBank ≠ (s.core n).active →
    ∃ t, exec (.programWordCommit who n d3) s = .next t ∧
      (t.core n).word (s.core n).pwBank (s.core n).pwIndex = d3 ++ d2 ++ d1 ++ d0 ∧
      (∀ i, i ≠ (s.core n).pwIndex → (t.core n).word (s.core n).pwBank i = (s.core n).word (s.core n).pwBank i) ∧
      (∀ i, (t.core n).word (s.core n).active i = (s.core n).word (s.core n).active i) ∧
      (t.core n).pwIndex = ((s.core n).pwIndex + 1) % 8192 ∧ (t.core n).pwData = [some d0, some d1, some d2, some d3] ∧ (∀ m, m ≠ n → t.core m = s.core m) ∧ t.mem = s.mem) ∧
  (∀ (s : State) (who : Who) (n : Nat) (d3 : W32), who.index = 0 → (s.core n).pwBank = (s.core n).active →
    exec (.programWordCommit who n d3) s = .next ((s.setCore n { s.core n with
      wrFault := true, pwIndex := ((s.core n).pwIndex + 1) % 8192, pwData := [none, none, none, none] }).logAs 1 n 0x0007 1 none
        [(1, n), (1, b2n (s.core n).pwBank), (2, (s.core n).pwIndex)])) ∧
  (∀ (s : State) (who : Who) (n : Nat) (d3 : W32) (v hw : Nat), who.index ≠ 0 → n < 64 →
    exec (.programWordCommit who n d3) s = .next (s.logDiscard (cpAddr n 0x1C) who true) ∧
    ∀ o ∈ [0x08, 0x10, 0x14, 0x18, 0x1C],
      let off := 0x1800000 + n / 16 * 0x1000000 + n % 16 * 0x10000 + o
      exec (.registerWrite who 32 off v hw) s = .next (s.logDiscard (regAddr off) who true))

/-- R26, R91, R94, R460, R461: BEAT_START of a module out of reset moves to the next beat, or to the one that device time has reached.
Device time is no earlier than the beat's first instant; a new stretch factor takes effect where the beat's number reaches a multiple of
eight; every core's slot table begins again (R88), and a beat that stretching excludes is counted. A scheduled program whose tick is
still in progress has overrun, in a beat that stretching does not exclude: shown for the next beat, and a core with one context in its
tick. The statement is about a beat that is no maintenance beat of a module in no takeover. -/
def Obligations.BeatStarts : Prop :=
  ∀ (s : State) (chans : List ChanVisit) (links : List LinkVisit) (sensors : List Nat), s.start.pwrGood = true →
    let u := s.endBeat
    let b := max (s.beats.beat + 1) (s.now / s.beatLen)
    u.stopped = false → u.isMaint b = false → u.watch.takeover = none → u.watch.planned = none →
    ∃ t, exec (.beatStart chans links sensors) s = .next t ∧ t.beats.beat = b ∧ t.now = max u.now (b * u.beatLen) ∧
      t.beats.stretch = (if u.beats.beat / 8 < b / 8 then u.beats.stretchNext else u.beats.stretch) ∧
      (b = u.beats.beat + 1 → t.beats.excluded = (if b % 2 ^ t.beats.stretch = 0 then u.beats.excluded else u.beats.excluded + 1)) ∧
      (∀ n, n < 64 → (t.core n).slot = 0) ∧ ((∀ d, d < 4 → (u.mcOf d).waiting = []) → t.mem = u.mem) ∧ t.beats.exp = u.beats.exp ∧
      (∀ n k, n < 64 → ((u.core n).ctxs.filter (fun x => x.2.inTick)).map (·.1) = [k] → b = u.beats.beat + 1 →
        (firstSlot (u.core n).slots (u.ctx n k).prog.id).isSome = true → b % 2 ^ t.beats.stretch = 0 →
        (t.core n).overruns = satAdd32 (u.core n).overruns 1)

/-- R166: when a group is set and when it is poisoned; an instruction that waits for one that is not set is held, by its engine at the
head of the queue, or by the sequencer, which issues nothing further: nothing else changes. One that waits for a
poisoned group stops its context (R169). WAIT_GROUP_RELEASE lets what is held go on when the group is set: the sequencer's own instruction
takes its effect (a NOP goes on), and the head of an engine's queue is taken where the engine is ready. R72: an instruction that waits in the sequencer for room in its engine's queue goes into it when there is room, behind
the instructions already there, or, where there are none, is taken at once. -/
def Obligations.EngineQueues : Prop :=
  (∀ (c : CoreSt) (k : Nat) (w : IWord),
    let g := c.grp k w.waitGroup
    (w.waitEn = false → c.waitState k w = .ready) ∧
    (w.waitEn = true → (c.waitState k w = .held ↔ g.arrivals < g.need) ∧
      (c.waitState k w = .poisoned ↔ g.need ≤ g.arrivals ∧ g.poison = true))) ∧
  (∀ (s : State) (n k : Nat) (e : Eng) (w : IWord) (ws : List IWord), (s.core n).running = some k → (s.ctx n k).queue e = w :: ws →
    ((s.core n).waitState k w = .held → exec (.waitGroupRelease n (some e)) s = .next s) ∧
    ((s.core n).waitState k w = .ready → s.stopped = false → s.engReady n k e w none = true →
      exec (.waitGroupRelease n (some e)) s = .next ((s.updCtx n k (fun x => x.setQueue e ws)).engEffect n k e w none))) ∧
  (∀ (s : State) (n k : Nat) (ecc : Ecc), (s.core n).running = some k → s.stopped = false →
    let x := s.ctx n k
    let w := (s.core n).word (s.core n).active (x.prog.start + x.pc)
    (x.inTick = true → x.hold = .none → x.pc < x.prog.length → ecc ≠ .uncorrectable → wordLegal w = true →
      ∀ q ∈ ([(0, 0x00, .nop n ecc), (0, 0x01, .jump n ecc), (0, 0x02, .branchNz n ecc), (0, 0x03, .branchZ n ecc), (0, 0x04, .loop n ecc),
          (0, 0x05, .loopEnd n ecc), (0, 0x06, .fence n ecc), (0, 0x07, .tickEnd n ecc), (0, 0x08, .halt n ecc),
          (0, 0x09, .readFlags n ecc), (0, 0x0A, .clearFlags n ecc), (1, 0x00, .movi n ecc), (1, 0x01, .add n ecc), (1, 0x02, .sub n ecc),
          (1, 0x03, .mul n ecc), (1, 0x04, .and n ecc), (1, 0x05, .or n ecc), (1, 0x06, .xor n ecc), (1, 0x07, .shl n ecc),
          (1, 0x08, .shr n ecc), (1, 0x09, .sltu n ecc), (1, 0x0A, .addi n ecc)] : List (Nat × Nat × Instr)),
        w.cls = q.1 → w.opc = q.2.1 →
          ((s.core n).waitState k w = .held → exec q.2.2 s = .next ((s.issued n k ecc).updCtx n k (fun x => { x with hold := .wait }))) ∧
          ((s.core n).waitState k w = .poisoned → exec q.2.2 s = .next ((s.issued n k ecc).poisonStop n k w.waitGroup))) ∧
    (x.hold = .wait → (s.core n).waitState k w = .ready →
      exec (.waitGroupRelease n none) s = .next (ownEffect w (s.setCtx n k { x with hold := .none }) n k w)) ∧
    (x.hold = .wait → w.cls = 0 → w.opc = 0 → (s.core n).waitState k w = .ready →
      exec (.waitGroupRelease n none) s = .next (s.updCtx n k (fun x => { x with hold := .none, pc := x.pc + 1 })))) ∧
  (∀ (s : State) (n k : Nat) (e : Eng), (s.core n).running = some k → (s.ctx n k).hold = .full → s.stopped = false →
    let x := s.ctx n k
    let w := (s.core n).word (s.core n).active (x.prog.start + x.pc)
    let u := s.setCtx n k { { x with hold := .none }.setQueue e (x.queue e ++ [w]) with pc := x.pc + 1 }
    engOfClass w.cls = some e →
    (x.queue e ≠ [] → (x.queue e).length < 8 → exec (.engineDispatch n) s = .next u) ∧
    (x.queue e = [] → exec (.engineDispatch n) s = .next (u.acceptHead n k e none)))

/-- R115, R120, R121, R125, R126: a legal tile sequence, TSEQ or TSEQ_CONV, is taken by an idle matrix engine: it becomes the running
sequence with its first unit's conversion states latched, MX_STATUS shows its mode, and no unit is done. CONV_SET sets the
conversion state of the arrays its mask names. -/
def Obligations.MatrixIssues : Prop :=
  ∀ (s : State) (n k : Nat) (w : IWord) (ecc : Ecc), s.Issues n k w ecc → (s.ctx n k).qmx = [] → (s.ctx n k).mx = [] →
    let y := (s.taken n k ecc).ctx n k
    (∀ r r', w.cls = 2 → acceptRun (s.rdCore n) y w = some r → r.partsClear y = true → r.latch y = some r' →
      ∀ i, (w.opc = 0 ∧ i = Instr.tseq n ecc) ∨ (w.opc = 1 ∧ i = Instr.tseqConv n ecc) →
        ∃ t, exec i s = .next t ∧ t.ctx n k = { y with mx := [r'], mxDone := 0 } ∧ (t.core n).mx.lastMode = r.mode ∧
          (∀ m, m ≠ n → t.core m = s.core m) ∧ t.mem = s.mem) ∧
    (∀ c, w.cls = 3 → w.opc = 0 → parseConv (s.rdCore n) w = some c →
      exec (.convSet n ecc) s = .next ((s.taken n k ecc).setCtx n k { y with conv := setConvs y.conv (field 10 7 w.pl) c }))

/-- R98, R122 to R124, R142: UNIT_COMPLETE writes the unit in flight: memory, accumulators and flags are those of `runUnit` on it, MX_ACTCYC
counts its rows, and progress word 0 counts it. The last unit leaves the engine idle; otherwise the next unit latches.
R136 to R140: an array that holds no unit falls to gated idle when its hold time ends, and leaves gated idle for ballast at the
scheduled level 2 µs before a scheduled slot starts, while ballast may run. The other arrays stay. -/
def Obligations.MatrixUnits : Prop :=
  (∀ (s : State) (n k : Nat) (r : MxRun), (s.core n).works .mx = some k → (s.ctx n k).mx = [r] → s.stopped = false →
    let x := s.ctx n k
    let u := r.first + r.done
    let bank := r.banks (s.core n).mx.bank u
    let o := runUnit s.mem (sramBase n) (s.core n).mx.acc bank (s.draw x) r u
    (r.done + 1 = r.count → ∃ t, exec (.unitComplete n) s = .next t ∧ t.mem = o.mem ∧ (t.core n).mx.acc = o.acc ∧
      t.ctx n k = { x with flags := x.flags ||| o.flags, mx := [], mxDone := r.done + 1 } ∧
      (t.core n).mx.actCyc = (s.core n).mx.actCyc + BitVec.ofNat 64 (r.rowsIn u)) ∧
    (∀ q, (s.core n).running = some k → r.done + 1 ≠ r.count →
      { r with done := r.done + 1, latched := [], reload := false }.latch { x with flags := x.flags ||| o.flags } = some q →
      ∃ t, exec (.unitComplete n) s = .next t ∧ t.mem = o.mem ∧ (t.core n).mx.acc = o.acc ∧
        t.ctx n k = { x with flags := x.flags ||| o.flags, mx := [q], mxDone := r.done + 1 })) ∧
  (∀ (s : State) (n a : Nat), (s.core n).arrayBusy a = false → (s.core n).mx.arrays.length = 4 → a < 4 →
    (∃ t, exec (.ballastHoldExpiry n a) s = .next t ∧
      (t.core n).mx.arrays[a]? = ((s.core n).mx.arrays[a]?).map (fun z => { z with pow := .gated }) ∧
      (∀ b, b ≠ a → (t.core n).mx.arrays[b]? = (s.core n).mx.arrays[b]?) ∧ t.mem = s.mem) ∧
    (∀ at_, s.ballastOk = true → s.nextSlot n = some at_ → ∃ t, exec (.ballastRampUp n a) s = .next t ∧
      (t.core n).mx.arrays[a]? = ((s.core n).mx.arrays[a]?).map
        (fun z => if z.pow = .gated then { z with pow := .ballast, level := z.schedLevel } else z) ∧ t.now = max s.now (at_ - 2000) ∧
      (∀ b, b ≠ a → (t.core n).mx.arrays[b]? = (s.core n).mx.arrays[b]?) ∧ t.mem = s.mem))

/-- R68, R144, R150, R152, R155, R158: an element-wise vector instruction that passes its checks writes, in each element of the rows and
columns it names, the result of its operation on that element of A and on what operands B and C supply; its buffer becomes valid.
VTRANS writes element (c, r). The elements of its
buffer outside those rows and columns are as before (of a buffer that was not valid, +0). Every other buffer, memory and the other registers stay; the program counter goes on. -/
def Obligations.VectorElements : Prop :=
  ∀ (s : State) (n k : Nat) (w : IWord) (ecc : Ecc), s.Issues n k w ecc → (s.ctx n k).qve = [] → w.cls = 4 →
    let x := (s.taken n k ecc).ctx n k
    let v := vArith w
    let A := fun r c => tileAt (s.core n).ve x.valid v.a r c
    let B := operandAt (s.core n).ve x.valid v.b v.bKind v.bLine (scalarOf x v.bSreg v.imm)
    let C := operandAt (s.core n).ve x.valid v.c v.cKind v.cLine (scalarOf x v.cSreg v.imm)
    vArithOk w v x = true →
    ∀ p ∈ ([(0x10, Instr.vadd n ecc, fun a b _ => add32 a b), (0x11, .vsub n ecc, fun a b _ => sub32 a b),
        (0x12, .vmul n ecc, fun a b _ => mul32 a b), (0x13, .vfma n ecc, fun a b c => fma32 a b c),
        (0x14, .vmax n ecc, fun a b _ => max32 a b), (0x15, .vmin n ecc, fun a b _ => min32 a b),
        (0x16, .vabs n ecc, fun a _ _ => abs32 a), (0x17, .vneg n ecc, fun a _ _ => neg32 a),
        (0x18, .vcopy n ecc, fun a _ _ => copy32 a), (0x19, .vtrans n ecc, fun a _ _ => copy32 a),
        (0x20, .vrcp n ecc, fun a _ _ => TFun.rcp.eval a), (0x21, .vrsqrt n ecc, fun a _ _ => TFun.rsqrt.eval a),
        (0x22, .vsqrt n ecc, fun a _ _ => TFun.sqrt.eval a), (0x23, .vexp n ecc, fun a _ _ => TFun.exp.eval a),
        (0x24, .vexp2 n ecc, fun a _ _ => TFun.exp2.eval a), (0x25, .vlog2 n ecc, fun a _ _ => TFun.log2.eval a),
        (0x26, .vtanh n ecc, fun a _ _ => TFun.tanh.eval a), (0x27, .vsigmoid n ecc, fun a _ _ => TFun.sigmoid.eval a),
        (0x28, .vsin n ecc, fun a _ _ => TFun.sin.eval a), (0x29, .vcos n ecc, fun a _ _ => TFun.cos.eval a)] :
          List (Nat × Instr × (W32 → W32 → W32 → W32 × NFlags))),
      w.opc = p.1 → ∃ t, exec p.2.1 s = .next t ∧
        (∀ r c, r < v.rows → c < v.cols →
          tileAt (t.core n).ve (t.ctx n k).valid v.dst (if p.1 = 0x19 then c else r) (if p.1 = 0x19 then r else c) =
            (p.2.2 (A r c) (B r c) (C r c)).1) ∧
        (∀ r c, p.1 ≠ 0x19 → r < 96 → c < 96 → v.rows ≤ r ∨ v.cols ≤ c →
          tileAt (t.core n).ve (t.ctx n k).valid v.dst r c = tileAt (s.core n).ve x.valid v.dst r c) ∧
        (∀ b r c, b < 4 → b ≠ v.dst → r < 96 → c < 96 →
          tileAt (t.core n).ve (t.ctx n k).valid b r c = tileAt (s.core n).ve x.valid b r c) ∧
        (t.ctx n k).pc = (s.ctx n k).pc + 1 ∧ (t.ctx n k).regs = (s.ctx n k).regs ∧ t.mem = s.mem ∧
        (∀ m, m ≠ n → t.core m = s.core m)

/-- R153: the reductions run from the accumulator that operand C supplies, over the elements of each row (result in the column
that operand B's line names) or of each column (result in the row it names), in ascending order. R155: VDROP multiplies an element by B
where the counter generator's word falls below the threshold, and writes +0 elsewhere. -/
def Obligations.VectorReductions : Prop :=
  ∀ (s : State) (n k : Nat) (w : IWord) (ecc : Ecc), s.Issues n k w ecc → (s.ctx n k).qve = [] → w.cls = 4 →
    let x := (s.taken n k ecc).ctx n k
    let v := vArith w
    let A := fun r c => tileAt (s.core n).ve x.valid v.a r c
    let B := operandAt (s.core n).ve x.valid v.b v.bKind v.bLine (scalarOf x v.bSreg v.imm)
    let C := operandAt (s.core n).ve x.valid v.c v.cKind v.cLine (scalarOf x v.cSreg v.imm)
    vArithOk w v x = true →
    (∀ p ∈ ([(0x30, Instr.vrsum n ecc), (0x31, .vrsumsq n ecc), (0x32, .vrmax n ecc)] : List (Nat × Instr)), w.opc = p.1 →
      ∃ t, exec p.2 s = .next t ∧ t.mem = s.mem ∧ (t.ctx n k).pc = (s.ctx n k).pc + 1 ∧
        ∀ r, r < v.rows → tileAt (t.core n).ve (t.ctx n k).valid v.dst r v.bLine =
          ((List.range v.cols).map (A r)).foldl (fun a y => (vStep p.1 a y).1) (C r 0)) ∧
    (∀ p ∈ ([(0x33, Instr.vcsum n ecc), (0x34, .vcsumsq n ecc), (0x35, .vcmax n ecc)] : List (Nat × Instr)), w.opc = p.1 →
      ∃ t, exec p.2 s = .next t ∧ t.mem = s.mem ∧ (t.ctx n k).pc = (s.ctx n k).pc + 1 ∧
        ∀ c, c < v.cols → tileAt (t.core n).ve (t.ctx n k).valid v.dst v.bLine c =
          ((List.range v.rows).map (fun r => A r c)).foldl (fun a y => (vStep p.1 a y).1) (C 0 c)) ∧
    (∀ rec, w.opc = 0x1A → x.rnd = some rec → ∃ t, exec (.vdrop n ecc) s = .next t ∧ t.mem = s.mem ∧
      ∀ r c, r < v.rows → c < v.cols → tileAt (t.core n).ve (t.ctx n k).valid v.dst r c =
        if cgWord0 (s.seedOf x.prog) x.stepReg.toNat rec.tensor purposeDrop (rec.index r c) < v.imm.toNat
        then (mul32 (A r c) (B r c)).1 else 0)

/-- R145, R151, R157, R167: VSETSAVE gives the context its save area; VSR_SET loads the rounding record; VLOAD widens elements of SRAM
into a buffer, which becomes valid; VSTORE writes the converted elements of a buffer into SRAM, each where no other of
them overlaps it, and nothing outside its lines; VSTORE_ARRIVAL gives the oldest completed store's arrival to its group. -/
def Obligations.VectorTransfers : Prop :=
  (∀ (s : State) (n k : Nat) (w : IWord) (ecc : Ecc), s.Issues n k w ecc → (s.ctx n k).qve = [] → w.cls = 4 →
    let u := s.taken n k ecc
    let x := u.ctx n k
    let a := 64 * field 16 0 w.pl
    (w.opc = 0 → field 95 17 w.pl = 0 → fits (a + saveAreaSize) = true → x.saveArea = none →
      exec (.vsetsave n ecc) s = .next (u.setCtx n k { x with saveArea := some a, ve := none })) ∧
    (w.opc = 0 → field 95 17 w.pl = 0 → fits (a + saveAreaSize) = true → x.saveArea = some a →
      exec (.vsetsave n ecc) s = .next (u.setCtx n k { x with ve := none })) ∧
    (w.opc = 1 → field 95 17 w.pl = 0 → fits (a + 64) = true → x.saveArea ≠ none →
      s.rdCore n (a + 3) 1 = 0 → s.rdCore n (a + 4) 4 = 0 → s.rdCore n (a + 20) 44 = 0 →
      exec (.vsrSet n ecc) s =
        .next (u.setCtx n k { x with ve := none, rnd := some ⟨s.rdCore n a 3, s.rdCore n (a + 8) 8, s.rdCore n (a + 16) 4⟩ })) ∧
    (∀ f, w.opc = 2 → vXferOk w (vXfer w) x = some f → ∃ t, exec (.vload n ecc) s = .next t ∧ t.mem = s.mem ∧
      ∀ r c, r < (vXfer w).rows → c < (vXfer w).cols →
        tileAt (t.core n).ve (t.ctx n k).valid (vXfer w).buf r c = f.widen (s.sramNat n ((vXfer w).at_ f.bytes r c) f.bytes)) ∧
    (∀ f, w.opc = 3 → vXferOk w (vXfer w) x = some f → ∃ t, exec (.vstore n ecc) s = .next t ∧
      (∀ j, (∀ r c, r < (vXfer w).rows → c < (vXfer w).cols →
          j < sramBase n + (vXfer w).at_ f.bytes r c ∨ sramBase n + (vXfer w).at_ f.bytes r c + f.bytes ≤ j) →
        rdByte t.mem j = rdByte s.mem j) ∧
      (∀ r c, r < (vXfer w).rows → c < (vXfer w).cols →
        (∀ i j, i < (vXfer w).rows → j < (vXfer w).cols → (i, j) ≠ (r, c) →
          (vXfer w).at_ f.bytes i j + f.bytes ≤ (vXfer w).at_ f.bytes r c ∨
          (vXfer w).at_ f.bytes r c + f.bytes ≤ (vXfer w).at_ f.bytes i j) →
        rdBytes t.mem (sramBase n + (vXfer w).at_ f.bytes r c) f.bytes =
          leBytes f.bytes (storeElem f (s.draw x) (vXfer w).srReq x.rnd r c (tileAt (s.core n).ve x.valid (vXfer w).buf r c)).1) ∧
      (t.core n).ve = (s.core n).ve ∧ (t.ctx n k).valid = x.valid ∧
      (t.ctx n k).veArr = if (vXfer w).setFlags then x.veArr ++ [(vXfer w).group] else x.veArr)) ∧
  (∀ (s : State) (n k g : Nat) (gs : List Nat), (s.core n).running = some k → (s.ctx n k).veArr = g :: gs →
    exec (.vstoreArrival n) s =
      .next (s.setCore n (((s.core n).arrive k g false).setCtx k { s.ctx n k with
        veArr := gs, ve := if gs = [] then (s.ctx n k).storeDone else (s.ctx n k).ve })))

/-- R148: in the service context the four service opcodes reach the vector registers: VR_LOAD reads 384 B of SRAM, VR_STORE writes them,
VR_FROMBUF reads a row of a tile buffer, VR_OP acts lane by lane: the element-wise opcodes as R152 and R158 say, and a
column reduction takes operand A of a lane into the accumulator that operand C gives it (R153). The other opcodes, whose result in one
register no rule states, write register dst and no other. -/
def Obligations.VectorService : Prop :=
  ∀ (s : State) (n : Nat), s.service n = true →
    (∀ reg off, reg < 32 → off + 384 ≤ 0x800000 → ∃ t, exec (.vrLoad n reg off) s = .next t ∧ t.mem = s.mem ∧
      (∀ i, i < 96 → (t.core n).ve.vreg reg i = BitVec.ofNat 32 (s.sramNat n (off + 4 * i) 4)) ∧
      (∀ v i, v ≠ reg → i < 96 → (t.core n).ve.vreg v i = (s.core n).ve.vreg v i)) ∧
    (∀ reg off, reg < 32 → off + 384 ≤ 0x800000 → ∃ t, exec (.vrStore n reg off) s = .next t ∧ t = { s with mem := t.mem } ∧
      (∀ i, i < 96 → t.sramNat n (off + 4 * i) 4 = ((s.core n).ve.vreg reg i).toNat) ∧
      (∀ j, j < sramBase n + off ∨ sramBase n + off + 384 ≤ j → rdByte t.mem j = rdByte s.mem j)) ∧
    (∀ reg buf row, reg < 32 → buf < 4 → row < 96 → ∃ t, exec (.vrFrombuf n reg buf row) s = .next t ∧ t.mem = s.mem ∧
      ∀ i, i < 96 → (t.core n).ve.vreg reg i = Sp.get 0#32 (s.core n).ve.tiles (tileKey buf row i)) ∧
    (∀ opc dst a b c, dst < 32 → opc ∈ [0x10, 0x11, 0x12, 0x13, 0x14, 0x15, 0x16, 0x17, 0x18, 0x19, 0x1A, 0x20, 0x21, 0x22, 0x23, 0x24,
        0x25, 0x26, 0x27, 0x28, 0x29, 0x30, 0x31, 0x32, 0x33, 0x34, 0x35] →
      ∃ t, exec (.vrOp n opc dst a b c) s = .next t ∧ t.mem = s.mem ∧
        (∀ v i, v ≠ dst → i < 96 → (t.core n).ve.vreg v i = (s.core n).ve.vreg v i) ∧
        ∀ i, i < 96 →
          (opc ≤ 0x18 ∨ 0x20 ≤ opc ∧ opc ≤ 0x29 → (t.core n).ve.vreg dst i =
            (vElem opc ((s.core n).ve.vreg a i) ((s.core n).ve.vreg b i) ((s.core n).ve.vreg c i)).1) ∧
          (0x33 ≤ opc → (t.core n).ve.vreg dst i = (vStep opc ((s.core n).ve.vreg c i) ((s.core n).ve.vreg a i)).1))

/-- R165, R168, R170, R176, R188: FARM arms its groups with the need it names and no arrivals; a legal SXFER becomes the context's
transfer, at its start; CHUNK_ARRIVAL delivers what is left of the chunk and gives one arrival at its group; TRANSFER_SUSPEND leaves the
transfer suspended at the faulting element, whose address ST_FVA shows. -/
def Obligations.StreamTransfers : Prop :=
  (∀ (s : State) (n k : Nat) (w : IWord) (ecc : Ecc), s.Issues n k w ecc → (s.ctx n k).qst = [] → (s.ctx n k).st = none →
    w.cls = 5 →
    let u := s.taken n k ecc
    let x := u.ctx n k
    let off := fun (sreg sh : Nat) => if sreg = 0 then 0 else (x.reg sreg).toNat * 2 ^ sh
    (w.opc = 1 → field 21 11 w.pl ≠ 0 → field 29 22 w.pl ≠ 0 → ∃ t, exec (.farm n ecc) s = .next t ∧ t.mem = s.mem ∧
      ∀ i, i < field 21 11 w.pl → (t.core n).grp k (field 10 0 w.pl + i) = ⟨field 29 22 w.pl, 0, false⟩) ∧
    (∀ d, w.opc = 0 → parseDesc (s.rdCore n) (64 * field 16 0 w.pl) (off (field 21 17 w.pl) (field 30 27 w.pl))
        (off (field 26 22 w.pl) (field 34 31 w.pl)) = some d →
      d.rangeOk = true → targetOk n d (s.dstKind n x.prog.tenant d) = true → s.hitsSave n x d = false →
      exec (.sxfer n ecc) s = .next (u.setCtx n k { x with
        st := some { desc := d, dstKind := s.dstKind n x.prog.tenant d, pos := 0, chunk := 0, chunkPoison := false,
                     susp := none, dma := none, buf := [] } }))) ∧
  (∀ (s : State) (n k : Nat) (r : StRun), s.moving n = some (k, r) → r.susp = none →
    let stop := s.stopAt n r
    let o := s.deliver n (s.ctx n k).prog.tenant r stop (stop - r.pos + 1)
    let g := (o.2.desc.flagGroup + o.2.chunk * o.2.desc.flagStep) % 2048
    (r.chunk + 1) * r.desc.chunkLen ≤ o.2.pos → o.2.receivers n = [n] →
    ∃ t : State, exec (.chunkArrival n) s = .next t.settle.pumpRelease ∧ t.mem = o.1.mem ∧
      (t.core n).grp k g = ((o.1.core n).grp k g).arrive o.2.chunkPoison ∧
      (t.ctx n k).st = if o.2.chunk + 1 = o.2.desc.chunks then none else some { o.2 with chunk := o.2.chunk + 1, chunkPoison := false }) ∧
  (∀ (s : State) (n k va : Nat) (side : Bool) (r : StRun), s.moving n = some (k, r) → r.susp = none →
    let stop := s.stopAt n r
    let o := s.deliver n (s.ctx n k).prog.tenant r stop (stop - r.pos + 1)
    o.1.posFault (s.ctx n k).prog.tenant o.2 = some (1, side, va) →
    ∃ t : State, exec (.transferSuspend n) s = .next t.settle.pumpRelease ∧
      (t.ctx n k).st = some { o.2 with susp := some (1, side), buf := [] } ∧
      (t.core n).st.fva = va ∧ (t.core n).st.faults = satAdd32 (o.1.core n).st.faults 1 ∧ t.mem = o.1.mem)

/-- R187, R189: FAULT_RESOLVED ends the move of the page of an address; its map entry is current again. R13, R221, R222, R226, R459:
MC_RETIRE with go by the driver begins the retirement of a page of the die that is not listed yet; the list write ends with the page in the
retirement list, or, refused or after 50 ms, with state 3 and reason 0x4, and one that ends later comes too late; a write by any other
requester is discarded and logged. The copy of the page, once FAULT_RESOLVED or RETIRE_COMPLETE ends it, leaves its bytes in the new frame,
which its owner has, and the old frame withdrawn (in a memory that keeps its canonical form). R223,
R274: when the last zero-fill reports, every job that was being filled runs, and no controller is zeroing. -/
def Obligations.PagesSettle : Prop :=
  (∀ (s : State) (tenant va : Nat), (s.pageOf tenant va).2.moving = true →
    (∀ f ro, (s.pageOf tenant va).2.dest = .tier1 f ro → (s.mcOf (f / 245760)).retPage = some f → (s.mcOf (f / 245760)).retDest = none) →
    ∃ t, exec (.faultResolved tenant va) s = .next t ∧
      Sp.get PageEnt.none t.pages (s.pageOf tenant va).1 = { (s.pageOf tenant va).2 with moving := false } ∧
      (∀ j, j ≠ (s.pageOf tenant va).1 → Sp.get PageEnt.none t.pages j = Sp.get PageEnt.none s.pages j) ∧ t.mem = s.mem) ∧
  ((∀ (s : State) (who : Who) (d page : Nat), who.isDriver = false →
    exec (.pageRetire who d page) s = .next (s.logDiscard (dieRegAddr d 0x40) who true)) ∧
  (∀ (s : State) (who : Who) (d page : Nat), who.isDriver = true → (s.mcOf d).retState ≠ 1 → page / 245760 = d →
    s.retired.any (fun e => e.1 == page) = false → s.retired.length < 8192 →
    exec (.pageRetire who d page) s = .next (s.setMc d { s.mcOf d with
      retState := 1, retReason := 0, retPage := some page, retArmed := s.now, retDest := none })) ∧
  (∀ (s : State) (d page : Nat), (s.mcOf d).retPage = some page → (s.mcOf d).retDest = none →
    (s.now < (s.mcOf d).retArmed + 50000000 → ∃ t, exec (.retireComplete d true) s = .next t ∧
      t.retired = s.retired ++ [(page, (((s.mcOf d).quar.find? (fun e => e.page == page)).map (·.cause)).getD 0)]) ∧
    (s.now < (s.mcOf d).retArmed + 50000000 → ∃ t, exec (.retireComplete d false) s = .next t ∧ (t.mcOf d).retState = 3 ∧ (t.mcOf d).retReason = 4 ∧
      (t.mcOf d).retPage = none ∧ t.retired = s.retired ∧ t.frames = s.frames ∧ t.mem = s.mem) ∧
    (∀ ok, (s.mcOf d).retArmed + 50000000 ≤ s.now → exec (.retireComplete d ok) s = exec (.retirementWriteTimeout d) s) ∧
    (∃ t, exec (.retirementWriteTimeout d) s = .next t ∧ (t.mcOf d).retState = 3 ∧ (t.mcOf d).retReason = 4 ∧
      t.now = max s.now ((s.mcOf d).retArmed + 50000000) ∧ t.retired = s.retired ∧ t.frames = s.frames ∧ t.mem = s.mem)) ∧
  (∀ (s : State) (f g : Nat) (c : Instr), (s.mcOf (f / 245760)).retPage = some f → (s.mcOf (f / 245760)).retDest = some g → g ≠ f →
    Memory.wf s.mem = true →
    ((∃ ok, c = .retireComplete (f / 245760) ok) ∨
      ∃ tenant va ro, c = .faultResolved tenant va ∧ (s.pageOf tenant va).2.dest = .tier1 f ro ∧ (s.pageOf tenant va).2.moving = true) →
    ∃ u : State, exec c s = .next u.settle ∧ u.frameAt f = { Frame.free with withdrawn := true } ∧
      u.frameAt g = { Frame.free with owner := (s.frameAt f).owner } ∧ (u.mcOf (f / 245760)).retState = 2 ∧
      (u.mcOf (f / 245760)).retReason = 0 ∧ (u.mcOf (f / 245760)).retPage = none ∧
      ∀ i, i < pageSize → rdByte u.mem (g * pageSize + i) = rdByte s.mem (f * pageSize + i))) ∧
  (∀ (s : State), ∃ t, exec .zeroFillComplete s = .next t ∧ t.tiers.admitting = false ∧
    (∀ p ∈ t.mc, p.2.zeroing = false) ∧ (∀ k, (s.job k).life = .filling → (t.job k).life = .running) ∧
    (∀ k, (s.job k).life ≠ .filling → t.job k = s.job k) ∧ t.mem = s.mem)

/-- R182, R183: a legal Pea instruction is in flight once it is taken, PEA_PUT and PEA_ADD with the bytes that SRAM held then; a
transfer for a shard that another module holds also leaves as a message. -/
def Obligations.PeaTaken : Prop :=
  ∀ (s : State) (n k : Nat) (w : IWord) (ecc : Ecc), s.Issues n k w ecc → (s.ctx n k).qpe = [] → w.cls = 6 →
    let u := s.taken n k ecc
    let m := peaOf w k
    let z := fun (d : List Byte) => u.updCore n (fun c =>
      { c with peas := c.peas ++ [{ m with data := d }], st := { c.st with pea := c.st.pea + 1 } })
    let out := fun (d : List Byte) => Host.Outcome.next (φ := Fault) (ρ := Refusal)
      (if u.peaHere n m then z d else (z d).peaSend n { m with data := d })
    peaOk u (u.ctx n k) n m = true →
    (w.opc = 0 → exec (.peaPut n ecc) s = out (s.sram n m.loc m.len)) ∧
    (w.opc = 1 → exec (.peaGet n ecc) s = out []) ∧
    (w.opc = 2 → exec (.peaAdd n ecc) s = out (s.sram n m.loc m.len))

/-- R183 to R185: PEA_ARRIVAL completes the oldest local transfer of a core to a target core: PUT writes its bytes at the target, ADD
adds them word by word modulo 2^32, GET brings the target's bytes home; the group gets one arrival, and the transfer is in flight
no longer. One to another core, or under a shard number, that reaches beyond the windows granted there is discarded (R184). -/
def Obligations.PeaLands : Prop :=
  ∀ (s : State) (n j : Nat) (m : PeaMsg), firstPea (s.peaHere n) m.core (s.core n).peas = some m → (s.core n).peas = [m] →
    (if m.core = n then some m.ctx else (s.core m.core).liveCtx (s.ctx n m.ctx).prog.id) = some j →
    let granted := s.rangeGranted (s.ctx n m.ctx).prog.tenant m.core m.target m.len
    (granted = false → m.core ≠ n ∨ m.remote = true →
      exec (.peaArrival n m.core) s = .next ((s.setCore n { s.core n with peas := [] }).peaDiscard n m)) ∧
    ((m.core ≠ n ∨ m.remote = true → granted = true) →
    ∃ t, exec (.peaArrival n m.core) s = .next t ∧ (t.core n).peas = [] ∧
      t.mem = (match m.op with
        | 0 => wrBytes s.mem (sramBase m.core + m.target) m.data
        | 1 => wrBytes s.mem (sramBase n + m.loc) (s.sram m.core m.target m.len)
        | _ => wrBytes s.mem (sramBase m.core + m.target) (addWords (s.sram m.core m.target m.len) m.data)) ∧
      (if m.op = 1 then (t.core n).grp m.ctx m.group = ((s.core n).grp m.ctx m.group).arrive false
       else (t.core m.core).grp j m.group = ((s.core m.core).grp j m.group).arrive false))

/-- R202, R212, R215 to R217, R224: TIER1_READ of an address that neither a held channel or bank nor an earlier access keeps waiting answers
the 64 bytes of the burst, zeros where it bears the zero marker. A clean burst changes nothing but what its channel's frame and bank count;
a corrected one is counted in MC_CE of its die; an uncorrectable one is answered with poison, counted in MC_UE, shown in MC_EADDR and
marked; a poisoned one, or one of a quarantined page, is answered with poison and counted in MC_POISONRD. Memory is not changed. A read that
has to wait is put behind those that wait (R95, R203, R249). -/
def Obligations.Tier1Reads : Prop :=
  ∀ (s : State) (who : Who) (a : Nat) (ecc : Ecc), isTier1 a = true →
    let u := s.access a 1
    let b := a / 64 * 64
    let m := (u.mcOf (dieOf b))
    let data := if s.zeroMarked b then zeros 64 else rdBytes s.mem b 64
    let shown := ecc.worse (s.errAt b)
    (s.accWaits a = true → ∃ t, exec (.tier1Read who a ecc) s = .next t ∧ t.resp = .deferred ∧ t.mem = s.mem ∧
      (t.mcOf (dieOf a)).waiting = (s.mcOf (dieOf a)).waiting ++ [.read who a ecc]) ∧
    (s.accWaits a = false →
      (s.quarantined b = false → s.isPoisoned b = false →
        (shown = .clean → exec (.tier1Read who a ecc) s = .next { u with resp := .burst data false }) ∧
        (shown = .corrected → ∃ t, exec (.tier1Read who a ecc) s = .next t ∧ t.resp = .burst data false ∧
          (t.mcOf (dieOf b)).ce = satAdd32 m.ce 1 ∧ t.mem = s.mem ∧ t.poison = s.poison ∧ t.frames = s.frames) ∧
        (shown = .uncorrectable → ∃ t, exec (.tier1Read who a ecc) s = .next t ∧ t.resp = .burst data true ∧
          (t.mcOf (dieOf b)).ue = satAdd32 m.ue 1 ∧ (t.mcOf (dieOf b)).eValid = true ∧ (t.mcOf (dieOf b)).eCause = 1 ∧
          (t.mcOf (dieOf b)).eAddr = b ∧ t.isPoisoned b = true ∧ t.mem = s.mem)) ∧
      (s.quarantined b = true ∨ s.isPoisoned b = true → exec (.tier1Read who a ecc) s =
        .next { u.updMc (dieOf b) (fun m => { m with poisonRd := satAdd32 m.poisonRd 1 }) with resp := .burst data true }))

/-- R190, R202, R204: TIER1_WRITE that need not wait stores its 64 bytes in the burst of its address, with the poison its data carries, and
clears poison otherwise; its code word is new; no byte outside the burst changes. MERGED_WRITE stores its bytes from its address on, in a
burst that can be read. R217: neither stores anything in a quarantined page, and R204, R219: nor does a merge into a burst that is poisoned
or cannot be corrected. One that has to wait is put behind those that wait (R95, R203, R249). -/
def Obligations.Tier1Writes : Prop :=
  ∀ (s : State) (who : Who) (a : Nat), isTier1 a = true → isTier1 (a / 64 * 64) = true →
    let b := a / 64 * 64
    (∀ (data : Entry) (p : Bool),
      (s.accWaits a = true → ∃ t, exec (.tier1Write who a data p) s = .next t ∧ t.resp = .deferred ∧ t.mem = s.mem ∧
        (t.mcOf (dieOf a)).waiting = (s.mcOf (dieOf a)).waiting ++ [.write who a data p]) ∧
      (s.accWaits a = false → s.quarantined b = false →
        ∃ t, exec (.tier1Write who a data p) s = .next t ∧ rdBytes t.mem b 64 = entryBytes data ∧ t.isPoisoned b = p ∧
          t.errAt b = .clean ∧ t.zeroMarked b = false ∧ (∀ j, j < b ∨ b + 64 ≤ j → rdByte t.mem j = rdByte s.mem j) ∧
          (∀ j, j / 64 ≠ a / 64 → t.isPoisoned j = s.isPoisoned j) ∧ t.cores = s.cores ∧ t.jobs = s.jobs) ∧
      (s.accWaits a = false → s.quarantined b = true → exec (.tier1Write who a data p) s = .next s)) ∧
    (∀ (data : List Byte) (ecc : Ecc), data ≠ [] → a % 64 + data.length ≤ 64 →
      (s.accWaits a = true → ∃ t, exec (.mergedWrite who a data ecc) s = .next t ∧ t.resp = .deferred ∧ t.mem = s.mem ∧
        (t.mcOf (dieOf a)).waiting = (s.mcOf (dieOf a)).waiting ++ [.merge who a data ecc]) ∧
      (s.accWaits a = false → s.quarantined a = false → s.quarantined b = false → s.isPoisoned b = false →
        ecc.worse (s.errAt b) ≠ .uncorrectable →
        ∃ t, exec (.mergedWrite who a data ecc) s = .next t ∧ rdBytes t.mem a data.length = data ∧ t.errAt b = .clean ∧
          (∀ j, j < a ∨ a + data.length ≤ j → rdByte t.mem j = rdByte s.mem j) ∧ (∀ j, t.isPoisoned j = s.isPoisoned j)) ∧
      (s.accWaits a = false → s.quarantined a = true ∨ s.isPoisoned b = true ∨ ecc.worse (s.errAt b) = .uncorrectable →
        ∃ t, exec (.mergedWrite who a data ecc) s = .next t ∧ t.mem = s.mem))

/-- R15, R196, R202, R203, R205, R206, R209, R212: an access outside tier 1 is logged, answered as unmapped, and changes no memory. A frame
start of a channel in service counts the frame, gives it 64 burst slots and the grants in force, adds what each rank's on-die code has
corrected, up to 255, and shows the errors that its cells now have. A per-bank refresh closes the bank and moves on to the next of its
rank; refresh management, where the bank's count has reached the threshold, clears it; a mode register readout stores the temperature code
of each rank. None of them changes memory. -/
def Obligations.ChannelSteps : Prop :=
  (∀ (s : State) (who : Who) (a : Nat) (ecc : Ecc) (d : Entry) (p : Bool) (l : List Byte), isTier1 a = false →
    exec (.tier1Read who a ecc) s = .next { s.logUnmapped a who false with resp := .unmapped } ∧
    exec (.tier1Write who a d p) s = .next { s.logUnmapped a who true with resp := .unmapped } ∧
    exec (.mergedWrite who a l ecc) s = .next { s.logUnmapped a who true with resp := .unmapped }) ∧
  (∀ (s : State) (d ch rank bank : Nat) (codes : List (Nat × Bool)) (upsets : List (Nat × Ecc)) (dece : List Nat),
    let c := (s.mcOf d).chan ch
    ((s.mcOf d).ready = true → ∃ t, exec (.frameStart d ⟨ch, upsets, dece⟩) s = .next t ∧ t = { s with mc := t.mc } ∧
      ((t.mcOf d).chan ch).frame = c.frame + 1 ∧ ((t.mcOf d).chan ch).left = 64 ∧ ((t.mcOf d).chan ch).granted = s.grantsNow d ∧
      ((t.mcOf d).chan ch).mr97 = (List.range 4).map (fun r => min 255 (c.mr97.getD r 0 + dece.getD r 0)) ∧
      ((t.mcOf d).chan ch).raa = c.raa ∧
      (∀ b e, upsets = [(b, e)] → dieOf (64 * b) = d → chanOf (64 * b) = ch → t.errAt (64 * b) = e)) ∧
    ((s.mcOf d).ready = false → exec (.frameStart d ⟨ch, upsets, dece⟩) s = .next s) ∧
    exec (.perBankRefresh d ch rank) s =
      .next (s.setMc d ((s.mcOf d).setChan ch { c with
        open_ := Sp.set 0 c.open_ (rank * 16 + c.nextBank.getD rank 0) 0, nextBank := mapAt c.nextBank rank (fun b => (b + 1) % 16) })) ∧
    (Config.rfmThreshold ≤ Sp.get 0 c.raa (rank * 16 + bank) → exec (.refreshManagement d ch rank bank) s =
      .next (s.setMc d ((s.mcOf d).setChan ch { c with raa := Sp.set 0 c.raa (rank * 16 + bank) 0 }))) ∧
    (Sp.get 0 c.raa (rank * 16 + bank) < Config.rfmThreshold → exec (.refreshManagement d ch rank bank) s = .next s) ∧
    (ch < 32 → ∃ t, exec (.modeRegisterReadout d codes) s = .next t ∧ t = { s with mc := t.mc } ∧
      ∀ r, r < 4 → ∀ x, codes[4 * ch + r]? = some x →
        ((t.mcOf d).chan ch).temp.getD r 0 = x.1 ∧ ((t.mcOf d).chan ch).mult2.getD r false = x.2))

/-- R235, R239, R246: a legal TB_LIST hands the records that core SRAM holds then to the controllers, as a list of the issuing context's
tenant; nothing else of the core changes but its count of outbound commands. When a list has ended, TB_LIST_COMPLETE takes it away,
writes the 16 bytes of its status, and gives its group one arrival, poisoned where the list is poisoned or failed; that of a TB_SUBMIT
goes into the completion record of its command. A list that runs, or has records left and no fault, goes on. -/
def Obligations.TuberLists : Prop :=
  (∀ (s : State) (n k : Nat) (w : IWord) (ecc : Ecc), s.Issues n k w ecc → (s.ctx n k).qob = [] → w.cls = 7 → w.opc = 0 →
    let u := s.taken n k ecc
    let x := u.ctx n k
    let a := 64 * field 16 0 w.pl
    let count := field 24 17 w.pl
    let status := 16 * field 55 36 w.pl
    let recs := (List.range count).map (fun i => entryOf (s.sram n (a + 64 * i) 64))
    count ≠ 0 → fits (a + 64 * count) = true → fits (status + 16) = true → x.hitsSave status 16 = false →
    recs.all (fun e => u.recOk x.prog.tenant false e) = true →
    recs.any (fun e => (trec e).op == 2 && u.virtHits n x.prog.tenant x ((trec e).x 32 6) (trec e).xferLen) = false →
    ∃ t, exec (.tbList n ecc) s = .next t ∧ t.mem = s.mem ∧ t.nextList = s.nextList + 1 ∧
      t.lists = s.lists ++ [{
        id := s.nextList, from_ := .core n k (field 35 25 w.pl) status, tenant := x.prog.tenant, nmode := x.prog.nmode,
        records := recs, done := 0, running := false, poisonIn := false, waitFrom := none, dma := none, fetch := none,
        flags := 0, poison := false, quar := false, code := 0 }] ∧
      t.ctx n k = { x with outCmds := x.outCmds + 1 } ∧ (∀ m, m ≠ n → t.core m = s.core m)) ∧
  (∀ (s : State) (l : TbList) (n k g st : Nat), s.listAt l.id = some l → l.from_ = .core n k g st → l.running = false →
    (l.records.length ≤ l.done ∨ l.code ≠ 0) →
    ∃ u : State, exec (.tbListComplete l.id) s = .next u.resumed ∧ u.lists = s.lists.filter (fun m => m.id != l.id) ∧
      u.mem = wrBytes s.mem (sramBase n + st) (leBytes 4 (l.flags.toNat + 256 * b2n l.poison + 512 * b2n l.quar + 4096 * l.code) ++
        leBytes 4 l.done ++ leBytes 8 s.now) ∧
      (u.core n).grp k g = ((s.core n).grp k g).arrive (l.poison || l.code != 0) ∧
      (u.ctx n k).outCmds = (s.ctx n k).outCmds - 1 ∧ (∀ m, m ≠ n → u.core m = s.core m)) ∧
  (∀ (s : State) (l : TbList) (e : Entry), s.listAt l.id = some l → l.from_ = .host e → l.running = false →
    (l.records.length ≤ l.done ∨ l.code ≠ 0) →
    ∃ u : State, exec (.tbListComplete l.id) s =
        .next (u.finish l.tenant e (if l.code ≠ 0 then 4 else if l.poison then 5 else 0) 0 [(32, 16, leVal (l.status s.now))]).resumed ∧
      u.lists = s.lists.filter (fun m => m.id != l.id) ∧ u.mem = s.mem ∧ u.cores = s.cores) ∧
  (∀ (s : State) (l : TbList), s.listAt l.id = some l → l.running = true ∨ l.done < l.records.length ∧ l.code = 0 →
    exec (.tbListComplete l.id) s = .next s.resumed)

/-- R236, R239 to R242, R249, R279: TUBER_RECORD_START starts the current record of a list whose conditions hold. A record that holds its
banks gets the smallest pace that qualifies for its hold with the refresh holes in it, and its bytes are debited from the credit of each
package that it touches; without such a pace it waits. A record on bands that are not mapped ends its list with code 3, one that would
write read-only bands with code 4. -/
def Obligations.RecordsStart : Prop :=
  (∀ (s : State) (l : TbList) (r : TRec) (d holes : Nat), s.MayStart l r d →
    let l' := { l with running := true, poisonIn := (s.xgroupsSet d r).2, waitFrom := none }
    (r.holds = false → ∃ t, exec (.tuberRecordStart ⟨l.id, holes⟩) s = .next t ∧ t.listAt l.id = some l' ∧ t.mem = s.mem ∧
      t.cores = s.cores) ∧
    (∀ p, r.holds = true → s.paceFor d r (s.listRule l) holes = some p →
      let h := r.hold (s.listRule l) holes p
      s.maintHits r (s.now + (5 * h + 3) / 4) = false → (112 < h → s.grantsNow d = 0) →
      ∃ t, exec (.tuberRecordStart ⟨l.id, holes⟩) s = .next t ∧ t.listAt l.id = some l' ∧ t.mem = s.mem ∧ t.cores = s.cores ∧
        (t.tubOf d).credit = (List.range 8).map (fun q =>
          if r.packages.contains q then (s.creditNow d q - (r.packageBytes (s.listRule l) q : Int), s.now)
          else (s.tubOf d).credit.getD q (0, 0))) ∧
    (r.holds = true → s.paceFor d r (s.listRule l) holes = none → ∃ t, exec (.tuberRecordStart ⟨l.id, holes⟩) s = .next t ∧
      t.listAt l.id = some { l with waitFrom := some (l.waitFrom.getD s.now) } ∧ t.tub = s.tub)) ∧
  (∀ (s : State) (l : TbList) (r : TRec) (holes : Nat), s.listAt l.id = some l → l.current = some r → l.running = false → l.code = 0 →
    s.stopped = false →
    let lost := s.listSpan l r 0 = none ∨ r.usesBands = true ∧ spanOk (s.listSpan l r) r.first r.bursts = false
    (lost → exec (.tuberRecordStart ⟨l.id, holes⟩) s = .next (s.setList { l with code := 3 })) ∧
    (¬lost → s.putsRo l r = true → exec (.tuberRecordStart ⟨l.id, holes⟩) s = .next (s.setList { l with code := 4 })))

/-- R237, R243 to R248: each operation of a running record does what its code says (the copies, latch loads, matrix-vector products,
sums of squares, updates, armings and element-wise steps that Machine/TuberOps.lean computes), and the record is done: the list goes
on to its next record with the record's flags and poison added, TB_RECORDS of the home die counts it, and its banks are free; accesses
that waited for them are served then.
TARM arms its exchange groups in every controller of the die channels that its record targets, with the need it names and no
arrivals, and writes no memory. -/
def Obligations.RecordsEnd : Prop :=
  (∀ (s : State) (l : TbList) (r : TRec) (d b : Nat), s.listAt l.id = some l → l.current = some r → l.running = true →
    s.listSpan l r 0 = some (d, b) →
    let sp := s.listSpan l r
    let nm := NMode.ofNat l.nmode
    let tew := s.opTew d l.tenant nm r
    let sub := r.x 32 1
    ∀ p ∈ ([(r.op = 1, .tput l.id, s.opTput l.tenant sp r l.fetch), (r.op = 2, .tget l.id, s.opTget l.tenant sp r),
        (r.op = 3, .tlatch l.id, s.opTlatch d l.tenant r l.fetch), (r.op = 4, .tmv l.id, s.opTmv d l.tenant nm sp r l.poisonIn),
        (r.op = 6 ∧ (∀ k sh t rec, l.from_ ≠ .partialOf k sh t rec), .tsq l.id, s.opTsq d l.tenant nm sp r l.poisonIn),
        (r.op = 8, .tarm l.id, (s.opTarm d r, TOut.none)),
        (r.op = 5 ∧ sub = 0, .tewAdd l.id, tew), (r.op = 5 ∧ sub = 1, .tewMul l.id, tew), (r.op = 5 ∧ sub = 2, .tewFma l.id, tew),
        (r.op = 5 ∧ sub = 3, .tewMax l.id, tew), (r.op = 5 ∧ sub = 4, .tewExp l.id, tew), (r.op = 5 ∧ sub = 5, .tewGate l.id, tew),
        (r.op = 5 ∧ sub = 6, .tewRotary l.id, tew), (r.op = 5 ∧ sub = 7, .tewConvert l.id, tew),
        (r.op = 5 ∧ sub = 8, .tewRowMax l.id, tew), (r.op = 5 ∧ sub = 9, .tewRowSum l.id, tew),
        (r.op = 5 ∧ sub = 10, .tewDivide l.id, tew)] ++
        (match l.from_ with
          | .partialOf k sh t rec => [(r.op = 6, .tsq l.id, s.partialStep k sh t rec)]
          | .update k sh t rec => [(r.op = 7, .tupd l.id, s.opTupd k (sh, t, rec))]
          | _ => []) : List (Prop × Instr × (State × TOut))),
      p.1 → ∃ t : State, exec p.2.1 s = .next t.serveWaiting.settle ∧ t.mem = p.2.2.1.mem ∧ t.poison = p.2.2.1.poison ∧
        (t.tubOf d).records = (p.2.2.1.tubOf d).records + 1 ∧ (t.tubOf d).holds.any (fun h => h.list == l.id) = false ∧
        t.lists = p.2.2.1.lists.map (fun m => if m.id = l.id then
          { l with done := l.done + 1, running := false, poisonIn := false, dma := none, fetch := none,
                   flags := l.flags ||| p.2.2.2.flags, poison := l.poison || p.2.2.2.poison || l.poisonIn,
                   quar := l.quar || p.2.2.2.quar } else m)) ∧
  (∀ (s : State) (l : TbList) (r : TRec) (d b : Nat), s.listAt l.id = some l → l.current = some r → l.running = true →
    s.listSpan l r 0 = some (d, b) → r.op = 8 → r.x 32 1 + r.x 33 1 ≤ 256 →
    ∃ t : State, exec (.tarm l.id) s = .next t.serveWaiting.settle ∧ t.mem = s.mem ∧ t.cores = s.cores ∧
      (∀ c i, c < 8 → field (4 * c + 3) (4 * c) r.chans ≠ 0 → i < r.x 33 1 →
        (t.tubOf d).xgrp c (r.x 32 1 + i) = ⟨r.x 34 1, 0, false⟩) ∧
      (∀ c, c < 8 → field (4 * c + 3) (4 * c) r.chans = 0 → ∀ g, g < 256 → (t.tubOf d).xgrp c g = (s.tubOf d).xgrp c g))

/-- R258 to R260, R262: the tier-2 commands of a tenant. T2_OPEN of an absent tensor within the quota makes it Loading, with its size,
and counts its pages; T2_WRITE marks its units written and, from a device region, stores the bytes, zero-padded, and tells the guest
die; from a host region it reads the host first; T2_SEAL asks the guest die to check; T2_ABORT of a loading tensor and T2_DELETE of a
sealed or damaged one that no job uses make it absent and give its pages back. -/
def Obligations.TierTwoCommands : Prop :=
  ∀ (s : State) (tn : Nat) (e : Entry),
    let key := t2Key tn (entryField e 16 3)
    let x := s.t2At key
    (s.Accepts tn e 0x10 →
      let n := ceilDiv (entryField e 24 8) pageSize
      (s.tenant tn).over1 = false → (s.tenant tn).over2 = false → x.state = .absent →
      (s.tenant tn).use2 + n ≤ (s.tenant tn).quota2 → s.t2Used + n ≤ tier2Pages →
      ∃ u : State, exec (.t2Open tn e) s = .next (u.finish tn e 0 0 []) ∧ (u.t2At key).state = .loading ∧
        (u.t2At key).size = entryField e 24 8 ∧ (u.tenant tn).use2 = (s.tenant tn).use2 + n ∧
        (∀ k, k ≠ key → u.t2At k = s.t2At k) ∧ u.mem = s.mem ∧ u.frames = s.frames) ∧
    (s.Accepts tn e 0x11 →
      let first := entryField e 20 4
      let n := entryField e 24 4
      let rg := (s.tenant tn).region (entryField e 28 1)
      let off := entryField e 32 8
      let len := min (n * 4096) (x.size - first * 4096)
      let marks := (List.range n).foldl (fun w i => Sp.set false w (first + i) true) x.written
      let v := (s.accepted tn e).setT2 key { x with written := marks }
      let d := v.readVirt tn (rg.va + off) len (len / 64 + 2)
      let bs := d.1.take (x.size - first * 4096) ++ zeros (first * 4096 + n * 4096 - x.size)
      n ≠ 0 → n ≤ 65536 → x.state = .loading → first + n ≤ x.units → (∀ i, i < n → Sp.get false x.written (first + i) = false) →
      rg.len ≠ 0 → off + len ≤ rg.len →
      (rg.host = true → ∃ t, exec (.t2Write tn e) s = .next t ∧ t.mem = s.mem ∧ t.t2At key = { x with written := marks } ∧
        t.hl.dma = s.hl.dma ++ [⟨s.hl.nextDma, .t2write tn e, rg.base + off, len, s.now⟩]) ∧
      (rg.host = false → d.2 = false → ∃ u : State, exec (.t2Write tn e) s = .next u.settle ∧ (u.t2At key).state = .loading ∧
        (u.t2At key).written = marks ∧
        u.mem = (List.range n).foldl (fun m i => wrBytes m (x.unitAddr (first + i)) ((bs.drop (4096 * i)).take 4096)) s.mem ∧
        u.guest.cmds = s.guest.cmds ++ [⟨s.guest.nextTag, .write tn e, s.now, false⟩]) ∧
      (rg.host = false → d.2 = true → ∃ u : State, exec (.t2Write tn e) s = .next (u.finish tn e 5 0 []).settle ∧ u.mem = s.mem ∧
        (u.t2At key).state = .loading ∧ ∀ i, i < n → Sp.get false (u.t2At key).written (first + i) = false)) ∧
    (s.Accepts tn e 0x12 → x.state = .loading → ∃ t, exec (.t2Seal tn e) s = .next t ∧
      t.t2At key = { x with
        state := .sealing, crc := entryField e 20 4, sealCmd := e, whole := (List.range x.units).all (fun i => Sp.get false x.stored i) } ∧
      t.guest.cmds = s.guest.cmds ++ [⟨s.guest.nextTag, .seal key, s.now, false⟩] ∧ t.mem = s.mem ∧ t.frames = s.frames) ∧
    (s.Accepts tn e 0x13 → x.state = .loading → ∃ u : State, exec (.t2Abort tn e) s = .next (u.finish tn e 0 0 []) ∧
      u.t2At key = T2Tensor.none ∧ (u.tenant tn).use2 = (s.tenant tn).use2 - x.pages.length ∧
      (∀ k, k ≠ key → u.t2At k = s.t2At k) ∧ u.mem = s.mem ∧ u.frames = s.frames) ∧
    (s.Accepts tn e 0x14 → x.state = .sealed ∨ x.state = .damaged → s.t2InUse tn (entryField e 16 3) = false →
      ∃ u : State, exec (.t2Delete tn e) s = .next (u.finish tn e 0 0 []) ∧
        u.t2At key = T2Tensor.none ∧ (u.tenant tn).use2 = (s.tenant tn).use2 - x.pages.length ∧
        (∀ k, k ≠ key → u.t2At k = s.t2At k) ∧ u.mem = s.mem)

/-- R260, R271, R275, R414: the guest die's answer to a seal makes the tensor Sealed where the flash did not fail, every unit had been
stored when the seal was asked for and the CRC holds, and absent with code 8, 6 or 7 otherwise. A quota change by the driver or the steward sets the quota and the
over-quota state; one by anyone else, or for a tenant that does not exist, is discarded and logged. -/
def Obligations.SealsAndQuotas : Prop :=
  (∀ (s : State) (tn id : Nat), id < 2 ^ 24 →
    let key := t2Key tn id
    let x := s.t2At key
    x.state = .sealing →
    (x.whole = true → crc32 (s.t2Bytes x) = x.crc → ∃ u : State, exec (.t2SealCommit tn id true) s = .next (u.finish tn x.sealCmd 0 0 []) ∧
      u.t2At key = { x with state := .sealed } ∧ u.mem = s.mem ∧ u.tenants = s.tenants) ∧
    (x.whole = true → crc32 (s.t2Bytes x) ≠ x.crc → ∃ u : State, exec (.t2SealCommit tn id true) s = .next (u.finish tn x.sealCmd 1 7 []) ∧
      u.t2At key = T2Tensor.none ∧ u.mem = s.mem) ∧
    (x.whole = false → ∃ u : State, exec (.t2SealCommit tn id true) s = .next (u.finish tn x.sealCmd 1 6 []) ∧
      u.t2At key = T2Tensor.none ∧ u.mem = s.mem) ∧
    (∃ u : State, exec (.t2SealCommit tn id false) s = .next (u.finish tn x.sealCmd 1 8 []) ∧
      u.t2At key = T2Tensor.none ∧ u.mem = s.mem)) ∧
  (∀ (s : State) (who : Who) (tn tier pages : Nat),
    (who.isDriver = true ∨ who.isSteward = true → (s.tenant tn).state ≠ 0 → ∃ t, exec (.quotaChange who tn tier pages) s = .next t ∧
      (tier = 1 → (t.tenant tn).quota1 = pages % 2 ^ 23 ∧ (t.tenant tn).quota2 = (s.tenant tn).quota2) ∧
      (tier ≠ 1 → (t.tenant tn).quota2 = pages % 2 ^ 23 ∧ (t.tenant tn).quota1 = (s.tenant tn).quota1) ∧
      (t.tenant tn).over1 = decide ((t.tenant tn).quota1 < (t.tenant tn).use1) ∧
      (t.tenant tn).over2 = decide ((t.tenant tn).quota2 < (t.tenant tn).use2) ∧ t.mem = s.mem) ∧
    (who.isDriver = false ∧ who.isSteward = false ∨ (s.tenant tn).state = 0 →
      exec (.quotaChange who tn tier pages) s = .next (s.logDiscard (tnAddr tn (if tier = 1 then 0x08 else 0x0C)) who true)))

/-- R265 to R267: at the end of a heat epoch, which lasts 2^(4 + heat_exp) beats, every heat counter is halved and each promoted copy of an unpinned tensor below the drop
threshold is gone. PROMOTION_BEGIN takes the hottest tensor of the queue that may be promoted, allocates its frames, counts them in
the tenant's use and asks the guest die for the copy; PROMOTION_COPY_COMPLETE of a sealed tensor copies its pages into the frames, which
hold its copy then, and counts the promotion. -/
def Obligations.HeatAndPromotion : Prop :=
  (∀ (s : State), s.beats.beat < s.tiers.epochEnd → exec .heatEpochEnd s = .next s) ∧
  (∀ (s : State), Sp.wf T2Tensor.none s.t2 = true → s.tiers.epochEnd ≤ s.beats.beat →
    ∃ t, exec .heatEpochEnd s = .next t ∧ t.mem = s.mem ∧ t.tiers.epoch = s.tiers.epochEnd ∧
    (∀ k, (t.t2At k).heat = ((s.t2At k).heat.filter (fun h => h.2 / 2 != 0)).map (fun h => (h.1, h.2 / 2))) ∧
    (∀ k, (s.t2At k).cls = 0 → (s.t2At k).meanHeat < s.tiers.drop → (t.t2At k).copy = []) ∧
    (∀ k, ((s.t2At k).cls ≠ 0 ∨ s.tiers.drop ≤ (s.t2At k).meanHeat) → (t.t2At k).copy = (s.t2At k).copy)) ∧
  (∀ (s : State) (key h d : Nat), s.tiers.copying = none → s.tiers.promEnable = true → s.tiers.admitting = false → s.stopped = false →
    hottest s.tiers.queue = some (key, h) → s.promotable key = some d →
    let n := (s.t2At key).pages.length
    let fs := pickFrames s.frames d (Config.frameChoice s.free) (n + s.frames.length) n
    fs.length = n → ∃ t, exec .promotionBegin s = .next t ∧ t.tiers.copying = some (key, fs) ∧
      t.tiers.queue = s.tiers.queue.filter (fun q => q.1 != key) ∧
      (t.tenant (keyTenant key)).use1 = (s.tenant (keyTenant key)).use1 + n ∧
      t.guest.cmds = s.guest.cmds ++ [⟨s.guest.nextTag, .copy key, s.now, false⟩] ∧ t.t2 = s.t2 ∧
      (∀ f ∈ fs, Sp.get Frame.free t.frames f = { Frame.free with owner := some (keyTenant key, 0xFFFF, .copy key) })) ∧
  (∀ (s : State) (key : Nat) (fs : List Nat), s.tiers.copying = some (key, fs) → (s.t2At key).state = .sealed →
    (s.tenant (keyTenant key)).use1 ≤ (s.tenant (keyTenant key)).quota1 →
    ∃ t, exec .promotionCopyComplete s = .next t ∧ t.tiers.copying = none ∧ (t.t2At key).copy = fs ∧
      t.tiers.promotions = satAdd32 s.tiers.promotions 1 ∧ t.frames = s.frames ∧
      t.mem = (List.range fs.length).foldl (fun m i =>
        copyRange 0#8 m (tier2Base + nth (s.t2At key).pages i * pageSize) (nth fs i * pageSize) pageSize) s.mem)

/-- R282 to R284, R301: the update instructions of a context, for a job of its tenant. UPD_STEP for the step in the context's step
register is noted with its groups, and the register goes on; UPD_ADVANCE, for a job without an update set, writes the step
into the step state and gives the done arrival; UPD_SNAP and UPD_APPLY join the job's operations, which run in turn when no TUPD is
under way. -/
def Obligations.UpdateInstructions : Prop :=
  ∀ (s : State) (n k : Nat) (w : IWord) (ecc : Ecc), s.Issues n k w ecc → (s.ctx n k).qob = [] → w.cls = 10 →
    let u := s.taken n k ecc
    let x := u.ctx n k
    let slot := field 3 0 w.pl
    let g := field 14 4 w.pl
    (s.job slot).life ≠ .none → (s.job slot).info.tenant = x.prog.tenant →
    (w.opc = 0 → field 57 26 w.pl = x.stepReg.toNat → ∃ t, exec (.updStep n ecc) s = .next t ∧ t.mem = s.mem ∧
      t.ctx n k = { x with stepReg := x.stepReg + 1 } ∧
      (t.job slot).upd = { (s.job slot).upd with
        issues := (s.job slot).upd.issues ++ [⟨x.stepReg, n, k, g, field 25 15 w.pl⟩] } ∧
      (∀ j, j ≠ slot → t.job j = s.job j)) ∧
    (w.opc = 3 → s.entriesOf slot = [] → ∃ t, exec (.updAdvance n ecc) s = .next t ∧
      (t.ctx n k).stepReg = x.stepReg + 1 ∧ (t.job slot).upd.st = { (s.job slot).upd.st with step := x.stepReg } ∧
      t.mem = s.stepMem slot (t.job slot).upd.st ∧
      (t.core n).grp k g = ((s.core n).grp k g).arrive false) ∧
    (∀ p ∈ ([(1, false, .updSnap n ecc), (2, true, .updApply n ecc)] : List (Nat × Bool × Instr)), w.opc = p.1 →
      ∃ v : State, exec p.2.2 s = .next (v.pumpOps slot) ∧ v.mem = s.mem ∧ v.ctx n k = { x with outCmds := x.outCmds + 1 } ∧
        (v.job slot).upd = { (s.job slot).upd with ops := (s.job slot).upd.ops ++ [⟨p.2.1, n, k, g, field 81 58 w.pl⟩] })

/-- R284 to R287, R298: a gradient record that has landed is summed by a TSQ over its shares. GLOBAL_NORM_COMPLETE, when every context
has issued the step and every partial is known, decides the step: apply starts a TUPD for every record of the module, a skip writes
the step state and ends the stage with no update, and a failed step is replayed; a restart that waited for the stage (R467) follows it. UPDATE_STAGE_END, after the last TUPD, writes the step
state of the decision. -/
def Obligations.TrainingSteps : Prop :=
  (∀ (s : State) (k l t r : Nat), (s.job k).life = .running → s.coll.insts.any (fun i => s.sumsReady i k l t r) = true →
    let e := s.entryAt k t
    let rg := recRange e (s.shareLen k e) r
    ∃ u, exec (.gradientRecordLanded k l t r) s = .next u ∧ (u.job k).upd.landed = (s.job k).upd.landed ++ [(l, t, r)] ∧
      u.lists.map (fun m => (m.id, m.from_, m.records)) =
        s.lists.map (fun m => (m.id, m.from_, m.records)) ++ [(s.nextList, .partialOf k l t r, [tsqRecord rg.1 rg.2])] ∧
      u.mem = s.mem ∧ u.cores = s.cores) ∧
  (∀ (s : State) (k : Nat) (qs : List (W32 × Bool)), (s.job k).life = .running → (s.job k).upd.dec = none → s.entriesOf k ≠ [] →
    (s.stepIssued k ((s.job k).upd.st.step + 1) = true ∨ (s.job k).upd.replay = true) → s.stopped = false → s.allPartials k = some qs →
    let st := (s.job k).upd.st
    let G := qs.foldl (fun a q => (add32 a q.1).1) negZero32
    let c := decide286 (s.job k).info st.exp G (qs.any (·.2))
    let nx := (stateAfter (s.job k).info st (st.step + 1) c.1 G).1
    (c.1 = 1 → ∃ t, exec (.globalNormComplete k) s = .next t ∧ (t.job k).upd.dec = some ⟨1, c.2.1, nx⟩ ∧
      (t.job k).upd.left = s.updKeys k ∧ (t.job k).upd.st = st ∧ t.lists.length = s.lists.length + (s.updKeys k).length ∧
      t.mem = s.mem) ∧
    (c.1 ≠ 1 → c.1 ≠ 4 → ∃ t : State, exec (.globalNormComplete k) s = .next (t.replayed k) ∧ (t.job k).upd.dec = none ∧
      (t.job k).upd.st = { nx with nonfinite := 0, sealed := st.sealed } ∧ (t.job k).upd.last = c.1 ∧ t.lists = s.lists) ∧
    (c.1 = 4 → ∃ u : State, exec (.globalNormComplete k) s = .next (u.stepStop k 2) ∧ (u.job k).upd.last = 4 ∧
      (u.job k).upd.st = st ∧ u.mem = s.mem ∧ u.lists = s.lists)) ∧
  (∀ (s : State) (k : Nat) (d : UpdDec), (s.job k).upd.dec = some d → (s.job k).upd.left = [] →
    ∃ t : State, exec (.updateStageEnd k) s = .next (t.replayed k) ∧ (t.job k).upd.dec = none ∧ (t.job k).upd.landed = [] ∧
      (t.job k).upd.last = d.outcome ∧ (t.job k).upd.issues = (s.job k).upd.issues ∧
      (t.job k).upd.st = { d.next with nonfinite := BitVec.ofNat 32 (min (s.job k).upd.nonfinite (2 ^ 32 - 1)),
                                       sealed := (s.job k).upd.st.sealed })

/-- R297, R300: an acknowledged SEG frees its space of the difference ring. An acknowledged END whose count and digest match seals its
step: the sealed field of the step state is written, and what waited for the seal goes on. -/
def Obligations.StreamAcks : Prop :=
  (∀ (s : State) (k : Nat) (r : WRec) (rest : List WRec), s.watchOut = r :: rest → r.kind = 2 → r.job = (s.job k).info.job →
    (s.job k).life ≠ .none → ∃ t, exec (.segAck k) s = .next t ∧ t.watchOut = rest ∧ t.mem = s.mem ∧
      Sp.get Ring.empty (t.job k).upd.rings r.free.1 =
        { Sp.get Ring.empty (s.job k).upd.rings r.free.1 with
          used := (Sp.get Ring.empty (s.job k).upd.rings r.free.1).used - r.free.2 } ∧
      (∀ d, d ≠ r.free.1 → Sp.get Ring.empty (t.job k).upd.rings d = Sp.get Ring.empty (s.job k).upd.rings d)) ∧
  (∀ (s : State) (k : Nat) (r : WRec) (rest : List WRec) (e : W32 × Nat × Nat) (es : List (W32 × Nat × Nat)),
    s.watchOut = r :: rest → (s.job k).upd.endAt = e :: es → r.kind = 3 → r.job = (s.job k).info.job →
    (s.job k).upd.poisoned = false → (s.job k).upd.hostHold = [] →
    ∃ u : State, exec (.endAck k e.2.1 e.2.2) s = .next (u.pumpOps k).collPump ∧ rest <+: u.watchOut ∧
      (u.job k).upd.st = { (s.job k).upd.st with sealed := e.1 } ∧ (u.job k).upd.endAt = es ∧
      (u.job k).upd.issues = (s.job k).upd.issues.filter (fun i => i.step != e.1) ∧
      u.mem = s.stepMem k (u.job k).upd.st ∧
      (u.job k).upd.waitFrom = [])

/-- R366, R369, R370: GATHER, RSCAT, ALLRED and PERM of a context begin the issue of its shard for the instance of its step, with the
group, the status record and the ranges that the instruction and the table entry give. -/
def Obligations.CollectivesBegin : Prop :=
  ∀ (s : State) (n c : Nat) (w : IWord) (ecc : Ecc), s.Issues n c w ecc → (s.ctx n c).qob = [] → w.cls = 8 →
    let u := s.taken n c ecc
    let x := u.ctx n c
    let p := w.pl
    ∀ (k : Nat) (e : CollEntry) (shard : Nat), u.jobSlot x.prog = some k → u.collEntry k (field 15 0 p) = some e →
      u.actingShard k n x.prog.id = some shard →
      let cd := field 43 27 p
      let off := (x.reg (field 48 44 p)).toNat * 2 ^ field 52 49 p
      let status := 16 * field 72 53 p
      let comp := if e.op = 1 ∧ e.compressed = true then some (entryOf (u.sram n (64 * cd) 64)) else none
      let dst := e.dstVa + off
      let src := if e.op = 1 then (if comp.isSome then 0 else (Config.partnerRange e.dstVa).toNat + off)
        else if e.srcKind = 0 then e.srcVa + off else 0
      e.op = w.opc → (comp = none → cd = 0) → 64 * cd + 64 ≤ sramSize → status + 16 ≤ sramSize → x.hitsSave status 16 = false →
      dst < 2 ^ 48 → src < 2 ^ 48 → (∀ i, u.inst k e.id x.stepReg = some i → i.issue shard = none) →
      (∀ d, comp = some d → descOk d = true ∧ (u.job (entryField d 19 1)).life ≠ .none ∧
        (u.job (entryField d 19 1)).info.tenant = x.prog.tenant ∧ u.descPlaced (entryField d 19 1) d = true) →
      u.rangesOk k shard src dst e comp = true →
      (u.issueWrites k shard dst e comp).any (fun r => u.virtHits n x.prog.tenant x r.1 r.2) = false →
      ∀ q ∈ ([(0, .gather n ecc), (1, .rscat n ecc), (2, .allred n ecc), (3, .perm n ecc)] : List (Nat × Instr)), w.opc = q.1 →
        exec q.2 s = .next (u.beginIssue k x.stepReg e
          { shard := shard, core := n, ctx := c, group := field 26 16 p, status := status, src := src, dst := dst, comp := comp,
            segs := 0, poison := false, abandoned := false, lost := false, done := false })

/-- R376, R378, R385: COLLECTIVE_COMPLETE ends the first issue whose part of the instance is done: an all-reduce
writes its result, or poison where it is not complete, the status record says poison, abandoned and lost with the segments and the time, and the issue's group gets one
arrival.
R371, R377, R385: COLL_SEG for a job that does not run here is answered with status 3. A request joins the request table and is
acknowledged, or waits at its requester where the table is full; a partial of the global norm is kept for its step; a segment that was received already is counted and acknowledged
again; one that was asked for is put where it belongs and acknowledged, with its poison (shown for collectives that are not
compressed). -/
def Obligations.CollectivesEnd : Prop :=
  (∀ (s : State) (id : Nat) (i : CollInst) (e : CollEntry) (x : CollIssue), s.coll.insts[id]? = some i →
    s.collEntry i.job i.coll = some e → i.issues.find? (fun x => !x.done && s.issueDone i e x) = some x →
    let o := if e.op ≠ 2 then (s, false)
      else if x.abandoned = false ∧ s.allGot i e (fun _ => true) = true ∧ (s.held i.job).all (fun l => (i.issue l).isSome) = true
        then s.writeVec i e x else s.poisonVec i e x
    let p := x.poison || o.2 || x.abandoned || x.lost ||
      (e.op == 1 && i.sums.any (fun q => q.shard == x.shard && q.acc.any (fun a => a.2.2)))
    ∃ t, exec (.collectiveComplete id) s = .next t ∧
      t.mem = wrBytes o.1.mem (sramBase x.core + x.status)
        (leBytes 4 (b2n p + 2 * b2n x.abandoned + 4 * b2n x.lost) ++ leBytes 4 x.segs ++ leBytes 8 o.1.now) ∧
      (t.core x.core).grp x.ctx x.group = ((o.1.core x.core).grp x.ctx x.group).arrive p ∧
      (t.ctx x.core x.ctx).outCmds = (o.1.ctx x.core x.ctx).outCmds - 1 ∧
      t.coll.lost = satAdd32 o.1.coll.lost (b2n x.lost)) ∧
  (∀ (s : State) (port : Nat) (m : LMsg), s.front port 5 0 = some m →
    let u := s.popInbox port
    let k := m.slot
    let q := m.segKey
    ((s.job k).life ≠ .running ∨ (s.job k).info.tenant ≠ m.tenant → exec (.collSeg port) s = .next (u.ackSeg m 3)) ∧
    ((s.job k).life = .running → (s.job k).info.tenant = m.tenant → bitN 0 m.cflags = true → q.src < (s.job k).map.length →
      s.holder k q.src = s.self → (m.coll = 0xFFFF ∨ s.collEntry k m.coll ≠ none) →
      (s.tableRoom k = true → ∃ v : State, exec (.collSeg port) s = .next (v.ackSeg m 0).collPump ∧ v.mem = s.mem ∧
        v.coll.held = s.coll.held ++ [⟨k, m.coll, m.step, q, m.src⟩] ∧ v.coll.waiting = s.coll.waiting) ∧
      (s.tableRoom k = false → ∃ v : State, exec (.collSeg port) s = .next v.collPump ∧ v.mem = s.mem ∧
        v.coll.held = s.coll.held ∧ v.coll.waiting = s.coll.waiting ++ [m])) ∧
    ((s.job k).life = .running → (s.job k).info.tenant = m.tenant → bitN 0 m.cflags = false → m.coll = 0xFFFF →
      m.step = (s.job k).upd.st.step + 1 → ∃ v : State, exec (.collSeg port) s = .next (v.ackSeg m (b2n m.poison)) ∧ v.mem = s.mem ∧
        Sp.get noPartial (v.job k).upd.shards (stageKey ((s.job k).stageOfNode m.src q.src) q.src) =
          (BitVec.ofNat 32 (leVal (m.data.take 4)), m.poison)) ∧
    (∀ i e, (s.job k).life = .running → (s.job k).info.tenant = m.tenant → bitN 0 m.cflags = false → m.coll ≠ 0xFFFF →
      s.inst k m.coll m.step = some i → s.collEntry k m.coll = some e → i.got.contains q = true →
      ∃ v : State, exec (.collSeg port) s = .next (v.ackSeg m 0) ∧ v.mem = s.mem ∧ v.coll.dup = satAdd32 s.coll.dup 1 ∧
        v.coll.insts = s.coll.insts) ∧
    (∀ i e, (s.job k).life = .running → (s.job k).info.tenant = m.tenant → bitN 0 m.cflags = false → m.coll ≠ 0xFFFF →
      s.inst k m.coll m.step = some i → s.collEntry k m.coll = some e → e.compressed = false → i.got.contains q = false →
      i.asked.any (fun a => { a with seg := 0 } == { q with seg := 0 }) = true → q.seg < s.segCount k e { q with seg := 0 } →
      m.data.length = 16 * ceilDiv (s.segLen k e { q with seg := 0 } q.seg) 16 →
      let o := u.countRx.place i e { q with seg := 0 } (q.seg * e.segSize) (m.data.take (s.segLen k e { q with seg := 0 } q.seg)) m.poison
      ∃ v : State, exec (.collSeg port) s = .next (v.ackSeg m (b2n m.poison)).collPump ∧ v.mem = o.1.mem ∧
        ∃ i', v.inst k m.coll m.step = some i' ∧ i'.got = o.2.got ++ [q] ∧ i'.buf = o.2.buf ∧ i'.reports = o.2.reports))

/-- R310 to R312, R322: COMPRESS_BLOCK compresses the next block of its controller, and the compressor counts it by its mode and keeps
its flags; a block that does not end its group joins it, and one that ends it has the group written whole, with poison if one of its
blocks has it, which raises a module fault once the group and its RSEG record are out (shown with no page of it being moved). R318, R320, R374:
EXPAND_BLOCK adds the values of the next block of its controller to the running sums, element by element, with one rounding each, and
counts a compressed block, a damaged or poisoned one apart. -/
def Obligations.BlocksAdvance : Prop :=
  (∀ (s : State) (die ctl : Nat) (r : CzRun), s.stopped = false →
    (s.czAt die).runs.find? (fun r => decide (CzRun.blockOf ctl (r.groups.getD ctl 0) < r.blocks)) = some r →
    let b := CzRun.blockOf ctl (r.groups.getD ctl 0)
    let o := s.czBlock r b
    let bs := (r.bufs.getD ctl ([], false)).1 ++ o.2.1.bytes
    let p := (r.bufs.getD ctl ([], false)).2 || o.2.2.1
    let counted (u : State) : Prop := (u.czAt die).flags = (s.czAt die).flags ||| o.2.1.flags ∧
      (u.czAt die).blk0 = (s.czAt die).blk0 + BitVec.ofNat 64 (b2n (o.2.1.mode == 0)) ∧
      (u.czAt die).blk1 = (s.czAt die).blk1 + BitVec.ofNat 64 (b2n (o.2.1.mode == 1)) ∧
      (u.czAt die).blk2 = (s.czAt die).blk2 + BitVec.ofNat 64 (b2n (o.2.1.mode == 2))
    ctl < 8 → s.czWaits r b = false →
    (b % 4 = 3 ∨ b + 1 = r.blocks →
      let w := o.1.virtPut (o.1.tn r.jobSlot) (r.out + 576 * (b / 4)) (bs ++ zeros (576 - bs.length)) p
      ∃ (u v : State) (r' : CzRun), exec (.compressBlock die ctl) s = .next (if r'.done = true then u.czDone r' else u.collPump).settle ∧
        v.mem = w.mem ∧ r'.groups = mapAt r.groups ctl (· + 1) ∧ r'.bufs = mapAt r.bufs ctl (fun _ => ([], false)) ∧
        (p = false → counted u ∧ u.mem = v.mem) ∧
        (p = true → (∃ f, u = v.moduleFault.updCz die f) ∧
          (s.watched = true → o.2.2.1 = true → ∃ x ∈ v.watchOut, x.kind = 0x11 ∧ x.flags = 1))) ∧
    (b % 4 ≠ 3 → b + 1 < r.blocks →
    ∃ u : State, exec (.compressBlock die ctl) s = .next u.collPump.settle ∧ u.mem = o.1.mem ∧ counted u ∧
      (ctl < r.bufs.length → ctl < r.groups.length → ∃ r' ∈ (u.czAt die).runs,
        r'.groups.getD ctl 0 = r.groups.getD ctl 0 + 1 ∧
        r'.bufs.getD ctl ([], false) = (bs, p)))) ∧
  (∀ (s : State) (die ctl : Nat) (i : CollInst) (e : CollEntry) (o : OwnSum) (dst q src blk e0 n : Nat), s.stopped = false →
    s.nextExpand die ctl = some (i, e, o, dst, q, src, blk, e0, n) →
    let v := s.slotBlock i.job e src o.shard blk
    ∃ t : State, exec (.expandBlock die ctl) s = .next t.settle ∧
      (t.czAt die).eblk = (s.czAt die).eblk + BitVec.ofNat 64 (b2n (e.compressed && !v.2.2.2)) ∧
      (t.czAt die).damaged = satAdd32 (s.czAt die).damaged (b2n v.2.2.2) ∧
      ∃ i' ∈ t.coll.insts, ∃ o' ∈ i'.sums, o'.shard = o.shard ∧ ∀ x, x < n →
        Sp.get (negZero32, false) o'.acc (e0 + x) =
          ((add32 (Sp.get (negZero32, false) o.acc (e0 + x)).1 (v.1.getD ((e0 + x) % 256) 0#32)).1,
           (Sp.get (negZero32, false) o.acc (e0 + x)).2 || v.2.1))

/-- R327 to R330, R341, R348, R355: the training of a port. Beacon mode runs on the lowest lane that locks; each training step that the lanes and the peer answer well takes the port to the
next, and the last brings it up with fresh sequence numbers, credits and buffers; a step that takes too long, or no signal, leaves it in
beacon mode with a reason and a retry after 1 s, and what is reported after its limit comes too late (R13); a retry begins training; a lane that loses lock is replaced by the spare; a retrain
that takes 20 µs fails; a link that is silent for 200 µs is marked, and the leader notes a neighbour whose links are all silent. -/
def Obligations.LinkTraining : Prop :=
  (∀ (s : State) (p : Nat), s.start.pwrGood = true → p < 18 →
    let q := s.port p
    (∀ ls l, l < 9 → ls.contains l = true → (∀ j, j < l → ls.contains j = false) → q.state = 0 → q.reason = 0 →
      ∃ t, exec (.portTraining p (.signal ls)) s = .next t ∧ t.port p = { q with
        state := 1, reason := 0, beaconLane := l, retryAt := if s.start.stage = 4 then some (s.now + 1000000000) else none } ∧
        t.mem = s.mem) ∧
    (∀ ls, (∀ j, j < 9 → ls.contains j = false) → q.state = 0 → q.reason = 0 →
      exec (.portTraining p (.signal ls)) s = .next (s.setPort p { q with reason := 1 })) ∧
    (q.state = 2 → q.step ≠ 0 → q.retrain = none → q.armed + stepLimit q.step ≤ s.now →
      ∀ ev, exec (.portTraining p ev) s = exec (.trainingStepTimeout p) s) ∧
    (q.state = 2 → (q.retrain.isSome = true ∨ s.now < q.armed + stepLimit q.step) →
      (∀ ls, q.step = 1 → (∀ j, j < 9 → ls.contains j = true) →
        exec (.portTraining p (.signal ls)) s = .next (s.setPort p { q with step := 2, armed := s.now })) ∧
      (∀ ls j, q.step = 1 → j < 9 → ls.contains j = false → ∃ t, exec (.portTraining p (.signal ls)) s = .next t ∧ t.port p = { q with
        state := 1, reason := 1, step := 0, retryAt := some (s.now + 1000000000) }) ∧
      (q.step = 2 → exec (.portTraining p (.equalised [])) s = .next (s.setPort p { q with spare := 15, step := 3, armed := s.now })) ∧
      (∀ l, q.step = 2 → exec (.portTraining p (.equalised [l])) s = .next (s.setPort p { q with spare := l, step := 3, armed := s.now })) ∧
      (∀ eyes, q.step = 3 →
        let sp := if q.spare = 15 then worstLane eyes else q.spare
        exec (.portTraining p (.margins eyes)) s =
          .next (s.setPort p { q with spare := sp, lanes := (List.range 9).filter (· != sp), step := 4, armed := s.now })) ∧
      (∀ ls, q.step = 4 → ls.length = 8 → ls.all (fun l => q.lanes.contains l) = true → ls.eraseDups = ls →
        exec (.portTraining p (.order ls)) s = .next (s.setPort p { q with lanes := ls, step := 5, armed := s.now })) ∧
      (q.step = 5 → q.retrain = none →
        exec (.portTraining p (.locked true)) s = .next (s.setPort p { q with step := 6, armed := s.now })) ∧
      (∀ digest mask, q.step = 6 → commonVersion mask s.gl.verMax ≠ 0 →
        ∃ t, exec (.portTraining p (.record (s.peerOf p) (s.peerPortOf p) digest mask)) s = .next t ∧ t.port p = { q with
          peerNode := s.peerOf p, peerPort := s.peerPortOf p, version := commonVersion mask s.gl.verMax, mapOk := true,
          step := 7, armed := s.now, reason := if digest = s.fabric.digest then 0 else 5 }) ∧
      (∀ a, q.step = 7 → ∃ u : State, exec (.portTraining p (.delays a)) s = .next u.pumpAll ∧ u.port p = { q with
        asym := a, state := 3, step := 0, retrain := none, txSeq := 1, sent := [], replays := 0, rxSeq := 0, nack := false,
        asm := [], credits := List.replicate 6 64, freed := List.replicate 6 0, lastRx := s.now, silent := false, notes := [],
        retryAt := none }))) ∧
  (∀ (s : State) (p : Nat), (s.port p).state = 2 → (s.port p).step ≠ 0 → ∃ t, exec (.trainingStepTimeout p) s = .next t ∧
    t.now = max s.now ((s.port p).armed + stepLimit (s.port p).step) ∧ t.port p = { s.port p with
      state := 1, reason := if (s.port p).step = 1 then 1 else 0, step := 0, retryAt := some (t.now + 1000000000) }) ∧
  (∀ (s : State) (p a : Nat), (s.port p).retryAt = some a → s.start.stage = 4 → p < 18 → (s.fabPort p).unused = false →
    (s.port p).state ≠ 3 → ∃ t, exec (.trainingRetry p) s = .next t ∧ t.now = max s.now a ∧
      t.port p = { s.port p with state := 2, reason := 0, step := 1, armed := t.now, retryAt := none }) ∧
  (∀ (s : State) (p : Nat), s.start.pwrGood = true → (s.port p).state = 0 → (s.port p).reason = 0 → p < 18 →
    ∃ t, exec (.beaconModeTimeout p) s = .next t ∧ t.now = max s.now 10000000 ∧ t.port p = { s.port p with reason := 1 }) ∧
  (∀ (s : State) (p lane : Nat), (s.port p).lanes.contains lane = true → (s.port p).held = false → (s.port p).state = 3 →
    (s.port p).retrain = none → (s.port p).spare ≠ 15 → ∃ t, exec (.fastRetrain p lane) s = .next t ∧ t.port p = { s.port p with
      retrain := some s.now, step := 4, armed := s.now, replays := 0, spare := 15, retired := (s.port p).retired ++ [lane],
      lanes := (s.port p).lanes.map (fun (x : Nat) => if x = lane then (s.port p).spare else x) }) ∧
  (∀ (s : State) (p a : Nat), (s.port p).retrain = some a →
    ((s.port p).state = 2 → ∃ t, exec (.fastRetrainTimeout p) s = .next t ∧ t.now = max s.now (a + 20000) ∧ t.port p = { s.port p with
      retrain := none, state := 1, reason := 1, step := 0, retryAt := some (t.now + 1000000000) }) ∧
    ((s.port p).state ≠ 2 → exec (.fastRetrainTimeout p) s = .next ((s.expire 8 a 20000).portDown p 1))) ∧
  (∀ (s : State) (p : Nat), (s.port p).held = false → (s.port p).silent = false → (s.fabPort p).unused = false →
    let u := (s.expire 9 (s.port p).lastRx 200000).setPort p { s.port p with silent := true }
    (s.gl.view = [] → exec (.linkSilent p) s = .next u) ∧
    (s.isLeader = true → ((List.range 18).filter (fun r => !(s.fabPort r).unused && s.peerOf r == s.peerOf p)).all
        (fun r => (u.port r).silent) = true →
      s.gl.suspects.any (fun x => x.1 == s.peerOf p && x.2.1 == s.self) = false →
      exec (.linkSilent p) s = .next (u.updGl (fun g => { g with
        suspects := s.gl.suspects ++ [(s.peerOf p, s.self, (s.port p).lastRx)] }))))

/-- R331 to R336: a good data flit that is next in sequence is accepted: the port's sequence number and credits go on, and its bytes join the
message of their VC, which arrives with its last flit; a codeword that cannot be corrected, or whose CRC is wrong, is counted and asks for
a replay. A control flit returns credits and acknowledges flits; 4 µs without an acknowledgment replays the oldest flit, and the sixteenth
replay retrains the port. -/
def Obligations.LinkFlits : Prop :=
  (∀ (s : State) (p n : Nat) (bytes : List Byte), (s.port p).state ≠ 0 → bytes.length = 256 →
    crc32 (bytes.take 252) = leVal (bytes.drop 252) →
    let h := leVal (bytes.take 4)
    let vc := field 16 14 h
    let body := (bytes.drop 4).take (field 26 19 h)
    field 13 12 h = 0 → flitForm h = true → field 11 0 h = ((s.port p).rxSeq + 1) % 4096 →
    (bitN 17 h = true ∨ Sp.get [] (s.port p).asm vc ≠ []) →
    let all := if bitN 17 h then body else Sp.get [] (s.port p).asm vc ++ body
    let q' := { s.port p with
      fecc := (s.port p).fecc + BitVec.ofNat 64 (min n 8), rxSeq := field 11 0 h, nack := false, lastRx := s.now,
      silent := false, freed := mapAt (s.port p).freed vc (· + 1),
      asm := Sp.set [] (s.port p).asm vc (if bitN 18 h then [] else all) }
    (bitN 18 h = false → ∃ t, exec (.dataFlit p (some n) bytes) s = .next t ∧ t.port p = q' ∧
      (∀ r, r ≠ p → t.port r = s.port r) ∧ t.mem = s.mem) ∧
    (bitN 18 h = true → ∃ u : State, exec (.dataFlit p (some n) bytes) s = .next (u.arrived p vc ⟨all.take 32, all.drop 32⟩) ∧
      u.port p = q' ∧ u.mem = s.mem)) ∧
  (∀ (s : State) (p : Nat) (bytes : List Byte), (s.port p).state ≠ 0 →
    exec (.dataFlit p none bytes) s = .next (s.setPort p { s.port p with fecu := satAdd32 (s.port p).fecu 1, nack := true })) ∧
  (∀ (s : State) (p n : Nat) (bytes : List Byte), (s.port p).state ≠ 0 →
    ¬(bytes.length = 256 ∧ crc32 (bytes.take 252) = leVal (bytes.drop 252)) →
    exec (.dataFlit p (some n) bytes) s = .next (s.setPort p { s.port p with
      fecc := (s.port p).fecc + BitVec.ofNat 64 (min n 8), crcs := satAdd32 (s.port p).crcs 1, nack := true })) ∧
  (∀ (s : State) (p n frac : Nat) (bytes : List Byte), (s.port p).state ≠ 0 → bytes.length = 256 →
    crc32 (bytes.take 252) = leVal (bytes.drop 252) → leVal (bytes.take 4) = 4096 →
    let f := fun (o n : Nat) => leVal ((bytes.drop o).take n)
    bitN 12 (f 4 2) = false → f 42 4 = 0 → (s.port p).version ≠ 3 → s.parent ≠ some (s.port p).peerNode →
    ∃ u : State, exec (.controlFlit p (some n) frac bytes) s = .next (u.pump p 400) ∧ u.mem = s.mem ∧
      (u.port p).credits = (List.range 6).map (fun v => min 64 ((s.port p).credits.getD v 0 + f (6 + 2 * v) 2)) ∧
      (u.port p).sent = (match (s.port p).sent.findIdx? (fun x => x.1.seq == f 4 2 % 4096) with
        | some i => (s.port p).sent.drop (i + 1)
        | none => (s.port p).sent) ∧
      (u.port p).nack = false ∧ (u.port p).freed = List.replicate 6 0 ∧ u.linkOut.length = s.linkOut.length + 1) ∧
  (∀ (s : State) (p : Nat) (x : Flit × Egress) (xs : List (Flit × Egress)), (s.port p).sent = x :: xs → (s.port p).state = 3 →
    (s.port p).retrain = none →
    let now := max s.now ((s.port p).ackAt + 4000)
    let q' := { s.port p with retries := satAdd32 (s.port p).retries 1, replays := (s.port p).replays + 1, ackAt := now }
    ((s.port p).replays < 15 → ∃ t, exec (.ackTimeout p) s = .next t ∧ t.now = now ∧ t.port p = q' ∧
      t.linkOut = s.linkOut ++ [.replay p x.1.seq]) ∧
    (15 ≤ (s.port p).replays → ∃ u : State, exec (.ackTimeout p) s = .next (u.fastRetrain p none) ∧ u.now = now ∧ u.port p = q' ∧
      u.linkOut = s.linkOut ++ [.replay p x.1.seq]))

/-- R182 to R185, R349 to R351: a message at the front of a port's inbox that passes its checks takes effect; program `g` is that of its
sender (log entry 92). PUT writes its bytes and
gives its arrival, ATOMIC adds its words modulo 2^32, GET is answered with the bytes read; one that fails check 6 or 7 is logged and
refused. GET_RESP brings the bytes home and ACK ends an outstanding transfer. TIME is taken and has no effect. -/
def Obligations.MessagesLand : Prop :=
  (∀ (s : State) (p g : Nat) (m : LMsg) (k : Nat),
    let u := s.popInbox p
    let a := sramBase m.core + m.offset
    u.peaCheck m g = .ok k →
    (s.front p 1 0 = some m → ∃ v : State, exec (.put ⟨p, g⟩) s = .next (v.answer 9 m m.tag (b2n m.poison) false []) ∧
      v.mem = wrBytes s.mem a m.data ∧ (v.core m.core).grp k m.group = ((s.core m.core).grp k m.group).arrive m.poison ∧
      (∀ n, n ≠ m.core → v.core n = s.core n)) ∧
    (s.front p 4 0 = some m → ∃ v : State, exec (.atomic ⟨p, g⟩) s = .next (v.answer 9 m m.tag (b2n m.poison) false []) ∧
      v.mem = wrBytes s.mem a (addWords (rdBytes s.mem a m.data.length) m.data) ∧
      (v.core m.core).grp k m.group = ((s.core m.core).grp k m.group).arrive m.poison ∧ (∀ n, n ≠ m.core → v.core n = s.core n)) ∧
    (s.front p 2 0 = some m →
      exec (.get ⟨p, g⟩) s = .next (u.answer 3 m m.tag (b2n m.poison) m.poison (rdBytes s.mem a m.len)))) ∧
  (∀ (s : State) (p g : Nat) (m : LMsg) (c : Nat), (s.popInbox p).peaCheck m g = .error c →
    (s.front p 1 0 = some m → exec (.put ⟨p, g⟩) s = .next ((s.popInbox p).peaRefuse p m c)) ∧
    (s.front p 4 0 = some m → exec (.atomic ⟨p, g⟩) s = .next ((s.popInbox p).peaRefuse p m c)) ∧
    (s.front p 2 0 = some m → exec (.get ⟨p, g⟩) s = .next ((s.popInbox p).peaRefuse p m c))) ∧
  (∀ (s : State) (p : Nat) (m : LMsg) (o : OutMsg) (n : Nat) (pm : PeaMsg), s.answered m = some o → o.use = .pea n pm →
    (s.core n).peas.contains pm = true →
    (s.front p 3 0 = some m → pm.op = 1 → m.status ≤ 1 → m.data.length = pm.len → ∃ t, exec (.getResp p) s = .next t ∧
      t.mem = wrBytes s.mem (sramBase n + pm.loc) m.data ∧ t.gl.outs = s.gl.outs.erase o ∧
      (t.core n).peas = (s.core n).peas.erase pm ∧
      (t.core n).grp pm.ctx pm.group = ((s.core n).grp pm.ctx pm.group).arrive (m.poison || m.status == 1)) ∧
    (s.front p 9 0 = some m → m.status ≤ 1 → ∃ t, exec (.ack p) s = .next t ∧ t.mem = s.mem ∧ t.gl.outs = s.gl.outs.erase o ∧
      (t.core n).peas = (s.core n).peas.erase pm)) ∧
  (∀ (s : State) (p : Nat) (m : LMsg), s.front p 7 0 = some m → exec (.time p) s = .next (s.popInbox p))

/-- R352 to R356: membership by BEACON. The leader sends its BEACON at each 100 µs; a member that gets it renews its lease, sends it on and
answers; the counts of children are added up. Without a BEACON for 1 ms a member isolates itself, also where the next one comes after that (R13), and a leader without a majority does.
A module whose time is off for 1 ms fails. -/
def Obligations.Beacons : Prop :=
  (∀ (s : State), s.isLeader = true → s.gl.isolated = false →
    let t0 := (s.now / 100000 + 1) * 100000
    ∃ v : State, exec .beaconTick s = .next v.beaconDown.counted ∧ v.now = t0 ∧
      v.gl = { s.gl with beacon := some t0, acked := true, counts := [], lastBeacon := t0 } ∧ v.mem = s.mem) ∧
  (∀ (s : State) (p : Nat) (m : LMsg), s.front p 6 1 = some m →
    (s.gl.view = [] → ∃ v : State, exec (.beacon p) s = .next v.askJoin ∧ v.gl = { s.gl with leader := m.node } ∧ v.mem = s.mem) ∧
    (s.gl.view ≠ [] → m.about = s.gl.epoch → m.node = s.gl.leader → s.isLeader = false →
      (s.gl.isolated = true ∨ s.now < s.gl.lastBeacon + 1000000) →
      ∃ v : State, exec (.beacon p) s = .next v.endIsolation.beaconDown.counted ∧ v.mem = s.mem ∧
        v.gl = { s.gl with lastBeacon := s.now, beacon := some (s.now / 100000 * 100000), acked := false, counts := [] }) ∧
    (s.gl.view ≠ [] → m.about = s.gl.epoch → m.node = s.gl.leader → s.isLeader = false → s.gl.isolated = false →
      s.gl.lastBeacon + 1000000 ≤ s.now → ∃ v : State, exec (.beacon p) s = .next v.endIsolation.beaconDown.counted ∧ v.mem = s.mem ∧
        v.gl = { s.gl with isolated := true, lastBeacon := s.now, beacon := some (s.now / 100000 * 100000), acked := false, counts := [] } ∧
        (∀ n k f, n < 64 → (s.core n).run = .running k f → (v.core n).run = .saving k f))) ∧
  (∀ (s : State) (p : Nat) (m : LMsg), s.front p 6 2 = some m → m.about = s.gl.epoch → s.children.contains m.src = true →
    ∃ v : State, exec (.beaconAck p) s = .next v.counted ∧ v.gl = { s.gl with counts := Sp.set 0 s.gl.counts m.src m.count } ∧
      v.mem = s.mem) ∧
  (∀ (s : State) (a : Nat), s.gl.beacon = some a → s.gl.acked = false →
    exec .beaconAckDeadline s = .next (s.advanceTo (a + 80000 - 3000 * depthOf s.dims s.gl.leader s.self)).ackUp) ∧
  (∀ (s : State), s.gl.view ≠ [] → s.isLeader = false → s.gl.isolated = false → ∃ t, exec .leaseExpiry s = .next t ∧
    t.gl = { s.gl with isolated := true } ∧ t.now = max s.now (s.gl.lastBeacon + 1000000) ∧ t.mem = s.mem ∧
    (∀ n k f, n < 64 → (s.core n).run = .running k f → (t.core n).run = .saving k f)) ∧
  (∀ (s : State), s.isLeader = true → s.gl.isolated = false → ∃ t, exec .leaderLeaseExpiry s = .next t ∧
    t.gl = { s.gl with isolated := true } ∧ t.now = max s.now (s.gl.lastMajority + 1000000) ∧ t.mem = s.mem ∧
    (∀ n k f, n < 64 → (s.core n).run = .running k f → (t.core n).run = .saving k f)) ∧
  (∀ (s : State) (a : Nat), s.gl.offSince = some a → ∃ v : State, exec .outOfTime s = .next v.moduleFault ∧
    v.gl = { s.gl with outOfTime := true, offSince := none } ∧ v.now = max s.now (a + 1000000) ∧ v.mem = s.mem)

/-- R355 to R357: silence, death, succession and joining. The leader notes reports of a silent node; one that all its neighbours have
reported for 2 ms, or that says LEAVE, is dead, and the next view is proposed without it; without a BEACON for 500 µs the next active member
proposes a view without the leader; a JOIN is noted, and joiners are admitted together. -/
def Obligations.ViewsChange : Prop :=
  (∀ (s : State) (p : Nat) (m : LMsg),
    let u := s.popInbox p
    (s.front p 6 3 = some m → s.isLeader = true → s.gl.suspects.any (fun x => x.1 == m.node && x.2.1 == m.src) = false →
      exec (.suspect p) s = .next (u.updGl (fun g => { g with suspects := g.suspects ++ [(m.node, m.src, s.now - 200000)] }))) ∧
    (s.front p 6 8 = some m → s.isLeader = true → isMember s.gl.view m.src = true → s.gl.dead.contains m.src = false →
      exec (.leave p) s = .next (u.updGl (fun g => { g with dead := g.dead ++ [m.src] })).proposeNext) ∧
    (s.front p 6 7 = some m → s.isLeader = true → isMember s.gl.view m.src = false → s.gl.joiners.contains m.src = false →
      exec (.join p) s = .next (u.updGl (fun g => { g with joiners := g.joiners ++ [m.src] })))) ∧
  (∀ (s : State) (node : Nat), s.isLeader = true →
    let by_ := (neighbours s.dims node).filter (isMember s.gl.view)
    let reps := s.gl.suspects.filter (fun x => x.1 == node)
    by_ ≠ [] → (∀ n ∈ by_, ∃ x ∈ reps, x.2.1 = n) → s.gl.dead.contains node = false → isMember s.gl.view node = true →
    ∃ v : State, exec (.declaration node) s = .next v.proposeNext ∧ v.gl = { s.gl with dead := s.gl.dead ++ [node] } ∧
      v.now = max s.now ((reps.map (fun x => x.2.2)).foldl max 0 + 2000000) ∧ v.mem = s.mem) ∧
  (∀ (s : State), s.gl.view ≠ [] → s.isLeader = false → s.gl.prop = none → s.gl.isolated = false →
    (List.range s.gl.view.length).find? (fun i => stateIn s.gl.view i == 4 && i != s.gl.leader) = some s.self →
    exec .succession s = .next ((s.expire 10 s.gl.lastBeacon 500000).propose (s.without [s.gl.leader]))) ∧
  (∀ (s : State), s.isLeader = true → s.gl.joiners ≠ [] → s.gl.prop = none → s.gl.isolated = false →
    ∃ v : State, exec .joinBatchInterval s = .next v.proposeNext ∧ v.now = max s.now (s.gl.lastJoin + 10000000) ∧
      v.gl = { s.gl with lastJoin := v.now } ∧ v.mem = s.mem)

/-- R358 to R362: an epoch change. Fragments of a proposal are gathered, and one that stays incomplete for 1 ms counts as not received; a
member drains and reports; children that do not report by their deadline are named to the proposer; the proposer whose counts do not
cover the view within 2 ms proposes again without the nodes named, or isolates itself without a majority; INSTALL puts the proposal in
force; a FENCE with a newer epoch stops the module and seals its crumbs; frames of a future epoch are held for 2 ms. -/
def Obligations.EpochsChange : Prop :=
  (∀ (s : State) (p : Nat) (m : LMsg),
    let u := s.popInbox p
    (s.front p 6 4 = some m → s.gl.epoch.toNat < m.about.toNat → m.f 17 1 < m.f 18 1 →
      (∀ pr, s.gl.prop = some pr → pr.view = [] ∧ pr.armed + 1000000 ≤ s.now) →
      let pr := { newProposal m.about m.node s.now (m.f 18 1) [] with frags := Sp.set [] [] (m.f 17 1) m.data }
      let v := u.updGl (fun g => { g with prop := some pr })
      exec (.propose p) s = .next (if pr.frags.length = pr.count then v.complete358 pr else v)) ∧
    (s.front p 6 4 = some m → m.about.toNat ≤ s.gl.epoch.toNat →
      (∀ pr, s.gl.prop = some pr → ¬(pr.view = [] ∧ pr.armed + 1000000 ≤ s.now)) → exec (.propose p) s = .next u) ∧
    (∀ pr, s.front p 6 5 = some m → s.gl.prop = some pr → m.about = pr.epoch → pr.view ≠ [] →
      exec (.drained p) s = .next (u.updGl (fun g => { g with
        prop := some { pr with counts := Sp.set 0 pr.counts m.src m.count } })).mayReport) ∧
    (∀ pr, s.front p 6 6 = some m → s.gl.prop = some pr → m.about = pr.epoch → pr.view ≠ [] →
      exec (.install p) s = .next (u.install pr)) ∧
    (∀ pr, s.front p 6 9 = some m → s.gl.prop = some pr → pr.proposer = s.self → m.about = pr.epoch →
      exec (.drainMiss p) s = .next (u.updGl (fun g => { g with prop := some { pr with misses := pr.misses ++ [m.node] } }))) ∧
    (s.front p 8 0 = some m → s.gl.epoch.toNat < (BitVec.ofNat 32 (m.f 16 4)).toNat → s.sealRun = none →
      ∃ t, exec (.fenceNotice p) s = .next t ∧ t.stopped = true ∧ t.gl = { s.gl with mstate := 6 } ∧
        t.sealRun = some ⟨1, s.now, some 3⟩ ∧ t.mem = s.mem ∧
        ∀ r e, r < 18 → e ∈ (t.port r).egress → e.vc / 2 = 2)) ∧
  (∀ (s : State) (pr : Proposal), s.gl.prop = some pr →
    (pr.view = [] → ∃ t, exec .fragmentTimeout s = .next t ∧ t.gl = { s.gl with prop := none } ∧
      t.now = max s.now (pr.armed + 1000000) ∧ t.mem = s.mem) ∧
    (pr.view ≠ [] → pr.drained = false → s.gl.outs = [] → ∃ v : State, exec .drainDone s = .next v.mayReport ∧
      v.gl = { s.gl with prop := some { pr with drained := true } } ∧ v.mem = s.mem) ∧
    (pr.view ≠ [] → pr.drained = false →
      exec .drainMessageTimeout s = .next ((s.expire 12 pr.armed 1000000).ownDrain true)) ∧
    (pr.view ≠ [] → pr.drained = true → pr.reported = false →
      let late := (s.propChildren pr).filter (fun c => !(pr.counts.any (fun x => x.1 == c)))
      ∃ v : State, exec .drainedDeadline s = .next v.report ∧
        v.now = max s.now (pr.armed + 1900000 - 30000 * depthOf s.dims (State.propRoot pr) s.self) ∧
        v.gl.prop = some (if pr.proposer = s.self then { pr with misses := pr.misses ++ late } else pr) ∧ v.mem = s.mem) ∧
    (pr.proposer = s.self → pr.view ≠ [] →
      let n := b2n pr.drained + countSum pr.counts
      let dead := s.gl.dead ++ pr.misses.filter (fun x => !s.gl.dead.contains x)
      (s.majority n = true → ∃ v : State, exec .proposalTimeout s =
          .next (v.propose ((List.range pr.view.length).map (fun i => if pr.misses.contains i then 0 else pr.view.getD i 0))) ∧
        v.gl = { s.gl with prop := none, dead := dead } ∧ v.now = max s.now (pr.armed + 2000000)) ∧
      (s.majority n = false → ∃ v : State, exec .proposalTimeout s = .next v.isolate ∧
        v.gl = { s.gl with prop := none, dead := dead, stopInject := false } ∧ v.now = max s.now (pr.armed + 2000000)))) ∧
  (∀ (s : State) (p : Nat), (List.range 18).find? (fun r => (s.port r).heldMsgs != []) = some p →
    ∃ t, exec .heldFrameTimeout s = .next t ∧ t.port p = { s.port p with heldMsgs := [] } ∧
      t.now = max s.now ((s.port p).heldAt + 2000000) ∧ t.mem = s.mem)

/-- R390, R392, R394 to R397, R424: attaching and detaching. ATTACH by the driver in full function, with a host interface version that is
served and no other host attached, starts a session; else HL_STATUS shows the reason. DETACH, a missed heartbeat and the loss of the host
link end it: host regions, rings and doorbell lines are gone, and the reads of host memory that are under way are lost. A heartbeat starts
the timer again, one that comes at its expiry or later finds it expired (R13), and one after a detach has no effect (R458); a port reset trains the port. Any other
requester's write is discarded and logged. -/
def Obligations.HostSessions : Prop :=
  (∀ (s : State) (who : Who) (v : W32), who.mayDrive = false →
    exec (.attach who v) s = .next (s.logDiscard (hlAddr 4) who true) ∧
    exec (.detach who v) s = .next (s.logDiscard (hlAddr 4) who true) ∧
    exec (.heartbeat who) s = .next (s.logDiscard (hlAddr 0xC) who true)) ∧
  (∀ (s : State) (who : Who) (v : W32), who.mayDrive = true → bitN 4 v.toNat = true → bitN 5 v.toNat = false →
    let ver := v.toNat % 16
    let full := s.image ≠ none ∧ s.start.stage = 4 ∧ s.start.done = true
    let other := s.hl.state = 1 ∧ s.hl.att.any (· != who.port) = true ∧ s.hl.hostId ≠ v.toNat / 256
    (full → ver = 1 ∨ ver = 2 → ¬other → ∃ t, exec (.attach who v) s = .next t ∧ t.mem = s.mem ∧ t.tenants = s.tenants ∧
      t.hl = { s.hl with
        refusal := 0, state := 1, session := (s.hl.session + 1) % 65536, hostId := v.toNat / 256, inUse := ver, hbArmed := s.now,
        att := if s.hl.att.contains who.port then s.hl.att else s.hl.att ++ [who.port] }) ∧
    (¬full → exec (.attach who v) s = .next { s with hl := { s.hl with refusal := 3 } }) ∧
    (full → ver ≠ 1 → ver ≠ 2 → exec (.attach who v) s = .next { s with hl := { s.hl with refusal := 1 } }) ∧
    (full → ver = 1 ∨ ver = 2 → other → exec (.attach who v) s = .next { s with hl := { s.hl with refusal := 2 } })) ∧
  (∀ (s : State), s.hl.state = 1 →
    let gone := fun (t : State) (cause : Nat) => t.hl.state = 2 ∧ t.hl.cause = cause ∧ t.hl.inUse = 0 ∧ t.hl.att = [] ∧
      (∀ x ∈ t.tenants, x.2.doorbell = none ∧ x.2.held = [] ∧ (∀ r ∈ x.2.regions, r.2.host = false) ∧ ∀ q ∈ x.2.queues, q.2.isSet = false) ∧
      (∀ x ∈ t.pages, ∀ r i, x.2.dest ≠ .hostPage r i)
    let lose := fun (u : State) => (s.hl.dma.foldl (fun (a : State) r => a.dmaDone r [] true true) u).settle
    (∀ (who : Who) (v : W32), who.mayDrive = true → bitN 5 v.toNat = true → ∃ u : State,
      exec (.detach who v) s = .next ((lose u).logAttach who.port 3 1) ∧ gone u 3 ∧ u.mem = s.mem) ∧
    (∃ u : State, exec .heartbeatTimeout s = .next ((lose u).logAttach 0 1 2) ∧ gone u 1 ∧ u.mem = s.mem ∧
      u.now = max s.now (s.hl.hbArmed + 4000000000)) ∧
    (∃ u : State, let w := (lose u).logAttach 0 2 2
      exec .hostLinkDown s = .next { w with hl := { w.hl with ports := [HlPort.down, HlPort.down] } } ∧ gone u 2 ∧ u.mem = s.mem) ∧
    (∀ (who : Who), who.mayDrive = true →
      (s.now < s.hl.hbArmed + 4000000000 → exec (.heartbeat who) s = .next { s with hl := { s.hl with hbArmed := s.now } }) ∧
      (s.hl.hbArmed + 4000000000 ≤ s.now → exec (.heartbeat who) s = exec .heartbeatTimeout s))) ∧
  (∀ (s : State) (who : Who), who.mayDrive = true → s.hl.state ≠ 1 → exec (.heartbeat who) s = .next s) ∧
  (∀ (s : State) (port speed width : Nat), exec (.hostPortReset port speed width) s =
    .next { s with hl := { s.hl with ports := mapAt s.hl.ports port (fun _ =>
      if speed = 0 ∨ width = 0 ∨ s.start.stage = 0 then HlPort.down
      else if s.start.stage = 4 ∧ s.start.done = true then ⟨2, min speed 6, min width 16, true, true⟩
      else ⟨1, 1, min width 16, false, false⟩) } })

/-- R401, R416: the mailbox. It refuses with reason 1 for a tenant that does not exist and 6 while detached, and discards the writes of
others and those that come while it is busy. HREG maps a host region and DREG registers a device region, whose pages count in the tenant's use (R272), with the address or the offsets
as the result; RREL waits until the region is in use no more; DBELL sets the doorbell line; QSET sets a ring and QRESET takes a queue out of the
error state, with the restart index as the result. -/
def Obligations.MailboxCommands : Prop :=
  (∀ (s : State) (who : Who),
    ∀ c ∈ ([.hreg who, .dreg who, .rrel who, .dbell who, .qset who, .qreset who] : List Instr),
      (who.mayDrive = false ∨ s.hl.cstate = 1 → exec c s = .next (s.logDiscard (hlAddr 0x38) who true)) ∧
      (who.mayDrive = true → s.hl.cstate ≠ 1 → (s.tenant s.hl.tenant).state = 0 → exec c s = .next (s.mbRefuse 1)) ∧
      (who.mayDrive = true → s.hl.cstate ≠ 1 → (s.tenant s.hl.tenant).state ≠ 0 → s.hl.state ≠ 1 → exec c s = .next (s.mbRefuse 6))) ∧
  (∀ (s : State) (who : Who), who.mayDrive = true → s.hl.cstate ≠ 1 → (s.tenant s.hl.tenant).state ≠ 0 → s.hl.state = 1 →
    let tn := s.hl.tenant
    let r := s.hl.object
    let x := s.tenant tn
    let a0 := s.hl.carg0.toNat
    let a1 := s.hl.carg1.toNat
    let len := a1 % 2 ^ 40
    let q := x.queue r
    (a0 % 65536 = 0 → len % 65536 = 0 → len ≠ 0 → x.over1 = false → x.regions.length < 64 → (x.region r).len = 0 →
      let va := s.freshVa tn 65536 len
      ∃ t, exec (.hreg who) s = .next t ∧ t.hl.cstate = 2 ∧ t.hl.creason = 0 ∧ t.hl.cres = BitVec.ofNat 64 va ∧ t.mem = s.mem ∧
        (t.tenant tn).region r = { Region.none with host := true, base := a0, va := va, len := len, write := bitN 40 a1 } ∧
        (∀ i, i < len / 65536 → Sp.get PageEnt.none t.pages (pageKey tn (va / 65536 + i)) = ⟨.hostPage r i, false, false⟩)) ∧
    (a0 % pageSize = 0 → len % pageSize = 0 → len ≠ 0 → a0 + len ≤ 2 ^ 48 → x.over1 = false → x.regions.length < 64 →
      (∀ i, i < len / pageSize → s.forbiddenPage tn (a0 + i * pageSize) = false) → (x.region r).len = 0 →
      ∃ (u : State) (hdm bar : Nat), exec (.dreg who) s = .next ((u.settleQuota tn).mbDone (hdm % 2 ^ 41 + bar / 65536 * 2 ^ 41)) ∧
        u.mem = s.mem ∧ u.pages = s.pages ∧ (u.tenant tn).use1 = x.use1 + len / pageSize ∧
        (u.tenant tn).region r = { Region.none with
          va := a0, len := len, write := bitN 40 a1, placement := bitN 41 a1 && s.hl.inUse == 2, adapter := a1 / 2 ^ 48, hdm := hdm, bar2 := bar }) ∧
    ((x.region r).len ≠ 0 → ∃ u : State, exec (.rrel who) s = .next u.pumpRelease ∧ u.hl.cstate = 1 ∧
      (u.tenant tn).region r = { x.region r with releasing := true } ∧ u.pages = s.pages ∧ u.mem = s.mem) ∧
    (a0 % 64 = 0 → ∃ t, exec (.dbell who) s = .next t ∧ t.hl.cstate = 2 ∧ t.tenant tn = { x with doorbell := some a0 } ∧
      t.mem = s.mem) ∧
    (∀ s2 : State, r < 8 → a0 % 4096 = 0 → 6 ≤ a1 % 32 → a1 % 32 ≤ 16 → q.shadow.length ≤ 2 ^ (a1 % 32) →
      let s1 := s.freeFrames tn (fun o => o == (tn, 0xFFFF, FrameUse.shadow r))
      let m := shadowPages r (a1 % 32)
      (s1.tenant tn).use1 + m ≤ (s1.tenant tn).quota1 →
      (if isInput r then s2 = s1 else ∃ d fs, s1.bestDie (fun d => decide (m ≤ s1.freeOnDie d)) = some d ∧
        s1.allocFrames d m (tn, 0xFFFF, .shadow r) = some (s2, fs)) →
      exec (.qset who) s = .next (((s2.updTenant tn (fun t => t.setQueue r ({ q with
        isSet := true, base := a0, depthExp := a1 % 32, port := b2n (bitN 8 a1), err := false }.again (isInput r)))).serveQueue tn r).mbDone
          (q.restart (isInput r)))) ∧
    (r < 8 → ∃ u : State, exec (.qreset who) s = .next ((u.serveQueue tn r).mbDone (q.restart (isInput r))) ∧
      (u.tenant tn).queue r = { q with err := false }.again (isInput r) ∧ u.mem = s.mem))

/-- R403, R407 to R409, R412: commands of queue 0 that are due wait while the window or a queue has no room, and go on in the next window of
1 µs. JOB_START admits the job that the image names, or refuses it with the part and code of what stands in its way, a member's other beat length
among them (R27; the codes of parts 1 to 3 are open, log entry 70); JOB_STOP lets the job retire; FENCE completes when the commands before
it have; TB_SUBMIT hands its records over as a list; RESHARD leaves its map pending. -/
def Obligations.TenantCommands : Prop :=
  (∀ (s : State) (tn : Nat) (e : Entry) (told : List (Nat × Nat)),
    ∀ c ∈ ([(1, s.hearBeats told, .jobStart tn ⟨e, told⟩), (2, s, .jobStop tn e), (3, s, .fenceCommand tn e), (4, s, .tbSubmit tn e),
        (0x10, s, .t2Open tn e), (0x11, s, .t2Write tn e), (0x12, s, .t2Seal tn e), (0x13, s, .t2Abort tn e), (0x14, s, .t2Delete tn e),
        (0x20, s, .reshard tn e)] : List (Nat × State × Instr)),
      entryField e 0 1 = c.1 → s.inputWaits tn 0 = true →
      (s.tenant tn).held.length < (((s.tenant tn).queue 0).prod - ((s.tenant tn).queue 0).cons).toNat →
      ((s.tenant tn).held ≠ [] ∨ s.mayAccept tn = false) →
      exec c.2.2 s = .next (c.2.1.setTenant tn { s.tenant tn with held := (s.tenant tn).held ++ [e] })) ∧
  (∀ (s : State), ((∀ x ∈ s.tenants, x.2.held = []) → exec .commandTakeWindow s = .next s.nextWindow) ∧
    (∀ tn e es, s.nextWindow.nextTenant = some tn → (s.tenant tn).held = e :: es → ∃ u : State, ∃ fuel,
      exec .commandTakeWindow s = .next (State.takeHeld (State.acceptCommand u tn e) fuel) ∧ u.now = s.nextWindow.now ∧
      (u.tenant tn).held = es ∧ u.mem = s.mem)) ∧
  (∀ (s : State) (tn : Nat) (e : Entry),
    let u := s.accepted tn e
    (s.Accepts tn e 3 →
      let w := (u.tenant tn).open_.filter (· != entryField e 4 4)
      exec (.fenceCommand tn e) s = .next (if w = [] then u.finish tn e 0 0 []
        else u.setTenant tn { u.tenant tn with fences := (u.tenant tn).fences ++ [(e, w)] })) ∧
    (∀ told, s.Accepts tn e 1 →
      let u := (s.hearBeats told).accepted tn e
      let start : Instr := .jobStart tn ⟨e, told⟩
      (s.namedJob tn e = none → exec start s = .next (u.finish tn e 3 0 [])) ∧
      (∀ j, s.namedJob tn e = some j →
        ((s.job j.slot).life ≠ .none → exec start s = .next (u.refuse tn e 3 (openCode 3))) ∧
        ((s.job j.slot).life = .none → u.beatsDiffer j = true → exec start s = .next (u.refuse tn e 1 (openCode 1))) ∧
        ((s.job j.slot).life = .none → u.beatsDiffer j = false → s.crossesDiffering j = true →
          exec start s = .next (u.refuse tn e 2 (openCode 2))) ∧
        ((s.job j.slot).life = .none → u.beatsDiffer j = false → s.crossesDiffering j = false →
          let v := u.stopPromotion
          (v.tierCode j ≠ 0 → exec start s = .next (v.refuse tn e 0 (v.tierCode j))) ∧
          (v.tierCode j = 0 →
            (∀ w, (v.placing e j).allocJob j.slot = some w → ∃ t, exec start s = .next t ∧ t = w.fillJob j.slot ∧
              (t.job j.slot).life = .filling ∧ t.tiers.admitting = true) ∧
            ((v.placing e j).allocJob j.slot = none → exec start s = .next (v.refuse tn e 0 0x22)))))) ∧
    (∀ j k, s.Accepts tn e 2 → s.namedJob tn e = some j → s.jobOf tn (entryField e 16 2) = some k →
      entryField ((u.filled k).job k).cmd 0 1 ≠ 2 → exec (.jobStop tn e) s =
        .next (((u.filled k).setJob k { (u.filled k).job k with life := .stopping, cmd := e }).endJob k)) ∧
    (s.Accepts tn e 4 →
      let n := entryField e 18 2
      let g := (u.tenant tn).region (entryField e 16 1)
      let off := entryField e 24 8
      let d := u.readVirt tn (g.va + off) (64 * n) (64 * n / 64 + 2)
      let recs := (List.range n).map (fun i => entryOf ((d.1.drop (64 * i)).take 64))
      1 ≤ n → n ≤ 255 → off + 64 * n ≤ g.len →
      (g.host = false → d.2 = false →
        recs.all (fun r => (u.noteVirt tn (g.va + off) (64 * n) (64 * n / 65536 + 2)).recOk tn true r) = true →
        ∃ t : State, exec (.tbSubmit tn e) s = .next t.settle ∧ t.mem = s.mem ∧ t.lists.map (fun l => (l.id, l.from_, l.tenant, l.records)) =
          s.lists.map (fun l => (l.id, l.from_, l.tenant, l.records)) ++ [(s.nextList, .host e, tn, recs)]) ∧
      (g.host = true → ∃ t, exec (.tbSubmit tn e) s = .next t ∧ t.mem = s.mem ∧ t.lists = s.lists ∧
        t.hl.dma = s.hl.dma ++ [⟨s.hl.nextDma, .submit tn e, g.base + off, 64 * n, s.now⟩])) ∧
    (∀ j k, s.Accepts tn e 0x20 → s.namedJob tn e = some j → s.jobOf tn (entryField e 16 2) = some k →
      (s.job k).life = .running → (s.job k).map ≠ [] → (s.job k).pend = none →
      let n := (s.job k).map.length
      let g := (u.tenant tn).region (entryField e 28 1)
      let off := entryField e 32 8
      let d := u.readVirt tn (g.va + off) (4 * n) (4 * n / 64 + 2)
      let m := (List.range n).map (fun i => (leVal ((d.1.drop (4 * i)).take 4) % 2 ^ 18, leVal ((d.1.drop (4 * i)).take 4) / 2 ^ 18))
      off + 4 * n ≤ g.len → g.host = false → d.2 = false → mapDigest m = entryField e 24 4 →
      (∀ c ∈ s.cores, ∀ x ∈ c.2.ctxs, x.2.ofJob (s.job k).info = true → x.2.life = .live →
        x.2.stepReg.toNat < (BitVec.ofNat 32 (entryField e 20 4)).toNat) →
      ∃ v : State, exec (.reshard tn e) s = .next (v.finish tn e 0 0 []).settle ∧ v.mem = s.mem ∧
        (v.job k).pend = some (BitVec.ofNat 32 (entryField e 20 4), m)))

/-- R403, R406, R411 to R413, R402, R404: traffic with the host. HQ_POST puts its entry with the next index into the shadow of its queue and
HQ_TAKE brings the next entry of its ring to the core, each with one arrival; an entry that names another index puts the queue into the error
state; one that has waited goes on with HQ_RESUME. DOORBELL moves the produced index of an input queue. A placement write stores its bytes
and is counted for the next notice. CXL_MEM_ACCESS reads or writes a burst of a device region, or waits where its channel or bank is held (R95, R249). HOST_DMA_COMPLETE gives what a read brought to
what asked for it; one that nothing waits for is discarded, and one without an answer for 50 ms brings poison, after which the answer is discarded (R13). -/
def Obligations.HostTraffic : Prop :=
  (∀ (s : State) (n k : Nat) (w : IWord) (ecc : Ecc), s.Issues n k w ecc → (s.ctx n k).qob = [] → w.cls = 9 → hqOk (s.ctx n k) w = true →
    let x := s.ctx n k
    let tn := x.prog.tenant
    let q := field 25 23 w.pl
    let a := field 22 0 w.pl
    let g := field 36 26 w.pl
    let y := (s.tenant tn).queue q
    (w.opc = 0 → y.room = true → ∃ t, exec (.hqPost n ecc) s = .next t ∧ t.mem = s.mem ∧
      ((t.tenant tn).queue q).prod = y.prod + 1 ∧
      ((t.tenant tn).queue q).shadow = y.shadow ++ [(y.prod, entryOf (leBytes 4 y.prod.toNat ++ (s.sram n a 64).drop 4))] ∧
      (t.core n).grp k g = ((s.core n).grp k g).arrive false ∧ (t.ctx n k).pc = x.pc + 1) ∧
    (∀ ring : Entry, w.opc = 1 → s.inputWaits tn q = true →
      (entryField ring 0 4 = y.cons.toNat → ∃ t, exec (.hqTake n ecc ring) s = .next t ∧
        t.mem = wrBytes s.mem (sramBase n + a) (entryBytes ring) ∧ ((t.tenant tn).queue q).cons = y.cons + 1 ∧
        (t.core n).grp k g = ((s.core n).grp k g).arrive false ∧ (t.ctx n k).pc = x.pc + 1) ∧
      (entryField ring 0 4 ≠ y.cons.toNat → ∃ t, exec (.hqTake n ecc ring) s = .next t ∧ t.mem = s.mem ∧
        ((t.tenant tn).queue q).err = true ∧ (t.core n).grp k g = ((s.core n).grp k g).arrive true))) ∧
  (∀ (s : State) (n k : Nat) (w : IWord) (ws : List IWord) (ring : Entry), (s.core n).running = some k → (s.ctx n k).qob = w :: ws →
    w.cls = 9 → s.stopped = false → (s.core n).waitState k w = .ready → hqOk (s.ctx n k) w = true →
    let tn := (s.ctx n k).prog.tenant
    let q := field 25 23 w.pl
    let u := s.setCtx n k { s.ctx n k with qob := ws }
    (w.opc = 0 → ((s.tenant tn).queue q).room = true → exec (.hqResume n ring) s = .next (u.hqPostTake n k w)) ∧
    (w.opc ≠ 0 → s.inputWaits tn q = true → exec (.hqResume n ring) s = .next (u.hqTakeTake n k w ring))) ∧
  (∀ (s : State) (tn q : Nat) (line : Entry), s.hl.state = 1 → (s.tenant tn).hostEn = true → (s.tenant tn).doorbell ≠ none →
    (∀ r, r < 8 → r ≠ q → ((s.tenant tn).queue r).isSet = false) → q < 8 → isInput q = true →
    let x := (s.tenant tn).queue q
    let v := BitVec.ofNat 32 (entryField line (4 * q) 4)
    x.isSet = true → x.err = false → backward v x.prod = false → (v - x.cons).toNat ≤ 2 ^ x.depthExp →
    exec (.doorbell tn line) s = .next (s.setTenant tn ((s.tenant tn).setQueue q { x with prod := v }))) ∧
  (∀ (s : State) (rq off tn r : Nat) (data : List Byte) (g : Region),
    (s.placement rq off data.length = none →
      exec (.placementWrite rq off data) s = .next (s.logOutside off (Config.hostPort off % 2) true) ∧
      exec (.placementNotify rq off data) s = .next (s.logOutside off (Config.hostPort off % 2) true)) ∧
    (s.placement rq off data.length = some (tn, r, g) →
      let v := (s.writeVirt tn (g.va + (off - g.bar2)) data false (data.length / 64 + 2)).settle
      (off + data.length + 64 ≤ g.bar2 + g.len → ∃ t, exec (.placementWrite rq off data) s = .next t ∧ t.mem = v.mem ∧
        (t.tenant tn).region r = { g with placed := g.placed + data.length }) ∧
      (g.bar2 + g.len < off + data.length + 64 → ∃ t, exec (.placementNotify rq off data) s = .next t ∧
        t.mem = v.mem ∧ (t.tenant tn).region r = { g with placed := 0 }))) ∧
  (∀ (s : State) (port off tn r a : Nat) (g : Region) (poison : Bool), (s.hl.ports.getD port HlPort.down).mem = true →
    s.findRegion (fun g => !g.host && decide (g.hdm ≤ off / 64 * 64) && decide (off / 64 * 64 < g.hdm + g.len)) = some (tn, r, g) →
    s.physOf tn (g.va + (off / 64 * 64 - g.hdm)) = some a → isTier1 a = true →
    let who : Who := ⟨0x5A + port, tn⟩
    let o := (s.access a 1).burstRead a 1 .clean
    (s.accWaits a = false → exec (.cxlMemAccess port off none poison) s = .next { o.1 with resp := .burst o.2.1 o.2.2 }) ∧
    (s.accWaits a = true → exec (.cxlMemAccess port off none poison) s = .next (s.deferAcc (.read who a .clean))) ∧
    (∀ d, g.write = true → s.accWaits a = false →
      exec (.cxlMemAccess port off (some d) poison) s = .next (s.wrPhys a (entryBytes d) poison)) ∧
    (∀ d, g.write = true → s.accWaits a = true →
      exec (.cxlMemAccess port off (some d) poison) s = .next (s.deferAcc (.write who a d poison))) ∧
    (∀ d, g.write = false → exec (.cxlMemAccess port off (some d) poison) s = .next (s.logDiscard a who true))) ∧
  (∀ (s : State) (id : Nat) (data : List Byte) (poison : Bool) (r : DmaRead), s.hl.dma.find? (fun d => d.id == id) = some r →
    let lost := (((s.advanceTo (r.armed + 50000000)).logTimeout 18 r.armed).dmaDone r [] true false).settle.pumpRelease
    exec (.hostDmaTimeout id) s = .next lost ∧
    (r.armed + 50000000 ≤ s.now → exec (.hostDmaComplete id data poison) s = .next (lost.logDiscard 0 ⟨0x5A, 0x1000⟩ false)) ∧
    (s.now < r.armed + 50000000 → exec (.hostDmaComplete id data poison) s = .next (s.dmaDone r data poison false).settle.pumpRelease ∧
      (∀ l x, r.use = .list l → s.listAt l = some x → x.dma = some (false, r.id) → data.length = r.len → ∃ u : State,
        exec (.hostDmaComplete id data poison) s = .next u.settle.pumpRelease ∧ u.mem = s.mem ∧
        u.hl.dma = s.hl.dma.filter (fun d => d.id != r.id) ∧
        u.listAt l = some (x.take (r.addr % 64) (if poison then zeros r.len else data)
          (if poison then allBursts (r.addr % 64) r.len else []))))) ∧
  (∀ (s : State) (id : Nat) (data : List Byte) (poison : Bool), s.hl.dma.find? (fun d => d.id == id) = none →
    exec (.hostDmaComplete id data poison) s = .next (s.logDiscard 0 ⟨0x5A, 0x1000⟩ false))

/-- R425 to R427: the firewall in front of the guest die. A message that answers an outstanding command in kind and length is delivered; one
that does not is logged, and its command is sent again once; one that answers nothing is discarded, logged and counted in its 10 µs. A
command without an answer in its time is sent again, and when that fails it completes and the guest is reset; an answer at the end of the
time or later comes too late (R13). A T2_WRITE that the guest die has stored marks its units, and one that it could not store frees the
tensor (R260). After 1 ms the reset ends; the ready message
lets the module go on with its commands, and a missing one counts as a further reset. -/
def Obligations.GuestFirewall : Prop :=
  (∀ (s : State), s.guest.phase = 1 → exec .guestResetRelease s =
    .next { s with now := max s.now (s.guest.armed + 1000000),
                   guest := { s.guest with phase := 2, armed := max s.now (s.guest.armed + 1000000) } }) ∧
  (∀ (s : State), s.guest.phase = 2 →
    (s.now < s.guest.armed + 2000000000 → exec .guestReady s = .next { s with guest := { s.guest with
      phase := 3, cmds := s.guest.cmds.map (fun (c : GCmd) => { c with armed := s.now, retried := true }) } }) ∧
    (s.guest.armed + 2000000000 ≤ s.now → exec .guestReady s = exec .guestReadyTimeout s) ∧
    exec .guestReadyTimeout s = .next ((s.expire 17 s.guest.armed 2000000000).guestReset 3)) ∧
  (∀ (s : State) (tag : Nat) (c : GCmd), s.guest.phase = 3 → s.guest.cmds.find? (fun c => c.tag == tag) = some c →
    let again := fun (now : Nat) => s.guest.cmds.map (fun (x : GCmd) => if x.tag = c.tag then { x with armed := now, retried := true } else x)
    (c.retried = false → ∃ t, exec (.guestCommandTimeout tag) s = .next t ∧ t.now = max s.now (c.armed + c.kind.limit) ∧
      t.guest = { s.guest with cmds := again t.now } ∧ t.mem = s.mem) ∧
    (c.retried = true → exec (.guestCommandTimeout tag) s =
      .next (((s.expire 16 c.armed c.kind.limit).guestFail c).settle.pumpRelease.guestReset 3)) ∧
    (c.armed + c.kind.limit ≤ s.now → ∀ m, exec (.guestMessage tag m) s = exec (.guestCommandTimeout tag) s) ∧
    (s.now < c.armed + c.kind.limit →
    (∀ m, c.kind.fits m = true → exec (.guestMessage tag m) s = .next (s.guestDeliver c m).settle.pumpRelease) ∧
    (∀ m, c.kind.fits m = false → c.retried = false → ∃ u : State, exec (.guestMessage tag m) s = .next u.settle.pumpRelease ∧
      u.guest = { s.guest with cmds := again s.now } ∧ u.mem = s.mem) ∧
    (∀ m, c.kind.fits m = false → c.retried = true →
      exec (.guestMessage tag m) s = .next ((s.logFirewall 2).guestFail c).settle.pumpRelease) ∧
    (∀ tn e ok, c.kind = .write tn e → ∃ u : State,
      exec (.guestMessage tag (.wrote ok)) s = .next (u.finish tn e (if ok then 0 else 1) (if ok then 0 else 8) []).settle.pumpRelease ∧
      u.guest.cmds = s.guest.cmds.filter (fun x => x.tag != c.tag) ∧ u.mem = s.mem ∧
      let key := t2Key tn (entryField e 16 3)
      ((s.t2At key).state = .loading →
        (ok = true → (u.t2At key).state = .loading ∧
          ∀ i, i < entryField e 24 4 → Sp.get false (u.t2At key).stored (entryField e 20 4 + i) = true) ∧
        (ok = false → u.t2At key = T2Tensor.none))))) ∧
  (∀ (s : State) (tag : Nat) (m : GMsg), s.guest.phase = 3 → s.guest.cmds.find? (fun c => c.tag == tag) = none →
    let n := if s.guest.badWin = s.now / 10000 then s.guest.badCount + 1 else 1
    let u := { s with guest := { s.guest with badWin := s.now / 10000, badCount := n } }
    exec (.guestMessage tag m) s = .next (if 64 < n then u.guestReset 1 else u.logFirewall 1))

/-- R421, R434 to R440, R459, R491: the start. POWER_GOOD begins it, with all volatile state cleared; each stage that meets nothing wrong is passed,
and the last one brings the module into full function with its image; whatever a stage meets that is wrong fails the start with its reason, as
do the limit of the stage, also where the stage is passed only then (R13), and the watchdog: the reason is shown, issue stops, and the crumbs are sealed. The start window is judged by the sensors that have a sample,
and by what the command reports of the others. -/
def Obligations.StartRuns : Prop :=
  (∀ (s : State), s.start.pwrGood = false → s.sealRun = none →
    (s.pm.tripHold = true → exec .powerGood s = .next { s with start := { s.start with hold := .trip } }) ∧
    (s.pm.tripHold = false → ∃ t, exec .powerGood s = .next t ∧ t.start.pwrGood = true ∧ t.start.stage = 1 ∧ t.start.done = false ∧
      t.start.cause = s.start.cause ∧ t.gl.mstate = 1 ∧ t.mem = s.mem.filter (fun p => isTier2 p.1) ∧ t.nor = s.nor ∧
      t.cores = [] ∧ t.jobs = [] ∧ t.tenants = [] ∧ t.pages = [] ∧ t.pending = s.pending)) ∧
  (∀ (s : State) (r1 : Stage1Rep) (r2 : Stage2Rep) (r3 : Stage3Rep),
    ∀ c ∈ ([(1, .startStage1 r1), (2, .startStage2 r2), (3, .startStage3 r3)] : List (Nat × Instr)), s.startAt c.1 = true →
      (stageLimit c.1).1 ≤ s.now → exec c.2 s = exec (.stageLimitTimeout c.1) s) ∧
  (∀ (s : State) (r : Stage1Rep), s.startAt 1 = true → s.now < (stageLimit 1).1 →
    let o := s.trySlots (s.slotOrder r.slots) 2
    let u := o.1.trainHosts r.hosts
    (r.rom = false → exec (.startStage1 r) s = .next (s.failedStart 1 5)) ∧
    (r.rom = true → r.nor = false ∨ s.boot = none → exec (.startStage1 r) s = .next ((s.imageError (0, 0xFF, 0)).failedStart 1 1)) ∧
    (r.rom = true → r.nor = true → s.boot ≠ none → o.2.1 = none → exec (.startStage1 r) s = .next (o.1.failedStart 1 o.2.2)) ∧
    (r.rom = true → r.nor = true → s.boot ≠ none → o.2.1 ≠ none → u.ledgerHolds = true →
      ∃ t, exec (.startStage1 r) s = .next t ∧ t.start.stage = 5 ∧ t.start.held = true ∧ t.stopped = false) ∧
    (r.rom = true → r.nor = true → s.boot ≠ none → o.2.1 ≠ none → u.ledgerHolds = false →
      ((r.window && s.startWindow) = false → ∃ v : State, exec (.startStage1 r) s = .next (v.failedStart 2 8)) ∧
      ((r.window && s.startWindow) = true → r.firmware = false → ∃ v : State, exec (.startStage1 r) s = .next (v.failedStart 2 6)) ∧
      ((r.window && s.startWindow) = true → r.firmware = true → r.lanes = [] → r.trained = false →
        ∃ v : State, exec (.startStage1 r) s = .next (v.failedStart 2 0x0A)) ∧
      ((r.window && s.startWindow) = true → r.firmware = true → r.lanes = [] → r.trained = true → r.scrub = false →
        ∃ v : State, exec (.startStage1 r) s = .next (v.failedStart 2 0x0B)) ∧
      ((r.window && s.startWindow) = true → r.firmware = true → r.lanes = [] → r.trained = true → r.scrub = true →
        ∃ t, exec (.startStage1 r) s = .next t ∧ t.start.stage = 2 ∧ t.dd.up = List.replicate 5 true ∧ t.dd.lanes = s.dd.fused ∧
          t.stopped = s.stopped))) ∧
  (∀ (s : State) (r : Stage2Rep), s.startAt 2 = true → s.now < (stageLimit 2).1 →
    let u := (s.enter 3).readRetired
    (r.trained = false → exec (.startStage2 r) s = .next (u.failedStart 3 0x0C)) ∧
    (r.trained = true → versionsOk r.versions = false → exec (.startStage2 r) s = .next (u.failedStart 3 0x0D)) ∧
    (r.trained = true → versionsOk r.versions = true → r.failed = [] →
      (∀ d, (s.mcOf d).quar.length + r.frames.length ≤ 1024) → s.pm.charged = true →
      200 ≤ s.pm.energy → ∃ t, exec (.startStage2 r) s = .next t ∧ t.start.stage = 3 ∧ (r.frames = [] → t.retired = u.retired) ∧
        (∀ d, d < 4 → (t.mcOf d).ready = true ∧ (t.mcOf d).lowest = dieVersion r.versions d ∧ (t.tubOf d).ready = true) ∧
        ∀ f ∈ r.frames, f < 4 * dieFrames → u.retired.any (fun e => e.1 == f) = false → (t.frameAt f).quar = true) ∧
    (r.trained = true → versionsOk r.versions = true → r.failed = [] → r.frames = [] →
      s.pm.charged = false ∨ s.pm.energy < 200 → ∃ w : State, exec (.startStage2 r) s = .next (w.failedStart 3 8))) ∧
  (∀ (s : State) (r : Stage3Rep), s.startAt 3 = true → s.now < (stageLimit 3).1 →
    let img := s.slotImage s.start.slot
    ((r.window && s.startWindow) = false → ∃ v : State, exec (.startStage3 r) s = .next (v.failedStart 4 8)) ∧
    (∀ e, (r.window && s.startWindow) = true → imageFail img r.digests = some e → exec (.startStage3 r) s =
      .next (((s.enter 4).imageError e).failedStart 4 (if e.1 = 6 then 6 else 4))) ∧
    ((r.window && s.startWindow) = true → imageFail img r.digests = none → r.guest = false →
      ∃ v : State, exec (.startStage3 r) s = .next (v.failedStart 4 0x10)) ∧
    ((r.window && s.startWindow) = true → imageFail img r.digests = none → r.guest = true → r.tier2 = false →
      ∃ v : State, exec (.startStage3 r) s = .next (v.failedStart 4 0x11)) ∧
    ((r.window && s.startWindow) = true → imageFail img r.digests = none → r.guest = true → r.tier2 = true →
      ∃ t, exec (.startStage3 r) s = .next t ∧ t.start.done = true ∧ t.start.stage = 4 ∧ t.start.pending = false ∧
        t.image = some (readImage img) ∧ t.guest.phase = 3 ∧ t.gl.mstate = 2 ∧ t.tiers.mounted = true ∧ t.mem = s.mem)) ∧
  (∀ (s : State) (n : Nat), n ≤ 3 → s.startAt (max 1 n) = true → ∃ t, exec (.stageLimitTimeout n) s = .next t ∧
    t.now = max s.now (stageLimit n).1 ∧ t.start.reason = (stageLimit n).2.2 ∧ t.stopped = true ∧
    t.sealRun = some ⟨3, t.now, some 4⟩) ∧
  (∀ (s : State) (armed : Nat), s.start.pwrGood = true →
    let u := s.expire 2 armed 100000000
    (s.start.done = true ∨ s.start.stage = 5 → exec (.watchdogTimeout armed) s = .next (u.moduleReset 5)) ∧
    (s.start.done = false → s.start.stage ≠ 5 → s.sealRun = none →
      ∃ t, exec (.watchdogTimeout armed) s = .next t ∧ t.start.reason = 0x13 ∧ t.stopped = true ∧
        t.sealRun = some ⟨3, u.now, some 4⟩)) ∧
  (∀ s : State, s.startWindow = true ↔
    (((s.pm.sensor 76).good ≠ [] ∨ (s.pm.sensor 76).failed = true) → 48000 ≤ s.pm.reading 76 ∧ s.pm.reading 76 ≤ 60000) ∧
    (((s.pm.sensor 74).good ≠ [] ∨ (s.pm.sensor 74).failed = true) → 150 ≤ s.pm.reading 74 ∧ s.pm.reading 74 ≤ 450) ∧ s.pm.tMax < 850)

/-- R419, R423, R433, R456, R457, R460, R466, R477, R479, R488 to R492: power, sensors and the seal. Loss of input power, an overvoltage, MOD_EN
low, and loss of the reference stop issue, send LEAVE and seal the crumbs, and on a loss of power the arrays gate; a seal in progress goes
on, and the module then waits for power (R481); after the seal, or 8 ms (R13), the module resets, waits for power or is
held. A die-to-die link fault is a module fault. A sensor sample joins the last 8 of its sensor, after which the controller judges; an input
sample below 45 V for 10 µs is a power loss. -/
def Obligations.PowerEvents : Prop :=
  (∀ (s : State), s.start.pwrGood = true → s.sealRun = none →
    let stop := fun (h : ResetHold) => { s with stopped := true, start := { s.start with hold := h } }.suspendBallast
    let lost := fun (h : ResetHold) => { stop h with linkOut := s.linkOut ++ [LinkOut.leave], sealRun := some ⟨0, s.now, none⟩ }
    exec .powerLoss s = .next (lost .power) ∧ exec .overvoltageDisconnect s = .next (lost .power) ∧
    exec .modEnLow s = .next (lost .modEn) ∧
    (∀ armed, ∃ t, exec (.referenceLoss armed) s = .next t ∧ t.stopped = true ∧ t.linkOut = s.linkOut ++ [LinkOut.leave] ∧
      t.now = max s.now (armed + 1000) ∧ t.sealRun = some ⟨2, t.now, none⟩ ∧ t.start = { s.start with hold := .power }) ∧
    (∀ link wing dir replays, link < 5 → wing < 12 → dir < 2 → ∃ t, exec (.d2dLinkFault link wing dir replays) s = .next t ∧
      t.stopped = true ∧ t.linkOut = s.linkOut ++ [LinkOut.leave] ∧ t.sealRun = some ⟨4, s.now, some 6⟩ ∧
      Sp.get 0#32 t.dd.replay ((link * 16 + wing) * 2 + dir) = satAdd32 (Sp.get 0#32 s.dd.replay ((link * 16 + wing) * 2 + dir)) replays)) ∧
  (∀ (s : State) (r : SealRun), s.start.pwrGood = true → s.sealRun = some r → ∃ t, exec .powerLoss s = .next t ∧
    t.sealRun = some { r with reset := none } ∧ t.start = { s.start with hold := .power } ∧ t.linkOut = s.linkOut ∧ t.stopped = true) ∧
  (∀ (s : State) (r : SealRun), s.sealRun = some r →
    exec .crumbSealTimeout s = .next ((s.expire 23 r.armed 8000000).afterSeal r) ∧
    (r.armed + 8000000 ≤ s.now → exec .crumbSealComplete s = exec .crumbSealTimeout s) ∧
    (s.now < r.armed + 8000000 → ∃ u : State, exec .crumbSealComplete s = .next (u.afterSeal r) ∧ u.nor =
      (s.writeCrumbs r.cause r.armed (s.log.sealed r.armed)).nor ∧ u.start = s.start) ∧
    (r.reset = none → s.now < r.armed + 8000000 → ∃ t, exec .crumbSealComplete s = .next t ∧ t.start.pwrGood = false ∧ t.sealRun = none ∧ t.stopped = false ∧
      t.start.cause = (if r.cause = 2 then 7 else 0) ∧ t.start.hold = (if s.start.hold = .none then .power else s.start.hold) ∧
      t.mem = s.mem.filter (fun p => isTier2 p.1))) ∧
  (∀ (s : State) (straps : Nat), s.start.aux = false →
    exec (.p3v3AuxRise straps) s = .next { s with start := { s.start with aux := true, addr := straps % 8 } }) ∧
  (∀ (s : State), s.start.pwrGood = true →
    (∀ e, ∃ t, exec (.holdUpBoostComplete e) s = .next t ∧
      t.pm = { s.pm with charged := true, energy := min e 65535, degraded := decide (min e 65535 < 600) } ∧ t.start = s.start) ∧
    (exec .onTimeTick s = .next (s.advanceTo (s.start.minute + 60000000000)).addMinute)) ∧
  (∀ (s : State) (i : Nat) (v : Int), s.start.pwrGood = true → s.start.hold = .none → i < 78 → (s.pm.sensor i).failed = false →
    (s.pm.sensor i).plausible i v = true → ∃ u : State,
    exec (.sensorSample [(i, v)]) s = .next (if s.sealRun.isSome then u else u.control) ∧ u.now = (s.now / 1000000 + 1) * 1000000 ∧
    u.pm.sensor i = { s.pm.sensor i with good := (v :: (s.pm.sensor i).good).take 8, bad := 0 } ∧
    (∀ j, j ≠ i → u.pm.sensor j = s.pm.sensor j)) ∧
  (∀ (s : State) (mv : Nat), s.start.pwrGood = true →
    let now := (s.now / 10000 + 1) * 10000
    (48000 ≤ mv → mv ≤ 60000 → ∃ t, exec (.inputSample mv none) s = .next t ∧ t.now = now ∧
      t.pm = { s.pm with vinLow := none, vinHigh := none, vinOut := none, railOut := none, vinBad := false }) ∧
    (∀ a, mv < 45000 → s.pm.vinLow = some a → a + 10000 ≤ now → ∃ u : State,
      exec (.inputSample mv none) s = .next (u.powerLoss .power) ∧ u.now = now ∧ u.start = s.start ∧ u.sealRun = s.sealRun))

/-- R429, R430, R439, R454, R455, R470, R487, R488: management and test access. Without the auxiliary supply no command of the mailbox is answered.
STATUS shows the start registers; NOR_OPEN erases a slot that is not in use, NOR_WRITE programs bytes once, and NOR_CLOSE checks the image
and makes the slot pending; RELEASE and RESET reset the module; TEST_UNLOCK works in Sprout mode only; LOG_READ gives a record and marks it read. The
test access port takes an instruction where it is allowed, and BYPASS otherwise. -/
def Obligations.Management : Prop :=
  (∀ (s : State) (slot off : Nat) (d : List Byte) (c : SlotCheck) (bad : List Nat) (ok : Bool), s.start.aux = false →
    ∀ i ∈ ([.status, .norOpen slot, .norWrite off d, .norClose c bad, .release, .reset, .testUnlock d ok, .logRead slot] : List Instr),
      exec i s = .next { s with resp := .nack }) ∧
  (∀ (s : State), s.start.aux = true →
    (exec .status s = .next { s with
      log := { s.log with alertLost := false }
      resp := .bytes (leBytes 4 s.syStart ++ leBytes 4 s.sySprout ++ leBytes 4 s.syImage ++ leBytes 1 s.ledger.length ++
        leBytes 1 (b2n s.log.alertLost) ++ zeros 2) }) ∧
    (∀ slot, slot < 2 → s.committed ≠ some slot → s.pendingSlot ≠ some slot → exec (.norOpen slot) s = .next { s with
      nor := Sp.eraseRange (slotBase slot) (slotBase slot + 0x2000000) s.nor
      start := { s.start with openSlot := some slot, programmed := [] }
      resp := .bytes [] }) ∧
    (∀ k off data, s.start.openSlot = some k → data ≠ [] → data.length ≤ 248 → off + data.length ≤ 0x2000000 →
      (∀ i, i < data.length → Sp.get false s.start.programmed (off + i) = false) →
      ∃ t, exec (.norWrite off data) s = .next t ∧ t.nor = norPut s.nor (slotBase k + off) data ∧ t.resp = .bytes [] ∧
        (∀ i, i < data.length → Sp.get false t.start.programmed (off + i) = true) ∧ t.mem = s.mem) ∧
    (∀ k off data i, s.start.openSlot = some k → i < data.length → Sp.get false s.start.programmed (off + i) = true →
      exec (.norWrite off data) s = .next { s with resp := .nack }) ∧
    (∀ (k : Nat) (c : SlotCheck) (bad : List Nat), s.start.openSlot = some k →
      let img := s.slotImage k
      let u := { s with start := { s.start with openSlot := none, programmed := [] } }
      (∀ e, headerCheck img c.sig c.cert s.start.secMin = some e →
        exec (.norClose c bad) s = .next ((u.imageError (e, 0, 0)).reply [])) ∧
      (∀ e, headerCheck img c.sig c.cert s.start.secMin = none → imageFail img bad = some e →
        exec (.norClose c bad) s = .next ((u.imageError e).reply [])) ∧
      (headerCheck img c.sig c.cert s.start.secMin = none → imageFail img bad = none →
        exec (.norClose c bad) s = .next (if s.start.done then ((u.writeBoot (s.committed.getD (1 - k)) k).reply []).planLeave
          else (u.writeBoot (s.committed.getD (1 - k)) k).reply []))) ∧
    (s.start.pwrGood = true → s.sealRun = none →
      exec .release s = .next (((s.writeLedger []).reply []).moduleReset 2) ∧ exec .reset s = .next ((s.reply []).moduleReset 1)) ∧
    (∀ rec, rec.length = 128 → s.start.stage = 5 → exec (.testUnlock rec true) s =
      .next { s with start := { s.start with unlocked := true }, resp := .bytes [] }) ∧
    (∀ rec ok, s.start.stage ≠ 5 ∨ rec.length ≠ 128 ∨ ok = false → exec (.testUnlock rec ok) s = .next { s with resp := .nack }) ∧
    (∀ slot, s.log.at_ slot ≠ LogRec.none → exec (.logRead slot) s = .next { s with
      log := { s.log with read := Sp.set false s.log.read slot true }, resp := .bytes (s.log.at_ slot).bytes })) ∧
  (∀ (s : State),
    let tap := fun (code : Nat) (drive : Bool) => { s.tap with ir := code, driving := drive }
    (exec .idcode s = .next { s with tap := tap 1 false, resp := .reg 32 0xB2D700EF }) ∧
    (∀ pins, exec (.samplePreload pins) s = .next { s with tap := { s.tap with ir := 2, driving := false, boundary := pins } }) ∧
    (exec .extest s = .next { s with tap := if s.start.unlocked then tap 3 true else tap 0xFF false }) ∧
    (exec .dieWrapperSelect s = .next { s with tap := if s.start.unlocked then tap 4 false else tap 0xFF false }) ∧
    (∀ i, exec (.instrumentAccess i) s =
      .next { s with tap := if s.start.unlocked = true ∨ i = 0 ∨ i = 4 then tap 5 false else tap 0xFF false }) ∧
    (exec .bypass s = .next { s with tap := tap 0xFF false }) ∧
    (exec .testReset s = .next { s with tap := TapSt.reset }))

/-- R459, R462 to R464, R467, R470 to R472: watching, takeover and the full-module test. A record of a watched node is held and acknowledged, and
a bad one asked for again, while a record of a job whose digest differs ends the watching of its module (R465); an acknowledged record leaves the session and what waited for it goes on; a watcher that does not answer for
50 ms is lost. Takeover timeouts are logged, and an active module leaves 10 s after its image was closed. A spare that watches nothing drains for a
full-module test, which a second event ends. -/
def Obligations.WatchSessions : Prop :=
  (∀ (s : State) (node : Nat) (bytes : List Byte) (told : Nat × W64), s.gl.watches.contains node = true →
    (watchRec bytes = none → exec (.watchSessionRecord node ⟨bytes, told⟩) s =
      .next { s with linkOut := s.linkOut ++ [.watchAck node false 0 0] }) ∧
    (∀ r, watchRec bytes = some r → r.ofJob = true → s.jobDigest r.job ≠ some told.1 → ∃ t,
      exec (.watchSessionRecord node ⟨bytes, told⟩) s = .next t ∧ t.mirror node = [] ∧ t.linkOut = s.linkOut ∧ t.mem = s.mem ∧
      t.gl = { s.gl with watches := s.gl.watches.filter (· != node) }) ∧
    (∀ r, watchRec bytes = some r → (r.ofJob = true → s.jobDigest r.job = some told.1) → r.kind ≠ 3 → ∃ t,
      exec (.watchSessionRecord node ⟨bytes, told⟩) s = .next t ∧ (r.ofJob = true → Sp.get 0#64 t.watch.seeds r.job = told.2) ∧
      t.mirror node = holdRec (s.mirror node) r ∧ (∀ m, m ≠ node → t.mirror m = s.mirror m) ∧
      t.linkOut = s.linkOut ++ [.watchAck node true 0 0] ∧ t.mem = s.mem) ∧
    (∀ r, watchRec bytes = some r → s.jobDigest r.job = some told.1 → r.kind = 3 → ∃ t,
      exec (.watchSessionRecord node ⟨bytes, told⟩) s = .next t ∧ t.mem = s.mem ∧
      t.linkOut = s.linkOut ++ [.watchAck node true (segDigest (s.mirror node) r.job r.step).1 (segDigest (s.mirror node) r.job r.step).2])) ∧
  (∀ (s : State) (r : WRec) (rest : List WRec), s.watchOut = r :: rest → r.kind ≠ 2 → r.kind ≠ 3 →
    exec .watchRecordAck s = .next (({ s with watchOut := rest }.recordAcked r).collPump) ∧
    (r.kind = 0x24 → ∃ u : State, exec .watchRecordAck s = .next u.collPump ∧ u.watchOut = rest ∧ u.mem = s.mem ∧
      ((u.tenant r.job).queue (leVal (r.hdr.take 1))).acked = BitVec.ofNat 32 (leVal ((r.hdr.drop 4).take 4)) + 1)) ∧
  (∀ (s : State) (w : Nat), s.gl.watcher = some w → s.watchOut ≠ [] → ∃ t, exec .watchAckTimeout s = .next t ∧
    t.watched = false ∧ t.gl.watcher = none ∧ t.watchOut = s.watchOut.filter (fun r => decide (r.kind ≤ 6)) ∧ t.mem = s.mem) ∧
  (∀ (s : State) (x a : Nat), s.watch.takeover = some (x, a) → exec .takeoverTimeout s = .next (s.expire 22 a 5000000000)) ∧
  (∀ (s : State) (a : Nat), s.watch.planned = some a → s.gl.mstate = 4 →
    exec .plannedTakeoverTimeout s = .next (s.expire 24 a 10000000000).leaveReset) ∧
  (∀ (s : State), s.watch.testing = false → s.gl.mstate = 3 → s.gl.watches = [] → ∃ t, exec .fullModuleTest s = .next t ∧
    t.watch = { s.watch with testing := true } ∧ t.mem = s.mem ∧
    ∀ n, n < 64 → (t.core n).drainReq = true ∧ ((s.core n).run = .idle → (t.core n).run = .drained)) ∧
  (∀ (s : State) (ok : Bool), s.watch.testing = true → ∃ t, exec (.fullModuleTestComplete ok) s = .next t ∧
    t.watch = { s.watch with testing := false, mustTest := false, failed := !ok } ∧ t.mem = s.mem ∧
    ∀ n, n < 64 → (s.core n).run = .drained → (t.core n).run = .idle ∧ (t.core n).drainReq = false)

/-- The step of a block: the command at the front of the queue runs on the state with the rest of the queue. -/
def Obligations.StepTakesFront : Prop :=
  ∀ (s : State) (c : Instr) (rest : List Instr), s.pending = c :: rest → step s = exec c { s with pending := rest }

/-- Every command runs: none stops in a fault or a refusal, whatever the state, and none touches the queue of waiting commands. -/
def Obligations.CommandsComplete : Prop :=
  ∀ (c : Instr) (s : State), ∃ t, exec c s = .next t ∧ t.pending = s.pending

/-- R17, and the register tables of R4, R96, R142, R193, R226, R254, R277, R303, R323, R363, R364, R386, R414 and R415: the values that
registers show after reset, each register with a value other than 0 among them. -/
def Obligations.ResetValues : Prop :=
  (∀ e ∈ ([(0x0000, 0x2D70B010), (0x0100, 0x22), (0x0020, 0), (0x20000, 3), (0x20008, 0), (0x30000, 0), (0x40000, 0), (0x120004, 0),
      (0x120008, 0), (0x12001C, 0x37), (0x200000, 0), (0x800000, 0), (0x800010, 2), (0x800014, 0x01000020), (0x800018, 0x80004020)] :
      List (Nat × Nat)), State.reset.reg32 e.1 = some e.2) ∧
  State.reset.reg64 0x0108 = some 0 ∧
  (∀ p, p < 18 → State.reset.reg32 (0x100000 + p * 0x1000) = some 0 ∧ State.reset.reg32 (0x100008 + p * 0x1000) = some 0x76543210) ∧
  (∀ k, k < 4096 → State.reset.reg32 (0x400000 + 64 * k) = some 0 ∧ State.reset.reg32 (0x400014 + 64 * k) = some 1) ∧
  (∀ d, d < 4 →
    let b := 0x1000000 + d * 0x1000000
    State.reset.reg32 b = some 0 ∧ State.reset.reg32 (b + 0x10000) = some 0 ∧ State.reset.reg32 (b + 0x20004) = some 0x2020 ∧
    State.reset.reg32 (b + 0x20008) = some 0x20 ∧ State.reset.reg32 (b + 0x30004) = some 0) ∧
  (∀ n, n < 64 →
    let b := 0x1800000 + n / 16 * 0x1000000 + n % 16 * 0x10000
    State.reset.reg32 b = some 0 ∧ State.reset.reg32 (b + 0x04) = some 0 ∧ State.reset.reg32 (b + 0x4000) = some 0xF000 ∧
    State.reset.reg32 (b + 0x4010) = some 0x828A0A28 ∧ State.reset.reg32 (b + 0x8000) = some 0 ∧ State.reset.reg32 (b + 0xC000) = some 0)

/-- R473, R475: how every event is logged. The first of a source and code in a window of 1 µs becomes a record: it gets the next
sequence number and its ring slot, and every other record stays. Each further one is counted in that record, up to 1,023, and nothing
else of the log changes. -/
def Obligations.LogRecords : Prop :=
  ∀ (s : State) (cls inst code sev : Nat) (tenant : Option Nat) (args : List (Nat × Nat)),
    let same := fun (x : LogRec) => x.cls = cls ∧ x.inst = inst ∧ x.code = code ∧ x.crumb = false ∧ x.time / 1000 = s.now / 1000
    let t := s.logAs cls inst code sev tenant args
    ((∀ p ∈ s.log.ring, ¬same p.2) →
      t.log.next = (s.log.next + 1) % 2 ^ 32 ∧
      Sp.get LogRec.none t.log.ring (s.log.next % 2048) =
        { time := s.now, seq := s.log.next, cls := cls, inst := inst, code := code, sev := sev, unaligned := !s.aligned, tenant := tenant,
          crumb := false, rep := 0, args := logArgs args } ∧
      (∀ k, k ≠ s.log.next % 2048 → Sp.get LogRec.none t.log.ring k = Sp.get LogRec.none s.log.ring k) ∧
      t = { s with log := t.log }) ∧
    (∀ p ∈ s.log.ring, same p.2 → (∀ q ∈ s.log.ring, same q.2 → q = p) →
      Sp.get LogRec.none t.log.ring p.1 = { p.2 with rep := min 1023 (p.2.rep + 1) } ∧
      (∀ k, k ≠ p.1 → Sp.get LogRec.none t.log.ring k = Sp.get LogRec.none s.log.ring k) ∧
      t = { s with log := { s.log with ring := t.log.ring } })

/-- The machine after reset keeps the canonical form of its memories and holds no code that the register tables reserve. -/
def Obligations.ResetInvariant : Prop := State.reset.MemoryOk ∧ State.reset.CodesOk

/-- Every step, from every state, keeps the canonical form of device memory, of its poison marks and of the NOR flash: addresses strictly
rising, and nothing listed that an unlisted address reads as. -/
def Obligations.MemoryStaysCanonical : Prop :=
  ∀ (s t : State), s.MemoryOk → step s = .next t → t.MemoryOk

/-- R21, R96, R277, R364, R415, R416, R442, R455, R460: no step, from a state free of them, brings a reserved code into a field of the
registers: beat and maintenance period, heat epoch, link version, session and mailbox codes, throttle level, start stage. -/
def Obligations.CodesStayLegal : Prop :=
  ∀ (s t : State), s.CodesOk → step s = .next t → t.CodesOk
end

