-- ==== Sys2Proof/Laws/Sparse.lean ====
section
/-!
SUPPORT. Laws of sparse tables: read after write, writes to one key, and that every operation keeps the canonical form.
-/

namespace Sys2Proof

variable {α : Type}

/-! ### Reading -/

theorem Sp.get_erase_same (d : α) (t : Sp α) (k : Nat) : Sp.get d (Sp.erase k t) k = d := by
  induction t with
  | nil => rfl
  | cons p t ih =>
    obtain ⟨j, v⟩ := p
    by_cases h : j = k <;> simp [Sp.erase, Sp.get, h, ih]

theorem Sp.get_erase_other (d : α) (t : Sp α) {j k : Nat} (h : j ≠ k) : Sp.get d (Sp.erase k t) j = Sp.get d t j := by
  induction t with
  | nil => rfl
  | cons p t ih =>
    obtain ⟨i, v⟩ := p
    by_cases hi : i = k
    · have : i ≠ j := fun e => h (e.symm.trans hi)
      simp [Sp.erase, Sp.get, hi, ih, hi ▸ this]
    · rw [Sp.erase, if_neg hi, Sp.get, Sp.get, ih]

theorem Sp.erase_eq_of_notMem (k : Nat) (t : Sp α) (h : ∀ p ∈ t, p.1 ≠ k) : Sp.erase k t = t := by
  induction t with
  | nil => rfl
  | cons p t ih =>
    obtain ⟨j, v⟩ := p
    have hj : j ≠ k := h (j, v) (by simp)
    simp [Sp.erase, hj, ih (fun q hq => h q (by simp [hq]))]

theorem Sp.erase_notMem (k : Nat) (t : Sp α) : ∀ p ∈ Sp.erase k t, p.1 ≠ k := by
  induction t with
  | nil => simp [Sp.erase]
  | cons p t ih =>
    obtain ⟨j, v⟩ := p
    by_cases h : j = k
    · simpa [Sp.erase, h] using ih
    · intro q hq
      simp only [Sp.erase, h, if_false, List.mem_cons] at hq
      rcases hq with rfl | hq
      · exact h
      · exact ih q hq

theorem Sp.erase_erase (k : Nat) (t : Sp α) : Sp.erase k (Sp.erase k t) = Sp.erase k t :=
  Sp.erase_eq_of_notMem k _ (Sp.erase_notMem k t)

theorem Sp.get_insert_same (d : α) (t : Sp α) (k : Nat) (v : α) (h : ∀ p ∈ t, p.1 ≠ k) : Sp.get d (Sp.insert k v t) k = v := by
  induction t with
  | nil => simp [Sp.insert, Sp.get]
  | cons p t ih =>
    obtain ⟨j, w⟩ := p
    have hj : j ≠ k := h (j, w) (by simp)
    by_cases hk : k < j
    · simp [Sp.insert, Sp.get, hk]
    · simp [Sp.insert, Sp.get, hk, hj, ih (fun q hq => h q (by simp [hq]))]

theorem Sp.get_insert_other (d : α) (t : Sp α) {j k : Nat} (v : α) (h : j ≠ k) : Sp.get d (Sp.insert k v t) j = Sp.get d t j := by
  induction t with
  | nil => simp [Sp.insert, Sp.get, h.symm]
  | cons p t ih =>
    obtain ⟨i, w⟩ := p
    by_cases hk : k < i
    · simp [Sp.insert, Sp.get, hk, h.symm]
    · rw [Sp.insert, if_neg hk, Sp.get, Sp.get, ih]

theorem Sp.erase_insert (k : Nat) (v : α) (t : Sp α) : Sp.erase k (Sp.insert k v t) = Sp.erase k t := by
  induction t with
  | nil => simp [Sp.insert, Sp.erase]
  | cons p t ih =>
    obtain ⟨j, w⟩ := p
    by_cases hk : k < j
    · simp [Sp.insert, Sp.erase, hk]
    · by_cases hj : j = k <;> simp [Sp.insert, Sp.erase, hk, hj, ih]

variable [DecidableEq α]

/-- Read after write, same key. -/
@[simp] theorem Sp.get_set_same (d : α) (t : Sp α) (k : Nat) (v : α) : Sp.get d (Sp.set d t k v) k = v := by
  unfold Sp.set
  split
  · next h => rw [h, Sp.get_erase_same]
  · exact Sp.get_insert_same d _ k v (Sp.erase_notMem k t)

/-- A write leaves every other key alone. -/
theorem Sp.get_set_other (d : α) (t : Sp α) {j k : Nat} (v : α) (h : j ≠ k) : Sp.get d (Sp.set d t k v) j = Sp.get d t j := by
  unfold Sp.set
  split
  · exact Sp.get_erase_other d t h
  · rw [Sp.get_insert_other d _ v h, Sp.get_erase_other d t h]

theorem Sp.get_set (d : α) (t : Sp α) (j k : Nat) (v : α) : Sp.get d (Sp.set d t k v) j = if j = k then v else Sp.get d t j := by
  by_cases h : j = k
  · simp [h]
  · simp [h, Sp.get_set_other]

/-- The later of two writes to one key stands. -/
@[simp] theorem Sp.set_set (d : α) (t : Sp α) (k : Nat) (v w : α) : Sp.set d (Sp.set d t k v) k w = Sp.set d t k w := by
  have h : Sp.erase k (Sp.set d t k v) = Sp.erase k t := by
    unfold Sp.set
    split
    · exact Sp.erase_erase k t
    · rw [Sp.erase_insert, Sp.erase_erase]
  simp only [Sp.set] at h ⊢
  rw [h]

/-! ### The canonical form -/

/-- A table whose keys lie above a bound keeps that when the bound falls. -/
theorem Sp.wfFrom_of_head (d : α) (lo : Option Nat) (t : Sp α) (h : Sp.wfFrom d lo t = true)
    (lo' : Option Nat) (hl : ∀ l', lo' = some l' → ∀ l, lo = some l → l' ≤ l) (hn : lo = none → lo' = none) :
    Sp.wfFrom d lo' t = true := by
  cases t with
  | nil => rfl
  | cons p t =>
    obtain ⟨k, v⟩ := p
    cases lo with
    | none => rw [hn rfl]; exact h
    | some l =>
      cases lo' with
      | none => simp_all [Sp.wfFrom]
      | some l' =>
        have := hl l' rfl l rfl
        simp only [Sp.wfFrom, Bool.and_eq_true, decide_eq_true_eq] at h ⊢
        exact ⟨⟨by omega, h.1.2⟩, h.2⟩

theorem Sp.wfFrom_erase (d : α) (k : Nat) (t : Sp α) : ∀ lo, Sp.wfFrom d lo t = true → Sp.wfFrom d lo (Sp.erase k t) = true := by
  induction t with
  | nil => intros; rfl
  | cons p t ih =>
    obtain ⟨j, v⟩ := p
    intro lo h
    simp only [Sp.wfFrom, Bool.and_eq_true] at h
    by_cases hj : j = k
    · rw [Sp.erase, if_pos hj]
      apply ih
      refine Sp.wfFrom_of_head d (some j) t h.2 lo ?_ (by simp)
      rintro l' rfl l hl
      cases hl
      have := h.1.1
      simp at this
      omega
    · rw [Sp.erase, if_neg hj]
      simp only [Sp.wfFrom, Bool.and_eq_true]
      exact ⟨h.1, ih _ h.2⟩

theorem Sp.wfFrom_insert (d : α) (k : Nat) (v : α) (hv : v ≠ d) (t : Sp α) : ∀ lo, Sp.wfFrom d lo t = true →
    (∀ l, lo = some l → l < k) → (∀ p ∈ t, p.1 ≠ k) → Sp.wfFrom d lo (Sp.insert k v t) = true := by
  induction t with
  | nil =>
    intro lo _ hl _
    cases lo with
    | none => simp [Sp.insert, Sp.wfFrom, hv]
    | some l => simp [Sp.insert, Sp.wfFrom, hv, hl l rfl]
  | cons p t ih =>
    obtain ⟨j, w⟩ := p
    intro lo h hl hn
    simp only [Sp.wfFrom, Bool.and_eq_true, decide_eq_true_eq] at h
    have hj : j ≠ k := hn (j, w) (by simp)
    by_cases hk : k < j
    · rw [Sp.insert, if_pos hk]
      simp only [Sp.wfFrom, Bool.and_eq_true, decide_eq_true_eq]
      refine ⟨⟨?_, hv⟩, ⟨hk, h.1.2⟩, h.2⟩
      cases lo with
      | none => rfl
      | some l => simpa using hl l rfl
    · rw [Sp.insert, if_neg hk]
      simp only [Sp.wfFrom, Bool.and_eq_true, decide_eq_true_eq]
      refine ⟨h.1, ih _ h.2 ?_ (fun q hq => hn q (by simp [hq]))⟩
      intro l hl'
      cases hl'
      omega

/-- A write keeps the canonical form. -/
theorem Sp.wf_set (d : α) (t : Sp α) (k : Nat) (v : α) (h : Sp.wf d t = true) : Sp.wf d (Sp.set d t k v) = true := by
  unfold Sp.set
  split
  · exact Sp.wfFrom_erase d k t none h
  · next hv => exact Sp.wfFrom_insert d k v hv _ none (Sp.wfFrom_erase d k t none h) (by simp) (Sp.erase_notMem k t)

theorem Sp.wf_upd (d : α) (t : Sp α) (k : Nat) (f : α → α) (h : Sp.wf d t = true) : Sp.wf d (Sp.upd d t k f) = true :=
  Sp.wf_set d t k _ h

theorem Sp.wfFrom_eraseRange (d : α) (a b : Nat) (t : Sp α) :
    ∀ lo, Sp.wfFrom d lo t = true → Sp.wfFrom d lo (Sp.eraseRange a b t) = true := by
  induction t with
  | nil => intros; rfl
  | cons p t ih =>
    obtain ⟨j, v⟩ := p
    intro lo h
    simp only [Sp.wfFrom, Bool.and_eq_true] at h
    by_cases hj : a ≤ j ∧ j < b
    · rw [Sp.eraseRange, if_pos hj]
      apply ih
      refine Sp.wfFrom_of_head d (some j) t h.2 lo ?_ (by simp)
      rintro l' rfl l hl
      cases hl
      have := h.1.1
      simp at this
      omega
    · rw [Sp.eraseRange, if_neg hj]
      simp only [Sp.wfFrom, Bool.and_eq_true]
      exact ⟨h.1, ih _ h.2⟩

/-- Clearing a range keeps the canonical form. -/
theorem Sp.wf_eraseRange (d : α) (a b : Nat) (t : Sp α) (h : Sp.wf d t = true) : Sp.wf d (Sp.eraseRange a b t) = true :=
  Sp.wfFrom_eraseRange d a b t none h

end Sys2Proof
end

