-- ==== Sys2Proof/Laws/State.lean ====
section
/-!
SUPPORT. One lemma per field per update of the state: what a named update leaves alone; and what it changes.
-/

namespace Sys2Proof.Machine

variable (s : State)

/-! ### setCore -/

@[simp] theorem State.setCore_pending (n : Nat) (c : CoreSt) : (s.setCore n c).pending = s.pending := rfl
@[simp] theorem State.setCore_free (n : Nat) (c : CoreSt) : (s.setCore n c).free = s.free := rfl
@[simp] theorem State.setCore_resp (n : Nat) (c : CoreSt) : (s.setCore n c).resp = s.resp := rfl
@[simp] theorem State.setCore_hostOut (n : Nat) (c : CoreSt) : (s.setCore n c).hostOut = s.hostOut := rfl
@[simp] theorem State.setCore_linkOut (n : Nat) (c : CoreSt) : (s.setCore n c).linkOut = s.linkOut := rfl
@[simp] theorem State.setCore_now (n : Nat) (c : CoreSt) : (s.setCore n c).now = s.now := rfl
@[simp] theorem State.setCore_aligned (n : Nat) (c : CoreSt) : (s.setCore n c).aligned = s.aligned := rfl
@[simp] theorem State.setCore_stopped (n : Nat) (c : CoreSt) : (s.setCore n c).stopped = s.stopped := rfl
@[simp] theorem State.setCore_sealRun (n : Nat) (c : CoreSt) : (s.setCore n c).sealRun = s.sealRun := rfl
@[simp] theorem State.setCore_beats (n : Nat) (c : CoreSt) : (s.setCore n c).beats = s.beats := rfl
@[simp] theorem State.setCore_mem (n : Nat) (c : CoreSt) : (s.setCore n c).mem = s.mem := rfl
@[simp] theorem State.setCore_poison (n : Nat) (c : CoreSt) : (s.setCore n c).poison = s.poison := rfl
@[simp] theorem State.setCore_log (n : Nat) (c : CoreSt) : (s.setCore n c).log = s.log := rfl
@[simp] theorem State.setCore_image (n : Nat) (c : CoreSt) : (s.setCore n c).image = s.image := rfl
@[simp] theorem State.setCore_tenants (n : Nat) (c : CoreSt) : (s.setCore n c).tenants = s.tenants := rfl
@[simp] theorem State.setCore_pages (n : Nat) (c : CoreSt) : (s.setCore n c).pages = s.pages := rfl
@[simp] theorem State.setCore_hl (n : Nat) (c : CoreSt) : (s.setCore n c).hl = s.hl := rfl
@[simp] theorem State.setCore_watched (n : Nat) (c : CoreSt) : (s.setCore n c).watched = s.watched := rfl
@[simp] theorem State.setCore_watchOut (n : Nat) (c : CoreSt) : (s.setCore n c).watchOut = s.watchOut := rfl
@[simp] theorem State.setCore_jobs (n : Nat) (c : CoreSt) : (s.setCore n c).jobs = s.jobs := rfl
@[simp] theorem State.setCore_mc (n : Nat) (c : CoreSt) : (s.setCore n c).mc = s.mc := rfl
@[simp] theorem State.setCore_frames (n : Nat) (c : CoreSt) : (s.setCore n c).frames = s.frames := rfl
@[simp] theorem State.setCore_t2 (n : Nat) (c : CoreSt) : (s.setCore n c).t2 = s.t2 := rfl
@[simp] theorem State.setCore_tiers (n : Nat) (c : CoreSt) : (s.setCore n c).tiers = s.tiers := rfl
@[simp] theorem State.setCore_nor (n : Nat) (c : CoreSt) : (s.setCore n c).nor = s.nor := rfl
@[simp] theorem State.setCore_retired (n : Nat) (c : CoreSt) : (s.setCore n c).retired = s.retired := rfl
@[simp] theorem State.setCore_pm (n : Nat) (c : CoreSt) : (s.setCore n c).pm = s.pm := rfl
@[simp] theorem State.setCore_guest (n : Nat) (c : CoreSt) : (s.setCore n c).guest = s.guest := rfl
@[simp] theorem State.setCore_tub (n : Nat) (c : CoreSt) : (s.setCore n c).tub = s.tub := rfl
@[simp] theorem State.setCore_lists (n : Nat) (c : CoreSt) : (s.setCore n c).lists = s.lists := rfl
@[simp] theorem State.setCore_nextList (n : Nat) (c : CoreSt) : (s.setCore n c).nextList = s.nextList := rfl
@[simp] theorem State.setCore_up (n : Nat) (c : CoreSt) : (s.setCore n c).up = s.up := rfl
@[simp] theorem State.setCore_cz (n : Nat) (c : CoreSt) : (s.setCore n c).cz = s.cz := rfl
@[simp] theorem State.setCore_coll (n : Nat) (c : CoreSt) : (s.setCore n c).coll = s.coll := rfl
@[simp] theorem State.setCore_ports (n : Nat) (c : CoreSt) : (s.setCore n c).ports = s.ports := rfl
@[simp] theorem State.setCore_gl (n : Nat) (c : CoreSt) : (s.setCore n c).gl = s.gl := rfl
@[simp] theorem State.setCore_start (n : Nat) (c : CoreSt) : (s.setCore n c).start = s.start := rfl
@[simp] theorem State.setCore_dd (n : Nat) (c : CoreSt) : (s.setCore n c).dd = s.dd := rfl
@[simp] theorem State.setCore_tap (n : Nat) (c : CoreSt) : (s.setCore n c).tap = s.tap := rfl
@[simp] theorem State.setCore_watch (n : Nat) (c : CoreSt) : (s.setCore n c).watch = s.watch := rfl
@[simp] theorem State.setCore_split (n : Nat) (c : CoreSt) : (s.setCore n c).split = s.split := rfl

/-! ### updCore -/

@[simp] theorem State.updCore_pending (n : Nat) (f : CoreSt → CoreSt) : (s.updCore n f).pending = s.pending := rfl
@[simp] theorem State.updCore_free (n : Nat) (f : CoreSt → CoreSt) : (s.updCore n f).free = s.free := rfl
@[simp] theorem State.updCore_resp (n : Nat) (f : CoreSt → CoreSt) : (s.updCore n f).resp = s.resp := rfl
@[simp] theorem State.updCore_hostOut (n : Nat) (f : CoreSt → CoreSt) : (s.updCore n f).hostOut = s.hostOut := rfl
@[simp] theorem State.updCore_linkOut (n : Nat) (f : CoreSt → CoreSt) : (s.updCore n f).linkOut = s.linkOut := rfl
@[simp] theorem State.updCore_now (n : Nat) (f : CoreSt → CoreSt) : (s.updCore n f).now = s.now := rfl
@[simp] theorem State.updCore_aligned (n : Nat) (f : CoreSt → CoreSt) : (s.updCore n f).aligned = s.aligned := rfl
@[simp] theorem State.updCore_stopped (n : Nat) (f : CoreSt → CoreSt) : (s.updCore n f).stopped = s.stopped := rfl
@[simp] theorem State.updCore_sealRun (n : Nat) (f : CoreSt → CoreSt) : (s.updCore n f).sealRun = s.sealRun := rfl
@[simp] theorem State.updCore_beats (n : Nat) (f : CoreSt → CoreSt) : (s.updCore n f).beats = s.beats := rfl
@[simp] theorem State.updCore_mem (n : Nat) (f : CoreSt → CoreSt) : (s.updCore n f).mem = s.mem := rfl
@[simp] theorem State.updCore_poison (n : Nat) (f : CoreSt → CoreSt) : (s.updCore n f).poison = s.poison := rfl
@[simp] theorem State.updCore_log (n : Nat) (f : CoreSt → CoreSt) : (s.updCore n f).log = s.log := rfl
@[simp] theorem State.updCore_image (n : Nat) (f : CoreSt → CoreSt) : (s.updCore n f).image = s.image := rfl
@[simp] theorem State.updCore_tenants (n : Nat) (f : CoreSt → CoreSt) : (s.updCore n f).tenants = s.tenants := rfl
@[simp] theorem State.updCore_pages (n : Nat) (f : CoreSt → CoreSt) : (s.updCore n f).pages = s.pages := rfl
@[simp] theorem State.updCore_hl (n : Nat) (f : CoreSt → CoreSt) : (s.updCore n f).hl = s.hl := rfl
@[simp] theorem State.updCore_watched (n : Nat) (f : CoreSt → CoreSt) : (s.updCore n f).watched = s.watched := rfl
@[simp] theorem State.updCore_watchOut (n : Nat) (f : CoreSt → CoreSt) : (s.updCore n f).watchOut = s.watchOut := rfl
@[simp] theorem State.updCore_jobs (n : Nat) (f : CoreSt → CoreSt) : (s.updCore n f).jobs = s.jobs := rfl
@[simp] theorem State.updCore_mc (n : Nat) (f : CoreSt → CoreSt) : (s.updCore n f).mc = s.mc := rfl
@[simp] theorem State.updCore_frames (n : Nat) (f : CoreSt → CoreSt) : (s.updCore n f).frames = s.frames := rfl
@[simp] theorem State.updCore_t2 (n : Nat) (f : CoreSt → CoreSt) : (s.updCore n f).t2 = s.t2 := rfl
@[simp] theorem State.updCore_tiers (n : Nat) (f : CoreSt → CoreSt) : (s.updCore n f).tiers = s.tiers := rfl
@[simp] theorem State.updCore_nor (n : Nat) (f : CoreSt → CoreSt) : (s.updCore n f).nor = s.nor := rfl
@[simp] theorem State.updCore_retired (n : Nat) (f : CoreSt → CoreSt) : (s.updCore n f).retired = s.retired := rfl
@[simp] theorem State.updCore_pm (n : Nat) (f : CoreSt → CoreSt) : (s.updCore n f).pm = s.pm := rfl
@[simp] theorem State.updCore_guest (n : Nat) (f : CoreSt → CoreSt) : (s.updCore n f).guest = s.guest := rfl
@[simp] theorem State.updCore_tub (n : Nat) (f : CoreSt → CoreSt) : (s.updCore n f).tub = s.tub := rfl
@[simp] theorem State.updCore_lists (n : Nat) (f : CoreSt → CoreSt) : (s.updCore n f).lists = s.lists := rfl
@[simp] theorem State.updCore_nextList (n : Nat) (f : CoreSt → CoreSt) : (s.updCore n f).nextList = s.nextList := rfl
@[simp] theorem State.updCore_up (n : Nat) (f : CoreSt → CoreSt) : (s.updCore n f).up = s.up := rfl
@[simp] theorem State.updCore_cz (n : Nat) (f : CoreSt → CoreSt) : (s.updCore n f).cz = s.cz := rfl
@[simp] theorem State.updCore_coll (n : Nat) (f : CoreSt → CoreSt) : (s.updCore n f).coll = s.coll := rfl
@[simp] theorem State.updCore_ports (n : Nat) (f : CoreSt → CoreSt) : (s.updCore n f).ports = s.ports := rfl
@[simp] theorem State.updCore_gl (n : Nat) (f : CoreSt → CoreSt) : (s.updCore n f).gl = s.gl := rfl
@[simp] theorem State.updCore_start (n : Nat) (f : CoreSt → CoreSt) : (s.updCore n f).start = s.start := rfl
@[simp] theorem State.updCore_dd (n : Nat) (f : CoreSt → CoreSt) : (s.updCore n f).dd = s.dd := rfl
@[simp] theorem State.updCore_tap (n : Nat) (f : CoreSt → CoreSt) : (s.updCore n f).tap = s.tap := rfl
@[simp] theorem State.updCore_watch (n : Nat) (f : CoreSt → CoreSt) : (s.updCore n f).watch = s.watch := rfl
@[simp] theorem State.updCore_split (n : Nat) (f : CoreSt → CoreSt) : (s.updCore n f).split = s.split := rfl

/-! ### setCtx -/

@[simp] theorem State.setCtx_pending (n k : Nat) (x : Ctx) : (s.setCtx n k x).pending = s.pending := rfl
@[simp] theorem State.setCtx_free (n k : Nat) (x : Ctx) : (s.setCtx n k x).free = s.free := rfl
@[simp] theorem State.setCtx_resp (n k : Nat) (x : Ctx) : (s.setCtx n k x).resp = s.resp := rfl
@[simp] theorem State.setCtx_hostOut (n k : Nat) (x : Ctx) : (s.setCtx n k x).hostOut = s.hostOut := rfl
@[simp] theorem State.setCtx_linkOut (n k : Nat) (x : Ctx) : (s.setCtx n k x).linkOut = s.linkOut := rfl
@[simp] theorem State.setCtx_now (n k : Nat) (x : Ctx) : (s.setCtx n k x).now = s.now := rfl
@[simp] theorem State.setCtx_aligned (n k : Nat) (x : Ctx) : (s.setCtx n k x).aligned = s.aligned := rfl
@[simp] theorem State.setCtx_stopped (n k : Nat) (x : Ctx) : (s.setCtx n k x).stopped = s.stopped := rfl
@[simp] theorem State.setCtx_sealRun (n k : Nat) (x : Ctx) : (s.setCtx n k x).sealRun = s.sealRun := rfl
@[simp] theorem State.setCtx_beats (n k : Nat) (x : Ctx) : (s.setCtx n k x).beats = s.beats := rfl
@[simp] theorem State.setCtx_mem (n k : Nat) (x : Ctx) : (s.setCtx n k x).mem = s.mem := rfl
@[simp] theorem State.setCtx_poison (n k : Nat) (x : Ctx) : (s.setCtx n k x).poison = s.poison := rfl
@[simp] theorem State.setCtx_log (n k : Nat) (x : Ctx) : (s.setCtx n k x).log = s.log := rfl
@[simp] theorem State.setCtx_image (n k : Nat) (x : Ctx) : (s.setCtx n k x).image = s.image := rfl
@[simp] theorem State.setCtx_tenants (n k : Nat) (x : Ctx) : (s.setCtx n k x).tenants = s.tenants := rfl
@[simp] theorem State.setCtx_pages (n k : Nat) (x : Ctx) : (s.setCtx n k x).pages = s.pages := rfl
@[simp] theorem State.setCtx_hl (n k : Nat) (x : Ctx) : (s.setCtx n k x).hl = s.hl := rfl
@[simp] theorem State.setCtx_watched (n k : Nat) (x : Ctx) : (s.setCtx n k x).watched = s.watched := rfl
@[simp] theorem State.setCtx_watchOut (n k : Nat) (x : Ctx) : (s.setCtx n k x).watchOut = s.watchOut := rfl
@[simp] theorem State.setCtx_jobs (n k : Nat) (x : Ctx) : (s.setCtx n k x).jobs = s.jobs := rfl
@[simp] theorem State.setCtx_mc (n k : Nat) (x : Ctx) : (s.setCtx n k x).mc = s.mc := rfl
@[simp] theorem State.setCtx_frames (n k : Nat) (x : Ctx) : (s.setCtx n k x).frames = s.frames := rfl
@[simp] theorem State.setCtx_t2 (n k : Nat) (x : Ctx) : (s.setCtx n k x).t2 = s.t2 := rfl
@[simp] theorem State.setCtx_tiers (n k : Nat) (x : Ctx) : (s.setCtx n k x).tiers = s.tiers := rfl
@[simp] theorem State.setCtx_nor (n k : Nat) (x : Ctx) : (s.setCtx n k x).nor = s.nor := rfl
@[simp] theorem State.setCtx_retired (n k : Nat) (x : Ctx) : (s.setCtx n k x).retired = s.retired := rfl
@[simp] theorem State.setCtx_pm (n k : Nat) (x : Ctx) : (s.setCtx n k x).pm = s.pm := rfl
@[simp] theorem State.setCtx_guest (n k : Nat) (x : Ctx) : (s.setCtx n k x).guest = s.guest := rfl
@[simp] theorem State.setCtx_tub (n k : Nat) (x : Ctx) : (s.setCtx n k x).tub = s.tub := rfl
@[simp] theorem State.setCtx_lists (n k : Nat) (x : Ctx) : (s.setCtx n k x).lists = s.lists := rfl
@[simp] theorem State.setCtx_nextList (n k : Nat) (x : Ctx) : (s.setCtx n k x).nextList = s.nextList := rfl
@[simp] theorem State.setCtx_up (n k : Nat) (x : Ctx) : (s.setCtx n k x).up = s.up := rfl
@[simp] theorem State.setCtx_cz (n k : Nat) (x : Ctx) : (s.setCtx n k x).cz = s.cz := rfl
@[simp] theorem State.setCtx_coll (n k : Nat) (x : Ctx) : (s.setCtx n k x).coll = s.coll := rfl
@[simp] theorem State.setCtx_ports (n k : Nat) (x : Ctx) : (s.setCtx n k x).ports = s.ports := rfl
@[simp] theorem State.setCtx_gl (n k : Nat) (x : Ctx) : (s.setCtx n k x).gl = s.gl := rfl
@[simp] theorem State.setCtx_start (n k : Nat) (x : Ctx) : (s.setCtx n k x).start = s.start := rfl
@[simp] theorem State.setCtx_dd (n k : Nat) (x : Ctx) : (s.setCtx n k x).dd = s.dd := rfl
@[simp] theorem State.setCtx_tap (n k : Nat) (x : Ctx) : (s.setCtx n k x).tap = s.tap := rfl
@[simp] theorem State.setCtx_watch (n k : Nat) (x : Ctx) : (s.setCtx n k x).watch = s.watch := rfl
@[simp] theorem State.setCtx_split (n k : Nat) (x : Ctx) : (s.setCtx n k x).split = s.split := rfl

/-! ### updCtx -/

@[simp] theorem State.updCtx_pending (n k : Nat) (f : Ctx → Ctx) : (s.updCtx n k f).pending = s.pending := rfl
@[simp] theorem State.updCtx_free (n k : Nat) (f : Ctx → Ctx) : (s.updCtx n k f).free = s.free := rfl
@[simp] theorem State.updCtx_resp (n k : Nat) (f : Ctx → Ctx) : (s.updCtx n k f).resp = s.resp := rfl
@[simp] theorem State.updCtx_hostOut (n k : Nat) (f : Ctx → Ctx) : (s.updCtx n k f).hostOut = s.hostOut := rfl
@[simp] theorem State.updCtx_linkOut (n k : Nat) (f : Ctx → Ctx) : (s.updCtx n k f).linkOut = s.linkOut := rfl
@[simp] theorem State.updCtx_now (n k : Nat) (f : Ctx → Ctx) : (s.updCtx n k f).now = s.now := rfl
@[simp] theorem State.updCtx_aligned (n k : Nat) (f : Ctx → Ctx) : (s.updCtx n k f).aligned = s.aligned := rfl
@[simp] theorem State.updCtx_stopped (n k : Nat) (f : Ctx → Ctx) : (s.updCtx n k f).stopped = s.stopped := rfl
@[simp] theorem State.updCtx_sealRun (n k : Nat) (f : Ctx → Ctx) : (s.updCtx n k f).sealRun = s.sealRun := rfl
@[simp] theorem State.updCtx_beats (n k : Nat) (f : Ctx → Ctx) : (s.updCtx n k f).beats = s.beats := rfl
@[simp] theorem State.updCtx_mem (n k : Nat) (f : Ctx → Ctx) : (s.updCtx n k f).mem = s.mem := rfl
@[simp] theorem State.updCtx_poison (n k : Nat) (f : Ctx → Ctx) : (s.updCtx n k f).poison = s.poison := rfl
@[simp] theorem State.updCtx_log (n k : Nat) (f : Ctx → Ctx) : (s.updCtx n k f).log = s.log := rfl
@[simp] theorem State.updCtx_image (n k : Nat) (f : Ctx → Ctx) : (s.updCtx n k f).image = s.image := rfl
@[simp] theorem State.updCtx_tenants (n k : Nat) (f : Ctx → Ctx) : (s.updCtx n k f).tenants = s.tenants := rfl
@[simp] theorem State.updCtx_pages (n k : Nat) (f : Ctx → Ctx) : (s.updCtx n k f).pages = s.pages := rfl
@[simp] theorem State.updCtx_hl (n k : Nat) (f : Ctx → Ctx) : (s.updCtx n k f).hl = s.hl := rfl
@[simp] theorem State.updCtx_watched (n k : Nat) (f : Ctx → Ctx) : (s.updCtx n k f).watched = s.watched := rfl
@[simp] theorem State.updCtx_watchOut (n k : Nat) (f : Ctx → Ctx) : (s.updCtx n k f).watchOut = s.watchOut := rfl
@[simp] theorem State.updCtx_jobs (n k : Nat) (f : Ctx → Ctx) : (s.updCtx n k f).jobs = s.jobs := rfl
@[simp] theorem State.updCtx_mc (n k : Nat) (f : Ctx → Ctx) : (s.updCtx n k f).mc = s.mc := rfl
@[simp] theorem State.updCtx_frames (n k : Nat) (f : Ctx → Ctx) : (s.updCtx n k f).frames = s.frames := rfl
@[simp] theorem State.updCtx_t2 (n k : Nat) (f : Ctx → Ctx) : (s.updCtx n k f).t2 = s.t2 := rfl
@[simp] theorem State.updCtx_tiers (n k : Nat) (f : Ctx → Ctx) : (s.updCtx n k f).tiers = s.tiers := rfl
@[simp] theorem State.updCtx_nor (n k : Nat) (f : Ctx → Ctx) : (s.updCtx n k f).nor = s.nor := rfl
@[simp] theorem State.updCtx_retired (n k : Nat) (f : Ctx → Ctx) : (s.updCtx n k f).retired = s.retired := rfl
@[simp] theorem State.updCtx_pm (n k : Nat) (f : Ctx → Ctx) : (s.updCtx n k f).pm = s.pm := rfl
@[simp] theorem State.updCtx_guest (n k : Nat) (f : Ctx → Ctx) : (s.updCtx n k f).guest = s.guest := rfl
@[simp] theorem State.updCtx_tub (n k : Nat) (f : Ctx → Ctx) : (s.updCtx n k f).tub = s.tub := rfl
@[simp] theorem State.updCtx_lists (n k : Nat) (f : Ctx → Ctx) : (s.updCtx n k f).lists = s.lists := rfl
@[simp] theorem State.updCtx_nextList (n k : Nat) (f : Ctx → Ctx) : (s.updCtx n k f).nextList = s.nextList := rfl
@[simp] theorem State.updCtx_up (n k : Nat) (f : Ctx → Ctx) : (s.updCtx n k f).up = s.up := rfl
@[simp] theorem State.updCtx_cz (n k : Nat) (f : Ctx → Ctx) : (s.updCtx n k f).cz = s.cz := rfl
@[simp] theorem State.updCtx_coll (n k : Nat) (f : Ctx → Ctx) : (s.updCtx n k f).coll = s.coll := rfl
@[simp] theorem State.updCtx_ports (n k : Nat) (f : Ctx → Ctx) : (s.updCtx n k f).ports = s.ports := rfl
@[simp] theorem State.updCtx_gl (n k : Nat) (f : Ctx → Ctx) : (s.updCtx n k f).gl = s.gl := rfl
@[simp] theorem State.updCtx_start (n k : Nat) (f : Ctx → Ctx) : (s.updCtx n k f).start = s.start := rfl
@[simp] theorem State.updCtx_dd (n k : Nat) (f : Ctx → Ctx) : (s.updCtx n k f).dd = s.dd := rfl
@[simp] theorem State.updCtx_tap (n k : Nat) (f : Ctx → Ctx) : (s.updCtx n k f).tap = s.tap := rfl
@[simp] theorem State.updCtx_watch (n k : Nat) (f : Ctx → Ctx) : (s.updCtx n k f).watch = s.watch := rfl
@[simp] theorem State.updCtx_split (n k : Nat) (f : Ctx → Ctx) : (s.updCtx n k f).split = s.split := rfl

/-! ### setSram -/

@[simp] theorem State.setSram_pending (n off : Nat) (bs : List Byte) : (s.setSram n off bs).pending = s.pending := rfl
@[simp] theorem State.setSram_free (n off : Nat) (bs : List Byte) : (s.setSram n off bs).free = s.free := rfl
@[simp] theorem State.setSram_resp (n off : Nat) (bs : List Byte) : (s.setSram n off bs).resp = s.resp := rfl
@[simp] theorem State.setSram_hostOut (n off : Nat) (bs : List Byte) : (s.setSram n off bs).hostOut = s.hostOut := rfl
@[simp] theorem State.setSram_linkOut (n off : Nat) (bs : List Byte) : (s.setSram n off bs).linkOut = s.linkOut := rfl
@[simp] theorem State.setSram_now (n off : Nat) (bs : List Byte) : (s.setSram n off bs).now = s.now := rfl
@[simp] theorem State.setSram_aligned (n off : Nat) (bs : List Byte) : (s.setSram n off bs).aligned = s.aligned := rfl
@[simp] theorem State.setSram_stopped (n off : Nat) (bs : List Byte) : (s.setSram n off bs).stopped = s.stopped := rfl
@[simp] theorem State.setSram_sealRun (n off : Nat) (bs : List Byte) : (s.setSram n off bs).sealRun = s.sealRun := rfl
@[simp] theorem State.setSram_beats (n off : Nat) (bs : List Byte) : (s.setSram n off bs).beats = s.beats := rfl
@[simp] theorem State.setSram_cores (n off : Nat) (bs : List Byte) : (s.setSram n off bs).cores = s.cores := rfl
@[simp] theorem State.setSram_poison (n off : Nat) (bs : List Byte) : (s.setSram n off bs).poison = s.poison := rfl
@[simp] theorem State.setSram_log (n off : Nat) (bs : List Byte) : (s.setSram n off bs).log = s.log := rfl
@[simp] theorem State.setSram_image (n off : Nat) (bs : List Byte) : (s.setSram n off bs).image = s.image := rfl
@[simp] theorem State.setSram_tenants (n off : Nat) (bs : List Byte) : (s.setSram n off bs).tenants = s.tenants := rfl
@[simp] theorem State.setSram_pages (n off : Nat) (bs : List Byte) : (s.setSram n off bs).pages = s.pages := rfl
@[simp] theorem State.setSram_hl (n off : Nat) (bs : List Byte) : (s.setSram n off bs).hl = s.hl := rfl
@[simp] theorem State.setSram_watched (n off : Nat) (bs : List Byte) : (s.setSram n off bs).watched = s.watched := rfl
@[simp] theorem State.setSram_watchOut (n off : Nat) (bs : List Byte) : (s.setSram n off bs).watchOut = s.watchOut := rfl
@[simp] theorem State.setSram_jobs (n off : Nat) (bs : List Byte) : (s.setSram n off bs).jobs = s.jobs := rfl
@[simp] theorem State.setSram_mc (n off : Nat) (bs : List Byte) : (s.setSram n off bs).mc = s.mc := rfl
@[simp] theorem State.setSram_frames (n off : Nat) (bs : List Byte) : (s.setSram n off bs).frames = s.frames := rfl
@[simp] theorem State.setSram_t2 (n off : Nat) (bs : List Byte) : (s.setSram n off bs).t2 = s.t2 := rfl
@[simp] theorem State.setSram_tiers (n off : Nat) (bs : List Byte) : (s.setSram n off bs).tiers = s.tiers := rfl
@[simp] theorem State.setSram_nor (n off : Nat) (bs : List Byte) : (s.setSram n off bs).nor = s.nor := rfl
@[simp] theorem State.setSram_retired (n off : Nat) (bs : List Byte) : (s.setSram n off bs).retired = s.retired := rfl
@[simp] theorem State.setSram_pm (n off : Nat) (bs : List Byte) : (s.setSram n off bs).pm = s.pm := rfl
@[simp] theorem State.setSram_guest (n off : Nat) (bs : List Byte) : (s.setSram n off bs).guest = s.guest := rfl
@[simp] theorem State.setSram_tub (n off : Nat) (bs : List Byte) : (s.setSram n off bs).tub = s.tub := rfl
@[simp] theorem State.setSram_lists (n off : Nat) (bs : List Byte) : (s.setSram n off bs).lists = s.lists := rfl
@[simp] theorem State.setSram_nextList (n off : Nat) (bs : List Byte) : (s.setSram n off bs).nextList = s.nextList := rfl
@[simp] theorem State.setSram_up (n off : Nat) (bs : List Byte) : (s.setSram n off bs).up = s.up := rfl
@[simp] theorem State.setSram_cz (n off : Nat) (bs : List Byte) : (s.setSram n off bs).cz = s.cz := rfl
@[simp] theorem State.setSram_coll (n off : Nat) (bs : List Byte) : (s.setSram n off bs).coll = s.coll := rfl
@[simp] theorem State.setSram_ports (n off : Nat) (bs : List Byte) : (s.setSram n off bs).ports = s.ports := rfl
@[simp] theorem State.setSram_gl (n off : Nat) (bs : List Byte) : (s.setSram n off bs).gl = s.gl := rfl
@[simp] theorem State.setSram_start (n off : Nat) (bs : List Byte) : (s.setSram n off bs).start = s.start := rfl
@[simp] theorem State.setSram_dd (n off : Nat) (bs : List Byte) : (s.setSram n off bs).dd = s.dd := rfl
@[simp] theorem State.setSram_tap (n off : Nat) (bs : List Byte) : (s.setSram n off bs).tap = s.tap := rfl
@[simp] theorem State.setSram_watch (n off : Nat) (bs : List Byte) : (s.setSram n off bs).watch = s.watch := rfl
@[simp] theorem State.setSram_split (n off : Nat) (bs : List Byte) : (s.setSram n off bs).split = s.split := rfl

/-! ### setTenant -/

@[simp] theorem State.setTenant_pending (t : Nat) (x : Tenant) : (s.setTenant t x).pending = s.pending := rfl
@[simp] theorem State.setTenant_free (t : Nat) (x : Tenant) : (s.setTenant t x).free = s.free := rfl
@[simp] theorem State.setTenant_resp (t : Nat) (x : Tenant) : (s.setTenant t x).resp = s.resp := rfl
@[simp] theorem State.setTenant_hostOut (t : Nat) (x : Tenant) : (s.setTenant t x).hostOut = s.hostOut := rfl
@[simp] theorem State.setTenant_linkOut (t : Nat) (x : Tenant) : (s.setTenant t x).linkOut = s.linkOut := rfl
@[simp] theorem State.setTenant_now (t : Nat) (x : Tenant) : (s.setTenant t x).now = s.now := rfl
@[simp] theorem State.setTenant_aligned (t : Nat) (x : Tenant) : (s.setTenant t x).aligned = s.aligned := rfl
@[simp] theorem State.setTenant_stopped (t : Nat) (x : Tenant) : (s.setTenant t x).stopped = s.stopped := rfl
@[simp] theorem State.setTenant_sealRun (t : Nat) (x : Tenant) : (s.setTenant t x).sealRun = s.sealRun := rfl
@[simp] theorem State.setTenant_beats (t : Nat) (x : Tenant) : (s.setTenant t x).beats = s.beats := rfl
@[simp] theorem State.setTenant_cores (t : Nat) (x : Tenant) : (s.setTenant t x).cores = s.cores := rfl
@[simp] theorem State.setTenant_mem (t : Nat) (x : Tenant) : (s.setTenant t x).mem = s.mem := rfl
@[simp] theorem State.setTenant_poison (t : Nat) (x : Tenant) : (s.setTenant t x).poison = s.poison := rfl
@[simp] theorem State.setTenant_log (t : Nat) (x : Tenant) : (s.setTenant t x).log = s.log := rfl
@[simp] theorem State.setTenant_image (t : Nat) (x : Tenant) : (s.setTenant t x).image = s.image := rfl
@[simp] theorem State.setTenant_pages (t : Nat) (x : Tenant) : (s.setTenant t x).pages = s.pages := rfl
@[simp] theorem State.setTenant_hl (t : Nat) (x : Tenant) : (s.setTenant t x).hl = s.hl := rfl
@[simp] theorem State.setTenant_watched (t : Nat) (x : Tenant) : (s.setTenant t x).watched = s.watched := rfl
@[simp] theorem State.setTenant_watchOut (t : Nat) (x : Tenant) : (s.setTenant t x).watchOut = s.watchOut := rfl
@[simp] theorem State.setTenant_jobs (t : Nat) (x : Tenant) : (s.setTenant t x).jobs = s.jobs := rfl
@[simp] theorem State.setTenant_mc (t : Nat) (x : Tenant) : (s.setTenant t x).mc = s.mc := rfl
@[simp] theorem State.setTenant_frames (t : Nat) (x : Tenant) : (s.setTenant t x).frames = s.frames := rfl
@[simp] theorem State.setTenant_t2 (t : Nat) (x : Tenant) : (s.setTenant t x).t2 = s.t2 := rfl
@[simp] theorem State.setTenant_tiers (t : Nat) (x : Tenant) : (s.setTenant t x).tiers = s.tiers := rfl
@[simp] theorem State.setTenant_nor (t : Nat) (x : Tenant) : (s.setTenant t x).nor = s.nor := rfl
@[simp] theorem State.setTenant_retired (t : Nat) (x : Tenant) : (s.setTenant t x).retired = s.retired := rfl
@[simp] theorem State.setTenant_pm (t : Nat) (x : Tenant) : (s.setTenant t x).pm = s.pm := rfl
@[simp] theorem State.setTenant_guest (t : Nat) (x : Tenant) : (s.setTenant t x).guest = s.guest := rfl
@[simp] theorem State.setTenant_tub (t : Nat) (x : Tenant) : (s.setTenant t x).tub = s.tub := rfl
@[simp] theorem State.setTenant_lists (t : Nat) (x : Tenant) : (s.setTenant t x).lists = s.lists := rfl
@[simp] theorem State.setTenant_nextList (t : Nat) (x : Tenant) : (s.setTenant t x).nextList = s.nextList := rfl
@[simp] theorem State.setTenant_up (t : Nat) (x : Tenant) : (s.setTenant t x).up = s.up := rfl
@[simp] theorem State.setTenant_cz (t : Nat) (x : Tenant) : (s.setTenant t x).cz = s.cz := rfl
@[simp] theorem State.setTenant_coll (t : Nat) (x : Tenant) : (s.setTenant t x).coll = s.coll := rfl
@[simp] theorem State.setTenant_ports (t : Nat) (x : Tenant) : (s.setTenant t x).ports = s.ports := rfl
@[simp] theorem State.setTenant_gl (t : Nat) (x : Tenant) : (s.setTenant t x).gl = s.gl := rfl
@[simp] theorem State.setTenant_start (t : Nat) (x : Tenant) : (s.setTenant t x).start = s.start := rfl
@[simp] theorem State.setTenant_dd (t : Nat) (x : Tenant) : (s.setTenant t x).dd = s.dd := rfl
@[simp] theorem State.setTenant_tap (t : Nat) (x : Tenant) : (s.setTenant t x).tap = s.tap := rfl
@[simp] theorem State.setTenant_watch (t : Nat) (x : Tenant) : (s.setTenant t x).watch = s.watch := rfl
@[simp] theorem State.setTenant_split (t : Nat) (x : Tenant) : (s.setTenant t x).split = s.split := rfl

/-! ### updTenant -/

@[simp] theorem State.updTenant_pending (t : Nat) (f : Tenant → Tenant) : (s.updTenant t f).pending = s.pending := rfl
@[simp] theorem State.updTenant_free (t : Nat) (f : Tenant → Tenant) : (s.updTenant t f).free = s.free := rfl
@[simp] theorem State.updTenant_resp (t : Nat) (f : Tenant → Tenant) : (s.updTenant t f).resp = s.resp := rfl
@[simp] theorem State.updTenant_hostOut (t : Nat) (f : Tenant → Tenant) : (s.updTenant t f).hostOut = s.hostOut := rfl
@[simp] theorem State.updTenant_linkOut (t : Nat) (f : Tenant → Tenant) : (s.updTenant t f).linkOut = s.linkOut := rfl
@[simp] theorem State.updTenant_now (t : Nat) (f : Tenant → Tenant) : (s.updTenant t f).now = s.now := rfl
@[simp] theorem State.updTenant_aligned (t : Nat) (f : Tenant → Tenant) : (s.updTenant t f).aligned = s.aligned := rfl
@[simp] theorem State.updTenant_stopped (t : Nat) (f : Tenant → Tenant) : (s.updTenant t f).stopped = s.stopped := rfl
@[simp] theorem State.updTenant_sealRun (t : Nat) (f : Tenant → Tenant) : (s.updTenant t f).sealRun = s.sealRun := rfl
@[simp] theorem State.updTenant_beats (t : Nat) (f : Tenant → Tenant) : (s.updTenant t f).beats = s.beats := rfl
@[simp] theorem State.updTenant_cores (t : Nat) (f : Tenant → Tenant) : (s.updTenant t f).cores = s.cores := rfl
@[simp] theorem State.updTenant_mem (t : Nat) (f : Tenant → Tenant) : (s.updTenant t f).mem = s.mem := rfl
@[simp] theorem State.updTenant_poison (t : Nat) (f : Tenant → Tenant) : (s.updTenant t f).poison = s.poison := rfl
@[simp] theorem State.updTenant_log (t : Nat) (f : Tenant → Tenant) : (s.updTenant t f).log = s.log := rfl
@[simp] theorem State.updTenant_image (t : Nat) (f : Tenant → Tenant) : (s.updTenant t f).image = s.image := rfl
@[simp] theorem State.updTenant_pages (t : Nat) (f : Tenant → Tenant) : (s.updTenant t f).pages = s.pages := rfl
@[simp] theorem State.updTenant_hl (t : Nat) (f : Tenant → Tenant) : (s.updTenant t f).hl = s.hl := rfl
@[simp] theorem State.updTenant_watched (t : Nat) (f : Tenant → Tenant) : (s.updTenant t f).watched = s.watched := rfl
@[simp] theorem State.updTenant_watchOut (t : Nat) (f : Tenant → Tenant) : (s.updTenant t f).watchOut = s.watchOut := rfl
@[simp] theorem State.updTenant_jobs (t : Nat) (f : Tenant → Tenant) : (s.updTenant t f).jobs = s.jobs := rfl
@[simp] theorem State.updTenant_mc (t : Nat) (f : Tenant → Tenant) : (s.updTenant t f).mc = s.mc := rfl
@[simp] theorem State.updTenant_frames (t : Nat) (f : Tenant → Tenant) : (s.updTenant t f).frames = s.frames := rfl
@[simp] theorem State.updTenant_t2 (t : Nat) (f : Tenant → Tenant) : (s.updTenant t f).t2 = s.t2 := rfl
@[simp] theorem State.updTenant_tiers (t : Nat) (f : Tenant → Tenant) : (s.updTenant t f).tiers = s.tiers := rfl
@[simp] theorem State.updTenant_nor (t : Nat) (f : Tenant → Tenant) : (s.updTenant t f).nor = s.nor := rfl
@[simp] theorem State.updTenant_retired (t : Nat) (f : Tenant → Tenant) : (s.updTenant t f).retired = s.retired := rfl
@[simp] theorem State.updTenant_pm (t : Nat) (f : Tenant → Tenant) : (s.updTenant t f).pm = s.pm := rfl
@[simp] theorem State.updTenant_guest (t : Nat) (f : Tenant → Tenant) : (s.updTenant t f).guest = s.guest := rfl
@[simp] theorem State.updTenant_tub (t : Nat) (f : Tenant → Tenant) : (s.updTenant t f).tub = s.tub := rfl
@[simp] theorem State.updTenant_lists (t : Nat) (f : Tenant → Tenant) : (s.updTenant t f).lists = s.lists := rfl
@[simp] theorem State.updTenant_nextList (t : Nat) (f : Tenant → Tenant) : (s.updTenant t f).nextList = s.nextList := rfl
@[simp] theorem State.updTenant_up (t : Nat) (f : Tenant → Tenant) : (s.updTenant t f).up = s.up := rfl
@[simp] theorem State.updTenant_cz (t : Nat) (f : Tenant → Tenant) : (s.updTenant t f).cz = s.cz := rfl
@[simp] theorem State.updTenant_coll (t : Nat) (f : Tenant → Tenant) : (s.updTenant t f).coll = s.coll := rfl
@[simp] theorem State.updTenant_ports (t : Nat) (f : Tenant → Tenant) : (s.updTenant t f).ports = s.ports := rfl
@[simp] theorem State.updTenant_gl (t : Nat) (f : Tenant → Tenant) : (s.updTenant t f).gl = s.gl := rfl
@[simp] theorem State.updTenant_start (t : Nat) (f : Tenant → Tenant) : (s.updTenant t f).start = s.start := rfl
@[simp] theorem State.updTenant_dd (t : Nat) (f : Tenant → Tenant) : (s.updTenant t f).dd = s.dd := rfl
@[simp] theorem State.updTenant_tap (t : Nat) (f : Tenant → Tenant) : (s.updTenant t f).tap = s.tap := rfl
@[simp] theorem State.updTenant_watch (t : Nat) (f : Tenant → Tenant) : (s.updTenant t f).watch = s.watch := rfl
@[simp] theorem State.updTenant_split (t : Nat) (f : Tenant → Tenant) : (s.updTenant t f).split = s.split := rfl

/-! ### setPoison -/

@[simp] theorem State.setPoison_pending (a : Nat) (p : Bool) : (s.setPoison a p).pending = s.pending := rfl
@[simp] theorem State.setPoison_free (a : Nat) (p : Bool) : (s.setPoison a p).free = s.free := rfl
@[simp] theorem State.setPoison_resp (a : Nat) (p : Bool) : (s.setPoison a p).resp = s.resp := rfl
@[simp] theorem State.setPoison_hostOut (a : Nat) (p : Bool) : (s.setPoison a p).hostOut = s.hostOut := rfl
@[simp] theorem State.setPoison_linkOut (a : Nat) (p : Bool) : (s.setPoison a p).linkOut = s.linkOut := rfl
@[simp] theorem State.setPoison_now (a : Nat) (p : Bool) : (s.setPoison a p).now = s.now := rfl
@[simp] theorem State.setPoison_aligned (a : Nat) (p : Bool) : (s.setPoison a p).aligned = s.aligned := rfl
@[simp] theorem State.setPoison_stopped (a : Nat) (p : Bool) : (s.setPoison a p).stopped = s.stopped := rfl
@[simp] theorem State.setPoison_sealRun (a : Nat) (p : Bool) : (s.setPoison a p).sealRun = s.sealRun := rfl
@[simp] theorem State.setPoison_beats (a : Nat) (p : Bool) : (s.setPoison a p).beats = s.beats := rfl
@[simp] theorem State.setPoison_cores (a : Nat) (p : Bool) : (s.setPoison a p).cores = s.cores := rfl
@[simp] theorem State.setPoison_mem (a : Nat) (p : Bool) : (s.setPoison a p).mem = s.mem := rfl
@[simp] theorem State.setPoison_log (a : Nat) (p : Bool) : (s.setPoison a p).log = s.log := rfl
@[simp] theorem State.setPoison_image (a : Nat) (p : Bool) : (s.setPoison a p).image = s.image := rfl
@[simp] theorem State.setPoison_tenants (a : Nat) (p : Bool) : (s.setPoison a p).tenants = s.tenants := rfl
@[simp] theorem State.setPoison_pages (a : Nat) (p : Bool) : (s.setPoison a p).pages = s.pages := rfl
@[simp] theorem State.setPoison_hl (a : Nat) (p : Bool) : (s.setPoison a p).hl = s.hl := rfl
@[simp] theorem State.setPoison_watched (a : Nat) (p : Bool) : (s.setPoison a p).watched = s.watched := rfl
@[simp] theorem State.setPoison_watchOut (a : Nat) (p : Bool) : (s.setPoison a p).watchOut = s.watchOut := rfl
@[simp] theorem State.setPoison_jobs (a : Nat) (p : Bool) : (s.setPoison a p).jobs = s.jobs := rfl
@[simp] theorem State.setPoison_mc (a : Nat) (p : Bool) : (s.setPoison a p).mc = s.mc := rfl
@[simp] theorem State.setPoison_frames (a : Nat) (p : Bool) : (s.setPoison a p).frames = s.frames := rfl
@[simp] theorem State.setPoison_t2 (a : Nat) (p : Bool) : (s.setPoison a p).t2 = s.t2 := rfl
@[simp] theorem State.setPoison_tiers (a : Nat) (p : Bool) : (s.setPoison a p).tiers = s.tiers := rfl
@[simp] theorem State.setPoison_nor (a : Nat) (p : Bool) : (s.setPoison a p).nor = s.nor := rfl
@[simp] theorem State.setPoison_retired (a : Nat) (p : Bool) : (s.setPoison a p).retired = s.retired := rfl
@[simp] theorem State.setPoison_pm (a : Nat) (p : Bool) : (s.setPoison a p).pm = s.pm := rfl
@[simp] theorem State.setPoison_guest (a : Nat) (p : Bool) : (s.setPoison a p).guest = s.guest := rfl
@[simp] theorem State.setPoison_tub (a : Nat) (p : Bool) : (s.setPoison a p).tub = s.tub := rfl
@[simp] theorem State.setPoison_lists (a : Nat) (p : Bool) : (s.setPoison a p).lists = s.lists := rfl
@[simp] theorem State.setPoison_nextList (a : Nat) (p : Bool) : (s.setPoison a p).nextList = s.nextList := rfl
@[simp] theorem State.setPoison_up (a : Nat) (p : Bool) : (s.setPoison a p).up = s.up := rfl
@[simp] theorem State.setPoison_cz (a : Nat) (p : Bool) : (s.setPoison a p).cz = s.cz := rfl
@[simp] theorem State.setPoison_coll (a : Nat) (p : Bool) : (s.setPoison a p).coll = s.coll := rfl
@[simp] theorem State.setPoison_ports (a : Nat) (p : Bool) : (s.setPoison a p).ports = s.ports := rfl
@[simp] theorem State.setPoison_gl (a : Nat) (p : Bool) : (s.setPoison a p).gl = s.gl := rfl
@[simp] theorem State.setPoison_start (a : Nat) (p : Bool) : (s.setPoison a p).start = s.start := rfl
@[simp] theorem State.setPoison_dd (a : Nat) (p : Bool) : (s.setPoison a p).dd = s.dd := rfl
@[simp] theorem State.setPoison_tap (a : Nat) (p : Bool) : (s.setPoison a p).tap = s.tap := rfl
@[simp] theorem State.setPoison_watch (a : Nat) (p : Bool) : (s.setPoison a p).watch = s.watch := rfl
@[simp] theorem State.setPoison_split (a : Nat) (p : Bool) : (s.setPoison a p).split = s.split := rfl

/-! ### setMc -/

@[simp] theorem State.setMc_pending (d : Nat) (m : McSt) : (s.setMc d m).pending = s.pending := rfl
@[simp] theorem State.setMc_free (d : Nat) (m : McSt) : (s.setMc d m).free = s.free := rfl
@[simp] theorem State.setMc_resp (d : Nat) (m : McSt) : (s.setMc d m).resp = s.resp := rfl
@[simp] theorem State.setMc_hostOut (d : Nat) (m : McSt) : (s.setMc d m).hostOut = s.hostOut := rfl
@[simp] theorem State.setMc_linkOut (d : Nat) (m : McSt) : (s.setMc d m).linkOut = s.linkOut := rfl
@[simp] theorem State.setMc_now (d : Nat) (m : McSt) : (s.setMc d m).now = s.now := rfl
@[simp] theorem State.setMc_aligned (d : Nat) (m : McSt) : (s.setMc d m).aligned = s.aligned := rfl
@[simp] theorem State.setMc_stopped (d : Nat) (m : McSt) : (s.setMc d m).stopped = s.stopped := rfl
@[simp] theorem State.setMc_sealRun (d : Nat) (m : McSt) : (s.setMc d m).sealRun = s.sealRun := rfl
@[simp] theorem State.setMc_beats (d : Nat) (m : McSt) : (s.setMc d m).beats = s.beats := rfl
@[simp] theorem State.setMc_cores (d : Nat) (m : McSt) : (s.setMc d m).cores = s.cores := rfl
@[simp] theorem State.setMc_mem (d : Nat) (m : McSt) : (s.setMc d m).mem = s.mem := rfl
@[simp] theorem State.setMc_poison (d : Nat) (m : McSt) : (s.setMc d m).poison = s.poison := rfl
@[simp] theorem State.setMc_log (d : Nat) (m : McSt) : (s.setMc d m).log = s.log := rfl
@[simp] theorem State.setMc_image (d : Nat) (m : McSt) : (s.setMc d m).image = s.image := rfl
@[simp] theorem State.setMc_tenants (d : Nat) (m : McSt) : (s.setMc d m).tenants = s.tenants := rfl
@[simp] theorem State.setMc_pages (d : Nat) (m : McSt) : (s.setMc d m).pages = s.pages := rfl
@[simp] theorem State.setMc_hl (d : Nat) (m : McSt) : (s.setMc d m).hl = s.hl := rfl
@[simp] theorem State.setMc_watched (d : Nat) (m : McSt) : (s.setMc d m).watched = s.watched := rfl
@[simp] theorem State.setMc_watchOut (d : Nat) (m : McSt) : (s.setMc d m).watchOut = s.watchOut := rfl
@[simp] theorem State.setMc_jobs (d : Nat) (m : McSt) : (s.setMc d m).jobs = s.jobs := rfl
@[simp] theorem State.setMc_frames (d : Nat) (m : McSt) : (s.setMc d m).frames = s.frames := rfl
@[simp] theorem State.setMc_t2 (d : Nat) (m : McSt) : (s.setMc d m).t2 = s.t2 := rfl
@[simp] theorem State.setMc_tiers (d : Nat) (m : McSt) : (s.setMc d m).tiers = s.tiers := rfl
@[simp] theorem State.setMc_nor (d : Nat) (m : McSt) : (s.setMc d m).nor = s.nor := rfl
@[simp] theorem State.setMc_retired (d : Nat) (m : McSt) : (s.setMc d m).retired = s.retired := rfl
@[simp] theorem State.setMc_pm (d : Nat) (m : McSt) : (s.setMc d m).pm = s.pm := rfl
@[simp] theorem State.setMc_guest (d : Nat) (m : McSt) : (s.setMc d m).guest = s.guest := rfl
@[simp] theorem State.setMc_tub (d : Nat) (m : McSt) : (s.setMc d m).tub = s.tub := rfl
@[simp] theorem State.setMc_lists (d : Nat) (m : McSt) : (s.setMc d m).lists = s.lists := rfl
@[simp] theorem State.setMc_nextList (d : Nat) (m : McSt) : (s.setMc d m).nextList = s.nextList := rfl
@[simp] theorem State.setMc_up (d : Nat) (m : McSt) : (s.setMc d m).up = s.up := rfl
@[simp] theorem State.setMc_cz (d : Nat) (m : McSt) : (s.setMc d m).cz = s.cz := rfl
@[simp] theorem State.setMc_coll (d : Nat) (m : McSt) : (s.setMc d m).coll = s.coll := rfl
@[simp] theorem State.setMc_ports (d : Nat) (m : McSt) : (s.setMc d m).ports = s.ports := rfl
@[simp] theorem State.setMc_gl (d : Nat) (m : McSt) : (s.setMc d m).gl = s.gl := rfl
@[simp] theorem State.setMc_start (d : Nat) (m : McSt) : (s.setMc d m).start = s.start := rfl
@[simp] theorem State.setMc_dd (d : Nat) (m : McSt) : (s.setMc d m).dd = s.dd := rfl
@[simp] theorem State.setMc_tap (d : Nat) (m : McSt) : (s.setMc d m).tap = s.tap := rfl
@[simp] theorem State.setMc_watch (d : Nat) (m : McSt) : (s.setMc d m).watch = s.watch := rfl
@[simp] theorem State.setMc_split (d : Nat) (m : McSt) : (s.setMc d m).split = s.split := rfl

/-! ### updMc -/

@[simp] theorem State.updMc_pending (d : Nat) (f : McSt → McSt) : (s.updMc d f).pending = s.pending := rfl
@[simp] theorem State.updMc_free (d : Nat) (f : McSt → McSt) : (s.updMc d f).free = s.free := rfl
@[simp] theorem State.updMc_resp (d : Nat) (f : McSt → McSt) : (s.updMc d f).resp = s.resp := rfl
@[simp] theorem State.updMc_hostOut (d : Nat) (f : McSt → McSt) : (s.updMc d f).hostOut = s.hostOut := rfl
@[simp] theorem State.updMc_linkOut (d : Nat) (f : McSt → McSt) : (s.updMc d f).linkOut = s.linkOut := rfl
@[simp] theorem State.updMc_now (d : Nat) (f : McSt → McSt) : (s.updMc d f).now = s.now := rfl
@[simp] theorem State.updMc_aligned (d : Nat) (f : McSt → McSt) : (s.updMc d f).aligned = s.aligned := rfl
@[simp] theorem State.updMc_stopped (d : Nat) (f : McSt → McSt) : (s.updMc d f).stopped = s.stopped := rfl
@[simp] theorem State.updMc_sealRun (d : Nat) (f : McSt → McSt) : (s.updMc d f).sealRun = s.sealRun := rfl
@[simp] theorem State.updMc_beats (d : Nat) (f : McSt → McSt) : (s.updMc d f).beats = s.beats := rfl
@[simp] theorem State.updMc_cores (d : Nat) (f : McSt → McSt) : (s.updMc d f).cores = s.cores := rfl
@[simp] theorem State.updMc_mem (d : Nat) (f : McSt → McSt) : (s.updMc d f).mem = s.mem := rfl
@[simp] theorem State.updMc_poison (d : Nat) (f : McSt → McSt) : (s.updMc d f).poison = s.poison := rfl
@[simp] theorem State.updMc_log (d : Nat) (f : McSt → McSt) : (s.updMc d f).log = s.log := rfl
@[simp] theorem State.updMc_image (d : Nat) (f : McSt → McSt) : (s.updMc d f).image = s.image := rfl
@[simp] theorem State.updMc_tenants (d : Nat) (f : McSt → McSt) : (s.updMc d f).tenants = s.tenants := rfl
@[simp] theorem State.updMc_pages (d : Nat) (f : McSt → McSt) : (s.updMc d f).pages = s.pages := rfl
@[simp] theorem State.updMc_hl (d : Nat) (f : McSt → McSt) : (s.updMc d f).hl = s.hl := rfl
@[simp] theorem State.updMc_watched (d : Nat) (f : McSt → McSt) : (s.updMc d f).watched = s.watched := rfl
@[simp] theorem State.updMc_watchOut (d : Nat) (f : McSt → McSt) : (s.updMc d f).watchOut = s.watchOut := rfl
@[simp] theorem State.updMc_jobs (d : Nat) (f : McSt → McSt) : (s.updMc d f).jobs = s.jobs := rfl
@[simp] theorem State.updMc_frames (d : Nat) (f : McSt → McSt) : (s.updMc d f).frames = s.frames := rfl
@[simp] theorem State.updMc_t2 (d : Nat) (f : McSt → McSt) : (s.updMc d f).t2 = s.t2 := rfl
@[simp] theorem State.updMc_tiers (d : Nat) (f : McSt → McSt) : (s.updMc d f).tiers = s.tiers := rfl
@[simp] theorem State.updMc_nor (d : Nat) (f : McSt → McSt) : (s.updMc d f).nor = s.nor := rfl
@[simp] theorem State.updMc_retired (d : Nat) (f : McSt → McSt) : (s.updMc d f).retired = s.retired := rfl
@[simp] theorem State.updMc_pm (d : Nat) (f : McSt → McSt) : (s.updMc d f).pm = s.pm := rfl
@[simp] theorem State.updMc_guest (d : Nat) (f : McSt → McSt) : (s.updMc d f).guest = s.guest := rfl
@[simp] theorem State.updMc_tub (d : Nat) (f : McSt → McSt) : (s.updMc d f).tub = s.tub := rfl
@[simp] theorem State.updMc_lists (d : Nat) (f : McSt → McSt) : (s.updMc d f).lists = s.lists := rfl
@[simp] theorem State.updMc_nextList (d : Nat) (f : McSt → McSt) : (s.updMc d f).nextList = s.nextList := rfl
@[simp] theorem State.updMc_up (d : Nat) (f : McSt → McSt) : (s.updMc d f).up = s.up := rfl
@[simp] theorem State.updMc_cz (d : Nat) (f : McSt → McSt) : (s.updMc d f).cz = s.cz := rfl
@[simp] theorem State.updMc_coll (d : Nat) (f : McSt → McSt) : (s.updMc d f).coll = s.coll := rfl
@[simp] theorem State.updMc_ports (d : Nat) (f : McSt → McSt) : (s.updMc d f).ports = s.ports := rfl
@[simp] theorem State.updMc_gl (d : Nat) (f : McSt → McSt) : (s.updMc d f).gl = s.gl := rfl
@[simp] theorem State.updMc_start (d : Nat) (f : McSt → McSt) : (s.updMc d f).start = s.start := rfl
@[simp] theorem State.updMc_dd (d : Nat) (f : McSt → McSt) : (s.updMc d f).dd = s.dd := rfl
@[simp] theorem State.updMc_tap (d : Nat) (f : McSt → McSt) : (s.updMc d f).tap = s.tap := rfl
@[simp] theorem State.updMc_watch (d : Nat) (f : McSt → McSt) : (s.updMc d f).watch = s.watch := rfl
@[simp] theorem State.updMc_split (d : Nat) (f : McSt → McSt) : (s.updMc d f).split = s.split := rfl

/-! ### setFrame -/

@[simp] theorem State.setFrame_pending (f : Nat) (x : Frame) : (s.setFrame f x).pending = s.pending := rfl
@[simp] theorem State.setFrame_free (f : Nat) (x : Frame) : (s.setFrame f x).free = s.free := rfl
@[simp] theorem State.setFrame_resp (f : Nat) (x : Frame) : (s.setFrame f x).resp = s.resp := rfl
@[simp] theorem State.setFrame_hostOut (f : Nat) (x : Frame) : (s.setFrame f x).hostOut = s.hostOut := rfl
@[simp] theorem State.setFrame_linkOut (f : Nat) (x : Frame) : (s.setFrame f x).linkOut = s.linkOut := rfl
@[simp] theorem State.setFrame_now (f : Nat) (x : Frame) : (s.setFrame f x).now = s.now := rfl
@[simp] theorem State.setFrame_aligned (f : Nat) (x : Frame) : (s.setFrame f x).aligned = s.aligned := rfl
@[simp] theorem State.setFrame_stopped (f : Nat) (x : Frame) : (s.setFrame f x).stopped = s.stopped := rfl
@[simp] theorem State.setFrame_sealRun (f : Nat) (x : Frame) : (s.setFrame f x).sealRun = s.sealRun := rfl
@[simp] theorem State.setFrame_beats (f : Nat) (x : Frame) : (s.setFrame f x).beats = s.beats := rfl
@[simp] theorem State.setFrame_cores (f : Nat) (x : Frame) : (s.setFrame f x).cores = s.cores := rfl
@[simp] theorem State.setFrame_mem (f : Nat) (x : Frame) : (s.setFrame f x).mem = s.mem := rfl
@[simp] theorem State.setFrame_poison (f : Nat) (x : Frame) : (s.setFrame f x).poison = s.poison := rfl
@[simp] theorem State.setFrame_log (f : Nat) (x : Frame) : (s.setFrame f x).log = s.log := rfl
@[simp] theorem State.setFrame_image (f : Nat) (x : Frame) : (s.setFrame f x).image = s.image := rfl
@[simp] theorem State.setFrame_tenants (f : Nat) (x : Frame) : (s.setFrame f x).tenants = s.tenants := rfl
@[simp] theorem State.setFrame_pages (f : Nat) (x : Frame) : (s.setFrame f x).pages = s.pages := rfl
@[simp] theorem State.setFrame_hl (f : Nat) (x : Frame) : (s.setFrame f x).hl = s.hl := rfl
@[simp] theorem State.setFrame_watched (f : Nat) (x : Frame) : (s.setFrame f x).watched = s.watched := rfl
@[simp] theorem State.setFrame_watchOut (f : Nat) (x : Frame) : (s.setFrame f x).watchOut = s.watchOut := rfl
@[simp] theorem State.setFrame_jobs (f : Nat) (x : Frame) : (s.setFrame f x).jobs = s.jobs := rfl
@[simp] theorem State.setFrame_mc (f : Nat) (x : Frame) : (s.setFrame f x).mc = s.mc := rfl
@[simp] theorem State.setFrame_t2 (f : Nat) (x : Frame) : (s.setFrame f x).t2 = s.t2 := rfl
@[simp] theorem State.setFrame_tiers (f : Nat) (x : Frame) : (s.setFrame f x).tiers = s.tiers := rfl
@[simp] theorem State.setFrame_nor (f : Nat) (x : Frame) : (s.setFrame f x).nor = s.nor := rfl
@[simp] theorem State.setFrame_retired (f : Nat) (x : Frame) : (s.setFrame f x).retired = s.retired := rfl
@[simp] theorem State.setFrame_pm (f : Nat) (x : Frame) : (s.setFrame f x).pm = s.pm := rfl
@[simp] theorem State.setFrame_guest (f : Nat) (x : Frame) : (s.setFrame f x).guest = s.guest := rfl
@[simp] theorem State.setFrame_tub (f : Nat) (x : Frame) : (s.setFrame f x).tub = s.tub := rfl
@[simp] theorem State.setFrame_lists (f : Nat) (x : Frame) : (s.setFrame f x).lists = s.lists := rfl
@[simp] theorem State.setFrame_nextList (f : Nat) (x : Frame) : (s.setFrame f x).nextList = s.nextList := rfl
@[simp] theorem State.setFrame_up (f : Nat) (x : Frame) : (s.setFrame f x).up = s.up := rfl
@[simp] theorem State.setFrame_cz (f : Nat) (x : Frame) : (s.setFrame f x).cz = s.cz := rfl
@[simp] theorem State.setFrame_coll (f : Nat) (x : Frame) : (s.setFrame f x).coll = s.coll := rfl
@[simp] theorem State.setFrame_ports (f : Nat) (x : Frame) : (s.setFrame f x).ports = s.ports := rfl
@[simp] theorem State.setFrame_gl (f : Nat) (x : Frame) : (s.setFrame f x).gl = s.gl := rfl
@[simp] theorem State.setFrame_start (f : Nat) (x : Frame) : (s.setFrame f x).start = s.start := rfl
@[simp] theorem State.setFrame_dd (f : Nat) (x : Frame) : (s.setFrame f x).dd = s.dd := rfl
@[simp] theorem State.setFrame_tap (f : Nat) (x : Frame) : (s.setFrame f x).tap = s.tap := rfl
@[simp] theorem State.setFrame_watch (f : Nat) (x : Frame) : (s.setFrame f x).watch = s.watch := rfl
@[simp] theorem State.setFrame_split (f : Nat) (x : Frame) : (s.setFrame f x).split = s.split := rfl

/-! ### setJob -/

@[simp] theorem State.setJob_pending (k : Nat) (j : Job) : (s.setJob k j).pending = s.pending := rfl
@[simp] theorem State.setJob_free (k : Nat) (j : Job) : (s.setJob k j).free = s.free := rfl
@[simp] theorem State.setJob_resp (k : Nat) (j : Job) : (s.setJob k j).resp = s.resp := rfl
@[simp] theorem State.setJob_hostOut (k : Nat) (j : Job) : (s.setJob k j).hostOut = s.hostOut := rfl
@[simp] theorem State.setJob_linkOut (k : Nat) (j : Job) : (s.setJob k j).linkOut = s.linkOut := rfl
@[simp] theorem State.setJob_now (k : Nat) (j : Job) : (s.setJob k j).now = s.now := rfl
@[simp] theorem State.setJob_aligned (k : Nat) (j : Job) : (s.setJob k j).aligned = s.aligned := rfl
@[simp] theorem State.setJob_stopped (k : Nat) (j : Job) : (s.setJob k j).stopped = s.stopped := rfl
@[simp] theorem State.setJob_sealRun (k : Nat) (j : Job) : (s.setJob k j).sealRun = s.sealRun := rfl
@[simp] theorem State.setJob_beats (k : Nat) (j : Job) : (s.setJob k j).beats = s.beats := rfl
@[simp] theorem State.setJob_cores (k : Nat) (j : Job) : (s.setJob k j).cores = s.cores := rfl
@[simp] theorem State.setJob_mem (k : Nat) (j : Job) : (s.setJob k j).mem = s.mem := rfl
@[simp] theorem State.setJob_poison (k : Nat) (j : Job) : (s.setJob k j).poison = s.poison := rfl
@[simp] theorem State.setJob_log (k : Nat) (j : Job) : (s.setJob k j).log = s.log := rfl
@[simp] theorem State.setJob_image (k : Nat) (j : Job) : (s.setJob k j).image = s.image := rfl
@[simp] theorem State.setJob_tenants (k : Nat) (j : Job) : (s.setJob k j).tenants = s.tenants := rfl
@[simp] theorem State.setJob_pages (k : Nat) (j : Job) : (s.setJob k j).pages = s.pages := rfl
@[simp] theorem State.setJob_hl (k : Nat) (j : Job) : (s.setJob k j).hl = s.hl := rfl
@[simp] theorem State.setJob_watched (k : Nat) (j : Job) : (s.setJob k j).watched = s.watched := rfl
@[simp] theorem State.setJob_watchOut (k : Nat) (j : Job) : (s.setJob k j).watchOut = s.watchOut := rfl
@[simp] theorem State.setJob_mc (k : Nat) (j : Job) : (s.setJob k j).mc = s.mc := rfl
@[simp] theorem State.setJob_frames (k : Nat) (j : Job) : (s.setJob k j).frames = s.frames := rfl
@[simp] theorem State.setJob_t2 (k : Nat) (j : Job) : (s.setJob k j).t2 = s.t2 := rfl
@[simp] theorem State.setJob_tiers (k : Nat) (j : Job) : (s.setJob k j).tiers = s.tiers := rfl
@[simp] theorem State.setJob_nor (k : Nat) (j : Job) : (s.setJob k j).nor = s.nor := rfl
@[simp] theorem State.setJob_retired (k : Nat) (j : Job) : (s.setJob k j).retired = s.retired := rfl
@[simp] theorem State.setJob_pm (k : Nat) (j : Job) : (s.setJob k j).pm = s.pm := rfl
@[simp] theorem State.setJob_guest (k : Nat) (j : Job) : (s.setJob k j).guest = s.guest := rfl
@[simp] theorem State.setJob_tub (k : Nat) (j : Job) : (s.setJob k j).tub = s.tub := rfl
@[simp] theorem State.setJob_lists (k : Nat) (j : Job) : (s.setJob k j).lists = s.lists := rfl
@[simp] theorem State.setJob_nextList (k : Nat) (j : Job) : (s.setJob k j).nextList = s.nextList := rfl
@[simp] theorem State.setJob_up (k : Nat) (j : Job) : (s.setJob k j).up = s.up := rfl
@[simp] theorem State.setJob_cz (k : Nat) (j : Job) : (s.setJob k j).cz = s.cz := rfl
@[simp] theorem State.setJob_coll (k : Nat) (j : Job) : (s.setJob k j).coll = s.coll := rfl
@[simp] theorem State.setJob_ports (k : Nat) (j : Job) : (s.setJob k j).ports = s.ports := rfl
@[simp] theorem State.setJob_gl (k : Nat) (j : Job) : (s.setJob k j).gl = s.gl := rfl
@[simp] theorem State.setJob_start (k : Nat) (j : Job) : (s.setJob k j).start = s.start := rfl
@[simp] theorem State.setJob_dd (k : Nat) (j : Job) : (s.setJob k j).dd = s.dd := rfl
@[simp] theorem State.setJob_tap (k : Nat) (j : Job) : (s.setJob k j).tap = s.tap := rfl
@[simp] theorem State.setJob_watch (k : Nat) (j : Job) : (s.setJob k j).watch = s.watch := rfl
@[simp] theorem State.setJob_split (k : Nat) (j : Job) : (s.setJob k j).split = s.split := rfl

/-! ### updJob -/

@[simp] theorem State.updJob_pending (k : Nat) (f : Job → Job) : (s.updJob k f).pending = s.pending := rfl
@[simp] theorem State.updJob_free (k : Nat) (f : Job → Job) : (s.updJob k f).free = s.free := rfl
@[simp] theorem State.updJob_resp (k : Nat) (f : Job → Job) : (s.updJob k f).resp = s.resp := rfl
@[simp] theorem State.updJob_hostOut (k : Nat) (f : Job → Job) : (s.updJob k f).hostOut = s.hostOut := rfl
@[simp] theorem State.updJob_linkOut (k : Nat) (f : Job → Job) : (s.updJob k f).linkOut = s.linkOut := rfl
@[simp] theorem State.updJob_now (k : Nat) (f : Job → Job) : (s.updJob k f).now = s.now := rfl
@[simp] theorem State.updJob_aligned (k : Nat) (f : Job → Job) : (s.updJob k f).aligned = s.aligned := rfl
@[simp] theorem State.updJob_stopped (k : Nat) (f : Job → Job) : (s.updJob k f).stopped = s.stopped := rfl
@[simp] theorem State.updJob_sealRun (k : Nat) (f : Job → Job) : (s.updJob k f).sealRun = s.sealRun := rfl
@[simp] theorem State.updJob_beats (k : Nat) (f : Job → Job) : (s.updJob k f).beats = s.beats := rfl
@[simp] theorem State.updJob_cores (k : Nat) (f : Job → Job) : (s.updJob k f).cores = s.cores := rfl
@[simp] theorem State.updJob_mem (k : Nat) (f : Job → Job) : (s.updJob k f).mem = s.mem := rfl
@[simp] theorem State.updJob_poison (k : Nat) (f : Job → Job) : (s.updJob k f).poison = s.poison := rfl
@[simp] theorem State.updJob_log (k : Nat) (f : Job → Job) : (s.updJob k f).log = s.log := rfl
@[simp] theorem State.updJob_image (k : Nat) (f : Job → Job) : (s.updJob k f).image = s.image := rfl
@[simp] theorem State.updJob_tenants (k : Nat) (f : Job → Job) : (s.updJob k f).tenants = s.tenants := rfl
@[simp] theorem State.updJob_pages (k : Nat) (f : Job → Job) : (s.updJob k f).pages = s.pages := rfl
@[simp] theorem State.updJob_hl (k : Nat) (f : Job → Job) : (s.updJob k f).hl = s.hl := rfl
@[simp] theorem State.updJob_watched (k : Nat) (f : Job → Job) : (s.updJob k f).watched = s.watched := rfl
@[simp] theorem State.updJob_watchOut (k : Nat) (f : Job → Job) : (s.updJob k f).watchOut = s.watchOut := rfl
@[simp] theorem State.updJob_mc (k : Nat) (f : Job → Job) : (s.updJob k f).mc = s.mc := rfl
@[simp] theorem State.updJob_frames (k : Nat) (f : Job → Job) : (s.updJob k f).frames = s.frames := rfl
@[simp] theorem State.updJob_t2 (k : Nat) (f : Job → Job) : (s.updJob k f).t2 = s.t2 := rfl
@[simp] theorem State.updJob_tiers (k : Nat) (f : Job → Job) : (s.updJob k f).tiers = s.tiers := rfl
@[simp] theorem State.updJob_nor (k : Nat) (f : Job → Job) : (s.updJob k f).nor = s.nor := rfl
@[simp] theorem State.updJob_retired (k : Nat) (f : Job → Job) : (s.updJob k f).retired = s.retired := rfl
@[simp] theorem State.updJob_pm (k : Nat) (f : Job → Job) : (s.updJob k f).pm = s.pm := rfl
@[simp] theorem State.updJob_guest (k : Nat) (f : Job → Job) : (s.updJob k f).guest = s.guest := rfl
@[simp] theorem State.updJob_tub (k : Nat) (f : Job → Job) : (s.updJob k f).tub = s.tub := rfl
@[simp] theorem State.updJob_lists (k : Nat) (f : Job → Job) : (s.updJob k f).lists = s.lists := rfl
@[simp] theorem State.updJob_nextList (k : Nat) (f : Job → Job) : (s.updJob k f).nextList = s.nextList := rfl
@[simp] theorem State.updJob_up (k : Nat) (f : Job → Job) : (s.updJob k f).up = s.up := rfl
@[simp] theorem State.updJob_cz (k : Nat) (f : Job → Job) : (s.updJob k f).cz = s.cz := rfl
@[simp] theorem State.updJob_coll (k : Nat) (f : Job → Job) : (s.updJob k f).coll = s.coll := rfl
@[simp] theorem State.updJob_ports (k : Nat) (f : Job → Job) : (s.updJob k f).ports = s.ports := rfl
@[simp] theorem State.updJob_gl (k : Nat) (f : Job → Job) : (s.updJob k f).gl = s.gl := rfl
@[simp] theorem State.updJob_start (k : Nat) (f : Job → Job) : (s.updJob k f).start = s.start := rfl
@[simp] theorem State.updJob_dd (k : Nat) (f : Job → Job) : (s.updJob k f).dd = s.dd := rfl
@[simp] theorem State.updJob_tap (k : Nat) (f : Job → Job) : (s.updJob k f).tap = s.tap := rfl
@[simp] theorem State.updJob_watch (k : Nat) (f : Job → Job) : (s.updJob k f).watch = s.watch := rfl
@[simp] theorem State.updJob_split (k : Nat) (f : Job → Job) : (s.updJob k f).split = s.split := rfl

/-! ### setT2 -/

@[simp] theorem State.setT2_pending (k : Nat) (t : T2Tensor) : (s.setT2 k t).pending = s.pending := rfl
@[simp] theorem State.setT2_free (k : Nat) (t : T2Tensor) : (s.setT2 k t).free = s.free := rfl
@[simp] theorem State.setT2_resp (k : Nat) (t : T2Tensor) : (s.setT2 k t).resp = s.resp := rfl
@[simp] theorem State.setT2_hostOut (k : Nat) (t : T2Tensor) : (s.setT2 k t).hostOut = s.hostOut := rfl
@[simp] theorem State.setT2_linkOut (k : Nat) (t : T2Tensor) : (s.setT2 k t).linkOut = s.linkOut := rfl
@[simp] theorem State.setT2_now (k : Nat) (t : T2Tensor) : (s.setT2 k t).now = s.now := rfl
@[simp] theorem State.setT2_aligned (k : Nat) (t : T2Tensor) : (s.setT2 k t).aligned = s.aligned := rfl
@[simp] theorem State.setT2_stopped (k : Nat) (t : T2Tensor) : (s.setT2 k t).stopped = s.stopped := rfl
@[simp] theorem State.setT2_sealRun (k : Nat) (t : T2Tensor) : (s.setT2 k t).sealRun = s.sealRun := rfl
@[simp] theorem State.setT2_beats (k : Nat) (t : T2Tensor) : (s.setT2 k t).beats = s.beats := rfl
@[simp] theorem State.setT2_cores (k : Nat) (t : T2Tensor) : (s.setT2 k t).cores = s.cores := rfl
@[simp] theorem State.setT2_mem (k : Nat) (t : T2Tensor) : (s.setT2 k t).mem = s.mem := rfl
@[simp] theorem State.setT2_poison (k : Nat) (t : T2Tensor) : (s.setT2 k t).poison = s.poison := rfl
@[simp] theorem State.setT2_log (k : Nat) (t : T2Tensor) : (s.setT2 k t).log = s.log := rfl
@[simp] theorem State.setT2_image (k : Nat) (t : T2Tensor) : (s.setT2 k t).image = s.image := rfl
@[simp] theorem State.setT2_tenants (k : Nat) (t : T2Tensor) : (s.setT2 k t).tenants = s.tenants := rfl
@[simp] theorem State.setT2_pages (k : Nat) (t : T2Tensor) : (s.setT2 k t).pages = s.pages := rfl
@[simp] theorem State.setT2_hl (k : Nat) (t : T2Tensor) : (s.setT2 k t).hl = s.hl := rfl
@[simp] theorem State.setT2_watched (k : Nat) (t : T2Tensor) : (s.setT2 k t).watched = s.watched := rfl
@[simp] theorem State.setT2_watchOut (k : Nat) (t : T2Tensor) : (s.setT2 k t).watchOut = s.watchOut := rfl
@[simp] theorem State.setT2_jobs (k : Nat) (t : T2Tensor) : (s.setT2 k t).jobs = s.jobs := rfl
@[simp] theorem State.setT2_mc (k : Nat) (t : T2Tensor) : (s.setT2 k t).mc = s.mc := rfl
@[simp] theorem State.setT2_frames (k : Nat) (t : T2Tensor) : (s.setT2 k t).frames = s.frames := rfl
@[simp] theorem State.setT2_tiers (k : Nat) (t : T2Tensor) : (s.setT2 k t).tiers = s.tiers := rfl
@[simp] theorem State.setT2_nor (k : Nat) (t : T2Tensor) : (s.setT2 k t).nor = s.nor := rfl
@[simp] theorem State.setT2_retired (k : Nat) (t : T2Tensor) : (s.setT2 k t).retired = s.retired := rfl
@[simp] theorem State.setT2_pm (k : Nat) (t : T2Tensor) : (s.setT2 k t).pm = s.pm := rfl
@[simp] theorem State.setT2_guest (k : Nat) (t : T2Tensor) : (s.setT2 k t).guest = s.guest := rfl
@[simp] theorem State.setT2_tub (k : Nat) (t : T2Tensor) : (s.setT2 k t).tub = s.tub := rfl
@[simp] theorem State.setT2_lists (k : Nat) (t : T2Tensor) : (s.setT2 k t).lists = s.lists := rfl
@[simp] theorem State.setT2_nextList (k : Nat) (t : T2Tensor) : (s.setT2 k t).nextList = s.nextList := rfl
@[simp] theorem State.setT2_up (k : Nat) (t : T2Tensor) : (s.setT2 k t).up = s.up := rfl
@[simp] theorem State.setT2_cz (k : Nat) (t : T2Tensor) : (s.setT2 k t).cz = s.cz := rfl
@[simp] theorem State.setT2_coll (k : Nat) (t : T2Tensor) : (s.setT2 k t).coll = s.coll := rfl
@[simp] theorem State.setT2_ports (k : Nat) (t : T2Tensor) : (s.setT2 k t).ports = s.ports := rfl
@[simp] theorem State.setT2_gl (k : Nat) (t : T2Tensor) : (s.setT2 k t).gl = s.gl := rfl
@[simp] theorem State.setT2_start (k : Nat) (t : T2Tensor) : (s.setT2 k t).start = s.start := rfl
@[simp] theorem State.setT2_dd (k : Nat) (t : T2Tensor) : (s.setT2 k t).dd = s.dd := rfl
@[simp] theorem State.setT2_tap (k : Nat) (t : T2Tensor) : (s.setT2 k t).tap = s.tap := rfl
@[simp] theorem State.setT2_watch (k : Nat) (t : T2Tensor) : (s.setT2 k t).watch = s.watch := rfl
@[simp] theorem State.setT2_split (k : Nat) (t : T2Tensor) : (s.setT2 k t).split = s.split := rfl

/-! ### updT2 -/

@[simp] theorem State.updT2_pending (k : Nat) (f : T2Tensor → T2Tensor) : (s.updT2 k f).pending = s.pending := rfl
@[simp] theorem State.updT2_free (k : Nat) (f : T2Tensor → T2Tensor) : (s.updT2 k f).free = s.free := rfl
@[simp] theorem State.updT2_resp (k : Nat) (f : T2Tensor → T2Tensor) : (s.updT2 k f).resp = s.resp := rfl
@[simp] theorem State.updT2_hostOut (k : Nat) (f : T2Tensor → T2Tensor) : (s.updT2 k f).hostOut = s.hostOut := rfl
@[simp] theorem State.updT2_linkOut (k : Nat) (f : T2Tensor → T2Tensor) : (s.updT2 k f).linkOut = s.linkOut := rfl
@[simp] theorem State.updT2_now (k : Nat) (f : T2Tensor → T2Tensor) : (s.updT2 k f).now = s.now := rfl
@[simp] theorem State.updT2_aligned (k : Nat) (f : T2Tensor → T2Tensor) : (s.updT2 k f).aligned = s.aligned := rfl
@[simp] theorem State.updT2_stopped (k : Nat) (f : T2Tensor → T2Tensor) : (s.updT2 k f).stopped = s.stopped := rfl
@[simp] theorem State.updT2_sealRun (k : Nat) (f : T2Tensor → T2Tensor) : (s.updT2 k f).sealRun = s.sealRun := rfl
@[simp] theorem State.updT2_beats (k : Nat) (f : T2Tensor → T2Tensor) : (s.updT2 k f).beats = s.beats := rfl
@[simp] theorem State.updT2_cores (k : Nat) (f : T2Tensor → T2Tensor) : (s.updT2 k f).cores = s.cores := rfl
@[simp] theorem State.updT2_mem (k : Nat) (f : T2Tensor → T2Tensor) : (s.updT2 k f).mem = s.mem := rfl
@[simp] theorem State.updT2_poison (k : Nat) (f : T2Tensor → T2Tensor) : (s.updT2 k f).poison = s.poison := rfl
@[simp] theorem State.updT2_log (k : Nat) (f : T2Tensor → T2Tensor) : (s.updT2 k f).log = s.log := rfl
@[simp] theorem State.updT2_image (k : Nat) (f : T2Tensor → T2Tensor) : (s.updT2 k f).image = s.image := rfl
@[simp] theorem State.updT2_tenants (k : Nat) (f : T2Tensor → T2Tensor) : (s.updT2 k f).tenants = s.tenants := rfl
@[simp] theorem State.updT2_pages (k : Nat) (f : T2Tensor → T2Tensor) : (s.updT2 k f).pages = s.pages := rfl
@[simp] theorem State.updT2_hl (k : Nat) (f : T2Tensor → T2Tensor) : (s.updT2 k f).hl = s.hl := rfl
@[simp] theorem State.updT2_watched (k : Nat) (f : T2Tensor → T2Tensor) : (s.updT2 k f).watched = s.watched := rfl
@[simp] theorem State.updT2_watchOut (k : Nat) (f : T2Tensor → T2Tensor) : (s.updT2 k f).watchOut = s.watchOut := rfl
@[simp] theorem State.updT2_jobs (k : Nat) (f : T2Tensor → T2Tensor) : (s.updT2 k f).jobs = s.jobs := rfl
@[simp] theorem State.updT2_mc (k : Nat) (f : T2Tensor → T2Tensor) : (s.updT2 k f).mc = s.mc := rfl
@[simp] theorem State.updT2_frames (k : Nat) (f : T2Tensor → T2Tensor) : (s.updT2 k f).frames = s.frames := rfl
@[simp] theorem State.updT2_tiers (k : Nat) (f : T2Tensor → T2Tensor) : (s.updT2 k f).tiers = s.tiers := rfl
@[simp] theorem State.updT2_nor (k : Nat) (f : T2Tensor → T2Tensor) : (s.updT2 k f).nor = s.nor := rfl
@[simp] theorem State.updT2_retired (k : Nat) (f : T2Tensor → T2Tensor) : (s.updT2 k f).retired = s.retired := rfl
@[simp] theorem State.updT2_pm (k : Nat) (f : T2Tensor → T2Tensor) : (s.updT2 k f).pm = s.pm := rfl
@[simp] theorem State.updT2_guest (k : Nat) (f : T2Tensor → T2Tensor) : (s.updT2 k f).guest = s.guest := rfl
@[simp] theorem State.updT2_tub (k : Nat) (f : T2Tensor → T2Tensor) : (s.updT2 k f).tub = s.tub := rfl
@[simp] theorem State.updT2_lists (k : Nat) (f : T2Tensor → T2Tensor) : (s.updT2 k f).lists = s.lists := rfl
@[simp] theorem State.updT2_nextList (k : Nat) (f : T2Tensor → T2Tensor) : (s.updT2 k f).nextList = s.nextList := rfl
@[simp] theorem State.updT2_up (k : Nat) (f : T2Tensor → T2Tensor) : (s.updT2 k f).up = s.up := rfl
@[simp] theorem State.updT2_cz (k : Nat) (f : T2Tensor → T2Tensor) : (s.updT2 k f).cz = s.cz := rfl
@[simp] theorem State.updT2_coll (k : Nat) (f : T2Tensor → T2Tensor) : (s.updT2 k f).coll = s.coll := rfl
@[simp] theorem State.updT2_ports (k : Nat) (f : T2Tensor → T2Tensor) : (s.updT2 k f).ports = s.ports := rfl
@[simp] theorem State.updT2_gl (k : Nat) (f : T2Tensor → T2Tensor) : (s.updT2 k f).gl = s.gl := rfl
@[simp] theorem State.updT2_start (k : Nat) (f : T2Tensor → T2Tensor) : (s.updT2 k f).start = s.start := rfl
@[simp] theorem State.updT2_dd (k : Nat) (f : T2Tensor → T2Tensor) : (s.updT2 k f).dd = s.dd := rfl
@[simp] theorem State.updT2_tap (k : Nat) (f : T2Tensor → T2Tensor) : (s.updT2 k f).tap = s.tap := rfl
@[simp] theorem State.updT2_watch (k : Nat) (f : T2Tensor → T2Tensor) : (s.updT2 k f).watch = s.watch := rfl
@[simp] theorem State.updT2_split (k : Nat) (f : T2Tensor → T2Tensor) : (s.updT2 k f).split = s.split := rfl

/-! ### setPage -/

@[simp] theorem State.setPage_pending (k : Nat) (e : PageEnt) : (s.setPage k e).pending = s.pending := rfl
@[simp] theorem State.setPage_free (k : Nat) (e : PageEnt) : (s.setPage k e).free = s.free := rfl
@[simp] theorem State.setPage_resp (k : Nat) (e : PageEnt) : (s.setPage k e).resp = s.resp := rfl
@[simp] theorem State.setPage_hostOut (k : Nat) (e : PageEnt) : (s.setPage k e).hostOut = s.hostOut := rfl
@[simp] theorem State.setPage_linkOut (k : Nat) (e : PageEnt) : (s.setPage k e).linkOut = s.linkOut := rfl
@[simp] theorem State.setPage_now (k : Nat) (e : PageEnt) : (s.setPage k e).now = s.now := rfl
@[simp] theorem State.setPage_aligned (k : Nat) (e : PageEnt) : (s.setPage k e).aligned = s.aligned := rfl
@[simp] theorem State.setPage_stopped (k : Nat) (e : PageEnt) : (s.setPage k e).stopped = s.stopped := rfl
@[simp] theorem State.setPage_sealRun (k : Nat) (e : PageEnt) : (s.setPage k e).sealRun = s.sealRun := rfl
@[simp] theorem State.setPage_beats (k : Nat) (e : PageEnt) : (s.setPage k e).beats = s.beats := rfl
@[simp] theorem State.setPage_cores (k : Nat) (e : PageEnt) : (s.setPage k e).cores = s.cores := rfl
@[simp] theorem State.setPage_mem (k : Nat) (e : PageEnt) : (s.setPage k e).mem = s.mem := rfl
@[simp] theorem State.setPage_poison (k : Nat) (e : PageEnt) : (s.setPage k e).poison = s.poison := rfl
@[simp] theorem State.setPage_log (k : Nat) (e : PageEnt) : (s.setPage k e).log = s.log := rfl
@[simp] theorem State.setPage_image (k : Nat) (e : PageEnt) : (s.setPage k e).image = s.image := rfl
@[simp] theorem State.setPage_tenants (k : Nat) (e : PageEnt) : (s.setPage k e).tenants = s.tenants := rfl
@[simp] theorem State.setPage_hl (k : Nat) (e : PageEnt) : (s.setPage k e).hl = s.hl := rfl
@[simp] theorem State.setPage_watched (k : Nat) (e : PageEnt) : (s.setPage k e).watched = s.watched := rfl
@[simp] theorem State.setPage_watchOut (k : Nat) (e : PageEnt) : (s.setPage k e).watchOut = s.watchOut := rfl
@[simp] theorem State.setPage_jobs (k : Nat) (e : PageEnt) : (s.setPage k e).jobs = s.jobs := rfl
@[simp] theorem State.setPage_mc (k : Nat) (e : PageEnt) : (s.setPage k e).mc = s.mc := rfl
@[simp] theorem State.setPage_frames (k : Nat) (e : PageEnt) : (s.setPage k e).frames = s.frames := rfl
@[simp] theorem State.setPage_t2 (k : Nat) (e : PageEnt) : (s.setPage k e).t2 = s.t2 := rfl
@[simp] theorem State.setPage_tiers (k : Nat) (e : PageEnt) : (s.setPage k e).tiers = s.tiers := rfl
@[simp] theorem State.setPage_nor (k : Nat) (e : PageEnt) : (s.setPage k e).nor = s.nor := rfl
@[simp] theorem State.setPage_retired (k : Nat) (e : PageEnt) : (s.setPage k e).retired = s.retired := rfl
@[simp] theorem State.setPage_pm (k : Nat) (e : PageEnt) : (s.setPage k e).pm = s.pm := rfl
@[simp] theorem State.setPage_guest (k : Nat) (e : PageEnt) : (s.setPage k e).guest = s.guest := rfl
@[simp] theorem State.setPage_tub (k : Nat) (e : PageEnt) : (s.setPage k e).tub = s.tub := rfl
@[simp] theorem State.setPage_lists (k : Nat) (e : PageEnt) : (s.setPage k e).lists = s.lists := rfl
@[simp] theorem State.setPage_nextList (k : Nat) (e : PageEnt) : (s.setPage k e).nextList = s.nextList := rfl
@[simp] theorem State.setPage_up (k : Nat) (e : PageEnt) : (s.setPage k e).up = s.up := rfl
@[simp] theorem State.setPage_cz (k : Nat) (e : PageEnt) : (s.setPage k e).cz = s.cz := rfl
@[simp] theorem State.setPage_coll (k : Nat) (e : PageEnt) : (s.setPage k e).coll = s.coll := rfl
@[simp] theorem State.setPage_ports (k : Nat) (e : PageEnt) : (s.setPage k e).ports = s.ports := rfl
@[simp] theorem State.setPage_gl (k : Nat) (e : PageEnt) : (s.setPage k e).gl = s.gl := rfl
@[simp] theorem State.setPage_start (k : Nat) (e : PageEnt) : (s.setPage k e).start = s.start := rfl
@[simp] theorem State.setPage_dd (k : Nat) (e : PageEnt) : (s.setPage k e).dd = s.dd := rfl
@[simp] theorem State.setPage_tap (k : Nat) (e : PageEnt) : (s.setPage k e).tap = s.tap := rfl
@[simp] theorem State.setPage_watch (k : Nat) (e : PageEnt) : (s.setPage k e).watch = s.watch := rfl
@[simp] theorem State.setPage_split (k : Nat) (e : PageEnt) : (s.setPage k e).split = s.split := rfl

/-! ### setTub -/

@[simp] theorem State.setTub_pending (d : Nat) (t : TubDie) : (s.setTub d t).pending = s.pending := rfl
@[simp] theorem State.setTub_free (d : Nat) (t : TubDie) : (s.setTub d t).free = s.free := rfl
@[simp] theorem State.setTub_resp (d : Nat) (t : TubDie) : (s.setTub d t).resp = s.resp := rfl
@[simp] theorem State.setTub_hostOut (d : Nat) (t : TubDie) : (s.setTub d t).hostOut = s.hostOut := rfl
@[simp] theorem State.setTub_linkOut (d : Nat) (t : TubDie) : (s.setTub d t).linkOut = s.linkOut := rfl
@[simp] theorem State.setTub_now (d : Nat) (t : TubDie) : (s.setTub d t).now = s.now := rfl
@[simp] theorem State.setTub_aligned (d : Nat) (t : TubDie) : (s.setTub d t).aligned = s.aligned := rfl
@[simp] theorem State.setTub_stopped (d : Nat) (t : TubDie) : (s.setTub d t).stopped = s.stopped := rfl
@[simp] theorem State.setTub_sealRun (d : Nat) (t : TubDie) : (s.setTub d t).sealRun = s.sealRun := rfl
@[simp] theorem State.setTub_beats (d : Nat) (t : TubDie) : (s.setTub d t).beats = s.beats := rfl
@[simp] theorem State.setTub_cores (d : Nat) (t : TubDie) : (s.setTub d t).cores = s.cores := rfl
@[simp] theorem State.setTub_mem (d : Nat) (t : TubDie) : (s.setTub d t).mem = s.mem := rfl
@[simp] theorem State.setTub_poison (d : Nat) (t : TubDie) : (s.setTub d t).poison = s.poison := rfl
@[simp] theorem State.setTub_log (d : Nat) (t : TubDie) : (s.setTub d t).log = s.log := rfl
@[simp] theorem State.setTub_image (d : Nat) (t : TubDie) : (s.setTub d t).image = s.image := rfl
@[simp] theorem State.setTub_tenants (d : Nat) (t : TubDie) : (s.setTub d t).tenants = s.tenants := rfl
@[simp] theorem State.setTub_pages (d : Nat) (t : TubDie) : (s.setTub d t).pages = s.pages := rfl
@[simp] theorem State.setTub_hl (d : Nat) (t : TubDie) : (s.setTub d t).hl = s.hl := rfl
@[simp] theorem State.setTub_watched (d : Nat) (t : TubDie) : (s.setTub d t).watched = s.watched := rfl
@[simp] theorem State.setTub_watchOut (d : Nat) (t : TubDie) : (s.setTub d t).watchOut = s.watchOut := rfl
@[simp] theorem State.setTub_jobs (d : Nat) (t : TubDie) : (s.setTub d t).jobs = s.jobs := rfl
@[simp] theorem State.setTub_mc (d : Nat) (t : TubDie) : (s.setTub d t).mc = s.mc := rfl
@[simp] theorem State.setTub_frames (d : Nat) (t : TubDie) : (s.setTub d t).frames = s.frames := rfl
@[simp] theorem State.setTub_t2 (d : Nat) (t : TubDie) : (s.setTub d t).t2 = s.t2 := rfl
@[simp] theorem State.setTub_tiers (d : Nat) (t : TubDie) : (s.setTub d t).tiers = s.tiers := rfl
@[simp] theorem State.setTub_nor (d : Nat) (t : TubDie) : (s.setTub d t).nor = s.nor := rfl
@[simp] theorem State.setTub_retired (d : Nat) (t : TubDie) : (s.setTub d t).retired = s.retired := rfl
@[simp] theorem State.setTub_pm (d : Nat) (t : TubDie) : (s.setTub d t).pm = s.pm := rfl
@[simp] theorem State.setTub_guest (d : Nat) (t : TubDie) : (s.setTub d t).guest = s.guest := rfl
@[simp] theorem State.setTub_lists (d : Nat) (t : TubDie) : (s.setTub d t).lists = s.lists := rfl
@[simp] theorem State.setTub_nextList (d : Nat) (t : TubDie) : (s.setTub d t).nextList = s.nextList := rfl
@[simp] theorem State.setTub_up (d : Nat) (t : TubDie) : (s.setTub d t).up = s.up := rfl
@[simp] theorem State.setTub_cz (d : Nat) (t : TubDie) : (s.setTub d t).cz = s.cz := rfl
@[simp] theorem State.setTub_coll (d : Nat) (t : TubDie) : (s.setTub d t).coll = s.coll := rfl
@[simp] theorem State.setTub_ports (d : Nat) (t : TubDie) : (s.setTub d t).ports = s.ports := rfl
@[simp] theorem State.setTub_gl (d : Nat) (t : TubDie) : (s.setTub d t).gl = s.gl := rfl
@[simp] theorem State.setTub_start (d : Nat) (t : TubDie) : (s.setTub d t).start = s.start := rfl
@[simp] theorem State.setTub_dd (d : Nat) (t : TubDie) : (s.setTub d t).dd = s.dd := rfl
@[simp] theorem State.setTub_tap (d : Nat) (t : TubDie) : (s.setTub d t).tap = s.tap := rfl
@[simp] theorem State.setTub_watch (d : Nat) (t : TubDie) : (s.setTub d t).watch = s.watch := rfl
@[simp] theorem State.setTub_split (d : Nat) (t : TubDie) : (s.setTub d t).split = s.split := rfl

/-! ### updTub -/

@[simp] theorem State.updTub_pending (d : Nat) (f : TubDie → TubDie) : (s.updTub d f).pending = s.pending := rfl
@[simp] theorem State.updTub_free (d : Nat) (f : TubDie → TubDie) : (s.updTub d f).free = s.free := rfl
@[simp] theorem State.updTub_resp (d : Nat) (f : TubDie → TubDie) : (s.updTub d f).resp = s.resp := rfl
@[simp] theorem State.updTub_hostOut (d : Nat) (f : TubDie → TubDie) : (s.updTub d f).hostOut = s.hostOut := rfl
@[simp] theorem State.updTub_linkOut (d : Nat) (f : TubDie → TubDie) : (s.updTub d f).linkOut = s.linkOut := rfl
@[simp] theorem State.updTub_now (d : Nat) (f : TubDie → TubDie) : (s.updTub d f).now = s.now := rfl
@[simp] theorem State.updTub_aligned (d : Nat) (f : TubDie → TubDie) : (s.updTub d f).aligned = s.aligned := rfl
@[simp] theorem State.updTub_stopped (d : Nat) (f : TubDie → TubDie) : (s.updTub d f).stopped = s.stopped := rfl
@[simp] theorem State.updTub_sealRun (d : Nat) (f : TubDie → TubDie) : (s.updTub d f).sealRun = s.sealRun := rfl
@[simp] theorem State.updTub_beats (d : Nat) (f : TubDie → TubDie) : (s.updTub d f).beats = s.beats := rfl
@[simp] theorem State.updTub_cores (d : Nat) (f : TubDie → TubDie) : (s.updTub d f).cores = s.cores := rfl
@[simp] theorem State.updTub_mem (d : Nat) (f : TubDie → TubDie) : (s.updTub d f).mem = s.mem := rfl
@[simp] theorem State.updTub_poison (d : Nat) (f : TubDie → TubDie) : (s.updTub d f).poison = s.poison := rfl
@[simp] theorem State.updTub_log (d : Nat) (f : TubDie → TubDie) : (s.updTub d f).log = s.log := rfl
@[simp] theorem State.updTub_image (d : Nat) (f : TubDie → TubDie) : (s.updTub d f).image = s.image := rfl
@[simp] theorem State.updTub_tenants (d : Nat) (f : TubDie → TubDie) : (s.updTub d f).tenants = s.tenants := rfl
@[simp] theorem State.updTub_pages (d : Nat) (f : TubDie → TubDie) : (s.updTub d f).pages = s.pages := rfl
@[simp] theorem State.updTub_hl (d : Nat) (f : TubDie → TubDie) : (s.updTub d f).hl = s.hl := rfl
@[simp] theorem State.updTub_watched (d : Nat) (f : TubDie → TubDie) : (s.updTub d f).watched = s.watched := rfl
@[simp] theorem State.updTub_watchOut (d : Nat) (f : TubDie → TubDie) : (s.updTub d f).watchOut = s.watchOut := rfl
@[simp] theorem State.updTub_jobs (d : Nat) (f : TubDie → TubDie) : (s.updTub d f).jobs = s.jobs := rfl
@[simp] theorem State.updTub_mc (d : Nat) (f : TubDie → TubDie) : (s.updTub d f).mc = s.mc := rfl
@[simp] theorem State.updTub_frames (d : Nat) (f : TubDie → TubDie) : (s.updTub d f).frames = s.frames := rfl
@[simp] theorem State.updTub_t2 (d : Nat) (f : TubDie → TubDie) : (s.updTub d f).t2 = s.t2 := rfl
@[simp] theorem State.updTub_tiers (d : Nat) (f : TubDie → TubDie) : (s.updTub d f).tiers = s.tiers := rfl
@[simp] theorem State.updTub_nor (d : Nat) (f : TubDie → TubDie) : (s.updTub d f).nor = s.nor := rfl
@[simp] theorem State.updTub_retired (d : Nat) (f : TubDie → TubDie) : (s.updTub d f).retired = s.retired := rfl
@[simp] theorem State.updTub_pm (d : Nat) (f : TubDie → TubDie) : (s.updTub d f).pm = s.pm := rfl
@[simp] theorem State.updTub_guest (d : Nat) (f : TubDie → TubDie) : (s.updTub d f).guest = s.guest := rfl
@[simp] theorem State.updTub_lists (d : Nat) (f : TubDie → TubDie) : (s.updTub d f).lists = s.lists := rfl
@[simp] theorem State.updTub_nextList (d : Nat) (f : TubDie → TubDie) : (s.updTub d f).nextList = s.nextList := rfl
@[simp] theorem State.updTub_up (d : Nat) (f : TubDie → TubDie) : (s.updTub d f).up = s.up := rfl
@[simp] theorem State.updTub_cz (d : Nat) (f : TubDie → TubDie) : (s.updTub d f).cz = s.cz := rfl
@[simp] theorem State.updTub_coll (d : Nat) (f : TubDie → TubDie) : (s.updTub d f).coll = s.coll := rfl
@[simp] theorem State.updTub_ports (d : Nat) (f : TubDie → TubDie) : (s.updTub d f).ports = s.ports := rfl
@[simp] theorem State.updTub_gl (d : Nat) (f : TubDie → TubDie) : (s.updTub d f).gl = s.gl := rfl
@[simp] theorem State.updTub_start (d : Nat) (f : TubDie → TubDie) : (s.updTub d f).start = s.start := rfl
@[simp] theorem State.updTub_dd (d : Nat) (f : TubDie → TubDie) : (s.updTub d f).dd = s.dd := rfl
@[simp] theorem State.updTub_tap (d : Nat) (f : TubDie → TubDie) : (s.updTub d f).tap = s.tap := rfl
@[simp] theorem State.updTub_watch (d : Nat) (f : TubDie → TubDie) : (s.updTub d f).watch = s.watch := rfl
@[simp] theorem State.updTub_split (d : Nat) (f : TubDie → TubDie) : (s.updTub d f).split = s.split := rfl

/-! ### setList -/

@[simp] theorem State.setList_pending (l : TbList) : (s.setList l).pending = s.pending := rfl
@[simp] theorem State.setList_free (l : TbList) : (s.setList l).free = s.free := rfl
@[simp] theorem State.setList_resp (l : TbList) : (s.setList l).resp = s.resp := rfl
@[simp] theorem State.setList_hostOut (l : TbList) : (s.setList l).hostOut = s.hostOut := rfl
@[simp] theorem State.setList_linkOut (l : TbList) : (s.setList l).linkOut = s.linkOut := rfl
@[simp] theorem State.setList_now (l : TbList) : (s.setList l).now = s.now := rfl
@[simp] theorem State.setList_aligned (l : TbList) : (s.setList l).aligned = s.aligned := rfl
@[simp] theorem State.setList_stopped (l : TbList) : (s.setList l).stopped = s.stopped := rfl
@[simp] theorem State.setList_sealRun (l : TbList) : (s.setList l).sealRun = s.sealRun := rfl
@[simp] theorem State.setList_beats (l : TbList) : (s.setList l).beats = s.beats := rfl
@[simp] theorem State.setList_cores (l : TbList) : (s.setList l).cores = s.cores := rfl
@[simp] theorem State.setList_mem (l : TbList) : (s.setList l).mem = s.mem := rfl
@[simp] theorem State.setList_poison (l : TbList) : (s.setList l).poison = s.poison := rfl
@[simp] theorem State.setList_log (l : TbList) : (s.setList l).log = s.log := rfl
@[simp] theorem State.setList_image (l : TbList) : (s.setList l).image = s.image := rfl
@[simp] theorem State.setList_tenants (l : TbList) : (s.setList l).tenants = s.tenants := rfl
@[simp] theorem State.setList_pages (l : TbList) : (s.setList l).pages = s.pages := rfl
@[simp] theorem State.setList_hl (l : TbList) : (s.setList l).hl = s.hl := rfl
@[simp] theorem State.setList_watched (l : TbList) : (s.setList l).watched = s.watched := rfl
@[simp] theorem State.setList_watchOut (l : TbList) : (s.setList l).watchOut = s.watchOut := rfl
@[simp] theorem State.setList_jobs (l : TbList) : (s.setList l).jobs = s.jobs := rfl
@[simp] theorem State.setList_mc (l : TbList) : (s.setList l).mc = s.mc := rfl
@[simp] theorem State.setList_frames (l : TbList) : (s.setList l).frames = s.frames := rfl
@[simp] theorem State.setList_t2 (l : TbList) : (s.setList l).t2 = s.t2 := rfl
@[simp] theorem State.setList_tiers (l : TbList) : (s.setList l).tiers = s.tiers := rfl
@[simp] theorem State.setList_nor (l : TbList) : (s.setList l).nor = s.nor := rfl
@[simp] theorem State.setList_retired (l : TbList) : (s.setList l).retired = s.retired := rfl
@[simp] theorem State.setList_pm (l : TbList) : (s.setList l).pm = s.pm := rfl
@[simp] theorem State.setList_guest (l : TbList) : (s.setList l).guest = s.guest := rfl
@[simp] theorem State.setList_tub (l : TbList) : (s.setList l).tub = s.tub := rfl
@[simp] theorem State.setList_nextList (l : TbList) : (s.setList l).nextList = s.nextList := rfl
@[simp] theorem State.setList_up (l : TbList) : (s.setList l).up = s.up := rfl
@[simp] theorem State.setList_cz (l : TbList) : (s.setList l).cz = s.cz := rfl
@[simp] theorem State.setList_coll (l : TbList) : (s.setList l).coll = s.coll := rfl
@[simp] theorem State.setList_ports (l : TbList) : (s.setList l).ports = s.ports := rfl
@[simp] theorem State.setList_gl (l : TbList) : (s.setList l).gl = s.gl := rfl
@[simp] theorem State.setList_start (l : TbList) : (s.setList l).start = s.start := rfl
@[simp] theorem State.setList_dd (l : TbList) : (s.setList l).dd = s.dd := rfl
@[simp] theorem State.setList_tap (l : TbList) : (s.setList l).tap = s.tap := rfl
@[simp] theorem State.setList_watch (l : TbList) : (s.setList l).watch = s.watch := rfl
@[simp] theorem State.setList_split (l : TbList) : (s.setList l).split = s.split := rfl

/-! ### updUp -/

@[simp] theorem State.updUp_pending (d : Nat) (f : UpDie → UpDie) : (s.updUp d f).pending = s.pending := rfl
@[simp] theorem State.updUp_free (d : Nat) (f : UpDie → UpDie) : (s.updUp d f).free = s.free := rfl
@[simp] theorem State.updUp_resp (d : Nat) (f : UpDie → UpDie) : (s.updUp d f).resp = s.resp := rfl
@[simp] theorem State.updUp_hostOut (d : Nat) (f : UpDie → UpDie) : (s.updUp d f).hostOut = s.hostOut := rfl
@[simp] theorem State.updUp_linkOut (d : Nat) (f : UpDie → UpDie) : (s.updUp d f).linkOut = s.linkOut := rfl
@[simp] theorem State.updUp_now (d : Nat) (f : UpDie → UpDie) : (s.updUp d f).now = s.now := rfl
@[simp] theorem State.updUp_aligned (d : Nat) (f : UpDie → UpDie) : (s.updUp d f).aligned = s.aligned := rfl
@[simp] theorem State.updUp_stopped (d : Nat) (f : UpDie → UpDie) : (s.updUp d f).stopped = s.stopped := rfl
@[simp] theorem State.updUp_sealRun (d : Nat) (f : UpDie → UpDie) : (s.updUp d f).sealRun = s.sealRun := rfl
@[simp] theorem State.updUp_beats (d : Nat) (f : UpDie → UpDie) : (s.updUp d f).beats = s.beats := rfl
@[simp] theorem State.updUp_cores (d : Nat) (f : UpDie → UpDie) : (s.updUp d f).cores = s.cores := rfl
@[simp] theorem State.updUp_mem (d : Nat) (f : UpDie → UpDie) : (s.updUp d f).mem = s.mem := rfl
@[simp] theorem State.updUp_poison (d : Nat) (f : UpDie → UpDie) : (s.updUp d f).poison = s.poison := rfl
@[simp] theorem State.updUp_log (d : Nat) (f : UpDie → UpDie) : (s.updUp d f).log = s.log := rfl
@[simp] theorem State.updUp_image (d : Nat) (f : UpDie → UpDie) : (s.updUp d f).image = s.image := rfl
@[simp] theorem State.updUp_tenants (d : Nat) (f : UpDie → UpDie) : (s.updUp d f).tenants = s.tenants := rfl
@[simp] theorem State.updUp_pages (d : Nat) (f : UpDie → UpDie) : (s.updUp d f).pages = s.pages := rfl
@[simp] theorem State.updUp_hl (d : Nat) (f : UpDie → UpDie) : (s.updUp d f).hl = s.hl := rfl
@[simp] theorem State.updUp_watched (d : Nat) (f : UpDie → UpDie) : (s.updUp d f).watched = s.watched := rfl
@[simp] theorem State.updUp_watchOut (d : Nat) (f : UpDie → UpDie) : (s.updUp d f).watchOut = s.watchOut := rfl
@[simp] theorem State.updUp_jobs (d : Nat) (f : UpDie → UpDie) : (s.updUp d f).jobs = s.jobs := rfl
@[simp] theorem State.updUp_mc (d : Nat) (f : UpDie → UpDie) : (s.updUp d f).mc = s.mc := rfl
@[simp] theorem State.updUp_frames (d : Nat) (f : UpDie → UpDie) : (s.updUp d f).frames = s.frames := rfl
@[simp] theorem State.updUp_t2 (d : Nat) (f : UpDie → UpDie) : (s.updUp d f).t2 = s.t2 := rfl
@[simp] theorem State.updUp_tiers (d : Nat) (f : UpDie → UpDie) : (s.updUp d f).tiers = s.tiers := rfl
@[simp] theorem State.updUp_nor (d : Nat) (f : UpDie → UpDie) : (s.updUp d f).nor = s.nor := rfl
@[simp] theorem State.updUp_retired (d : Nat) (f : UpDie → UpDie) : (s.updUp d f).retired = s.retired := rfl
@[simp] theorem State.updUp_pm (d : Nat) (f : UpDie → UpDie) : (s.updUp d f).pm = s.pm := rfl
@[simp] theorem State.updUp_guest (d : Nat) (f : UpDie → UpDie) : (s.updUp d f).guest = s.guest := rfl
@[simp] theorem State.updUp_tub (d : Nat) (f : UpDie → UpDie) : (s.updUp d f).tub = s.tub := rfl
@[simp] theorem State.updUp_lists (d : Nat) (f : UpDie → UpDie) : (s.updUp d f).lists = s.lists := rfl
@[simp] theorem State.updUp_nextList (d : Nat) (f : UpDie → UpDie) : (s.updUp d f).nextList = s.nextList := rfl
@[simp] theorem State.updUp_cz (d : Nat) (f : UpDie → UpDie) : (s.updUp d f).cz = s.cz := rfl
@[simp] theorem State.updUp_coll (d : Nat) (f : UpDie → UpDie) : (s.updUp d f).coll = s.coll := rfl
@[simp] theorem State.updUp_ports (d : Nat) (f : UpDie → UpDie) : (s.updUp d f).ports = s.ports := rfl
@[simp] theorem State.updUp_gl (d : Nat) (f : UpDie → UpDie) : (s.updUp d f).gl = s.gl := rfl
@[simp] theorem State.updUp_start (d : Nat) (f : UpDie → UpDie) : (s.updUp d f).start = s.start := rfl
@[simp] theorem State.updUp_dd (d : Nat) (f : UpDie → UpDie) : (s.updUp d f).dd = s.dd := rfl
@[simp] theorem State.updUp_tap (d : Nat) (f : UpDie → UpDie) : (s.updUp d f).tap = s.tap := rfl
@[simp] theorem State.updUp_watch (d : Nat) (f : UpDie → UpDie) : (s.updUp d f).watch = s.watch := rfl
@[simp] theorem State.updUp_split (d : Nat) (f : UpDie → UpDie) : (s.updUp d f).split = s.split := rfl

/-! ### updCz -/

@[simp] theorem State.updCz_pending (d : Nat) (f : CzDie → CzDie) : (s.updCz d f).pending = s.pending := rfl
@[simp] theorem State.updCz_free (d : Nat) (f : CzDie → CzDie) : (s.updCz d f).free = s.free := rfl
@[simp] theorem State.updCz_resp (d : Nat) (f : CzDie → CzDie) : (s.updCz d f).resp = s.resp := rfl
@[simp] theorem State.updCz_hostOut (d : Nat) (f : CzDie → CzDie) : (s.updCz d f).hostOut = s.hostOut := rfl
@[simp] theorem State.updCz_linkOut (d : Nat) (f : CzDie → CzDie) : (s.updCz d f).linkOut = s.linkOut := rfl
@[simp] theorem State.updCz_now (d : Nat) (f : CzDie → CzDie) : (s.updCz d f).now = s.now := rfl
@[simp] theorem State.updCz_aligned (d : Nat) (f : CzDie → CzDie) : (s.updCz d f).aligned = s.aligned := rfl
@[simp] theorem State.updCz_stopped (d : Nat) (f : CzDie → CzDie) : (s.updCz d f).stopped = s.stopped := rfl
@[simp] theorem State.updCz_sealRun (d : Nat) (f : CzDie → CzDie) : (s.updCz d f).sealRun = s.sealRun := rfl
@[simp] theorem State.updCz_beats (d : Nat) (f : CzDie → CzDie) : (s.updCz d f).beats = s.beats := rfl
@[simp] theorem State.updCz_cores (d : Nat) (f : CzDie → CzDie) : (s.updCz d f).cores = s.cores := rfl
@[simp] theorem State.updCz_mem (d : Nat) (f : CzDie → CzDie) : (s.updCz d f).mem = s.mem := rfl
@[simp] theorem State.updCz_poison (d : Nat) (f : CzDie → CzDie) : (s.updCz d f).poison = s.poison := rfl
@[simp] theorem State.updCz_log (d : Nat) (f : CzDie → CzDie) : (s.updCz d f).log = s.log := rfl
@[simp] theorem State.updCz_image (d : Nat) (f : CzDie → CzDie) : (s.updCz d f).image = s.image := rfl
@[simp] theorem State.updCz_tenants (d : Nat) (f : CzDie → CzDie) : (s.updCz d f).tenants = s.tenants := rfl
@[simp] theorem State.updCz_pages (d : Nat) (f : CzDie → CzDie) : (s.updCz d f).pages = s.pages := rfl
@[simp] theorem State.updCz_hl (d : Nat) (f : CzDie → CzDie) : (s.updCz d f).hl = s.hl := rfl
@[simp] theorem State.updCz_watched (d : Nat) (f : CzDie → CzDie) : (s.updCz d f).watched = s.watched := rfl
@[simp] theorem State.updCz_watchOut (d : Nat) (f : CzDie → CzDie) : (s.updCz d f).watchOut = s.watchOut := rfl
@[simp] theorem State.updCz_jobs (d : Nat) (f : CzDie → CzDie) : (s.updCz d f).jobs = s.jobs := rfl
@[simp] theorem State.updCz_mc (d : Nat) (f : CzDie → CzDie) : (s.updCz d f).mc = s.mc := rfl
@[simp] theorem State.updCz_frames (d : Nat) (f : CzDie → CzDie) : (s.updCz d f).frames = s.frames := rfl
@[simp] theorem State.updCz_t2 (d : Nat) (f : CzDie → CzDie) : (s.updCz d f).t2 = s.t2 := rfl
@[simp] theorem State.updCz_tiers (d : Nat) (f : CzDie → CzDie) : (s.updCz d f).tiers = s.tiers := rfl
@[simp] theorem State.updCz_nor (d : Nat) (f : CzDie → CzDie) : (s.updCz d f).nor = s.nor := rfl
@[simp] theorem State.updCz_retired (d : Nat) (f : CzDie → CzDie) : (s.updCz d f).retired = s.retired := rfl
@[simp] theorem State.updCz_pm (d : Nat) (f : CzDie → CzDie) : (s.updCz d f).pm = s.pm := rfl
@[simp] theorem State.updCz_guest (d : Nat) (f : CzDie → CzDie) : (s.updCz d f).guest = s.guest := rfl
@[simp] theorem State.updCz_tub (d : Nat) (f : CzDie → CzDie) : (s.updCz d f).tub = s.tub := rfl
@[simp] theorem State.updCz_lists (d : Nat) (f : CzDie → CzDie) : (s.updCz d f).lists = s.lists := rfl
@[simp] theorem State.updCz_nextList (d : Nat) (f : CzDie → CzDie) : (s.updCz d f).nextList = s.nextList := rfl
@[simp] theorem State.updCz_up (d : Nat) (f : CzDie → CzDie) : (s.updCz d f).up = s.up := rfl
@[simp] theorem State.updCz_coll (d : Nat) (f : CzDie → CzDie) : (s.updCz d f).coll = s.coll := rfl
@[simp] theorem State.updCz_ports (d : Nat) (f : CzDie → CzDie) : (s.updCz d f).ports = s.ports := rfl
@[simp] theorem State.updCz_gl (d : Nat) (f : CzDie → CzDie) : (s.updCz d f).gl = s.gl := rfl
@[simp] theorem State.updCz_start (d : Nat) (f : CzDie → CzDie) : (s.updCz d f).start = s.start := rfl
@[simp] theorem State.updCz_dd (d : Nat) (f : CzDie → CzDie) : (s.updCz d f).dd = s.dd := rfl
@[simp] theorem State.updCz_tap (d : Nat) (f : CzDie → CzDie) : (s.updCz d f).tap = s.tap := rfl
@[simp] theorem State.updCz_watch (d : Nat) (f : CzDie → CzDie) : (s.updCz d f).watch = s.watch := rfl
@[simp] theorem State.updCz_split (d : Nat) (f : CzDie → CzDie) : (s.updCz d f).split = s.split := rfl

/-! ### setPort -/

@[simp] theorem State.setPort_pending (p : Nat) (q : Port) : (s.setPort p q).pending = s.pending := rfl
@[simp] theorem State.setPort_free (p : Nat) (q : Port) : (s.setPort p q).free = s.free := rfl
@[simp] theorem State.setPort_resp (p : Nat) (q : Port) : (s.setPort p q).resp = s.resp := rfl
@[simp] theorem State.setPort_hostOut (p : Nat) (q : Port) : (s.setPort p q).hostOut = s.hostOut := rfl
@[simp] theorem State.setPort_linkOut (p : Nat) (q : Port) : (s.setPort p q).linkOut = s.linkOut := rfl
@[simp] theorem State.setPort_now (p : Nat) (q : Port) : (s.setPort p q).now = s.now := rfl
@[simp] theorem State.setPort_aligned (p : Nat) (q : Port) : (s.setPort p q).aligned = s.aligned := rfl
@[simp] theorem State.setPort_stopped (p : Nat) (q : Port) : (s.setPort p q).stopped = s.stopped := rfl
@[simp] theorem State.setPort_sealRun (p : Nat) (q : Port) : (s.setPort p q).sealRun = s.sealRun := rfl
@[simp] theorem State.setPort_beats (p : Nat) (q : Port) : (s.setPort p q).beats = s.beats := rfl
@[simp] theorem State.setPort_cores (p : Nat) (q : Port) : (s.setPort p q).cores = s.cores := rfl
@[simp] theorem State.setPort_mem (p : Nat) (q : Port) : (s.setPort p q).mem = s.mem := rfl
@[simp] theorem State.setPort_poison (p : Nat) (q : Port) : (s.setPort p q).poison = s.poison := rfl
@[simp] theorem State.setPort_log (p : Nat) (q : Port) : (s.setPort p q).log = s.log := rfl
@[simp] theorem State.setPort_image (p : Nat) (q : Port) : (s.setPort p q).image = s.image := rfl
@[simp] theorem State.setPort_tenants (p : Nat) (q : Port) : (s.setPort p q).tenants = s.tenants := rfl
@[simp] theorem State.setPort_pages (p : Nat) (q : Port) : (s.setPort p q).pages = s.pages := rfl
@[simp] theorem State.setPort_hl (p : Nat) (q : Port) : (s.setPort p q).hl = s.hl := rfl
@[simp] theorem State.setPort_watched (p : Nat) (q : Port) : (s.setPort p q).watched = s.watched := rfl
@[simp] theorem State.setPort_watchOut (p : Nat) (q : Port) : (s.setPort p q).watchOut = s.watchOut := rfl
@[simp] theorem State.setPort_jobs (p : Nat) (q : Port) : (s.setPort p q).jobs = s.jobs := rfl
@[simp] theorem State.setPort_mc (p : Nat) (q : Port) : (s.setPort p q).mc = s.mc := rfl
@[simp] theorem State.setPort_frames (p : Nat) (q : Port) : (s.setPort p q).frames = s.frames := rfl
@[simp] theorem State.setPort_t2 (p : Nat) (q : Port) : (s.setPort p q).t2 = s.t2 := rfl
@[simp] theorem State.setPort_tiers (p : Nat) (q : Port) : (s.setPort p q).tiers = s.tiers := rfl
@[simp] theorem State.setPort_nor (p : Nat) (q : Port) : (s.setPort p q).nor = s.nor := rfl
@[simp] theorem State.setPort_retired (p : Nat) (q : Port) : (s.setPort p q).retired = s.retired := rfl
@[simp] theorem State.setPort_pm (p : Nat) (q : Port) : (s.setPort p q).pm = s.pm := rfl
@[simp] theorem State.setPort_guest (p : Nat) (q : Port) : (s.setPort p q).guest = s.guest := rfl
@[simp] theorem State.setPort_tub (p : Nat) (q : Port) : (s.setPort p q).tub = s.tub := rfl
@[simp] theorem State.setPort_lists (p : Nat) (q : Port) : (s.setPort p q).lists = s.lists := rfl
@[simp] theorem State.setPort_nextList (p : Nat) (q : Port) : (s.setPort p q).nextList = s.nextList := rfl
@[simp] theorem State.setPort_up (p : Nat) (q : Port) : (s.setPort p q).up = s.up := rfl
@[simp] theorem State.setPort_cz (p : Nat) (q : Port) : (s.setPort p q).cz = s.cz := rfl
@[simp] theorem State.setPort_coll (p : Nat) (q : Port) : (s.setPort p q).coll = s.coll := rfl
@[simp] theorem State.setPort_gl (p : Nat) (q : Port) : (s.setPort p q).gl = s.gl := rfl
@[simp] theorem State.setPort_start (p : Nat) (q : Port) : (s.setPort p q).start = s.start := rfl
@[simp] theorem State.setPort_dd (p : Nat) (q : Port) : (s.setPort p q).dd = s.dd := rfl
@[simp] theorem State.setPort_tap (p : Nat) (q : Port) : (s.setPort p q).tap = s.tap := rfl
@[simp] theorem State.setPort_watch (p : Nat) (q : Port) : (s.setPort p q).watch = s.watch := rfl
@[simp] theorem State.setPort_split (p : Nat) (q : Port) : (s.setPort p q).split = s.split := rfl

/-! ### updPort -/

@[simp] theorem State.updPort_pending (p : Nat) (f : Port → Port) : (s.updPort p f).pending = s.pending := rfl
@[simp] theorem State.updPort_free (p : Nat) (f : Port → Port) : (s.updPort p f).free = s.free := rfl
@[simp] theorem State.updPort_resp (p : Nat) (f : Port → Port) : (s.updPort p f).resp = s.resp := rfl
@[simp] theorem State.updPort_hostOut (p : Nat) (f : Port → Port) : (s.updPort p f).hostOut = s.hostOut := rfl
@[simp] theorem State.updPort_linkOut (p : Nat) (f : Port → Port) : (s.updPort p f).linkOut = s.linkOut := rfl
@[simp] theorem State.updPort_now (p : Nat) (f : Port → Port) : (s.updPort p f).now = s.now := rfl
@[simp] theorem State.updPort_aligned (p : Nat) (f : Port → Port) : (s.updPort p f).aligned = s.aligned := rfl
@[simp] theorem State.updPort_stopped (p : Nat) (f : Port → Port) : (s.updPort p f).stopped = s.stopped := rfl
@[simp] theorem State.updPort_sealRun (p : Nat) (f : Port → Port) : (s.updPort p f).sealRun = s.sealRun := rfl
@[simp] theorem State.updPort_beats (p : Nat) (f : Port → Port) : (s.updPort p f).beats = s.beats := rfl
@[simp] theorem State.updPort_cores (p : Nat) (f : Port → Port) : (s.updPort p f).cores = s.cores := rfl
@[simp] theorem State.updPort_mem (p : Nat) (f : Port → Port) : (s.updPort p f).mem = s.mem := rfl
@[simp] theorem State.updPort_poison (p : Nat) (f : Port → Port) : (s.updPort p f).poison = s.poison := rfl
@[simp] theorem State.updPort_log (p : Nat) (f : Port → Port) : (s.updPort p f).log = s.log := rfl
@[simp] theorem State.updPort_image (p : Nat) (f : Port → Port) : (s.updPort p f).image = s.image := rfl
@[simp] theorem State.updPort_tenants (p : Nat) (f : Port → Port) : (s.updPort p f).tenants = s.tenants := rfl
@[simp] theorem State.updPort_pages (p : Nat) (f : Port → Port) : (s.updPort p f).pages = s.pages := rfl
@[simp] theorem State.updPort_hl (p : Nat) (f : Port → Port) : (s.updPort p f).hl = s.hl := rfl
@[simp] theorem State.updPort_watched (p : Nat) (f : Port → Port) : (s.updPort p f).watched = s.watched := rfl
@[simp] theorem State.updPort_watchOut (p : Nat) (f : Port → Port) : (s.updPort p f).watchOut = s.watchOut := rfl
@[simp] theorem State.updPort_jobs (p : Nat) (f : Port → Port) : (s.updPort p f).jobs = s.jobs := rfl
@[simp] theorem State.updPort_mc (p : Nat) (f : Port → Port) : (s.updPort p f).mc = s.mc := rfl
@[simp] theorem State.updPort_frames (p : Nat) (f : Port → Port) : (s.updPort p f).frames = s.frames := rfl
@[simp] theorem State.updPort_t2 (p : Nat) (f : Port → Port) : (s.updPort p f).t2 = s.t2 := rfl
@[simp] theorem State.updPort_tiers (p : Nat) (f : Port → Port) : (s.updPort p f).tiers = s.tiers := rfl
@[simp] theorem State.updPort_nor (p : Nat) (f : Port → Port) : (s.updPort p f).nor = s.nor := rfl
@[simp] theorem State.updPort_retired (p : Nat) (f : Port → Port) : (s.updPort p f).retired = s.retired := rfl
@[simp] theorem State.updPort_pm (p : Nat) (f : Port → Port) : (s.updPort p f).pm = s.pm := rfl
@[simp] theorem State.updPort_guest (p : Nat) (f : Port → Port) : (s.updPort p f).guest = s.guest := rfl
@[simp] theorem State.updPort_tub (p : Nat) (f : Port → Port) : (s.updPort p f).tub = s.tub := rfl
@[simp] theorem State.updPort_lists (p : Nat) (f : Port → Port) : (s.updPort p f).lists = s.lists := rfl
@[simp] theorem State.updPort_nextList (p : Nat) (f : Port → Port) : (s.updPort p f).nextList = s.nextList := rfl
@[simp] theorem State.updPort_up (p : Nat) (f : Port → Port) : (s.updPort p f).up = s.up := rfl
@[simp] theorem State.updPort_cz (p : Nat) (f : Port → Port) : (s.updPort p f).cz = s.cz := rfl
@[simp] theorem State.updPort_coll (p : Nat) (f : Port → Port) : (s.updPort p f).coll = s.coll := rfl
@[simp] theorem State.updPort_gl (p : Nat) (f : Port → Port) : (s.updPort p f).gl = s.gl := rfl
@[simp] theorem State.updPort_start (p : Nat) (f : Port → Port) : (s.updPort p f).start = s.start := rfl
@[simp] theorem State.updPort_dd (p : Nat) (f : Port → Port) : (s.updPort p f).dd = s.dd := rfl
@[simp] theorem State.updPort_tap (p : Nat) (f : Port → Port) : (s.updPort p f).tap = s.tap := rfl
@[simp] theorem State.updPort_watch (p : Nat) (f : Port → Port) : (s.updPort p f).watch = s.watch := rfl
@[simp] theorem State.updPort_split (p : Nat) (f : Port → Port) : (s.updPort p f).split = s.split := rfl

/-! ### updGl -/

@[simp] theorem State.updGl_pending (f : GlSt → GlSt) : (s.updGl f).pending = s.pending := rfl
@[simp] theorem State.updGl_free (f : GlSt → GlSt) : (s.updGl f).free = s.free := rfl
@[simp] theorem State.updGl_resp (f : GlSt → GlSt) : (s.updGl f).resp = s.resp := rfl
@[simp] theorem State.updGl_hostOut (f : GlSt → GlSt) : (s.updGl f).hostOut = s.hostOut := rfl
@[simp] theorem State.updGl_linkOut (f : GlSt → GlSt) : (s.updGl f).linkOut = s.linkOut := rfl
@[simp] theorem State.updGl_now (f : GlSt → GlSt) : (s.updGl f).now = s.now := rfl
@[simp] theorem State.updGl_aligned (f : GlSt → GlSt) : (s.updGl f).aligned = s.aligned := rfl
@[simp] theorem State.updGl_stopped (f : GlSt → GlSt) : (s.updGl f).stopped = s.stopped := rfl
@[simp] theorem State.updGl_sealRun (f : GlSt → GlSt) : (s.updGl f).sealRun = s.sealRun := rfl
@[simp] theorem State.updGl_beats (f : GlSt → GlSt) : (s.updGl f).beats = s.beats := rfl
@[simp] theorem State.updGl_cores (f : GlSt → GlSt) : (s.updGl f).cores = s.cores := rfl
@[simp] theorem State.updGl_mem (f : GlSt → GlSt) : (s.updGl f).mem = s.mem := rfl
@[simp] theorem State.updGl_poison (f : GlSt → GlSt) : (s.updGl f).poison = s.poison := rfl
@[simp] theorem State.updGl_log (f : GlSt → GlSt) : (s.updGl f).log = s.log := rfl
@[simp] theorem State.updGl_image (f : GlSt → GlSt) : (s.updGl f).image = s.image := rfl
@[simp] theorem State.updGl_tenants (f : GlSt → GlSt) : (s.updGl f).tenants = s.tenants := rfl
@[simp] theorem State.updGl_pages (f : GlSt → GlSt) : (s.updGl f).pages = s.pages := rfl
@[simp] theorem State.updGl_hl (f : GlSt → GlSt) : (s.updGl f).hl = s.hl := rfl
@[simp] theorem State.updGl_watched (f : GlSt → GlSt) : (s.updGl f).watched = s.watched := rfl
@[simp] theorem State.updGl_watchOut (f : GlSt → GlSt) : (s.updGl f).watchOut = s.watchOut := rfl
@[simp] theorem State.updGl_jobs (f : GlSt → GlSt) : (s.updGl f).jobs = s.jobs := rfl
@[simp] theorem State.updGl_mc (f : GlSt → GlSt) : (s.updGl f).mc = s.mc := rfl
@[simp] theorem State.updGl_frames (f : GlSt → GlSt) : (s.updGl f).frames = s.frames := rfl
@[simp] theorem State.updGl_t2 (f : GlSt → GlSt) : (s.updGl f).t2 = s.t2 := rfl
@[simp] theorem State.updGl_tiers (f : GlSt → GlSt) : (s.updGl f).tiers = s.tiers := rfl
@[simp] theorem State.updGl_nor (f : GlSt → GlSt) : (s.updGl f).nor = s.nor := rfl
@[simp] theorem State.updGl_retired (f : GlSt → GlSt) : (s.updGl f).retired = s.retired := rfl
@[simp] theorem State.updGl_pm (f : GlSt → GlSt) : (s.updGl f).pm = s.pm := rfl
@[simp] theorem State.updGl_guest (f : GlSt → GlSt) : (s.updGl f).guest = s.guest := rfl
@[simp] theorem State.updGl_tub (f : GlSt → GlSt) : (s.updGl f).tub = s.tub := rfl
@[simp] theorem State.updGl_lists (f : GlSt → GlSt) : (s.updGl f).lists = s.lists := rfl
@[simp] theorem State.updGl_nextList (f : GlSt → GlSt) : (s.updGl f).nextList = s.nextList := rfl
@[simp] theorem State.updGl_up (f : GlSt → GlSt) : (s.updGl f).up = s.up := rfl
@[simp] theorem State.updGl_cz (f : GlSt → GlSt) : (s.updGl f).cz = s.cz := rfl
@[simp] theorem State.updGl_coll (f : GlSt → GlSt) : (s.updGl f).coll = s.coll := rfl
@[simp] theorem State.updGl_ports (f : GlSt → GlSt) : (s.updGl f).ports = s.ports := rfl
@[simp] theorem State.updGl_start (f : GlSt → GlSt) : (s.updGl f).start = s.start := rfl
@[simp] theorem State.updGl_dd (f : GlSt → GlSt) : (s.updGl f).dd = s.dd := rfl
@[simp] theorem State.updGl_tap (f : GlSt → GlSt) : (s.updGl f).tap = s.tap := rfl
@[simp] theorem State.updGl_watch (f : GlSt → GlSt) : (s.updGl f).watch = s.watch := rfl
@[simp] theorem State.updGl_split (f : GlSt → GlSt) : (s.updGl f).split = s.split := rfl

/-! ### updPm -/

@[simp] theorem State.updPm_pending (f : PmSt → PmSt) : (s.updPm f).pending = s.pending := rfl
@[simp] theorem State.updPm_free (f : PmSt → PmSt) : (s.updPm f).free = s.free := rfl
@[simp] theorem State.updPm_resp (f : PmSt → PmSt) : (s.updPm f).resp = s.resp := rfl
@[simp] theorem State.updPm_hostOut (f : PmSt → PmSt) : (s.updPm f).hostOut = s.hostOut := rfl
@[simp] theorem State.updPm_linkOut (f : PmSt → PmSt) : (s.updPm f).linkOut = s.linkOut := rfl
@[simp] theorem State.updPm_now (f : PmSt → PmSt) : (s.updPm f).now = s.now := rfl
@[simp] theorem State.updPm_aligned (f : PmSt → PmSt) : (s.updPm f).aligned = s.aligned := rfl
@[simp] theorem State.updPm_stopped (f : PmSt → PmSt) : (s.updPm f).stopped = s.stopped := rfl
@[simp] theorem State.updPm_sealRun (f : PmSt → PmSt) : (s.updPm f).sealRun = s.sealRun := rfl
@[simp] theorem State.updPm_beats (f : PmSt → PmSt) : (s.updPm f).beats = s.beats := rfl
@[simp] theorem State.updPm_cores (f : PmSt → PmSt) : (s.updPm f).cores = s.cores := rfl
@[simp] theorem State.updPm_mem (f : PmSt → PmSt) : (s.updPm f).mem = s.mem := rfl
@[simp] theorem State.updPm_poison (f : PmSt → PmSt) : (s.updPm f).poison = s.poison := rfl
@[simp] theorem State.updPm_log (f : PmSt → PmSt) : (s.updPm f).log = s.log := rfl
@[simp] theorem State.updPm_image (f : PmSt → PmSt) : (s.updPm f).image = s.image := rfl
@[simp] theorem State.updPm_tenants (f : PmSt → PmSt) : (s.updPm f).tenants = s.tenants := rfl
@[simp] theorem State.updPm_pages (f : PmSt → PmSt) : (s.updPm f).pages = s.pages := rfl
@[simp] theorem State.updPm_hl (f : PmSt → PmSt) : (s.updPm f).hl = s.hl := rfl
@[simp] theorem State.updPm_watched (f : PmSt → PmSt) : (s.updPm f).watched = s.watched := rfl
@[simp] theorem State.updPm_watchOut (f : PmSt → PmSt) : (s.updPm f).watchOut = s.watchOut := rfl
@[simp] theorem State.updPm_jobs (f : PmSt → PmSt) : (s.updPm f).jobs = s.jobs := rfl
@[simp] theorem State.updPm_mc (f : PmSt → PmSt) : (s.updPm f).mc = s.mc := rfl
@[simp] theorem State.updPm_frames (f : PmSt → PmSt) : (s.updPm f).frames = s.frames := rfl
@[simp] theorem State.updPm_t2 (f : PmSt → PmSt) : (s.updPm f).t2 = s.t2 := rfl
@[simp] theorem State.updPm_tiers (f : PmSt → PmSt) : (s.updPm f).tiers = s.tiers := rfl
@[simp] theorem State.updPm_nor (f : PmSt → PmSt) : (s.updPm f).nor = s.nor := rfl
@[simp] theorem State.updPm_retired (f : PmSt → PmSt) : (s.updPm f).retired = s.retired := rfl
@[simp] theorem State.updPm_guest (f : PmSt → PmSt) : (s.updPm f).guest = s.guest := rfl
@[simp] theorem State.updPm_tub (f : PmSt → PmSt) : (s.updPm f).tub = s.tub := rfl
@[simp] theorem State.updPm_lists (f : PmSt → PmSt) : (s.updPm f).lists = s.lists := rfl
@[simp] theorem State.updPm_nextList (f : PmSt → PmSt) : (s.updPm f).nextList = s.nextList := rfl
@[simp] theorem State.updPm_up (f : PmSt → PmSt) : (s.updPm f).up = s.up := rfl
@[simp] theorem State.updPm_cz (f : PmSt → PmSt) : (s.updPm f).cz = s.cz := rfl
@[simp] theorem State.updPm_coll (f : PmSt → PmSt) : (s.updPm f).coll = s.coll := rfl
@[simp] theorem State.updPm_ports (f : PmSt → PmSt) : (s.updPm f).ports = s.ports := rfl
@[simp] theorem State.updPm_gl (f : PmSt → PmSt) : (s.updPm f).gl = s.gl := rfl
@[simp] theorem State.updPm_start (f : PmSt → PmSt) : (s.updPm f).start = s.start := rfl
@[simp] theorem State.updPm_dd (f : PmSt → PmSt) : (s.updPm f).dd = s.dd := rfl
@[simp] theorem State.updPm_tap (f : PmSt → PmSt) : (s.updPm f).tap = s.tap := rfl
@[simp] theorem State.updPm_watch (f : PmSt → PmSt) : (s.updPm f).watch = s.watch := rfl
@[simp] theorem State.updPm_split (f : PmSt → PmSt) : (s.updPm f).split = s.split := rfl

/-! ### bump -/

@[simp] theorem State.bump_pending : (s.bump).pending = s.pending := rfl
@[simp] theorem State.bump_resp : (s.bump).resp = s.resp := rfl
@[simp] theorem State.bump_hostOut : (s.bump).hostOut = s.hostOut := rfl
@[simp] theorem State.bump_linkOut : (s.bump).linkOut = s.linkOut := rfl
@[simp] theorem State.bump_now : (s.bump).now = s.now := rfl
@[simp] theorem State.bump_aligned : (s.bump).aligned = s.aligned := rfl
@[simp] theorem State.bump_stopped : (s.bump).stopped = s.stopped := rfl
@[simp] theorem State.bump_sealRun : (s.bump).sealRun = s.sealRun := rfl
@[simp] theorem State.bump_beats : (s.bump).beats = s.beats := rfl
@[simp] theorem State.bump_cores : (s.bump).cores = s.cores := rfl
@[simp] theorem State.bump_mem : (s.bump).mem = s.mem := rfl
@[simp] theorem State.bump_poison : (s.bump).poison = s.poison := rfl
@[simp] theorem State.bump_log : (s.bump).log = s.log := rfl
@[simp] theorem State.bump_image : (s.bump).image = s.image := rfl
@[simp] theorem State.bump_tenants : (s.bump).tenants = s.tenants := rfl
@[simp] theorem State.bump_pages : (s.bump).pages = s.pages := rfl
@[simp] theorem State.bump_hl : (s.bump).hl = s.hl := rfl
@[simp] theorem State.bump_watched : (s.bump).watched = s.watched := rfl
@[simp] theorem State.bump_watchOut : (s.bump).watchOut = s.watchOut := rfl
@[simp] theorem State.bump_jobs : (s.bump).jobs = s.jobs := rfl
@[simp] theorem State.bump_mc : (s.bump).mc = s.mc := rfl
@[simp] theorem State.bump_frames : (s.bump).frames = s.frames := rfl
@[simp] theorem State.bump_t2 : (s.bump).t2 = s.t2 := rfl
@[simp] theorem State.bump_tiers : (s.bump).tiers = s.tiers := rfl
@[simp] theorem State.bump_nor : (s.bump).nor = s.nor := rfl
@[simp] theorem State.bump_retired : (s.bump).retired = s.retired := rfl
@[simp] theorem State.bump_pm : (s.bump).pm = s.pm := rfl
@[simp] theorem State.bump_guest : (s.bump).guest = s.guest := rfl
@[simp] theorem State.bump_tub : (s.bump).tub = s.tub := rfl
@[simp] theorem State.bump_lists : (s.bump).lists = s.lists := rfl
@[simp] theorem State.bump_nextList : (s.bump).nextList = s.nextList := rfl
@[simp] theorem State.bump_up : (s.bump).up = s.up := rfl
@[simp] theorem State.bump_cz : (s.bump).cz = s.cz := rfl
@[simp] theorem State.bump_coll : (s.bump).coll = s.coll := rfl
@[simp] theorem State.bump_ports : (s.bump).ports = s.ports := rfl
@[simp] theorem State.bump_gl : (s.bump).gl = s.gl := rfl
@[simp] theorem State.bump_start : (s.bump).start = s.start := rfl
@[simp] theorem State.bump_dd : (s.bump).dd = s.dd := rfl
@[simp] theorem State.bump_tap : (s.bump).tap = s.tap := rfl
@[simp] theorem State.bump_watch : (s.bump).watch = s.watch := rfl
@[simp] theorem State.bump_split : (s.bump).split = s.split := rfl

/-! ### advanceTo -/

@[simp] theorem State.advanceTo_pending (t : Nat) : (s.advanceTo t).pending = s.pending := rfl
@[simp] theorem State.advanceTo_free (t : Nat) : (s.advanceTo t).free = s.free := rfl
@[simp] theorem State.advanceTo_resp (t : Nat) : (s.advanceTo t).resp = s.resp := rfl
@[simp] theorem State.advanceTo_hostOut (t : Nat) : (s.advanceTo t).hostOut = s.hostOut := rfl
@[simp] theorem State.advanceTo_linkOut (t : Nat) : (s.advanceTo t).linkOut = s.linkOut := rfl
@[simp] theorem State.advanceTo_aligned (t : Nat) : (s.advanceTo t).aligned = s.aligned := rfl
@[simp] theorem State.advanceTo_stopped (t : Nat) : (s.advanceTo t).stopped = s.stopped := rfl
@[simp] theorem State.advanceTo_sealRun (t : Nat) : (s.advanceTo t).sealRun = s.sealRun := rfl
@[simp] theorem State.advanceTo_beats (t : Nat) : (s.advanceTo t).beats = s.beats := rfl
@[simp] theorem State.advanceTo_cores (t : Nat) : (s.advanceTo t).cores = s.cores := rfl
@[simp] theorem State.advanceTo_mem (t : Nat) : (s.advanceTo t).mem = s.mem := rfl
@[simp] theorem State.advanceTo_poison (t : Nat) : (s.advanceTo t).poison = s.poison := rfl
@[simp] theorem State.advanceTo_log (t : Nat) : (s.advanceTo t).log = s.log := rfl
@[simp] theorem State.advanceTo_image (t : Nat) : (s.advanceTo t).image = s.image := rfl
@[simp] theorem State.advanceTo_tenants (t : Nat) : (s.advanceTo t).tenants = s.tenants := rfl
@[simp] theorem State.advanceTo_pages (t : Nat) : (s.advanceTo t).pages = s.pages := rfl
@[simp] theorem State.advanceTo_hl (t : Nat) : (s.advanceTo t).hl = s.hl := rfl
@[simp] theorem State.advanceTo_watched (t : Nat) : (s.advanceTo t).watched = s.watched := rfl
@[simp] theorem State.advanceTo_watchOut (t : Nat) : (s.advanceTo t).watchOut = s.watchOut := rfl
@[simp] theorem State.advanceTo_jobs (t : Nat) : (s.advanceTo t).jobs = s.jobs := rfl
@[simp] theorem State.advanceTo_mc (t : Nat) : (s.advanceTo t).mc = s.mc := rfl
@[simp] theorem State.advanceTo_frames (t : Nat) : (s.advanceTo t).frames = s.frames := rfl
@[simp] theorem State.advanceTo_t2 (t : Nat) : (s.advanceTo t).t2 = s.t2 := rfl
@[simp] theorem State.advanceTo_tiers (t : Nat) : (s.advanceTo t).tiers = s.tiers := rfl
@[simp] theorem State.advanceTo_nor (t : Nat) : (s.advanceTo t).nor = s.nor := rfl
@[simp] theorem State.advanceTo_retired (t : Nat) : (s.advanceTo t).retired = s.retired := rfl
@[simp] theorem State.advanceTo_pm (t : Nat) : (s.advanceTo t).pm = s.pm := rfl
@[simp] theorem State.advanceTo_guest (t : Nat) : (s.advanceTo t).guest = s.guest := rfl
@[simp] theorem State.advanceTo_tub (t : Nat) : (s.advanceTo t).tub = s.tub := rfl
@[simp] theorem State.advanceTo_lists (t : Nat) : (s.advanceTo t).lists = s.lists := rfl
@[simp] theorem State.advanceTo_nextList (t : Nat) : (s.advanceTo t).nextList = s.nextList := rfl
@[simp] theorem State.advanceTo_up (t : Nat) : (s.advanceTo t).up = s.up := rfl
@[simp] theorem State.advanceTo_cz (t : Nat) : (s.advanceTo t).cz = s.cz := rfl
@[simp] theorem State.advanceTo_coll (t : Nat) : (s.advanceTo t).coll = s.coll := rfl
@[simp] theorem State.advanceTo_ports (t : Nat) : (s.advanceTo t).ports = s.ports := rfl
@[simp] theorem State.advanceTo_gl (t : Nat) : (s.advanceTo t).gl = s.gl := rfl
@[simp] theorem State.advanceTo_start (t : Nat) : (s.advanceTo t).start = s.start := rfl
@[simp] theorem State.advanceTo_dd (t : Nat) : (s.advanceTo t).dd = s.dd := rfl
@[simp] theorem State.advanceTo_tap (t : Nat) : (s.advanceTo t).tap = s.tap := rfl
@[simp] theorem State.advanceTo_watch (t : Nat) : (s.advanceTo t).watch = s.watch := rfl
@[simp] theorem State.advanceTo_split (t : Nat) : (s.advanceTo t).split = s.split := rfl

/-! ### What is read back -/

@[simp] theorem State.core_setCore_same (n : Nat) (c : CoreSt) : (s.setCore n c).core n = c := Sp.get_set_same _ _ _ _
theorem State.core_setCore_other {m n : Nat} (c : CoreSt) (h : m ≠ n) : (s.setCore n c).core m = s.core m := Sp.get_set_other _ _ _ h
@[simp] theorem State.core_updCore_same (n : Nat) (f : CoreSt → CoreSt) : (s.updCore n f).core n = f (s.core n) := Sp.get_set_same _ _ _ _
theorem State.core_updCore_other {m n : Nat} (f : CoreSt → CoreSt) (h : m ≠ n) : (s.updCore n f).core m = s.core m := Sp.get_set_other _ _ _ h
@[simp] theorem CoreSt.ctx_setCtx_same (c : CoreSt) (k : Nat) (x : Ctx) : (c.setCtx k x).ctx k = x := Sp.get_set_same _ _ _ _
theorem CoreSt.ctx_setCtx_other (c : CoreSt) {j k : Nat} (x : Ctx) (h : j ≠ k) : (c.setCtx k x).ctx j = c.ctx j := Sp.get_set_other _ _ _ h
@[simp] theorem State.ctx_setCtx_same (n k : Nat) (x : Ctx) : (s.setCtx n k x).ctx n k = x := by
  simp [State.ctx, State.setCtx]
@[simp] theorem State.ctx_updCtx_same (n k : Nat) (f : Ctx → Ctx) : (s.updCtx n k f).ctx n k = f (s.ctx n k) := by
  simp [State.updCtx]
@[simp] theorem State.setCore_setCore (n : Nat) (c d : CoreSt) : (s.setCore n c).setCore n d = s.setCore n d := by
  simp [State.setCore]
@[simp] theorem CoreSt.setCtx_setCtx (c : CoreSt) (k : Nat) (x y : Ctx) : (c.setCtx k x).setCtx k y = c.setCtx k y := by
  simp [CoreSt.setCtx]
@[simp] theorem State.setCtx_setCtx (n k : Nat) (x y : Ctx) : (s.setCtx n k x).setCtx n k y = s.setCtx n k y := by
  simp [State.setCtx]
@[simp] theorem State.tenant_setTenant_same (t : Nat) (x : Tenant) : (s.setTenant t x).tenant t = x := Sp.get_set_same _ _ _ _
theorem State.tenant_setTenant_other {t u : Nat} (x : Tenant) (h : u ≠ t) : (s.setTenant t x).tenant u = s.tenant u := Sp.get_set_other _ _ _ h
@[simp] theorem State.mcOf_setMc_same (d : Nat) (m : McSt) : (s.setMc d m).mcOf d = m := Sp.get_set_same _ _ _ _
theorem State.mcOf_setMc_other {d e : Nat} (m : McSt) (h : e ≠ d) : (s.setMc d m).mcOf e = s.mcOf e := Sp.get_set_other _ _ _ h
@[simp] theorem State.frameAt_setFrame_same (f : Nat) (x : Frame) : (s.setFrame f x).frameAt f = x := Sp.get_set_same _ _ _ _
theorem State.frameAt_setFrame_other {f g : Nat} (x : Frame) (h : g ≠ f) : (s.setFrame f x).frameAt g = s.frameAt g := Sp.get_set_other _ _ _ h
@[simp] theorem State.job_setJob_same (k : Nat) (j : Job) : (s.setJob k j).job k = j := Sp.get_set_same _ _ _ _
theorem State.job_setJob_other {k l : Nat} (j : Job) (h : l ≠ k) : (s.setJob k j).job l = s.job l := Sp.get_set_other _ _ _ h
@[simp] theorem State.tubOf_setTub_same (d : Nat) (t : TubDie) : (s.setTub d t).tubOf d = t := Sp.get_set_same _ _ _ _
@[simp] theorem State.port_setPort_same (p : Nat) (q : Port) : (s.setPort p q).port p = q := Sp.get_set_same _ _ _ _
theorem State.port_setPort_other {p r : Nat} (q : Port) (h : r ≠ p) : (s.setPort p q).port r = s.port r := Sp.get_set_other _ _ _ h
@[simp] theorem State.bump_free : s.bump.free = s.free + 1 := rfl

/-! ### The log: one record, or one repeat count, and nothing else -/

theorem State.logAs_eq (c i e v : Nat) (t : Option Nat) (a : List (Nat × Nat)) :
    s.logAs c i e v t a = { s with log := (s.logAs c i e v t a).log } := by
  unfold State.logAs
  split <;> rfl

@[simp] theorem State.logAs_pending (c i e v : Nat) (t : Option Nat) (a : List (Nat × Nat)) : (s.logAs c i e v t a).pending = s.pending := by
  rw [State.logAs_eq]
@[simp] theorem State.logAs_free (c i e v : Nat) (t : Option Nat) (a : List (Nat × Nat)) : (s.logAs c i e v t a).free = s.free := by
  rw [State.logAs_eq]
@[simp] theorem State.logAs_resp (c i e v : Nat) (t : Option Nat) (a : List (Nat × Nat)) : (s.logAs c i e v t a).resp = s.resp := by
  rw [State.logAs_eq]
@[simp] theorem State.logAs_hostOut (c i e v : Nat) (t : Option Nat) (a : List (Nat × Nat)) : (s.logAs c i e v t a).hostOut = s.hostOut := by
  rw [State.logAs_eq]
@[simp] theorem State.logAs_linkOut (c i e v : Nat) (t : Option Nat) (a : List (Nat × Nat)) : (s.logAs c i e v t a).linkOut = s.linkOut := by
  rw [State.logAs_eq]
@[simp] theorem State.logAs_now (c i e v : Nat) (t : Option Nat) (a : List (Nat × Nat)) : (s.logAs c i e v t a).now = s.now := by
  rw [State.logAs_eq]
@[simp] theorem State.logAs_aligned (c i e v : Nat) (t : Option Nat) (a : List (Nat × Nat)) : (s.logAs c i e v t a).aligned = s.aligned := by
  rw [State.logAs_eq]
@[simp] theorem State.logAs_stopped (c i e v : Nat) (t : Option Nat) (a : List (Nat × Nat)) : (s.logAs c i e v t a).stopped = s.stopped := by
  rw [State.logAs_eq]
@[simp] theorem State.logAs_sealRun (c i e v : Nat) (t : Option Nat) (a : List (Nat × Nat)) : (s.logAs c i e v t a).sealRun = s.sealRun := by
  rw [State.logAs_eq]
@[simp] theorem State.logAs_beats (c i e v : Nat) (t : Option Nat) (a : List (Nat × Nat)) : (s.logAs c i e v t a).beats = s.beats := by
  rw [State.logAs_eq]
@[simp] theorem State.logAs_cores (c i e v : Nat) (t : Option Nat) (a : List (Nat × Nat)) : (s.logAs c i e v t a).cores = s.cores := by
  rw [State.logAs_eq]
@[simp] theorem State.logAs_mem (c i e v : Nat) (t : Option Nat) (a : List (Nat × Nat)) : (s.logAs c i e v t a).mem = s.mem := by
  rw [State.logAs_eq]
@[simp] theorem State.logAs_poison (c i e v : Nat) (t : Option Nat) (a : List (Nat × Nat)) : (s.logAs c i e v t a).poison = s.poison := by
  rw [State.logAs_eq]
@[simp] theorem State.logAs_image (c i e v : Nat) (t : Option Nat) (a : List (Nat × Nat)) : (s.logAs c i e v t a).image = s.image := by
  rw [State.logAs_eq]
@[simp] theorem State.logAs_tenants (c i e v : Nat) (t : Option Nat) (a : List (Nat × Nat)) : (s.logAs c i e v t a).tenants = s.tenants := by
  rw [State.logAs_eq]
@[simp] theorem State.logAs_pages (c i e v : Nat) (t : Option Nat) (a : List (Nat × Nat)) : (s.logAs c i e v t a).pages = s.pages := by
  rw [State.logAs_eq]
@[simp] theorem State.logAs_hl (c i e v : Nat) (t : Option Nat) (a : List (Nat × Nat)) : (s.logAs c i e v t a).hl = s.hl := by
  rw [State.logAs_eq]
@[simp] theorem State.logAs_watched (c i e v : Nat) (t : Option Nat) (a : List (Nat × Nat)) : (s.logAs c i e v t a).watched = s.watched := by
  rw [State.logAs_eq]
@[simp] theorem State.logAs_watchOut (c i e v : Nat) (t : Option Nat) (a : List (Nat × Nat)) : (s.logAs c i e v t a).watchOut = s.watchOut := by
  rw [State.logAs_eq]
@[simp] theorem State.logAs_jobs (c i e v : Nat) (t : Option Nat) (a : List (Nat × Nat)) : (s.logAs c i e v t a).jobs = s.jobs := by
  rw [State.logAs_eq]
@[simp] theorem State.logAs_mc (c i e v : Nat) (t : Option Nat) (a : List (Nat × Nat)) : (s.logAs c i e v t a).mc = s.mc := by
  rw [State.logAs_eq]
@[simp] theorem State.logAs_frames (c i e v : Nat) (t : Option Nat) (a : List (Nat × Nat)) : (s.logAs c i e v t a).frames = s.frames := by
  rw [State.logAs_eq]
@[simp] theorem State.logAs_t2 (c i e v : Nat) (t : Option Nat) (a : List (Nat × Nat)) : (s.logAs c i e v t a).t2 = s.t2 := by
  rw [State.logAs_eq]
@[simp] theorem State.logAs_tiers (c i e v : Nat) (t : Option Nat) (a : List (Nat × Nat)) : (s.logAs c i e v t a).tiers = s.tiers := by
  rw [State.logAs_eq]
@[simp] theorem State.logAs_nor (c i e v : Nat) (t : Option Nat) (a : List (Nat × Nat)) : (s.logAs c i e v t a).nor = s.nor := by
  rw [State.logAs_eq]
@[simp] theorem State.logAs_retired (c i e v : Nat) (t : Option Nat) (a : List (Nat × Nat)) : (s.logAs c i e v t a).retired = s.retired := by
  rw [State.logAs_eq]
@[simp] theorem State.logAs_pm (c i e v : Nat) (t : Option Nat) (a : List (Nat × Nat)) : (s.logAs c i e v t a).pm = s.pm := by
  rw [State.logAs_eq]
@[simp] theorem State.logAs_guest (c i e v : Nat) (t : Option Nat) (a : List (Nat × Nat)) : (s.logAs c i e v t a).guest = s.guest := by
  rw [State.logAs_eq]
@[simp] theorem State.logAs_tub (c i e v : Nat) (t : Option Nat) (a : List (Nat × Nat)) : (s.logAs c i e v t a).tub = s.tub := by
  rw [State.logAs_eq]
@[simp] theorem State.logAs_lists (c i e v : Nat) (t : Option Nat) (a : List (Nat × Nat)) : (s.logAs c i e v t a).lists = s.lists := by
  rw [State.logAs_eq]
@[simp] theorem State.logAs_nextList (c i e v : Nat) (t : Option Nat) (a : List (Nat × Nat)) : (s.logAs c i e v t a).nextList = s.nextList := by
  rw [State.logAs_eq]
@[simp] theorem State.logAs_up (c i e v : Nat) (t : Option Nat) (a : List (Nat × Nat)) : (s.logAs c i e v t a).up = s.up := by
  rw [State.logAs_eq]
@[simp] theorem State.logAs_cz (c i e v : Nat) (t : Option Nat) (a : List (Nat × Nat)) : (s.logAs c i e v t a).cz = s.cz := by
  rw [State.logAs_eq]
@[simp] theorem State.logAs_coll (c i e v : Nat) (t : Option Nat) (a : List (Nat × Nat)) : (s.logAs c i e v t a).coll = s.coll := by
  rw [State.logAs_eq]
@[simp] theorem State.logAs_ports (c i e v : Nat) (t : Option Nat) (a : List (Nat × Nat)) : (s.logAs c i e v t a).ports = s.ports := by
  rw [State.logAs_eq]
@[simp] theorem State.logAs_gl (c i e v : Nat) (t : Option Nat) (a : List (Nat × Nat)) : (s.logAs c i e v t a).gl = s.gl := by
  rw [State.logAs_eq]
@[simp] theorem State.logAs_start (c i e v : Nat) (t : Option Nat) (a : List (Nat × Nat)) : (s.logAs c i e v t a).start = s.start := by
  rw [State.logAs_eq]
@[simp] theorem State.logAs_dd (c i e v : Nat) (t : Option Nat) (a : List (Nat × Nat)) : (s.logAs c i e v t a).dd = s.dd := by
  rw [State.logAs_eq]
@[simp] theorem State.logAs_tap (c i e v : Nat) (t : Option Nat) (a : List (Nat × Nat)) : (s.logAs c i e v t a).tap = s.tap := by
  rw [State.logAs_eq]
@[simp] theorem State.logAs_watch (c i e v : Nat) (t : Option Nat) (a : List (Nat × Nat)) : (s.logAs c i e v t a).watch = s.watch := by
  rw [State.logAs_eq]
@[simp] theorem State.logAs_split (c i e v : Nat) (t : Option Nat) (a : List (Nat × Nat)) : (s.logAs c i e v t a).split = s.split := by
  rw [State.logAs_eq]

end Sys2Proof.Machine
end

