-- ==== Sys2Proof/Laws/Memory.lean ====
section
/-!
SUPPORT. Laws of memory: read after write, writes elsewhere, and that every memory operation keeps the canonical form.
-/

namespace Sys2Proof.Machine

theorem rdByte_wrByte_same (m : Sp Byte) (a : Nat) (b : Byte) : rdByte (wrByte m a b) a = b := Sp.get_set_same _ _ _ _
theorem rdByte_wrByte_other (m : Sp Byte) {a c : Nat} (b : Byte) (h : c ≠ a) : rdByte (wrByte m a b) c = rdByte m c :=
  Sp.get_set_other _ _ _ h

/-- A write of bytes leaves every byte outside its range alone. -/
theorem rdByte_wrBytes_outside (bs : List Byte) : ∀ (m : Sp Byte) (a c : Nat), (c < a ∨ a + bs.length ≤ c) →
    rdByte (wrBytes m a bs) c = rdByte m c := by
  induction bs with
  | nil => intros; rfl
  | cons b bs ih =>
    intro m a c h
    simp only [List.length_cons] at h
    rw [wrBytes, ih _ _ _ (by omega), rdByte_wrByte_other _ _ (by omega)]

/-- A byte of the range reads as written. -/
theorem rdByte_wrBytes_inside (bs : List Byte) : ∀ (m : Sp Byte) (a i : Nat) (h : i < bs.length),
    rdByte (wrBytes m a bs) (a + i) = bs[i] := by
  induction bs with
  | nil => intro m a i h; simp at h
  | cons b bs ih =>
    intro m a i h
    cases i with
    | zero => rw [wrBytes, rdByte_wrBytes_outside _ _ _ _ (by omega)]; simpa using rdByte_wrByte_same m a b
    | succ i =>
      have h' : i < bs.length := by simpa using h
      have := ih (wrByte m a b) (a + 1) i h'
      rw [wrBytes, show a + (i + 1) = a + 1 + i by omega, this]
      simp

theorem rdBytes_length (m : Sp Byte) (n : Nat) : ∀ a, (rdBytes m a n).length = n := by
  induction n with
  | zero => intro a; rfl
  | succ n ih => intro a; simp [rdBytes, ih]

/-- What was written is read back. -/
theorem rdBytes_wrBytes_same (bs : List Byte) : ∀ (m : Sp Byte) (a : Nat), rdBytes (wrBytes m a bs) a bs.length = bs := by
  intro m a
  apply List.ext_getElem (rdBytes_length _ _ _)
  intro i h1 h2
  have hget : ∀ (n : Nat) (m : Sp Byte) (a i : Nat) (h : i < (rdBytes m a n).length), (rdBytes m a n)[i] = rdByte m (a + i) := by
    intro n
    induction n with
    | zero => intro m a i h; simp [rdBytes] at h
    | succ n ih =>
      intro m a i h
      cases i with
      | zero => simp [rdBytes]
      | succ i =>
        simp only [rdBytes, List.getElem_cons_succ]
        rw [ih]
        congr 1
        omega
  rw [hget, rdByte_wrBytes_inside bs m a i h2]

/-! ### The canonical form -/

theorem Memory.wf_wrByte (m : Sp Byte) (a : Nat) (b : Byte) (h : Memory.wf m = true) : Memory.wf (wrByte m a b) = true :=
  Sp.wf_set _ _ _ _ h

theorem Memory.wf_wrBytes (bs : List Byte) : ∀ (m : Sp Byte) (a : Nat), Memory.wf m = true → Memory.wf (wrBytes m a bs) = true := by
  induction bs with
  | nil => intro m a h; exact h
  | cons b bs ih => intro m a h; exact ih _ _ (Memory.wf_wrByte m a b h)

theorem Memory.wf_xorBytes (bs : List Byte) : ∀ (m : Sp Byte) (a : Nat), Memory.wf m = true → Memory.wf (xorBytes m a bs) = true := by
  induction bs with
  | nil => intro m a h; exact h
  | cons b bs ih => intro m a h; exact ih _ _ (Memory.wf_wrByte m a _ h)

theorem Memory.wf_eraseRange (m : Sp Byte) (a b : Nat) (h : Memory.wf m = true) : Memory.wf (Sp.eraseRange a b m) = true :=
  Sp.wf_eraseRange _ _ _ _ h

theorem Memory.wf_norPut (bs : List Byte) : ∀ (m : Sp Byte) (a : Nat), Sp.wf 0xFF#8 m = true → Sp.wf 0xFF#8 (norPut m a bs) = true := by
  induction bs with
  | nil => intro m a h; exact h
  | cons b bs ih => intro m a h; exact ih _ _ (Sp.wf_set _ _ _ _ h)

theorem Memory.wf_setSram (s : State) (n off : Nat) (bs : List Byte) (h : Memory.wf s.mem = true) :
    Memory.wf (s.setSram n off bs).mem = true := Memory.wf_wrBytes bs _ _ h

/-- Reset lists nothing. -/
theorem Memory.wf_reset : Memory.wf State.reset.mem = true := rfl

end Sys2Proof.Machine
end

