-- ==== Sys2Proof/Laws/PerInstr.lean ====
section
/-!
SUPPORT. What holds of every command as syntax, one lemma per command: a well-formed command addresses a unit that the module has (R14).
-/

namespace Sys2Proof.Laws.Sited

open Machine

/-- The unit of the module that a command addresses (R14): a core, a compute die, a Griuk Link port, a tenant, a job slot, or the module
as a whole. -/
inductive Site where
  | core (n : Nat)
  | die (d : Nat)
  | port (p : Nat)
  | tenant (t : Nat)
  | jobSlot (k : Nat)
  | module
deriving DecidableEq, Repr

/-- Whether the module has the unit. -/
def Site.exists_ : Site → Bool
  | .core n => coreOk n
  | .die d => dieOk d
  | .port p => portOk p
  | .tenant t => tenantOk t
  | .jobSlot k => below 16 k
  | .module => true

/-- The unit that each command addresses. -/
def siteOf (i : Instr) : Site :=
  match i with
  | .registerWrite _ _ _ _ _ => .module
  | .registerReadClear _ _ _ _ => .module
  | .registerSplitLowRead _ _ => .module
  | .beatStart _ _ _ => .module
  | .slotStart core => .core core
  | .fillYield core => .core core
  | .contextSaved core => .core core
  | .contextRestored core => .core core
  | .drain _ core => .core core
  | .resume _ core => .core core
  | .bankSwitchRequest _ core => .core core
  | .bankSwitchCancel _ core => .core core
  | .programWordCommit _ core _ => .core core
  | .engineDispatch core => .core core
  | .waitGroupRelease core _ => .core core
  | .nop core _ => .core core
  | .jump core _ => .core core
  | .branchNz core _ => .core core
  | .branchZ core _ => .core core
  | .loop core _ => .core core
  | .loopEnd core _ => .core core
  | .fence core _ => .core core
  | .fenceComplete core => .core core
  | .tickEnd core _ => .core core
  | .tickEndRetire core => .core core
  | .halt core _ => .core core
  | .haltRetire core => .core core
  | .readFlags core _ => .core core
  | .clearFlags core _ => .core core
  | .movi core _ => .core core
  | .add core _ => .core core
  | .sub core _ => .core core
  | .mul core _ => .core core
  | .and core _ => .core core
  | .or core _ => .core core
  | .xor core _ => .core core
  | .shl core _ => .core core
  | .shr core _ => .core core
  | .sltu core _ => .core core
  | .addi core _ => .core core
  | .tseq core _ => .core core
  | .tseqConv core _ => .core core
  | .unitComplete core => .core core
  | .convSet core _ => .core core
  | .ballastHoldExpiry core _ => .core core
  | .ballastRampUp core _ => .core core
  | .vsetsave core _ => .core core
  | .vsrSet core _ => .core core
  | .vload core _ => .core core
  | .vstore core _ => .core core
  | .vstoreArrival core => .core core
  | .vadd core _ => .core core
  | .vsub core _ => .core core
  | .vmul core _ => .core core
  | .vfma core _ => .core core
  | .vmax core _ => .core core
  | .vmin core _ => .core core
  | .vabs core _ => .core core
  | .vneg core _ => .core core
  | .vcopy core _ => .core core
  | .vtrans core _ => .core core
  | .vdrop core _ => .core core
  | .vrcp core _ => .core core
  | .vrsqrt core _ => .core core
  | .vsqrt core _ => .core core
  | .vexp core _ => .core core
  | .vexp2 core _ => .core core
  | .vlog2 core _ => .core core
  | .vtanh core _ => .core core
  | .vsigmoid core _ => .core core
  | .vsin core _ => .core core
  | .vcos core _ => .core core
  | .vrsum core _ => .core core
  | .vrsumsq core _ => .core core
  | .vrmax core _ => .core core
  | .vcsum core _ => .core core
  | .vcsumsq core _ => .core core
  | .vcmax core _ => .core core
  | .vrLoad core _ _ => .core core
  | .vrStore core _ _ => .core core
  | .vrFrombuf core _ _ _ => .core core
  | .vrOp core _ _ _ _ _ => .core core
  | .farm core _ => .core core
  | .sxfer core _ => .core core
  | .chunkArrival core => .core core
  | .transferSuspend core => .core core
  | .faultResolved tenant _ => .tenant tenant
  | .peaPut core _ => .core core
  | .peaGet core _ => .core core
  | .peaAdd core _ => .core core
  | .peaArrival core _ => .core core
  | .tier1Read _ _ _ => .module
  | .tier1Write _ _ _ _ => .module
  | .mergedWrite _ _ _ _ => .module
  | .frameStart die _ => .die die
  | .perBankRefresh die _ _ => .die die
  | .refreshManagement die _ _ _ => .die die
  | .modeRegisterReadout die _ => .die die
  | .pageRetire _ die _ => .die die
  | .retireComplete die _ => .die die
  | .retirementWriteTimeout die => .die die
  | .zeroFillComplete => .module
  | .tbList core _ => .core core
  | .tuberRecordStart _ => .module
  | .tput _ => .module
  | .tget _ => .module
  | .tlatch _ => .module
  | .tmv _ => .module
  | .tsq _ => .module
  | .tupd _ => .module
  | .tarm _ => .module
  | .tewAdd _ => .module
  | .tewMul _ => .module
  | .tewFma _ => .module
  | .tewMax _ => .module
  | .tewExp _ => .module
  | .tewGate _ => .module
  | .tewRotary _ => .module
  | .tewConvert _ => .module
  | .tewRowMax _ => .module
  | .tewRowSum _ => .module
  | .tewDivide _ => .module
  | .tbListComplete _ => .module
  | .t2Open tenant _ => .tenant tenant
  | .t2Write tenant _ => .tenant tenant
  | .t2Seal tenant _ => .tenant tenant
  | .t2SealCommit tenant _ _ => .tenant tenant
  | .t2Abort tenant _ => .tenant tenant
  | .t2Delete tenant _ => .tenant tenant
  | .heatEpochEnd => .module
  | .promotionBegin => .module
  | .promotionCopyComplete => .module
  | .quotaChange _ tenant _ _ => .tenant tenant
  | .updStep core _ => .core core
  | .updSnap core _ => .core core
  | .updApply core _ => .core core
  | .updAdvance core _ => .core core
  | .gradientRecordLanded slot _ _ _ => .jobSlot slot
  | .globalNormComplete slot => .jobSlot slot
  | .updateStageEnd slot => .jobSlot slot
  | .segAck slot => .jobSlot slot
  | .endAck slot _ _ => .jobSlot slot
  | .compressBlock die _ => .die die
  | .expandBlock die _ => .die die
  | .portTraining port _ => .port port
  | .trainingStepTimeout port => .port port
  | .trainingRetry port => .port port
  | .dataFlit port _ _ => .port port
  | .controlFlit port _ _ _ => .port port
  | .ackTimeout port => .port port
  | .fastRetrain port _ => .port port
  | .fastRetrainTimeout port => .port port
  | .put f => .port f.port
  | .get f => .port f.port
  | .getResp port => .port port
  | .atomic f => .port f.port
  | .collSeg port => .port port
  | .ack port => .port port
  | .time port => .port port
  | .fenceNotice port => .port port
  | .beacon port => .port port
  | .beaconAck port => .port port
  | .suspect port => .port port
  | .propose port => .port port
  | .drained port => .port port
  | .install port => .port port
  | .join port => .port port
  | .leave port => .port port
  | .drainMiss port => .port port
  | .beaconTick => .module
  | .beaconAckDeadline => .module
  | .linkSilent port => .port port
  | .leaseExpiry => .module
  | .declaration _ => .module
  | .succession => .module
  | .drainDone => .module
  | .drainedDeadline => .module
  | .drainMessageTimeout => .module
  | .proposalTimeout => .module
  | .fragmentTimeout => .module
  | .heldFrameTimeout => .module
  | .outOfTime => .module
  | .gather core _ => .core core
  | .rscat core _ => .core core
  | .allred core _ => .core core
  | .perm core _ => .core core
  | .collectiveComplete _ => .module
  | .attach _ _ => .module
  | .detach _ _ => .module
  | .heartbeat _ => .module
  | .heartbeatTimeout => .module
  | .hostLinkDown => .module
  | .hostPortReset _ _ _ => .module
  | .hreg _ => .module
  | .dreg _ => .module
  | .rrel _ => .module
  | .dbell _ => .module
  | .qset _ => .module
  | .qreset _ => .module
  | .doorbell tenant _ => .tenant tenant
  | .jobStart tenant _ => .tenant tenant
  | .jobStop tenant _ => .tenant tenant
  | .fenceCommand tenant _ => .tenant tenant
  | .tbSubmit tenant _ => .tenant tenant
  | .reshard tenant _ => .tenant tenant
  | .hqPost core _ => .core core
  | .hqTake core _ _ => .core core
  | .hqResume core _ => .core core
  | .placementWrite _ _ _ => .module
  | .placementNotify _ _ _ => .module
  | .cxlMemAccess _ _ _ _ => .module
  | .hostDmaComplete _ _ _ => .module
  | .hostDmaTimeout _ => .module
  | .powerGood => .module
  | .startStage1 _ => .module
  | .startStage2 _ => .module
  | .startStage3 _ => .module
  | .stageLimitTimeout _ => .module
  | .watchdogTimeout _ => .module
  | .referenceLoss _ => .module
  | .d2dLinkFault _ _ _ _ => .module
  | .guestMessage _ _ => .module
  | .guestCommandTimeout _ => .module
  | .guestReady => .module
  | .guestReadyTimeout => .module
  | .status => .module
  | .norOpen _ => .module
  | .norWrite _ _ => .module
  | .norClose _ _ => .module
  | .release => .module
  | .reset => .module
  | .testUnlock _ _ => .module
  | .logRead _ => .module
  | .idcode => .module
  | .samplePreload _ => .module
  | .extest => .module
  | .dieWrapperSelect => .module
  | .instrumentAccess _ => .module
  | .bypass => .module
  | .testReset => .module
  | .sensorSample _ => .module
  | .inputSample _ _ => .module
  | .powerLoss => .module
  | .crumbSealTimeout => .module
  | .overvoltageDisconnect => .module
  | .modEnLow => .module
  | .onTimeTick => .module
  | .watchRecordAck => .module
  | .watchAckTimeout => .module
  | .takeoverTimeout => .module
  | .plannedTakeoverTimeout => .module
  | .fullModuleTest => .module
  | .beaconModeTimeout port => .port port
  | .leaderLeaseExpiry => .module
  | .watchSessionRecord _ _ => .module
  | .crumbSealComplete => .module
  | .guestResetRelease => .module
  | .holdUpBoostComplete _ => .module
  | .p3v3AuxRise _ => .module
  | .joinBatchInterval => .module
  | .fullModuleTestComplete _ => .module
  | .commandTakeWindow => .module

/-- A well-formed command addresses a unit of the module. -/
def Statement (i : Instr) : Prop := i.wellFormed = true → (siteOf i).exists_ = true

theorem registerWrite (who : Who) (width : Nat) (off : Nat) (value : Nat) (hwSet : Nat) : Statement (.registerWrite who width off value hwSet) := fun _ => rfl
theorem registerReadClear (who : Who) (width : Nat) (off : Nat) (hwAdd : Nat) : Statement (.registerReadClear who width off hwAdd) := fun _ => rfl
theorem registerSplitLowRead (who : Who) (off : Nat) : Statement (.registerSplitLowRead who off) := fun _ => rfl
theorem beatStart (chans : List ChanVisit) (links : List LinkVisit) (sensors : List Nat) : Statement (.beatStart chans links sensors) := fun _ => rfl
theorem slotStart (core : Nat) : Statement (.slotStart core) := fun h => h
theorem fillYield (core : Nat) : Statement (.fillYield core) := fun h => h
theorem contextSaved (core : Nat) : Statement (.contextSaved core) := fun h => h
theorem contextRestored (core : Nat) : Statement (.contextRestored core) := fun h => h
theorem drain (who : Who) (core : Nat) : Statement (.drain who core) := fun h => (Bool.and_eq_true_iff.mp h).2
theorem resume (who : Who) (core : Nat) : Statement (.resume who core) := fun h => (Bool.and_eq_true_iff.mp h).2
theorem bankSwitchRequest (who : Who) (core : Nat) : Statement (.bankSwitchRequest who core) := fun h => (Bool.and_eq_true_iff.mp h).2
theorem bankSwitchCancel (who : Who) (core : Nat) : Statement (.bankSwitchCancel who core) := fun h => (Bool.and_eq_true_iff.mp h).2
theorem programWordCommit (who : Who) (core : Nat) (data3 : W32) : Statement (.programWordCommit who core data3) := fun h => (Bool.and_eq_true_iff.mp h).2
theorem engineDispatch (core : Nat) : Statement (.engineDispatch core) := fun h => h
theorem waitGroupRelease (core : Nat) (eng : Option Eng) : Statement (.waitGroupRelease core eng) := fun h => h
theorem nop (core : Nat) (ecc : Ecc) : Statement (.nop core ecc) := fun h => h
theorem jump (core : Nat) (ecc : Ecc) : Statement (.jump core ecc) := fun h => h
theorem branchNz (core : Nat) (ecc : Ecc) : Statement (.branchNz core ecc) := fun h => h
theorem branchZ (core : Nat) (ecc : Ecc) : Statement (.branchZ core ecc) := fun h => h
theorem loop (core : Nat) (ecc : Ecc) : Statement (.loop core ecc) := fun h => h
theorem loopEnd (core : Nat) (ecc : Ecc) : Statement (.loopEnd core ecc) := fun h => h
theorem fence (core : Nat) (ecc : Ecc) : Statement (.fence core ecc) := fun h => h
theorem fenceComplete (core : Nat) : Statement (.fenceComplete core) := fun h => h
theorem tickEnd (core : Nat) (ecc : Ecc) : Statement (.tickEnd core ecc) := fun h => h
theorem tickEndRetire (core : Nat) : Statement (.tickEndRetire core) := fun h => h
theorem halt (core : Nat) (ecc : Ecc) : Statement (.halt core ecc) := fun h => h
theorem haltRetire (core : Nat) : Statement (.haltRetire core) := fun h => h
theorem readFlags (core : Nat) (ecc : Ecc) : Statement (.readFlags core ecc) := fun h => h
theorem clearFlags (core : Nat) (ecc : Ecc) : Statement (.clearFlags core ecc) := fun h => h
theorem movi (core : Nat) (ecc : Ecc) : Statement (.movi core ecc) := fun h => h
theorem add (core : Nat) (ecc : Ecc) : Statement (.add core ecc) := fun h => h
theorem sub (core : Nat) (ecc : Ecc) : Statement (.sub core ecc) := fun h => h
theorem mul (core : Nat) (ecc : Ecc) : Statement (.mul core ecc) := fun h => h
theorem and (core : Nat) (ecc : Ecc) : Statement (.and core ecc) := fun h => h
theorem or (core : Nat) (ecc : Ecc) : Statement (.or core ecc) := fun h => h
theorem xor (core : Nat) (ecc : Ecc) : Statement (.xor core ecc) := fun h => h
theorem shl (core : Nat) (ecc : Ecc) : Statement (.shl core ecc) := fun h => h
theorem shr (core : Nat) (ecc : Ecc) : Statement (.shr core ecc) := fun h => h
theorem sltu (core : Nat) (ecc : Ecc) : Statement (.sltu core ecc) := fun h => h
theorem addi (core : Nat) (ecc : Ecc) : Statement (.addi core ecc) := fun h => h
theorem tseq (core : Nat) (ecc : Ecc) : Statement (.tseq core ecc) := fun h => h
theorem tseqConv (core : Nat) (ecc : Ecc) : Statement (.tseqConv core ecc) := fun h => h
theorem unitComplete (core : Nat) : Statement (.unitComplete core) := fun h => h
theorem convSet (core : Nat) (ecc : Ecc) : Statement (.convSet core ecc) := fun h => h
theorem ballastHoldExpiry (core : Nat) (array : Nat) : Statement (.ballastHoldExpiry core array) := fun h => (Bool.and_eq_true_iff.mp h).1
theorem ballastRampUp (core : Nat) (array : Nat) : Statement (.ballastRampUp core array) := fun h => (Bool.and_eq_true_iff.mp h).1
theorem vsetsave (core : Nat) (ecc : Ecc) : Statement (.vsetsave core ecc) := fun h => h
theorem vsrSet (core : Nat) (ecc : Ecc) : Statement (.vsrSet core ecc) := fun h => h
theorem vload (core : Nat) (ecc : Ecc) : Statement (.vload core ecc) := fun h => h
theorem vstore (core : Nat) (ecc : Ecc) : Statement (.vstore core ecc) := fun h => h
theorem vstoreArrival (core : Nat) : Statement (.vstoreArrival core) := fun h => h
theorem vadd (core : Nat) (ecc : Ecc) : Statement (.vadd core ecc) := fun h => h
theorem vsub (core : Nat) (ecc : Ecc) : Statement (.vsub core ecc) := fun h => h
theorem vmul (core : Nat) (ecc : Ecc) : Statement (.vmul core ecc) := fun h => h
theorem vfma (core : Nat) (ecc : Ecc) : Statement (.vfma core ecc) := fun h => h
theorem vmax (core : Nat) (ecc : Ecc) : Statement (.vmax core ecc) := fun h => h
theorem vmin (core : Nat) (ecc : Ecc) : Statement (.vmin core ecc) := fun h => h
theorem vabs (core : Nat) (ecc : Ecc) : Statement (.vabs core ecc) := fun h => h
theorem vneg (core : Nat) (ecc : Ecc) : Statement (.vneg core ecc) := fun h => h
theorem vcopy (core : Nat) (ecc : Ecc) : Statement (.vcopy core ecc) := fun h => h
theorem vtrans (core : Nat) (ecc : Ecc) : Statement (.vtrans core ecc) := fun h => h
theorem vdrop (core : Nat) (ecc : Ecc) : Statement (.vdrop core ecc) := fun h => h
theorem vrcp (core : Nat) (ecc : Ecc) : Statement (.vrcp core ecc) := fun h => h
theorem vrsqrt (core : Nat) (ecc : Ecc) : Statement (.vrsqrt core ecc) := fun h => h
theorem vsqrt (core : Nat) (ecc : Ecc) : Statement (.vsqrt core ecc) := fun h => h
theorem vexp (core : Nat) (ecc : Ecc) : Statement (.vexp core ecc) := fun h => h
theorem vexp2 (core : Nat) (ecc : Ecc) : Statement (.vexp2 core ecc) := fun h => h
theorem vlog2 (core : Nat) (ecc : Ecc) : Statement (.vlog2 core ecc) := fun h => h
theorem vtanh (core : Nat) (ecc : Ecc) : Statement (.vtanh core ecc) := fun h => h
theorem vsigmoid (core : Nat) (ecc : Ecc) : Statement (.vsigmoid core ecc) := fun h => h
theorem vsin (core : Nat) (ecc : Ecc) : Statement (.vsin core ecc) := fun h => h
theorem vcos (core : Nat) (ecc : Ecc) : Statement (.vcos core ecc) := fun h => h
theorem vrsum (core : Nat) (ecc : Ecc) : Statement (.vrsum core ecc) := fun h => h
theorem vrsumsq (core : Nat) (ecc : Ecc) : Statement (.vrsumsq core ecc) := fun h => h
theorem vrmax (core : Nat) (ecc : Ecc) : Statement (.vrmax core ecc) := fun h => h
theorem vcsum (core : Nat) (ecc : Ecc) : Statement (.vcsum core ecc) := fun h => h
theorem vcsumsq (core : Nat) (ecc : Ecc) : Statement (.vcsumsq core ecc) := fun h => h
theorem vcmax (core : Nat) (ecc : Ecc) : Statement (.vcmax core ecc) := fun h => h
theorem vrLoad (core : Nat) (reg : Nat) (off : Nat) : Statement (.vrLoad core reg off) := fun h => (Bool.and_eq_true_iff.mp (Bool.and_eq_true_iff.mp h).1).1
theorem vrStore (core : Nat) (reg : Nat) (off : Nat) : Statement (.vrStore core reg off) := fun h => (Bool.and_eq_true_iff.mp (Bool.and_eq_true_iff.mp h).1).1
theorem vrFrombuf (core : Nat) (reg : Nat) (buf : Nat) (row : Nat) : Statement (.vrFrombuf core reg buf row) := fun h => (Bool.and_eq_true_iff.mp (Bool.and_eq_true_iff.mp (Bool.and_eq_true_iff.mp h).1).1).1
theorem vrOp (core : Nat) (opc : Nat) (dst : Nat) (a : Nat) (b : Nat) (c : Nat) : Statement (.vrOp core opc dst a b c) := fun h => (Bool.and_eq_true_iff.mp (Bool.and_eq_true_iff.mp (Bool.and_eq_true_iff.mp (Bool.and_eq_true_iff.mp (Bool.and_eq_true_iff.mp h).1).1).1).1).1
theorem farm (core : Nat) (ecc : Ecc) : Statement (.farm core ecc) := fun h => h
theorem sxfer (core : Nat) (ecc : Ecc) : Statement (.sxfer core ecc) := fun h => h
theorem chunkArrival (core : Nat) : Statement (.chunkArrival core) := fun h => h
theorem transferSuspend (core : Nat) : Statement (.transferSuspend core) := fun h => h
theorem faultResolved (tenant : Nat) (va : Nat) : Statement (.faultResolved tenant va) := fun h => (Bool.and_eq_true_iff.mp h).1
theorem peaPut (core : Nat) (ecc : Ecc) : Statement (.peaPut core ecc) := fun h => h
theorem peaGet (core : Nat) (ecc : Ecc) : Statement (.peaGet core ecc) := fun h => h
theorem peaAdd (core : Nat) (ecc : Ecc) : Statement (.peaAdd core ecc) := fun h => h
theorem peaArrival (core : Nat) (target : Nat) : Statement (.peaArrival core target) := fun h => h
theorem tier1Read (who : Who) (addr : Nat) (ecc : Ecc) : Statement (.tier1Read who addr ecc) := fun _ => rfl
theorem tier1Write (who : Who) (addr : Nat) (data : Entry) (poison : Bool) : Statement (.tier1Write who addr data poison) := fun _ => rfl
theorem mergedWrite (who : Who) (addr : Nat) (data : List Byte) (ecc : Ecc) : Statement (.mergedWrite who addr data ecc) := fun _ => rfl
theorem frameStart (die : Nat) (f : FrameRep) : Statement (.frameStart die f) :=
  fun h => (Bool.and_eq_true_iff.mp (Bool.and_eq_true_iff.mp h).1).1
theorem perBankRefresh (die : Nat) (ch : Nat) (rank : Nat) : Statement (.perBankRefresh die ch rank) := fun h => (Bool.and_eq_true_iff.mp (Bool.and_eq_true_iff.mp h).1).1
theorem refreshManagement (die : Nat) (ch : Nat) (rank : Nat) (bank : Nat) : Statement (.refreshManagement die ch rank bank) := fun h => (Bool.and_eq_true_iff.mp (Bool.and_eq_true_iff.mp (Bool.and_eq_true_iff.mp h).1).1).1
theorem modeRegisterReadout (die : Nat) (codes : List (Nat × Bool)) : Statement (.modeRegisterReadout die codes) := fun h => h
theorem pageRetire (who : Who) (die : Nat) (page : Nat) : Statement (.pageRetire who die page) := fun h => (Bool.and_eq_true_iff.mp (Bool.and_eq_true_iff.mp h).1).2
theorem retireComplete (die : Nat) (ok : Bool) : Statement (.retireComplete die ok) := fun h => h
theorem retirementWriteTimeout (die : Nat) : Statement (.retirementWriteTimeout die) := fun h => h
theorem zeroFillComplete : Statement .zeroFillComplete := fun _ => rfl
theorem tbList (core : Nat) (ecc : Ecc) : Statement (.tbList core ecc) := fun h => h
theorem tuberRecordStart (r : RecordAt) : Statement (.tuberRecordStart r) := fun _ => rfl
theorem tput (list : Nat) : Statement (.tput list) := fun _ => rfl
theorem tget (list : Nat) : Statement (.tget list) := fun _ => rfl
theorem tlatch (list : Nat) : Statement (.tlatch list) := fun _ => rfl
theorem tmv (list : Nat) : Statement (.tmv list) := fun _ => rfl
theorem tsq (list : Nat) : Statement (.tsq list) := fun _ => rfl
theorem tupd (list : Nat) : Statement (.tupd list) := fun _ => rfl
theorem tarm (list : Nat) : Statement (.tarm list) := fun _ => rfl
theorem tewAdd (list : Nat) : Statement (.tewAdd list) := fun _ => rfl
theorem tewMul (list : Nat) : Statement (.tewMul list) := fun _ => rfl
theorem tewFma (list : Nat) : Statement (.tewFma list) := fun _ => rfl
theorem tewMax (list : Nat) : Statement (.tewMax list) := fun _ => rfl
theorem tewExp (list : Nat) : Statement (.tewExp list) := fun _ => rfl
theorem tewGate (list : Nat) : Statement (.tewGate list) := fun _ => rfl
theorem tewRotary (list : Nat) : Statement (.tewRotary list) := fun _ => rfl
theorem tewConvert (list : Nat) : Statement (.tewConvert list) := fun _ => rfl
theorem tewRowMax (list : Nat) : Statement (.tewRowMax list) := fun _ => rfl
theorem tewRowSum (list : Nat) : Statement (.tewRowSum list) := fun _ => rfl
theorem tewDivide (list : Nat) : Statement (.tewDivide list) := fun _ => rfl
theorem tbListComplete (list : Nat) : Statement (.tbListComplete list) := fun _ => rfl
theorem t2Open (tenant : Nat) (entry : Entry) : Statement (.t2Open tenant entry) := fun h => h
theorem t2Write (tenant : Nat) (entry : Entry) : Statement (.t2Write tenant entry) := fun h => h
theorem t2Seal (tenant : Nat) (entry : Entry) : Statement (.t2Seal tenant entry) := fun h => h
theorem t2SealCommit (tenant : Nat) (id : Nat) (ok : Bool) : Statement (.t2SealCommit tenant id ok) := fun h => h
theorem t2Abort (tenant : Nat) (entry : Entry) : Statement (.t2Abort tenant entry) := fun h => h
theorem t2Delete (tenant : Nat) (entry : Entry) : Statement (.t2Delete tenant entry) := fun h => h
theorem heatEpochEnd : Statement .heatEpochEnd := fun _ => rfl
theorem promotionBegin : Statement .promotionBegin := fun _ => rfl
theorem promotionCopyComplete : Statement .promotionCopyComplete := fun _ => rfl
theorem quotaChange (who : Who) (tenant : Nat) (tier : Nat) (pages : Nat) : Statement (.quotaChange who tenant tier pages) := fun h => (Bool.and_eq_true_iff.mp (Bool.and_eq_true_iff.mp h).1).2
theorem updStep (core : Nat) (ecc : Ecc) : Statement (.updStep core ecc) := fun h => h
theorem updSnap (core : Nat) (ecc : Ecc) : Statement (.updSnap core ecc) := fun h => h
theorem updApply (core : Nat) (ecc : Ecc) : Statement (.updApply core ecc) := fun h => h
theorem updAdvance (core : Nat) (ecc : Ecc) : Statement (.updAdvance core ecc) := fun h => h
theorem gradientRecordLanded (slot : Nat) (shard : Nat) (entry : Nat) (record : Nat) : Statement (.gradientRecordLanded slot shard entry record) := fun h => (Bool.and_eq_true_iff.mp h).1
theorem globalNormComplete (slot : Nat) : Statement (.globalNormComplete slot) := fun h => h
theorem updateStageEnd (slot : Nat) : Statement (.updateStageEnd slot) := fun h => h
theorem segAck (slot : Nat) : Statement (.segAck slot) := fun h => h
theorem endAck (slot : Nat) (count : Nat) (digest : Nat) : Statement (.endAck slot count digest) := fun h => h
theorem compressBlock (die : Nat) (ctl : Nat) : Statement (.compressBlock die ctl) := fun h => (Bool.and_eq_true_iff.mp h).1
theorem expandBlock (die : Nat) (ctl : Nat) : Statement (.expandBlock die ctl) := fun h => (Bool.and_eq_true_iff.mp h).1
theorem portTraining (port : Nat) (ev : TrainEv) : Statement (.portTraining port ev) := fun h => h
theorem trainingStepTimeout (port : Nat) : Statement (.trainingStepTimeout port) := fun h => h
theorem trainingRetry (port : Nat) : Statement (.trainingRetry port) := fun h => h
theorem dataFlit (port : Nat) (fixed : Option Nat) (bytes : List Byte) : Statement (.dataFlit port fixed bytes) := fun h => (Bool.and_eq_true_iff.mp h).1
theorem controlFlit (port : Nat) (fixed : Option Nat) (frac : Nat) (bytes : List Byte) : Statement (.controlFlit port fixed frac bytes) := fun h => h
theorem ackTimeout (port : Nat) : Statement (.ackTimeout port) := fun h => h
theorem fastRetrain (port : Nat) (lane : Nat) : Statement (.fastRetrain port lane) := fun h => (Bool.and_eq_true_iff.mp h).1
theorem fastRetrainTimeout (port : Nat) : Statement (.fastRetrainTimeout port) := fun h => h
theorem put (f : PeaAt) : Statement (.put f) := fun h => (Bool.and_eq_true_iff.mp h).1
theorem get (f : PeaAt) : Statement (.get f) := fun h => (Bool.and_eq_true_iff.mp h).1
theorem getResp (port : Nat) : Statement (.getResp port) := fun h => h
theorem atomic (f : PeaAt) : Statement (.atomic f) := fun h => (Bool.and_eq_true_iff.mp h).1
theorem collSeg (port : Nat) : Statement (.collSeg port) := fun h => h
theorem ack (port : Nat) : Statement (.ack port) := fun h => h
theorem time (port : Nat) : Statement (.time port) := fun h => h
theorem fenceNotice (port : Nat) : Statement (.fenceNotice port) := fun h => h
theorem beacon (port : Nat) : Statement (.beacon port) := fun h => h
theorem beaconAck (port : Nat) : Statement (.beaconAck port) := fun h => h
theorem suspect (port : Nat) : Statement (.suspect port) := fun h => h
theorem propose (port : Nat) : Statement (.propose port) := fun h => h
theorem drained (port : Nat) : Statement (.drained port) := fun h => h
theorem install (port : Nat) : Statement (.install port) := fun h => h
theorem join (port : Nat) : Statement (.join port) := fun h => h
theorem leave (port : Nat) : Statement (.leave port) := fun h => h
theorem drainMiss (port : Nat) : Statement (.drainMiss port) := fun h => h
theorem beaconTick : Statement .beaconTick := fun _ => rfl
theorem beaconAckDeadline : Statement .beaconAckDeadline := fun _ => rfl
theorem linkSilent (port : Nat) : Statement (.linkSilent port) := fun h => h
theorem leaseExpiry : Statement .leaseExpiry := fun _ => rfl
theorem declaration (node : Nat) : Statement (.declaration node) := fun _ => rfl
theorem succession : Statement .succession := fun _ => rfl
theorem drainDone : Statement .drainDone := fun _ => rfl
theorem drainedDeadline : Statement .drainedDeadline := fun _ => rfl
theorem drainMessageTimeout : Statement .drainMessageTimeout := fun _ => rfl
theorem proposalTimeout : Statement .proposalTimeout := fun _ => rfl
theorem fragmentTimeout : Statement .fragmentTimeout := fun _ => rfl
theorem heldFrameTimeout : Statement .heldFrameTimeout := fun _ => rfl
theorem outOfTime : Statement .outOfTime := fun _ => rfl
theorem gather (core : Nat) (ecc : Ecc) : Statement (.gather core ecc) := fun h => h
theorem rscat (core : Nat) (ecc : Ecc) : Statement (.rscat core ecc) := fun h => h
theorem allred (core : Nat) (ecc : Ecc) : Statement (.allred core ecc) := fun h => h
theorem perm (core : Nat) (ecc : Ecc) : Statement (.perm core ecc) := fun h => h
theorem collectiveComplete (id : Nat) : Statement (.collectiveComplete id) := fun _ => rfl
theorem attach (who : Who) (value : W32) : Statement (.attach who value) := fun _ => rfl
theorem detach (who : Who) (value : W32) : Statement (.detach who value) := fun _ => rfl
theorem heartbeat (who : Who) : Statement (.heartbeat who) := fun _ => rfl
theorem heartbeatTimeout : Statement .heartbeatTimeout := fun _ => rfl
theorem hostLinkDown : Statement .hostLinkDown := fun _ => rfl
theorem hostPortReset (port : Nat) (speed : Nat) (width : Nat) : Statement (.hostPortReset port speed width) := fun _ => rfl
theorem hreg (who : Who) : Statement (.hreg who) := fun _ => rfl
theorem dreg (who : Who) : Statement (.dreg who) := fun _ => rfl
theorem rrel (who : Who) : Statement (.rrel who) := fun _ => rfl
theorem dbell (who : Who) : Statement (.dbell who) := fun _ => rfl
theorem qset (who : Who) : Statement (.qset who) := fun _ => rfl
theorem qreset (who : Who) : Statement (.qreset who) := fun _ => rfl
theorem doorbell (tenant : Nat) (line : Entry) : Statement (.doorbell tenant line) := fun h => h
theorem jobStart (tenant : Nat) (j : JobEntry) : Statement (.jobStart tenant j) := fun h => (Bool.and_eq_true_iff.mp h).1
theorem jobStop (tenant : Nat) (entry : Entry) : Statement (.jobStop tenant entry) := fun h => h
theorem fenceCommand (tenant : Nat) (entry : Entry) : Statement (.fenceCommand tenant entry) := fun h => h
theorem tbSubmit (tenant : Nat) (entry : Entry) : Statement (.tbSubmit tenant entry) := fun h => h
theorem reshard (tenant : Nat) (entry : Entry) : Statement (.reshard tenant entry) := fun h => h
theorem hqPost (core : Nat) (ecc : Ecc) : Statement (.hqPost core ecc) := fun h => h
theorem hqTake (core : Nat) (ecc : Ecc) (entry : Entry) : Statement (.hqTake core ecc entry) := fun h => h
theorem hqResume (core : Nat) (entry : Entry) : Statement (.hqResume core entry) := fun h => h
theorem placementWrite (requester : Nat) (off : Nat) (data : List Byte) : Statement (.placementWrite requester off data) := fun _ => rfl
theorem placementNotify (requester : Nat) (off : Nat) (data : List Byte) : Statement (.placementNotify requester off data) := fun _ => rfl
theorem cxlMemAccess (port : Nat) (off : Nat) (data : Option Entry) (poison : Bool) : Statement (.cxlMemAccess port off data poison) := fun _ => rfl
theorem hostDmaComplete (id : Nat) (data : List Byte) (poison : Bool) : Statement (.hostDmaComplete id data poison) := fun _ => rfl
theorem hostDmaTimeout (id : Nat) : Statement (.hostDmaTimeout id) := fun _ => rfl
theorem powerGood : Statement .powerGood := fun _ => rfl
theorem startStage1 (rep : Stage1Rep) : Statement (.startStage1 rep) := fun _ => rfl
theorem startStage2 (rep : Stage2Rep) : Statement (.startStage2 rep) := fun _ => rfl
theorem startStage3 (rep : Stage3Rep) : Statement (.startStage3 rep) := fun _ => rfl
theorem stageLimitTimeout (stage : Nat) : Statement (.stageLimitTimeout stage) := fun _ => rfl
theorem watchdogTimeout (armed : Nat) : Statement (.watchdogTimeout armed) := fun _ => rfl
theorem referenceLoss (armed : Nat) : Statement (.referenceLoss armed) := fun _ => rfl
theorem d2dLinkFault (link : Nat) (wing : Nat) (dir : Nat) (replays : Nat) : Statement (.d2dLinkFault link wing dir replays) := fun _ => rfl
theorem guestMessage (tag : Nat) (msg : GMsg) : Statement (.guestMessage tag msg) := fun _ => rfl
theorem guestCommandTimeout (tag : Nat) : Statement (.guestCommandTimeout tag) := fun _ => rfl
theorem guestReady : Statement .guestReady := fun _ => rfl
theorem guestReadyTimeout : Statement .guestReadyTimeout := fun _ => rfl
theorem status : Statement .status := fun _ => rfl
theorem norOpen (slot : Nat) : Statement (.norOpen slot) := fun _ => rfl
theorem norWrite (off : Nat) (data : List Byte) : Statement (.norWrite off data) := fun _ => rfl
theorem norClose (check : SlotCheck) (bad : List Nat) : Statement (.norClose check bad) := fun _ => rfl
theorem release : Statement .release := fun _ => rfl
theorem reset : Statement .reset := fun _ => rfl
theorem testUnlock (record : List Byte) (sigOk : Bool) : Statement (.testUnlock record sigOk) := fun _ => rfl
theorem logRead (slot : Nat) : Statement (.logRead slot) := fun _ => rfl
theorem idcode : Statement .idcode := fun _ => rfl
theorem samplePreload (pins : List Bool) : Statement (.samplePreload pins) := fun _ => rfl
theorem extest : Statement .extest := fun _ => rfl
theorem dieWrapperSelect : Statement .dieWrapperSelect := fun _ => rfl
theorem instrumentAccess (inst : Nat) : Statement (.instrumentAccess inst) := fun _ => rfl
theorem bypass : Statement .bypass := fun _ => rfl
theorem testReset : Statement .testReset := fun _ => rfl
theorem sensorSample (readings : Readings) : Statement (.sensorSample readings) := fun _ => rfl
theorem inputSample (mv : Nat) (rail : Option (Int × Int)) : Statement (.inputSample mv rail) := fun _ => rfl
theorem powerLoss : Statement .powerLoss := fun _ => rfl
theorem crumbSealTimeout : Statement .crumbSealTimeout := fun _ => rfl
theorem overvoltageDisconnect : Statement .overvoltageDisconnect := fun _ => rfl
theorem modEnLow : Statement .modEnLow := fun _ => rfl
theorem onTimeTick : Statement .onTimeTick := fun _ => rfl
theorem watchRecordAck : Statement .watchRecordAck := fun _ => rfl
theorem watchAckTimeout : Statement .watchAckTimeout := fun _ => rfl
theorem takeoverTimeout : Statement .takeoverTimeout := fun _ => rfl
theorem plannedTakeoverTimeout : Statement .plannedTakeoverTimeout := fun _ => rfl
theorem fullModuleTest : Statement .fullModuleTest := fun _ => rfl
theorem beaconModeTimeout (port : Nat) : Statement (.beaconModeTimeout port) := fun h => h
theorem leaderLeaseExpiry : Statement .leaderLeaseExpiry := fun _ => rfl
theorem watchSessionRecord (node : Nat) (m : WatchMsg) : Statement (.watchSessionRecord node m) := fun _ => rfl
theorem crumbSealComplete : Statement .crumbSealComplete := fun _ => rfl
theorem guestResetRelease : Statement .guestResetRelease := fun _ => rfl
theorem holdUpBoostComplete (energy : Nat) : Statement (.holdUpBoostComplete energy) := fun _ => rfl
theorem p3v3AuxRise (straps : Nat) : Statement (.p3v3AuxRise straps) := fun _ => rfl
theorem joinBatchInterval : Statement .joinBatchInterval := fun _ => rfl
theorem fullModuleTestComplete (ok : Bool) : Statement (.fullModuleTestComplete ok) := fun _ => rfl
theorem commandTakeWindow : Statement .commandTakeWindow := fun _ => rfl

end Sys2Proof.Laws.Sited
end

