-- ==== Sys2Proof/Tests/Slice0.lean ====
section
/-!
SUPPORT. Tests: ill-formed terms that the check refuses, one state for each hypothesis list of the statements, and effects of
single commands on small states, with the results that the manual gives.
-/

namespace Sys2Proof.Tests

open Sys2Proof Sys2Proof.Machine

-- The kernel checks below run one after another, so that they need no threads of their own.
set_option Elab.async false

/-! ### Well-formed commands: each check refuses a term -/

theorem test_core_refused : (Instr.slotStart 64).wellFormed = false := by decide
theorem test_die_refused : (Instr.retireComplete 4 true).wellFormed = false := by decide
theorem test_port_refused : (Instr.linkSilent 18).wellFormed = false := by decide
theorem test_tenant_refused : (Instr.doorbell 4096 0#512).wellFormed = false := by decide
theorem test_who_refused : (Instr.heartbeat ⟨256, 0⟩).wellFormed = false := by decide
theorem test_width_refused : (Instr.registerReadClear ⟨0, 0⟩ 16 0 0).wellFormed = false := by decide
theorem test_offset_refused : (Instr.registerSplitLowRead ⟨0, 0⟩ 0x5000000).wellFormed = false := by decide
theorem test_value_refused : (Instr.registerWrite ⟨0, 0⟩ 32 0 (2 ^ 32) 0).wellFormed = false := by decide
theorem test_legal_accepted : (Instr.slotStart 63).wellFormed = true := by decide
theorem test_tier_refused : (Instr.quotaChange ⟨0x5A, 0x1000⟩ 18 0 5).wellFormed = false := by decide
theorem test_length_refused : (Instr.norWrite 0 []).wellFormed = false := by decide
theorem test_exact_refused : (Instr.testUnlock [] true).wellFormed = false := by decide

/-! ### Small states -/

/-- An instruction word of class, opcode and payload (R76). -/
def wd (cls opc pl : Nat) : IWord := BitVec.ofNat 128 (cls * 2 ^ 124 + opc * 2 ^ 116 + pl)
/-- An instruction word that waits for group 5. -/
def wdWait (cls opc pl : Nat) : IWord := BitVec.ofNat 128 (cls * 2 ^ 124 + opc * 2 ^ 116 + 2 ^ 115 + 5 * 2 ^ 104 + pl)
/-- A program of tenant 18 with 8 words from index 0. -/
def prog18 : Prog := ⟨7, 18, 0, 8, 0, true, 4⟩
/-- A context of it within a tick, at index 4. -/
def ctx18 : Ctx := { Ctx.fresh with life := .live, prog := prog18, inTick := true, pc := 4, regs := [(1, 3#32), (2, 5#32)] }
/-- Core 0 runs that context, with word `w` at index 4. -/
def coreOf (w : IWord) (x : Ctx) : CoreSt := { CoreSt.reset with bank0 := [(4, w)], progs0 := [prog18], ctxs := [(0, x)], run := .running 0 false }
def stOf (w : IWord) (x : Ctx) : State := State.reset.setCore 0 (coreOf w x)

/-- What makes an instruction issue, as one test. -/
def issues (s : State) (n k : Nat) (w : IWord) (ecc : Ecc) : Bool :=
  (s.core n).running == some k && !s.stopped && (s.ctx n k).inTick && (s.ctx n k).hold == .none &&
    decide ((s.ctx n k).pc < (s.ctx n k).prog.length) && ecc != .uncorrectable &&
    (s.core n).word (s.core n).active ((s.ctx n k).prog.start + (s.ctx n k).pc) == w && wordLegal w &&
    decide ((s.core n).waitState k w = .ready)

theorem issues_of {s : State} {n k : Nat} {w : IWord} {ecc : Ecc} (h : issues s n k w ecc = true) : s.Issues n k w ecc := by
  simp only [issues, Bool.and_eq_true, beq_iff_eq, bne_iff_ne, decide_eq_true_eq, Bool.not_eq_true'] at h
  obtain ⟨⟨⟨⟨⟨⟨⟨⟨h1, h2⟩, h3⟩, h4⟩, h5⟩, h6⟩, h7⟩, h8⟩, h9⟩ := h
  exact ⟨h1, h2, h3, h4, h5, h6, h7, h8, h9⟩

/-! ### Hypotheses of the statements: registers -/

theorem hyp_register_access : (0x800020 % 4 = 0 ∧ (⟨3, 0⟩ : Who).reaches = false) ∧
    ((⟨0, 0⟩ : Who).reaches = true ∧ State.reset.reg32 0x3FFFFFC = none ∧ State.reset.reg64 (0x3FFFFFC / 8 * 8) = none) ∧
    (⟨0x5A, 0x1000⟩ : Who).mayWrite 0x20 = false ∧ (⟨3, 0⟩ : Who).mayRead 0 = false ∧ 0x20 < regSpace ∧ regSpace ≤ 0x10000000 := by decide +kernel
theorem hyp_register_writes : (⟨0, 0⟩ : Who).index = 0 ∧ 12 < 2 ^ 32 ∧ 12 % 4 = 0 ∧ 12 % 16 > 6 ∧ 6 % 16 ≤ 6 := by decide
theorem hyp_reads_clear : (⟨0x5A, 0x1000⟩ : Who).reaches = true ∧ 63 < 64 ∧ 3 < 4 := by decide
theorem hyp_split : halfOf State.reset.split.low (halfKey ⟨0, 0⟩ 0x20028) = none ∧ (⟨0, 0⟩ : Who).reaches = true ∧ (⟨0, 0⟩ : Who).index = 0 ∧
    (∀ d, d < 4 → halfOf State.reset.split.low (halfKey ⟨0, 0⟩ (0x1030030 + d * 0x1000000)) = none) := by decide +kernel

/-! ### The sequencer -/

theorem hyp_scalar (opc : Nat) (h : opc ∈ [0, 1, 2, 3, 4, 5, 6, 7, 8, 9, 10]) :
    (stOf (wd 1 opc 0x1) ctx18).Issues 0 0 (wd 1 opc 0x1) .corrected ∧ (wd 1 opc 0x1).cls = 1 ∧ (wd 1 opc 0x1).opc = opc := by
  refine ⟨issues_of ?_, ?_⟩ <;> revert opc <;> decide +kernel
theorem hyp_control (opc : Nat) (h : opc ∈ [0, 1, 2, 3, 4, 5, 6, 7, 8, 9, 10]) :
    (stOf (wd 0 opc 0) ctx18).Issues 0 0 (wd 0 opc 0) .clean ∧ (wd 0 opc 0).cls = 0 ∧ (wd 0 opc 0).opc = opc ∧
      ctlTarget (wd 0 opc 0) < ctx18.prog.length ∧ ctx18.loops.length < 8 := by
  refine ⟨issues_of ?_, ?_⟩ <;> revert opc <;> decide +kernel
/-- LOOP with a count of 3, and with a count of 0; a loop that goes on, and one that ends. -/
theorem hyp_loops : (let w := wd 0 4 (3 * 2 ^ 64 + 6); issues (stOf w ctx18) 0 0 w .clean && decide (loopCount ctx18 w = 3)) = true ∧
    (let w := wd 0 4 6; issues (stOf w ctx18) 0 0 w .clean && decide (loopCount ctx18 w = 0)) = true ∧
    (let x := { ctx18 with loops := [(1#32, 2)] }; let w := wd 0 5 0; issues (stOf w x) 0 0 w .clean) = true ∧
    (let x := { ctx18 with loops := [(7#32, 2)] }; let w := wd 0 5 0; issues (stOf w x) 0 0 w .clean) = true := by decide +kernel
theorem hyp_fence : (stOf (wd 0 6 0) ctx18).quiet 0 0 = true ∧ (stOf (wd 0 6 0) { ctx18 with outCmds := 1 }).quiet 0 0 = false ∧
    issues (stOf (wd 0 6 0) { ctx18 with outCmds := 1 }) 0 0 (wd 0 6 0) .clean = true ∧
    (let s := stOf (wd 0 6 0) { ctx18 with hold := .fence };
     (s.core 0).running = some 0 ∧ (s.ctx 0 0).hold = .fence ∧ s.quiet 0 0 = true ∧ s.stopped = false) := by decide +kernel
/-- A state in which the job of program 7 of tenant 18 is in slot 0. -/
def withJob (life : JobLife) (s : State) : State :=
  { s with jobs := [(0, { Job.none with life := life, info := { JobRec.none with job := 1, tenant := 18, progs := [7] } })] }
/-- A scheduled program without a job, one of a job that stops, one whose tick ends in the next beat; a fill program of a job that runs,
which goes on, and one in a beat that stretching excludes; HALT. -/
theorem hyp_retires : (let s := stOf 0#128 { ctx18 with hold := .tickEnd };
      (s.core 0).run = .running 0 false ∧ s.quiet 0 0 = true ∧ s.stopped = false ∧ s.jobSlot (s.ctx 0 0).prog = none ∧
        (s.ctx 0 0).hold = .tickEnd ∧ s.now / s.beatLen ≤ s.beats.beat) ∧
    (let s := withJob .stopping (stOf 0#128 { ctx18 with hold := .tickEnd });
      s.quiet 0 0 = true ∧ s.stopped = false ∧ (s.jobSlot (s.ctx 0 0).prog).any (fun j => (s.job j).life == .stopping) = true) ∧
    (let s := { (stOf 0#128 { ctx18 with hold := .tickEnd }).updCore 0 (fun c => { c with slots := [⟨0, false, 18, 7⟩] }) with now := 20000 };
      (s.core 0).run = .running 0 false ∧ s.quiet 0 0 = true ∧ s.now / s.beatLen = s.beats.beat + 1 ∧
        (firstSlot (s.core 0).slots (s.ctx 0 0).prog.id).isSome = true ∧ (s.now / s.beatLen) % 2 ^ s.stretchOf (s.now / s.beatLen) = 0) ∧
    (let s := (withJob .running (stOf 0#128 { ctx18 with hold := .tickEnd })).updCore 0 (fun c => { c with run := .running 0 true });
      (s.core 0).run = .running 0 true ∧ s.quiet 0 0 = true ∧ (s.ctx 0 0).life = .live ∧ s.mayTick 0 (s.ctx 0 0).prog = true ∧
        s.excludes s.beats.beat = false ∧ { s with beats := { s.beats with stretch := 1, beat := 1 } }.excludes 1 = true) ∧
    (let s := stOf 0#128 { ctx18 with hold := .halt }; s.quiet 0 0 = true ∧ (s.ctx 0 0).hold = .halt) := by decide +kernel
/-- An illegal word of a context without a job and of one whose job runs; a fetch beyond the program. -/
theorem hyp_fetch_faults : (∀ s ∈ [stOf (wd 15 0 0) ctx18, withJob .running (stOf (wd 15 0 0) ctx18)],
      (s.core 0).running = some 0 ∧ s.stopped = false ∧ (s.ctx 0 0).inTick = true ∧ (s.ctx 0 0).hold = .none ∧
        (s.core 0).word (s.core 0).active 4 = wd 15 0 0 ∧ s.sealRun = none) ∧
    wordLegal (wd 15 0 0) = false ∧ (stOf 0#128 ctx18).jobSlot prog18 = none ∧ (withJob .running (stOf 0#128 ctx18)).jobSlot prog18 = some 0 ∧
    ctx18.prog.length ≤ { ctx18 with pc := 8 }.pc := by decide +kernel
theorem hyp_slots : (let s := (stOf 0#128 ctx18).updCore 0 (fun c => { c with slots := [⟨0, true, 0, 0⟩] });
      (s.core 0).slots[(s.core 0).slot]? = some ⟨0, true, 0, 0⟩ ∧ s.stopped = false ∧ (s.core 0).run = .running 0 false) ∧
    (let s := (stOf (wdWait 0 0 0) { ctx18 with hold := .wait }).updCore 0 (fun c => { c with run := .running 0 true });
      (s.core 0).run = .running 0 true ∧ s.stuck 0 0 = true) ∧
    (let s := (stOf 0#128 ctx18).updCore 0 (fun c => { c with run := .saving 0 false, drainReq := true });
      (s.core 0).run = .saving 0 false ∧ (s.core 0).drainReq = true ∧ (s.ctx 0 0).ve = none ∧ (s.ctx 0 0).valid.any id = false) ∧
    (let s := (stOf 0#128 { ctx18 with valid := [false, true, false, false], saveArea := some 0 }).updCore 0 (fun c => { c with run := .saving 0 true });
      (s.ctx 0 0).ve = none ∧ (s.ctx 0 0).valid.getD 1 false = true) ∧
    (∀ b ∈ [true, false], let s := (withJob .running (stOf 0#128 { ctx18 with inTick := b })).updCore 0 (fun c => { c with run := .restoring 0 false });
      (s.core 0).run = .restoring 0 false ∧ (s.ctx 0 0).inTick = b ∧ (s.ctx 0 0).ve = none ∧ s.mayHold 0 0 = true) ∧
    (let s := (stOf 0#128 ctx18).updCore 0 (fun c => { c with run := .restoring 0 false }); s.mayHold 0 0 = false) := by decide +kernel
theorem hyp_drain : (⟨0, 0⟩ : Who).index = 0 ∧ (⟨3, 0⟩ : Who).index ≠ 0 ∧ ((stOf 0#128 ctx18).core 0).run = .running 0 false ∧
    (State.reset.core 0).run = .idle ∧ ((State.reset.updCore 0 (fun c => { c with run := .drained })).core 0).run = .drained ∧
    ((State.reset.updCore 0 (fun c => { c with run := .saving 0 true })).core 0).run = .saving 0 true ∧
    ((State.reset.updCore 0 (fun c => { c with run := .restoring 0 true })).core 0).run = .restoring 0 true := by decide +kernel
theorem hyp_banks : (State.reset.core 0).pwData = [some 0#32, some 0#32, some 0#32, some 0#32] ∧
    ((State.reset.updCore 0 (fun c => { c with pwBank := true })).core 0).pwBank ≠ (State.reset.core 0).active ∧
    (State.reset.core 0).pwBank = (State.reset.core 0).active := by decide +kernel
theorem hyp_beat : (let s := { State.reset with start := { State.reset.start with pwrGood := true } };
    s.start.pwrGood = true ∧ s.endBeat.stopped = false ∧ s.endBeat.isMaint (max (s.beats.beat + 1) (s.now / s.beatLen)) = false ∧
      s.endBeat.watch.takeover = none ∧ s.endBeat.watch.planned = none ∧ (∀ d, d < 4 → (s.endBeat.mcOf d).waiting = [])) ∧
    (let u := (stOf 0#128 ctx18).updCore 0 (fun c => { c with slots := [⟨0, false, 18, 7⟩] });
      ((u.core 0).ctxs.filter (fun x => x.2.inTick)).map (·.1) = [0] ∧ (firstSlot (u.core 0).slots (u.ctx 0 0).prog.id).isSome = true ∧
        (u.beats.beat + 1) % 2 ^ u.stretchOf (u.beats.beat + 1) = 0) := by decide +kernel
theorem hyp_queues :
    (let s := stOf 0#128 { ctx18 with qmx := [wdWait 2 0 0] };
      (s.core 0).running = some 0 ∧ (s.ctx 0 0).queue .mx = [wdWait 2 0 0] ∧ (s.core 0).waitState 0 (wdWait 2 0 0) = .held) ∧
    (∀ opc ∈ [0, 1, 2, 3, 4, 5, 6, 7, 8, 9, 10], let w := wdWait 0 opc 0; let s := stOf w ctx18;
      wordLegal w = true ∧ (s.core 0).word (s.core 0).active 4 = w ∧ (s.core 0).waitState 0 w = .held ∧ w.cls = 0 ∧ w.opc = opc) ∧
    (∀ opc ∈ [0, 1, 2, 3, 4, 5, 6, 7, 8, 9, 10], let w := wdWait 1 opc 1; let s := stOf w ctx18;
      wordLegal w = true ∧ (s.core 0).waitState 0 w = .held ∧ w.cls = 1 ∧ w.opc = opc) ∧
    (let s := (stOf (wdWait 0 0 0) { ctx18 with hold := .wait }).updCore 0 (fun c => c.setGrp 0 5 ⟨1, 1, false⟩);
      (s.ctx 0 0).hold = .wait ∧ (s.core 0).waitState 0 (wdWait 0 0 0) = .ready) ∧
    (let s := stOf (wd 5 1 0) { ctx18 with hold := .full, qst := [0#128] };
      (s.ctx 0 0).hold = .full ∧ s.stopped = false ∧ engOfClass (wd 5 1 0).cls = some .st ∧ (s.ctx 0 0).queue .st ≠ [] ∧
        ((s.ctx 0 0).queue .st).length < 8) := by decide +kernel

/-! ### Matrix engine -/

def le (k v : Nat) : List Byte := leBytes k v
/-- State with bytes placed in the SRAM of core 0. -/
def withSram (s : State) (off : Nat) (l : List Byte) : State := { s with mem := wrBytes s.mem (sramBase 0 + off) l }
def actBytes : List Byte := le 4 0x2000 ++ le 4 32 ++ le 4 4 ++ le 2 1 ++ le 2 2 ++ zeros 48
def cnvBytes : List Byte := le 4 0x2000 ++ le 4 64 ++ le 4 8 ++ le 2 2 ++ le 2 2 ++ le 2 4 ++ le 2 2 ++ le 2 2 ++
  le 4 0x00111111 ++ le 2 1 ++ le 2 2 ++ zeros 34
def wtBytes : List Byte := le 4 0x3000 ++ le 4 16 ++ le 4 4 ++ le 4 2 ++ le 4 0x10001 ++ zeros 44
def outBytes : List Byte := le 4 0x4000 ++ le 4 256 ++ zeros 56
/-- A tile sequence of 2 units on array 0. -/
def seqWord (opc : Nat) : IWord := wd 2 opc (0x40 + 2 ^ 19 + 2 * 2 ^ 48)
def mxState (opc : Nat) : State :=
  withSram (stOf (seqWord opc) ctx18) 0x1000 ((if opc = 0 then actBytes else cnvBytes) ++ wtBytes ++ outBytes)
def seqRun (opc : Nat) : Option MxRun := (acceptRun ((mxState opc).rdCore 0) ctx18 (seqWord opc)).bind (fun r => r.latch ctx18)

theorem hyp_matrix_issues : (∀ opc ∈ [0, 1], issues (mxState opc) 0 0 (seqWord opc) .clean = true ∧
      (seqWord opc).cls = 2 ∧ (seqWord opc).opc = opc ∧
      ((acceptRun ((mxState opc).rdCore 0) (((mxState opc).taken 0 0 .clean).ctx 0 0) (seqWord opc)).any (fun r =>
        r.partsClear (((mxState opc).taken 0 0 .clean).ctx 0 0) && (r.latch (((mxState opc).taken 0 0 .clean).ctx 0 0)).isSome)) = true) ∧
    (let w := wd 3 0 (2 ^ 7 + 1); issues (stOf w ctx18) 0 0 w .clean = true ∧ (parseConv ((stOf w ctx18).rdCore 0) w).isSome = true) := by
  decide +kernel

/-- The sequence with its first unit in flight, and with its last. -/
theorem hyp_matrix_units : (∀ opc ∈ [0, 1], (seqRun opc).any (fun r =>
      let x := { ctx18 with mx := [r] }; let s := (mxState opc).setCtx 0 0 x
      decide ((s.core 0).works .mx = some 0 ∧ (s.core 0).running = some 0 ∧ (s.ctx 0 0).mx = [r] ∧ s.stopped = false ∧ r.done + 1 ≠ r.count) &&
        ({ r with done := r.done + 1, latched := [], reload := false }.latch
          { x with flags := x.flags ||| (runUnit s.mem (sramBase 0) (s.core 0).mx.acc (r.banks (s.core 0).mx.bank 0) (s.draw x) r 0).flags }).isSome)) ∧
    (∀ opc ∈ [0, 1], (seqRun opc).any (fun r => ({ r with done := 1 }).done + 1 == r.count)) ∧
    (State.reset.core 0).arrayBusy 3 = false ∧ (State.reset.core 0).mx.arrays.length = 4 ∧
    (let s := State.reset.updCore 0 (fun c => { c with slots := [⟨512, false, 18, 7⟩], mx := { c.mx with balEnable := true } });
      s.ballastOk = true ∧ s.nextSlot 0 = some 8192) := by decide +kernel

/-! ### Vector engine -/

/-- A context that has its save area and a rounding record. -/
def ctxV : Ctx := { ctx18 with saveArea := some 0x100000, rnd := some ⟨3, 5, 7⟩ }
/-- A vector instruction over 2 rows and 3 columns, with more payload bits. -/
def vec (opc more : Nat) : IWord := wd 4 opc (1 + 2 * 2 ^ 32 + 3 * 2 ^ 40 + more)
def vecOk (opc more : Nat) : Bool :=
  let w := vec opc more
  let s := stOf w ctxV
  issues s 0 0 w .clean && w.cls == 4 && w.opc == opc && (s.ctx 0 0).qve.isEmpty && vArithOk w (vArith w) ((s.taken 0 0 .clean).ctx 0 0)
theorem hyp_vector_elements : (∀ opc ∈ [0x10, 0x11, 0x12, 0x13, 0x14, 0x15, 0x16, 0x17, 0x18, 0x19, 0x20, 0x21, 0x22, 0x23, 0x24, 0x25,
    0x26, 0x27, 0x28, 0x29], vecOk opc 0 = true) := by decide +kernel
theorem hyp_vector_reductions : (∀ opc ∈ [0x30, 0x31, 0x32], vecOk opc (2 * 2 ^ 17) = true) ∧
    (∀ opc ∈ [0x33, 0x34, 0x35], vecOk opc (2 ^ 17) = true) ∧ vecOk 0x1A (3 * 2 ^ 6 + 2 ^ 48) = true := by decide +kernel
theorem hyp_vector_transfers :
    (let w := wd 4 0 0x4000; let s := stOf w ctx18;
      issues s 0 0 w .clean = true ∧ field 95 17 w.pl = 0 ∧ fits (64 * field 16 0 w.pl + saveAreaSize) = true ∧
        ((s.taken 0 0 .clean).ctx 0 0).saveArea = none) ∧
    (let w := wd 4 1 0x40; let s := withSram (stOf w ctxV) 0x1000 [3, 0, 0, 0, 0, 0, 0, 0, 9];
      issues s 0 0 w .clean = true ∧ field 95 17 w.pl = 0 ∧ fits (64 * field 16 0 w.pl + 64) = true ∧ s.rdCore 0 0x1003 1 = 0 ∧
        s.rdCore 0 0x1004 4 = 0 ∧ s.rdCore 0 0x1014 44 = 0) ∧
    (∀ opc ∈ [2, 3], let w := wd 4 opc (1 * 2 ^ 2 + 2 * 2 ^ 8 + 3 * 2 ^ 16 + 0x2000 * 2 ^ 40 + 16 * 2 ^ 64); let s := stOf w ctxV;
      issues s 0 0 w .clean = true ∧ w.opc = opc ∧ (vXferOk w (vXfer w) ((s.taken 0 0 .clean).ctx 0 0)).isSome = true) ∧
    (let s := stOf 0#128 { ctxV with veArr := [9] }; (s.core 0).running = some 0 ∧ (s.ctx 0 0).veArr = 9 :: []) := by decide +kernel
theorem hyp_vector_service : ((State.reset.updCore 5 (fun c => { c with run := .drained })).service 5 = true) ∧ State.reset.service 0 = true ∧
    31 < 32 ∧ 0x7FFE80 + 384 ≤ 0x800000 ∧ 95 < 96 := by decide +kernel

/-! ### Stream engine, pages and Pea transfers -/

/-- A descriptor of 2 rows of 4 words, one chunk a row; the source in space `sp`. -/
def descBytes (sp : Nat) : List Byte := le 6 0x2000 ++ le 2 sp ++ le 6 0x3000 ++ le 2 0 ++ [2, 2, 2, 0] ++ le 2 9 ++ le 2 1 ++ zeros 8 ++
  le 4 4 ++ le 4 2 ++ zeros 24 ++ le 6 16 ++ zeros 24 ++ le 6 16 ++ zeros 28
def xferWord : IWord := wd 5 0 0x40
def stState (sp : Nat) : State := withSram (stOf xferWord ctxV) 0x1000 (descBytes sp)
/-- A transfer at its start. -/
def startRun (d : SDesc) : StRun :=
  { desc := d, dstKind := .coreWin 0, pos := 0, chunk := 0, chunkPoison := false, susp := none, dma := none, buf := [] }
/-- The state with that transfer under way, and the page of the space-1 source moving. -/
def moveState (sp : Nat) : State :=
  let r := (parseDesc ((stState sp).rdCore 0) 0x1000 0 0).map startRun
  { (stState sp).setCtx 0 0 { ctxV with st := r } with pages := [(pageKey 18 0, ⟨.tier1 0 false, true, false⟩)] }

theorem hyp_stream_transfers :
    (let w := wd 5 1 (2047 + 2 ^ 11 + 255 * 2 ^ 22); issues (stOf w ctx18) 0 0 w .clean = true ∧ w.cls = 5 ∧ w.opc = 1 ∧
      field 21 11 w.pl ≠ 0 ∧ field 29 22 w.pl ≠ 0) ∧
    (let s := stState 0; let x := (s.taken 0 0 .clean).ctx 0 0;
      issues s 0 0 xferWord .clean = true ∧ x.qst = [] ∧ x.st = none ∧
        (parseDesc ((s.taken 0 0 .clean).rdCore 0) 0x1000 0 0).any (fun d =>
          d.rangeOk && targetOk 0 d (s.dstKind 0 18 d) && !s.hitsSave 0 x d) = true) ∧
    ((moveState 0).moving 0).any (fun p =>
      let stop := (moveState 0).stopAt 0 p.2; let o := (moveState 0).deliver 0 18 p.2 stop (stop - p.2.pos + 1);
      decide (p.2.susp = none ∧ (p.2.chunk + 1) * p.2.desc.chunkLen ≤ o.2.pos ∧ o.2.receivers 0 = [0])) = true ∧
    ((moveState 1).moving 0).any (fun p =>
      let stop := (moveState 1).stopAt 0 p.2; let o := (moveState 1).deliver 0 18 p.2 stop (stop - p.2.pos + 1);
      decide (p.2.susp = none ∧ o.1.posFault 18 o.2 = some (1, false, 0x2000))) = true := by decide +kernel

/-- A retirement of page 9 whose copy goes to page 11; the page is mapped. -/
def moveRetire : State :=
  { State.reset.setMc 0 { State.reset.mcOf 0 with retState := 1, retPage := some 9, retDest := some 11 } with
    pages := [(pageKey 18 5, ⟨.tier1 9 false, true, false⟩)] }
theorem hyp_pages_settle :
    (let s := { State.reset with pages := [(pageKey 18 5, ⟨.hostPage 0 1, true, false⟩)] };
      (s.pageOf 18 0x50000).2.moving = true ∧ (s.pageOf 18 0x50000).2.dest = .hostPage 0 1) ∧
    (let s := moveRetire; (s.mcOf 0).retPage = some 9 ∧ (s.mcOf 0).retDest = some 11 ∧ Memory.wf s.mem = true ∧
      (s.pageOf 18 0x50000).2.dest = .tier1 9 false ∧ (s.pageOf 18 0x50000).2.moving = true) ∧
    (⟨3, 0⟩ : Who).isDriver = false ∧ (⟨0x5A, 0x1000⟩ : Who).isDriver = true ∧ (State.reset.mcOf 1).retState ≠ 1 ∧ 245760 / 245760 = 1 ∧
    State.reset.retired.any (fun e => e.1 == 245760) = false ∧ State.reset.retired.length < 8192 ∧
    (let s := State.reset.setMc 1 { State.reset.mcOf 1 with retState := 1, retPage := some 245760 };
      (s.mcOf 1).retPage = some 245760 ∧ (s.mcOf 1).retDest = none ∧ s.now < (s.mcOf 1).retArmed + 50000000 ∧
        (s.mcOf 1).retArmed + 50000000 ≤ ({ s with now := 50000000 }).now) ∧
    ((State.reset.setJob 0 { State.reset.job 0 with life := .filling }).job 0).life = .filling ∧ (State.reset.job 1).life ≠ .filling := by
  decide +kernel

/-- 16 bytes at 0x2000 to core 1 at 0x3000. -/
def peaWord (opc : Nat) : IWord := wd 6 opc (0x2000 + 2 ^ 23 + 1 * 2 ^ 29 + 0x3000 * 2 ^ 35 + 9 * 2 ^ 58)
theorem hyp_pea_taken : (∀ opc ∈ [0, 1, 2], issues (stOf (peaWord opc) ctxV) 0 0 (peaWord opc) .clean = true ∧ (peaWord opc).cls = 6 ∧
    (peaWord opc).opc = opc ∧
    (let u := (stOf (peaWord opc) ctxV).taken 0 0 .clean; peaOk u (u.ctx 0 0) 0 (peaOf (peaWord opc) 0) = true ∧
      u.peaHere 0 (peaOf (peaWord opc) 0) = true)) := by decide +kernel

/-- Core 0 with one transfer in flight to core 1, where the same program runs. -/
def peaState (opc : Nat) : State :=
  let s := (stOf (peaWord opc) ctxV).setCore 1 { CoreSt.reset with progs0 := [prog18], ctxs := [(0, ctxV)] }
  { s.updCore 0 (fun c => { c with peas := [{ peaOf (peaWord opc) 0 with data := zeros 16 }] }) with
    pages := [(pageKey 18 3, ⟨.coreWin 1 0, false, false⟩)] }
theorem hyp_pea_lands : (∀ opc ∈ [0, 1, 2], let s := peaState opc; let m := { peaOf (peaWord opc) 0 with data := zeros 16 };
    firstPea (s.peaHere 0) 1 (s.core 0).peas = some m ∧ (s.core 0).peas = [m] ∧ s.rangeGranted 18 1 0x3000 16 = true ∧
      (s.core 1).liveCtx 7 = some 0) := by decide +kernel

/-- Burst 1 at an address that nothing keeps waiting, clean, poisoned, and with an error in its cells; one behind an access that waits;
a channel in service and one that is not; a bank at the refresh threshold. -/
theorem hyp_memory : isTier1 64 = true ∧ isTier1 (64 / 64 * 64) = true ∧ State.reset.quarantined 64 = false ∧ State.reset.isPoisoned 64 = false ∧
    State.reset.accWaits 64 = false ∧ Ecc.clean.worse (State.reset.errAt 64) = .clean ∧
    (∀ e ∈ [Ecc.corrected, Ecc.uncorrectable], Ecc.clean.worse ((State.reset.setErr 64 e).errAt 64) = e) ∧
    (State.reset.setMc 0 { State.reset.mcOf 0 with waiting := [.read ⟨0, 0⟩ 64 .clean] }).accWaits 64 = true ∧
    ({ State.reset with frames := [(0, { Frame.free with quar := true })] }).quarantined 64 = true ∧
    ({ State.reset with poison := [(1, true)] }).isPoisoned 64 = true ∧ 64 % 64 + 64 ≤ 64 ∧ isTier1 (2 ^ 44) = false ∧ 31 < 32 ∧
    (State.reset.mcOf 0).ready = false ∧ ((State.reset.setMc 0 { State.reset.mcOf 0 with ready := true }).mcOf 0).ready = true ∧
    dieOf (64 * 1) = 0 ∧ chanOf (64 * 1) = chanOf 64 := by decide +kernel
theorem hyp_rfm : Config.rfmThreshold ≤ Sp.get 0 { ChSt.reset with raa := [(0, Config.rfmThreshold)] }.raa 0 ∧
    Sp.get 0 ChSt.reset.raa 0 < Config.rfmThreshold := ⟨Nat.le_refl _, Nat.succ_pos _⟩

/-! ### Near-bank units -/

def cfg0 : ModCfg := ⟨2, 2, 2, 3, 0x100, 0x20, 0x40, 0x20, 0x20, 0x20, 0, 0, false⟩
/-- An image with tenant 18 and one update set of job 1. -/
def img0 : Image :=
  { major := 1, minor := 0, sequence := 1, secVersion := 0, cfg := cfg0, guestIface := 1,
    tenants := [⟨18, 8, 100, 100, 65536, 16, 16⟩], tensors := [], progs := [], tables := [], binding := [], grants := [], digests := [(18, 0x5EED)],
    fabric := ⟨[2], 0, [⟨0, false, false, 0, 0⟩, ⟨0, true, false, 0, 0⟩], 0⟩, jobs := [], maps := [],
    sets := [⟨1, [⟨4, 0, 0, 0, 0, 64, 0#32, 1, [0, 240]⟩]⟩],
    colls := [⟨1, [⟨3, 0, 0, 1, 1, 1, 0, 0, 0, 64, 0, 0, 0⟩]⟩], resvs := [], stages := [] }
/-- A record of an operation over all units of two channels. -/
def recOf (op wf af rows : Nat) (own : List Byte) : Entry :=
  entryOf ([BitVec.ofNat 8 op, BitVec.ofNat 8 wf, BitVec.ofNat 8 af, 0] ++ le 2 0xFFFF ++ [15, BitVec.ofNat 8 rows] ++ le 4 3 ++
    le 6 0x10000000 ++ [16, 0] ++ le 4 0 ++ le 4 1 ++ le 2 16 ++ le 2 (if op = 4 then 1 else 0) ++ own ++ zeros (32 - own.length))
/-- A record that arms 2 groups from 16 on. -/
def armRec : Entry := recOf 8 0 0 1 [16, 2, 3]
/-- A matrix-vector product of BF16. -/
def mvRec : Entry := recOf 4 1 1 1 (le 4 0 ++ le 4 4 ++ [16, 0, 0, 0])
def listOf (f : ListFrom) (l : List Entry) (run : Bool) : TbList :=
  { id := 7, from_ := f, tenant := 18, nmode := 0, records := l, done := 0, running := run, poisonIn := false, waitFrom := none, dma := none,
    fetch := none, flags := 0, poison := false, quar := false, code := 0 }
/-- Tenant 18 with the band of frames 15 to 29 at virtual address 0x10000000, and the part of tensor 4 of job 1 in the same frames. -/
def bandState (l : List TbList) : State :=
  { State.reset with
    image := some img0, lists := l,
    pages := (List.range 15).map (fun i => (pageKey 18 (4096 + 32 * i), ⟨.tier1 (15 + i) false, false, false⟩)),
    frames := (List.range 15).map (fun i => (15 + i, { Frame.free with owner := some (18, 1, .part 4 0 i) })),
    jobs := [(0, { Job.none with life := .running, info := { JobRec.none with job := 1, tenant := 18, limit := 0x7F7FFFFF#32 }, map := [(0, 0)] })] }

theorem hyp_tuber_lists :
    (let w := wd 7 0 (0x40 + 2 ^ 17 + 9 * 2 ^ 25 + 0x200 * 2 ^ 36);
      let s := { withSram (stOf w ctxV) 0x1000 (entryBytes armRec) with image := some img0 };
      let u := s.taken 0 0 .clean; let x := u.ctx 0 0; let a := 64 * field 16 0 w.pl; let st := 16 * field 55 36 w.pl;
      issues s 0 0 w .clean = true ∧ w.cls = 7 ∧ w.opc = 0 ∧ field 24 17 w.pl = 1 ∧ fits (a + 64) = true ∧ fits (st + 16) = true ∧
        x.hitsSave st 16 = false ∧ u.recOk 18 false (entryOf (s.sram 0 a 64)) = true ∧ (trec (entryOf (s.sram 0 a 64))).op ≠ 2) ∧
    (let l := { listOf (.core 0 0 9 0x2000) [armRec] false with done := 1 }; let s := bandState [l];
      s.listAt 7 = some l ∧ l.running = false ∧ l.records.length ≤ l.done) ∧
    (let l := { listOf (.core 0 0 9 0x2000) [armRec] false with code := 5 }; l.code ≠ 0) := by decide +kernel

/-- What a record needs before it starts, as one test. -/
def mayStart (s : State) (l : TbList) (r : TRec) (d : Nat) : Bool :=
  s.listAt l.id == some l && l.current == some r && !l.running && l.code == 0 && !s.stopped &&
    ((s.listSpan l r 0).map (·.1)) == some d && (!r.usesBands || spanOk (s.listSpan l r) r.first r.bursts) && !s.putsRo l r &&
    !s.bandsMove l r && (!r.usesBands || !s.banksHeld d l r) && s.listMayStart l d r && (s.xgroupsSet d r).1 &&
    (!s.sourceOut l.tenant r || l.fetched r)
theorem mayStart_of {s : State} {l : TbList} {r : TRec} {d : Nat} (h : mayStart s l r d = true) : s.MayStart l r d := by
  simp only [mayStart, Bool.and_eq_true, Bool.or_eq_true, Bool.not_eq_true', beq_iff_eq, Option.map_eq_some_iff] at h
  obtain ⟨⟨⟨⟨⟨⟨⟨⟨⟨⟨⟨⟨h1, h2⟩, h3⟩, h4⟩, h5⟩, b, h6, h7⟩, h8⟩, h9⟩, h10⟩, h11⟩, h12⟩, h13⟩, h14⟩ := h
  refine ⟨h1, h2, h3, h4, h5, ⟨b.2, ?_⟩, fun hu => ?_, h9, h10, fun hu => ?_, h12, h13, fun hs => ?_⟩
  · rw [h6, ← h7]
  · exact h8.resolve_left (by simp [hu])
  · exact h11.resolve_left (by simp [hu])
  · exact h14.resolve_left (by simp [hs])
/-- A record that holds no bank; one that holds its banks with a pace that qualifies, and without one. -/
theorem hyp_records_start :
    (let l := listOf (.core 0 0 9 0x2000) [armRec] false; mayStart (bandState [l]) l (trec armRec) 0 = true ∧ (trec armRec).holds = false) ∧
    (let l := listOf (.core 0 0 9 0x2000) [mvRec] false; let s := bandState [l]; let r := trec mvRec;
      mayStart s l r 0 = true ∧ r.holds = true ∧ s.paceFor 0 r (s.listRule l) 0 = some 8 ∧
        s.maintHits r (s.now + (5 * r.hold (s.listRule l) 0 8 + 3) / 4) = false ∧ s.grantsNow 0 = 0) ∧
    (let l := listOf (.core 0 0 9 0x2000) [mvRec] false;
      let s := { bandState [l] with tub := [(0, { TubDie.reset with cap := 1, credit := [] })] }; let r := trec mvRec;
      mayStart s l r 0 = true ∧ r.holds = true ∧ s.paceFor 0 r (s.listRule l) 0 = none) ∧
    (let l := listOf (.core 0 0 9 0x2000) [mvRec] false; let s := { bandState [l] with pages := [] }; let r := trec mvRec;
      s.listAt l.id = some l ∧ l.current = some r ∧ s.listSpan l r 0 = none) ∧
    (let e := recOf 1 0 0 1 []; let l := listOf (.core 0 0 9 0x2000) [e] false; let r := trec e;
      let s := { bandState [l] with pages := (List.range 15).map (fun i => (pageKey 18 (4096 + 32 * i), ⟨.tier1 (15 + i) true, false, false⟩)) };
      s.listAt l.id = some l ∧ l.current = some r ∧ s.listSpan l r 0 ≠ none ∧ spanOk (s.listSpan l r) r.first r.bursts = true ∧
        s.putsRo l r = true) := by decide +kernel
theorem hyp_records_end : (∀ p ∈ ([(1, 0), (2, 0), (3, 0), (4, 0), (6, 0), (8, 0), (5, 0), (5, 1), (5, 2), (5, 3), (5, 4), (5, 5), (5, 6), (5, 7), (5, 8),
      (5, 9), (5, 10)] : List (Nat × Nat)),
      let e := recOf p.1 0 0 1 [BitVec.ofNat 8 p.2, 2, 3]; let l := listOf (.core 0 0 9 0x2000) [e] true; let s := bandState [l]; let r := trec e;
      s.listAt l.id = some l ∧ l.current = some r ∧ l.running = true ∧ s.listSpan l r 0 = some (0, 1) ∧ r.op = p.1 ∧ r.x 32 1 = p.2) ∧
    (∀ p ∈ ([(6, .partialOf 0 0 0 0), (7, .update 0 0 0 0)] : List (Nat × ListFrom)),
      let e := recOf p.1 0 0 1 []; let l := listOf p.2 [e] true; let s := bandState [l]; let r := trec e;
      s.listAt l.id = some l ∧ l.current = some r ∧ l.running = true ∧ s.listSpan l r 0 = some (0, 1) ∧ r.op = p.1) ∧
    (trec armRec).x 32 1 + (trec armRec).x 33 1 ≤ 256 ∧ field 3 0 (trec armRec).chans ≠ 0 ∧ field 7 4 (trec armRec).chans = 0 := by decide +kernel

/-! ### Tenants, tier 2 and training -/

/-- Tenant 18 in service, with queues 0 and 1, a host region 0 and a device region 1, and command `e` waiting. -/
def tenState (x : Tenant → Tenant) : State :=
  { State.reset with
    hl := { HlSt.reset with state := 1 },
    tenants := [(18, x { Tenant.none with
      state := 1, quota1 := 100, quota2 := 100,
      regions := [(0, { Region.none with host := true, base := 0x100000, va := 0x800000, len := 65536, write := true }),
        (1, { Region.none with va := 0x400000, len := 65536 })],
      queues := [(0, { Queue.reset with isSet := true, depthExp := 4, prod := 1 }), (1, { Queue.reset with isSet := true, depthExp := 4 })] })] }
/-- A command entry of an opcode with bytes 16 on. -/
def cmdOf (op : Nat) (l : List Byte) : Entry := entryOf ([BitVec.ofNat 8 op] ++ zeros 15 ++ l ++ zeros (48 - l.length))
def accepts (s : State) (tn : Nat) (e : Entry) (op : Nat) : Bool :=
  entryField e 0 1 == op && cmdOk e ((s.tenant tn).queue 0).cons && s.inputWaits tn 0 && (s.tenant tn).held == [] && s.mayAccept tn
theorem accepts_of {s : State} {tn : Nat} {e : Entry} {op : Nat} (h : accepts s tn e op = true) : s.Accepts tn e op := by
  simp only [accepts, Bool.and_eq_true, beq_iff_eq] at h
  obtain ⟨⟨⟨⟨h1, h2⟩, h3⟩, h4⟩, h5⟩ := h
  exact ⟨h1, h2, h3, h4, h5⟩
/-- Tensor 5 of tenant 18: 100 bytes in tier-2 page 3, in a state, with its unit written or not. -/
def t2State (st : T2State) (wr : Bool) (s : State) : State :=
  { s with t2 := [(t2Key 18 5, { T2Tensor.none with state := st, size := 100, pages := [3], written := if wr then [(0, true)] else [] })] }
def t2Cmd (op : Nat) (l : List Byte) : Entry := cmdOf op (le 3 5 ++ l)
theorem hyp_tier_two :
    (let s := tenState id; let e := t2Cmd 0x10 (zeros 5 ++ le 8 100); accepts s 18 e 0x10 = true ∧ (s.tenant 18).over1 = false ∧
      (s.tenant 18).over2 = false ∧ (s.t2At (t2Key 18 5)).state = .absent ∧ entryField e 16 3 = 5 ∧ entryField e 24 8 ≠ 0 ∧
      (s.tenant 18).use2 + 1 ≤ (s.tenant 18).quota2 ∧ s.t2Used + 1 ≤ tier2Pages) ∧
    ceilDiv (entryField (t2Cmd 0x10 []) 24 8) pageSize = 0 ∧
    (∀ rg ∈ [0, 1], let e := t2Cmd 0x11 ([0] ++ le 4 0 ++ le 4 1 ++ [BitVec.ofNat 8 rg]); let s := t2State .loading false (tenState id);
      accepts s 18 e 0x11 = true ∧ entryField e 24 4 = 1 ∧ (s.t2At (t2Key 18 5)).units = 1 ∧
      Sp.get false (s.t2At (t2Key 18 5)).written 0 = false ∧ entryField e 28 1 = rg ∧ ((s.tenant 18).region rg).len ≠ 0 ∧
      entryField e 32 8 + 100 ≤ ((s.tenant 18).region rg).len) ∧
    ((tenState id).readVirt 18 0x400000 100 (100 / 64 + 2)).2 = true ∧
    ({ tenState id with pages := [(pageKey 18 64, ⟨.tier1 9 false, false, false⟩)] }.readVirt 18 0x400000 100 (100 / 64 + 2)).2 = false ∧
    (let s := t2State .loading true (tenState id); accepts s 18 (t2Cmd 0x12 []) 0x12 = true ∧ accepts s 18 (t2Cmd 0x13 []) 0x13 = true ∧
      (s.t2At (t2Key 18 5)).state = .loading) ∧
    (let s := t2State .sealed true (tenState id); accepts s 18 (t2Cmd 0x14 []) 0x14 = true ∧ s.t2InUse 18 5 = false) := by decide +kernel
/-- Tensor 5 being sealed, with all its units stored at T2_SEAL or not. -/
def sealState (whole : Bool) (crc : Nat) : State :=
  { tenState id with t2 := [(t2Key 18 5, { T2Tensor.none with state := .sealing, size := 100, pages := [3], whole := whole, crc := crc })] }
theorem hyp_seals : (let s := sealState true 0; let x := s.t2At (t2Key 18 5);
      x.whole = true ∧ x.state = .sealing ∧ crc32 (s.t2Bytes x) ≠ x.crc) ∧
    ((sealState false 0).t2At (t2Key 18 5)).whole = false ∧
    (⟨0x5A, 0x1000⟩ : Who).isDriver = true ∧ ((tenState id).tenant 18).state ≠ 0 ∧ ((tenState id).tenant 19).state = 0 := by decide +kernel

theorem hyp_seal_crc : (let s := sealState true 0x9988c6ca; let x := s.t2At (t2Key 18 5); crc32 (s.t2Bytes x) = x.crc ∧ x.whole = true) := by decide +kernel
/-- A hot sealed tensor in the queue of promotion, with quota for it; and its copy under way. -/
def hotState : State :=
  let s := t2State .sealed true (tenState id)
  { s with tiers := { s.tiers with queue := [(t2Key 18 5, 300), (t2Key 18 9, 100)] } }
theorem hyp_promotion (start : Nat) : hotState.tiers.copying = none ∧ hotState.tiers.promEnable = true ∧ hotState.tiers.admitting = false ∧
    hotState.stopped = false ∧ hottest hotState.tiers.queue = some (t2Key 18 5, 300) ∧ hotState.promotable (t2Key 18 5) = some 0 ∧
    (hotState.t2At (t2Key 18 5)).pages.length = 1 ∧ (pickFrames hotState.frames 0 start (1 + hotState.frames.length) 1).length = 1 := by
  refine ⟨rfl, rfl, rfl, rfl, ?_, ?_, ?_, rfl⟩ <;> decide +kernel
theorem hyp_heat : (let s := { hotState with tiers := { hotState.tiers with copying := some (t2Key 18 5, [4]) } };
      s.tiers.copying = some (t2Key 18 5, [4]) ∧ (s.t2At (t2Key 18 5)).state = .sealed ∧ (s.tenant 18).use1 ≤ (s.tenant 18).quota1) ∧
    hotState.beats.beat < hotState.tiers.epochEnd ∧
    (let s := { hotState with beats := { hotState.beats with beat := 64 } }; s.tiers.epochEnd ≤ s.beats.beat ∧
      Sp.wf T2Tensor.none s.t2 = true) ∧ (hotState.t2At (t2Key 18 5)).cls = 0 ∧ (hotState.t2At (t2Key 18 5)).meanHeat < hotState.tiers.drop := by
  decide +kernel
theorem hyp_update : (∀ opc ∈ [0, 1, 2, 3], let w := wd 10 opc 0;
      let s := { stOf w ctx18 with jobs := [(0, { Job.none with life := .running, info := { JobRec.none with tenant := 18 } })] };
      issues s 0 0 w .clean = true ∧ w.cls = 10 ∧ w.opc = opc ∧ (s.job 0).life ≠ .none ∧ (s.job 0).info.tenant = 18 ∧
        field 57 26 w.pl = ((s.taken 0 0 .clean).ctx 0 0).stepReg.toNat ∧ s.entriesOf 0 = [] ∧ (s.ctx 0 0).qob = []) ∧
    State.reset.stepMem 0 (StepSt.init 0) = State.reset.mem := by decide +kernel
/-- The job of `bandState` with the partial of its only record known. -/
def partState (v : W32) (p : Bool) : State :=
  (bandState []).updJob 0 (fun j => { j with upd := { j.upd with landed := [(0, 0, 0)], parts := [(partKey (0, 0, 0), (v, p))] } })
def outcomeOf (s : State) : Option Nat := (s.allPartials 0).map (fun qs =>
  (decide286 (s.job 0).info (s.job 0).upd.st.exp (qs.foldl (fun a q => (add32 a q.1).1) negZero32) (qs.any (·.2))).1)
/-- A step that is applied, one that is skipped, and one whose sum is poisoned. -/
theorem hyp_training :
    (∀ p ∈ ([(0x3F800000#32, false, 1), (0x7F800000#32, false, 2), (0x3F800000#32, true, 4)] : List (W32 × Bool × Nat)), let s := partState p.1 p.2.1;
      (s.job 0).life = .running ∧ (s.job 0).upd.dec = none ∧ s.entriesOf 0 ≠ [] ∧ s.stepIssued 0 0 = true ∧ (s.job 0).upd.st.step + 1 = 0 ∧
        s.stopped = false ∧ outcomeOf s = some p.2.2) ∧
    (let s := { bandState [] with coll := { CollSt.reset with insts := [⟨0, 3, 0, [], [], [], [], [], [⟨0, [], [0], [], []⟩], [], [], [], 0⟩] } };
      s.coll.insts.any (fun i => s.sumsReady i 0 0 0 0) = true) ∧
    (let s := (partState 0 false).updJob 0 (fun j => { j with upd := { j.upd with dec := some ⟨1, 0#32, j.upd.st⟩ } });
      (s.job 0).upd.dec = some ⟨1, 0#32, (s.job 0).upd.st⟩ ∧ (s.job 0).upd.left = []) := by decide +kernel
theorem hyp_stream_acks : (∀ kind ∈ [2, 3], let r : WRec := ⟨kind, 0, 1, 0, [], [], (2, 1)⟩;
    let s := { (bandState []).updJob 0 (fun j => { j with upd := { j.upd with endAt := [(0#32, 1, 77)] } }) with watchOut := [r] };
    s.watchOut = r :: [] ∧ r.job = (s.job 0).info.job ∧ (s.job 0).life ≠ .none ∧ (s.job 0).upd.endAt = (0#32, 1, 77) :: [] ∧
      (s.job 0).upd.poisoned = false ∧ (s.job 0).upd.hostHold = []) := by decide +kernel

/-! ### Collectives -/

/-- Entries of the four operations, an all-reduce with its range, and a compressed reduce-scatter. -/
def collsOf : List CollEntry :=
  [⟨0, 0, 0, 2, 0, 0, 0, 0, 0, 64, 0x10000000, 0x10000000, 0⟩, ⟨1, 1, 0, 2, 1, 1, 0, 0, 0, 256, 0x10000000, 0x10000000, 0x10000000⟩,
   ⟨2, 2, 0, 2, 0, 0, 0, 0, 0, 64, 0x10000000, 0x10000000, 0⟩, ⟨3, 3, 0, 2, 0, 0, 0, 0, 0, 64, 0x10000000, 0x10000000, 0⟩,
   ⟨4, 1, 1, 2, 1, 1, 0, 0, 0, 256, 0x10000000, 0x10000000, 0x10000000⟩]
def imgC : Image :=
  { img0 with
    colls := [⟨1, collsOf⟩], sets := [⟨1, [⟨4, 0, 0, 0, 0, 256, 0#32, 1, [0, 240]⟩]⟩], tensors := [⟨8, 5, 18, 1, 0, 0, 1, 0x20000000, 0, 0⟩, ⟨4, 4, 18, 1, 0, 0, 15, 0x10000000, 0, 0⟩] }
/-- Where the leaf of entry 1 begins; the two pages from there on are mapped. -/
def partnerAt : Nat := (Config.partnerRange 0x10000000).toNat
def partnerPages : List (Nat × PageEnt) :=
  [(pageKey 18 (partnerAt / 65536), ⟨.hostPage 0 0, false, false⟩), (pageKey 18 (partnerAt / 65536 + 1), ⟨.hostPage 0 1, false, false⟩)]
/-- A state in which job 1 of tenant 18 runs program 7 in shard 0 on this module; frame 30 holds its residuals. -/
def collState (w : IWord) : State :=
  let s := { bandState [] with image := some imgC, cores := (stOf w ctxV).cores, mem := (stOf w ctxV).mem }
  { s.updJob 0 (fun j => { j with info := { j.info with progs := [7] } }) with
    pages := s.pages ++ partnerPages
    frames := s.frames ++ [(30, { Frame.free with owner := some (18, 1, .part 8 0 0) })] }
/-- A compression descriptor: leaf, residuals, output; 600 elements. -/
def descBytes2 : List Byte := le 6 0x10000000 ++ le 6 0x20000000 ++ le 6 0x10200000 ++ [2, 0] ++ le 3 7 ++ [0] ++ le 4 0 ++ le 8 0 ++ le 8 600 ++ zeros 20
/-- A collective instruction: table entry, and the place of its descriptor. -/
def collWord (opc id cd : Nat) : IWord := wd 8 opc (id + 9 * 2 ^ 16 + cd * 2 ^ 27 + 0x200 * 2 ^ 53)
theorem slotFor_zero (j : Job) (h : j.info.hExp = 0) (n p : Nat) : j.slotFor n p = 0 := by simp [Job.slotFor, h, Nat.mod_one]
/-- The four operations, and a compressed reduce-scatter. -/
def collCases : List (Nat × Nat × Nat) := [(0, 0, 0), (1, 1, 0), (2, 2, 0), (3, 3, 0), (1, 4, 0x40)]
def collCase (p : Nat × Nat × Nat) : State :=
  let s := collState (collWord p.1 p.2.1 p.2.2)
  if p.2.2 = 0 then s else withSram s 0x1000 descBytes2
def collTaken (p : Nat × Nat × Nat) : State := (collCase p).taken 0 0 .clean
theorem hyp_colls_shard : ∀ p ∈ collCases, (collTaken p).actingShard 0 0 7 = some 0 := by
  intro p h
  have h3 : ∀ p ∈ collCases, ((collTaken p).job 0).info.hExp = 0 ∧ ((collTaken p).job 0).map = [(0, 0)] ∧ (collTaken p).self = 0 := by
    decide +kernel
  obtain ⟨h0, h1, h2⟩ := h3 p h
  simp [State.actingShard, slotFor_zero _ h0, h1, h2]
theorem hyp_colls_begin : ∀ p ∈ collCases,
    let w := collWord p.1 p.2.1 p.2.2; let s := collCase p; let u := collTaken p; let x := u.ctx 0 0;
    issues s 0 0 w .clean = true ∧ w.cls = 8 ∧ w.opc = p.1 ∧ (s.ctx 0 0).qob = [] ∧ u.jobSlot x.prog = some 0 ∧
      (u.collEntry 0 (field 15 0 w.pl)).any (fun e =>
        let comp := if e.op = 1 ∧ e.compressed = true then some (entryOf (u.sram 0 (64 * field 43 27 w.pl) 64)) else none
        decide (e.op = w.opc ∧ (comp = none → field 43 27 w.pl = 0) ∧ 64 * field 43 27 w.pl + 64 ≤ sramSize ∧
          16 * field 72 53 w.pl + 16 ≤ sramSize ∧ x.hitsSave (16 * field 72 53 w.pl) 16 = false ∧ e.dstVa < 2 ^ 48) &&
          decide (x.reg (field 48 44 w.pl) = 0 ∧ e.srcVa < 2 ^ 48 ∧ u.inst 0 e.id x.stepReg = none) &&
          (p.2.1 == 1 || u.rangesOk 0 0 (if e.op = 1 then partnerAt else if e.srcKind = 0 then e.srcVa else 0) e.dstVa e comp) &&
          !(u.issueWrites 0 0 e.dstVa e comp).any (fun r => u.virtHits 0 18 x r.1 r.2) &&
          comp.all (fun d => descOk d && (u.job (entryField d 19 1)).life == .running && (u.job (entryField d 19 1)).info.tenant == 18 &&
            u.descPlaced (entryField d 19 1) d)) = true := by decide +kernel
theorem get_listed {α : Type} (d : α) (l : Sp α) (k : Nat) (h : k ∈ l.map (·.1)) : Sp.get d l k ∈ l.map (·.2) := by
  induction l with
  | nil => simp at h
  | cons p t ih =>
    obtain ⟨j, v⟩ := p
    simp only [Sp.get, List.map_cons, List.mem_cons] at h ⊢
    by_cases e : j = k
    · simp [e]
    · rw [if_neg e]; exact .inr (ih (h.resolve_left (fun h => e h.symm)))
/-- A page that can be read. -/
def readable (e : PageEnt) : Bool :=
  !e.quar && !e.moving && (match e.dest with
    | .tier1 _ _ => true
    | .hostPage _ _ => true
    | _ => false)
theorem read_code (s : State) (tn va : Nat) (hl : pageKey tn (va / 65536) ∈ s.pages.map (·.1)) (hr : (s.pages.map (·.2)).all readable = true) :
    s.accessCode tn va false = 0 := by
  have h := List.all_eq_true.mp hr _ (get_listed PageEnt.none s.pages _ hl)
  unfold readable at h
  simp only [Bool.and_eq_true, Bool.not_eq_true'] at h
  obtain ⟨⟨h1, h2⟩, h3⟩ := h
  have e : (s.pageOf tn va).2 = Sp.get PageEnt.none s.pages (pageKey tn (va / 65536)) := by
    unfold State.pageOf
    dsimp only
    rw [if_neg (fun h => by rw [h] at h3; exact absurd h3 (by decide))]
  unfold State.accessCode
  rw [e]
  generalize Sp.get PageEnt.none s.pages (pageKey tn (va / 65536)) = x at *
  obtain ⟨d, q, m⟩ := x
  cases d <;> simp_all
/-- The partner range of the uncompressed reduce-scatter is mapped, wherever it lies. -/
theorem hyp_colls_partner : let u := collTaken (1, 1, 0); u.mapped (u.tn 0) partnerAt 1024 false = true := by
  intro u
  have ht : u.tn 0 = 18 := by decide +kernel
  have hp : u.pages = (bandState []).pages ++ partnerPages := rfl
  have hr : (u.pages.map (·.2)).all readable = true := by rw [hp, List.map_append]; decide +kernel
  rw [State.mapped, ht, List.all_eq_true]
  intro i hi
  have hi : i = 0 ∨ i = 1 := by have := List.mem_range.mp hi; omega
  rw [read_code u 18 _ ?_ hr]
  · rfl
  · have e : (partnerAt / 65536 + i) * 65536 / 65536 = partnerAt / 65536 + i := Nat.mul_div_cancel _ (by decide)
    rw [e, hp, List.map_append, List.mem_append]
    rcases hi with rfl | rfl <;> exact .inr (by simp [partnerPages])
theorem hyp_colls_range (v : Nat) : (Config.partnerRange v).toNat + 0 < 2 ^ 48 := by have := (Config.partnerRange v).isLt; omega

/-- An issue of shard 0, abandoned or not. -/
def issueOf (ab : Bool) : CollIssue := ⟨0, 0, 0, 9, 0x2000, 0x10000000, 0x10000000, none, 0, false, ab, false, false⟩
def instOf (id : Nat) (ab : Bool) : CollInst := ⟨0, id, 0, [issueOf ab], [], [⟨0, 0, 0, 0⟩], [], [], [⟨0, [(0, 0)], [], [], []⟩], [], [], [], 0⟩
def withInst (i : CollInst) : State := { collState 0#128 with coll := { CollSt.reset with insts := [i] } }
/-- A COLL_SEG of tenant 18 in job slot 0: table entry, flags, step. -/
def segMsg (coll flags step : Nat) : LMsg :=
  ⟨[5, 1, 1, 0] ++ zeros 7 ++ zeros 3 ++ le 2 18 ++ le 2 coll ++ [BitVec.ofNat 8 flags, 0] ++ le 4 step ++ zeros 8, zeros 16⟩
def withMsg (s : State) (m : LMsg) : State := s.updPort 3 (fun q => { q with inbox := [m] })
/-- `collState` with a second stage of the job on another node (a request table of one entry), or without. -/
def peersState (two : Bool) : State := (collState 0#128).updJob 0 (fun j => { j with stages := if two then [j.map, [(1, 0)]] else j.stages })
theorem hyp_colls_end :
    (∀ p ∈ ([(0, true), (1, true), (2, true), (3, true), (2, false)] : List (Nat × Bool)), let i := instOf p.1 p.2; let s := withInst i;
      s.coll.insts[0]? = some i ∧ (s.collEntry 0 p.1).any (fun e => e.op == p.1 &&
        i.issues.find? (fun x => !x.done && s.issueDone i e x) == some (issueOf p.2) && s.allGot i e (fun _ => true)) = true ∧
      (s.held 0).all (fun l => (i.issue l).isSome) = true) ∧
    (let m := segMsg 0 0 0; let s := withMsg State.reset m; s.front 3 5 0 = some m ∧ (s.job m.slot).life ≠ .running) ∧
    (∀ c ∈ [(0, true), (0xFFFF, true), (0, false), (0xFFFF, false)], let m := segMsg c.1 1 0; let s := withMsg (peersState c.2) m;
      s.tableRoom m.slot = c.2 ∧ s.front 3 5 0 = some m ∧ (s.job m.slot).life = .running ∧ (s.job m.slot).info.tenant = m.tenant ∧ bitN 0 m.cflags = true ∧
        m.segKey.src < (s.job m.slot).map.length ∧ s.holder m.slot m.segKey.src = s.self ∧ (m.coll = 0xFFFF ∨ s.collEntry m.slot m.coll ≠ none)) ∧
    (let m := segMsg 0xFFFF 0 0; let s := withMsg (collState 0#128) m; s.front 3 5 0 = some m ∧ bitN 0 m.cflags = false ∧ m.coll = 0xFFFF ∧
      m.step = (s.job m.slot).upd.st.step + 1) ∧
    (let m := segMsg 0 0 0; let i := instOf 0 false; let s := withMsg (withInst i) m; s.front 3 5 0 = some m ∧ m.coll ≠ 0xFFFF ∧
      s.inst m.slot m.coll m.step = some i ∧ (s.collEntry m.slot m.coll).isSome = true ∧ i.got.contains m.segKey = true) ∧
    (let m : LMsg := { segMsg 2 0 0 with data := zeros 256 }; let q := m.segKey;
      let i := { instOf 2 false with got := [], asked := [{ q with seg := 0 }] }; let s := withMsg (withInst i) m;
      s.front 3 5 0 = some m ∧ bitN 0 m.cflags = false ∧ s.inst m.slot m.coll m.step = some i ∧ i.got.contains q = false ∧
        i.asked.any (fun a => { a with seg := 0 } == { q with seg := 0 }) = true ∧
        (s.collEntry m.slot m.coll).any (fun e => !e.compressed && decide (q.seg < s.segCount 0 e { q with seg := 0 }) &&
          m.data.length == 16 * ceilDiv (s.segLen 0 e { q with seg := 0 } q.seg) 16) = true) := by decide +kernel
/-- A compression of 600 elements on die 0. -/
def czRun : CzRun :=
  { core := 0, ctx := 0, inst := 0, jobSlot := 0, die := 0, grad := 0x10000000, resid := 0x20000000, out := 0x10200000, policy := 2, dither := false, tensor := 7,
    shard := 0, origin := 0, count := 600, exp := 0, step := 0#32, coll := 4, groups := List.replicate 8 0, bufs := List.replicate 8 ([], false),
    xors := [], bad := [] }
/-- Its first block, which does not end a group; its last, which does, clean and in a group that is poisoned. -/
theorem hyp_compress : (let s := { collState 0#128 with cz := [(0, { CzDie.reset with runs := [czRun] })] };
    s.stopped = false ∧ (s.czAt 0).runs.find? (fun r => decide (CzRun.blockOf 0 (r.groups.getD 0 0) < r.blocks)) = some czRun ∧
      s.czWaits czRun 0 = false ∧ CzRun.blockOf 0 0 = 0 ∧ 0 + 1 < czRun.blocks ∧ 0 < czRun.bufs.length ∧ 0 < czRun.groups.length) ∧
    (let r := { czRun with groups := 2 :: List.replicate 7 0 };
      let s := { collState 0#128 with cz := [(0, { CzDie.reset with runs := [r] })] };
      (s.czAt 0).runs.find? (fun r => decide (CzRun.blockOf 0 (r.groups.getD 0 0) < r.blocks)) = some r ∧ s.czWaits r 2 = false ∧
        CzRun.blockOf 0 2 = 2 ∧ 2 + 1 = r.blocks) ∧
    (let r := { czRun with groups := 2 :: List.replicate 7 0, resid := 0x30000000 };
      let s := { collState 0#128 with cz := [(0, { CzDie.reset with runs := [r] })], watched := true };
      s.watched = true ∧ s.czWaits r 2 = false ∧ (s.czBlock r 2).2.2.1 = true) := by decide +kernel
theorem hyp_expand : (List.range 8).any (fun c => ((withInst (instOf 1 false)).nextExpand 0 c).isSome) = true := by decide +kernel

/-! ### Links and membership -/

/-- A ring of three modules; this one is `self`, its ports 0 and 1 lead up and down. -/
def imgL (self : Nat) : Image := { img0 with fabric := ⟨[3], self, [⟨0, false, false, 0, 0⟩, ⟨0, true, false, 0, 0⟩], 77⟩ }
def withPort (self : Nat) (f : Port → Port) : State :=
  ({ State.reset with image := some (imgL self), start := { State.reset.start with pwrGood := true, stage := 4 } }).updPort 0 f
theorem hyp_training_steps :
    (State.reset.port 0).state = 0 ∧ (State.reset.port 0).reason = 0 ∧ (withPort 0 id).start.pwrGood = true ∧
    ([2, 5].contains 2 = true ∧ [2, 5].contains 0 = false ∧ [2, 5].contains 1 = false ∧ (∀ j, j < 9 → (List.range 9).contains j = true) ∧
      (∀ j, j < 9 → ([] : List Nat).contains j = false)) ∧
    (∀ st ∈ [1, 2, 3, 4, 5, 6, 7], let s := withPort 0 (fun q => { q with state := 2, step := st });
      (s.port 0).state = 2 ∧ (s.port 0).step = st ∧ (s.port 0).retrain = none ∧ s.now < (s.port 0).armed + stepLimit st ∧
        (s.port 0).armed + stepLimit st ≤ ({ s with now := 30000000 }).now) ∧
    (let ls := [0, 1, 2, 3, 4, 5, 6, 7]; ls.length = 8 ∧ ls.all (fun l => Port.reset.lanes.contains l) = true ∧ ls.eraseDups = ls) ∧
    commonVersion 3 (withPort 0 id).gl.verMax ≠ 0 ∧
    (let s := withPort 0 (fun q => { q with state := 1, retryAt := some 9 }); (s.port 0).retryAt = some 9 ∧ s.start.stage = 4 ∧
      (s.fabPort 0).unused = false ∧ (s.port 0).state ≠ 3) ∧
    (let s := withPort 0 (fun q => { q with state := 3, spare := 8 }); (s.port 0).lanes.contains 2 = true ∧ (s.port 0).held = false ∧
      (s.port 0).state = 3 ∧ (s.port 0).retrain = none ∧ (s.port 0).spare ≠ 15 ∧ (s.port 0).silent = false ∧ s.gl.view = []) ∧
    (∀ st ∈ [2, 3], let s := withPort 0 (fun q => { q with state := st, retrain := some 5 }); (s.port 0).retrain = some 5 ∧ (s.port 0).state = st) ∧
    (let s := { withPort 0 (fun q => { q with state := 3 }) with gl := { GlSt.reset with view := [4, 4, 4] } };
      let u := (s.expire 9 (s.port 0).lastRx 200000).setPort 0 { s.port 0 with silent := true };
      s.isLeader = true ∧ ((List.range 18).filter (fun r => !(s.fabPort r).unused && s.peerOf r == s.peerOf 0)).all
        (fun r => (u.port r).silent) = true ∧
      s.gl.suspects.any (fun x => x.1 == s.peerOf 0 && x.2.1 == s.self) = false) := by decide +kernel
/-- A flit of 256 bytes with its CRC. -/
def flitOf (h : Nat) (body : List Byte) : List Byte :=
  let b := le 4 h ++ body ++ zeros (248 - body.length)
  b ++ le 4 (crc32 b)
def goodFlit (p : State) (bytes : List Byte) : Bool :=
  decide ((p.port 0).state ≠ 0 ∧ bytes.length = 256 ∧ crc32 (bytes.take 252) = leVal (bytes.drop 252))
/-- A message's first flit of two, and its only flit; a flit with a wrong CRC; a control flit. -/
theorem hyp_flits :
    (∀ e ∈ [0, 1], let s := withPort 0 (fun q => { q with state := 3 }); let b := flitOf (1 + 2 * 2 ^ 14 + 2 ^ 17 + e * 2 ^ 18 + 32 * 2 ^ 19) (zeros 32);
      goodFlit s b = true ∧ (let h := leVal (b.take 4); field 13 12 h = 0 ∧ flitForm h = true ∧ field 11 0 h = ((s.port 0).rxSeq + 1) % 4096 ∧
        bitN 17 h = true ∧ bitN 18 h = (e == 1))) ∧
    goodFlit (withPort 0 (fun q => { q with state := 3 })) (zeros 256) = false ∧
    (let s := withPort 0 (fun q => { q with state := 3 }); let b := flitOf 4096 []; goodFlit s b = true ∧ leVal (b.take 4) = 4096 ∧
      bitN 12 (leVal ((b.drop 4).take 2)) = false ∧ leVal ((b.drop 42).take 4) = 0 ∧ (s.port 0).version ≠ 3 ∧ s.parent ≠ some (s.port 0).peerNode) ∧
    (∀ n ∈ [14, 15], let m : LMsg := segMsg 0 0 0;
      let s := withPort 0 (fun q => { q with state := 3, replays := n, sent := [(⟨1, 2, true, true, zeros 32⟩, ⟨m, 2, 0, false, 0⟩)] });
      (s.port 0).sent ≠ [] ∧ (s.port 0).state = 3 ∧ (s.port 0).retrain = none ∧ (s.port 0).replays = n) := by decide +kernel

/-- A Pea message of a kind: 16 bytes at 0x3000 of core 1. -/
def peaMsg (kind core : Nat) : LMsg :=
  ⟨[BitVec.ofNat 8 kind, 1, 1, 0] ++ zeros 4 ++ le 3 1 ++ zeros 3 ++ le 2 18 ++ le 2 44 ++ [BitVec.ofNat 8 core] ++ le 3 (if kind = 3 ∨ kind = 9 then 0 else 0x3000) ++
    le 2 9 ++ zeros 8, if kind = 2 then [] else zeros 16⟩
def landState (m : LMsg) : State :=
  let s := peaState 1
  withMsg { s with
    jobs := [(0, { Job.none with life := .running, info := { JobRec.none with tenant := 18, progs := [7] } })]
    gl := { GlSt.reset with outs := [⟨44, 1, 0, .pea 0 { peaOf (peaWord 1) 0 with data := zeros 16 }⟩] } } m
theorem hyp_messages :
    (∀ kind ∈ [1, 2, 4], let m := peaMsg kind 1; let s := landState m; s.front 3 kind 0 = some m ∧ (match (s.popInbox 3).peaCheck m 7 with
        | .ok k => k == 0
        | .error _ => false) = true) ∧
    (∀ kind ∈ [1, 2, 4], let m := peaMsg kind 2; let s := landState m; s.front 3 kind 0 = some m ∧ (match (s.popInbox 3).peaCheck m 7 with
        | .ok _ => false
        | .error c => c == 6) = true) ∧
    (∀ kind ∈ [3, 9], let m := peaMsg kind 0; let s := landState m; let pm := { peaOf (peaWord 1) 0 with data := zeros 16 };
      s.front 3 kind 0 = some m ∧ s.answered m = some ⟨44, 1, 0, .pea 0 pm⟩ ∧ (s.core 0).peas.contains pm = true ∧ pm.op = 1 ∧ m.status ≤ 1 ∧
        m.data.length = pm.len) ∧
    (let m := peaMsg 7 0; (landState m).front 3 7 0 = some m) := by decide +kernel

/-- A MEMBER message: subkind, byte 17 and 18, epoch, node and count; from node 1. -/
def memMsg (sub f n ep node cnt : Nat) : LMsg :=
  ⟨[6, 2, 0, 0] ++ zeros 4 ++ le 3 1 ++ zeros 5 ++ [BitVec.ofNat 8 sub, BitVec.ofNat 8 f, BitVec.ofNat 8 n, 0] ++ le 4 ep ++ le 3 node ++ le 4 cnt ++ [0],
    if sub = 4 then zeros 16 else []⟩
/-- Module `self` in the view of three active modules that node 0 leads. -/
def memState (self : Nat) (f : GlSt → GlSt) : State :=
  { withPort self id with gl := f { GlSt.reset with view := [4, 4, 4], epoch := 5#32 } }
theorem hyp_beacons :
    (memState 0 id).isLeader = true ∧ (memState 0 id).gl.isolated = false ∧ (memState 1 id).isLeader = false ∧
    (let m := memMsg 1 0 0 5 0 0; let s := withMsg (withPort 1 id) m; s.front 3 6 1 = some m ∧ s.gl.view = []) ∧
    (let m := memMsg 1 0 0 5 0 0; let s := withMsg (memState 1 id) m; s.front 3 6 1 = some m ∧ s.gl.view ≠ [] ∧ m.about = s.gl.epoch ∧
      m.node = s.gl.leader ∧ s.gl.isolated = false ∧ s.now < s.gl.lastBeacon + 1000000 ∧ s.gl.lastBeacon + 1000000 ≤ ({ s with now := 1000000 }).now) ∧
    (let m := memMsg 2 0 0 5 0 1; let s := withMsg (memState 0 id) m; s.front 3 6 2 = some m ∧ m.about = s.gl.epoch ∧ s.children.contains m.src = true) ∧
    (let s := memState 1 (fun g => { g with beacon := some 100000 }); s.gl.beacon = some 100000 ∧ s.gl.acked = false) ∧
    (memState 1 (fun g => { g with offSince := some 7 })).gl.offSince = some 7 := by decide +kernel
theorem hyp_views :
    (let m := memMsg 3 0 0 5 2 0; let s := withMsg (memState 0 id) m; s.front 3 6 3 = some m ∧
      s.gl.suspects.any (fun x => x.1 == m.node && x.2.1 == m.src) = false) ∧
    (let m := memMsg 8 0 0 5 2 0; let s := withMsg (memState 0 id) m; s.front 3 6 8 = some m ∧ isMember s.gl.view m.src = true ∧
      s.gl.dead.contains m.src = false) ∧
    (let m := memMsg 7 0 0 5 1 0; let s := withMsg (memState 0 (fun g => { g with view := [4, 0, 4] })) m; s.front 3 6 7 = some m ∧
      isMember s.gl.view m.src = false ∧ s.gl.joiners.contains m.src = false) ∧
    (let s := memState 0 (fun g => { g with suspects := [(1, 0, 5), (1, 2, 9)] });
      let by_ := (neighbours s.dims 1).filter (isMember s.gl.view);
      by_ ≠ [] ∧ by_.all (fun n => s.gl.suspects.any (fun x => x.1 == 1 && x.2.1 == n)) = true ∧ s.gl.dead.contains 1 = false ∧
        isMember s.gl.view 1 = true) ∧
    (let s := memState 1 id; s.gl.prop = none ∧ s.gl.isolated = false ∧
      (List.range s.gl.view.length).find? (fun i => stateIn s.gl.view i == 4 && i != s.gl.leader) = some s.self) ∧
    (memState 0 (fun g => { g with joiners := [1] })).gl.joiners ≠ [] := by decide +kernel
def prop6 : Proposal := ⟨6#32, 0, 100, 1, [], [4, 4, 4], false, false, [], []⟩
theorem hyp_epochs :
    (let m := memMsg 4 0 2 6 0 0; let s := withMsg (memState 1 id) m; s.front 3 6 4 = some m ∧ s.gl.epoch.toNat < m.about.toNat ∧ m.f 17 1 < m.f 18 1 ∧
      s.gl.prop = none) ∧
    (let pr := { prop6 with view := [] }; let s := { memState 1 (fun g => { g with prop := some pr }) with now := 1000100 };
      s.gl.prop = some pr ∧ pr.view = [] ∧ pr.armed + 1000000 ≤ s.now) ∧
    (let m := memMsg 4 0 2 5 0 0; let s := withMsg (memState 1 id) m; s.front 3 6 4 = some m ∧ m.about.toNat ≤ s.gl.epoch.toNat) ∧
    (∀ sub ∈ [5, 6, 9], let m := memMsg sub 0 0 6 2 1; let s := withMsg (memState 0 (fun g => { g with prop := some prop6 })) m;
      s.front 3 6 sub = some m ∧ s.gl.prop = some prop6 ∧ m.about = prop6.epoch ∧ prop6.view ≠ [] ∧ prop6.proposer = s.self) ∧
    (let m : LMsg := ⟨[8, 2, 0, 0] ++ zeros 12 ++ le 4 6 ++ zeros 12, []⟩; let s := withMsg (memState 1 id) m; s.front 3 8 0 = some m ∧
      s.gl.epoch.toNat < (BitVec.ofNat 32 (m.f 16 4)).toNat ∧ s.sealRun = none) ∧
    { prop6 with view := [] }.view = [] ∧ prop6.drained = false ∧ (memState 0 id).gl.outs = [] ∧ prop6.reported = false ∧
    (memState 0 id).majority (b2n true + countSum [(1, 1)]) = true ∧ (memState 0 id).majority (b2n prop6.drained + countSum prop6.counts) = false ∧
    (let s := withPort 0 (fun q => { q with heldMsgs := [memMsg 1 0 0 6 0 0] });
      (List.range 18).find? (fun r => (s.port r).heldMsgs != []) = some 0) := by decide +kernel

/-! ### Hosts -/

def driver : Who := ⟨0x5A, 0x1000⟩
/-- Attach with a version and a host number. -/
def attachWord (ver host : Nat) : W32 := BitVec.ofNat 32 (ver + 16 + 256 * host)
/-- Full function, with a host attached at port 1 or none. -/
def fullState (att : Bool) : State :=
  { State.reset with
    image := some img0, start := { State.reset.start with stage := 4, done := true },
    hl := if att then { HlSt.reset with state := 1, att := [1], hostId := 9 } else HlSt.reset }
theorem hyp_sessions : (⟨3, 0⟩ : Who).mayDrive = false ∧ driver.mayDrive = true ∧
    (∀ ver ∈ [1, 2, 3], bitN 4 (attachWord ver 7).toNat = true ∧ bitN 5 (attachWord ver 7).toNat = false ∧ (attachWord ver 7).toNat % 16 = ver) ∧
    (fullState false).image ≠ none ∧ (fullState false).start.stage = 4 ∧ (fullState false).start.done = true ∧ (fullState false).hl.state = 0 ∧
    State.reset.image = none ∧
    (let s := fullState true; s.hl.state = 1 ∧ s.hl.att.any (· != driver.port) = true ∧ s.hl.hostId ≠ (attachWord 1 7).toNat / 256) ∧
    bitN 5 (BitVec.ofNat 32 32).toNat = true ∧ (fullState false).hl.state ≠ 1 ∧
    (let s := fullState true; s.now < s.hl.hbArmed + 4000000000 ∧ s.hl.hbArmed + 4000000000 ≤ ({ s with now := 4000000000 }).now) := by
  decide +kernel
/-- Tenant 18 selected in the mailbox with object `r` and the arguments. -/
def mbState (r a0 a1 : Nat) : State :=
  let s := tenState id
  { s with hl := { s.hl with csel := BitVec.ofNat 32 (18 + 4096 * r), carg0 := BitVec.ofNat 64 a0, carg1 := BitVec.ofNat 64 a1 } }
theorem hyp_mailbox :
    State.reset.hl.cstate ≠ 1 ∧ (State.reset.tenant State.reset.hl.tenant).state = 0 ∧
    (let s := mbState 5 0x100000 0x20000; s.hl.cstate ≠ 1 ∧ s.hl.state = 1 ∧ s.hl.tenant = 18 ∧ s.hl.object = 5 ∧ (s.tenant 18).state ≠ 0 ∧
      (s.tenant 18).over1 = false ∧ (s.tenant 18).regions.length < 64 ∧ ((s.tenant 18).region 5).len = 0) ∧
    { mbState 5 0 0 with hl := { (mbState 5 0 0).hl with state := 0 } }.hl.state ≠ 1 ∧
    (let s := { mbState 5 0x400000 0x200000 with pages := [(pageKey 18 64, ⟨.tier1 9 false, false, false⟩)] };
      s.forbiddenPage 18 0x400000 = false ∧ s.hl.carg0.toNat % pageSize = 0 ∧ s.hl.carg1.toNat % 2 ^ 40 % pageSize = 0 ∧
        ((s.tenant 18).region 5).len = 0) ∧
    ((mbState 0 0 0).tenant 18).region 0 ≠ Region.none ∧
    (let s := mbState 2 0x4000 6; let s1 := s.freeFrames 18 (fun o => o == (18, 0xFFFF, FrameUse.shadow 2));
      isInput 2 = true ∧ (s1.tenant 18).use1 + shadowPages 2 6 ≤ (s1.tenant 18).quota1) ∧
    (let s := mbState 5 0x4000 6; let s1 := s.freeFrames 18 (fun o => o == (18, 0xFFFF, FrameUse.shadow 5)); let m := shadowPages 5 6;
      isInput 5 = false ∧ (s1.tenant 18).use1 + m ≤ (s1.tenant 18).quota1 ∧ s1.bestDie (fun d => decide (m ≤ s1.freeOnDie d)) = some 0 ∧
        (s1.allocFrames 0 m (18, 0xFFFF, .shadow 5)).isSome = true) := by decide +kernel
/-- Jobs 1 (with an update set whose tensors the image lacks) and 5 (with nothing to place) of tenant 18. -/
def admitState : State :=
  let s := tenState id
  { s with image := some { img0 with jobs := [{ JobRec.none with job := 1, tenant := 18, slot := 1 }, { JobRec.none with job := 5, tenant := 18, kind := 1 }] } }
/-- Job 5 in slot 0, with one shard. -/
def jobState : State :=
  { admitState with jobs := [(0, { Job.none with life := .running, info := { JobRec.none with job := 5, tenant := 18, kind := 1 }, map := [(0, 0)] })] }
/-- Job 5 on two modules of a ring whose fabric maps differ; it needs more of tier 1 than its tenant may have. -/
def ringState : State :=
  let s := admitState
  { s with
    image := some { imgL 0 with
      jobs := [{ JobRec.none with job := 5, tenant := 18, kind := 1, mand1 := 101 }], maps := [⟨5, 1, 0, [(0, 0), (1, 0)]⟩] },
    ports := [(0, { Port.reset with reason := 5 })] }
theorem hyp_commands :
    (∀ p ∈ [1, 2, 3, 4, 0x10, 0x11, 0x12, 0x13, 0x14, 0x20], let e := cmdOf p []; entryField e 0 1 = p ∧ (tenState id).inputWaits 18 0 = true ∧
      ((tenState id).tenant 18).held.length < ((((tenState id).tenant 18).queue 0).prod - (((tenState id).tenant 18).queue 0).cons).toNat) ∧
    (tenState (fun t => { t with takeWin := 0, takeCount := 4 })).mayAccept 18 = false ∧
    (let s := tenState (fun t => { t with held := [cmdOf 3 []] }); s.nextWindow.nextTenant = some 18 ∧ (s.tenant 18).held = cmdOf 3 [] :: []) ∧
    accepts (tenState id) 18 (cmdOf 3 []) 3 = true ∧
    (∀ p ∈ [(1, false), (5, true)], let s := admitState; let e := cmdOf 1 (le 2 p.1); let u := (s.hearBeats []).accepted 18 e; let v := u.stopPromotion;
      accepts s 18 e 1 = true ∧ (s.namedJob 18 e).any (fun j => (s.job j.slot).life == .none && !u.beatsDiffer j && s.crossesDiffering j == false &&
        v.tierCode j == 0 &&
        ((v.placing e j).allocJob j.slot).isSome == p.2) = true) ∧
    (let e := cmdOf 1 (le 2 5); (jobState.namedJob 18 e).any (fun j => (jobState.job j.slot).life != .none) = true) ∧
    (let e := cmdOf 1 (le 2 99); accepts admitState 18 e 1 = true ∧ admitState.namedJob 18 e = none) ∧
    (let s := jobState; let e := cmdOf 2 (le 2 5); accepts s 18 e 2 = true ∧ (s.namedJob 18 e).isSome = true ∧ s.jobOf 18 (entryField e 16 2) = some 0 ∧
      entryField (((s.accepted 18 e).filled 0).job 0).cmd 0 1 ≠ 2) ∧
    (let e := cmdOf 4 ([0, 0] ++ le 2 2 ++ zeros 4 ++ le 8 128); accepts (tenState id) 18 e 4 = true ∧ entryField e 18 2 = 2 ∧
      entryField e 24 8 + 64 * 2 ≤ (((tenState id).tenant 18).region 0).len) := by decide +kernel
theorem hyp_admission : let e := cmdOf 1 (le 2 5); let s := ringState; (s.namedJob 18 e).any (fun j => (s.job j.slot).life == .none &&
      ((s.hearBeats [(1, 3)]).accepted 18 e).beatsDiffer j && !((s.hearBeats [(1, 2)]).accepted 18 e).beatsDiffer j && s.crossesDiffering j &&
      ((s.accepted 18 e).stopPromotion).tierCode j == 0x21) = true := by decide +kernel
/-- A list of one arming record in a device region; a new shard map there. -/
def submitState : State :=
  { admitState with pages := [(pageKey 18 64, ⟨.tier1 9 false, false, false⟩)], mem := wrBytes State.reset.mem (9 * pageSize) (entryBytes armRec) }
theorem hyp_submit :
    (let s := submitState; let e := cmdOf 4 ([1, 0] ++ le 2 1 ++ zeros 4 ++ le 8 0); let u := s.accepted 18 e; accepts s 18 e 4 = true ∧
      ((u.tenant 18).region 1).host = false ∧ (let d := u.readVirt 18 0x400000 64 3; d.2 = false ∧ (u.noteVirt 18 0x400000 64 3).recOk 18 true (entryOf d.1) = true)) ∧
    (∀ c ∈ jobState.cores, ∀ x ∈ c.2.ctxs, x.2.life = .live) ∧
    (let s := { submitState with jobs := jobState.jobs, mem := State.reset.mem };
      let e := cmdOf 0x20 (le 2 5 ++ [0, 0] ++ le 4 8 ++ le 4 (mapDigest [(0, 0)]) ++ [1, 0, 0, 0] ++ le 8 0);
      accepts s 18 e 0x20 = true ∧ (s.namedJob 18 e).isSome = true ∧ s.jobOf 18 (entryField e 16 2) = some 0 ∧ (s.job 0).life = .running ∧
        (s.job 0).map ≠ [] ∧ (s.job 0).pend = none ∧ entryField e 28 1 = 1 ∧
        (let d := (s.accepted 18 e).readVirt 18 0x400000 4 2; d.2 = false ∧ entryField e 24 4 = mapDigest [(leVal d.1 % 2 ^ 18, leVal d.1 / 2 ^ 18)])) := by decide +kernel

/-- A host-queue instruction for a queue, with its 64 bytes at 0x2000 and group 9. -/
def hqWord (opc q : Nat) : IWord := wd 9 opc (0x2000 + q * 2 ^ 23 + 9 * 2 ^ 26)
/-- Core 0 runs it for tenant 18, whose queues 2 and 5 are set; queue 2 has an entry announced. -/
def hqState (w : IWord) (x : Ctx) : State :=
  let s := tenState (fun t => { t with
    doorbell := some 0x8000,
    queues := [(2, { Queue.reset with isSet := true, depthExp := 4, prod := 1 }), (5, { Queue.reset with isSet := true, depthExp := 4 })] })
  { s with cores := (stOf w x).cores }
theorem hyp_queue_words :
    (∀ p ∈ [(0, 5), (1, 2)], let w := hqWord p.1 p.2; let s := hqState w ctxV; issues s 0 0 w .clean = true ∧ (s.ctx 0 0).qob = [] ∧ w.cls = 9 ∧
      w.opc = p.1 ∧ hqOk (s.ctx 0 0) w = true ∧ field 25 23 w.pl = p.2) ∧
    ((hqState 0#128 ctxV).tenant 18 |>.queue 5).room = true ∧ (hqState 0#128 ctxV).inputWaits 18 2 = true ∧
    (let y := ((hqState 0#128 ctxV).tenant 18).queue 2; entryField (entryOf (le 4 0)) 0 4 = y.cons.toNat ∧ entryField (entryOf (le 4 1)) 0 4 ≠ y.cons.toNat) ∧
    (∀ p ∈ [(0, 5), (1, 2)], let w := hqWord p.1 p.2; let s := hqState 0#128 { ctxV with qob := [w] };
      (s.core 0).running = some 0 ∧ (s.ctx 0 0).qob = w :: [] ∧ s.stopped = false ∧ (s.core 0).waitState 0 w = .ready ∧ hqOk (s.ctx 0 0) w = true) := by
  decide +kernel
/-- One input queue set, so that the line has one index to judge. -/
theorem hyp_doorbell : (let s := tenState (fun t => { t with doorbell := some 0x8000, queues := [(2, { Queue.reset with isSet := true, depthExp := 4, prod := 1 })] });
    let x := (s.tenant 18).queue 2; let v := BitVec.ofNat 32 (entryField (entryOf (zeros 8 ++ le 4 3)) 8 4);
    s.hl.state = 1 ∧ (s.tenant 18).hostEn = true ∧ (s.tenant 18).doorbell ≠ none ∧
      (List.range 8).all (fun r => r == 2 || !((s.tenant 18).queue r).isSet) = true ∧ isInput 2 = true ∧ x.isSet = true ∧ x.err = false ∧
      backward v x.prod = false ∧ (v - x.cons).toNat ≤ 2 ^ x.depthExp) := by decide +kernel
/-- A device region with placement for adapter 7, in writable memory of tier 1. -/
def placeState (wr : Bool) : State :=
  let s := tenState (fun t => { t with
    regions := [(1, { Region.none with va := 0x400000, len := 0x200000, write := wr, placement := true, adapter := 7, hdm := 0x1000000, bar2 := 0x2000000 })] })
  { s with hl := { s.hl with inUse := 2, ports := [⟨2, 6, 16, true, true⟩, HlPort.down] }, pages := [(pageKey 18 64, ⟨.tier1 9 false, false, false⟩)] }
theorem hyp_placement :
    (let s := placeState true; s.placement 8 0x2000000 64 = none ∧ (s.placement 7 0x2000000 64).any (fun x => x.2.2.bar2 + x.2.2.len == 0x2200000) = true ∧
      (s.placement 7 0x21FFFC0 64).isSome = true ∧ 0x2200000 < 0x21FFFC0 + 64 + 64) ∧
    (∀ wr ∈ [true, false], let s := placeState wr; (s.hl.ports.getD 0 HlPort.down).mem = true ∧
      (s.physOf 18 (0x400000 + 64)).any (fun a => !s.accWaits a && (s.setMc 0 { s.mcOf 0 with waiting := [.read driver a .clean] }).accWaits a) = true ∧
      (s.findRegion (fun g => !g.host && decide (g.hdm ≤ 0x1000040) && decide (0x1000040 < g.hdm + g.len))).any (fun x =>
        x.1 == 18 && x.2.2.write == wr) = true ∧ (s.physOf 18 (0x400000 + 64)).any isTier1 = true) ∧
    (let l := { listOf (.core 0 0 9 0x2000) [armRec] false with dma := some (false, 3) };
      let s := { bandState [l] with hl := { HlSt.reset with dma := [⟨3, .list 7, 0x100000, 64, 5⟩] } };
      s.hl.dma.find? (fun d => d.id == 3) = some ⟨3, .list 7, 0x100000, 64, 5⟩ ∧ s.listAt 7 = some l ∧ s.now < 5 + 50000000 ∧ s.hl.dma.find? (fun d => d.id == 4) = none) := by
  decide +kernel
def guestState (ph : Nat) (retried : Bool) : State :=
  { State.reset with guest := { GuestSt.reset with phase := ph, cmds := [⟨6, .write 18 0#512, 50, retried⟩] } }
theorem hyp_guest : (guestState 1 false).guest.phase = 1 ∧ (guestState 2 false).guest.phase = 2 ∧
    (∀ b ∈ [true, false], (guestState 3 b).guest.cmds.find? (fun c => c.tag == 6) = some ⟨6, .write 18 0#512, 50, b⟩) ∧
    (let s := guestState 2 false; s.now < s.guest.armed + 2000000000 ∧ s.guest.armed + 2000000000 ≤ ({ s with now := 2000000000 }).now) ∧
    (let c : GCmd := ⟨6, .write 18 0#512, 50, false⟩; (guestState 3 false).now < c.armed + c.kind.limit ∧ c.armed + c.kind.limit ≤ 10000000000) ∧
    (let s := { t2State .loading true (tenState id) with guest := { GuestSt.reset with phase := 3, cmds := [⟨6, .write 18 (t2Cmd 0x11 []), 50, false⟩] } };
      (s.t2At (t2Key 18 (entryField (t2Cmd 0x11 []) 16 3))).state = .loading) ∧
    (GKind.write 18 0#512).fits (.wrote true) = true ∧ (GKind.write 18 0#512).fits (.committed true) = false ∧
    (guestState 3 false).guest.cmds.find? (fun c => c.tag == 9) = none := by decide +kernel

/-! ### Start, power and management -/

def secEnt (type off len : Nat) : List Byte := le 2 type ++ zeros 6 ++ le 4 off ++ le 4 len ++ zeros 48
/-- An image of the required sections alone: defaults, one tenant, no program, an open beat, a ring of two modules. -/
def imgBytes : List Byte :=
  (le 4 0x4E1A5E7B ++ le 2 2 ++ le 2 0 ++ le 8 1 ++ le 4 0 ++ le 4 2544 ++ le 2 7 ++ zeros 2 ++ le 4 0xB02D70 ++ zeros 992) ++
  secEnt 1 1472 64 ++ secEnt 2 1536 64 ++ secEnt 3 1600 64 ++ secEnt 4 1664 32 ++ secEnt 6 1728 0 ++ secEnt 7 1728 704 ++ secEnt 9 2432 112 ++
  (List.replicate 17 0xFF#8 ++ zeros 47) ++ zeros 64 ++ (le 2 1 ++ zeros 62) ++ (le 2 18 ++ zeros 62) ++
  ([1] ++ zeros 127 ++ [1, 0, 0, 0] ++ le 8 (2 ^ 10 + 0xFFFF * 2 ^ 24) ++ zeros 564) ++
  ([1] ++ zeros 7 ++ le 3 2 ++ zeros 29 ++ (List.replicate 18 (le 4 32)).flatten)
theorem test_image_header : headerCheck imgBytes true true 0 = none := by decide +kernel
theorem test_image_checks : imageFail imgBytes [] = none := by decide +kernel
/-- Bytes in an erased flash from an address on. -/
def norOf (a : Nat) : List Byte → Sp Byte
  | [] => []
  | b :: bs => if b = 0xFF#8 then norOf (a + 1) bs else (a, b) :: norOf (a + 1) bs
theorem get_norOf_lt (l : List Byte) : ∀ a k : Nat, k < a → Sp.get 0xFF#8 (norOf a l) k = 0xFF#8 := by
  induction l with
  | nil => intros; rfl
  | cons b bs ih =>
    intro a k h
    simp only [norOf]
    split
    · exact ih (a + 1) k (by omega)
    · simp [Sp.get, show a ≠ k by omega, ih (a + 1) k (by omega)]
theorem get_norOf (l : List Byte) : ∀ a i : Nat, Sp.get 0xFF#8 (norOf a l) (a + i) = l.getD i 0xFF#8 := by
  induction l with
  | nil => intros; simp [norOf, Sp.get]
  | cons b bs ih =>
    intro a i
    simp only [norOf]
    cases i with
    | zero =>
      split
      · rename_i h; simp [get_norOf_lt bs (a + 1) a (by omega), h]
      · simp [Sp.get]
    | succ i =>
      have e : a + (i + 1) = (a + 1) + i := by omega
      split
      · rw [e, ih]; simp
      · simp only [Sp.get, show a ≠ a + (i + 1) by omega, if_false]; rw [e, ih]; simp
theorem norRead_norOf (l : List Byte) : ∀ n a : Nat, a + n ≤ l.length → norRead (norOf 0 l) a n = (l.drop a).take n := by
  intro n
  induction n with
  | zero => intros; simp [norRead]
  | succ n ih =>
    intro a h
    have g := get_norOf l 0 a
    rw [Nat.zero_add] at g
    rw [norRead, ih (a + 1) (by omega), g, List.drop_eq_getElem_cons (show a < l.length by omega), List.take_succ_cons,
      List.getD_eq_getElem _ _ (by omega)]
theorem read_at (pre mid post : List Byte) (k n : Nat) (h : k + n ≤ mid.length) :
    norRead (norOf 0 (pre ++ (mid ++ post))) (pre.length + k) n = (mid.drop k).take n := by
  rw [norRead_norOf _ _ _ (by simp only [List.length_append]; omega), ← List.drop_drop, List.drop_left,
    List.drop_append_of_le_length (by omega), List.take_append_of_le_length (by rw [List.length_drop]; omega)]
def bootBytes : List Byte := let b := le 4 0x5B007D1E ++ le 4 1 ++ [0, 0xFF] ++ zeros 18; b ++ le 4 (crc32 b)
def blank (n : Nat) : List Byte := List.replicate n 0xFF#8
/-- A ledger of failed starts at minutes 1, 2 and 3. -/
def threeFails : List Byte := ledgerBytes (1, 6, 1, 0) ++ ledgerBytes (2, 6, 1, 0) ++ ledgerBytes (3, 6, 1, 0) ++ blank 80
/-- The flash: boot descriptor, the image in slot 0, the ledger. -/
def flash (lg : List Byte) : List Byte := bootBytes ++ (blank 65504 ++ (imgBytes ++ (blank (ledgerBase - 68080) ++ lg)))
/-- The module with that image committed in slot 0, in a stage of its start. -/
def startState (st : Nat) (lg : List Byte) : State :=
  { State.reset with nor := norOf 0 (flash lg), start := { State.reset.start with pwrGood := true, stage := st } }
theorem boot_length : bootBytes.length = 32 := by decide +kernel
theorem img_length : imgBytes.length = 2544 := by decide +kernel
theorem blank_length (n : Nat) : (blank n).length = n := by simp [blank]
theorem read_boot (lg : List Byte) (k n : Nat) (h : k + n ≤ 32) : norRead (norOf 0 (flash lg)) (0 + k) n = (bootBytes.drop k).take n :=
  read_at [] _ _ k n (by rw [boot_length]; exact h)
theorem read_blank (lg : List Byte) (k n : Nat) (h : k + n ≤ 65504) : norRead (norOf 0 (flash lg)) (32 + k) n = blank n := by
  have := read_at bootBytes (blank 65504) (imgBytes ++ (blank (ledgerBase - 68080) ++ lg)) k n (by rw [blank_length]; exact h)
  rw [boot_length] at this
  rw [flash, this, blank, List.drop_replicate, List.take_replicate, blank]
  congr 1
  omega
theorem read_img (lg : List Byte) (k n : Nat) (h : k + n ≤ 2544) : norRead (norOf 0 (flash lg)) (65536 + k) n = (imgBytes.drop k).take n := by
  have := read_at (bootBytes ++ blank 65504) imgBytes (blank (ledgerBase - 68080) ++ lg) k n (by rw [img_length]; exact h)
  rw [List.length_append, boot_length, blank_length] at this
  rw [flash, ← List.append_assoc, this]
theorem read_ledger (lg : List Byte) (h0 : lg.length = 128) (k n : Nat) (h : k + n ≤ 128) :
    norRead (norOf 0 (flash lg)) (ledgerBase + k) n = (lg.drop k).take n := by
  have := read_at (bootBytes ++ (blank 65504 ++ (imgBytes ++ blank (ledgerBase - 68080)))) lg [] k n (by omega)
  simp only [List.length_append, boot_length, blank_length, img_length, List.append_assoc, List.append_nil] at this
  exact this
theorem hyp_slot_image (st : Nat) (lg : List Byte) : (startState st lg).slotImage 0 = imgBytes := by
  have h1 : (startState st lg).norNat (slotBase 0 + 20) 4 = 2544 := by
    show leVal (norRead (norOf 0 (flash lg)) (65536 + 20) 4) = 2544
    rw [read_img _ _ _ (by omega)]
    decide +kernel
  rw [State.slotImage, h1]
  show norRead (norOf 0 (flash lg)) (65536 + 0) 2544 = imgBytes
  rw [read_img _ _ _ (by omega), List.drop_zero, ← img_length, List.take_length]
theorem hyp_boot (st : Nat) (lg : List Byte) : (startState st lg).boot = some (0, 1, 0, 0xFF) := by
  have h0 : (startState st lg).bootCopy 0 = some (1, 0, 0xFF) := by
    have e (k n : Nat) (h : k + n ≤ 32) : norRead (startState st lg).nor (0 + k) n = (bootBytes.drop k).take n := read_boot lg k n h
    have e1 : norRead (startState st lg).nor 0 28 = bootBytes.take 28 := read_boot lg 0 28 (by omega)
    have e2 : norRead (startState st lg).nor 0 4 = bootBytes.take 4 := read_boot lg 0 4 (by omega)
    simp only [State.bootCopy, State.norNat, Nat.zero_mul, e1, e2, e 28 4 (by omega), e 4 4 (by omega), e 8 1 (by omega), e 9 1 (by omega)]
    decide +kernel
  have h1 : (startState st lg).bootCopy 1 = none := by
    have e : norRead (startState st lg).nor (1 * 0x8000) 4 = blank 4 := by
      have a : 1 * 0x8000 = 32 + 0x7FE0 := by decide
      rw [a]; exact read_blank lg 0x7FE0 4 (by omega)
    have : ¬ leVal (blank 4) = 0x5B007D1E := by decide +kernel
    simp only [State.bootCopy, State.norNat, e, this, false_and, if_false]
  rw [State.boot, h0, h1]
/-- What the ledger of a flash holds. -/
def ledgerOf (lg : List Byte) : List (Nat × Nat × Nat × Nat) :=
  (List.range 8).filterMap (fun i =>
    let f := fun o n => leVal ((lg.drop (16 * i + o)).take n)
    if f 12 4 = crc32 ((lg.drop (16 * i)).take 12) then some (f 0 4, f 4 1, f 5 1, f 6 1) else none)
theorem ledger_eq (st : Nat) (lg : List Byte) (h : lg.length = 128) : (startState st lg).ledger = ledgerOf lg := by
  rw [State.ledger, ledgerOf]
  refine List.filterMap_congr (fun i hi => ?_)
  have hi : i < 8 := List.mem_range.mp hi
  have e (k n : Nat) (h2 : k + n ≤ 128) : norRead (startState st lg).nor (ledgerBase + k) n = (lg.drop k).take n := read_ledger lg h k n h2
  simp only [State.norNat, Nat.add_assoc, e (16 * i + 12) 4 (by omega), e (16 * i) 12 (by omega), e (16 * i) 4 (by omega),
    e (16 * i + 4) 1 (by omega), e (16 * i + 5) 1 (by omega), e (16 * i + 6) 1 (by omega), Nat.add_zero]
theorem tried_of (s : State) (hb : s.boot = some (0, 1, 0, 0xFF)) (hi : s.slotImage 0 = imgBytes) (hs : s.start.secMin = 0) :
    ∃ u, s.trySlots (s.slotOrder (⟨true, true⟩, ⟨true, true⟩)) 2 = (u, some 0, 0) ∧ u.nor = s.nor := by
  have hp : s.pendingSlot = none := by rw [State.pendingSlot, hb]; decide
  have hc : s.committed = some 0 := by rw [State.committed, hb]; rfl
  have ho : s.slotOrder (⟨true, true⟩, ⟨true, true⟩) = [(0, ⟨true, true⟩), (1, ⟨true, true⟩)] := by
    simp [State.slotOrder, hp, hc]
  refine ⟨{ s with start := { s.start with slot := 0, pending := s.pendingSlot == some 0 } }, ?_, rfl⟩
  have h2 (x : StartSt) : ({ s with start := x }).slotImage 0 = s.slotImage 0 := rfl
  rw [ho, State.trySlots]
  simp only [h2, hi, hs, test_image_header]
/-- The first slot passes. -/
theorem hyp_slots_tried (lg : List Byte) : let s := startState 1 lg
    ∃ u, s.trySlots (s.slotOrder (⟨true, true⟩, ⟨true, true⟩)) 2 = (u, some 0, 0) ∧ u.nor = s.nor :=
  tried_of (startState 1 lg) (hyp_boot 1 lg) (hyp_slot_image 1 lg) rfl
theorem ledger_trained (s : State) (h : List (Nat × Nat)) : (s.trainHosts h).ledger = s.ledger := rfl
theorem hyp_ledgers : ((startState 1 (blank 128)).trainHosts []).ledgerHolds = false ∧ ((startState 1 threeFails).trainHosts []).ledgerHolds = true := by
  have h1 : threeFails.length = 128 := by decide +kernel
  have h2 : ledgerOf (blank 128) = [] := by decide +kernel
  have h3 : (ledgerOf threeFails).map (·.1) = [1, 2, 3] := by decide +kernel
  simp only [State.ledgerHolds, ledger_trained, ledger_eq 1 _ (blank_length 128), ledger_eq 1 _ h1, h2, h3]
  decide
theorem hyp_start : State.reset.start.pwrGood = false ∧ State.reset.sealRun = none ∧ State.reset.pm.tripHold = false ∧
    { State.reset with pm := { State.reset.pm with tripHold := true } }.pm.tripHold = true ∧
    (∀ st ∈ [1, 2, 3], let s := { State.reset with start := { State.reset.start with pwrGood := true, stage := st } };
      s.startAt st = true ∧ s.now < (stageLimit st).1 ∧ (stageLimit st).1 ≤ ({ s with now := 120000000000 }).now) ∧
    (∀ d, d < 4 → (State.reset.mcOf d).quar.length + [7].length ≤ 1024) ∧ 7 < 4 * dieFrames ∧
    (({ State.reset with start := { State.reset.start with pwrGood := true, stage := 2 } }.enter 3).readRetired.retired.any (fun e => e.1 == 7)) = false ∧
    ({ State.reset with start := { State.reset.start with pwrGood := true, stage := 1 } }).boot = none ∧
    versionsOk (List.replicate 32 [2, 2]) = true ∧ versionsOk (List.replicate 32 [2, 1]) = false ∧
    (let s := { State.reset with pm := { State.reset.pm with charged := true, energy := 200 } }; s.pm.charged = true ∧ 200 ≤ s.pm.energy) ∧
    State.reset.pm.charged = false ∧ imageFail imgBytes [3] = some (6, 3, 0) := by decide +kernel
/-- The start window of R491 at its ends: no sample yet, every sensor of it at a bound, and one past each bound. -/
def sampled (l : List (Nat × Int)) : State :=
  { State.reset with pm := { State.reset.pm with sensors := l.map (fun x => (x.1, { Sensor.reset with good := [x.2] })) } }
theorem test_start_window : State.reset.startWindow = true ∧ (sampled [(3, 849), (74, 150), (76, 48000)]).startWindow = true ∧
    (sampled [(3, 849), (74, 450), (76, 60000)]).startWindow = true ∧
    (∀ l ∈ ([[(3, 850)], [(74, 149)], [(74, 451)], [(76, 47999)], [(76, 60001)]] : List (List (Nat × Int))),
      (sampled l).startWindow = false) := by decide +kernel
theorem hyp_stage_three (st : Nat) (lg : List Byte) : (startState 3 lg).startAt 3 = true ∧ (startState 3 lg).start.slot = 0 ∧
    imageFail ((startState st lg).slotImage 0) [] = none := ⟨rfl, rfl, by rw [hyp_slot_image]; exact test_image_checks⟩
/-- With both signatures wrong no slot passes. -/
theorem hyp_no_slot (s : State) (r : Nat) : (s.trySlots [(0, ⟨false, true⟩), (1, ⟨false, true⟩)] r).2.1 = none := by
  simp [State.trySlots, headerCheck]
theorem hyp_power : (let s := { State.reset with start := { State.reset.start with pwrGood := true, hold := .none } };
      s.start.pwrGood = true ∧ s.start.hold = .none ∧ s.sealRun = none ∧ (s.pm.sensor 77).failed = false) ∧
    (let s := { State.reset with start := { State.reset.start with pwrGood := true }, sealRun := some ⟨4, 0, none⟩ };
      s.start.pwrGood = true ∧ s.sealRun = some ⟨4, 0, none⟩ ∧ s.now < 0 + 8000000 ∧ 0 + 8000000 ≤ ({ s with now := 8000000 }).now) ∧
    4 < 5 ∧ 11 < 12 ∧ 1 < 2 ∧ State.reset.start.aux = false ∧ (⟨0, 5, none⟩ : SealRun).reset = none ∧
    48000 ≤ 48000 ∧ 60000 ≤ 60000 ∧ 44999 < 45000 ∧ 5 + 10000 ≤ (10005 / 10000 + 1) * 10000 := by decide +kernel
/-- A module with its auxiliary supply, slot 1 open, and one byte programmed. -/
def auxState (lg : List Byte) : State :=
  { startState 4 lg with start := { (startState 4 lg).start with aux := true, openSlot := some 1, programmed := [(7, true)] } }
theorem hyp_aux_boot (s : State) (x : StartSt) : ({ s with start := x }).boot = s.boot := rfl
theorem hyp_management (lg : List Byte) : (auxState lg).start.aux = true ∧ (auxState lg).committed = some 0 ∧ (auxState lg).pendingSlot = none ∧
    (auxState lg).start.openSlot = some 1 ∧ Sp.get false (auxState lg).start.programmed 7 = true ∧ Sp.get false (auxState lg).start.programmed 8 = false ∧
    (auxState lg).start.pwrGood = true ∧ (auxState lg).sealRun = none := by
  refine ⟨rfl, ?_, ?_, rfl, ?_, ?_, rfl, rfl⟩
  · rw [State.committed, auxState, hyp_aux_boot, hyp_boot]; rfl
  · rw [State.pendingSlot, auxState, hyp_aux_boot, hyp_boot]; decide
  · show Sp.get false [(7, true)] 7 = true; decide
  · show Sp.get false [(7, true)] 8 = false; decide
/-- NOR_CLOSE over a slot whose signature is wrong, whose section 3 differs, and that is whole. -/
theorem hyp_close : headerCheck imgBytes false true 0 = some 1 ∧ headerCheck imgBytes true true 0 = none ∧ imageFail imgBytes [3] = some (6, 3, 0) ∧
    imageFail imgBytes [] = none := by decide +kernel
theorem hyp_log : ((State.reset.logAs 6 3 0x20 1 none []).log.at_ 0 ≠ LogRec.none) ∧
    (let s := State.reset.logAs 6 3 0x20 1 none []; ∃ p ∈ s.log.ring, p.2.cls = 6 ∧ p.2.inst = 3 ∧ p.2.code = 0x20 ∧ p.2.crumb = false ∧
      p.2.time / 1000 = s.now / 1000) := by decide +kernel
/-- A first sample at the lowest reading of a sensor's range is plausible. -/
theorem hyp_plausible (i : Nat) : Sensor.reset.plausible i (Config.sensorRange i).1 = true := by
  have : (Config.sensorRange i).1 ≤ (Config.sensorRange i).1 + ((Config.sensorRange i).2 : Int) := by omega
  simp [Sensor.plausible, Sensor.reset, this]
/-- A watch record of a kind with a payload of 16 bytes. -/
def watchBytes (kind : Nat) : List Byte :=
  let h := [BitVec.ofNat 8 kind, 0] ++ le 2 18 ++ le 4 3 ++ le 4 16
  h ++ le 4 (crc32 (h ++ zeros 4 ++ (zeros 16 ++ zeros 16))) ++ zeros 16 ++ zeros 16
theorem hyp_watch : (let s := memState 2 (fun g => { g with watches := [1] }); s.gl.watches.contains 1 = true) ∧ watchRec [] = none ∧
    (∀ k ∈ [1, 3, 0x24], (watchRec (watchBytes k)).any (fun r => r.kind == k && (k == 0x24 || r.ofJob && decide ((memState 2 id).jobDigest r.job = some 0x5EED) &&
      decide ((memState 2 id).jobDigest r.job ≠ some 1))) = true) ∧
    (∀ k ∈ [1, 0x24], let r : WRec := ⟨k, 0, 18, 0, [], [], (0, 0)⟩; let s := { State.reset with watchOut := [r] };
      s.watchOut = r :: [] ∧ r.kind ≠ 2 ∧ r.kind ≠ 3) ∧
    (let s := { memState 0 (fun g => { g with watcher := some 2 }) with watchOut := [⟨1, 0, 18, 0, [], [], (0, 0)⟩] };
      s.gl.watcher = some 2 ∧ s.watchOut ≠ []) ∧
    ({ State.reset with watch := { WatchSt.reset with takeover := some (1, 5) } }).watch.takeover = some (1, 5) ∧
    (let s := { memState 0 (fun g => { g with mstate := 4 }) with watch := { WatchSt.reset with planned := some 7 } };
      s.watch.planned = some 7 ∧ s.gl.mstate = 4) ∧
    (let s := memState 0 (fun g => { g with mstate := 3 }); s.watch.testing = false ∧ s.gl.mstate = 3 ∧ s.gl.watches = []) ∧
    ({ State.reset with watch := { WatchSt.reset with testing := true } }).watch.testing = true := by decide +kernel
theorem hyp_invariants : Memory.wf (wrBytes State.reset.mem 64 [1, 0, 3]) = true ∧ Sp.wf false [(3, true)] = true ∧ Sp.wf 0xFF#8 [(3, 0#8)] = true := by decide +kernel

/-! ### Effects, with results that the manual gives -/

/-- What core 0's context holds after a command. -/
def after (c : Instr) (s : State) : Option Ctx :=
  match exec c s with
  | .next t => some (t.ctx 0 0)
  | _ => none
def stateAfter (c : Instr) (s : State) : State :=
  match exec c s with
  | .next t => t
  | _ => s

/-- R306: the CRC of "123456789". -/
theorem test_crc16 : crc16 [0x31#8, 0x32#8, 0x33#8, 0x34#8, 0x35#8, 0x36#8, 0x37#8, 0x38#8, 0x39#8] = 0x29B1 := by decide +kernel
/-- The worked block of chapter 11: policy 1, no dither, S = 16. -/
def workedBlock : CzBlock :=
  compressBlock 1 false 4 0 256
    (fun i => if i = 0 then 0x40400000#32 else if i = 1 then 0xBF500000#32 else if i = 2 then 0x3E99999A#32 else if i = 5 then 0x42200000#32 else 0#32)
    (fun i => if i = 1 then 0x3C000000#32 else 0#32) (fun _ => 0)
theorem test_worked_block : ([0, 1, 4, 12, 13, 140, 141, 142, 143].map (fun i => workedBlock.bytes.getD i 0)) =
    [0x01#8, 0x00#8, 0x81#8, 0xF6#8, 0x01#8, 0x05#8, 0x20#8, 0x42#8, 0x00#8] ∧
    ([0, 1, 2, 5].map (fun i => workedBlock.resid.getD i none)) = [some 0#32, some 0xBC400000#32, some 0xBC4CCCCC#32, some 0#32] := by decide +kernel
/-- Chapter 05: VEXP2 of 3.0 is 8.0 and VLOG2 of 1.0 is +0, exactly; VRCP of a zero raises nothing. -/
theorem test_exp2 : TFun.exp2.eval 0x40400000#32 = (0x41000000#32, 0#7) := by decide +kernel
theorem test_log2 : TFun.log2.eval 0x3F800000#32 = (0#32, 0#7) := by decide +kernel
theorem test_rcp : (TFun.rcp.eval 0#32).2 = 0#7 := by decide +kernel
/-- R56, R58: 464 is the tie between 448 and what E4M3 lacks, and goes to 448; more saturates. -/
theorem test_e4m3_tie : (FFmt.e4m3.roundFin false false 464 0).1 = 0x7E ∧ ((FFmt.e4m3.roundFin false false 464 0).2 &&& fSaturated) = 0#7 ∧
    (FFmt.e4m3.roundFin false false 465 0).1 = 0x7E ∧ ((FFmt.e4m3.roundFin false false 465 0).2 &&& fSaturated) ≠ 0#7 := by decide +kernel
/-- R79: addition modulo 2^32, a shift by the register modulo 32, and the unsigned comparison. -/
def scalarAfter (opc : Nat) (c : Instr) (a b : W32) : Option W32 :=
  let w := wd 1 opc (3 + 1 * 2 ^ 5 + 2 * 2 ^ 10)
  (after c (stOf w { ctx18 with regs := [(1, a), (2, b)] })).map (fun x => x.reg 3)
theorem test_scalar : scalarAfter 1 (.add 0 .clean) 0xFFFFFFFF#32 3#32 = some 2#32 ∧ scalarAfter 2 (.sub 0 .clean) 3#32 5#32 = some 0xFFFFFFFE#32 ∧
    scalarAfter 7 (.shl 0 .clean) 1#32 33#32 = some 2#32 ∧ scalarAfter 8 (.shr 0 .clean) 0x80000000#32 31#32 = some 1#32 ∧
    scalarAfter 9 (.sltu 0 .clean) 0xFFFFFFFF#32 1#32 = some 0#32 ∧ scalarAfter 3 (.mul 0 .clean) 0x10001#32 0x10001#32 = some 0x20001#32 := by decide +kernel
/-- R78, R79: MOVI, and a jump to its target. -/
theorem test_control : (let w := wd 1 0 (3 + 0xABCD * 2 ^ 64); (after (.movi 0 .clean) (stOf w ctx18)).map (fun x => (x.reg 3, x.pc)) = some (0xABCD#32, 5)) ∧
    (let w := wd 0 1 6; (after (.jump 0 .clean) (stOf w ctx18)).map (·.pc) = some 6) := by decide +kernel
/-- R470: the test access port's identification. -/
theorem test_idcode : (stateAfter .idcode State.reset).resp = .reg 32 0xB2D700EF := by decide +kernel
/-- R190: a write to tier 1 is read back, and the burst beside it is not touched. -/
theorem test_tier1 : (let s := stateAfter (.tier1Write ⟨0, 0⟩ 0x1040 (entryOf (le 4 0xDEADBEEF)) false) State.reset;
    ((stateAfter (.tier1Read ⟨0, 0⟩ 0x1040 .clean) s).resp = .burst (le 4 0xDEADBEEF ++ zeros 60) false) ∧
      (stateAfter (.tier1Read ⟨0, 0⟩ 0x1000 .clean) s).resp = .burst (zeros 64) false) := by decide +kernel
/-- R165: FARM arms 2 groups from group 2,047 on, modulo 2,048. -/
theorem test_farm : (let w := wd 5 1 (2047 + 2 * 2 ^ 11 + 3 * 2 ^ 22); let t := stateAfter (.farm 0 .clean) (stOf w ctx18);
    ((t.core 0).grp 0 2047, (t.core 0).grp 0 0, (t.core 0).grp 0 1) = (⟨3, 0, false⟩, ⟨3, 0, false⟩, Grp.start)) := by decide +kernel
/-- R60, R152: 1.5 + 2.25 in element (0, 0) of a vector addition. -/
theorem test_vadd : (let w := vec 0x10 (2 ^ 2 + 2 * 2 ^ 4);
    let s := (stOf w { ctxV with valid := [false, true, true, false] }).updCore 0 (fun c => { c with ve := { c.ve with
      tiles := Sp.set 0#32 (Sp.set 0#32 [] (tileKey 1 0 0) 0x3FC00000#32) (tileKey 2 0 0) 0x40100000#32 } });
    let t := stateAfter (.vadd 0 .clean) s; tileAt (t.core 0).ve (t.ctx 0 0).valid 1 0 0 = 0x40700000#32) := by decide +kernel
/-- R26: the beat ends at the next multiple of the beat length. -/
theorem test_beat : (let s := { State.reset with start := { State.reset.start with pwrGood := true } };
    (stateAfter (.beatStart [] [] []) s).now = 16384) := by decide +kernel
/-- A command at the front of the queue runs on the rest of the queue. -/
theorem test_step : (match step { State.reset with pending := [.idcode, .bypass] } with
    | .next t => t.pending == [.bypass] && t.tap.ir == 1
    | _ => false) = true := by decide +kernel

end Sys2Proof.Tests
end

/-!
PROOFS. What every command keeps: the queue of waiting commands, and the register fields whose code spaces the tables leave partly
reserved. One lemma for each operation over the state, in the order of the model's files; most operations leave all of these fields as
they are.
-/

namespace Sys2Proof.Machine

/-- The queue of waiting commands, and every register field whose code space the tables leave partly reserved (R96, R277, R364, R415,
R416, R455, R460). -/
structure Coded where
  pending : List Instr
  beat : Nat
  maint : Nat
  heat : Nat
  version : Nat
  session : Nat
  mailbox : Nat
  reason : Nat
  level : Nat
  stage : Nat

/-- What of a state stands in those places. -/
def State.coded (s : State) : Coded :=
  { pending := s.pending, beat := s.beats.exp, maint := s.beats.maintExp, heat := s.tiers.heatExp, version := s.gl.verMax,
    session := s.hl.state, mailbox := s.hl.cstate, reason := s.hl.creason, level := s.pm.level, stage := s.start.stage }

/-- Of a state written out field by field, the queue and six of the other fields count. These equations, and those of the single writes
below, are proved `by rfl` and not `:= rfl`, so that `simp` uses them as equations, also for the side condition of a fold. -/
@[simp] theorem State.coded_mk
    (pending : List Instr) (free : Nat) (resp : Resp) (hostOut : List HostOut) (linkOut : List LinkOut) (now : Nat)
    (aligned stopped : Bool) (sealRun : Option SealRun) (beats : BeatSt) (cores : Sp CoreSt) (mem : Sp Byte) (poison : Sp Bool)
    (log : LogSt) (image : Option Image) (tenants : Sp Tenant) (pages : Sp PageEnt) (hl : HlSt) (watched : Bool)
    (watchOut : List WRec) (jobs : Sp Job) (mc : Sp McSt) (frames : Sp Frame) (t2 : Sp T2Tensor) (tiers : TierSt) (nor : Sp Byte)
    (retired : List (Nat × Nat)) (pm : PmSt) (guest : GuestSt) (tub : Sp TubDie) (lists : List TbList) (nextList : Nat)
    (up : Sp UpDie) (cz : Sp CzDie) (coll : CollSt) (ports : Sp Port) (gl : GlSt) (start : StartSt) (dd : DdSt) (tap : TapSt)
    (watch : WatchSt) (split : SplitSt) :
    (State.mk pending free resp hostOut linkOut now aligned stopped sealRun beats cores mem poison log image tenants pages hl
      watched watchOut jobs mc frames t2 tiers nor retired pm guest tub lists nextList up cz coll ports gl start dd tap watch
      split).coded =
      ⟨pending, beats.exp, beats.maintExp, tiers.heatExp, gl.verMax, hl.state, hl.cstate, hl.creason, pm.level, start.stage⟩ := by rfl

@[simp] theorem State.coded_eta (s : State) :
    (⟨s.pending, s.beats.exp, s.beats.maintExp, s.tiers.heatExp, s.gl.verMax, s.hl.state, s.hl.cstate, s.hl.creason, s.pm.level,
      s.start.stage⟩ : Coded) = s.coded := by rfl

@[simp] theorem State.coded_ite (c : Prop) [Decidable c] (s t : State) :
    (if c then s else t).coded = if c then s.coded else t.coded := apply_ite State.coded c s t

/-- A fold of steps that each keep what is coded keeps it. -/
theorem State.coded_foldl {α : Type} {f : State → α → State} (hf : ∀ s x, (f s x).coded = s.coded) (l : List α) (s : State) :
    (l.foldl f s).coded = s.coded := by
  induction l generalizing s with
  | nil => rfl
  | cons x l ih => rw [List.foldl_cons, ih, hf]

/-- A fold over pairs whose steps each keep what is coded in the state they carry keeps it. -/
theorem State.coded_foldl_fst {α β : Type} {f : State × β → α → State × β} (hf : ∀ a x, (f a x).1.coded = a.1.coded)
    (l : List α) (a : State × β) : (l.foldl f a).1.coded = a.1.coded := by
  induction l generalizing a with
  | nil => rfl
  | cons x l ih => rw [List.foldl_cons, ih, hf]

/-- What an operation that may fail answers has `c` in the coded places. -/
def Carries (c : Coded) (o : Option State) : Prop := ∀ t, o = some t → t.coded = c

@[simp] theorem carries_none (c : Coded) : Carries c none := fun _ h => nomatch h
@[simp] theorem carries_some (c : Coded) (s : State) : Carries c (some s) ↔ s.coded = c := by simp [Carries]

theorem carries_map {α : Type} {c : Coded} {o : Option α} {f : α → State} (h : ∀ a, o = some a → (f a).coded = c) :
    Carries c (o.map f) := by
  cases o with
  | none => exact carries_none c
  | some a => simpa using h a rfl

theorem carries_bind {α : Type} {c : Coded} {o : Option α} {f : α → Option State} (h : ∀ a, o = some a → Carries c (f a)) :
    Carries c (o.bind f) := by
  cases o with
  | none => exact carries_none c
  | some a => exact h a rfl

theorem carries_foldl {α : Type} {c : Coded} {f : Option State → α → Option State} (hf : ∀ a x, Carries c a → Carries c (f a x))
    (l : List α) {a : Option State} (h : Carries c a) : Carries c (l.foldl f a) := by
  induction l generalizing a with
  | nil => exact h
  | cons x l ih => exact ih (hf a x h)

theorem Carries.getD {s : State} {o : Option State} (h : Carries s.coded o) : (o.getD s).coded = s.coded := by
  cases o with
  | none => rfl
  | some t => exact h t rfl

@[simp] theorem State.updGl_gl (s : State) (f : GlSt → GlSt) : (s.updGl f).gl = f s.gl := rfl
@[simp] theorem State.updPm_pm (s : State) (f : PmSt → PmSt) : (s.updPm f).pm = f s.pm := rfl

/-- What stands in the coded places of the state that a command answers. -/
def outCoded : Out → Option Coded
  | .next t => some t.coded
  | _ => none

@[simp] theorem outCoded_next (t : State) : outCoded (.next t) = some t.coded := rfl
@[simp] theorem outCoded_ite (c : Prop) [Decidable c] (a b : Out) :
    outCoded (if c then a else b) = if c then outCoded a else outCoded b := apply_ite outCoded c a b

/-! ### Ops -/

@[simp] theorem State.setSram_coded (s : State) (n off : Nat) (bs : List Byte) : (s.setSram n off bs).coded = s.coded := by rfl
@[simp] theorem State.setCore_coded (s : State) (n : Nat) (c : CoreSt) : (s.setCore n c).coded = s.coded := by rfl
@[simp] theorem State.updCore_coded (s : State) (n : Nat) (f : CoreSt → CoreSt) : (s.updCore n f).coded = s.coded := by rfl
@[simp] theorem State.setCtx_coded (s : State) (n k : Nat) (x : Ctx) : (s.setCtx n k x).coded = s.coded := by rfl
@[simp] theorem State.updCtx_coded (s : State) (n k : Nat) (f : Ctx → Ctx) : (s.updCtx n k f).coded = s.coded := by rfl
@[simp] theorem State.arrive_coded (s : State) (n k g : Nat) (poison : Bool) : (s.arrive n k g poison).coded = s.coded := by rfl
@[simp] theorem State.bump_coded (s : State) : s.bump.coded = s.coded := by rfl

@[simp] theorem State.logAs_coded (s : State) (cls inst code sev : Nat) (tenant : Option Nat) (args : List (Nat × Nat)) :
    (s.logAs cls inst code sev tenant args).coded = s.coded := by
  unfold State.logAs
  split <;> simp

@[simp] theorem State.logDiscard_coded (s : State) (addr : Nat) (who : Who) (write : Bool) :
    (s.logDiscard addr who write).coded = s.coded := by simp [State.logDiscard]

@[simp] theorem State.logUnmapped_coded (s : State) (addr : Nat) (who : Who) (write : Bool) :
    (s.logUnmapped addr who write).coded = s.coded := by simp [State.logUnmapped]

@[simp] theorem State.answerUnmapped_coded (s : State) (addr : Nat) (who : Who) (write : Bool) :
    (s.answerUnmapped addr who write).coded = s.coded := by simp [State.answerUnmapped]

@[simp] theorem State.logTimeout_coded (s : State) (row t : Nat) : (s.logTimeout row t).coded = s.coded := by simp [State.logTimeout]
@[simp] theorem State.advanceTo_coded (s : State) (t : Nat) : (s.advanceTo t).coded = s.coded := by rfl
@[simp] theorem State.setTenant_coded (s : State) (t : Nat) (x : Tenant) : (s.setTenant t x).coded = s.coded := by rfl
@[simp] theorem State.updTenant_coded (s : State) (t : Nat) (f : Tenant → Tenant) : (s.updTenant t f).coded = s.coded := by rfl
@[simp] theorem State.setPoison_coded (s : State) (a : Nat) (p : Bool) : (s.setPoison a p).coded = s.coded := by rfl
@[simp] theorem State.setMc_coded (s : State) (d : Nat) (m : McSt) : (s.setMc d m).coded = s.coded := by rfl
@[simp] theorem State.updMc_coded (s : State) (d : Nat) (f : McSt → McSt) : (s.updMc d f).coded = s.coded := by rfl
@[simp] theorem State.setFrame_coded (s : State) (f : Nat) (x : Frame) : (s.setFrame f x).coded = s.coded := by rfl
@[simp] theorem State.updChan_coded (s : State) (d ch : Nat) (f : ChSt → ChSt) : (s.updChan d ch f).coded = s.coded := by rfl
@[simp] theorem State.setErr_coded (s : State) (a : Nat) (e : Ecc) : (s.setErr a e).coded = s.coded := by rfl
@[simp] theorem State.access_coded (s : State) (a slots : Nat) : (s.access a slots).coded = s.coded := by rfl
@[simp] theorem State.newCode_coded (s : State) (a : Nat) (p : Bool) : (s.newCode a p).coded = s.coded := by rfl

@[simp] theorem State.noteWrite_coded (s : State) (a : Nat) (bs : List Byte) (p : Bool) : (s.noteWrite a bs p).coded = s.coded := by
  simp only [State.noteWrite]
  repeat' split
  all_goals simp

@[simp] theorem State.noteBurst_coded (s : State) (b cause : Nat) : (s.noteBurst b cause).coded = s.coded := by
  simp only [State.noteBurst]
  repeat' split
  all_goals simp

@[simp] theorem State.noteBursts_coded (s : State) (b cause n : Nat) : (s.noteBursts b cause n).coded = s.coded := by
  induction n generalizing s b with
  | zero => rfl
  | succ n ih => simp [State.noteBursts, ih]

@[simp] theorem State.noteRead_coded (s : State) (a n : Nat) : (s.noteRead a n).coded = s.coded := by simp [State.noteRead]

@[simp] theorem State.wrPiece_coded (s : State) (a : Nat) (bs : List Byte) (p : Bool) : (s.wrPiece a bs p).coded = s.coded := by
  simp [State.wrPiece]

@[simp] theorem State.wrPieces_coded (s : State) (a : Nat) (bs : List Byte) (p : Bool) (fuel : Nat) :
    (s.wrPieces a bs p fuel).coded = s.coded := by
  induction fuel generalizing s a bs with
  | zero => rfl
  | succ fuel ih =>
    unfold State.wrPieces
    split <;> simp [ih]

@[simp] theorem State.wrPhys_coded (s : State) (a : Nat) (bs : List Byte) (p : Bool) : (s.wrPhys a bs p).coded = s.coded := by
  simp [State.wrPhys]

@[simp] theorem State.setTub_coded (s : State) (d : Nat) (t : TubDie) : (s.setTub d t).coded = s.coded := by rfl
@[simp] theorem State.updTub_coded (s : State) (d : Nat) (f : TubDie → TubDie) : (s.updTub d f).coded = s.coded := by rfl

@[simp] theorem State.heatRead_coded (s : State) (tenant va n : Nat) : (s.heatRead tenant va n).coded = s.coded := by
  unfold State.heatRead
  repeat' split
  all_goals simp

@[simp] theorem State.hostWrite_coded (s : State) (addr : Nat) (bs : List Byte) : (s.hostWrite addr bs).coded = s.coded := by rfl
@[simp] theorem State.dmaRead_coded (s : State) (use : DmaUse) (addr len : Nat) : (s.dmaRead use addr len).1.coded = s.coded := by rfl
@[simp] theorem State.flushQueue_coded (s : State) (tn qn : Nat) : (s.flushQueue tn qn).coded = s.coded := by simp [State.flushQueue]

@[simp] theorem State.pushShadow_coded (s : State) (tn qn : Nat) (e : W32 → Entry) : (s.pushShadow tn qn e).coded = s.coded := by
  simp [State.pushShadow]

@[simp] theorem State.drainWaiting_coded (s : State) (tn fuel : Nat) : (s.drainWaiting tn fuel).coded = s.coded := by
  induction fuel generalizing s with
  | zero => rfl
  | succ fuel ih =>
    simp only [State.drainWaiting]
    split <;> simp [ih]

@[simp] theorem State.post1_coded (s : State) (tn : Nat) (e : Entry) : (s.post1 tn e).coded = s.coded := by simp [State.post1]

@[simp] theorem State.postEvent_coded (s : State) (tn op : Nat) (detail : List (Nat × Nat × Nat)) :
    (s.postEvent tn op detail).coded = s.coded := by simp [State.postEvent]

@[simp] theorem State.complete_coded (s : State) (tn : Nat) (cmd : Entry) (status code : Nat) (more : List (Nat × Nat × Nat)) :
    (s.complete tn cmd status code more).coded = s.coded := by simp [State.complete]

@[simp] theorem State.releaseFences_coded (s : State) (tn fuel : Nat) : (s.releaseFences tn fuel).coded = s.coded := by
  induction fuel generalizing s with
  | zero => rfl
  | succ fuel ih =>
    simp only [State.releaseFences]
    split <;> simp [ih]

@[simp] theorem State.finish_coded (s : State) (tn : Nat) (cmd : Entry) (status code : Nat) (more : List (Nat × Nat × Nat)) :
    (s.finish tn cmd status code more).coded = s.coded := by simp [State.finish]

@[simp] theorem State.setJob_coded (s : State) (k : Nat) (j : Job) : (s.setJob k j).coded = s.coded := by rfl
@[simp] theorem State.updJob_coded (s : State) (k : Nat) (f : Job → Job) : (s.updJob k f).coded = s.coded := by rfl
@[simp] theorem State.mapJobCtxs_coded (s : State) (j : JobRec) (f : Ctx → Ctx) : (s.mapJobCtxs j f).coded = s.coded := by rfl
@[simp] theorem State.reportQuota_coded (s : State) (tn : Nat) : (s.reportQuota tn).coded = s.coded := by simp [State.reportQuota]

@[simp] theorem State.freeFrames_coded (s : State) (tn : Nat) (sel : Nat × Nat × FrameUse → Bool) :
    (s.freeFrames tn sel).coded = s.coded := by simp [State.freeFrames]

@[simp] theorem State.dropColl_coded (s : State) (k : Nat) : (s.dropColl k).coded = s.coded := by rfl
@[simp] theorem State.endJob_coded (s : State) (k : Nat) : (s.endJob k).coded = s.coded := by simp [State.endJob]
@[simp] theorem State.stopJob_coded (s : State) (k : Nat) (cause : Nat) : (s.stopJob k cause).coded = s.coded := by simp [State.stopJob]

@[simp] theorem State.moduleFault_coded (s : State) : s.moduleFault.coded = s.coded := by
  unfold State.moduleFault
  split <;> simp

@[simp] theorem State.fillScan_coded (s : State) (n : Nat) (pass : Option Nat) : (s.fillScan n pass).coded = s.coded := by
  simp only [State.fillScan]
  split <;> simp

@[simp] theorem State.schedule_coded (s : State) (n : Nat) (pass : Option Nat) (atStart : Bool) :
    (s.schedule n pass atStart).coded = s.coded := by
  unfold State.schedule
  repeat' split
  all_goals simp

@[simp] theorem State.parkCtx_coded (s : State) (n k : Nat) : (s.parkCtx n k).coded = s.coded := by rfl
@[simp] theorem State.release_coded (s : State) (n k : Nat) : (s.release n k).coded = s.coded := by simp [State.release]
@[simp] theorem State.park_coded (s : State) (n k : Nat) : (s.park n k).coded = s.coded := by simp [State.park]
@[simp] theorem State.dropMove_coded (s : State) (k : Nat) : (s.dropMove k).coded = s.coded := by simp [State.dropMove]
@[simp] theorem State.forgetStep_coded (s : State) (k : Nat) (r : W32) : (s.forgetStep k r).coded = s.coded := by rfl

@[simp] theorem State.restartJob_coded (s : State) (k : Nat) (r : W32) : (s.restartJob k r).coded = s.coded := by
  simp [State.restartJob, State.coded_foldl]

@[simp] theorem State.holdJob_coded (s : State) (k : Nat) : (s.holdJob k).coded = s.coded := by simp [State.holdJob, State.coded_foldl]
@[simp] theorem State.replayJob_coded (s : State) (k : Nat) : (s.replayJob k).coded = s.coded := by simp [State.replayJob]

@[simp] theorem State.stepStop_coded (s : State) (k : Nat) (cause : Nat) : (s.stepStop k cause).coded = s.coded := by
  simp [State.stepStop]

@[simp] theorem State.seqFault_coded (s : State) (n k code : Nat) : (s.seqFault n k code).coded = s.coded := by
  simp only [State.seqFault]
  repeat' split
  all_goals simp

/-! ### Sequencer -/

@[simp] theorem State.poisonStop_coded (s : State) (n k g : Nat) : (s.poisonStop n k g).coded = s.coded := by
  simp only [State.poisonStop]
  split <;> simp

@[simp] theorem State.logCorrected_coded (s : State) (n k : Nat) (ecc : Ecc) : (s.logCorrected n k ecc).coded = s.coded := by
  unfold State.logCorrected
  split <;> simp

@[simp] theorem State.seqStep_coded (s : State) (n : Nat) (ecc : Ecc) (cls opc : Nat) {eff : State → Nat → Nat → IWord → State}
    (hf : ∀ s n k w, (eff s n k w).coded = s.coded) : (s.seqStep n ecc cls opc eff).coded = s.coded := by
  unfold State.seqStep
  split <;> simp [hf]

theorem seqOwn_coded {eff : State → Nat → Nat → IWord → State} (hf : ∀ s n k w, (eff s n k w).coded = s.coded)
    (s : State) (n k : Nat) (w : IWord) : (seqOwn eff s n k w).coded = s.coded := by
  unfold seqOwn
  split <;> simp [hf]

@[simp] theorem State.ownStep_coded (s : State) (n : Nat) (ecc : Ecc) (cls opc : Nat) {eff : State → Nat → Nat → IWord → State}
    (hf : ∀ s n k w, (eff s n k w).coded = s.coded) : (s.ownStep n ecc cls opc eff).coded = s.coded :=
  s.seqStep_coded n ecc cls opc (seqOwn_coded hf)

@[simp] theorem withTarget_coded (f : Ctx → IWord → Ctx) (s : State) (n k : Nat) (w : IWord) :
    (withTarget f s n k w).coded = s.coded := by simp [withTarget]

@[simp] theorem effNop_coded (s : State) (n k : Nat) (w : IWord) : (effNop s n k w).coded = s.coded := by rfl
@[simp] theorem effJump_coded (s : State) (n : Nat) (k : Nat) (w : IWord) : (effJump s n k w).coded = s.coded := by simp [effJump]

@[simp] theorem effBranchNz_coded (s : State) (n : Nat) (k : Nat) (w : IWord) : (effBranchNz s n k w).coded = s.coded := by
  simp [effBranchNz]

@[simp] theorem effBranchZ_coded (s : State) (n : Nat) (k : Nat) (w : IWord) : (effBranchZ s n k w).coded = s.coded := by
  simp [effBranchZ]

@[simp] theorem effLoop_coded (s : State) (n k : Nat) (w : IWord) : (effLoop s n k w).coded = s.coded := by simp [effLoop]

@[simp] theorem effLoopEnd_coded (s : State) (n k : Nat) (w : IWord) : (effLoopEnd s n k w).coded = s.coded := by
  simp only [effLoopEnd]
  split <;> simp

@[simp] theorem effFence_coded (s : State) (n k : Nat) (w : IWord) : (effFence s n k w).coded = s.coded := by simp [effFence]
@[simp] theorem effTickEnd_coded (s : State) (n k : Nat) (w : IWord) : (effTickEnd s n k w).coded = s.coded := by rfl
@[simp] theorem effHalt_coded (s : State) (n k : Nat) (w : IWord) : (effHalt s n k w).coded = s.coded := by rfl
@[simp] theorem effReadFlags_coded (s : State) (n k : Nat) (w : IWord) : (effReadFlags s n k w).coded = s.coded := by rfl
@[simp] theorem effClearFlags_coded (s : State) (n k : Nat) (w : IWord) : (effClearFlags s n k w).coded = s.coded := by rfl
@[simp] theorem scalar_coded (f : W32 → W32 → W32) (s : State) (n k : Nat) (w : IWord) : (scalar f s n k w).coded = s.coded := by rfl
@[simp] theorem effMovi_coded (s : State) (n k : Nat) (w : IWord) : (effMovi s n k w).coded = s.coded := by rfl
@[simp] theorem effAdd_coded (s : State) (n : Nat) (k : Nat) (w : IWord) : (effAdd s n k w).coded = s.coded := by rfl
@[simp] theorem effSub_coded (s : State) (n : Nat) (k : Nat) (w : IWord) : (effSub s n k w).coded = s.coded := by rfl
@[simp] theorem effMul_coded (s : State) (n : Nat) (k : Nat) (w : IWord) : (effMul s n k w).coded = s.coded := by rfl
@[simp] theorem effAnd_coded (s : State) (n : Nat) (k : Nat) (w : IWord) : (effAnd s n k w).coded = s.coded := by rfl
@[simp] theorem effOr_coded (s : State) (n : Nat) (k : Nat) (w : IWord) : (effOr s n k w).coded = s.coded := by rfl
@[simp] theorem effXor_coded (s : State) (n : Nat) (k : Nat) (w : IWord) : (effXor s n k w).coded = s.coded := by rfl
@[simp] theorem effShl_coded (s : State) (n : Nat) (k : Nat) (w : IWord) : (effShl s n k w).coded = s.coded := by rfl
@[simp] theorem effShr_coded (s : State) (n : Nat) (k : Nat) (w : IWord) : (effShr s n k w).coded = s.coded := by rfl
@[simp] theorem effSltu_coded (s : State) (n : Nat) (k : Nat) (w : IWord) : (effSltu s n k w).coded = s.coded := by rfl
@[simp] theorem effAddi_coded (s : State) (n k : Nat) (w : IWord) : (effAddi s n k w).coded = s.coded := by rfl

@[simp] theorem ownEffect_coded (w : IWord) (s : State) (n k : Nat) (v : IWord) : (ownEffect w s n k v).coded = s.coded := by
  suffices h : ∀ f, ownEffect w = f → (f s n k v).coded = s.coded from h _ rfl
  intro f hf
  unfold ownEffect at hf
  split at hf <;> subst hf <;> simp

@[simp] theorem State.releaseSeq_coded (s : State) (n : Nat) : (s.releaseSeq n).coded = s.coded := by
  simp only [State.releaseSeq]
  split
  · rfl
  · split
    · split <;> simp
    · rfl

/-! ### Context -/

@[simp] theorem State.slotStart_coded (s : State) (n : Nat) : (s.slotStart n).coded = s.coded := by
  simp only [State.slotStart]
  repeat' split
  all_goals simp

@[simp] theorem State.drainCore_coded (s : State) (n : Nat) : (s.drainCore n).coded = s.coded := by
  simp only [State.drainCore]
  split <;> simp

@[simp] theorem State.resumeCore_coded (s : State) (n : Nat) : (s.resumeCore n).coded = s.coded := by simp [State.resumeCore]

@[simp] theorem State.commitWord_coded (s : State) (n : Nat) (data3 : W32) : (s.commitWord n data3).coded = s.coded := by
  simp [State.commitWord]

@[simp] theorem execFenceComplete_coded (core : Nat) (s : State) : outCoded (execFenceComplete core s) = some s.coded := by
  unfold execFenceComplete
  split <;> simp

@[simp] theorem State.retireIfStopping_coded (s : State) (n k : Nat) : (s.retireIfStopping n k).coded = s.coded := by
  unfold State.retireIfStopping
  split <;> simp

@[simp] theorem State.overrun_coded (s : State) (n k b : Nat) : (s.overrun n k b).coded = s.coded := by simp [State.overrun]

@[simp] theorem State.overrunTo_coded (s : State) (n k b0 b1 : Nat) : (s.overrunTo n k b0 b1).coded = s.coded := by
  simp [State.overrunTo, State.coded_foldl]

@[simp] theorem State.tickEndRetire_coded (s : State) (n k : Nat) : (s.tickEndRetire n k).coded = s.coded := by simp [State.tickEndRetire]

@[simp] theorem execTickEndRetire_coded (core : Nat) (s : State) : outCoded (execTickEndRetire core s) = some s.coded := by
  unfold execTickEndRetire
  split <;> simp

@[simp] theorem State.haltRetire_coded (s : State) (n k : Nat) : (s.haltRetire n k).coded = s.coded := by simp [State.haltRetire]

@[simp] theorem execHaltRetire_coded (core : Nat) (s : State) : outCoded (execHaltRetire core s) = some s.coded := by
  unfold execHaltRetire
  split <;> simp

/-! ### Matrix -/

@[simp] theorem State.latchNext_coded (s : State) (n k : Nat) : (s.latchNext n k).coded = s.coded := by
  simp only [State.latchNext]
  repeat' split
  all_goals simp

@[simp] theorem State.mxTake_coded (s : State) (n k : Nat) (w : IWord) : (s.mxTake n k w).coded = s.coded := by
  simp only [State.mxTake]
  split <;> simp

@[simp] theorem State.convTake_coded (s : State) (n k : Nat) (w : IWord) : (s.convTake n k w).coded = s.coded := by
  unfold State.convTake
  split <;> simp

@[simp] theorem State.mxAccept_coded (s : State) (n k : Nat) (w : IWord) : (s.mxAccept n k w).coded = s.coded := by simp [State.mxAccept]

@[simp] theorem State.mapMx_coded (s : State) (f : MxSt → MxSt) : (s.mapMx f).coded = s.coded := by
  simp [State.mapMx]

@[simp] theorem State.suspendBallast_coded (s : State) : s.suspendBallast.coded = s.coded := by simp [State.suspendBallast]
@[simp] theorem State.resumeBallast_coded (s : State) : s.resumeBallast.coded = s.coded := by simp [State.resumeBallast]

@[simp] theorem State.unitDone_coded (s : State) (n k : Nat) (r : MxRun) (rs : List MxRun) : (s.unitDone n k r rs).coded = s.coded := by
  unfold State.unitDone
  split <;> simp

@[simp] theorem execUnitComplete_coded (core : Nat) (s : State) : outCoded (execUnitComplete core s) = some s.coded := by
  unfold execUnitComplete
  repeat' split
  all_goals simp

@[simp] theorem State.updArray_coded (s : State) (n a : Nat) (f : ArrSt → ArrSt) : (s.updArray n a f).coded = s.coded := by rfl

@[simp] theorem execBallastRampUp_coded (core array : Nat) (s : State) : outCoded (execBallastRampUp core array s) = some s.coded := by
  unfold execBallastRampUp
  split <;> simp

/-! ### VectorOps -/

@[simp] theorem State.vArithRows_coded (s : State) (n k : Nat) (w : IWord) (ls : List W32 × List W32) (accs : List (W32 × NFlags))
    (lo hi : Nat) :
    (s.vArithRows n k w ls accs lo hi).coded = s.coded := by rfl

@[simp] theorem State.beginVe_coded (s : State) (n k : Nat) (r : VeRun) : (s.beginVe n k r).coded = s.coded := by rfl

@[simp] theorem State.vArithTake_coded (s : State) (n k : Nat) (w : IWord) : (s.vArithTake n k w).coded = s.coded := by
  simp [State.vArithTake]

@[simp] theorem State.vLoadRows_coded (s : State) (n k : Nat) (t : VXfer) (f : FFmt) (lo hi : Nat) :
    (s.vLoadRows n k t f lo hi).coded = s.coded := by simp [State.vLoadRows]

@[simp] theorem State.vLoadTake_coded (s : State) (n k : Nat) (w : IWord) : (s.vLoadTake n k w).coded = s.coded := by
  simp only [State.vLoadTake]
  split <;> simp

@[simp] theorem State.vStoreRows_coded (s : State) (n k : Nat) (t : VXfer) (f : FFmt) (lo hi : Nat) :
    (s.vStoreRows n k t f lo hi).coded = s.coded := by rfl

@[simp] theorem State.vStoreTake_coded (s : State) (n k : Nat) (w : IWord) : (s.vStoreTake n k w).coded = s.coded := by
  simp only [State.vStoreTake]
  split <;> simp

@[simp] theorem State.vSetSaveTake_coded (s : State) (n k : Nat) (w : IWord) : (s.vSetSaveTake n k w).coded = s.coded := by
  simp only [State.vSetSaveTake]
  repeat' split
  all_goals simp

@[simp] theorem State.vSrSetTake_coded (s : State) (n k : Nat) (w : IWord) : (s.vSrSetTake n k w).coded = s.coded := by
  simp [State.vSrSetTake]

@[simp] theorem State.veAccept_coded (s : State) (n k : Nat) (w : IWord) : (s.veAccept n k w).coded = s.coded := by
  unfold State.veAccept
  split <;> simp

@[simp] theorem execVstoreArrival_coded (core : Nat) (s : State) : outCoded (execVstoreArrival core s) = some s.coded := by
  simp only [execVstoreArrival]
  repeat' split
  all_goals simp

@[simp] theorem State.veRows_coded (s : State) (n k : Nat) (r : VeRun) (lo hi : Nat) : (s.veRows n k r lo hi).coded = s.coded := by
  simp only [State.veRows]
  repeat' split
  all_goals simp

@[simp] theorem State.undoVe_coded (s : State) (n k : Nat) (r : VeRun) : (s.undoVe n k r).coded = s.coded := by rfl

@[simp] theorem State.cutVe_coded (s : State) (n k : Nat) : (s.cutVe n k).coded = s.coded := by
  unfold State.cutVe
  split <;> simp

@[simp] theorem State.resumeVe_coded (s : State) (n k : Nat) : (s.resumeVe n k).coded = s.coded := by
  unfold State.resumeVe
  split <;> simp

@[simp] theorem State.updVe_coded (s : State) (n : Nat) (f : VeSt → VeSt) : (s.updVe n f).coded = s.coded := by rfl

/-! ### StreamOps -/

@[simp] theorem State.farmTake_coded (s : State) (n k : Nat) (w : IWord) : (s.farmTake n k w).coded = s.coded := by simp [State.farmTake]

@[simp] theorem State.sxferTake_coded (s : State) (n k : Nat) (w : IWord) : (s.sxferTake n k w).coded = s.coded := by
  unfold State.sxferTake
  extract_lets x off
  split
  · simp
  · extract_lets
    split <;> simp

@[simp] theorem State.stAccept_coded (s : State) (n k : Nat) (w : IWord) : (s.stAccept n k w).coded = s.coded := by simp [State.stAccept]

@[simp] theorem State.writePieces_coded (s : State) (p es : Nat) (els : List (List Byte × Bool)) (fuel : Nat) :
    (s.writePieces p es els fuel).coded = s.coded := by
  induction fuel generalizing s p els with
  | zero => rfl
  | succ fuel ih =>
    unfold State.writePieces
    split <;> simp [ih]

@[simp] theorem State.writeRun_coded (s : State) (n tenant space es : Nat) (a : Int) (els : List (List Byte × Bool)) :
    (s.writeRun n tenant space es a els).coded = s.coded := by
  unfold State.writeRun
  repeat' split
  all_goals simp

@[simp] theorem State.writeCut_coded (s : State) (n tenant space es : Nat) (a : Int) (els : List (List Byte × Bool)) (fuel : Nat) :
    (s.writeCut n tenant space es a els fuel).coded = s.coded := by
  induction fuel generalizing s a els with
  | zero => rfl
  | succ fuel ih =>
    unfold State.writeCut
    split <;> simp [ih]

@[simp] theorem State.heatRun_coded (s : State) (tenant space : Nat) (a : Int) (len fuel : Nat) :
    (s.heatRun tenant space a len fuel).coded = s.coded := by
  induction fuel generalizing s a len with
  | zero => rfl
  | succ fuel ih => simp [State.heatRun, ih]

@[simp] theorem State.touchPage_coded (s : State) (n tenant space : Nat) (a : Int) : (s.touchPage n tenant space a).coded = s.coded := by
  simp [State.touchPage]

@[simp] theorem State.touchRun_coded (s : State) (n tenant space es : Nat) (a : Int) (m : Nat) :
    (s.touchRun n tenant space es a m).coded = s.coded := by
  induction m with
  | zero => rfl
  | succ m ih => simp [State.touchRun, ih]

@[simp] theorem State.noteElems_coded (s : State) (tenant space : Nat) (l : List Int) (last : Nat) :
    (s.noteElems tenant space l last).coded = s.coded := by
  induction l generalizing s last with
  | nil => rfl
  | cons a r ih =>
    simp only [State.noteElems]
    split <;> simp [ih]

@[simp] theorem State.moveRun_coded (s : State) (n tenant : Nat) (t : StRun) (r : List Nat × Nat × Nat) (els : List (List Byte × Bool)) :
    (s.moveRun n tenant t r els).1.coded = s.coded := by simp [State.moveRun, State.coded_foldl]

@[simp] theorem State.setRun_coded (s : State) (n k : Nat) (t : StRun) : (s.setRun n k t).coded = s.coded := by rfl

@[simp] theorem State.writeRuns_coded (s : State) (n tenant : Nat) (t : StRun) (els : List (List Byte × Bool))
    (rs : List (List Nat × Nat × Nat)) : (s.writeRuns n tenant t els rs).1.coded = s.coded := by
  induction rs generalizing s els with
  | nil => rfl
  | cons r rs ih => simp [State.writeRuns, ih]

theorem State.moveNext_coded (s : State) (n tenant : Nat) (t : StRun) {o : State × StRun} {t' : StRun}
    (h : s.moveNext n tenant t = (some o, t')) : o.1.coded = s.coded := by
  simp only [State.moveNext] at h
  split at h
  · simp at h
  · split at h
    · simp at h
    · simp only [Prod.mk.injEq, Option.some.injEq] at h
      obtain ⟨rfl, -⟩ := h
      simp

@[simp] theorem State.deliver_coded (s : State) (n tenant : Nat) (t : StRun) (stop fuel : Nat) :
    (s.deliver n tenant t stop fuel).1.coded = s.coded := by
  induction fuel generalizing s t with
  | zero => rfl
  | succ fuel ih =>
    unfold State.deliver
    split
    · rfl
    · split
      next o _ h => rw [ih, s.moveNext_coded n tenant t h]
      next => rfl

@[simp] theorem State.sendArrival_coded (s : State) (n k m g : Nat) (poison : Bool) :
    (s.sendArrival n k m g poison).1.coded = s.coded := by
  simp only [State.sendArrival]
  repeat' split
  all_goals simp

@[simp] theorem State.sendArrivals_coded (s : State) (n k g : Nat) (poison : Bool) (ms : List Nat) :
    (s.sendArrivals n k g poison ms).1.coded = s.coded := by
  induction ms generalizing s with
  | nil => rfl
  | cons m ms ih => simp [State.sendArrivals, ih]

@[simp] theorem State.chunkArrive_coded (s : State) (n k : Nat) (t : StRun) (poison : Bool) :
    (s.chunkArrive n k t poison).coded = s.coded := by simp [State.chunkArrive]

@[simp] theorem State.poisonOut_coded (s : State) (n k : Nat) (t : StRun) (fuel : Nat) : (s.poisonOut n k t fuel).coded = s.coded := by
  induction fuel generalizing s t with
  | zero => rfl
  | succ fuel ih =>
    simp only [State.poisonOut]
    split <;> simp [ih]

@[simp] theorem State.guestSend_coded (s : State) (kind : GKind) : (s.guestSend kind).1.coded = s.coded := by rfl

@[simp] theorem State.fetchFrom_coded (s : State) (n k tenant : Nat) (t : StRun) (va len : Nat) :
    (s.fetchFrom n k tenant t va len).coded = s.coded := by
  unfold State.fetchFrom
  repeat' split
  all_goals simp

@[simp] theorem State.outFetch_coded (s : State) (n k tenant : Nat) (t : StRun) : (s.outFetch n k tenant t).coded = s.coded := by
  simp only [State.outFetch]
  split <;> simp

@[simp] theorem State.chunkStep_coded (s : State) (n k : Nat) (t : StRun) : (s.chunkStep n k t).coded = s.coded := by
  simp [State.chunkStep]

@[simp] theorem State.suspendStep_coded (s : State) (n k : Nat) (t : StRun) : (s.suspendStep n k t).coded = s.coded := by
  simp only [State.suspendStep]
  split <;> simp

@[simp] theorem State.resumeTransfers_coded (s : State) (tenant key : Nat) : (s.resumeTransfers tenant key).coded = s.coded := by rfl

@[simp] theorem State.pageSettled_coded (s : State) (tenant va : Nat) : (s.pageSettled tenant va).coded = s.coded := by
  simp [State.pageSettled]

@[simp] theorem State.fetched_coded (s : State) (n : Nat) (id : Bool × Nat) (head : Nat) (data : List Byte) (bad : List Nat) :
    (s.fetched n id head data bad).coded = s.coded := by
  unfold State.fetched
  repeat' split
  all_goals simp

/-! ### TierOps -/

@[simp] theorem State.zeroFrame_coded (s : State) (f : Nat) : (s.zeroFrame f).coded = s.coded := by rfl
@[simp] theorem State.giveFrame_coded (s : State) (o : Nat × Nat × FrameUse) (f : Nat) : (s.giveFrame o f).coded = s.coded := by rfl

theorem State.allocFrames_coded (s : State) (d n : Nat) (o : Nat × Nat × FrameUse) {a : State × List Nat}
    (h : s.allocFrames d n o = some a) : a.1.coded = s.coded := by
  simp only [State.allocFrames, Option.ite_none_right_eq_some, Option.some.injEq] at h
  obtain ⟨-, rfl⟩ := h
  simp [State.coded_foldl]

@[simp] theorem State.setT2_coded (s : State) (key : Nat) (t : T2Tensor) : (s.setT2 key t).coded = s.coded := by rfl
@[simp] theorem State.updT2_coded (s : State) (key : Nat) (f : T2Tensor → T2Tensor) : (s.updT2 key f).coded = s.coded := by rfl
@[simp] theorem State.setPage_coded (s : State) (k : Nat) (e : PageEnt) : (s.setPage k e).coded = s.coded := by rfl
@[simp] theorem State.invalidate_coded (s : State) (key : Nat) : (s.invalidate key).coded = s.coded := by rfl

@[simp] theorem State.mapBig_coded (s : State) (tenant va : Nat) (moving : Bool) (f : Nat → PageTo) (l : List Nat) :
    (s.mapBig tenant va moving f l).coded = s.coded := by
  induction l generalizing s with
  | nil => rfl
  | cons i l ih => simp [State.mapBig, ih]

@[simp] theorem State.unmapBig_coded (s : State) (tenant va n : Nat) : (s.unmapBig tenant va n).coded = s.coded := by
  simp [State.unmapBig, State.coded_foldl]

@[simp] theorem State.dropCopy_coded (s : State) (key : Nat) : (s.dropCopy key).coded = s.coded := by simp [State.dropCopy]

@[simp] theorem State.stopPromotion_coded (s : State) : s.stopPromotion.coded = s.coded := by
  unfold State.stopPromotion
  split <;> simp

@[simp] theorem State.dropWhile_coded (s : State) (sel : Nat → Bool) (cond : State → Bool) (fuel : Nat) :
    (s.dropWhile sel cond fuel).coded = s.coded := by
  induction fuel generalizing s with
  | zero => rfl
  | succ fuel ih =>
    unfold State.dropWhile
    split
    · split <;> simp [ih]
    · rfl

@[simp] theorem State.settleQuota_coded (s : State) (tn : Nat) : (s.settleQuota tn).coded = s.coded := by simp [State.settleQuota]

@[simp] theorem State.setQuota_coded (s : State) (tn tier pages : Nat) : (s.setQuota tn tier pages).coded = s.coded := by
  simp [State.setQuota]

@[simp] theorem State.noteFrame_coded (s : State) (f cause : Nat) : (s.noteFrame f cause).coded = s.coded := by
  simp [State.noteFrame, State.coded_foldl]

@[simp] theorem State.fillFrame_coded (s : State) (a dst : Nat) : (s.fillFrame a dst).coded = s.coded := by rfl
@[simp] theorem State.copyFrame_coded (s : State) (src dst : Nat) : (s.copyFrame src dst).coded = s.coded := by simp [State.copyFrame]

/-! ### MemOps -/

@[simp] theorem State.writeRetList_coded (s : State) (l : List (Nat × Nat)) : (s.writeRetList l).coded = s.coded := by rfl
@[simp] theorem State.correctable_coded (s : State) (a : Nat) : (s.correctable a).coded = s.coded := by simp [State.correctable]

@[simp] theorem State.updMaps_coded (s : State) (f : Nat) (g : PageEnt → PageEnt) : (s.updMaps f g).coded = s.coded := by
  simp [State.updMaps, State.coded_foldl]

@[simp] theorem State.resumeOn_coded (s : State) (f : Nat) : (s.resumeOn f).coded = s.coded := by simp [State.resumeOn, State.coded_foldl]

@[simp] theorem State.logRetire_coded (s : State) (page reason : Nat) : (s.logRetire page reason).coded = s.coded := by
  simp [State.logRetire]

@[simp] theorem State.retireEnd_coded (s : State) (d state reason page : Nat) : (s.retireEnd d state reason page).coded = s.coded := by
  simp [State.retireEnd]

@[simp] theorem State.stopMove_coded (s : State) (d f : Nat) : (s.stopMove d f).coded = s.coded := by
  simp only [State.stopMove]
  split <;> simp

@[simp] theorem State.quarantine_coded (s : State) (f cause : Nat) : (s.quarantine f cause).coded = s.coded := by
  simp [State.quarantine, State.coded_foldl]

@[simp] theorem State.afterQuarantine_coded (s : State) (f cause : Nat) : (s.afterQuarantine f cause).coded = s.coded := by
  simp only [State.afterQuarantine]
  repeat' split
  all_goals simp

@[simp] theorem State.uncorrectable_coded (s : State) (a cause : Nat) : (s.uncorrectable a cause).coded = s.coded := by
  simp [State.uncorrectable]

@[simp] theorem State.countPoisonRead_coded (s : State) (a : Nat) : (s.countPoisonRead a).coded = s.coded := by rfl

@[simp] theorem State.burstRead_coded (s : State) (a cause : Nat) (ecc : Ecc) : (s.burstRead a cause ecc).1.coded = s.coded := by
  simp only [State.burstRead]
  repeat' split
  all_goals simp

@[simp] theorem State.settleDie_coded (s : State) (d : Nat) : (s.settleDie d).coded = s.coded := by
  unfold State.settleDie
  rw [State.coded_foldl (fun s x => by split <;> simp)]
  simp

@[simp] theorem State.settle_coded (s : State) : s.settle.coded = s.coded := by simp [State.settle, State.coded_foldl]

@[simp] theorem State.serveAcc_coded (s : State) (q : MemAcc) : (s.serveAcc q).1.coded = s.coded := by
  simp only [State.serveAcc]
  repeat' split
  all_goals simp

@[simp] theorem State.deferAcc_coded (s : State) (q : MemAcc) : (s.deferAcc q).coded = s.coded := by rfl

@[simp] theorem State.serveDie_coded (s : State) (d : Nat) : (s.serveDie d).coded = s.coded := by
  simp [State.serveDie, State.coded_foldl_fst, apply_ite Prod.fst]

@[simp] theorem State.serveWaiting_coded (s : State) : s.serveWaiting.coded = s.coded := by simp [State.serveWaiting, State.coded_foldl]

@[simp] theorem execFrameStart_coded (die : Nat) (f : FrameRep) (s : State) : outCoded (execFrameStart die f s) = some s.coded := by
  simp [execFrameStart, State.coded_foldl]

@[simp] theorem State.retirePage_coded (s : State) (d page : Nat) : (s.retirePage d page).coded = s.coded := by simp [State.retirePage]

@[simp] theorem State.settlePage_coded (s : State) (d page : Nat) : (s.settlePage d page).coded = s.coded := by
  simp only [State.settlePage]
  repeat' split
  all_goals simp

@[simp] theorem State.finishMove_coded (s : State) (d : Nat) : (s.finishMove d).coded = s.coded := by
  simp only [State.finishMove]
  repeat' split
  all_goals simp

@[simp] theorem State.listTimeout_coded (s : State) (die armed page : Nat) : (s.listTimeout die armed page).coded = s.coded := by
  simp [State.listTimeout]

@[simp] theorem execRetireComplete_coded (die : Nat) (ok : Bool) (s : State) : outCoded (execRetireComplete die ok s) = some s.coded := by
  simp only [execRetireComplete]
  split <;> simp

@[simp] theorem execRetirementWriteTimeout_coded (die : Nat) (s : State) :
    outCoded (execRetirementWriteTimeout die s) = some s.coded := by
  simp only [execRetirementWriteTimeout]
  split <;> simp

@[simp] theorem execFaultResolved_coded (tenant va : Nat) (s : State) : outCoded (execFaultResolved tenant va s) = some s.coded := by
  simp only [execFaultResolved]
  split <;> simp

/-! ### TuberOps -/

@[simp] theorem State.noteUnit_coded (s : State) (a : Nat) : (s.noteUnit a).coded = s.coded := by simp [State.noteUnit]

@[simp] theorem State.noteShares_coded (s : State) (sp : Span) (r : TRec) : (s.noteShares sp r).coded = s.coded :=
  State.coded_foldl (fun s _ => State.coded_foldl (fun s i => by split <;> simp) _ _) _ _

@[simp] theorem State.noteVirt_coded (s : State) (tenant va n fuel : Nat) : (s.noteVirt tenant va n fuel).coded = s.coded := by
  induction fuel generalizing s va n with
  | zero => rfl
  | succ fuel ih =>
    simp only [State.noteVirt]
    split
    · rfl
    · rw [ih]
      split <;> simp

@[simp] theorem State.writeVirt_coded (s : State) (tenant va : Nat) (bs : List Byte) (p : Bool) (fuel : Nat) :
    (s.writeVirt tenant va bs p fuel).coded = s.coded := by
  induction fuel generalizing s va bs with
  | zero => rfl
  | succ fuel ih =>
    unfold State.writeVirt
    split
    · rfl
    · rw [ih]
      split
      · simp
      · split <;> simp

@[simp] theorem State.deliverX_coded (s : State) (tn mask off group : Nat) (pieces : List (Nat × List Byte × Bool)) (poison : Bool) :
    (s.deliverX tn mask off group pieces poison).coded = s.coded := by simp [State.deliverX, State.coded_foldl]

@[simp] theorem State.opTput_coded (s : State) (tn : Nat) (sp : Span) (r : TRec) (data : Option TSource) :
    (s.opTput tn sp r data).1.coded = s.coded := by
  unfold State.opTput
  rw [State.coded_foldl_fst (fun a c => by dsimp only; split <;> simp)]
  simp

@[simp] theorem State.opTget_coded (s : State) (tn : Nat) (sp : Span) (r : TRec) : (s.opTget tn sp r).1.coded = s.coded :=
  State.coded_foldl_fst (fun a c => by dsimp only; split <;> simp) _ _

@[simp] theorem State.opTlatch_coded (s : State) (d tn : Nat) (r : TRec) (data : Option TSource) :
    (s.opTlatch d tn r data).1.coded = s.coded := by
  simp [State.opTlatch, State.coded_foldl_fst]

@[simp] theorem State.keepQueue_coded (s : State) (d tn : Nat) (sp : Span) (r : TRec) (w a : OFmt) (poisonIn : Bool) :
    (s.keepQueue d tn sp r w a poisonIn).coded = s.coded := by rfl

@[simp] theorem State.putResults_coded (s : State) (tn : Nat) (nm : NMode) (r : TRec) (poisonIn : Bool) (sets : List SetOut) :
    (s.putResults tn nm r poisonIn sets).1.coded = s.coded := by simp [State.putResults]

@[simp] theorem State.opTmv_coded (s : State) (d tn : Nat) (nm : NMode) (sp : Span) (r : TRec) (poisonIn : Bool) :
    (s.opTmv d tn nm sp r poisonIn).1.coded = s.coded := by
  unfold State.opTmv
  split <;> simp

@[simp] theorem State.opTsq_coded (s : State) (d tn : Nat) (nm : NMode) (sp : Span) (r : TRec) (poisonIn : Bool) :
    (s.opTsq d tn nm sp r poisonIn).1.coded = s.coded := by simp [State.opTsq]

@[simp] theorem State.opTarm_coded (s : State) (d : Nat) (r : TRec) : (s.opTarm d r).coded = s.coded := by rfl
@[simp] theorem State.opTew_coded (s : State) (d tn : Nat) (nm : NMode) (r : TRec) : (s.opTew d tn nm r).1.coded = s.coded := by rfl

/-! ### UpdateOps -/

@[simp] theorem State.setStep_coded (s : State) (k : Nat) (st : StepSt) : (s.setStep k st).coded = s.coded := by
  unfold State.setStep
  split <;> simp

@[simp] theorem State.push7_coded (s : State) (tn : Nat) (es : List Entry) : (s.push7 tn es).coded = s.coded := by
  simp [State.push7, State.coded_foldl]

@[simp] theorem State.updUpd_coded (s : State) (k : Nat) (f : UpdSt → UpdSt) : (s.updUpd k f).coded = s.coded := by rfl
@[simp] theorem State.drainHost_coded (s : State) (k : Nat) : (s.drainHost k).coded = s.coded := by simp [State.drainHost]

@[simp] theorem State.hostReady_coded (s : State) (k : Nat) : (s.hostReady k).coded = s.coded := by
  simp only [State.hostReady]
  split <;> simp

@[simp] theorem State.hostCopy_coded (s : State) (k : Nat) (r : WRec) : (s.hostCopy k r).coded = s.coded := by
  simp only [State.hostCopy]
  split <;> simp

@[simp] theorem State.updUp_coded (s : State) (d : Nat) (f : UpDie → UpDie) : (s.updUp d f).coded = s.coded := by rfl
@[simp] theorem State.emit_coded (s : State) (k die : Nat) (r : WRec) : (s.emit k die r).coded = s.coded := by simp [State.emit]

@[simp] theorem State.flushSegs_coded (s : State) (k : Nat) : (s.flushSegs k).coded = s.coded := by
  simp [State.flushSegs, State.coded_foldl]

@[simp] theorem State.unitWrite_coded (s : State) (a : Nat) (bs : List Byte) (p : Bool) : (s.unitWrite a bs p).coded = s.coded := by
  simp [State.unitWrite]

@[simp] theorem State.putShare_coded (s : State) (sp : Span) (u : Nat × Nat × Nat) (i : Nat) (bs : List Byte) (p : Bool) :
    (s.putShare sp u i bs p).coded = s.coded := by
  unfold State.putShare
  split <;> simp

@[simp] theorem State.putHalf_coded (s : State) (sp : Span) (u : Nat × Nat × Nat) (i : Nat) (bs : List Byte) (p : Bool) :
    (s.putHalf sp u i bs p).coded = s.coded := by
  unfold State.putHalf
  split <;> simp

@[simp] theorem State.noteUpd_coded (s : State) (rule : Nat) (sp : UpdSpans) (u : Nat × Nat × Nat) (i : Nat) :
    (s.noteUpd rule sp u i).coded = s.coded :=
  State.coded_foldl (fun s x => by split <;> simp) _ _

@[simp] theorem State.updWrite_coded (s : State) (rule : Nat) (k : UpdK) (sp : UpdSpans) (ring : Span) (cap pos n : Nat)
    (u : Nat × Nat × Nat) (i j cnt : Nat) :
    (s.updWrite rule k sp ring cap pos n u i j cnt).1.coded = s.coded := by simp [State.updWrite, State.coded_foldl]

@[simp] theorem State.putConsts_coded (s : State) (k : Nat) (d : UpdDec) : (s.putConsts k d).coded = s.coded := by
  simp [State.putConsts, State.coded_foldl]

@[simp] theorem State.opTupd_coded (s : State) (k : Nat) (key : UpdKey) : (s.opTupd k key).1.coded = s.coded := by
  simp only [State.opTupd]
  split
  · rfl
  · simp [State.coded_foldl_fst]

/-! ### Tuber -/

@[simp] theorem State.setList_coded (s : State) (l : TbList) : (s.setList l).coded = s.coded := by rfl

@[simp] theorem State.addList_coded (s : State) (f : ListFrom) (tenant nmode : Nat) (records : List Entry) (poisonIn : Bool) :
    (s.addList f tenant nmode records poisonIn).coded = s.coded := by rfl

@[simp] theorem State.tbTake_coded (s : State) (n k : Nat) (w : IWord) : (s.tbTake n k w).coded = s.coded := by simp [State.tbTake]
@[simp] theorem State.settleCredit_coded (s : State) : s.settleCredit.coded = s.coded := by rfl

@[simp] theorem State.listFetched_coded (s : State) (l : Nat) (id : Bool × Nat) (head : Nat) (bs : List Byte) (bad : List Nat) :
    (s.listFetched l id head bs bad).coded = s.coded := by
  unfold State.listFetched
  split <;> simp

@[simp] theorem State.fetchSource_coded (s : State) (l : TbList) (r : TRec) (fuel : Nat) : (s.fetchSource l r fuel).coded = s.coded := by
  induction fuel generalizing s l with
  | zero => rfl
  | succ fuel ih =>
    simp only [State.fetchSource]
    split
    · simp
    · split <;> simp [ih]

@[simp] theorem State.updWaits_coded (s : State) (l : TbList) (die : Nat) (r : TRec) : (s.updWaits l die r).coded = s.coded := by
  unfold State.updWaits
  split <;> simp

@[simp] theorem State.recordStart_coded (s : State) (l : TbList) (d : Nat) (r : TRec) (poison : Bool) (p : Nat) :
    (s.recordStart l d r poison p).coded = s.coded := by simp [State.recordStart]

@[simp] theorem execTuberRecordStart_coded (start : RecordAt) (s : State) : outCoded (execTuberRecordStart start s) = some s.coded := by
  simp only [execTuberRecordStart]
  repeat' split
  all_goals simp

@[simp] theorem State.recordDone_coded (s : State) (l : TbList) (d : Nat) (r : TRec) (o : TOut) :
    (s.recordDone l d r o).coded = s.coded := by rfl

@[simp] theorem State.recordStep_coded (s : State) (list op : Nat) {f : TbList → Nat → TRec → State × TOut}
    (hf : ∀ l d r, (f l d r).1.coded = s.coded) : outCoded (s.recordStep list op f) = some s.coded := by
  unfold State.recordStep
  split
  · rfl
  · split
    · rfl
    · simp [hf]

@[simp] theorem State.partialStep_coded (s : State) (k sh t rec : Nat) : (s.partialStep k sh t rec).1.coded = s.coded := by
  simp [State.partialStep]

@[simp] theorem execTsq_coded (list : Nat) (s : State) : outCoded (execTsq list s) = some s.coded :=
  s.recordStep_coded list 6 (fun l d r => by split <;> simp)

@[simp] theorem execTupd_coded (list : Nat) (s : State) : outCoded (execTupd list s) = some s.coded :=
  s.recordStep_coded list 7 (fun l d r => by split <;> simp)

@[simp] theorem State.tewRow_coded (s : State) (list sub : Nat) : outCoded (s.tewRow list sub) = some s.coded := by
  unfold State.tewRow
  split <;> simp

@[simp] theorem State.clearList_coded (s : State) (l : TbList) : (s.clearList l).coded = s.coded :=
  State.coded_foldl (fun s e => by dsimp only; split <;> simp) _ _

@[simp] theorem State.listComplete_coded (s : State) (list : Nat) : (s.listComplete list).coded = s.coded := by
  unfold State.listComplete
  repeat' split
  all_goals simp

/-! ### Tiers -/

@[simp] theorem State.t2Finish_coded (s : State) (tn : Nat) (e : Entry) (code : Nat) : (s.t2Finish tn e code).coded = s.coded := by
  simp [State.t2Finish]

@[simp] theorem State.t2Free_coded (s : State) (key : Nat) : (s.t2Free key).coded = s.coded := by simp [State.t2Free]
@[simp] theorem State.t2Open_coded (s : State) (tn : Nat) (e : Entry) : (s.t2Open tn e).coded = s.coded := by simp [State.t2Open]

@[simp] theorem State.t2Store_coded (s : State) (tn : Nat) (e : Entry) (data : List Byte) (poison : Bool) :
    (s.t2Store tn e data poison).coded = s.coded := by simp [State.t2Store]

@[simp] theorem State.t2Stored_coded (s : State) (tn : Nat) (e : Entry) (ok : Bool) : (s.t2Stored tn e ok).coded = s.coded := by
  simp [State.t2Stored]

@[simp] theorem State.t2Write_coded (s : State) (tn : Nat) (e : Entry) : (s.t2Write tn e).coded = s.coded := by simp [State.t2Write]
@[simp] theorem State.t2Seal_coded (s : State) (tn : Nat) (e : Entry) : (s.t2Seal tn e).coded = s.coded := by simp [State.t2Seal]

@[simp] theorem State.sealCommit_coded (s : State) (key : Nat) (ok : Bool) : (s.sealCommit key ok).coded = s.coded := by
  simp [State.sealCommit]

@[simp] theorem State.t2Abort_coded (s : State) (tn : Nat) (e : Entry) : (s.t2Abort tn e).coded = s.coded := by simp [State.t2Abort]

@[simp] theorem State.t2Delete_coded (s : State) (tn : Nat) (e : Entry) : (s.t2Delete tn e).coded = s.coded := by
  unfold State.t2Delete
  split <;> simp

@[simp] theorem State.epochTensor_coded (s : State) (key : Nat) : (s.epochTensor key).coded = s.coded := by simp [State.epochTensor]
@[simp] theorem State.endEpoch_coded (s : State) : s.endEpoch.coded = s.coded := by simp [State.endEpoch, State.coded_foldl]

@[simp] theorem execPromotionBegin_coded (s : State) : outCoded (execPromotionBegin s) = some s.coded := by
  simp only [execPromotionBegin]
  split
  · rfl
  · split
    · rfl
    · split
      · rfl
      · split
        next => rfl
        next h => simp [State.allocFrames_coded _ _ _ _ h]

@[simp] theorem execPromotionCopyComplete_coded (s : State) : outCoded (execPromotionCopyComplete s) = some s.coded := by
  simp only [execPromotionCopyComplete]
  repeat' split
  all_goals simp [State.coded_foldl]

@[simp] theorem State.t2Damage_coded (s : State) (key : Nat) : (s.t2Damage key).coded = s.coded := by
  unfold State.t2Damage
  split <;> simp

/-! ### Update -/

@[simp] theorem State.arriveAt_coded (s : State) (g : Nat × Nat × Nat) : (s.arriveAt g).coded = s.coded := by rfl
@[simp] theorem State.outDone_coded (s : State) (g : Nat × Nat × Nat) : (s.outDone g).coded = s.coded := by rfl

@[simp] theorem State.putUpdWord_coded (s : State) (k : Nat) (l t kind i : Nat) (v : W32) (p : Bool) :
    (s.putUpdWord k l t kind i v p).coded = s.coded := by
  simp only [State.putUpdWord]
  repeat' split
  all_goals simp

@[simp] theorem State.emitEnds_coded (s : State) (k : Nat) (l : List WRec) : (s.emitEnds k l).coded = s.coded := by
  induction l generalizing s with
  | nil => simp [State.emitEnds]
  | cons r rest ih => simp [State.emitEnds, ih]

@[simp] theorem State.pumpEnds_coded (s : State) (k : Nat) : (s.pumpEnds k).coded = s.coded := by simp [State.pumpEnds]
@[simp] theorem State.sendEnd_coded (s : State) (k : Nat) (r : WRec) : (s.sendEnd k r).coded = s.coded := by simp [State.sendEnd]

@[simp] theorem State.noteSnap_coded (s : State) (k : Nat) : (s.noteSnap k).coded = s.coded :=
  State.coded_foldl (fun s _ => State.coded_foldl (fun s _ => State.coded_foldl (fun s _ => State.coded_foldl
    (fun s q => by split <;> simp) _ _) _ _) _ _) _ _

@[simp] theorem State.runSnap_coded (s : State) (k : Nat) (o : UpdOp) : (s.runSnap k o).coded = s.coded := by
  simp [State.runSnap, State.coded_foldl]

@[simp] theorem State.applyWords_coded (s : State) (k l t kind e0 : Nat) (base p : Bool) (data : List Byte) (n : Nat) :
    (s.applyWords k l t kind e0 base p data n).coded = s.coded := by simp [State.applyWords, State.coded_foldl]

theorem State.applyRec_carries (s : State) (k : Nat) (h data : List Byte) : Carries s.coded (s.applyRec k h data) := by
  simp only [State.applyRec]
  split
  · split
    · simp
    · split <;> simp
  · split
    · simp
    · split <;> simp
  all_goals simp

@[simp] theorem State.applyFrom_coded (s : State) (k tn va size pos fuel : Nat) :
    (s.applyFrom k tn va size pos fuel).1.coded = s.coded := by
  induction fuel generalizing s pos with
  | zero => rfl
  | succ fuel ih =>
    simp only [State.applyFrom]
    split
    · rfl
    · split
      · rfl
      · split
        · simp
        · split
          · simp
          · split
            · simp
            · split
              · simp
              · split
                next => simp
                next h => simp [ih, State.applyRec_carries _ _ _ _ _ h]

@[simp] theorem State.runApply_coded (s : State) (k : Nat) (o : UpdOp) : (s.runApply k o).coded = s.coded := by
  simp only [State.runApply, State.coded_ite, State.outDone_coded, State.stopJob_coded, State.updCtx_coded, ite_self]
  split <;> simp

@[simp] theorem State.runOps_coded (s : State) (k fuel : Nat) : (s.runOps k fuel).coded = s.coded := by
  induction fuel generalizing s with
  | zero => rfl
  | succ fuel ih =>
    simp only [State.runOps]
    split
    · rfl
    · simp [ih]

@[simp] theorem State.pumpOps_coded (s : State) (k : Nat) : (s.pumpOps k).coded = s.coded := by simp [State.pumpOps]

@[simp] theorem State.updTake_coded (s : State) (n k : Nat) (w : IWord) : (s.updTake n k w).coded = s.coded := by
  unfold State.updTake
  split <;> simp

@[simp] theorem State.stageEnd_coded (s : State) (k : Nat) (d : UpdDec) : (s.stageEnd k d).coded = s.coded := by
  simp [State.stageEnd, State.coded_foldl]

@[simp] theorem State.replayed_coded (s : State) (k : Nat) : (s.replayed k).coded = s.coded := by simp [State.replayed]

@[simp] theorem State.normStep_coded (s : State) (k : Nat) (qs : List (W32 × Bool)) : (s.normStep k qs).coded = s.coded := by
  simp [State.normStep, State.coded_foldl]

@[simp] theorem execGlobalNormComplete_coded (slot : Nat) (s : State) : outCoded (execGlobalNormComplete slot s) = some s.coded := by
  unfold execGlobalNormComplete
  split <;> simp

@[simp] theorem execUpdateStageEnd_coded (slot : Nat) (s : State) : outCoded (execUpdateStageEnd slot s) = some s.coded := by
  unfold execUpdateStageEnd
  split <;> simp

@[simp] theorem State.segAck_coded (s : State) (slot : Nat) : (s.segAck slot).coded = s.coded := by
  unfold State.segAck
  split <;> simp

@[simp] theorem State.sealWaits_coded (s : State) (k : Nat) : (s.sealWaits k).coded = s.coded := by
  simp [State.sealWaits, State.coded_foldl]

@[simp] theorem State.endAck_coded (s : State) (slot count digest : Nat) : (s.endAck slot count digest).coded = s.coded := by
  simp only [State.endAck]
  repeat' split
  all_goals simp [State.coded_foldl]

@[simp] theorem State.recordAcked_coded (s : State) (r : WRec) : (s.recordAcked r).coded = s.coded := by
  unfold State.recordAcked
  repeat' split
  all_goals simp

@[simp] theorem State.recordAck_coded (s : State) : s.recordAck.coded = s.coded := by
  simp only [State.recordAck]
  repeat' split
  all_goals simp [State.coded_foldl]

/-! ### Admit -/

theorem State.allocBands_coded (s : State) (d pages tn job : Nat) (use : Nat → FrameUse) {t : State}
    (h : s.allocBands d pages tn job use = some t) : t.coded = s.coded := by
  simp only [State.allocBands, Option.ite_none_right_eq_some, Option.some.injEq] at h
  obtain ⟨-, rfl⟩ := h
  simp [State.coded_foldl]

@[simp] theorem State.mapUse_coded (s : State) (tn va n : Nat) (ro : Bool) (o : Nat → Nat × Nat × FrameUse) :
    (s.mapUse tn va n ro o).coded = s.coded := by simp [State.mapUse]

theorem State.allocPart_carries (s : State) (job slot d : Nat) (t : TensorRec) : Carries s.coded (s.allocPart job slot d t) := by
  unfold State.allocPart
  dsimp only
  split
  next => exact carries_none _
  next u hu =>
    have hs : u.coded = s.coded := by
      split at hu
      · exact carries_map (fun a ha => by simp [State.coded_foldl, s.allocFrames_coded _ _ _ ha]) u hu
      · exact s.allocBands_coded _ _ _ _ _ hu
    split <;> simp [hs]

theorem State.allocSlot_carries (s : State) (k slot : Nat) : Carries s.coded (s.allocSlot k slot) := by
  unfold State.allocSlot
  refine carries_foldl ?_ _ (carries_foldl ?_ _ (by simp))
  · rintro (_ | u) t h
    · exact carries_none _
    · exact (carries_some _ u).1 h ▸ u.allocPart_carries _ _ _ t
  · rintro (_ | u) e h
    · exact carries_none _
    · dsimp only
      split
      · exact carries_none _
      · refine carries_foldl ?_ _ h
        rintro (_ | v) id hv
        · exact carries_none _
        · dsimp only
          split
          · exact (carries_some _ v).1 hv ▸ v.allocPart_carries _ _ _ _
          · exact carries_none _

@[simp] theorem State.freeSlot_coded (s : State) (k slot : Nat) : (s.freeSlot k slot).coded = s.coded := by simp [State.freeSlot]

theorem State.allocPlain_carries (s : State) (t : TensorRec) : Carries s.coded (s.allocPlain t) := by
  unfold State.allocPlain
  dsimp only
  split
  · exact carries_map (fun u hu => by simp [s.allocBands_coded _ _ _ _ _ hu])
  · exact carries_map (fun a ha => by simp [s.allocFrames_coded _ _ _ ha])

theorem State.allocRings_carries (s : State) (k : Nat) (dies : List Nat) : Carries s.coded (s.allocRings k dies) := by
  refine carries_foldl (fun a d h => carries_bind (fun u hu => ?_)) _ (by simp)
  split
  · exact (carries_some _ u).2 (h u hu)
  · exact fun v hv => (u.allocBands_coded _ _ _ _ _ hv).trans (h u hu)

theorem State.allocStep_carries (s : State) (k : Nat) : Carries s.coded (s.allocStep k) := by
  unfold State.allocStep
  dsimp only
  split
  · exact carries_none _
  · exact carries_map (fun a ha => by simp [s.allocFrames_coded _ _ _ ha])

theorem State.allocTable_carries (s : State) (k : Nat) : Carries s.coded (s.allocTable k) := by
  unfold State.allocTable
  dsimp only
  split
  · simp
  · exact carries_bind (fun d _ => carries_map (fun a ha => s.allocFrames_coded _ _ _ ha))

theorem State.allocJob_carries (s : State) (k : Nat) : Carries s.coded (s.allocJob k) := by
  unfold State.allocJob
  refine carries_map (fun u hu => ?_)
  rw [State.setStep_coded]
  revert u
  refine carries_bind (fun u hu => ?_)
  suffices h : u.coded = s.coded from h ▸ u.allocTable_carries k
  revert u
  refine carries_bind (fun u hu => ?_)
  suffices h : u.coded = s.coded from h ▸ u.allocStep_carries k
  revert u
  refine carries_bind (fun u hu => ?_)
  suffices h : u.coded = s.coded from h ▸ u.allocRings_carries k _
  revert u
  refine carries_foldl ?_ _ (carries_foldl ?_ _ (by simp))
  · rintro (_ | u) l h
    · exact carries_none _
    · exact (carries_some _ u).1 h ▸ u.allocSlot_carries _ _
  · rintro (_ | u) t h
    · exact carries_none _
    · exact (carries_some _ u).1 h ▸ u.allocPlain_carries t

theorem State.grantLayer_coded (s : State) (j : JobRec) (l : Nat) (t : TensorRec) {a : State × List Nat}
    (h : s.grantLayer j l t = some a) : a.1.coded = s.coded := by
  unfold State.grantLayer at h
  split at h
  · simp at h
  · exact s.allocFrames_coded _ _ _ h

@[simp] theorem State.stageLayer_coded (s : State) (j : JobRec) (l : Nat) (t : TensorRec) : (s.stageLayer j l t).coded = s.coded := by
  unfold State.stageLayer
  repeat' split
  all_goals simp

@[simp] theorem State.mapLayers_coded (s : State) (j : JobRec) (n : Nat) : (s.mapLayers j n).1.coded = s.coded := by
  refine State.coded_foldl_fst (fun a l => ?_) _ _
  split
  · split
    next h =>
      split at h
      · simp [State.grantLayer_coded _ _ _ _ h]
      · simp at h
    next => simp
  · rfl

@[simp] theorem State.mapWindows_coded (s : State) (j : JobRec) : (s.mapWindows j).coded = s.coded := by
  simp [State.mapWindows, State.coded_foldl]

@[simp] theorem State.fillJob_coded (s : State) (k : Nat) : (s.fillJob k).coded = s.coded := by simp [State.fillJob]
@[simp] theorem State.filled_coded (s : State) (k : Nat) : (s.filled k).coded = s.coded := by simp [State.filled]

@[simp] theorem execZeroFillComplete_coded (s : State) : outCoded (execZeroFillComplete s) = some s.coded := by
  simp [execZeroFillComplete, State.coded_foldl]

/-! ### LinkOps -/

@[simp] theorem State.setPort_coded (s : State) (p : Nat) (q : Port) : (s.setPort p q).coded = s.coded := by rfl
@[simp] theorem State.updPort_coded (s : State) (p : Nat) (f : Port → Port) : (s.updPort p f).coded = s.coded := by rfl
@[simp] theorem State.sendFlit_coded (s : State) (p : Nat) (e : Egress) : (s.sendFlit p e).coded = s.coded := by rfl

@[simp] theorem State.pump_coded (s : State) (p fuel : Nat) : (s.pump p fuel).coded = s.coded := by
  induction fuel generalizing s with
  | zero => rfl
  | succ fuel ih =>
    simp only [State.pump]
    split
    · rfl
    · split <;> simp [ih]

@[simp] theorem State.pumpAll_coded (s : State) : s.pumpAll.coded = s.coded := by simp [State.pumpAll, State.coded_foldl]

@[simp] theorem State.enqueue_coded (s : State) (p : Nat) (m : LMsg) (from_ : Option (Nat × Nat)) :
    (s.enqueue p m from_).coded = s.coded := by simp [State.enqueue]

theorem State.tryPost_carries (s : State) (m : LMsg) (from_ : Option (Nat × Nat)) : Carries s.coded (s.tryPost m from_) := by
  unfold State.tryPost
  split <;> simp

@[simp] theorem State.post_coded (s : State) (m : LMsg) (from_ : Option (Nat × Nat)) : (s.post m from_).coded = s.coded :=
  (s.tryPost_carries m from_).getD

@[simp] theorem State.member_coded (s : State) (sub frag frags : Nat) (about : W32) (node count dst : Nat) (data : List Byte) :
    (s.member sub frag frags about node count dst data).coded = s.coded := by simp [State.member]

@[simp] theorem State.fenceTo_coded (s : State) (dst : Nat) (epoch : W32) (leader : Nat) :
    (s.fenceTo dst epoch leader).coded = s.coded := by simp [State.fenceTo]

@[simp] theorem State.logPort_coded (s : State) (p : Nat) : (s.logPort p).coded = s.coded := by simp [State.logPort]

@[simp] theorem State.logFrame_coded (s : State) (p : Nat) (m : LMsg) (check : Nat) : (s.logFrame p m check).coded = s.coded := by
  simp [State.logFrame]

@[simp] theorem State.postOut_coded (s : State) (kind cls : Nat) (poison : Bool) (key dst tenant slot : Nat) (spec data : List Byte)
    (use : OutUse) :
    (s.postOut kind cls poison key dst tenant slot spec data use).coded = s.coded := by simp [State.postOut]

@[simp] theorem State.answer_coded (s : State) (kind : Nat) (m : LMsg) (tag status : Nat) (poison : Bool) (data : List Byte) :
    (s.answer kind m tag status poison data).coded = s.coded := by simp [State.answer]

@[simp] theorem State.rateCheck_coded (s : State) (p : Nat) (m : LMsg) : (s.rateCheck p m).1.coded = s.coded := by
  simp only [State.rateCheck]
  repeat' split
  all_goals simp

@[simp] theorem State.receive_coded (s : State) (p : Nat) (m : LMsg) : (s.receive p m).coded = s.coded := by simp [State.receive]
@[simp] theorem State.arrived_coded (s : State) (p vc : Nat) (m : LMsg) : (s.arrived p vc m).coded = s.coded := by simp [State.arrived]
@[simp] theorem State.popInbox_coded (s : State) (p : Nat) : (s.popInbox p).coded = s.coded := by rfl

@[simp] theorem State.takeMsg_coded (s : State) (p kind sub : Nat) {f : State → LMsg → State} (hf : ∀ s m, (f s m).coded = s.coded) :
    outCoded (s.takeMsg p kind sub f) = some s.coded := by
  unfold State.takeMsg
  split <;> simp [hf]

/-! ### CollOps -/

@[simp] theorem State.putInst_coded (s : State) (i : CollInst) : (s.putInst i).coded = s.coded := by rfl

@[simp] theorem State.virtPut_coded (s : State) (tn va : Nat) (bs : List Byte) (p : Bool) : (s.virtPut tn va bs p).coded = s.coded := by
  simp [State.virtPut]

@[simp] theorem State.partPut_coded (s : State) (k slot off : Nat) (t : TensorRec) (bs : List Byte) (p : Bool) :
    (s.partPut k slot off t bs p).coded = s.coded := by
  simp only [State.partPut]
  split <;> simp

@[simp] theorem State.noteAnswer_coded (s : State) (i : CollInst) (e : CollEntry) (q : SegKey) (off n : Nat) :
    (s.noteAnswer i e q off n).coded = s.coded := by
  simp only [State.noteAnswer]
  repeat' split
  all_goals simp

@[simp] theorem State.place_coded (s : State) (i : CollInst) (e : CollEntry) (q : SegKey) (off : Nat) (bs : List Byte) (p : Bool) :
    (s.place i e q off bs p).1.coded = s.coded := by
  simp only [State.place]
  repeat' split
  all_goals simp [State.coded_foldl]

@[simp] theorem State.ackSeg_coded (s : State) (m : LMsg) (status : Nat) : (s.ackSeg m status).coded = s.coded := by simp [State.ackSeg]
@[simp] theorem State.countTx_coded (s : State) (n : Nat) : (s.countTx n).coded = s.coded := by rfl
@[simp] theorem State.countRx_coded (s : State) : s.countRx.coded = s.coded := by rfl

@[simp] theorem State.sendReq_coded (s : State) (k coll : Nat) (step : W32) (cls : Nat) (comp : Bool) (q : SegKey) (seg node : Nat) :
    (s.sendReq k coll step cls comp q seg node).coded = s.coded := by simp [State.sendReq]

@[simp] theorem State.sendSeg_coded (s : State) (i : CollInst) (e : CollEntry) (q : SegKey) (node seg cls : Nat) :
    (s.sendSeg i e q node seg cls).coded = s.coded := by simp [State.sendSeg]

@[simp] theorem State.updCz_coded (s : State) (d : Nat) (f : CzDie → CzDie) : (s.updCz d f).coded = s.coded := by rfl

@[simp] theorem State.nameLeaf_coded (s : State) (k : Nat) (f : Leaf) : (s.nameLeaf k f).coded = s.coded := by
  unfold State.nameLeaf
  rw [State.coded_foldl (fun s w => by split <;> simp)]
  simp

@[simp] theorem State.startCz_coded (s : State) (n c inst coll : Nat) (step : W32) (d : Entry) :
    (s.startCz n c inst coll step d).coded = s.coded := by simp [State.startCz]

@[simp] theorem State.giveAnswer_coded (s : State) (i : CollInst) (e : CollEntry) (h : HeldReq) :
    (s.giveAnswer i e h).coded = s.coded := by simp [State.giveAnswer, State.coded_foldl]

@[simp] theorem State.giveNorm_coded (s : State) (h : HeldReq) (q : W32 × Bool) : (s.giveNorm h q).coded = s.coded := by
  simp [State.giveNorm]

theorem State.serve_carries (s : State) (h : HeldReq) : Carries s.coded (s.serve h) := by
  unfold State.serve
  split
  · split
    · split
      · simp
      · split <;> simp
    · simp
  · split
    · split <;> simp
    · simp

@[simp] theorem State.serveHeld_coded (s : State) : s.serveHeld.coded = s.coded := by
  refine State.coded_foldl (fun s h => ?_) _ _
  split
  next u hu => simpa using s.serve_carries h u hu
  next => rfl

@[simp] theorem State.holdReq_coded (s : State) (m : LMsg) : (s.holdReq m).coded = s.coded := by simp [State.holdReq]
@[simp] theorem State.admitReqs_coded (s : State) : s.admitReqs.coded = s.coded := by simp [State.admitReqs, State.coded_foldl]

@[simp] theorem State.pumpReqs_coded (s : State) (n : Nat) : (s.pumpReqs n).coded = s.coded := by
  induction n generalizing s with
  | zero => rfl
  | succ n ih => simp [State.pumpReqs, ih]

@[simp] theorem State.askFor_coded (s : State) (i : CollInst) (e : CollEntry) (ws : List (SegKey × Nat)) :
    (s.askFor i e ws).coded = s.coded := by simp [State.askFor, State.coded_foldl]

@[simp] theorem State.supply_coded (s : State) (i : CollInst) (e : CollEntry) (q : SegKey) : (s.supply i e q).1.coded = s.coded := by
  simp [State.supply]

@[simp] theorem State.supplyOwn_coded (s : State) (i : CollInst) (e : CollEntry) (l : Nat) :
    (s.supplyOwn i e l).1.coded = s.coded := by
  unfold State.supplyOwn
  split
  · split
    · rfl
    · exact State.coded_foldl_fst (fun a x => State.coded_foldl_fst (fun a st => by split <;> simp) _ _) _ _
  · exact State.coded_foldl_fst (fun a d => by simp) _ _
  · split
    · split <;> simp
    · simp
  · rfl

@[simp] theorem State.beginIssue_coded (s : State) (k : Nat) (step : W32) (e : CollEntry) (x : CollIssue) :
    (s.beginIssue k step e x).coded = s.coded := by
  simp only [State.beginIssue, State.pumpReqs_coded, State.askFor_coded]
  split
  · split <;> simp
  · split
    · rw [State.coded_foldl_fst (fun a y => by simp)]
      split <;> simp
    · rw [State.supplyOwn_coded]
      split <;> simp

@[simp] theorem State.collTake_coded (s : State) (n c : Nat) (w : IWord) : (s.collTake n c w).coded = s.coded := by
  simp only [State.collTake]
  repeat' split
  all_goals simp

/-! ### Coll -/

@[simp] theorem State.writeVec_coded (s : State) (i : CollInst) (e : CollEntry) (x : CollIssue) :
    (s.writeVec i e x).1.coded = s.coded := by simp [State.writeVec, State.coded_foldl]

@[simp] theorem State.poisonVec_coded (s : State) (i : CollInst) (e : CollEntry) (x : CollIssue) :
    (s.poisonVec i e x).1.coded = s.coded := by simp [State.poisonVec]

@[simp] theorem State.endIssue_coded (s : State) (i : CollInst) (e : CollEntry) (x : CollIssue) : (s.endIssue i e x).coded = s.coded := by
  unfold State.endIssue
  repeat' split
  all_goals simp

@[simp] theorem execCollectiveComplete_coded (id : Nat) (s : State) : outCoded (execCollectiveComplete id s) = some s.coded := by
  unfold execCollectiveComplete
  repeat' split
  all_goals simp

@[simp] theorem State.mapSlotCtxs_coded (s : State) (k : Nat) (sel : Nat → Bool) (f : Ctx → Ctx) :
    (s.mapSlotCtxs k sel f).coded = s.coded := by rfl

@[simp] theorem State.beginSlots_coded (s : State) (k : Nat) (sel : Nat → Bool) (step : W32) :
    (s.beginSlots k sel step).coded = s.coded := by rfl

@[simp] theorem State.renameSlot_coded (s : State) (k from_ dest : Nat) : (s.renameSlot k from_ dest).coded = s.coded := by rfl

@[simp] theorem State.mapSlot_coded (s : State) (k slot : Nat) : (s.mapSlot k slot).coded = s.coded :=
  State.coded_foldl (fun s t => by split <;> simp) _ _

@[simp] theorem State.installMap_coded (s : State) (k : Nat) (step : W32) (m : List (Nat × Nat)) :
    (s.installMap k step m).coded = s.coded := by
  have rings : ∀ u : State, ((u.allocRings k (u.updDies k)).getD u).coded = u.coded := fun u => (u.allocRings_carries k _).getD
  simp [State.installMap, State.coded_foldl, rings]

@[simp] theorem State.refuseMap_coded (s : State) (k : Nat) : (s.refuseMap k).coded = s.coded := by simp [State.refuseMap]

@[simp] theorem State.beginMove_coded (s : State) (i : CollInst) (e : CollEntry) (m : List (Nat × Nat)) :
    (s.beginMove i e m).coded = s.coded := by
  simp only [State.beginMove]
  split
  next => simp
  next u hu =>
    have hs : u.coded = s.coded := by
      revert u
      refine carries_bind (fun u hu => ?_)
      suffices h : u.coded = s.coded from h ▸ u.allocRings_carries _ _
      revert u
      refine carries_foldl (fun a w h => carries_bind (fun u hu => ?_)) _ (by simp)
      exact h u hu ▸ u.allocSlot_carries _ _
    simp [hs]

@[simp] theorem State.pumpMove_coded (s : State) (i : CollInst) (e : CollEntry) : (s.pumpMove i e).coded = s.coded := by
  simp only [State.pumpMove]
  repeat' split
  all_goals simp

@[simp] theorem State.collPump_coded (s : State) : s.collPump.coded = s.coded := by
  unfold State.collPump
  rw [State.coded_foldl (fun s i => by
    split
    · split <;> simp
    · rfl)]
  simp

@[simp] theorem State.takeReq_coded (s : State) (k : Nat) (m : LMsg) : (s.takeReq k m).coded = s.coded := by simp [State.takeReq]

@[simp] theorem State.poisonRest_coded (s : State) (i : CollInst) (e : CollEntry) (q : SegKey) :
    (s.poisonRest i e q).1.coded = s.coded :=
  State.coded_foldl_fst (fun a g => by split <;> simp) _ _

@[simp] theorem State.dropSeg_coded (s : State) (k : Nat) (m : LMsg) : (s.dropSeg k m).coded = s.coded := by
  simp only [State.dropSeg]
  repeat' split
  all_goals simp

@[simp] theorem State.putSeg_coded (s : State) (i : CollInst) (e : CollEntry) (q : SegKey) (bs : List Byte)
    (copy : List (Nat × Option (List Byte))) (p : Bool) : (s.putSeg i e q bs copy p).1.coded = s.coded := by
  unfold State.putSeg
  dsimp only
  split
  · simp
  · exact State.coded_foldl_fst (fun a b => by simp) _ _

@[simp] theorem State.takeSeg_coded (s : State) (port k : Nat) (m : LMsg) : (s.takeSeg port k m).coded = s.coded := by
  unfold State.takeSeg
  repeat' split
  all_goals simp

@[simp] theorem State.segLost_coded (s : State) (k coll : Nat) (step : W32) (q : SegKey) : (s.segLost k coll step q).coded = s.coded := by
  unfold State.segLost
  split <;> simp

@[simp] theorem State.czBlock_coded (s : State) (r : CzRun) (b : Nat) : (s.czBlock r b).1.coded = s.coded := by
  simp only [State.czBlock, State.updUpd_coded]
  rw [State.coded_foldl (fun s i => by split <;> simp)]
  simp [State.coded_foldl]

@[simp] theorem State.rseg_coded (s : State) (r : CzRun) (b0 b1 : Nat) : (s.rseg r b0 b1).coded = s.coded := by simp [State.rseg]

@[simp] theorem State.groupDone_coded (s : State) (r : CzRun) (g : Nat) (p : Bool) : (s.groupDone r g p).1.coded = s.coded := by
  simp only [State.groupDone]
  repeat' split
  all_goals simp

@[simp] theorem State.czDone_coded (s : State) (r : CzRun) : (s.czDone r).coded = s.coded := by
  simp only [State.czDone]
  split <;> simp

@[simp] theorem State.compressStep_coded (s : State) (die ctl : Nat) (r : CzRun) : (s.compressStep die ctl r).coded = s.coded := by
  simp only [State.compressStep]
  split <;> simp

@[simp] theorem execCompressBlock_coded (die ctl : Nat) (s : State) : outCoded (execCompressBlock die ctl s) = some s.coded := by
  unfold execCompressBlock
  split <;> simp

@[simp] theorem State.writeRange_coded (s : State) (i : CollInst) (e : CollEntry) (o : OwnSum) (dst q : Nat) (bad : Bool) :
    (s.writeRange i e o dst q bad).coded = s.coded := by simp [State.writeRange, State.coded_foldl]

@[simp] theorem State.abandon_coded (s : State) (k : Nat) : (s.abandon k).coded = s.coded := by
  simp only [State.abandon, State.coded_mk, State.coded_eta, State.dropMove_coded]
  refine State.coded_foldl (fun s i => ?_) _ _
  split
  · rw [State.coded_foldl (fun s x => by split <;> simp)]
    simp only [State.putInst_coded, State.coded_mk, State.coded_eta, State.logAs_coded]
    rw [State.coded_foldl (fun s u => by split <;> simp [State.coded_foldl])]
    simp [State.coded_foldl_fst]
  · rfl

@[simp] theorem State.expandStep_coded (s : State) (die : Nat) (i : CollInst) (e : CollEntry) (o : OwnSum) (dst q : Nat)
    (a : Nat × Nat × Nat × Nat) :
    (s.expandStep die i e o dst q a).coded = s.coded := by simp [State.expandStep]

@[simp] theorem execExpandBlock_coded (die ctl : Nat) (s : State) : outCoded (execExpandBlock die ctl s) = some s.coded := by
  unfold execExpandBlock
  split <;> simp

@[simp] theorem State.askNorm_coded (s : State) (k : Nat) : (s.askNorm k).coded = s.coded := by simp [State.askNorm, State.coded_foldl]

/-! ### HostOps -/

@[simp] theorem State.queueError_coded (s : State) (tn q : Nat) : (s.queueError tn q).coded = s.coded := by simp [State.queueError]
@[simp] theorem State.dropRegion_coded (s : State) (tn r : Nat) : (s.dropRegion tn r).coded = s.coded := by simp [State.dropRegion]

@[simp] theorem State.logOutside_coded (s : State) (off port : Nat) (write : Bool) : (s.logOutside off port write).coded = s.coded := by
  simp [State.logOutside]

@[simp] theorem State.logRefused_coded (s : State) (tn job part code : Nat) : (s.logRefused tn job part code).coded = s.coded := by
  simp [State.logRefused]

@[simp] theorem State.refuse_coded (s : State) (tn : Nat) (e : Entry) (part code : Nat) : (s.refuse tn e part code).coded = s.coded := by
  simp [State.refuse]

@[simp] theorem State.hearBeats_coded (s : State) (told : List (Nat × Nat)) : (s.hearBeats told).coded = s.coded := by rfl

@[simp] theorem State.jobStart_coded (s : State) (tn : Nat) (e : Entry) : (s.jobStart tn e).coded = s.coded := by
  simp only [State.jobStart]
  split
  · simp
  · split
    · simp
    · split
      · simp
      · split
        · simp
        · split
          · simp
          · split
            next h => simp [State.allocJob_carries _ _ _ h]
            next => simp

@[simp] theorem State.jobStop_coded (s : State) (tn : Nat) (e : Entry) : (s.jobStop tn e).coded = s.coded := by
  simp only [State.jobStop]
  repeat' split
  all_goals simp

@[simp] theorem State.fenceCmd_coded (s : State) (tn : Nat) (e : Entry) : (s.fenceCmd tn e).coded = s.coded := by simp [State.fenceCmd]

@[simp] theorem State.submitList_coded (s : State) (tn : Nat) (e : Entry) (data : List Byte) (poison : Bool) :
    (s.submitList tn e data poison).coded = s.coded := by simp [State.submitList]

@[simp] theorem State.reshardMap_coded (s : State) (tn : Nat) (e : Entry) (data : List Byte) (poison : Bool) :
    (s.reshardMap tn e data poison).coded = s.coded := by
  unfold State.reshardMap
  split <;> simp

@[simp] theorem State.fromRegion_coded (s : State) (tn : Nat) (e : Entry) (r off len : Nat) (use : DmaUse)
    {f : State → List Byte → Bool → State} (hf : ∀ s b p, (f s b p).coded = s.coded) :
    (s.fromRegion tn e r off len use f).coded = s.coded := by
  simp [State.fromRegion, hf]

@[simp] theorem State.tbSubmit_coded (s : State) (tn : Nat) (e : Entry) : (s.tbSubmit tn e).coded = s.coded := by simp [State.tbSubmit]

@[simp] theorem State.reshard_coded (s : State) (tn : Nat) (e : Entry) : (s.reshard tn e).coded = s.coded := by
  simp only [State.reshard]
  repeat' split
  all_goals simp

@[simp] theorem State.runCommand_coded (s : State) (tn : Nat) (e : Entry) : (s.runCommand tn e).coded = s.coded := by
  unfold State.runCommand
  split <;> simp

@[simp] theorem State.acceptCommand_coded (s : State) (tn : Nat) (e : Entry) : (s.acceptCommand tn e).coded = s.coded := by
  simp [State.acceptCommand]

@[simp] theorem State.commandRow_coded (s : State) (tn : Nat) (e : Entry) (op : Nat) :
    outCoded (s.commandRow tn e op) = some s.coded := by simp [State.commandRow]

@[simp] theorem State.takeHeld_coded (s : State) (fuel : Nat) : (s.takeHeld fuel).coded = s.coded := by
  induction fuel generalizing s with
  | zero => rfl
  | succ fuel ih =>
    unfold State.takeHeld
    split
    · rfl
    · split <;> simp [ih]

@[simp] theorem State.dmaDone_coded (s : State) (r : DmaRead) (data : List Byte) (poison lost : Bool) :
    (s.dmaDone r data poison lost).coded = s.coded := by
  unfold State.dmaDone
  split <;> simp

@[simp] theorem State.logAttach_coded (s : State) (port cause sev : Nat) : (s.logAttach port cause sev).coded = s.coded := by
  simp [State.logAttach]

/-! ### PeaOps -/

@[simp] theorem State.peAccept_coded (s : State) (n k : Nat) (w : IWord) : (s.peAccept n k w).coded = s.coded := by simp [State.peAccept]

@[simp] theorem State.peaDiscard_coded (s : State) (n : Nat) (m : PeaMsg) : (s.peaDiscard n m).coded = s.coded := by
  simp [State.peaDiscard]

@[simp] theorem State.peaLand_coded (s : State) (n : Nat) (m : PeaMsg) : (s.peaLand n m).coded = s.coded := by
  simp only [State.peaLand]
  repeat' split
  all_goals simp

@[simp] theorem execPeaArrival_coded (core target : Nat) (s : State) : outCoded (execPeaArrival core target s) = some s.coded := by
  unfold execPeaArrival
  split <;> simp

/-! ### OutboundOps -/

@[simp] theorem State.hqPostTake_coded (s : State) (n k : Nat) (w : IWord) : (s.hqPostTake n k w).coded = s.coded := by
  simp [State.hqPostTake]

@[simp] theorem State.hqTakeTake_coded (s : State) (n k : Nat) (w : IWord) (ring : Entry) :
    (s.hqTakeTake n k w ring).coded = s.coded := by simp [State.hqTakeTake]

@[simp] theorem State.obAccept_coded (s : State) (n k : Nat) (w : IWord) (ring : Option Entry) :
    (s.obAccept n k w ring).coded = s.coded := by
  unfold State.obAccept
  split <;> simp

@[simp] theorem State.peaSend_coded (s : State) (n : Nat) (m : PeaMsg) : (s.peaSend n m).coded = s.coded := by
  simp only [State.peaSend]
  split <;> simp

@[simp] theorem State.peTake_coded (s : State) (n k : Nat) (w : IWord) : (s.peTake n k w).coded = s.coded := by
  simp only [State.peTake]
  split <;> simp

/-! ### Host -/

@[simp] theorem State.serveQueue_coded (s : State) (tn q : Nat) : (s.serveQueue tn q).coded = s.coded := by
  simp [State.serveQueue, State.coded_foldl]

@[simp] theorem State.bellQueue_coded (s : State) (tn q : Nat) (v : W32) : (s.bellQueue tn q v).coded = s.coded := by
  simp [State.bellQueue]

@[simp] theorem execDoorbell_coded (tenant : Nat) (line : Entry) (s : State) : outCoded (execDoorbell tenant line s) = some s.coded := by
  simp [execDoorbell, State.coded_foldl]

@[simp] theorem State.placeBytes_coded (s : State) (x : Nat × Nat × Region) (off : Nat) (data : List Byte) :
    (s.placeBytes x off data).coded = s.coded := by simp [State.placeBytes]

@[simp] theorem execPlacementWrite_coded (requester off : Nat) (data : List Byte) (s : State) :
    outCoded (execPlacementWrite requester off data s) = some s.coded := by
  unfold execPlacementWrite
  split <;> simp

@[simp] theorem execPlacementNotify_coded (requester off : Nat) (data : List Byte) (s : State) :
    outCoded (execPlacementNotify requester off data s) = some s.coded := by
  unfold execPlacementNotify
  split <;> simp

@[simp] theorem execCxlMemAccess_coded (port off : Nat) (data : Option Entry) (poison : Bool) (s : State) :
    outCoded (execCxlMemAccess port off data poison s) = some s.coded := by
  simp only [execCxlMemAccess]
  repeat' split
  all_goals simp

@[simp] theorem State.strayDma_coded (s : State) : s.strayDma.coded = s.coded := by simp [State.strayDma]

/-! ### PortOps -/

@[simp] theorem State.expire_coded (s : State) (row t d : Nat) : (s.expire row t d).coded = s.coded := by simp [State.expire]

@[simp] theorem State.outLost_coded (s : State) (o : OutMsg) : (s.outLost o).coded = s.coded := by
  simp only [State.outLost]
  repeat' split
  all_goals simp

@[simp] theorem State.msgLost_coded (s : State) (m : LMsg) : (s.msgLost m).coded = s.coded := by
  unfold State.msgLost
  split <;> simp

@[simp] theorem State.trunkLost_coded (s : State) (p : Nat) : (s.trunkLost p).coded = s.coded := by
  simp [State.trunkLost, State.coded_foldl]

@[simp] theorem State.portDown_coded (s : State) (p reason : Nat) : (s.portDown p reason).coded = s.coded := by
  simp only [State.portDown]
  repeat' split
  all_goals simp

@[simp] theorem State.resend_coded (s : State) (p down seq : Nat) : (s.resend p down seq).coded = s.coded := by
  unfold State.resend
  split <;> simp

@[simp] theorem State.fastRetrain_coded (s : State) (p : Nat) (lane : Option Nat) : (s.fastRetrain p lane).coded = s.coded := by
  unfold State.fastRetrain
  split <;> simp

@[simp] theorem State.replay_coded (s : State) (p : Nat) : (s.replay p).coded = s.coded := by
  simp only [State.replay]
  split <;> simp

@[simp] theorem State.beginTraining_coded (s : State) (p : Nat) : (s.beginTraining p).coded = s.coded := by simp [State.beginTraining]
@[simp] theorem State.trainFail_coded (s : State) (p reason : Nat) : (s.trainFail p reason).coded = s.coded := by simp [State.trainFail]

@[simp] theorem State.trainDown_coded (s : State) (p reason : Nat) (again : Bool) : (s.trainDown p reason again).coded = s.coded := by
  simp [State.trainDown]

@[simp] theorem State.linkUp_coded (s : State) (p : Nat) : (s.linkUp p).coded = s.coded := by simp [State.linkUp, State.coded_foldl]

@[simp] theorem State.trainStep_coded (s : State) (p : Nat) (ev : TrainEv) : (s.trainStep p ev).coded = s.coded := by
  unfold State.trainStep
  dsimp only
  split
  · simp
  · split <;> simp
  · simp
  · simp
  · simp 
  · simp
  all_goals simp

@[simp] theorem State.retrainStep_coded (s : State) (p : Nat) (ev : TrainEv) : (s.retrainStep p ev).coded = s.coded := by
  simp only [State.retrainStep]
  repeat' split
  all_goals simp

@[simp] theorem State.stepExpired_coded (s : State) (p : Nat) : (s.stepExpired p).coded = s.coded := by simp [State.stepExpired]

@[simp] theorem execPortTraining_coded (port : Nat) (ev : TrainEv) (s : State) :
    outCoded (execPortTraining port ev s) = some s.coded := by
  simp only [execPortTraining]
  repeat' split
  all_goals simp

@[simp] theorem execTrainingRetry_coded (port : Nat) (s : State) : outCoded (execTrainingRetry port s) = some s.coded := by
  unfold execTrainingRetry
  split <;> simp

@[simp] theorem execFastRetrainTimeout_coded (port : Nat) (s : State) : outCoded (execFastRetrainTimeout port s) = some s.coded := by
  unfold execFastRetrainTimeout
  split <;> simp

@[simp] theorem State.asmOf_coded (s : State) (p vc : Nat) : (s.asmOf p vc).1.coded = s.coded := by
  unfold State.asmOf
  repeat' split
  all_goals simp

@[simp] theorem State.takeFlit_coded (s : State) (p : Nat) (h : Nat) (bytes : List Byte) : (s.takeFlit p h bytes).coded = s.coded := by
  unfold State.takeFlit
  split <;> simp

@[simp] theorem State.flitChecks_coded (s : State) (p : Nat) (fixed : Option Nat) (bytes : List Byte) :
    (s.flitChecks p fixed bytes).1.coded = s.coded := by
  unfold State.flitChecks
  repeat' split
  all_goals simp

/-! ### PeaLink -/

@[simp] theorem State.peaRefuse_coded (s : State) (p : Nat) (m : LMsg) (check : Nat) : (s.peaRefuse p m check).coded = s.coded := by
  simp [State.peaRefuse]

@[simp] theorem execPut_coded (f : PeaAt) (s : State) : outCoded (execPut f s) = some s.coded :=
  s.takeMsg_coded _ _ _ (fun s m => by split <;> simp)

@[simp] theorem execGet_coded (f : PeaAt) (s : State) : outCoded (execGet f s) = some s.coded :=
  s.takeMsg_coded _ _ _ (fun s m => by split <;> simp)

@[simp] theorem execAtomic_coded (f : PeaAt) (s : State) : outCoded (execAtomic f s) = some s.coded :=
  s.takeMsg_coded _ _ _ (fun s m => by split <;> simp)

@[simp] theorem State.peaSettled_coded (s : State) (o : OutMsg) (n : Nat) (pm : PeaMsg) :
    (s.peaSettled o n pm).1.coded = s.coded := by rfl

@[simp] theorem execGetResp_coded (port : Nat) (s : State) : outCoded (execGetResp port s) = some s.coded :=
  s.takeMsg_coded _ _ _ (fun s m => by
    split
    · split <;> simp
    · simp)

@[simp] theorem execAck_coded (port : Nat) (s : State) : outCoded (execAck port s) = some s.coded :=
  s.takeMsg_coded _ _ _ (fun s m => by
    split
    · simp
    · split <;> simp)

/-! ### WatchOps -/

@[simp] theorem execWatchSessionRecord_coded (node : Nat) (m : WatchMsg) (s : State) :
    outCoded (execWatchSessionRecord node m s) = some s.coded := by
  unfold execWatchSessionRecord
  repeat' split
  all_goals simp

@[simp] theorem State.putResid_coded (s : State) (k l id e0 : Nat) (xor p : Bool) (data : List Byte) :
    (s.putResid k l id e0 xor p data).coded = s.coded := by rfl

@[simp] theorem State.putGrad_coded (s : State) (k : Nat) (r : WRec) : (s.putGrad k r).coded = s.coded :=
  State.coded_foldl (fun s i => by dsimp only; split <;> simp) _ _

@[simp] theorem State.applySealed_coded (s : State) (k : Nat) (r : WRec) : (s.applySealed k r).coded = s.coded := by
  unfold State.applySealed
  split
  iterate 3 exact (s.applyRec_carries k _ _).getD
  all_goals simp

theorem State.runEscrow_carries (s : State) (k : Nat) (l : List WRec) : Carries s.coded (s.runEscrow k l) := by
  simp only [State.runEscrow]
  split
  · simp
  · split <;> simp [State.coded_foldl]

@[simp] theorem State.runEscrows_coded (s : State) (k : Nat) (l : List WRec) (fuel : Nat) :
    (s.runEscrows k l fuel).coded = s.coded := by
  induction fuel generalizing s with
  | zero => rfl
  | succ fuel ih =>
    unfold State.runEscrows
    split
    next u hu => rw [ih, s.runEscrow_carries k l u hu]
    next => rfl

@[simp] theorem State.applyWrites_coded (s : State) (k : Nat) (l : List WRec) : (s.applyWrites k l).coded = s.coded :=
  State.coded_foldl (fun s r => by
    split
    · split <;> simp
    · rfl) _ _

@[simp] theorem State.applyQueues_coded (s : State) (l : List WRec) : (s.applyQueues l).coded = s.coded := by
  simp [State.applyQueues, State.coded_foldl]

@[simp] theorem State.logTakeover_coded (s : State) (x w k : Nat) (r : W32) : (s.logTakeover x w k r).coded = s.coded := by
  simp [State.logTakeover]

@[simp] theorem State.takeFlight_coded (s : State) (k : Nat) (l : List WRec) (r : W32) : (s.takeFlight k l r).coded = s.coded := by
  simp [State.takeFlight, State.coded_foldl]

theorem State.takeJob_carries (s : State) (x : Nat) (j : JobRec) (m : List (Nat × Nat)) : Carries s.coded (s.takeJob x j m) := by
  simp only [State.takeJob]
  split
  next => simp
  next u hu =>
    have hs : u.coded = s.coded := by
      split at hu
      next => simpa [apply_ite State.coded] using State.allocJob_carries _ _ _ hu
      next => simp at hu
    simp [State.coded_foldl, hs]

/-! ### MemberOps -/

@[simp] theorem State.updGl_coded (s : State) {f : GlSt → GlSt} (hf : ∀ g, (f g).verMax = g.verMax) : (s.updGl f).coded = s.coded := by
  simp [State.updGl, hf]

@[simp] theorem State.sendCount_coded (s : State) (kind : Nat) (about : W32) (count dst : Nat) :
    (s.sendCount kind about count dst).coded = s.coded := by
  unfold State.sendCount
  split <;> simp

@[simp] theorem State.beaconDown_coded (s : State) : s.beaconDown.coded = s.coded := by simp [State.beaconDown, State.coded_foldl]

@[simp] theorem State.ackUp_coded (s : State) : s.ackUp.coded = s.coded := by
  simp only [State.ackUp]
  split <;> simp

@[simp] theorem State.counted_coded (s : State) : s.counted.coded = s.coded := by simp [State.counted]

@[simp] theorem State.takeCount_coded (s : State) (child : Nat) (epoch : W32) (n : Nat) :
    (s.takeCount child epoch n).coded = s.coded := by simp [State.takeCount]

@[simp] theorem State.isolate_coded (s : State) : s.isolate.coded = s.coded := by simp [State.isolate, State.coded_foldl]
@[simp] theorem State.endIsolation_coded (s : State) : s.endIsolation.coded = s.coded := by simp [State.endIsolation, State.coded_foldl]

@[simp] theorem State.fenced_coded (s : State) (epoch : W32) (leader : Nat) : (s.fenced epoch leader).coded = s.coded := by
  simp [State.fenced, State.coded_foldl]

@[simp] theorem State.sendView_coded (s : State) (pr : Proposal) (dst : Nat) : (s.sendView pr dst).coded = s.coded := by
  simp [State.sendView, State.coded_foldl]

@[simp] theorem State.viewDown_coded (s : State) (pr : Proposal) : (s.viewDown pr).coded = s.coded := by
  simp [State.viewDown, State.coded_foldl]

@[simp] theorem State.propose_coded (s : State) (v : List Nat) : (s.propose v).coded = s.coded := by simp [State.propose]

@[simp] theorem State.resendNorm_coded (s : State) (k : Nat) (maps : List (List (Nat × Nat))) (x w : Nat) :
    (s.resendNorm k maps x w).coded = s.coded := by simp [State.resendNorm, State.coded_foldl]

@[simp] theorem State.survive_coded (s : State) (k x : Nat) (w : Option Nat) : (s.survive k x w).coded = s.coded := by
  unfold State.survive
  split <;> simp

@[simp] theorem State.remapImage_coded (s : State) (x w : Nat) : (s.remapImage x w).coded = s.coded := by rfl

@[simp] theorem State.activate467_coded (s : State) (x : Nat) : (s.activate467 x).coded = s.coded := by
  unfold State.activate467
  split
  · rfl
  · simp only [State.coded_mk, State.coded_eta]
    rw [State.coded_foldl (fun s q => ?_)]
    · simp
    · split
      next h => simpa using s.takeJob_carries _ _ _ _ h
      next => split <;> simp

@[simp] theorem State.dropWatcher_coded (s : State) (w : Nat) : (s.dropWatcher w).coded = s.coded := by
  simp [State.dropWatcher, State.coded_foldl]

@[simp] theorem State.newWatcher_coded (s : State) (w : Option Nat) : (s.newWatcher w).coded = s.coded := by
  simp only [State.newWatcher]
  split
  · rfl
  · split <;> split <;> simp [State.coded_foldl]

@[simp] theorem State.takeAssign_coded (s : State) : s.takeAssign.coded = s.coded := by
  unfold State.takeAssign
  dsimp only
  rw [State.newWatcher_coded, State.coded_ite, State.logAs_coded, ite_self]
  simp

@[simp] theorem State.releaseHeld_coded (s : State) : s.releaseHeld.coded = s.coded := by simp [State.releaseHeld, State.coded_foldl]

@[simp] theorem State.install_coded (s : State) (pr : Proposal) : (s.install pr).coded = s.coded := by
  simp only [State.install, State.collPump_coded, State.pumpAll_coded, State.takeAssign_coded]
  rw [State.coded_foldl (fun s x => ?_)]
  · simp [State.coded_foldl]
  · split <;> split <;> simp [State.coded_foldl]

@[simp] theorem State.mayInstall_coded (s : State) : s.mayInstall.coded = s.coded := by
  unfold State.mayInstall
  split <;> simp

@[simp] theorem State.report_coded (s : State) : s.report.coded = s.coded := by
  unfold State.report
  split <;> simp

@[simp] theorem State.mayReport_coded (s : State) : s.mayReport.coded = s.coded := by
  unfold State.mayReport
  split <;> simp

@[simp] theorem State.takeDrained_coded (s : State) (src : Nat) (epoch : W32) (n : Nat) :
    (s.takeDrained src epoch n).coded = s.coded := by
  unfold State.takeDrained
  split <;> simp

@[simp] theorem State.ownDrain_coded (s : State) (all : Bool) : (s.ownDrain all).coded = s.coded := by
  simp only [State.ownDrain]
  repeat' split
  all_goals simp [State.coded_foldl]

/-! ### Member -/

@[simp] theorem State.sendControl_coded (s : State) (p t16 : Nat) : (s.sendControl p t16).coded = s.coded := by rfl

@[simp] theorem State.takeAck_coded (s : State) (p ack : Nat) (nack : Bool) : (s.takeAck p ack nack).coded = s.coded := by
  simp only [State.takeAck]
  repeat' split
  all_goals simp

@[simp] theorem State.takeCredits_coded (s : State) (p : Nat) (bytes : List Byte) : (s.takeCredits p bytes).coded = s.coded := by rfl
@[simp] theorem State.takeOffset_coded (s : State) (o : Int) : (s.takeOffset o).coded = s.coded := by simp [State.takeOffset]

@[simp] theorem State.takeTime_coded (s : State) (p t16 : Nat) (bytes : List Byte) : (s.takeTime p t16 bytes).coded = s.coded := by
  simp [State.takeTime]

@[simp] theorem State.takeControl_coded (s : State) (p t16 : Nat) (bytes : List Byte) : (s.takeControl p t16 bytes).coded = s.coded := by
  simp only [State.takeControl]
  repeat' split
  all_goals simp

@[simp] theorem execOutOfTime_coded (s : State) : outCoded (execOutOfTime s) = some s.coded := by
  unfold execOutOfTime
  split <;> simp

@[simp] theorem State.askJoin_coded (s : State) : s.askJoin.coded = s.coded := by simp [State.askJoin]
@[simp] theorem State.leaseLost_coded (s : State) : s.leaseLost.coded = s.coded := by simp [State.leaseLost]

@[simp] theorem execBeaconAckDeadline_coded (s : State) : outCoded (execBeaconAckDeadline s) = some s.coded := by
  unfold execBeaconAckDeadline
  split <;> simp

@[simp] theorem State.suspect_coded (s : State) (node by_ last : Nat) : (s.suspect node by_ last).coded = s.coded := by
  simp [State.suspect]

@[simp] theorem State.proposeNext_coded (s : State) : s.proposeNext.coded = s.coded := by simp [State.proposeNext]
@[simp] theorem State.complete358_coded (s : State) (pr : Proposal) : (s.complete358 pr).coded = s.coded := by simp [State.complete358]

@[simp] theorem State.dropStale_coded (s : State) : s.dropStale.coded = s.coded := by
  unfold State.dropStale
  split <;> simp

@[simp] theorem execPropose_coded (port : Nat) (s : State) : outCoded (execPropose port s) = some s.coded := by
  refine s.takeMsg_coded _ _ _ (fun s m => ?_)
  dsimp only
  split
  · simp
  · split
    · simp
    · split <;> split <;> simp

@[simp] theorem execFragmentTimeout_coded (s : State) : outCoded (execFragmentTimeout s) = some s.coded := by
  unfold execFragmentTimeout
  split <;> simp

@[simp] theorem execDrainMessageTimeout_coded (s : State) : outCoded (execDrainMessageTimeout s) = some s.coded := by
  unfold execDrainMessageTimeout
  split <;> simp

@[simp] theorem execDrainedDeadline_coded (s : State) : outCoded (execDrainedDeadline s) = some s.coded := by
  simp only [execDrainedDeadline]
  repeat' split
  all_goals simp [State.coded_foldl]

@[simp] theorem execDrainMiss_coded (port : Nat) (s : State) : outCoded (execDrainMiss port s) = some s.coded :=
  s.takeMsg_coded _ _ _ (fun s m => by split <;> simp [State.updGl_coded])

@[simp] theorem execProposalTimeout_coded (s : State) : outCoded (execProposalTimeout s) = some s.coded := by
  unfold execProposalTimeout
  split <;> simp

@[simp] theorem execInstall_coded (port : Nat) (s : State) : outCoded (execInstall port s) = some s.coded :=
  s.takeMsg_coded _ _ _ (fun s m => by split <;> simp)

@[simp] theorem execHeldFrameTimeout_coded (s : State) : outCoded (execHeldFrameTimeout s) = some s.coded := by
  simp only [execHeldFrameTimeout]
  repeat' split
  all_goals simp [State.coded_foldl]

/-! ### NorOps -/

@[simp] theorem State.writeBoot_coded (s : State) (committed pending : Nat) : (s.writeBoot committed pending).coded = s.coded := by rfl
@[simp] theorem State.addMinute_coded (s : State) : s.addMinute.coded = s.coded := by rfl
@[simp] theorem State.writeLedger_coded (s : State) (es : List (Nat × Nat × Nat × Nat)) : (s.writeLedger es).coded = s.coded := by rfl

@[simp] theorem State.addLedger_coded (s : State) (reason stage slot : Nat) : (s.addLedger reason stage slot).coded = s.coded := by
  simp [State.addLedger]

@[simp] theorem State.eraseNextCrumb_coded (s : State) : s.eraseNextCrumb.coded = s.coded := by rfl

@[simp] theorem State.writeCrumbs_coded (s : State) (cause time : Nat) (rs : List LogRec) :
    (s.writeCrumbs cause time rs).coded = s.coded := by rfl

@[simp] theorem State.loadCrumbs_coded (s : State) : s.loadCrumbs.coded = s.coded := by
  unfold State.loadCrumbs
  split <;> simp

/-! ### StartOps -/

@[simp] theorem State.logStage_coded (s : State) (stage reason sev : Nat) : (s.logStage stage reason sev).coded = s.coded := by
  simp [State.logStage]

@[simp] theorem State.failedStart_coded (s : State) (stage reason : Nat) : (s.failedStart stage reason).coded = s.coded := by
  simp only [State.failedStart]
  split <;> simp

@[simp] theorem State.powerLoss_coded (s : State) (hold : ResetHold) : (s.powerLoss hold).coded = s.coded := by
  simp only [State.powerLoss]
  repeat' split
  all_goals simp

@[simp] theorem State.imageError_coded (s : State) (e : Nat × Nat × Nat) : (s.imageError e).coded = s.coded := by simp [State.imageError]

@[simp] theorem State.trySlots_coded (s : State) (l : List (Nat × SlotCheck)) (last : Nat) : (s.trySlots l last).1.coded = s.coded := by
  induction l generalizing s last with
  | nil => rfl
  | cons c l ih =>
    simp only [State.trySlots]
    split
    · simp
    · simp [ih, apply_ite Prod.fst]

@[simp] theorem State.trainHosts_coded (s : State) (hosts : List (Nat × Nat)) : (s.trainHosts hosts).coded = s.coded := by rfl

theorem State.repairLanes_carries (s : State) (bad : List (Nat × Nat)) (l : List Nat) : Carries s.coded (s.repairLanes bad l) := by
  induction l generalizing s with
  | nil => simp [State.repairLanes]
  | cons k ks ih =>
    unfold State.repairLanes
    split
    next => simp
    next m new _ =>
      intro t ht
      rw [ih _ t ht, State.coded_foldl (fun s l => by simp)]
      simp

@[simp] theorem State.readRetired_coded (s : State) : s.readRetired.coded = s.coded := by
  simp only [State.readRetired]
  repeat' split
  all_goals simp [State.coded_foldl]

@[simp] theorem State.mountTensor_coded (s : State) (key : Nat) : (s.mountTensor key).coded = s.coded := by
  simp only [State.mountTensor]
  split <;> simp

@[simp] theorem State.placeTensor_coded (s : State) (key : Nat) : (s.placeTensor key).coded = s.coded := by
  unfold State.placeTensor
  split <;> simp

@[simp] theorem State.mountTier2_coded (s : State) : s.mountTier2.coded = s.coded := by simp [State.mountTier2, State.coded_foldl]
@[simp] theorem State.commitImage_coded (s : State) : s.commitImage.coded = s.coded := by simp [State.commitImage]

/-! ### PowerOps -/

@[simp] theorem State.updPm_coded (s : State) {f : PmSt → PmSt} (hf : ∀ p, (f p).level = p.level) : (s.updPm f).coded = s.coded := by
  simp [State.updPm, hf]

@[simp] theorem State.failSensor_coded (s : State) (i : Nat) : (s.failSensor i).coded = s.coded := by simp [State.failSensor]
@[simp] theorem State.sample_coded (s : State) (i : Nat) (v : Int) : (s.sample i v).coded = s.coded := by simp [State.sample]
@[simp] theorem State.trip_coded (s : State) : s.trip.coded = s.coded := by simp [State.trip]

/-! ### Watch -/

@[simp] theorem execWatchAckTimeout_coded (s : State) : outCoded (execWatchAckTimeout s) = some s.coded := by
  unfold execWatchAckTimeout
  split <;> simp

@[simp] theorem execTakeoverTimeout_coded (s : State) : outCoded (execTakeoverTimeout s) = some s.coded := by
  unfold execTakeoverTimeout
  split <;> simp

@[simp] theorem State.beginTest_coded (s : State) : s.beginTest.coded = s.coded := by simp [State.beginTest, State.coded_foldl]

@[simp] theorem State.logService_coded (s : State) (req place : Nat) (fail : Bool) : (s.logService req place fail).coded = s.coded := by
  simp [State.logService]

@[simp] theorem execFullModuleTestComplete_coded (ok : Bool) (s : State) : outCoded (execFullModuleTestComplete ok s) = some s.coded := by
  simp [execFullModuleTestComplete, State.coded_foldl]

/-! ### Beat -/

@[simp] theorem State.trainResult_coded (s : State) (d ch x : Nat) (fail : Bool) : (s.trainResult d ch x fail).coded = s.coded := by
  simp [State.trainResult]

@[simp] theorem State.scrub_coded (s : State) (d ch n : Nat) (found : List (Nat × Ecc)) : (s.scrub d ch n found).coded = s.coded := by
  simp only [State.scrub, State.updChan_coded]
  rw [State.coded_foldl (fun s f => by
    split
    · rfl
    · split <;> simp)]
  simp

@[simp] theorem State.degrade_coded (s : State) (p lane : Nat) : (s.degrade p lane).coded = s.coded := by simp [State.degrade]

@[simp] theorem State.swapSpare_coded (s : State) (p : Nat) (r : LinkVisit) : (s.swapSpare p r).coded = s.coded := by
  simp [State.swapSpare]

@[simp] theorem State.overruns_coded (s : State) (b n : Nat) : (s.overruns b n).coded = s.coded := by
  simp [State.overruns, State.coded_foldl]

@[simp] theorem State.coreBeat_coded (s : State) (n : Nat) : (s.coreBeat n).coded = s.coded := by rfl
@[simp] theorem State.endBeat_coded (s : State) : s.endBeat.coded = s.coded := by simp [State.endBeat, State.coded_foldl]
@[simp] theorem State.beatNumber_coded (s : State) (b : Nat) : (s.beatNumber b).coded = s.coded := by rfl

@[simp] theorem State.endTakeover_coded (s : State) : s.endTakeover.coded = s.coded := by
  simp only [State.endTakeover]
  repeat' split
  all_goals simp [State.coded_foldl]

/-! ### Engine -/

@[simp] theorem State.engEffect_coded (s : State) (n k : Nat) (e : Eng) (w : IWord) (ring : Option Entry) :
    (s.engEffect n k e w ring).coded = s.coded := by
  unfold State.engEffect
  split <;> simp

@[simp] theorem State.acceptHead_coded (s : State) (n k : Nat) (e : Eng) (ring : Option Entry) :
    (s.acceptHead n k e ring).coded = s.coded := by
  unfold State.acceptHead
  repeat' split
  all_goals simp

@[simp] theorem effDispatch_coded (e : Eng) (ring : Option Entry) (s : State) (n k : Nat) (w : IWord) :
    (effDispatch e ring s n k w).coded = s.coded := by simp [effDispatch]

@[simp] theorem State.engStep_coded (s : State) (n : Nat) (ecc : Ecc) (e : Eng) (cls opc : Nat) (ring : Option Entry) :
    (s.engStep n ecc e cls opc ring).coded = s.coded := by
  unfold State.engStep
  repeat' split
  all_goals simp

@[simp] theorem execEngineDispatch_coded (core : Nat) (s : State) : outCoded (execEngineDispatch core s) = some s.coded := by
  simp only [execEngineDispatch]
  repeat' split
  all_goals simp

@[simp] theorem execWaitGroupRelease_coded (core : Nat) (eng : Option Eng) (s : State) :
    outCoded (execWaitGroupRelease core eng s) = some s.coded := by
  unfold execWaitGroupRelease
  repeat' split
  all_goals simp

@[simp] theorem execHqResume_coded (core : Nat) (entry : Entry) (s : State) : outCoded (execHqResume core entry s) = some s.coded := by
  unfold execHqResume
  repeat' split
  all_goals simp

/-! ### Guest -/

@[simp] theorem State.logFirewall_coded (s : State) (check : Nat) : (s.logFirewall check).coded = s.coded := by simp [State.logFirewall]
@[simp] theorem State.guestReset_coded (s : State) (check : Nat) : (s.guestReset check).coded = s.coded := by simp [State.guestReset]
@[simp] theorem State.dropGCmd_coded (s : State) (tag : Nat) : (s.dropGCmd tag).coded = s.coded := by rfl

@[simp] theorem State.guestFail_coded (s : State) (c : GCmd) : (s.guestFail c).coded = s.coded := by
  unfold State.guestFail
  split <;> simp

@[simp] theorem State.guestRetry_coded (s : State) (c : GCmd) : (s.guestRetry c).coded = s.coded := by rfl
@[simp] theorem State.guestAgain_coded (s : State) (c : GCmd) : (s.guestAgain c).coded = s.coded := by simp [State.guestAgain]

@[simp] theorem State.guestBad_coded (s : State) (a : Nat) (bad : List Nat) : (s.guestBad a bad).coded = s.coded := by
  unfold State.guestBad
  repeat' split
  all_goals simp

@[simp] theorem State.guestDeliver_coded (s : State) (c : GCmd) (m : GMsg) : (s.guestDeliver c m).coded = s.coded := by
  unfold State.guestDeliver
  split <;> simp

@[simp] theorem State.guestStray_coded (s : State) : s.guestStray.coded = s.coded := by simp [State.guestStray]
@[simp] theorem State.guestMute_coded (s : State) : s.guestMute.coded = s.coded := by simp [State.guestMute]

/-! ### Interrupt -/

@[simp] theorem execFillYield_coded (core : Nat) (s : State) : outCoded (execFillYield core s) = some s.coded := by
  simp only [execFillYield]
  split <;> simp

@[simp] theorem State.saveCtx_coded (s : State) (n k : Nat) : (s.saveCtx n k).coded = s.coded := by simp [State.saveCtx]

@[simp] theorem State.restoreCtx_coded (s : State) (n k : Nat) (fill : Bool) : (s.restoreCtx n k fill).coded = s.coded := by
  simp [State.restoreCtx]

@[simp] theorem execContextSaved_coded (core : Nat) (s : State) : outCoded (execContextSaved core s) = some s.coded := by
  unfold execContextSaved
  split <;> simp

@[simp] theorem execContextRestored_coded (core : Nat) (s : State) : outCoded (execContextRestored core s) = some s.coded := by
  unfold execContextRestored
  split <;> simp

/-! ### Mgmt -/

@[simp] theorem State.smbus_coded (s : State) {f : State → State} (hf : (f s).coded = s.coded) : outCoded (s.smbus f) = some s.coded := by
  simp [State.smbus, hf]

@[simp] theorem State.nack_coded (s : State) : s.nack.coded = s.coded := by rfl
@[simp] theorem State.reply_coded (s : State) (bs : List Byte) : (s.reply bs).coded = s.coded := by rfl

@[simp] theorem execNorWrite_coded (off : Nat) (data : List Byte) (s : State) : outCoded (execNorWrite off data s) = some s.coded := by
  refine s.smbus_coded ?_
  split
  · simp
  · split <;> simp

@[simp] theorem State.tapGo_coded (s : State) (ok : Bool) (code : Nat) (drive : Bool) : (s.tapGo ok code drive).coded = s.coded := by
  simp [State.tapGo]

/-! ### Regs -/

@[simp] theorem State.setHostEn_coded (s : State) (tn : Nat) (b : Bool) : (s.setHostEn tn b).coded = s.coded := by simp [State.setHostEn]

@[simp] theorem State.putTn_coded (s : State) (who : Who) (o v hw : Nat) : (s.putTn who o v hw).coded = s.coded := by
  unfold State.putTn
  split <;> simp

@[simp] theorem State.putDd_coded (s : State) (o v : Nat) : (s.putDd o v).coded = s.coded := by simp [State.putDd]

@[simp] theorem State.putCl_coded (s : State) (o v hw : Nat) : (s.putCl o v hw).coded = s.coded := by
  unfold State.putCl
  split <;> simp

@[simp] theorem State.putTb_coded (s : State) (who : Who) (off d o v hw : Nat) : (s.putTb who off d o v hw).coded = s.coded := by
  unfold State.putTb
  split <;> simp

@[simp] theorem State.putUp_coded (s : State) (d o v hw : Nat) : (s.putUp d o v hw).coded = s.coded := by
  unfold State.putUp
  split <;> simp

@[simp] theorem State.putBank_coded (s : State) (n v hw : Nat) : (s.putBank n v hw).coded = s.coded := by simp [State.putBank]
@[simp] theorem State.putInt_coded (s : State) (n v hw : Nat) : (s.putInt n v hw).coded = s.coded := by simp [State.putInt]

@[simp] theorem State.putNflags_coded (s : State) (n v hw : Nat) : (s.putNflags n v hw).coded = s.coded := by
  unfold State.putNflags
  split <;> simp

@[simp] theorem State.putCp_coded (s : State) (n o v hw : Nat) : (s.putCp n o v hw).coded = s.coded := by
  unfold State.putCp
  split <;> simp

@[simp] theorem State.updMx_coded (s : State) (n : Nat) (f : MxSt → MxSt) : (s.updMx n f).coded = s.coded := by rfl

@[simp] theorem State.putMx_coded (s : State) (n o v hw : Nat) : (s.putMx n o v hw).coded = s.coded := by
  unfold State.putMx
  split <;> simp

@[simp] theorem State.put64_coded (s : State) (off v : Nat) : (s.put64 off v).coded = s.coded := by
  unfold State.put64
  split <;> simp

@[simp] theorem State.writeHalf_coded (s : State) (who : Who) (off v : Nat) : (s.writeHalf who off v).coded = s.coded := by
  simp only [State.writeHalf]
  repeat' split
  all_goals simp

@[simp] theorem State.clear32_coded (s : State) (off hw : Nat) : (s.clear32 off hw).coded = s.coded := by
  unfold State.clear32
  repeat' split
  all_goals simp

@[simp] theorem State.seen64_coded (s : State) (off : Nat) : (s.seen64 off).coded = s.coded := by
  unfold State.seen64
  split <;> simp

@[simp] theorem State.readHalf_coded (s : State) (who : Who) (off v : Nat) : (s.readHalf who off v).1.coded = s.coded := by
  simp only [State.readHalf]
  repeat' split
  all_goals simp

@[simp] theorem State.read32_coded (s : State) (who : Who) (off hw : Nat) : (s.read32 who off hw).1.coded = s.coded := by
  unfold State.read32
  repeat' split
  all_goals simp

@[simp] theorem State.read64_coded (s : State) (who : Who) (off hw : Nat) : (s.read64 who off hw).1.coded = s.coded := by
  unfold State.read64
  repeat' split
  all_goals simp

@[simp] theorem State.answerReg_coded (w : Nat) (r : State × Nat) : (State.answerReg w r).coded = r.1.coded := by
  simp [State.answerReg]

@[simp] theorem State.idle_coded (s : State) : s.idle.coded = s.coded := by simp [State.idle]

/-! ### Start -/

@[simp] theorem State.stageMissed_coded (s : State) (stage : Nat) : (s.stageMissed stage).coded = s.coded := by simp [State.stageMissed]

/-! ### Steps that change a coded field -/

/-- No coded field holds a reserved code. -/
structure Coded.Legal (c : Coded) : Prop where
  beat : c.beat ≤ 6
  maint : c.maint ≤ 4
  heat : c.heat ≤ 6
  version : 1 ≤ c.version ∧ c.version ≤ 3
  session : c.session ≤ 2
  mailbox : c.mailbox ≤ 3 ∧ c.reason ≤ 8
  level : c.level ≤ 4
  stage : c.stage ≤ 5

theorem State.codesOk_iff (s : State) : s.CodesOk ↔ s.coded.Legal :=
  ⟨fun ⟨h1, h2, h3, h4, h5, h6, h7, h8⟩ => ⟨h1, h2, h3, h4, h5, h6, h7, h8⟩,
    fun ⟨h1, h2, h3, h4, h5, h6, h7, h8⟩ => ⟨h1, h2, h3, h4, h5, h6, h7, h8⟩⟩

/-- From `c` to `d` the queue of commands stays, and no reserved code comes in. -/
def Coded.Keeps (c d : Coded) : Prop := d.pending = c.pending ∧ (c.Legal → d.Legal)

@[simp] theorem Coded.Keeps.refl (c : Coded) : c.Keeps c := ⟨rfl, id⟩

theorem Coded.Keeps.trans {c d e : Coded} (h : c.Keeps d) (k : d.Keeps e) : c.Keeps e := ⟨k.1.trans h.1, k.2 ∘ h.2⟩

theorem State.coded_keeps_foldl {α : Type} {f : State → α → State} (hf : ∀ (s : State) x, s.coded.Keeps (f s x).coded)
    (l : List α) (s : State) : s.coded.Keeps (l.foldl f s).coded := by
  induction l generalizing s with
  | nil => exact .refl _
  | cons x l ih => exact (hf s x).trans (ih _)

theorem Coded.keeps_ite {p : Prop} [Decidable p] {c : Coded} {s t : State} (hs : c.Keeps s.coded) (ht : c.Keeps t.coded) :
    c.Keeps (if p then s else t).coded := by
  split
  · exact hs
  · exact ht

theorem State.pumpRelease_keeps (s : State) : s.coded.Keeps s.pumpRelease.coded := by
  refine State.coded_keeps_foldl (fun s t => State.coded_keeps_foldl (fun s r => Coded.keeps_ite ?_ (.refl _)) _ _) _ _
  have hd : (s.dropRegion t.1 r.1).coded = s.coded := s.dropRegion_coded _ _
  refine ⟨(congrArg Coded.pending hd :), fun h => ?_⟩
  have hl : (s.dropRegion t.1 r.1).coded.Legal := hd ▸ h
  exact { hl with session := h.session, mailbox := ⟨(by decide : 2 ≤ 3), Nat.zero_le 8⟩ }

theorem State.detach_keeps (s : State) (cause port : Nat) : s.coded.Keeps (s.detach cause port).coded := by
  simp only [State.detach]
  split
  · exact .refl _
  · rw [State.logAttach_coded, State.settle_coded, State.coded_foldl (fun (s : State) r => s.dmaDone_coded r [] true true)]
    refine ⟨rfl, fun h => { h with session := (le_refl 2), mailbox := ⟨?_, h.mailbox.2⟩ }⟩
    have hm : s.hl.cstate ≤ 3 := h.mailbox.1
    change (if s.hl.cstate = 1 then 2 else s.hl.cstate) ≤ 3
    split <;> omega

theorem State.attach_keeps (s : State) (port : Nat) (v : W32) : s.coded.Keeps (s.attach port v).coded := by
  refine Coded.keeps_ite ?_ ?_
  · exact ⟨rfl, fun h => h⟩
  · rw [State.logAttach_coded]
    exact ⟨rfl, fun h => { h with session := (by decide : (1 : Nat) ≤ 2) }⟩

theorem State.heartbeatLost_keeps (s : State) : s.coded.Keeps s.heartbeatLost.coded := by
  have h := ((s.advanceTo (s.hl.hbArmed + 4000000000)).logTimeout 19 s.hl.hbArmed).detach_keeps 1 0
  rwa [State.logTimeout_coded, State.advanceTo_coded] at h

theorem State.heartbeat_keeps (s : State) : s.coded.Keeps s.heartbeat.coded := by
  unfold State.heartbeat
  split
  · exact .refl _
  · split
    · exact s.heartbeatLost_keeps
    · exact ⟨rfl, fun h => h⟩

theorem State.mbRefuse_keeps (s : State) {r : Nat} (hr : r ≤ 8) : s.coded.Keeps (s.mbRefuse r).coded :=
  ⟨rfl, fun h => { h with mailbox := ⟨le_refl 3, hr⟩ }⟩

theorem State.mbDone_keeps (s : State) (res : Nat) : s.coded.Keeps (s.mbDone res).coded :=
  ⟨rfl, fun h => { h with mailbox := ⟨(by decide : 2 ≤ 3), Nat.zero_le 8⟩ }⟩

theorem State.mailboxRun_keeps (s : State) (who : Who) {f : State → Nat → Nat → State}
    (hf : ∀ (s : State) t r, s.coded.Keeps (f s t r).coded) : s.coded.Keeps (s.mailboxRun who f).coded := by
  unfold State.mailboxRun
  refine Coded.keeps_ite ?_ (Coded.keeps_ite ?_ (Coded.keeps_ite ?_ ?_))
  · simp
  · exact s.mbRefuse_keeps (by decide)
  · exact s.mbRefuse_keeps (by decide)
  · exact hf _ _ _

theorem State.hreg_keeps (s : State) (tn r : Nat) : s.coded.Keeps (s.hreg tn r).coded := by
  refine Coded.keeps_ite (s.mbRefuse_keeps (by decide)) (Coded.keeps_ite (s.mbRefuse_keeps (by decide))
    (Coded.keeps_ite (s.mbRefuse_keeps (by decide)) (Coded.keeps_ite (s.mbRefuse_keeps (by decide)) ?_)))
  refine .trans ?_ (State.mbDone_keeps _ _)
  simp [State.coded_foldl]

theorem State.dreg_keeps (s : State) (tn r : Nat) : s.coded.Keeps (s.dreg tn r).coded := by
  refine Coded.keeps_ite (s.mbRefuse_keeps (by decide)) (Coded.keeps_ite (s.mbRefuse_keeps (by decide))
    (Coded.keeps_ite (s.mbRefuse_keeps (by decide)) (Coded.keeps_ite (s.mbRefuse_keeps (by decide))
      (Coded.keeps_ite (s.mbRefuse_keeps (by decide)) ?_))))
  refine .trans ?_ (State.mbDone_keeps _ _)
  simp

theorem State.rrel_keeps (s : State) (tn r : Nat) : s.coded.Keeps (s.rrel tn r).coded :=
  Coded.keeps_ite (s.mbRefuse_keeps (by decide)) <| by
    refine .trans ?_ (State.pumpRelease_keeps _)
    exact ⟨rfl, fun h => { h with mailbox := ⟨(by decide : 1 ≤ 3), Nat.zero_le 8⟩ }⟩

theorem State.dbell_keeps (s : State) (tn : Nat) : s.coded.Keeps (s.dbell tn).coded :=
  Coded.keeps_ite (s.mbRefuse_keeps (by decide)) ((s.updTenant tn _).mbDone_keeps 0)

theorem State.qset_keeps (s : State) (tn q : Nat) : s.coded.Keeps (s.qset tn q).coded := by
  simp only [State.qset]
  split
  · exact s.mbRefuse_keeps (by decide)
  · split
    · exact s.mbRefuse_keeps (by decide)
    · split
      next => exact s.mbRefuse_keeps (by decide)
      next u hu =>
        have hs : u.coded = s.coded := by
          split at hu
          · obtain rfl := Option.some.inj hu
            simp
          · refine carries_bind (fun d _ => carries_map (fun a ha => ?_)) u hu
            simp [State.allocFrames_coded _ _ _ _ ha]
        exact .trans (by simp [hs]) (State.mbDone_keeps _ _)

theorem State.qreset_keeps (s : State) (tn q : Nat) : s.coded.Keeps (s.qreset tn q).coded :=
  Coded.keeps_ite (s.mbRefuse_keeps (by decide)) (.trans (by simp) (State.mbDone_keeps _ _))

theorem State.dmaExpired_keeps (s : State) (r : DmaRead) : s.coded.Keeps (s.dmaExpired r).coded :=
  .trans (by simp) (State.pumpRelease_keeps _)

theorem State.reset_legal : State.reset.coded.Legal := by
  constructor <;> decide

/-- A module reset leaves no code but those of the registers after reset, and keeps the queue. -/
theorem State.afterReset_keeps (s : State) (hold : ResetHold) : s.coded.Keeps (s.afterReset hold).coded :=
  ⟨rfl, fun _ => { State.reset_legal with }⟩

theorem State.enter_keeps (s : State) {stage : Nat} (h : stage ≤ 5) : s.coded.Keeps (s.enter stage).coded := by
  unfold State.enter
  rw [State.logStage_coded]
  exact ⟨rfl, fun k => { k with stage := h }⟩

theorem State.beginStart_keeps (s : State) (cause : Nat) : s.coded.Keeps (s.beginStart cause).coded :=
  .trans (by simp) (State.enter_keeps _ (by decide))

theorem State.moduleReset_keeps (s : State) (cause : Nat) : s.coded.Keeps (s.moduleReset cause).coded :=
  Coded.keeps_ite ((s.afterReset_keeps .trip).trans ⟨rfl, fun h => h⟩) (.trans (s.afterReset_keeps .none) (State.beginStart_keeps _ _))

theorem State.holdSprout_keeps (s : State) : s.coded.Keeps s.holdSprout.coded := ⟨rfl, fun h => { h with stage := le_refl 5 }⟩

theorem State.afterSeal_keeps (s : State) (r : SealRun) : s.coded.Keeps (s.afterSeal r).coded := by
  unfold State.afterSeal
  split
  · exact Coded.keeps_ite s.holdSprout_keeps (s.moduleReset_keeps _)
  · exact (s.afterReset_keeps (if s.start.hold = .none then .power else s.start.hold)).trans ⟨rfl, fun h => h⟩

theorem State.stage1_keeps (s : State) (r : Stage1Rep) : s.coded.Keeps (s.stage1 r).coded := by
  refine .trans (s.enter_keeps (by decide : 2 ≤ 5)) ?_
  simp only [State.stage1]
  split
  · simp
  · split
    · simp
    · split
      next => simp
      next u hu =>
        have hs := State.repairLanes_carries _ _ _ u hu
        simp at hs
        simp [hs]

theorem State.sproutStage_keeps (s : State) (r : Stage1Rep) : s.coded.Keeps (s.sproutStage r).coded := by
  unfold State.sproutStage
  split
  · simp
  · split
    · simp
    · have ht := s.trySlots_coded (s.slotOrder r.slots) 2
      split
      next h => simp_all
      next u _ _ h =>
        have hs : (u.trainHosts r.hosts).coded = s.coded := by simp_all
        rw [← hs]
        exact Coded.keeps_ite (State.holdSprout_keeps _) (State.stage1_keeps _ r)

theorem State.stage2_keeps (s : State) (r : Stage2Rep) : s.coded.Keeps (s.stage2 r).coded := by
  refine .trans (s.enter_keeps (by decide : 3 ≤ 5)) ?_
  simp [State.stage2, State.coded_foldl]

theorem cfg_legal_of_cfgCheck {c : ModCfg} {b : List Byte} (h : cfgCheck c b = none) :
    c.beatExp ≤ 6 ∧ c.maintExp ≤ 4 ∧ c.heatExp ≤ 6 ∧ 1 ≤ c.maxVersion ∧ c.maxVersion ≤ 3 := by
  unfold cfgCheck at h
  split at h
  · simp at h
  · split at h
    · simp at h
    · omega

/-- The configuration of an image without a failing field check holds no reserved code (R442, R453). -/
theorem cfg_legal_of_imageFail {img : List Byte} {bad : List Nat} (h : imageFail img bad = none) :
    let c := (readImage img).cfg
    c.beatExp ≤ 6 ∧ c.maintExp ≤ 4 ∧ c.heatExp ≤ 6 ∧ 1 ≤ c.maxVersion ∧ c.maxVersion ≤ 3 := by
  simp only [imageFail] at h
  split at h
  · simp at h
  next hone =>
    have hreq : ∃ e ∈ sectionTable img, e.type = 1 := by
      have hr : ∀ t ∈ requiredSections, ∃ e ∈ sectionTable img, e.type = t := by simpa using h
      exact hr 1 (by decide)
    obtain ⟨e, he, ht⟩ := hreq
    obtain ⟨i, hi, rfl⟩ := List.mem_iff_getElem.1 he
    have h1 := List.findSome?_eq_none_iff.1 hone i (List.mem_range.2 hi)
    split at h1
    · simp at h1
    · split at h1
      · simp at h1
      · have hi' : (sectionTable img).getD i ⟨0, 0, 0, 0⟩ = (sectionTable img)[i] := by simp [hi]
        rw [Option.map_eq_none_iff, hi', ht, sectionCheck, Option.map_eq_none_iff] at h1
        exact cfg_legal_of_cfgCheck h1

theorem State.applyImage_keeps (s : State) {img : List Byte} {bad : List Nat} (h : imageFail img bad = none) :
    s.coded.Keeps (s.applyImage (readImage img)).coded := by
  obtain ⟨hb, hm, hh, hv⟩ := cfg_legal_of_imageFail h
  simp only [State.applyImage]
  rw [State.coded_foldl (fun s n => by simp), State.coded_foldl (fun s d => by simp), State.coded_foldl (fun s t => by simp)]
  exact ⟨rfl, fun k => { k with beat := hb, maint := hm, heat := hh, version := hv }⟩

theorem State.stage3_keeps (s : State) (r : Stage3Rep) : s.coded.Keeps (s.stage3 r).coded := by
  refine .trans (s.enter_keeps (by decide : 4 ≤ 5)) ?_
  simp only [State.stage3]
  split
  · simp
  · split
    · simp
    next h =>
      have ha := State.applyImage_keeps ((ignoredSections ((s.enter 4).slotImage (s.enter 4).start.slot)).foldl
        (fun (s : State) i => s.logAs 0x0E 0 0x0071 1 Option.none [(1, i), (2, 0), (1, 0)]) (s.enter 4)) h
      rw [State.coded_foldl (fun s i => by simp)] at ha
      refine ha.trans ?_
      split
      · simp
      · split
        · simp
        · simp [State.coded_foldl]

theorem PmSt.wanted_le (p : PmSt) (now : Nat) : p.wanted now ≤ 4 := by
  simp only [PmSt.wanted]
  repeat' split
  all_goals decide

theorem State.setLevel_keeps (s : State) {l : Nat} (hl : s.coded.Legal → l ≤ 4) : s.coded.Keeps (s.setLevel l).coded := by
  simp only [State.setLevel]
  split
  · exact .refl _
  · rw [State.logAs_coded]
    have hs : s.settleCredit.coded = s.coded := s.settleCredit_coded
    refine Coded.Keeps.trans (d := { s.coded with level := l }) ⟨rfl, fun h => { h with level := hl h }⟩ ?_
    rw [← hs]
    refine Coded.keeps_ite ?_ (Coded.keeps_ite ?_ ?_)
    · rw [State.suspendBallast_coded]
      exact .refl _
    · rw [State.resumeBallast_coded]
      exact .refl _
    · exact .refl _

theorem State.judge_keeps (s : State) : s.coded.Keeps s.judge.coded := by
  have hu : ∀ o : PmSt → Option Nat, (s.updPm (fun p => { p with hot := o p })).coded = s.coded := fun o => by simp
  simp only [State.judge]
  split
  · rw [← hu]
    exact State.setLevel_keeps _ (fun _ => PmSt.wanted_le _ _)
  · split
    · rw [← hu]
      exact State.setLevel_keeps _ (fun h => (Nat.sub_le _ 1).trans h.level)
    · simp

theorem State.control_keeps (s : State) : s.coded.Keeps s.control.coded := by
  refine Coded.keeps_ite ?_ (.trans ?_ (State.judge_keeps _))
  · rw [State.trip_coded]
    exact Coded.keeps_ite (by simp) (by simp)
  · exact Coded.keeps_ite (by simp) (by simp)

theorem State.endTrip_keeps (s : State) : s.coded.Keeps s.endTrip.coded :=
  Coded.keeps_ite (Coded.keeps_ite (.trans (by simp) (State.beginStart_keeps _ _)) (by simp)) (.refl _)

theorem State.leaveReset_keeps (s : State) : s.coded.Keeps s.leaveReset.coded :=
  .trans (by simp) (State.moduleReset_keeps _ _)

theorem State.planLeave_keeps (s : State) : s.coded.Keeps s.planLeave.coded :=
  Coded.keeps_ite (s.moduleReset_keeps 6) (Coded.keeps_ite (by simp) (.refl _))

theorem State.planBeat_keeps (s : State) : s.coded.Keeps s.planBeat.coded :=
  Coded.keeps_ite (Coded.keeps_ite s.leaveReset_keeps (s.moduleReset_keeps 6)) (.refl _)

theorem State.orderTest_keeps (s : State) : s.coded.Keeps s.orderTest.coded :=
  Coded.keeps_ite (.refl _) (Coded.keeps_ite (by simp) (Coded.keeps_ite (.refl _) (.trans (by simp) (State.planLeave_keeps _))))

theorem State.serviceFault_keeps (s : State) : s.coded.Keeps s.serviceFault.coded :=
  Coded.keeps_ite (.trans (by simp) (State.orderTest_keeps _)) (by simp)

theorem State.chanStep_keeps (s : State) (d ch : Nat) (r : ChanVisit) (x : Nat) : s.coded.Keeps (s.chanStep d ch r x).coded := by
  simp only [State.chanStep]
  refine Coded.keeps_ite (by simp) (Coded.keeps_ite (Coded.keeps_ite ?_ (by simp)) (Coded.keeps_ite ?_ (by simp)))
  · rw [State.moduleFault_coded]
    exact .trans (by simp) (State.serviceFault_keeps _)
  · refine .trans (Coded.keeps_ite ?_ ?_ : s.coded.Keeps (if r.service.contains 2 = true then
      ((s.updChan d ch (fun c => { c with reqs := c.reqs.erase 2 })).logService 2 ch (r.service.contains 2)).serviceFault
      else (s.updChan d ch (fun c => { c with reqs := c.reqs.erase 2 })).logService 2 ch (r.service.contains 2)).coded) (by simp)
    · exact .trans (by simp) (State.serviceFault_keeps _)
    · simp

theorem State.chanVisit_keeps (s : State) (d ch : Nat) (r : ChanVisit) : s.coded.Keeps (s.chanVisit d ch r).coded := by
  simp only [State.chanVisit, State.scrub_coded]
  refine .trans ?_ (State.coded_keeps_foldl (fun s x => s.chanStep_keeps d ch r x) _ _)
  simp [State.coded_foldl]

theorem State.linkStep_keeps (s : State) (p : Nat) (r : LinkVisit) (x : Nat) : s.coded.Keeps (s.linkStep p r x).coded :=
  Coded.keeps_ite (by simp) (Coded.keeps_ite (by simp) (Coded.keeps_ite
    (Coded.keeps_ite (.trans (by simp) (State.serviceFault_keeps _)) (by simp)) (.refl _)))

theorem State.linkVisit_keeps (s : State) (r : LinkVisit) : s.coded.Keeps (s.linkVisit r).coded := by
  refine .trans ?_ (State.coded_keeps_foldl (fun s x => s.linkStep_keeps r.port r x) _ _)
  simp [State.coded_foldl]

theorem State.maintain_keeps (s : State) (b : Nat) (chans : List ChanVisit) (links : List LinkVisit) (sensors : List Nat) :
    s.coded.Keeps (s.maintain b chans links sensors).coded := by
  simp only [State.maintain, State.logService_coded]
  rw [State.coded_foldl (fun s i => by simp)]
  refine .trans ?_ (State.coded_keeps_foldl (fun s r => s.linkVisit_keeps r) _ _)
  rw [State.coded_foldl (fun s p => by simp)]
  exact State.coded_keeps_foldl (fun s d => Coded.keeps_ite (s.chanVisit_keeps _ _ _) (.refl _)) _ _

theorem State.guestLate_keeps (s : State) (c : GCmd) : s.coded.Keeps (s.guestLate c).coded := by
  refine Coded.keeps_ite ?_ (by simp)
  rw [State.guestReset_coded]
  exact .trans (by simp) (State.pumpRelease_keeps _)

theorem State.orderedReset_keeps (s : State) (cause : Nat) : s.coded.Keeps (s.orderedReset cause).coded :=
  Coded.keeps_ite (s.moduleReset_keeps _) (.refl _)

theorem State.sealExpired_keeps (s : State) (r : SealRun) : s.coded.Keeps (s.sealExpired r).coded :=
  .trans (by simp) (State.afterSeal_keeps _ r)

theorem State.putHl_keeps (s : State) (who : Who) (o v : Nat) : s.coded.Keeps (s.putHl who o v).coded := by
  unfold State.putHl
  split
  · exact Coded.keeps_ite (s.detach_keeps _ _) (Coded.keeps_ite (s.attach_keeps _ _) (.refl _))
  · exact s.heartbeat_keeps
  · exact ⟨rfl, fun h => h⟩
  · refine Coded.keeps_ite (by simp) ?_
    split
    · exact s.mailboxRun_keeps who (fun s => s.hreg_keeps)
    · exact s.mailboxRun_keeps who (fun s => s.dreg_keeps)
    · exact s.mailboxRun_keeps who (fun s => s.rrel_keeps)
    · exact s.mailboxRun_keeps who (fun s tn _ => s.dbell_keeps tn)
    · exact s.mailboxRun_keeps who (fun s => s.qset_keeps)
    · exact s.mailboxRun_keeps who (fun s => s.qreset_keeps)
    · exact s.mbRefuse_keeps (le_refl 8)
  · exact .refl _

theorem State.putGl_keeps (s : State) (who : Who) (off o v : Nat) : s.coded.Keeps (s.putGl who off o v).coded := by
  unfold State.putGl
  split
  · split
    · simp
    next hv => exact ⟨rfl, fun h => { h with version := ⟨Nat.pos_of_ne_zero hv, Nat.le_of_lt_succ (Nat.mod_lt _ (by decide))⟩ }⟩
  · exact .refl _

theorem State.putTi_keeps (s : State) (who : Who) (off o v : Nat) : s.coded.Keeps (s.putTi who off o v).coded := by
  simp only [State.putTi]
  split
  · split
    · simp
    next hv => exact ⟨rfl, fun h => { h with heat := not_lt.1 hv }⟩
  all_goals simp

theorem State.put32_keeps (s : State) (who : Who) (off v hw : Nat) : s.coded.Keeps (s.put32 who off v hw).coded := by
  unfold State.put32
  split
  · exact s.putHl_keeps who _ v
  · simp
  · exact Coded.keeps_ite (s.putGl_keeps who off _ v) (.refl _)
  · simp
  · simp
  · exact s.putTi_keeps who off _ v
  all_goals simp

theorem State.write32_keeps (s : State) (who : Who) (off v hw : Nat) : s.coded.Keeps (s.write32 who off v hw).coded := by
  unfold State.write32
  split
  · simp
  · split
    · exact Coded.keeps_ite (s.put32_keeps _ _ _ _) (by simp)
    · simp
    · simp

theorem State.write64_keeps (s : State) (who : Who) (off v hw : Nat) : s.coded.Keeps (s.write64 who off v hw).coded := by
  unfold State.write64
  split
  · simp
  · split
    · simp
    · exact (s.write32_keeps who off _ _).trans (State.write32_keeps _ who _ _ _)

/-! ### Commands that change a coded field -/

/-- A command answers a next state that keeps the queue and lets no reserved code in. -/
def OutKeeps (c : Coded) (o : Out) : Prop := ∃ t, o = .next t ∧ c.Keeps t.coded

theorem outKeeps_next {c : Coded} {t : State} (h : c.Keeps t.coded) : OutKeeps c (.next t) := ⟨t, rfl, h⟩

theorem outKeeps_ite {p : Prop} [Decidable p] {c : Coded} {a b : Out} (ha : OutKeeps c a) (hb : OutKeeps c b) :
    OutKeeps c (if p then a else b) := by
  split
  · exact ha
  · exact hb

theorem outKeeps_of_coded {c : Coded} {o : Out} (h : outCoded o = some c) : OutKeeps c o := by
  cases o with
  | next t => exact ⟨t, rfl, by simp [Option.some.inj h]⟩
  | fault r => simp [outCoded] at h
  | refused r => simp [outCoded] at h

theorem State.smbus_keeps (s : State) {f : State → State} (h : s.coded.Keeps (f s).coded) : OutKeeps s.coded (s.smbus f) :=
  outKeeps_ite (outKeeps_next h) (outKeeps_next (by simp))

theorem State.mailbox_keeps (s : State) (who : Who) {f : State → Nat → Nat → State}
    (hf : ∀ (s : State) t r, s.coded.Keeps (f s t r).coded) : OutKeeps s.coded (s.mailbox who f) :=
  outKeeps_next (s.mailboxRun_keeps who hf)

theorem State.inTime_keeps (s : State) (stage : Nat) {t : State} (h : s.coded.Keeps t.coded) :
    OutKeeps s.coded (.next (s.inTime stage t)) :=
  outKeeps_next (Coded.keeps_ite (by simp) h)

theorem execAttach_keeps (who : Who) (value : W32) (s : State) : OutKeeps s.coded (execAttach who value s) :=
  outKeeps_ite (outKeeps_next (by simp)) (outKeeps_ite (outKeeps_next (s.attach_keeps _ _)) (outKeeps_next (.refl _)))

theorem execDetach_keeps (who : Who) (value : W32) (s : State) : OutKeeps s.coded (execDetach who value s) :=
  outKeeps_ite (outKeeps_next (by simp)) (outKeeps_ite (outKeeps_next (s.detach_keeps _ _)) (outKeeps_next (.refl _)))

theorem execHeartbeat_keeps (who : Who) (s : State) : OutKeeps s.coded (execHeartbeat who s) :=
  outKeeps_next (Coded.keeps_ite s.heartbeat_keeps (by simp))

theorem execHeartbeatTimeout_keeps (s : State) : OutKeeps s.coded (execHeartbeatTimeout s) :=
  outKeeps_ite (outKeeps_next s.heartbeatLost_keeps) (outKeeps_next (.refl _))

theorem execHostLinkDown_keeps (s : State) : OutKeeps s.coded (execHostLinkDown s) :=
  outKeeps_next ((s.detach_keeps 2 0).trans ⟨rfl, fun h => h⟩)

theorem execHostDmaComplete_keeps (id : Nat) (data : List Byte) (poison : Bool) (s : State) :
    OutKeeps s.coded (execHostDmaComplete id data poison s) := by
  unfold execHostDmaComplete
  split
  · exact outKeeps_next (by simp)
  · refine outKeeps_ite (outKeeps_next ?_) (outKeeps_next (.trans (by simp) (State.pumpRelease_keeps _)))
    rw [State.strayDma_coded]
    exact s.dmaExpired_keeps _

theorem execHostDmaTimeout_keeps (id : Nat) (s : State) : OutKeeps s.coded (execHostDmaTimeout id s) := by
  unfold execHostDmaTimeout
  split
  · exact outKeeps_next (.refl _)
  · exact outKeeps_next (s.dmaExpired_keeps _)

theorem execTbListComplete_keeps (list : Nat) (s : State) : OutKeeps s.coded (execTbListComplete list s) :=
  outKeeps_next (.trans (by simp [State.coded_foldl]) (State.pumpRelease_keeps _))

theorem execSensorSample_keeps (readings : Readings) (s : State) : OutKeeps s.coded (execSensorSample readings s) := by
  refine outKeeps_ite (outKeeps_next (.refl _)) (outKeeps_ite (outKeeps_next (.trans ?_ (State.endTrip_keeps _)))
    (outKeeps_ite (outKeeps_next ?_) (outKeeps_next (.trans ?_ (State.control_keeps _)))))
  all_goals simp [State.coded_foldl]

theorem execInputSample_keeps (mv : Nat) (rail : Option (Int × Int)) (s : State) : OutKeeps s.coded (execInputSample mv rail s) := by
  refine outKeeps_ite (outKeeps_next (.refl _)) (outKeeps_ite (outKeeps_next (by simp)) (outKeeps_ite (outKeeps_next (by simp)) ?_))
  suffices h : ∀ u : State, s.coded.Keeps u.coded → OutKeeps s.coded (match rail with
      | some r =>
        if heldFor u.pm.railOut u.now 100000 then
          .next (u.logAs 0x0B 0 0x0060 2 none [(1, 2), (4, logInt r.1), (4, logInt r.2)]).moduleFault
        else .next u
      | none => .next u) from
    h _ (Coded.keeps_ite (.trans (by simp) (State.judge_keeps _)) (by simp))
  intro u hu
  split
  · exact outKeeps_ite (outKeeps_next (by simpa using hu)) (outKeeps_next hu)
  · exact outKeeps_next hu

theorem execPlannedTakeoverTimeout_keeps (s : State) : OutKeeps s.coded (execPlannedTakeoverTimeout s) := by
  unfold execPlannedTakeoverTimeout
  split
  · exact outKeeps_ite (outKeeps_next (.trans (by simp) (State.leaveReset_keeps _))) (outKeeps_next (.refl _))
  · exact outKeeps_next (.refl _)

theorem execBeatStart_keeps (chans : List ChanVisit) (links : List LinkVisit) (sensors : List Nat) (s : State) :
    OutKeeps s.coded (execBeatStart chans links sensors s) := by
  refine outKeeps_ite (outKeeps_next (.refl _)) ?_
  dsimp only
  generalize hu : State.beatNumber _ _ = u
  have hs : u.coded = s.coded := by
    rw [← hu, State.beatNumber_coded]
    split
    · simp
    · rw [State.coded_foldl (fun s n => by simp)]
      simp
  rw [← hs]
  refine outKeeps_ite (outKeeps_next (.refl _)) (outKeeps_next (.trans ?_ (State.planBeat_keeps _)))
  rw [State.endTakeover_coded]
  generalize hv : List.foldl _ _ _ = v
  have ht : v.coded = u.coded := by
    rw [← hv, State.coded_foldl (fun s n => by simp), State.serveWaiting_coded]
  rw [← ht]
  exact Coded.keeps_ite (State.maintain_keeps _ _ _ _ _) (.refl _)

theorem execChunkArrival_keeps (core : Nat) (s : State) : OutKeeps s.coded (execChunkArrival core s) := by
  unfold execChunkArrival
  split
  · exact outKeeps_next (.refl _)
  · exact outKeeps_next (.trans (by simp) (State.pumpRelease_keeps _))

theorem execTransferSuspend_keeps (core : Nat) (s : State) : OutKeeps s.coded (execTransferSuspend core s) := by
  unfold execTransferSuspend
  split
  · exact outKeeps_next (.refl _)
  · exact outKeeps_next (.trans (by simp) (State.pumpRelease_keeps _))

theorem execGuestMessage_keeps (tag : Nat) (msg : GMsg) (s : State) : OutKeeps s.coded (execGuestMessage tag msg s) := by
  refine outKeeps_ite (outKeeps_next (.refl _)) ?_
  split
  · exact outKeeps_next (by simp)
  · exact outKeeps_ite (outKeeps_next (s.guestLate_keeps _)) (outKeeps_next (.trans (by simp) (State.pumpRelease_keeps _)))

theorem execGuestCommandTimeout_keeps (tag : Nat) (s : State) : OutKeeps s.coded (execGuestCommandTimeout tag s) := by
  refine outKeeps_ite (outKeeps_next (.refl _)) ?_
  split
  · exact outKeeps_next (.refl _)
  · exact outKeeps_next (s.guestLate_keeps _)

theorem execNorClose_keeps (check : SlotCheck) (bad : List Nat) (s : State) : OutKeeps s.coded (execNorClose check bad s) := by
  refine s.smbus_keeps ?_
  split
  · simp
  · dsimp only
    split
    · simp
    · simp
    · refine Coded.keeps_ite (.trans ?_ (State.planLeave_keeps _)) ?_
      all_goals simp

theorem execRelease_keeps (s : State) : OutKeeps s.coded (execRelease s) :=
  s.smbus_keeps (.trans (by simp) (State.orderedReset_keeps _ 2))

theorem execReset_keeps (s : State) : OutKeeps s.coded (execReset s) :=
  s.smbus_keeps (.trans (by simp) (State.orderedReset_keeps _ 1))

theorem execRegisterWrite_keeps (who : Who) (width off value hwSet : Nat) (s : State) :
    OutKeeps s.coded (execRegisterWrite who width off value hwSet s) :=
  outKeeps_ite (outKeeps_next (by simp)) (outKeeps_ite (outKeeps_next (s.write32_keeps _ _ _ _))
    (outKeeps_ite (outKeeps_next (s.write64_keeps _ _ _ _)) (outKeeps_next (by simp))))

theorem execPowerGood_keeps (s : State) : OutKeeps s.coded (execPowerGood s) :=
  outKeeps_ite (outKeeps_next (.refl _)) (outKeeps_ite (outKeeps_next (by simp))
    (outKeeps_next ((s.afterReset_keeps .none).trans (State.beginStart_keeps _ _))))

theorem execStartStage1_keeps (rep : Stage1Rep) (s : State) : OutKeeps s.coded (execStartStage1 rep s) :=
  outKeeps_ite (s.inTime_keeps 1 (s.sproutStage_keeps rep)) (outKeeps_next (.refl _))

theorem execStartStage2_keeps (rep : Stage2Rep) (s : State) : OutKeeps s.coded (execStartStage2 rep s) :=
  outKeeps_ite (s.inTime_keeps 2 (s.stage2_keeps rep)) (outKeeps_next (.refl _))

theorem execStartStage3_keeps (rep : Stage3Rep) (s : State) : OutKeeps s.coded (execStartStage3 rep s) :=
  outKeeps_ite (s.inTime_keeps 3 (s.stage3_keeps rep)) (outKeeps_next (.refl _))

theorem execWatchdogTimeout_keeps (armed : Nat) (s : State) : OutKeeps s.coded (execWatchdogTimeout armed s) :=
  outKeeps_ite (outKeeps_next (.refl _)) (outKeeps_ite (outKeeps_next (.trans (by simp) (State.moduleReset_keeps _ 5)))
    (outKeeps_ite (outKeeps_next (by simp)) (outKeeps_next (by simp))))

theorem execCrumbSealComplete_keeps (s : State) : OutKeeps s.coded (execCrumbSealComplete s) := by
  unfold execCrumbSealComplete
  split
  · exact outKeeps_next (.refl _)
  · exact outKeeps_ite (outKeeps_next (s.sealExpired_keeps _)) (outKeeps_next (.trans (by simp) (State.afterSeal_keeps _ _)))

theorem execCrumbSealTimeout_keeps (s : State) : OutKeeps s.coded (execCrumbSealTimeout s) := by
  unfold execCrumbSealTimeout
  split
  · exact outKeeps_next (.refl _)
  · exact outKeeps_next (s.sealExpired_keeps _)


/-- No command stops, changes the queue of waiting commands, or brings a reserved code into a coded field. -/
theorem exec_keeps (c : Instr) (s : State) : OutKeeps s.coded (exec c s) := by
  cases c with
  | registerWrite who width off value hw => exact execRegisterWrite_keeps who width off value hw s
  | beatStart chans links sensors => exact execBeatStart_keeps chans links sensors s
  | chunkArrival core => exact execChunkArrival_keeps core s
  | transferSuspend core => exact execTransferSuspend_keeps core s
  | tbListComplete list => exact execTbListComplete_keeps list s
  | attach who value => exact execAttach_keeps who value s
  | detach who value => exact execDetach_keeps who value s
  | heartbeat who => exact execHeartbeat_keeps who s
  | heartbeatTimeout => exact execHeartbeatTimeout_keeps s
  | hostLinkDown => exact execHostLinkDown_keeps s
  | hreg who => exact s.mailbox_keeps who (fun s => s.hreg_keeps)
  | dreg who => exact s.mailbox_keeps who (fun s => s.dreg_keeps)
  | rrel who => exact s.mailbox_keeps who (fun s => s.rrel_keeps)
  | dbell who => exact s.mailbox_keeps who (fun s tn _ => s.dbell_keeps tn)
  | qset who => exact s.mailbox_keeps who (fun s => s.qset_keeps)
  | qreset who => exact s.mailbox_keeps who (fun s => s.qreset_keeps)
  | hostDmaComplete id data poison => exact execHostDmaComplete_keeps id data poison s
  | hostDmaTimeout id => exact execHostDmaTimeout_keeps id s
  | powerGood => exact execPowerGood_keeps s
  | startStage1 rep => exact execStartStage1_keeps rep s
  | startStage2 rep => exact execStartStage2_keeps rep s
  | startStage3 rep => exact execStartStage3_keeps rep s
  | watchdogTimeout armed => exact execWatchdogTimeout_keeps armed s
  | guestMessage tag msg => exact execGuestMessage_keeps tag msg s
  | guestCommandTimeout tag => exact execGuestCommandTimeout_keeps tag s
  | norClose check bad => exact execNorClose_keeps check bad s
  | release => exact execRelease_keeps s
  | reset => exact execReset_keeps s
  | sensorSample readings => exact execSensorSample_keeps readings s
  | inputSample mv rail => exact execInputSample_keeps mv rail s
  | crumbSealComplete => exact execCrumbSealComplete_keeps s
  | crumbSealTimeout => exact execCrumbSealTimeout_keeps s
  | plannedTakeoverTimeout => exact execPlannedTakeoverTimeout_keeps s
  | fullModuleTest => exact outKeeps_next s.orderTest_keeps
  | _ =>
    refine outKeeps_of_coded ?_
    simp [
      exec, execSlotStart, execDrain, execResume, execBankSwitchRequest, execBankSwitchCancel, execProgramWordCommit,
      execBallastHoldExpiry, execVrLoad, execVrStore, execVrFrombuf, execVrOp, execTier1Read, execTier1Write, execMergedWrite,
      execPerBankRefresh, execRefreshManagement, execModeRegisterReadout, execPageRetire, execTput, execTget, execTlatch, execTmv,
      execTarm, execTewAdd, execTewMul, execTewFma, execTewMax, execTewExp, execTewGate, execTewRotary, execTewConvert, execTewRowMax,
      execTewRowSum, execTewDivide, execT2SealCommit, execHeatEpochEnd, execQuotaChange, execGradientRecordLanded, execCollSeg,
      execSegAck, execEndAck, execWatchRecordAck, execHostPortReset, execJobStart, execJobStop, execFenceCommand, execTbSubmit,
      execT2Open, execT2Write, execT2Seal, execT2Abort, execT2Delete, execReshard, execCommandTakeWindow, execTrainingStepTimeout,
      execBeaconModeTimeout, execAckTimeout, execFastRetrain, execDataFlit, execTime, execControlFlit, execBeaconTick, execBeacon,
      execBeaconAck, execLeaseExpiry, execLeaderLeaseExpiry, execLinkSilent, execSuspect, execDeclaration, execLeave, execSuccession,
      execDrainDone, execDrained, execJoin, execJoinBatchInterval, execFenceNotice, execNop, execJump, execBranchNz, execBranchZ,
      execLoop, execLoopEnd, execFence, execTickEnd, execHalt, execReadFlags, execClearFlags, execMovi, execAdd, execSub, execMul,
      execAnd, execOr, execXor, execShl, execShr, execSltu, execAddi, execTseq, execTseqConv, execConvSet, execVsetsave, execVsrSet,
      execVload, execVstore, execVadd, execVsub, execVmul, execVfma, execVmax, execVmin, execVabs, execVneg, execVcopy, execVtrans,
      execVdrop, execVrcp, execVrsqrt, execVsqrt, execVexp, execVexp2, execVlog2, execVtanh, execVsigmoid, execVsin, execVcos,
      execVrsum, execVrsumsq, execVrmax, execVcsum, execVcsumsq, execVcmax, execFarm, execSxfer, execPeaPut, execPeaGet, execPeaAdd,
      execTbList, execGather, execRscat, execAllred, execPerm, execHqPost, execHqTake, execUpdStep, execUpdSnap, execUpdApply,
      execUpdAdvance, execGuestResetRelease, execGuestReady, execGuestReadyTimeout, execStatus, execNorOpen, execTestUnlock,
      execLogRead, execIdcode, execSamplePreload, execExtest, execDieWrapperSelect, execInstrumentAccess, execBypass, execTestReset,
      execRegisterReadClear, execRegisterSplitLowRead, execStageLimitTimeout, execReferenceLoss, execD2dLinkFault, execPowerLoss,
      execOvervoltageDisconnect, execModEnLow, execP3v3AuxRise, execHoldUpBoostComplete, execOnTimeTick]

/-- Settles O60 (R21, R96, R277, R364, R415, R416, R442, R455, R460): a command leaves the coded fields alone, or writes a code that the
tables list; an empty queue only lets time pass. -/
theorem codesStayLegal : Obligations.CodesStayLegal := by
  intro s t hs hstep
  unfold step at hstep
  rw [State.codesOk_iff] at hs ⊢
  split at hstep
  next => obtain rfl := Host.Outcome.next.inj hstep; simpa using hs
  next c rest _ =>
    obtain ⟨u, hu, -, hk⟩ := exec_keeps c { s with pending := rest }
    obtain rfl := Host.Outcome.next.inj (hstep.symm.trans hu)
    exact hk { hs with }

end Sys2Proof.Machine

/-!
PROOFS. The register space (R16): where an offset lies, and what an access of 32 bits at an offset does, once the kind of register
there is known (R18 to R22).
-/

namespace Sys2Proof.Machine

/-! ### Where an offset lies -/

/-- Where the registers of a die begin (R16). -/
def dieBase (d : Nat) : Nat := 0x1000000 + d * 0x1000000

/-- Where the registers of a core begin (R16). -/
def coreBase (n : Nat) : Nat := 0x1800000 + n / 16 * 0x1000000 + n % 16 * 0x10000

theorem dieBase_mod_four (d : Nat) : dieBase d % 4 = 0 := by unfold dieBase; omega

theorem coreBase_mod_four (n : Nat) : coreBase n % 4 = 0 := by unfold coreBase; omega

theorem regAt_gl {off o : Nat} (ho : o < 0x30000) (h : off = 0x100000 + o) : regAt off = .gl o := by
  subst h
  grind [regAt]

theorem regAt_tn {off o : Nat} (ho : o < 0x40000) (h : off = 0x400000 + o) : regAt off = .tn o := by
  subst h
  grind [regAt]

/-- The register of a die at an offset from where its registers begin. -/
theorem regAt_die {off d o : Nat} (hd : d < 4) (ho : o < 0x1000000) (h : off = dieBase d + o) : regAt off = dieReg d o := by
  have hrange : ¬ (off < 0x1000000 ∨ 0x5000000 ≤ off) := by unfold dieBase at h; omega
  have hdie : (off - 0x1000000) / 0x1000000 = d := by unfold dieBase at h; omega
  have hoff : off % 0x1000000 = o := by unfold dieBase at h; omega
  unfold regAt
  rw [if_neg hrange, hdie, hoff]
  repeat rw [if_neg (by omega)]

/-- The block of a core that an offset from where its registers begin lies in. -/
def coreReg (n r : Nat) : RegAt :=
  if r < 0x4000 then .cp n r else if r < 0x8000 then .mx n (r - 0x4000) else if r < 0xC000 then .ve n (r - 0x8000) else .st n (r - 0xC000)

/-- The register of a core at an offset from where its registers begin. -/
theorem regAt_core {off n r : Nat} (hn : n < 64) (hr : r < 0x10000) (h : off = coreBase n + r) : regAt off = coreReg n r := by
  have hblock : off = dieBase (n / 16) + (0x800000 + n % 16 * 0x10000 + r) := by unfold coreBase at h; unfold dieBase; omega
  rw [regAt_die (by omega) (by omega) hblock]
  have hcore : 16 * (n / 16) + (0x800000 + n % 16 * 0x10000 + r - 0x800000) / 0x10000 = n := by omega
  have hreg : (0x800000 + n % 16 * 0x10000 + r) % 0x10000 = r := by omega
  unfold dieReg coreReg
  rw [hcore, hreg]
  repeat rw [if_neg (by omega)]

/-! ### What shows at an offset -/

section
variable (s : State) {off d n o : Nat}

theorem State.reg32_gl (h4 : off % 4 = 0) (h : regAt off = .gl o) : s.reg32 off = s.gl32 o := by simp [State.reg32, h4, h]
theorem State.reg32_tn (h4 : off % 4 = 0) (h : regAt off = .tn o) : s.reg32 off = s.tn32 o := by simp [State.reg32, h4, h]
theorem State.reg32_mc (h4 : off % 4 = 0) (h : regAt off = .mc d o) : s.reg32 off = s.mc32 d o := by simp [State.reg32, h4, h]
theorem State.reg32_cz (h4 : off % 4 = 0) (h : regAt off = .cz d o) : s.reg32 off = s.cz32 d o := by simp [State.reg32, h4, h]
theorem State.reg32_tb (h4 : off % 4 = 0) (h : regAt off = .tb d o) : s.reg32 off = s.tb32 d o := by simp [State.reg32, h4, h]
theorem State.reg32_up (h4 : off % 4 = 0) (h : regAt off = .up d o) : s.reg32 off = s.up32 d o := by simp [State.reg32, h4, h]
theorem State.reg32_cp (h4 : off % 4 = 0) (h : regAt off = .cp n o) : s.reg32 off = s.cp32 n o := by simp [State.reg32, h4, h]
theorem State.reg32_mx (h4 : off % 4 = 0) (h : regAt off = .mx n o) : s.reg32 off = s.mx32 n o := by simp [State.reg32, h4, h]
theorem State.reg32_ve (h4 : off % 4 = 0) (h : regAt off = .ve n o) : s.reg32 off = s.ve32 n o := by simp [State.reg32, h4, h]
theorem State.reg32_st (h4 : off % 4 = 0) (h : regAt off = .st n o) : s.reg32 off = s.st32 n o := by simp [State.reg32, h4, h]

theorem State.reg64_up (h : regAt off = .up d o) : s.reg64 off = s.up64 d o := by simp [State.reg64, h]

end

/-! ### An access of 32 bits, by the kind of register at its offset (R18 to R22, R390) -/

section
variable (s : State) (who : Who) {off : Nat}

theorem exec_registerWrite32 (v hw : Nat) (h : off < regSpace) :
    exec (.registerWrite who 32 off v hw) s = .next (s.write32 who off v hw) := by
  change execRegisterWrite who 32 off v hw s = _
  rw [execRegisterWrite, if_neg (by omega), if_pos rfl]

theorem exec_registerReadClear32 (hw : Nat) (h : off < regSpace) :
    exec (.registerReadClear who 32 off hw) s = .next (State.answerReg 32 (s.read32 who off hw)) := by
  change execRegisterReadClear who 32 off hw s = _
  rw [execRegisterReadClear, if_neg (by omega), if_pos rfl]

theorem exec_registerSplitLowRead (h : off < regSpace) :
    exec (.registerSplitLowRead who off) s = .next (State.answerReg 32 (s.read32 who off 0)) := by
  change execRegisterSplitLowRead who off s = _
  rw [execRegisterSplitLowRead, if_neg (by omega)]

/-- Who may write a register reaches the register space. -/
theorem Who.reaches_of_mayWrite {who : Who} (h : who.mayWrite off = true) : who.reaches = true := by
  simp only [Who.mayWrite, Bool.or_eq_true, Bool.and_eq_true] at h
  simp only [Who.reaches, Bool.or_eq_true]
  exact h.imp And.left And.left

theorem stewardMay_of_cp {n o : Nat} (h : regAt off = .cp n o) : stewardMay off = true := by rw [stewardMay, h]

theorem stewardMay_of_up {d o : Nat} (h : regAt off = .up d o) : stewardMay off = true := by rw [stewardMay, h]

/-- The steward writes every register but those of page retirement. -/
theorem Who.mayWrite_of_index_zero {who : Who} (hwho : who.index = 0) (h : stewardMay off = true) : who.mayWrite off = true := by
  simp [Who.mayWrite, Who.isSteward, hwho, h]

/-- What the steward and a driver may both write, everyone who reaches the registers may. -/
theorem Who.mayWrite_of_reaches {who : Who} (hwho : who.reaches = true) (hs : stewardMay off = true) (hd : driverMay off = true) :
    who.mayWrite off = true := by
  simpa only [Who.mayWrite, Who.reaches, hs, hd, Bool.and_true] using hwho

/-- Everyone who reaches the registers reads all but TB_NFLAGS and UP_NFLAGS. -/
theorem Who.mayRead_of_reaches {who : Who} (hwho : who.reaches = true) (htb : ∀ d, regAt off ≠ .tb d 0x10)
    (hup : ∀ d, regAt off ≠ .up d 0x20) : who.mayRead off = true := by
  simp only [Who.reaches, Bool.or_eq_true] at hwho
  simp only [Who.mayRead, Bool.or_eq_true, Bool.and_eq_true]
  refine hwho.imp id fun hdriver => ⟨hdriver, ?_⟩
  split
  next d o heq => exact decide_eq_true fun h : o = 0x10 => htb d (h ▸ heq)
  next d o heq => exact decide_eq_true fun h : o = 0x20 => hup d (h ▸ heq)
  next => rfl

variable {v x hw : Nat}

/-- A write of a 32-bit register by one who may write it. -/
theorem State.write32_eq_put32 (h4 : off % 4 = 0) (hwho : who.mayWrite off = true) (hx : (s.reg32 off).isSome = true) :
    s.write32 who off v hw = s.put32 who off (v % 2 ^ 32) hw := by
  obtain ⟨x, hx⟩ := Option.isSome_iff_exists.mp hx
  simp [State.write32, h4, Who.reaches_of_mayWrite hwho, hx, hwho]

/-- A write of half a 64-bit register by one who may write it. -/
theorem State.write32_eq_writeHalf (h4 : off % 4 = 0) (hwho : who.mayWrite off = true) (hnone : s.reg32 off = none)
    (hx : s.reg64 (off / 8 * 8) = some x) : s.write32 who off v hw = s.writeHalf who off v := by
  simp [State.write32, h4, Who.reaches_of_mayWrite hwho, hnone, hx, hwho]

/-- A read of a 32-bit register by one who may read it answers what it shows. -/
theorem State.read32_eq_clear32 (h4 : off % 4 = 0) (hwho : who.mayRead off = true) (hx : s.reg32 off = some x) :
    s.read32 who off hw = (s.clear32 off hw, x) := by
  simp [State.read32, h4, hx, hwho]

/-- A read of half a 64-bit register by one who may read it. -/
theorem State.read32_eq_readHalf (h4 : off % 4 = 0) (hwho : who.mayRead off = true) (hnone : s.reg32 off = none)
    (hx : s.reg64 (off / 8 * 8) = some x) : s.read32 who off hw = s.readHalf who off x := by
  simp [State.read32, h4, hnone, hx, hwho]

end

/-! ### Writes of 32-bit registers (R18, R21) -/

/-- CP_INT: a write without drain and resume leaves the fault bit by W1C, and nothing else. -/
theorem State.putInt_of_low_clear (s : State) (n v hw : Nat) (h : v % 4 = 0) :
    s.putInt n v hw = s.setCore n { s.core n with fault := ((s.core n).fault && !v.testBit 3) || hw.testBit 3 } := by
  have hdrain : bitN 0 v = false := by
    simp only [bitN, Nat.testBit_zero, decide_eq_false_iff_not]
    omega
  have hresume : bitN 1 v = false := by
    simp only [bitN, Nat.testBit_succ, Nat.testBit_zero, decide_eq_false_iff_not]
    omega
  simp only [State.putInt, hdrain, hresume, Bool.false_eq_true, if_false]
  rfl

theorem State.write32_int (s : State) {who : Who} (hwho : who.index = 0) {n v hw : Nat} (hn : n < 64) (h : v % 4 = 0) :
    s.write32 who (coreBase n + 0x20) v hw =
      s.setCore n { s.core n with fault := ((s.core n).fault && !v.testBit 3) || hw.testBit 3 } := by
  have h4 : (coreBase n + 0x20) % 4 = 0 := by have := coreBase_mod_four n; omega
  have hat : regAt (coreBase n + 0x20) = .cp n 0x20 := regAt_core hn (by decide) rfl
  have hmay : who.mayWrite (coreBase n + 0x20) = true := Who.mayWrite_of_index_zero hwho (stewardMay_of_cp hat)
  have hshown : (s.reg32 (coreBase n + 0x20)).isSome = true := by rw [State.reg32_cp s h4 hat]; rfl
  have hbit : (v % 2 ^ 32).testBit 3 = v.testBit 3 := by rw [Nat.testBit_mod_two_pow]; rfl
  rw [State.write32_eq_put32 s who h4 hmay hshown, State.put32, hat]
  change s.putInt n (v % 2 ^ 32) hw = _
  rw [State.putInt_of_low_clear s n _ hw (by omega), hbit]

theorem State.write32_qsel (s : State) {who : Who} (hwho : who.index = 0) {v hw : Nat} :
    s.write32 who 0x800020 v hw = { s with tiers := { s.tiers with qsel := v % 4096 } } := by
  rw [State.write32_eq_put32 s who rfl (Who.mayWrite_of_index_zero hwho rfl) rfl]
  change { s with tiers := { s.tiers with qsel := v % 2 ^ 32 % 4096 } } = _
  rw [Nat.mod_mod_of_dvd v (by decide)]

theorem State.write32_rstcause (s : State) {who : Who} (hwho : who.index = 0) {v hw : Nat} : s.write32 who 0x20 v hw = s := by
  rw [State.write32_eq_put32 s who rfl (Who.mayWrite_of_index_zero hwho rfl) rfl]
  rfl

theorem State.write32_heatcfg (s : State) {who : Who} (hwho : who.index = 0) {v hw : Nat} :
    s.write32 who 0x800010 v hw =
      if 6 < v % 16 then s.logDiscard (regAddr 0x800010) who true else { s with tiers := { s.tiers with heatExp := v % 16 } } := by
  have hcode : v % 2 ^ 32 % 16 = v % 16 := Nat.mod_mod_of_dvd v (by decide)
  rw [State.write32_eq_put32 s who rfl (Who.mayWrite_of_index_zero hwho rfl) rfl, ← hcode]
  rfl

/-- Settles O2: each register by the write of its block (`put32`), once its place is known. -/
theorem registerWrites : Obligations.RegisterWrites := by
  intro s who v hw hwho _
  refine ⟨fun n hn hv => ?_, ?_, ?_, fun hv => ?_, fun hv => ?_⟩
  · have hoff : 0x1800020 + n / 16 * 0x1000000 + n % 16 * 0x10000 = coreBase n + 0x20 := by unfold coreBase; omega
    rw [hoff, exec_registerWrite32 s who v hw (by unfold coreBase regSpace; omega), State.write32_int s hwho hn hv]
  · rw [exec_registerWrite32 s who v hw (by decide), State.write32_qsel s hwho]
  · rw [exec_registerWrite32 s who v hw (by decide), State.write32_rstcause s hwho]
  · rw [exec_registerWrite32 s who v hw (by decide), State.write32_heatcfg s hwho, if_neg (by omega)]
  · rw [exec_registerWrite32 s who v hw (by decide), State.write32_heatcfg s hwho, if_pos hv]

/-! ### Reads that clear (R18, R19) -/

theorem State.read32_overruns (s : State) {who : Who} (hwho : who.reaches = true) {n hw : Nat} (hn : n < 64) :
    s.read32 who (coreBase n + 0x24) hw = (s.setCore n { s.core n with overruns := BitVec.ofNat 32 hw }, (s.core n).overruns.toNat) := by
  have h4 : (coreBase n + 0x24) % 4 = 0 := by have := coreBase_mod_four n; omega
  have hat : regAt (coreBase n + 0x24) = .cp n 0x24 := regAt_core hn (by decide) rfl
  have hmay : who.mayRead (coreBase n + 0x24) = true := Who.mayRead_of_reaches hwho (by simp [hat]) (by simp [hat])
  have hshown : s.reg32 (coreBase n + 0x24) = some (s.core n).overruns.toNat := (State.reg32_cp s h4 hat).trans rfl
  rw [State.read32_eq_clear32 s who h4 hmay hshown, State.clear32, hat]
  rfl

theorem State.read32_ce (s : State) {who : Who} (hwho : who.reaches = true) {d hw : Nat} (hd : d < 4) :
    s.read32 who (dieBase d + 0x10) hw = (s.setMc d { s.mcOf d with ce := BitVec.ofNat 32 hw }, (s.mcOf d).ce.toNat) := by
  have h4 : (dieBase d + 0x10) % 4 = 0 := by have := dieBase_mod_four d; omega
  have hat : regAt (dieBase d + 0x10) = .mc d 0x10 := regAt_die hd (by decide) rfl
  have hmay : who.mayRead (dieBase d + 0x10) = true := Who.mayRead_of_reaches hwho (by simp [hat]) (by simp [hat])
  have hshown : s.reg32 (dieBase d + 0x10) = some (s.mcOf d).ce.toNat := (State.reg32_mc s h4 hat).trans rfl
  rw [State.read32_eq_clear32 s who h4 hmay hshown, State.clear32, hat]
  rfl

theorem State.read32_fences (s : State) {who : Who} (hwho : who.reaches = true) {hw : Nat} :
    s.read32 who 0x120018 hw = ({ s with gl := { s.gl with fences := BitVec.ofNat 32 hw } }, s.gl.fences.toNat) := by
  have hat : regAt 0x120018 = .gl 0x20018 := rfl
  have hmay : who.mayRead 0x120018 = true := Who.mayRead_of_reaches hwho (by simp [hat]) (by simp [hat])
  rw [State.read32_eq_clear32 s who rfl hmay (x := s.gl.fences.toNat) rfl]
  rfl

/-- Settles O3: the read answers what shows (`reg32`), and what it clears is the count alone (`clear32`). -/
theorem readsClear : Obligations.ReadsClear := by
  intro s who hw hwho _
  refine ⟨fun n hn => ?_, fun d hd => ?_, ?_⟩
  · have hoff : 0x1800024 + n / 16 * 0x1000000 + n % 16 * 0x10000 = coreBase n + 0x24 := by unfold coreBase; omega
    rw [hoff, exec_registerReadClear32 s who hw (by unfold coreBase regSpace; omega), State.read32_overruns s hwho hn]
    rfl
  · have hoff : 0x1000010 + d * 0x1000000 = dieBase d + 0x10 := by unfold dieBase; omega
    rw [hoff, exec_registerReadClear32 s who hw (by unfold dieBase regSpace; omega), State.read32_ce s hwho hd]
    rfl
  · rw [exec_registerReadClear32 s who hw (by decide), State.read32_fences s hwho]
    rfl

/-! ### Accesses in halves (R22) -/

/-- After a half is put in place of what stood there, it is what is found. -/
theorem halfOf_dropHalf_append (l : List ((Nat × Nat × Nat) × W32)) (k : Nat × Nat × Nat) (x : W32) :
    halfOf (dropHalf l k ++ [(k, x)]) k = some x := by
  have hnone : (dropHalf l k).find? (fun e => e.1 == k) = none := by
    simp [dropHalf]
  simp [halfOf, hnone]

section
variable (s : State) (who : Who) {off : Nat}

/-- A read of the low half latches the high half. -/
theorem State.readHalf_low (v : Nat) (h8 : off % 8 = 0) :
    s.readHalf who off v =
      ({ s.seen64 off with split := { (s.seen64 off).split with
        high := dropHalf (s.seen64 off).split.high (halfKey who off) ++ [(halfKey who off, BitVec.ofNat 32 (v / 2 ^ 32))] } },
        v % 2 ^ 32) := by
  have hbase : off / 8 * 8 = off := by omega
  simp only [State.readHalf, hbase, if_true]

/-- A read of the high half answers what this requester's read of the low half latched, and drops it. -/
theorem State.readHalf_high {x : W32} (v : Nat) (h8 : off % 8 = 0) (hx : halfOf s.split.high (halfKey who off) = some x) :
    s.readHalf who (off + 4) v =
      ({ s with split := { s.split with high := dropHalf s.split.high (halfKey who off) } }, x.toNat) := by
  have hbase : (off + 4) / 8 * 8 = off := by omega
  have hhigh : ¬ off + 4 = off := by omega
  simp only [State.readHalf, hbase, if_neg hhigh, hx]

/-- A write of the low half is held. -/
theorem State.writeHalf_low (v : Nat) (h8 : off % 8 = 0) :
    s.writeHalf who off v = { s with split := { s.split with
      low := dropHalf s.split.low (halfKey who off) ++ [(halfKey who off, BitVec.ofNat 32 v)] } } := by
  have hbase : off / 8 * 8 = off := by omega
  simp only [State.writeHalf, hbase, if_true]

/-- A write of the high half applies it with the low half that this requester holds. -/
theorem State.writeHalf_high {x : W32} (v : Nat) (h8 : off % 8 = 0) (hx : halfOf s.split.low (halfKey who off) = some x) :
    s.writeHalf who (off + 4) v =
      { s with split := { s.split with low := dropHalf s.split.low (halfKey who off) } }.put64 off
        (x.toNat + v % 2 ^ 32 * 2 ^ 32) := by
  have hbase : (off + 4) / 8 * 8 = off := by omega
  have hhigh : ¬ off + 4 = off := by omega
  simp only [State.writeHalf, hbase, if_neg hhigh, hx]

/-- A write of the high half alone is discarded and logged. -/
theorem State.writeHalf_high_alone (v : Nat) (h8 : off % 8 = 0) (hnone : halfOf s.split.low (halfKey who off) = none) :
    s.writeHalf who (off + 4) v = s.logDiscard (regAddr (off + 4)) who true := by
  have hbase : (off + 4) / 8 * 8 = off := by omega
  have hhigh : ¬ off + 4 = off := by omega
  simp only [State.writeHalf, hbase, if_neg hhigh, hnone]

end

/-! ### UP_TXBYTES and HL_CARG0, registers of 64 bits -/

/-- Where UP_TXBYTES of a die lies (R303). -/
def txBytesOff (d : Nat) : Nat := dieBase d + 0x30030

theorem txBytesOff_mod_eight (d : Nat) : txBytesOff d % 8 = 0 := by unfold txBytesOff dieBase; omega

section
variable {d : Nat} (hd : d < 4)
include hd

theorem txBytesOff_lt_regSpace : txBytesOff d + 4 < regSpace := by unfold txBytesOff dieBase regSpace; omega

theorem regAt_txBytes : regAt (txBytesOff d) = .up d 0x30 := regAt_die hd (by decide) rfl

theorem regAt_txBytes_high : regAt (txBytesOff d + 4) = .up d 0x34 := regAt_die (o := 0x30034) hd (by decide) (by unfold txBytesOff; omega)

theorem State.reg64_txBytes (s : State) : s.reg64 (txBytesOff d) = some (s.upAt d).txBytes.toNat :=
  (State.reg64_up s (regAt_txBytes hd)).trans rfl

theorem State.read32_txBytes_low (s : State) {who : Who} (hwho : who.reaches = true) (hw : Nat) :
    s.read32 who (txBytesOff d) hw = s.readHalf who (txBytesOff d) (s.upAt d).txBytes.toNat := by
  have h8 := txBytesOff_mod_eight d
  have hat := regAt_txBytes hd
  have hbase : txBytesOff d / 8 * 8 = txBytesOff d := by omega
  exact State.read32_eq_readHalf s who (by omega) (Who.mayRead_of_reaches hwho (by simp [hat]) (by simp [hat]))
    ((State.reg32_up s (by omega) hat).trans rfl) (by rw [hbase, State.reg64_txBytes hd])

theorem State.read32_txBytes_high (s : State) {who : Who} (hwho : who.reaches = true) (hw : Nat) :
    s.read32 who (txBytesOff d + 4) hw = s.readHalf who (txBytesOff d + 4) (s.upAt d).txBytes.toNat := by
  have h8 := txBytesOff_mod_eight d
  have hat := regAt_txBytes_high hd
  have hbase : (txBytesOff d + 4) / 8 * 8 = txBytesOff d := by omega
  exact State.read32_eq_readHalf s who (by omega) (Who.mayRead_of_reaches hwho (by simp [hat]) (by simp [hat]))
    ((State.reg32_up s (by omega) hat).trans rfl) (by rw [hbase, State.reg64_txBytes hd])

theorem State.write32_txBytes_high (s : State) {who : Who} (hwho : who.index = 0) (v hw : Nat) :
    s.write32 who (txBytesOff d + 4) v hw = s.writeHalf who (txBytesOff d + 4) v := by
  have h8 := txBytesOff_mod_eight d
  have hat := regAt_txBytes_high hd
  have hbase : (txBytesOff d + 4) / 8 * 8 = txBytesOff d := by omega
  exact State.write32_eq_writeHalf s who (by omega) (Who.mayWrite_of_index_zero hwho (stewardMay_of_up hat))
    ((State.reg32_up s (by omega) hat).trans rfl) (by rw [hbase, State.reg64_txBytes hd])

/-- Reading the low half of UP_TXBYTES latches its high half and changes no register. -/
theorem State.readHalf_txBytes (s : State) (who : Who) (v : Nat) :
    s.readHalf who (txBytesOff d) v =
      ({ s with split := { s.split with
        high := dropHalf s.split.high (halfKey who (txBytesOff d)) ++ [(halfKey who (txBytesOff d), BitVec.ofNat 32 (v / 2 ^ 32))] } },
        v % 2 ^ 32) := by
  have hseen : s.seen64 (txBytesOff d) = s := by rw [State.seen64, regAt_txBytes hd]
  rw [State.readHalf_low s who v (txBytesOff_mod_eight d), hseen]

/-- The two halves of UP_TXBYTES, read by one requester, are of one moment. -/
theorem State.splitRead_txBytes (s : State) {who : Who} (hwho : who.reaches = true) :
    ∃ t, exec (.registerSplitLowRead who (txBytesOff d)) s = .next t ∧ t.resp = .reg 32 ((s.upAt d).txBytes.toNat % 2 ^ 32) ∧
      t = { s with split := t.split, resp := t.resp } ∧
      ∀ f, ∃ u, exec (.registerReadClear who 32 (txBytesOff d + 4) 0) (t.updUp d f) = .next u ∧
        u.resp = .reg 32 ((s.upAt d).txBytes.toNat / 2 ^ 32) ∧ u.up = (t.updUp d f).up := by
  have hspace := txBytesOff_lt_regSpace hd
  have hlatch : (BitVec.ofNat 32 ((s.upAt d).txBytes.toNat / 2 ^ 32)).toNat = (s.upAt d).txBytes.toNat / 2 ^ 32 := by
    have := (s.upAt d).txBytes.isLt
    rw [BitVec.toNat_ofNat]
    omega
  rw [exec_registerSplitLowRead s who (by omega), State.read32_txBytes_low hd s hwho, State.readHalf_txBytes hd]
  refine ⟨_, rfl, rfl, rfl, fun f => ?_⟩
  rw [exec_registerReadClear32 _ who 0 hspace, State.read32_txBytes_high hd _ hwho,
    State.readHalf_high _ who _ (txBytesOff_mod_eight d) (halfOf_dropHalf_append _ _ _), hlatch]
  exact ⟨_, rfl, rfl, rfl⟩

end

section
variable (s : State) {who : Who} (hwho : who.reaches = true)
include hwho

theorem State.write32_carg0_low (v hw : Nat) : s.write32 who 0x20028 v hw = s.writeHalf who 0x20028 v :=
  State.write32_eq_writeHalf s who rfl (Who.mayWrite_of_reaches hwho rfl rfl) rfl rfl

theorem State.write32_carg0_high (v hw : Nat) : s.write32 who 0x2002C v hw = s.writeHalf who (0x20028 + 4) v :=
  State.write32_eq_writeHalf s who rfl (Who.mayWrite_of_reaches hwho rfl rfl) rfl rfl

/-- The two halves of HL_CARG0, written by one requester, are applied together. -/
theorem State.splitWrite_carg0 {lo hi hw : Nat} (hlo : lo < 2 ^ 32) (hhi : hi < 2 ^ 32) :
    ∃ t, exec (.registerWrite who 32 0x20028 lo hw) s = .next t ∧ t = { s with split := t.split } ∧
      ∃ u, exec (.registerWrite who 32 0x2002C hi hw) t = .next u ∧
        u.hl = { s.hl with carg0 := BitVec.ofNat 64 (lo + hi * 2 ^ 32) } ∧ u = { s with hl := u.hl, split := u.split } := by
  have hheld : (BitVec.ofNat 32 lo).toNat + hi % 2 ^ 32 * 2 ^ 32 = lo + hi * 2 ^ 32 := by
    rw [BitVec.toNat_ofNat, Nat.mod_eq_of_lt hlo, Nat.mod_eq_of_lt hhi]
  rw [exec_registerWrite32 s who lo hw (by decide), State.write32_carg0_low s hwho, State.writeHalf_low s who lo rfl]
  refine ⟨_, rfl, rfl, ?_⟩
  rw [exec_registerWrite32 _ who hi hw (by decide), State.write32_carg0_high _ hwho,
    State.writeHalf_high _ who hi rfl (halfOf_dropHalf_append _ _ _), hheld]
  exact ⟨_, rfl, rfl, rfl⟩

end

/-- Settles O4: a half of a 64-bit register goes to `readHalf` or `writeHalf`, and a half just latched or held is the one found. -/
theorem splitAccesses : Obligations.SplitAccesses := by
  have hlow (d : Nat) : 0x1030030 + d * 0x1000000 = txBytesOff d := by unfold txBytesOff dieBase; omega
  refine ⟨fun s who d hwho hd => ?_, fun s who lo hi hw hwho hlo hhi => ⟨State.splitWrite_carg0 s hwho hlo hhi, fun hnone => ?_⟩,
    fun s who d hi hw hwho hd => ?_⟩
  · rw [hlow]
    exact State.splitRead_txBytes hd s hwho
  · rw [exec_registerWrite32 s who hi hw (by decide), State.write32_carg0_high s hwho, State.writeHalf_high_alone s who hi rfl hnone]
  · rw [hlow]
    intro off hnone
    rw [exec_registerWrite32 s who hi hw (txBytesOff_lt_regSpace hd), State.write32_txBytes_high hd s hwho,
      State.writeHalf_high_alone s who hi (txBytesOff_mod_eight d) hnone]

end Sys2Proof.Machine

/-!
PROOFS. What reset leaves: the registers show their reset values (R17), and the machine meets the two invariants.
-/

namespace Sys2Proof.Machine

/-! ### Every member of a table resets alike -/

@[simp] theorem State.reset_core (n : Nat) : State.reset.core n = CoreSt.reset := rfl
@[simp] theorem State.reset_mcOf (d : Nat) : State.reset.mcOf d = McSt.reset := rfl
@[simp] theorem State.reset_czAt (d : Nat) : State.reset.czAt d = CzDie.reset := rfl
@[simp] theorem State.reset_tubOf (d : Nat) : State.reset.tubOf d = TubDie.reset := rfl
@[simp] theorem State.reset_upAt (d : Nat) : State.reset.upAt d = UpDie.reset := rfl
@[simp] theorem State.reset_port (p : Nat) : State.reset.port p = Port.reset := rfl
@[simp] theorem State.reset_tenant (k : Nat) : State.reset.tenant k = Tenant.none := rfl
@[simp] theorem State.reset_jobs : State.reset.jobs = [] := rfl
@[simp] theorem State.reset_frames : State.reset.frames = [] := rfl
@[simp] theorem State.reset_expandable (d c : Nat) : State.reset.expandable d c = none := rfl

/-! ### The hub -/

theorem State.reset_hub : ∀ e ∈ ([(0x0000, 0x2D70B010), (0x0100, 0x22), (0x0020, 0), (0x20000, 3), (0x20008, 0), (0x30000, 0),
    (0x40000, 0), (0x120004, 0), (0x120008, 0), (0x12001C, 0x37), (0x200000, 0), (0x800000, 0), (0x800010, 2), (0x800014, 0x01000020),
    (0x800018, 0x80004020)] : List (Nat × Nat)), State.reset.reg32 e.1 = some e.2 := by decide

/-- A register of port `p` shows what a port after reset shows. -/
theorem State.reset_reg32_port {off p o : Nat} (hp : p < 18) (ho : o < 0x1000) (h4 : o % 4 = 0) (h : off = 0x100000 + p * 0x1000 + o) :
    State.reset.reg32 off = Port.reset.reg32 o := by
  have hport : (p * 0x1000 + o) / 4096 = p := by omega
  have hreg : (p * 0x1000 + o) % 4096 = o := by omega
  have hnode : ¬ 0x20000 ≤ p * 0x1000 + o := by omega
  rw [State.reg32_gl _ (by omega) (regAt_gl (o := p * 0x1000 + o) (by omega) (by omega))]
  simp [State.gl32, hnode, hport, hreg, hp]

theorem State.reset_ports (p : Nat) (hp : p < 18) :
    State.reset.reg32 (0x100000 + p * 0x1000) = some 0 ∧ State.reset.reg32 (0x100008 + p * 0x1000) = some 0x76543210 :=
  ⟨State.reset_reg32_port (o := 0) hp (by decide) rfl rfl, State.reset_reg32_port (o := 8) hp (by decide) rfl (by omega)⟩

/-- TN_STATUS and TN_HOST of a tenant that is not bound: nothing but host_en. -/
theorem State.reset_tenants (k : Nat) (hk : k < 4096) :
    State.reset.reg32 (0x400000 + 64 * k) = some 0 ∧ State.reset.reg32 (0x400014 + 64 * k) = some 1 := by
  have hreg : (64 * k + 0x14) % 64 = 0x14 := by omega
  rw [State.reg32_tn _ (by omega) (regAt_tn (o := 64 * k) (by omega) rfl),
    State.reg32_tn _ (by omega) (regAt_tn (o := 64 * k + 0x14) (by omega) (by omega))]
  constructor
  · simp only [State.tn32, Nat.mul_mod_right, State.reset_tenant, State.reset_jobs, List.filter_nil]
    rfl
  · simp only [State.tn32, hreg, State.reset_tenant]
    rfl

/-! ### The dies and the cores -/

theorem State.reset_mcStatus (d : Nat) : State.reset.mc32 d 0 = some 0 := by
  simp only [State.mc32, State.reset_mcOf, State.reset_frames]
  rfl

theorem State.reset_czStatus (d : Nat) : State.reset.cz32 d 0 = some 0 := by
  simp only [State.cz32, State.reset_czAt, State.reset_expandable]
  rfl

theorem State.reset_effCap (d : Nat) : State.reset.effCap d = 0x20 := by
  unfold State.effCap
  rw [State.reset_tubOf]
  decide

theorem State.reset_tbCap (d : Nat) : State.reset.tb32 d 4 = some 0x2020 := by
  simp only [State.tb32, State.reset_tubOf, State.reset_effCap]
  decide

theorem State.reset_tbDepth (d : Nat) : State.reset.tb32 d 8 = some 0x20 := by
  simp only [State.tb32, State.reset_tubOf]
  decide

theorem State.reset_upJobSel (d : Nat) : State.reset.up32 d 4 = some 0 := by
  simp only [State.up32, State.reset_upAt]
  decide

theorem State.reset_dies (d : Nat) (hd : d < 4) :
    let b := dieBase d
    State.reset.reg32 b = some 0 ∧ State.reset.reg32 (b + 0x10000) = some 0 ∧ State.reset.reg32 (b + 0x20004) = some 0x2020 ∧
    State.reset.reg32 (b + 0x20008) = some 0x20 ∧ State.reset.reg32 (b + 0x30004) = some 0 := by
  have h4 := dieBase_mod_four d
  have hbase : regAt (dieBase d) = .mc d 0 := regAt_die hd (by decide) (Nat.add_zero _).symm
  have hat (o : Nat) (ho : o < 0x1000000) : regAt (dieBase d + o) = dieReg d o := regAt_die hd ho rfl
  exact ⟨(State.reg32_mc _ h4 hbase).trans (State.reset_mcStatus d),
    (State.reg32_cz _ (by omega) (hat 0x10000 (by decide))).trans (State.reset_czStatus d),
    (State.reg32_tb _ (by omega) (hat 0x20004 (by decide))).trans (State.reset_tbCap d),
    (State.reg32_tb _ (by omega) (hat 0x20008 (by decide))).trans (State.reset_tbDepth d),
    (State.reg32_up _ (by omega) (hat 0x30004 (by decide))).trans (State.reset_upJobSel d)⟩

theorem State.reset_cpStatus (n : Nat) : State.reset.cp32 n 0 = some 0 := by
  simp only [State.cp32, State.reset_core]
  decide

theorem State.reset_cpBank (n : Nat) : State.reset.cp32 n 4 = some 0 := by
  simp only [State.cp32, State.reset_core]
  decide

theorem State.reset_mxStatus (n : Nat) : State.reset.mx32 n 0 = some 0xF000 := by
  simp only [State.mx32, State.reset_core]
  decide

theorem State.reset_mxBallast (n : Nat) : State.reset.mx32 n 0x10 = some 0x828A0A28 := by
  simp only [State.mx32, State.reset_core]
  decide

theorem State.reset_veStatus (n : Nat) : State.reset.ve32 n 0 = some 0 := by
  simp only [State.ve32, State.reset_core]
  decide

theorem State.reset_stStatus (n : Nat) : State.reset.st32 n 0 = some 0 := by
  simp only [State.st32, State.reset_core]
  decide

theorem State.reset_cores (n : Nat) (hn : n < 64) :
    let b := coreBase n
    State.reset.reg32 b = some 0 ∧ State.reset.reg32 (b + 0x04) = some 0 ∧ State.reset.reg32 (b + 0x4000) = some 0xF000 ∧
    State.reset.reg32 (b + 0x4010) = some 0x828A0A28 ∧ State.reset.reg32 (b + 0x8000) = some 0 ∧
    State.reset.reg32 (b + 0xC000) = some 0 := by
  have h4 := coreBase_mod_four n
  have hbase : regAt (coreBase n) = .cp n 0 := regAt_core hn (by decide) (Nat.add_zero _).symm
  have hat (r : Nat) (hr : r < 0x10000) : regAt (coreBase n + r) = coreReg n r := regAt_core hn hr rfl
  exact ⟨(State.reg32_cp _ h4 hbase).trans (State.reset_cpStatus n),
    (State.reg32_cp _ (by omega) (hat 0x04 (by decide))).trans (State.reset_cpBank n),
    (State.reg32_mx _ (by omega) (hat 0x4000 (by decide))).trans (State.reset_mxStatus n),
    (State.reg32_mx _ (by omega) (hat 0x4010 (by decide))).trans (State.reset_mxBallast n),
    (State.reg32_ve _ (by omega) (hat 0x8000 (by decide))).trans (State.reset_veStatus n),
    (State.reg32_st _ (by omega) (hat 0xC000 (by decide))).trans (State.reset_stStatus n)⟩

/-- Settles O56: the hub's registers by evaluation; the others by where they lie, every port, tenant, die and core resetting alike. -/
theorem resetValues : Obligations.ResetValues :=
  ⟨State.reset_hub, rfl, State.reset_ports, State.reset_tenants, State.reset_dies, State.reset_cores⟩

/-- Settles O58: reset lists no byte of any memory, and its fields hold codes of their tables. -/
theorem resetInvariant : Obligations.ResetInvariant :=
  ⟨⟨Memory.wf_reset, rfl, rfl⟩, (State.codesOk_iff _).mpr State.reset_legal⟩

end Sys2Proof.Machine

/-!
PROOFS. The channels of a die: unmapped accesses, frames, refresh and temperature readout (R15, R205, R206, R209, R212).
-/

namespace Sys2Proof.Machine

/-! ### One channel of a controller -/

@[simp] theorem McSt.chan_setChan_same (m : McSt) (c : Nat) (x : ChSt) : (m.setChan c x).chan c = x :=
  Sp.get_set_same _ _ _ _

theorem McSt.chan_setChan_other (m : McSt) {c b : Nat} (x : ChSt) (h : b ≠ c) : (m.setChan c x).chan b = m.chan b :=
  Sp.get_set_other _ _ _ h

@[simp] theorem McSt.setChan_errs (m : McSt) (c : Nat) (x : ChSt) : (m.setChan c x).errs = m.errs := rfl

@[simp] theorem State.updMc_mcOf_same (s : State) (d : Nat) (f : McSt → McSt) : (s.updMc d f).mcOf d = f (s.mcOf d) :=
  s.mcOf_setMc_same d _

theorem State.updMc_mcOf_other (s : State) {d e : Nat} (f : McSt → McSt) (h : e ≠ d) : (s.updMc d f).mcOf e = s.mcOf e :=
  s.mcOf_setMc_other _ h

theorem State.updChan_eq (s : State) (d ch : Nat) (f : ChSt → ChSt) : s.updChan d ch f = { s with mc := (s.updChan d ch f).mc } := rfl

@[simp] theorem State.updChan_chan_same (s : State) (d ch : Nat) (f : ChSt → ChSt) :
    ((s.updChan d ch f).mcOf d).chan ch = f ((s.mcOf d).chan ch) := by
  simp [State.updChan]

/-- A channel's update leaves the errors of all cells. -/
@[simp] theorem State.updChan_errAt (s : State) (d ch : Nat) (f : ChSt → ChSt) (a : Nat) : (s.updChan d ch f).errAt a = s.errAt a := by
  unfold State.errAt
  by_cases h : dieOf a = d
  · rw [h, State.updChan, State.updMc_mcOf_same, McSt.setChan_errs]
  · rw [State.updChan, State.updMc_mcOf_other s _ h]

/-! ### The errors that cells show -/

@[simp] theorem State.setErr_errAt_same (s : State) (a : Nat) (e : Ecc) : (s.setErr a e).errAt a = e := by
  rw [State.errAt, State.setErr, State.updMc_mcOf_same]
  exact Sp.get_set_same _ _ _ _

/-- The errors that a frame's upsets bring, one after another. -/
def State.upset (s : State) (l : List (Nat × Ecc)) : State := l.foldl (fun (s : State) u => s.setErr (64 * u.1) u.2) s

theorem State.upset_cons (s : State) (u : Nat × Ecc) (l : List (Nat × Ecc)) : s.upset (u :: l) = (s.setErr (64 * u.1) u.2).upset l := rfl

theorem State.setErr_chan (s : State) (a : Nat) (e : Ecc) (d ch : Nat) : ((s.setErr a e).mcOf d).chan ch = (s.mcOf d).chan ch := by
  unfold State.setErr
  by_cases h : d = dieOf a
  · subst h
    rw [State.updMc_mcOf_same]
    rfl
  · rw [State.updMc_mcOf_other s _ h]

/-- Upsets leave every channel's state. -/
@[simp] theorem State.upset_chan (s : State) (l : List (Nat × Ecc)) (d ch : Nat) :
    ((s.upset l).mcOf d).chan ch = (s.mcOf d).chan ch := by
  induction l generalizing s with
  | nil => rfl
  | cons u l ih => rw [State.upset_cons, ih, State.setErr_chan]

/-- Upsets change the state of the controllers alone. -/
theorem State.upset_eq (s : State) (l : List (Nat × Ecc)) : s.upset l = { s with mc := (s.upset l).mc } := by
  induction l generalizing s with
  | nil => rfl
  | cons u l ih =>
    rw [State.upset_cons]
    exact (ih _).trans rfl

/-! ### The start of a frame (R205) -/

/-- A channel when a frame of it starts. -/
def ChSt.frameStarted (c : ChSt) (granted : Nat) (dece : List Nat) : ChSt :=
  { c with frame := c.frame + 1, left := 64, granted := granted
           mr97 := (List.range 4).map (fun r => min 255 (c.mr97.getD r 0 + dece.getD r 0)) }

/-- The upsets of a frame report that fall on a channel of a die. -/
def FrameRep.upsetsOf (f : FrameRep) (d : Nat) : List (Nat × Ecc) :=
  f.upsets.filter (fun u => dieOf (64 * u.1) == d && chanOf (64 * u.1) == f.ch)

theorem exec_frameStart_ready {s : State} {d : Nat} (f : FrameRep) (h : (s.mcOf d).ready = true) :
    exec (.frameStart d f) s =
      .next ((s.upset (f.upsetsOf d)).updChan d f.ch (fun c => c.frameStarted (s.grantsNow d) f.dece)) := by
  change execFrameStart d f s = _
  rw [execFrameStart, if_pos h]
  rfl

theorem exec_frameStart_notReady {s : State} {d : Nat} (f : FrameRep) (h : (s.mcOf d).ready = false) :
    exec (.frameStart d f) s = .next s := by
  change execFrameStart d f s = _
  rw [execFrameStart, h]
  rfl

/-- An upset told alone is the error that its cells then show. -/
theorem State.upset_errAt_of_single (s : State) (f : FrameRep) {d b : Nat} {e : Ecc} (h : f.upsets = [(b, e)]) (hd : dieOf (64 * b) = d)
    (hch : chanOf (64 * b) = f.ch) : (s.upset (f.upsetsOf d)).errAt (64 * b) = e := by
  have hmine : f.upsetsOf d = [(b, e)] := by simp [FrameRep.upsetsOf, h, hd, hch]
  rw [hmine]
  exact State.setErr_errAt_same s _ e

/-- A frame start on a channel in service: only the controllers change, the channel starts its frame, and an upset told alone shows. -/
theorem exec_frameStart_chan {s : State} {d : Nat} (f : FrameRep) (h : (s.mcOf d).ready = true) :
    ∃ t, exec (.frameStart d f) s = .next t ∧ t = { s with mc := t.mc } ∧
      (t.mcOf d).chan f.ch = ((s.mcOf d).chan f.ch).frameStarted (s.grantsNow d) f.dece ∧
      ∀ b e, f.upsets = [(b, e)] → dieOf (64 * b) = d → chanOf (64 * b) = f.ch → t.errAt (64 * b) = e := by
  refine ⟨_, exec_frameStart_ready f h, ?_, ?_, fun b e hsingle hd hch => ?_⟩
  · rw [State.updChan_eq, State.upset_eq]
  · rw [State.updChan_chan_same, State.upset_chan]
  · rw [State.updChan_errAt, State.upset_errAt_of_single s f hsingle hd hch]

/-! ### The temperature readout (R209) -/

/-- The readout of one channel. -/
def McSt.readTemps (codes : List (Nat × Bool)) (m : McSt) (ch : Nat) : McSt :=
  m.setChan ch ((m.chan ch).readTemps ((codes.drop (4 * ch)).take 4))

/-- The readout of other channels leaves a channel. -/
theorem McSt.foldl_readTemps_chan_other (codes : List (Nat × Bool)) (l : List Nat) (m : McSt) {ch : Nat} (h : ch ∉ l) :
    (l.foldl (McSt.readTemps codes) m).chan ch = m.chan ch := by
  induction l generalizing m with
  | nil => rfl
  | cons c l ih =>
    rw [List.mem_cons, not_or] at h
    rw [List.foldl_cons, ih _ h.2, McSt.readTemps, McSt.chan_setChan_other _ _ h.1]

/-- A channel named once is read once. -/
theorem McSt.foldl_readTemps_chan (codes : List (Nat × Bool)) (l : List Nat) (m : McSt) {ch : Nat} (h : ch ∈ l) (hl : l.Nodup) :
    (l.foldl (McSt.readTemps codes) m).chan ch = (m.chan ch).readTemps ((codes.drop (4 * ch)).take 4) := by
  induction l generalizing m with
  | nil => simp at h
  | cons c l ih =>
    obtain ⟨hc, hl⟩ := List.nodup_cons.mp hl
    rw [List.foldl_cons]
    rcases List.mem_cons.mp h with rfl | h
    · rw [McSt.foldl_readTemps_chan_other codes l _ hc, McSt.readTemps, McSt.chan_setChan_same]
    · have hne : ch ≠ c := fun e => hc (e ▸ h)
      rw [ih _ h hl, McSt.readTemps, McSt.chan_setChan_other _ _ hne]

theorem exec_modeRegisterReadout_chan (s : State) (d : Nat) (codes : List (Nat × Bool)) {ch : Nat} (h : ch < 32) :
    ∃ t, exec (.modeRegisterReadout d codes) s = .next t ∧ t = { s with mc := t.mc } ∧
      (t.mcOf d).chan ch = ((s.mcOf d).chan ch).readTemps ((codes.drop (4 * ch)).take 4) :=
  ⟨s.updMc d (fun m => (List.range 32).foldl (McSt.readTemps codes) m), rfl, rfl, by
    rw [State.updMc_mcOf_same, McSt.foldl_readTemps_chan codes _ _ (List.mem_range.mpr h) List.nodup_range]⟩

/-- Each rank stores the code that was read for it. -/
theorem ChSt.readTemps_getD (c : ChSt) {codes : List (Nat × Bool)} {ch r : Nat} (hr : r < 4) {x : Nat × Bool}
    (hx : codes[4 * ch + r]? = some x) :
    (c.readTemps ((codes.drop (4 * ch)).take 4)).temp.getD r 0 = x.1 ∧
      (c.readTemps ((codes.drop (4 * ch)).take 4)).mult2.getD r false = x.2 := by
  have hcode : ((codes.drop (4 * ch)).take 4)[r]? = some x := by
    rw [List.getElem?_take_of_lt hr, List.getElem?_drop, hx]
  simp [ChSt.readTemps, List.getD_eq_getElem?_getD, hr, hcode]

/-! ### Accesses outside tier 1 (R15) -/

section
variable (s : State) (who : Who) {a : Nat} (h : isTier1 a = false)
include h

theorem exec_tier1Read_unmapped (ecc : Ecc) :
    exec (.tier1Read who a ecc) s = .next { s.logUnmapped a who false with resp := .unmapped } := by
  change execTier1Read who a ecc s = _
  rw [execTier1Read, h]
  rfl

theorem exec_tier1Write_unmapped (e : Entry) (p : Bool) :
    exec (.tier1Write who a e p) s = .next { s.logUnmapped a who true with resp := .unmapped } := by
  change execTier1Write who a e p s = _
  rw [execTier1Write, h]
  rfl

theorem exec_mergedWrite_unmapped (l : List Byte) (ecc : Ecc) :
    exec (.mergedWrite who a l ecc) s = .next { s.logUnmapped a who true with resp := .unmapped } := by
  change execMergedWrite who a l ecc s = _
  rw [execMergedWrite, h]
  rfl

end

/-! ### Refresh (R212) -/

theorem exec_refreshManagement_due {s : State} {d ch rank bank : Nat}
    (h : Config.rfmThreshold ≤ Sp.get 0 ((s.mcOf d).chan ch).raa (rank * 16 + bank)) :
    exec (.refreshManagement d ch rank bank) s =
      .next (s.updChan d ch (fun c => { c with raa := Sp.set 0 c.raa (rank * 16 + bank) 0 })) := by
  change execRefreshManagement d ch rank bank s = _
  rw [execRefreshManagement, if_pos h]

theorem exec_refreshManagement_notDue {s : State} {d ch rank bank : Nat}
    (h : Sp.get 0 ((s.mcOf d).chan ch).raa (rank * 16 + bank) < Config.rfmThreshold) :
    exec (.refreshManagement d ch rank bank) s = .next s := by
  change execRefreshManagement d ch rank bank s = _
  rw [execRefreshManagement, if_neg (by omega)]

/-- Settles O26: every step here changes one channel of one die; the upsets of a frame touch the errors of cells alone, and a readout
goes over the 32 channels, each once. -/
theorem channelSteps : Obligations.ChannelSteps := by
  refine ⟨fun s who a ecc e p l h => ⟨exec_tier1Read_unmapped s who h ecc, exec_tier1Write_unmapped s who h e p,
    exec_mergedWrite_unmapped s who h l ecc⟩, fun s d ch rank bank codes upsets dece => ⟨fun hready => ?_, fun hready =>
    exec_frameStart_notReady _ hready, rfl, exec_refreshManagement_due, exec_refreshManagement_notDue, fun hch => ?_⟩⟩
  · obtain ⟨t, ht, hframe, hchan, herr⟩ := exec_frameStart_chan ⟨ch, upsets, dece⟩ hready
    refine ⟨t, ht, hframe, ?_⟩
    change (t.mcOf d).chan ch = _ at hchan
    rw [hchan]
    exact ⟨rfl, rfl, rfl, rfl, rfl, herr⟩
  · obtain ⟨t, ht, hframe, hchan⟩ := exec_modeRegisterReadout_chan s d codes hch
    refine ⟨t, ht, hframe, fun r hr x hx => ?_⟩
    rw [hchan]
    exact ChSt.readTemps_getD _ hr hx

end Sys2Proof.Machine

/-!
PROOFS. BEAT_START (R26, R88, R91, R460, R461): the overruns counted, the beat timer, the accesses that waited, and the cores at the
beat's start.
-/

namespace Sys2Proof.Machine

/-- A fold of steps that each keep what `p` shows keeps it. -/
theorem foldl_keeps {σ α β : Type} {p : σ → β} {f : σ → α → σ} (hf : ∀ s x, p (f s x) = p s) (l : List α) (s : σ) :
    p (l.foldl f s) = p s := by
  induction l generalizing s with
  | nil => rfl
  | cons x l ih => rw [List.foldl_cons, ih, hf]

/-- What `p` shows of a table's entries stands where every entry is changed by a `g` that keeps it. -/
theorem get_map_keeps {α β : Type} {p : α → β} {g : α → α} (hg : ∀ x, p (g x) = p x) (d : α) (t : Sp α) (k : Nat) :
    p (Sp.get d (t.map (fun e => (e.1, g e.2))) k) = p (Sp.get d t k) := by
  induction t with
  | nil => rfl
  | cons e t ih =>
    rw [List.map_cons, Sp.get, Sp.get]
    split
    · exact hg e.2
    · exact ih

/-! ### What serving waiting accesses leaves -/

/-- What a beat shows of a state: device time, the beat timer, the watching of modules, and each core's count of overruns. -/
structure BeatView where
  now : Nat
  beats : BeatSt
  watch : WatchSt
  overruns : Nat → W32

def State.beatView (s : State) : BeatView := ⟨s.now, s.beats, s.watch, fun n => (s.core n).overruns⟩

/-- These equations, and those of the single writes below, are proved `by rfl`, so that `simp` uses them as equations. -/
@[simp] theorem State.beatView_mk (pending free resp hostOut linkOut now aligned stopped sealRun beats cores mem poison log image tenants
    pages hl watched watchOut jobs mc frames t2 tiers nor retired pm guest tub lists nextList up cz coll ports gl start dd tap watch
    split) :
    (State.mk pending free resp hostOut linkOut now aligned stopped sealRun beats cores mem poison log image tenants pages hl watched
      watchOut jobs mc frames t2 tiers nor retired pm guest tub lists nextList up cz coll ports gl start dd tap watch split).beatView =
      ⟨now, beats, watch, fun n => (Sp.get CoreSt.reset cores n).overruns⟩ := by rfl

@[simp] theorem State.beatView_eta (s : State) :
    (⟨s.now, s.beats, s.watch, fun n => (Sp.get CoreSt.reset s.cores n).overruns⟩ : BeatView) = s.beatView := by rfl

@[simp] theorem State.beatView_ite (c : Prop) [Decidable c] (s t : State) :
    (if c then s else t).beatView = if c then s.beatView else t.beatView := apply_ite State.beatView c s t

theorem State.beatView_foldl {α : Type} {f : State → α → State} (hf : ∀ s x, (f s x).beatView = s.beatView) (l : List α)
    (s : State) : (l.foldl f s).beatView = s.beatView := foldl_keeps hf l s

@[simp] theorem State.setTenant_beatView (s : State) (t : Nat) (x : Tenant) : (s.setTenant t x).beatView = s.beatView := by rfl
@[simp] theorem State.updTenant_beatView (s : State) (t : Nat) (f : Tenant → Tenant) : (s.updTenant t f).beatView = s.beatView := by rfl
@[simp] theorem State.setPoison_beatView (s : State) (a : Nat) (p : Bool) : (s.setPoison a p).beatView = s.beatView := by rfl
@[simp] theorem State.updMc_beatView (s : State) (d : Nat) (f : McSt → McSt) : (s.updMc d f).beatView = s.beatView := by rfl
@[simp] theorem State.updChan_beatView (s : State) (d ch : Nat) (f : ChSt → ChSt) : (s.updChan d ch f).beatView = s.beatView := by rfl
@[simp] theorem State.setFrame_beatView (s : State) (f : Nat) (x : Frame) : (s.setFrame f x).beatView = s.beatView := by rfl
@[simp] theorem State.setPage_beatView (s : State) (k : Nat) (e : PageEnt) : (s.setPage k e).beatView = s.beatView := by rfl
@[simp] theorem State.setT2_beatView (s : State) (k : Nat) (t : T2Tensor) : (s.setT2 k t).beatView = s.beatView := by rfl
@[simp] theorem State.access_beatView (s : State) (a slots : Nat) : (s.access a slots).beatView = s.beatView := by rfl
@[simp] theorem State.newCode_beatView (s : State) (a : Nat) (p : Bool) : (s.newCode a p).beatView = s.beatView := by rfl
@[simp] theorem State.countPoisonRead_beatView (s : State) (a : Nat) : (s.countPoisonRead a).beatView = s.beatView := by rfl

@[simp] theorem State.logAs_beatView (s : State) (c i e v : Nat) (t : Option Nat) (a : List (Nat × Nat)) :
    (s.logAs c i e v t a).beatView = s.beatView := by rw [State.logAs_eq]; rfl

/-- A core when a page leaves its translation cache. -/
def CoreSt.uncache (key : Nat) (c : CoreSt) : CoreSt := { c with st := { c.st with tcache := c.st.tcache.filter (· != key) } }

@[simp] theorem State.invalidate_beatView (s : State) (key : Nat) : (s.invalidate key).beatView = s.beatView :=
  congrArg (BeatView.mk s.now s.beats s.watch) (funext (get_map_keeps (g := CoreSt.uncache key) (p := CoreSt.overruns) (fun _ => rfl) _ _))

/-! #### Posts toward the host -/

@[simp] theorem State.flushQueue_beatView (s : State) (tn qn : Nat) : (s.flushQueue tn qn).beatView = s.beatView := by
  simp [State.flushQueue]

@[simp] theorem State.pushShadow_beatView (s : State) (tn qn : Nat) (e : W32 → Entry) : (s.pushShadow tn qn e).beatView = s.beatView := by
  simp [State.pushShadow]

@[simp] theorem State.drainWaiting_beatView (s : State) (tn fuel : Nat) : (s.drainWaiting tn fuel).beatView = s.beatView := by
  induction fuel generalizing s with
  | zero => rfl
  | succ fuel ih =>
    simp only [State.drainWaiting]
    split <;> simp [ih]

@[simp] theorem State.postEvent_beatView (s : State) (tn op : Nat) (detail : List (Nat × Nat × Nat)) :
    (s.postEvent tn op detail).beatView = s.beatView := by simp [State.postEvent, State.post1]

/-! #### Pages, frames and copies -/

@[simp] theorem State.freeFrames_beatView (s : State) (tn : Nat) (sel : Nat × Nat × FrameUse → Bool) :
    (s.freeFrames tn sel).beatView = s.beatView := by simp [State.freeFrames, State.reportQuota]

@[simp] theorem State.mapBig_beatView (s : State) (tenant va : Nat) (moving : Bool) (f : Nat → PageTo) (l : List Nat) :
    (s.mapBig tenant va moving f l).beatView = s.beatView := by
  induction l generalizing s with
  | nil => rfl
  | cons i l ih => simp [State.mapBig, ih]

@[simp] theorem State.dropCopy_beatView (s : State) (key : Nat) : (s.dropCopy key).beatView = s.beatView := by simp [State.dropCopy]

@[simp] theorem State.stopPromotion_beatView (s : State) : s.stopPromotion.beatView = s.beatView := by
  unfold State.stopPromotion
  split <;> simp

@[simp] theorem State.updMaps_beatView (s : State) (f : Nat) (g : PageEnt → PageEnt) : (s.updMaps f g).beatView = s.beatView := by
  simp [State.updMaps, State.beatView_foldl]

/-! #### Errors met -/

@[simp] theorem State.moduleFault_beatView (s : State) : s.moduleFault.beatView = s.beatView := by
  unfold State.moduleFault
  split <;> simp

@[simp] theorem State.correctable_beatView (s : State) (a : Nat) : (s.correctable a).beatView = s.beatView := by simp [State.correctable]

@[simp] theorem State.retireEnd_beatView (s : State) (d state reason page : Nat) :
    (s.retireEnd d state reason page).beatView = s.beatView := by simp [State.retireEnd, State.logRetire]

@[simp] theorem State.stopMove_beatView (s : State) (d f : Nat) : (s.stopMove d f).beatView = s.beatView := by
  simp only [State.stopMove]
  split <;> simp

@[simp] theorem State.quarantine_beatView (s : State) (f cause : Nat) : (s.quarantine f cause).beatView = s.beatView := by
  simp [State.quarantine, State.beatView_foldl]

@[simp] theorem State.afterQuarantine_beatView (s : State) (f cause : Nat) : (s.afterQuarantine f cause).beatView = s.beatView := by
  simp only [State.afterQuarantine]
  repeat' split
  all_goals simp

@[simp] theorem State.uncorrectable_beatView (s : State) (a cause : Nat) : (s.uncorrectable a cause).beatView = s.beatView := by
  simp [State.uncorrectable]

@[simp] theorem State.noteBurst_beatView (s : State) (b cause : Nat) : (s.noteBurst b cause).beatView = s.beatView := by
  simp only [State.noteBurst]
  repeat' split
  all_goals simp

/-! #### Reads and writes served -/

@[simp] theorem State.noteWrite_beatView (s : State) (a : Nat) (bs : List Byte) (p : Bool) :
    (s.noteWrite a bs p).beatView = s.beatView := by
  simp only [State.noteWrite]
  repeat' split
  all_goals simp

@[simp] theorem State.wrPiece_beatView (s : State) (a : Nat) (bs : List Byte) (p : Bool) : (s.wrPiece a bs p).beatView = s.beatView := by
  simp [State.wrPiece]

@[simp] theorem State.burstRead_beatView (s : State) (a cause : Nat) (ecc : Ecc) :
    (s.burstRead a cause ecc).1.beatView = s.beatView := by
  simp only [State.burstRead]
  repeat' split
  all_goals simp

@[simp] theorem State.serveAcc_beatView (s : State) (q : MemAcc) : (s.serveAcc q).1.beatView = s.beatView := by
  simp only [State.serveAcc]
  repeat' split
  all_goals simp

@[simp] theorem State.serveDie_beatView (s : State) (d : Nat) : (s.serveDie d).beatView = s.beatView := by
  have hfst {α β : Type} {f : State × β → α → State × β} (hf : ∀ a x, (f a x).1.beatView = a.1.beatView) (l : List α)
      (a : State × β) : (l.foldl f a).1.beatView = a.1.beatView := foldl_keeps (p := fun a : State × β => a.1.beatView) hf l a
  simp [State.serveDie, hfst, apply_ite Prod.fst]

@[simp] theorem State.serveWaiting_beatView (s : State) : s.serveWaiting.beatView = s.beatView := by
  simp [State.serveWaiting, State.beatView_foldl]

/-- Where no access waits, none is served. -/
theorem State.serveWaiting_of_none {s : State} (h : ∀ d, d < 4 → (s.mcOf d).waiting = []) : s.serveWaiting = s := by
  simp [State.serveWaiting, List.range_succ, h]

/-! ### Steps of the cores in turn -/

/-- States that differ at most in their cores and their log. -/
def State.SameButCores (s t : State) : Prop := t = { s with cores := t.cores, log := t.log }

theorem State.SameButCores.trans {s t u : State} (h : s.SameButCores t) (k : t.SameButCores u) : s.SameButCores u := by
  unfold State.SameButCores at h k ⊢
  rw [k, h]

section
variable {s t : State} (h : s.SameButCores t)
include h

theorem State.SameButCores.now : t.now = s.now := by rw [h]
theorem State.SameButCores.stopped : t.stopped = s.stopped := by rw [h]
theorem State.SameButCores.beats : t.beats = s.beats := by rw [h]
theorem State.SameButCores.mem : t.mem = s.mem := by rw [h]
theorem State.SameButCores.mc : t.mc = s.mc := by rw [h]
theorem State.SameButCores.watch : t.watch = s.watch := by rw [h]

end

theorem State.sameButCores_foldl {α : Type} {f : State → α → State} (hf : ∀ (s : State) x, s.SameButCores (f s x)) (l : List α)
    (s : State) : s.SameButCores (l.foldl f s) := by
  induction l generalizing s with
  | nil => rfl
  | cons x l ih => exact (hf s x).trans (ih _)

section
variable {f : State → Nat → State} (hf : ∀ (s : State) m, s.SameButCores (f s m))
  (hother : ∀ (s : State) {m n}, n ≠ m → (f s m).core n = s.core n)
include hother

/-- Steps of other cores leave a core. -/
theorem State.foldl_core_other {l : List Nat} {n : Nat} (hn : n ∉ l) (s : State) : (l.foldl f s).core n = s.core n := by
  induction l generalizing s with
  | nil => rfl
  | cons m l ih =>
    rw [List.mem_cons, not_or] at hn
    rw [List.foldl_cons, ih hn.2, hother s hn.1]

include hf in
/-- Where every core takes its step in turn, each is as its own step leaves it, taken with the core and the beat timer still as they
were. -/
theorem State.foldl_core {l : List Nat} (hl : l.Nodup) {n : Nat} (hn : n ∈ l) (s : State) :
    ∃ u : State, u.core n = s.core n ∧ u.beats = s.beats ∧ (l.foldl f s).core n = (f u n).core n := by
  induction l generalizing s with
  | nil => simp at hn
  | cons m l ih =>
    obtain ⟨hm, hl⟩ := List.nodup_cons.mp hl
    rw [List.foldl_cons]
    rcases eq_or_ne n m with rfl | h
    · exact ⟨s, rfl, rfl, State.foldl_core_other hother hm _⟩
    · obtain ⟨u, hcore, hbeats, hu⟩ := ih hl ((List.mem_cons.mp hn).resolve_left h) (f s m)
      exact ⟨u, hcore.trans (hother s h), hbeats.trans (hf s m).beats, hu⟩

end

/-! ### Overruns (R91) -/

/-- A core when an overrun of context `k` in beat `b` is counted: the program begins no tick in that beat. -/
def CoreSt.countOverrun (c : CoreSt) (k b : Nat) : CoreSt :=
  { c.setCtx k { c.ctx k with tickBeat := b + 1 } with overruns := satAdd32 c.overruns 1 }

theorem State.overrun_of_excluded {s : State} (n k : Nat) {b : Nat} (h : b % 2 ^ s.stretchOf b ≠ 0) : s.overrun n k b = s := if_pos h

theorem State.overrun_of_included {s : State} (n k : Nat) {b : Nat} (h : b % 2 ^ s.stretchOf b = 0) :
    s.overrun n k b = { s.updCore n (fun c => c.countOverrun k b) with log := (s.overrun n k b).log } := by
  simp only [State.overrun, h, ne_eq, not_true_eq_false, if_false]
  rw [State.logAs_eq]
  rfl

theorem State.overrun_sameButCores (s : State) (n k b : Nat) : s.SameButCores (s.overrun n k b) := by
  by_cases h : b % 2 ^ s.stretchOf b = 0
  · rw [State.overrun_of_included n k h]
    rfl
  · rw [State.overrun_of_excluded n k h]
    rfl

theorem State.overrun_core_other (s : State) {m n : Nat} (k b : Nat) (hm : m ≠ n) : (s.overrun n k b).core m = s.core m := by
  by_cases h : b % 2 ^ s.stretchOf b = 0
  · rw [State.overrun_of_included n k h]
    exact s.core_updCore_other (fun c => c.countOverrun k b) hm
  · rw [State.overrun_of_excluded n k h]

theorem State.overrunTo_sameButCores (s : State) (n k b0 b1 : Nat) : s.SameButCores (s.overrunTo n k b0 b1) := by
  unfold State.overrunTo
  split
  · exact State.sameButCores_foldl (fun s _ => s.overrun_sameButCores n k _) _ s
  · rfl

theorem State.overrunTo_core_other (s : State) {m n : Nat} (k b0 b1 : Nat) (hm : m ≠ n) :
    (s.overrunTo n k b0 b1).core m = s.core m := by
  unfold State.overrunTo
  split
  · exact foldl_keeps (p := fun s : State => s.core m) (fun s _ => s.overrun_core_other k _ hm) _ s
  · rfl

/-- Up to the next beat there is one record to write, of a scheduled program. -/
theorem State.overrunTo_next {s : State} {n k : Nat} (h : (firstSlot (s.core n).slots (s.ctx n k).prog.id).isSome = true) (b : Nat) :
    s.overrunTo n k b (b + 1) = s.overrun n k (b + 1) := by
  simp [State.overrunTo, h]

theorem State.overruns_sameButCores (s : State) (b n : Nat) : s.SameButCores (s.overruns b n) :=
  State.sameButCores_foldl (fun s _ => s.overrunTo_sameButCores n _ _ b) _ s

theorem State.overruns_core_other (s : State) (b : Nat) {m n : Nat} (hm : m ≠ n) : (s.overruns b n).core m = s.core m :=
  foldl_keeps (p := fun s : State => s.core m) (fun s _ => s.overrunTo_core_other _ _ b hm) _ s

/-- With one context in its tick, that one alone can overrun. -/
theorem State.overruns_of_single {s : State} {n k : Nat} (h : ((s.core n).ctxs.filter (fun x => x.2.inTick)).map (·.1) = [k]) (b : Nat) :
    s.overruns b n = s.overrunTo n k s.beats.beat b := by
  obtain ⟨x, hx, rfl⟩ := List.map_eq_singleton_iff.mp h
  rw [State.overruns, hx]
  rfl

/-- A scheduled program in its tick when the next beat begins is counted once, in a beat that stretching does not exclude. -/
theorem State.overruns_counts {s : State} {n k : Nat} (hk : ((s.core n).ctxs.filter (fun x => x.2.inTick)).map (·.1) = [k])
    (hslot : (firstSlot (s.core n).slots (s.ctx n k).prog.id).isSome = true)
    (hin : (s.beats.beat + 1) % 2 ^ s.stretchOf (s.beats.beat + 1) = 0) :
    ((s.overruns (s.beats.beat + 1) n).core n).overruns = satAdd32 (s.core n).overruns 1 := by
  rw [State.overruns_of_single hk, State.overrunTo_next hslot, State.overrun_of_included n k hin]
  exact congrArg CoreSt.overruns (s.core_updCore_same n (fun c => c.countOverrun k (s.beats.beat + 1)))

/-- The overruns of every core up to beat `b`, which begins. -/
def State.allOverruns (s : State) (b : Nat) : State := (List.range 64).foldl (fun (s : State) n => s.overruns b n) s

theorem State.allOverruns_sameButCores (s : State) (b : Nat) : s.SameButCores (s.allOverruns b) :=
  State.sameButCores_foldl (fun s n => s.overruns_sameButCores b n) _ s

/-- Each core counts its own. -/
theorem State.allOverruns_core (s : State) (b : Nat) {n : Nat} (hn : n < 64) :
    ∃ u : State, u.core n = s.core n ∧ u.beats = s.beats ∧ (s.allOverruns b).core n = (u.overruns b n).core n :=
  State.foldl_core (fun s n => s.overruns_sameButCores b n) (fun s => s.overruns_core_other b) List.nodup_range (List.mem_range.mpr hn) s

theorem State.allOverruns_counts {s : State} {n k : Nat} (hn : n < 64)
    (hk : ((s.core n).ctxs.filter (fun x => x.2.inTick)).map (·.1) = [k])
    (hslot : (firstSlot (s.core n).slots (s.ctx n k).prog.id).isSome = true)
    (hin : (s.beats.beat + 1) % 2 ^ s.stretchOf (s.beats.beat + 1) = 0) :
    ((s.allOverruns (s.beats.beat + 1)).core n).overruns = satAdd32 (s.core n).overruns 1 := by
  obtain ⟨u, hcore, hbeats, hu⟩ := s.allOverruns_core (s.beats.beat + 1) hn
  rw [State.ctx] at hslot
  rw [State.stretchOf] at hin
  rw [← hcore] at hk hslot
  rw [← hbeats] at hin
  rw [hu, ← hcore, ← hbeats, State.overruns_counts hk hslot hin]

/-! ### The cores at a beat's start (R84, R88) -/

theorem CoreSt.bindProg_overruns (c : CoreSt) (p : Prog) : (c.bindProg p).overruns = c.overruns := by
  unfold CoreSt.bindProg
  dsimp only
  repeat' split
  all_goals rfl

theorem CoreSt.takeSwitch_overruns (c : CoreSt) : c.takeSwitch.overruns = c.overruns := by
  unfold CoreSt.takeSwitch
  split
  · exact foldl_keeps CoreSt.bindProg_overruns _ _
  · rfl

theorem State.coreBeat_sameButCores (s : State) (n : Nat) : s.SameButCores (s.coreBeat n) := rfl

theorem State.coreBeat_core (s : State) (n : Nat) :
    ((s.coreBeat n).core n).slot = 0 ∧ ((s.coreBeat n).core n).overruns = (s.core n).overruns := by
  rw [State.coreBeat, State.core_updCore_same]
  exact ⟨rfl, (s.core n).takeSwitch_overruns⟩

/-- Every core at the beat's start. -/
def State.allCoreBeats (s : State) : State := (List.range 64).foldl (fun (s : State) n => s.coreBeat n) s

theorem State.allCoreBeats_sameButCores (s : State) : s.SameButCores s.allCoreBeats :=
  State.sameButCores_foldl State.coreBeat_sameButCores _ s

/-- A core at the beat's start: its slot table begins again, and its overruns stand. -/
theorem State.allCoreBeats_core (s : State) {n : Nat} (hn : n < 64) :
    (s.allCoreBeats.core n).slot = 0 ∧ (s.allCoreBeats.core n).overruns = (s.core n).overruns := by
  obtain ⟨u, hcore, -, hu⟩ := State.foldl_core State.coreBeat_sameButCores (fun s => s.core_updCore_other _) List.nodup_range
    (List.mem_range.mpr hn) s
  rw [State.allCoreBeats, hu, ← hcore]
  exact u.coreBeat_core n

/-! ### The beat timer (R460, R461) -/

theorem excludedIn_self (st a : Nat) : excludedIn st a a = 0 := by simp [excludedIn]

/-- One beat on, a stretch factor excludes the beat or does not. -/
theorem excludedIn_next (st a : Nat) : excludedIn st a (a + 1) = if (a + 1) % 2 ^ st = 0 then 0 else 1 := by
  simp only [excludedIn, Nat.succ_div, Nat.dvd_iff_mod_eq_zero]
  split <;> omega

theorem State.beatNumber_excluded (s : State) :
    (s.beatNumber (s.beats.beat + 1)).beats.excluded =
      if (s.beats.beat + 1) % 2 ^ s.stretchOf (s.beats.beat + 1) = 0 then s.beats.excluded else s.beats.excluded + 1 := by
  set a := s.beats.beat with ha
  have hcount : (s.beatNumber (a + 1)).beats.excluded =
      s.beats.excluded + BitVec.ofNat 64 (excludedIn (s.stretchOf (a + 1)) a (a + 1)) := by
    by_cases h : a / 8 < (a + 1) / 8
    · have hm : min (a + 1) (a / 8 * 8 + 7) = a := by omega
      simp [State.beatNumber, ← ha, State.stretchOf, h, hm, excludedIn_self]
    · have hm : min (a + 1) (a / 8 * 8 + 7) = a + 1 := by omega
      simp [State.beatNumber, ← ha, State.stretchOf, h, hm, excludedIn_self]
  rw [hcount, excludedIn_next]
  split <;> simp

/-! ### BEAT_START -/

/-- Beat `b` once the module has entered it: overruns counted, timer set, what waited served, and every core at the beat's start. -/
def State.enterBeat (s : State) (b : Nat) : State := ((s.allOverruns b).beatNumber b).serveWaiting.allCoreBeats

/-- The timer at beat `b` goes by the timer and the time before. -/
theorem State.SameButCores.beatNumber {s t : State} (h : s.SameButCores t) (b : Nat) : (s.beatNumber b).SameButCores (t.beatNumber b) := by
  rw [h]
  rfl

@[simp] theorem State.beatNumber_stopped (s : State) (b : Nat) : (s.beatNumber b).stopped = s.stopped := rfl
@[simp] theorem State.beatNumber_core (s : State) (b n : Nat) : (s.beatNumber b).core n = s.core n := rfl

theorem State.serveWaiting_overruns (s : State) (n : Nat) : (s.serveWaiting.core n).overruns = (s.core n).overruns :=
  congrFun (congrArg BeatView.overruns s.serveWaiting_beatView) n

theorem State.enterBeat_clock (s : State) (b : Nat) :
    (s.enterBeat b).now = max s.now (b * s.beatLen) ∧ (s.enterBeat b).beats = (s.beatNumber b).beats ∧
      (s.enterBeat b).watch = s.watch := by
  have hover := (s.allOverruns_sameButCores b).beatNumber b
  have hcores := ((s.allOverruns b).beatNumber b).serveWaiting.allCoreBeats_sameButCores
  obtain ⟨hnow, hbeats, hwatch, -⟩ := BeatView.mk.inj ((s.allOverruns b).beatNumber b).serveWaiting_beatView
  exact ⟨hcores.now.trans (hnow.trans hover.now), hcores.beats.trans (hbeats.trans hover.beats),
    hcores.watch.trans (hwatch.trans hover.watch)⟩

theorem State.enterBeat_core (s : State) (b : Nat) {n : Nat} (hn : n < 64) :
    ((s.enterBeat b).core n).slot = 0 ∧ ((s.enterBeat b).core n).overruns = ((s.allOverruns b).core n).overruns := by
  have hserved := ((s.allOverruns b).beatNumber b).serveWaiting_overruns n
  obtain ⟨hslot, hover⟩ := ((s.allOverruns b).beatNumber b).serveWaiting.allCoreBeats_core hn
  rw [State.beatNumber_core] at hserved
  exact ⟨hslot, hover.trans hserved⟩

/-- Where no access waits for a channel, entering a beat leaves memory. -/
theorem State.enterBeat_mem {s : State} (b : Nat) (h : ∀ d, d < 4 → (s.mcOf d).waiting = []) : (s.enterBeat b).mem = s.mem := by
  have hover := (s.allOverruns_sameButCores b).beatNumber b
  have hnone : ∀ d, d < 4 → (((s.allOverruns b).beatNumber b).mcOf d).waiting = [] := by
    simp only [State.mcOf, hover.mc]
    exact h
  rw [State.enterBeat, State.serveWaiting_of_none hnone, (State.allCoreBeats_sameButCores _).mem, hover.mem]
  rfl

theorem State.enterBeat_isMaint (s : State) (b k : Nat) : (s.enterBeat b).isMaint k = s.isMaint k := by
  rw [State.isMaint, State.maintPeriod, (s.enterBeat_clock b).2.1]
  rfl

theorem State.endTakeover_of_none {s : State} (h : s.watch.takeover = none) : s.endTakeover = s := by
  rw [State.endTakeover, h]

theorem State.planBeat_of_none {s : State} (h : s.watch.planned = none) : s.planBeat = s := by
  simp [State.planBeat, State.planReady, h]

/-- BEAT_START into a beat that is no maintenance beat, of a module out of reset that goes on, and in no takeover. -/
theorem exec_beatStart {s : State} (chans : List ChanVisit) (links : List LinkVisit) (sensors : List Nat) {b : Nat}
    (hb : b = max (s.beats.beat + 1) (s.now / s.beatLen)) (hpwr : s.start.pwrGood = true) (hstop : s.endBeat.stopped = false)
    (hmaint : s.endBeat.isMaint b = false) (htake : s.endBeat.watch.takeover = none) (hplan : s.endBeat.watch.planned = none) :
    exec (.beatStart chans links sensors) s = .next (s.endBeat.enterBeat b) := by
  have hgoes : ((s.endBeat.allOverruns b).beatNumber b).stopped = false := by
    rw [State.beatNumber_stopped, (s.endBeat.allOverruns_sameButCores b).stopped, hstop]
  rw [← (s.endBeat.enterBeat_clock b).2.2] at htake hplan
  rw [← s.endBeat.enterBeat_isMaint b] at hmaint
  have htakeover := State.endTakeover_of_none htake
  have hplanned := State.planBeat_of_none hplan
  change execBeatStart chans links sensors s = _
  simp only [State.enterBeat, State.allOverruns, State.allCoreBeats] at hgoes hmaint htakeover hplanned ⊢
  simp only [execBeatStart, hpwr, ← hb, hstop, hgoes, hmaint, htakeover, hplanned, Bool.true_eq_false, Bool.false_eq_true, if_false]

/-- Settles O12: of the steps that enter a beat, the overruns and the cores' start of beat touch cores and log alone, and what is served
changes neither timer nor counts. The beat entered, the next one or the one that device time has reached, is the model's (assumption log
entry 51). -/
theorem beatStarts : Obligations.BeatStarts := by
  intro s chans links sensors hpwr
  dsimp only
  intro hstop hmaint htake hplan
  have hexec := exec_beatStart chans links sensors rfl hpwr hstop hmaint htake hplan
  generalize s.endBeat = u at *
  generalize max (s.beats.beat + 1) (s.now / s.beatLen) = b at *
  obtain ⟨hnow, hbeats, -⟩ := u.enterBeat_clock b
  refine ⟨u.enterBeat b, hexec, ?_, hnow, ?_, fun hnext => ?_, fun n hn => (u.enterBeat_core b hn).1, u.enterBeat_mem b, ?_,
    fun n k hn hk hnext hslot hin => ?_⟩
  · rw [hbeats]; rfl
  · rw [hbeats]; rfl
  · rw [hbeats, hnext]
    exact u.beatNumber_excluded
  · rw [hbeats]; rfl
  · rw [(u.enterBeat_core b hn).2]
    rw [hbeats] at hin
    rw [hnext] at hin ⊢
    exact State.allOverruns_counts hn hk hslot hin

end Sys2Proof.Machine

/-!
PROOFS. An instruction that issues to an idle engine (R72, R76): the engine takes it in the same step.
-/

namespace Sys2Proof.Machine

/-! ### What an issued instruction finds (R72, R81) -/

/-- The record of a corrected program word is the log's alone. -/
theorem State.issued_eq (s : State) (n k : Nat) (ecc : Ecc) : s.issued n k ecc = { s with log := (s.issued n k ecc).log } := by
  cases ecc with
  | corrected => exact s.logAs_eq _ _ _ _ _ _
  | clean => rfl
  | uncorrectable => rfl

@[simp] theorem State.issued_core (s : State) (n k : Nat) (ecc : Ecc) (m : Nat) : (s.issued n k ecc).core m = s.core m := by
  rw [State.issued_eq]
  rfl

@[simp] theorem State.issued_ctx (s : State) (n k : Nat) (ecc : Ecc) (m j : Nat) : (s.issued n k ecc).ctx m j = s.ctx m j := by
  simp only [State.ctx, State.issued_core]

@[simp] theorem State.issued_mem (s : State) (n k : Nat) (ecc : Ecc) : (s.issued n k ecc).mem = s.mem := by
  rw [State.issued_eq]

theorem State.core_setCtx_same (s : State) (n k : Nat) (x : Ctx) : (s.setCtx n k x).core n = (s.core n).setCtx k x :=
  s.core_setCore_same n _

theorem State.core_setCtx_other (s : State) {m n : Nat} (k : Nat) (x : Ctx) (h : m ≠ n) : (s.setCtx n k x).core m = s.core m :=
  s.core_setCore_other _ h

theorem State.taken_ctx (s : State) (n k : Nat) (ecc : Ecc) : (s.taken n k ecc).ctx n k = (s.ctx n k).next := by
  simp [State.taken]

theorem State.taken_pc (s : State) (n k : Nat) (ecc : Ecc) : ((s.taken n k ecc).ctx n k).pc = (s.ctx n k).pc + 1 := by
  rw [State.taken_ctx, Ctx.next]

theorem State.taken_regs (s : State) (n k : Nat) (ecc : Ecc) : ((s.taken n k ecc).ctx n k).regs = (s.ctx n k).regs := by
  rw [State.taken_ctx, Ctx.next]

theorem State.taken_core_same (s : State) (n k : Nat) (ecc : Ecc) :
    (s.taken n k ecc).core n = (s.core n).setCtx k (s.ctx n k).next := by
  simp [State.taken, State.updCtx, State.core_setCtx_same]

theorem State.taken_core_other (s : State) {m n : Nat} (k : Nat) (ecc : Ecc) (h : m ≠ n) :
    (s.taken n k ecc).core m = s.core m := by
  simp [State.taken, State.updCtx, State.core_setCtx_other _ _ _ h]

@[simp] theorem State.taken_mem (s : State) (n k : Nat) (ecc : Ecc) : (s.taken n k ecc).mem = s.mem := by
  simp [State.taken]

/-! ### The step of the sequencer (R72) -/

/-- An instruction that issues is what the fetch gives. -/
theorem State.Issues.fetch {s : State} {n k : Nat} {w : IWord} {ecc : Ecc} (h : s.Issues n k w ecc) : s.fetch n ecc = .word k w := by
  obtain ⟨hrun, hgo, htick, hfree, hin, hread, hword, -, -⟩ := h
  simp only [State.ctx] at htick hfree hin hword
  cases ecc with
  | uncorrectable => exact absurd rfl hread
  | clean => simp [State.fetch, hrun, hgo, htick, hfree, hword, Nat.not_le.mpr hin]
  | corrected => simp [State.fetch, hrun, hgo, htick, hfree, hword, Nat.not_le.mpr hin]

theorem State.Issues.seqStep {s : State} {n k : Nat} {w : IWord} {ecc : Ecc} (h : s.Issues n k w ecc)
    (eff : State → Nat → Nat → IWord → State) : s.seqStep n ecc w.cls w.opc eff = eff (s.issued n k ecc) n k w := by
  simp [State.seqStep, h.fetch, h.legal, State.issued]

/-! ### The step of an engine (R72, R76) -/

/-- An instruction that goes through an empty queue leaves the context at the next one. -/
theorem Ctx.popQueue_setQueue {x : Ctx} {e : Eng} (h : x.queue e = []) (w : IWord) (pc : Nat) :
    Ctx.popQueue { x.setQueue e [w] with pc := pc } e = { x with pc := pc } := by
  cases e <;> (cases x; cases h; rfl)

/-- The state with an issued instruction alone in the queue of its engine. -/
def State.queued (s : State) (n k : Nat) (ecc : Ecc) (e : Eng) (w : IWord) : State :=
  (s.issued n k ecc).setCtx n k { (s.ctx n k).setQueue e [w] with pc := (s.ctx n k).pc + 1 }

theorem State.queued_queue (s : State) (n k : Nat) (ecc : Ecc) (e : Eng) (w : IWord) : ((s.queued n k ecc e w).ctx n k).queue e = [w] := by
  rw [State.queued, State.ctx_setCtx_same]
  cases e <;> rfl

theorem State.queued_waitState (s : State) (n k : Nat) (ecc : Ecc) (e : Eng) (w : IWord) :
    ((s.queued n k ecc e w).core n).waitState k w = (s.core n).waitState k w := by
  rw [State.queued, State.core_setCtx_same, State.issued_core]
  rfl

theorem State.queued_popQueue {s : State} {n k : Nat} {e : Eng} (h : (s.ctx n k).queue e = []) (ecc : Ecc) (w : IWord) :
    (s.queued n k ecc e w).updCtx n k (·.popQueue e) = s.taken n k ecc := by
  simp only [State.queued, State.updCtx, State.ctx_setCtx_same, State.setCtx_setCtx, Ctx.popQueue_setQueue h, State.taken,
    State.issued_ctx, Ctx.next]

/-- An idle engine that is ready takes an instruction in the step that issues it. -/
theorem State.Issues.engStep {s : State} {n k : Nat} {w : IWord} {ecc : Ecc} (h : s.Issues n k w ecc) {e : Eng}
    (hidle : (s.ctx n k).queue e = []) {ring : Option Entry} (hready : (s.queued n k ecc e w).engReady n k e w ring = true) :
    s.engStep n ecc e w.cls w.opc ring = (s.taken n k ecc).engEffect n k e w ring := by
  have haccept : (s.queued n k ecc e w).acceptHead n k e ring = (s.taken n k ecc).engEffect n k e w ring := by
    simp only [State.acceptHead, s.queued_queue n k ecc e w, s.queued_waitState n k ecc e w, h.ready, hready, if_true,
      State.queued_popQueue hidle]
  have hissue : s.engStep n ecc e w.cls w.opc ring = effDispatch e ring (s.issued n k ecc) n k w := by
    simp only [State.engStep, h.running, hidle, h.seqStep]
  rw [hissue, ← haccept]
  simp [effDispatch, hidle, State.queued]

end Sys2Proof.Machine

/-!
PROOFS. Tile buffers (R143, R144): what a buffer reads after a list of writes to one of them.
-/

namespace Sys2Proof

variable {α : Type}

theorem Sp.get_eraseRange (d : α) (a b : Nat) (t : Sp α) (k : Nat) :
    Sp.get d (Sp.eraseRange a b t) k = if a ≤ k ∧ k < b then d else Sp.get d t k := by
  induction t with
  | nil => simp [Sp.eraseRange, Sp.get]
  | cons p t ih =>
    obtain ⟨j, v⟩ := p
    by_cases hj : a ≤ j ∧ j < b
    · rw [Sp.eraseRange, if_pos hj, ih, Sp.get]
      grind
    · rw [Sp.eraseRange, if_neg hj, Sp.get, Sp.get, ih]
      grind

/-- After writes that agree on key `k`, it reads what they write there, or what it read before if there is none. -/
theorem Sp.get_foldl_set [DecidableEq α] {ι : Type} (d : α) (key : ι → Nat) (val : ι → α) {k : Nat} {v : α} (l : List ι) (t : Sp α)
    (hagree : ∀ w ∈ l, key w = k → val w = v) (h : Sp.get d t k = v ∨ ∃ w ∈ l, key w = k) :
    Sp.get d (l.foldl (fun t w => Sp.set d t (key w) (val w)) t) k = v := by
  induction l generalizing t with
  | nil => simpa using h
  | cons w l ih =>
    rw [List.foldl_cons]
    refine ih _ (fun u hu => hagree u (List.mem_cons_of_mem w hu)) ?_
    by_cases hw : key w = k
    · exact .inl (by rw [hw, Sp.get_set_same, hagree w List.mem_cons_self hw])
    · rw [Sp.get_set_other d t _ (Ne.symm hw)]
      simpa [hw] using h

end Sys2Proof

namespace Sys2Proof.Machine

/-! ### Places and valid bits -/

theorem tileKey_inj {b r c r' c' : Nat} (hc : c < 96) (hc' : c' < 96) : tileKey b r c = tileKey b r' c' ↔ r = r' ∧ c = c' := by
  unfold tileKey
  omega

theorem tileKey_ne {a b r c r' c' : Nat} (h : a ≠ b) (hr : r < 96) (hc : c < 96) (hr' : r' < 96) (hc' : c' < 96) :
    tileKey a r c ≠ tileKey b r' c' := by
  unfold tileKey
  omega

theorem setValid_getD (valid : List Bool) {a b : Nat} (ha : a < 4) : (setValid valid b).getD a false = (a == b || valid.getD a false) := by
  simp [setValid, List.getD_eq_getElem?_getD, ha]

/-! ### A list of writes to one buffer (R144) -/

/-- The engine's storage with the first write of a tick to a buffer under way: a buffer that was not valid is +0. -/
def VeSt.opened (ve : VeSt) (valid : List Bool) (b : Nat) : VeSt := if valid.getD b false then ve else clearTile ve b

theorem VeSt.write_tiles (ve : VeSt) (valid : List Bool) (b : Nat) (ws : List (Nat × Nat × W32)) :
    (ve.write valid b ws).tiles = ws.foldl (fun t w => Sp.set 0#32 t (tileKey b w.1 w.2.1) w.2.2) (ve.opened valid b).tiles := rfl

theorem VeSt.get_opened_same (ve : VeSt) (valid : List Bool) (b : Nat) {r c : Nat} (hr : r < 96) (hc : c < 96) :
    Sp.get 0#32 (ve.opened valid b).tiles (tileKey b r c) = tileAt ve valid b r c := by
  unfold VeSt.opened tileAt
  split
  · rfl
  · have hin : b * 9216 ≤ tileKey b r c ∧ tileKey b r c < (b + 1) * 9216 := by
      unfold tileKey
      omega
    rw [clearTile, Sp.get_eraseRange, if_pos hin]

theorem VeSt.get_opened_other (ve : VeSt) (valid : List Bool) {a b r c : Nat} (hab : a ≠ b) (hr : r < 96) (hc : c < 96) :
    Sp.get 0#32 (ve.opened valid b).tiles (tileKey a r c) = Sp.get 0#32 ve.tiles (tileKey a r c) := by
  unfold VeSt.opened
  split
  · rfl
  · have hout : ¬ (b * 9216 ≤ tileKey a r c ∧ tileKey a r c < (b + 1) * 9216) := by
      unfold tileKey
      omega
    rw [clearTile, Sp.get_eraseRange, if_neg hout]

section
variable {ve : VeSt} {valid : List Bool} {b r c : Nat} {ws : List (Nat × Nat × W32)} (hr : r < 96) (hc : c < 96)
  (hcells : ∀ w ∈ ws, w.1 < 96 ∧ w.2.1 < 96)
include hr hc hcells

/-- An element of the buffer written reads what the writes to it agree on, or what it read before if there is none. -/
theorem tileAt_write_same {v : W32} (hb : b < 4) (hagree : ∀ w ∈ ws, w.1 = r → w.2.1 = c → w.2.2 = v)
    (h : tileAt ve valid b r c = v ∨ ∃ w ∈ ws, w.1 = r ∧ w.2.1 = c) :
    tileAt (ve.write valid b ws) (setValid valid b) b r c = v := by
  have hkey : ∀ w ∈ ws, (tileKey b w.1 w.2.1 = tileKey b r c ↔ w.1 = r ∧ w.2.1 = c) := fun w hw => tileKey_inj (hcells w hw).2 hc
  rw [tileAt, setValid_getD valid hb, beq_self_eq_true, Bool.true_or, if_pos rfl, VeSt.write_tiles]
  refine Sp.get_foldl_set 0#32 _ _ ws _ (fun w hw he => ?_) ?_
  · obtain ⟨hwr, hwc⟩ := (hkey w hw).mp he
    exact hagree w hw hwr hwc
  · rw [VeSt.get_opened_same ve valid b hr hc]
    exact h.imp_right fun ⟨w, hw, he⟩ => ⟨w, hw, (hkey w hw).mpr he⟩

/-- The elements of another buffer stay. -/
theorem tileAt_write_other {a : Nat} (ha : a < 4) (hab : a ≠ b) :
    tileAt (ve.write valid b ws) (setValid valid b) a r c = tileAt ve valid a r c := by
  have hkept : Sp.get 0#32 (ve.write valid b ws).tiles (tileKey a r c) = Sp.get 0#32 ve.tiles (tileKey a r c) := by
    rw [VeSt.write_tiles]
    refine Sp.get_foldl_set 0#32 _ _ ws _ (fun w hw he => ?_) (.inl (ve.get_opened_other valid hab hr hc))
    obtain ⟨hwr, hwc⟩ := hcells w hw
    exact absurd he.symm (tileKey_ne hab hr hc hwr hwc)
  rw [tileAt, setValid_getD valid ha, beq_false_of_ne hab, Bool.false_or, hkept, tileAt]

end

end Sys2Proof.Machine

/-!
PROOFS. The arithmetic instructions of the vector engine (R144, R150, R152): what the engine does with one that it takes, and the
element-wise ones element by element.
-/

namespace Sys2Proof.Machine

/-! ### The instruction that the engine takes (R100) -/

theorem vArith_dst_lt (w : IWord) : (vArith w).dst < 4 := Nat.mod_lt _ (by decide)

/-- The checks bound the rows and the columns. -/
theorem vArithOk_bounds {w : IWord} {v : VArith} {x : Ctx} (h : vArithOk w v x = true) :
    1 ≤ v.rows ∧ v.rows ≤ 96 ∧ 1 ≤ v.cols ∧ v.cols ≤ 96 := by
  simp only [vArithOk, Bool.and_eq_true, decide_eq_true_eq] at h
  obtain ⟨⟨⟨⟨⟨⟨⟨⟨⟨-, hrow⟩, hrows⟩, hcol⟩, hcols⟩, -⟩, -⟩, -⟩, -⟩, -⟩ := h
  exact ⟨hrow, hrows, hcol, hcols⟩

/-- The places that an arithmetic instruction of a context writes, and what it writes there. -/
def State.vWrites (s : State) (n k : Nat) (w : IWord) : List (Nat × Nat × W32) :=
  let ve := (s.core n).ve
  let x := s.ctx n k
  let v := vArith w
  let ls := vLines ve x v
  (vResults ve x (s.draw x) w.opc v ls (vAcc0 v ls) 0 v.rows).map (·.1)

/-- Context `k` of core `n` and the vector engine's storage put in place together. -/
def State.putVe (s : State) (n k : Nat) (x : Ctx) (ve : VeSt) : State := s.setCore n { (s.core n).setCtx k x with ve := ve }

@[simp] theorem State.putVe_ve (s : State) (n k : Nat) (x : Ctx) (ve : VeSt) : ((s.putVe n k x ve).core n).ve = ve := by
  rw [State.putVe, State.core_setCore_same]

@[simp] theorem State.putVe_ctx (s : State) (n k : Nat) (x : Ctx) (ve : VeSt) : (s.putVe n k x ve).ctx n k = x := by
  rw [State.putVe, State.ctx, State.core_setCore_same]
  exact CoreSt.ctx_setCtx_same (s.core n) k x

@[simp] theorem State.putVe_mem (s : State) (n k : Nat) (x : Ctx) (ve : VeSt) : (s.putVe n k x ve).mem = s.mem := rfl

theorem State.putVe_core_other (s : State) {m n : Nat} (k : Nat) (x : Ctx) (ve : VeSt) (h : m ≠ n) :
    (s.putVe n k x ve).core m = s.core m := s.core_setCore_other _ h

theorem State.putVe_setCtx (s : State) (n k : Nat) (x y : Ctx) (ve : VeSt) : (s.putVe n k x ve).setCtx n k y = s.putVe n k y ve := by
  rw [State.setCtx, State.putVe, State.core_setCore_same, State.setCore_setCore, State.putVe, ← CoreSt.setCtx_setCtx (s.core n) k x y]
  rfl

theorem State.putVe_beginVe (s : State) (n k : Nat) (x : Ctx) (ve : VeSt) (r : VeRun) :
    (s.putVe n k x ve).beginVe n k r = s.putVe n k { x with ve := some r } ve := by
  rw [State.beginVe, State.updCtx, State.putVe_ctx, State.putVe_setCtx]

/-- Rows that write anything do their writes and make the buffer valid; of the context, only flags change besides. -/
theorem State.vArithRows_eq {s : State} {n k : Nat} {w : IWord} {ls : List W32 × List W32} {accs : List (W32 × NFlags)} {lo hi : Nat}
    {rs : List ((Nat × Nat × W32) × NFlags)}
    (hrs : vResults (s.core n).ve (s.ctx n k) (s.draw (s.ctx n k)) w.opc (vArith w) ls accs lo hi = rs) (hne : rs ≠ []) :
    s.vArithRows n k w ls accs lo hi =
      s.putVe n k { (s.ctx n k).raise (orFlags (rs.map (·.2))) with valid := setValid (s.ctx n k).valid (vArith w).dst }
        (((s.core n).ve.write (s.ctx n k).valid (vArith w).dst (rs.map (·.1))).addCycles w.opc (vCycles w.opc (hi - lo))) := by
  have hsome : rs.isEmpty = false := List.isEmpty_eq_false_iff.mpr hne
  rw [State.ctx] at hrs
  simp only [State.vArithRows, hrs, hsome, Bool.false_eq_true, if_false]
  rfl

/-- An arithmetic instruction that passes its checks and writes anything does its writes and makes its buffer valid; of its context,
flags and the record of the instruction in flight change besides. -/
theorem State.vArithTake_eq {s : State} {n k : Nat} {w : IWord} (hok : vArithOk w (vArith w) (s.ctx n k) = true)
    (hwrites : s.vWrites n k w ≠ []) :
    ∃ flags run cc, s.vArithTake n k w =
      s.putVe n k { (s.ctx n k).raise flags with valid := setValid (s.ctx n k).valid (vArith w).dst, ve := run }
        (((s.core n).ve.write (s.ctx n k).valid (vArith w).dst (s.vWrites n k w)).addCycles w.opc cc) := by
  rw [State.ctx] at hok
  have hrows := State.vArithRows_eq (s := s) (n := n) (k := k) (w := w) rfl (fun h => hwrites (by rw [State.vWrites, h]; rfl))
  simp only [State.vArithTake, hok, Bool.not_true, Bool.false_eq_true, if_false]
  exact ⟨_, _, _, (congrArg (State.beginVe · n k _) hrows).trans (State.putVe_beginVe ..)⟩

/-- What a buffer reads once the engine has taken an arithmetic instruction. -/
theorem State.vArithTake_tileAt {s : State} {n k : Nat} {w : IWord} (hok : vArithOk w (vArith w) (s.ctx n k) = true)
    (hwrites : s.vWrites n k w ≠ []) (b r c : Nat) :
    tileAt ((s.vArithTake n k w).core n).ve ((s.vArithTake n k w).ctx n k).valid b r c =
      tileAt ((s.core n).ve.write (s.ctx n k).valid (vArith w).dst (s.vWrites n k w)) (setValid (s.ctx n k).valid (vArith w).dst)
        b r c := by
  obtain ⟨flags, run, cc, htake⟩ := State.vArithTake_eq hok hwrites
  rw [htake, State.putVe_ve, State.putVe_ctx]
  rfl

/-- What such an instruction leaves alone. -/
theorem State.vArithTake_frame {s : State} {n k : Nat} {w : IWord} (hok : vArithOk w (vArith w) (s.ctx n k) = true)
    (hwrites : s.vWrites n k w ≠ []) :
    ((s.vArithTake n k w).ctx n k).pc = (s.ctx n k).pc ∧ ((s.vArithTake n k w).ctx n k).regs = (s.ctx n k).regs ∧
      (s.vArithTake n k w).mem = s.mem ∧ ∀ m, m ≠ n → (s.vArithTake n k w).core m = s.core m := by
  obtain ⟨flags, run, cc, htake⟩ := State.vArithTake_eq hok hwrites
  rw [htake, State.putVe_ctx, State.putVe_mem]
  exact ⟨rfl, rfl, rfl, fun m hm => s.putVe_core_other k _ _ hm⟩

/-! ### Element-wise opcodes (R150, R152, R155) -/

/-- The opcodes that write one element for each row and column, by the operands alone: neither a transfer, nor a reduction, nor
VDROP. -/
structure Elementwise (opc : Nat) : Prop where
  arith : 0x10 ≤ opc
  whole : opc < 0x30
  certain : opc ≠ 0x1A

theorem Elementwise.vUse_ne_reduce {opc : Nat} (h : Elementwise opc) : vUse opc ≠ .reduce := by
  have hwhole : ¬ 0x30 ≤ opc := Nat.not_le.mpr h.whole
  simp only [vUse, hwhole, if_false]
  split_ifs <;> simp

theorem Elementwise.vCols {opc : Nat} (h : Elementwise opc) : vCols opc = false :=
  decide_eq_false (by have := h.whole; omega)

/-- A broadcast row as it was read is the operand that it supplies (R150). -/
theorem operandAt_tileLine (ve : VeSt) (valid : List Bool) (buf kind line : Nat) (sc : W32) (r : Nat) {c : Nat} (hc : c < 96) :
    (if kind = 1 then (tileLine ve valid buf line).getD c 0#32 else operandAt ve valid buf kind line sc r c) =
      operandAt ve valid buf kind line sc r c := by
  split
  · next hkind => simp [hkind, operandAt, tileLine, List.getD_eq_getElem?_getD, hc]
  · rfl

/-- The result of an instruction's operation on element (r, c) of its operands. -/
def State.vElement (s : State) (n k : Nat) (w : IWord) (r c : Nat) : W32 :=
  let ve := (s.core n).ve
  let x := s.ctx n k
  let v := vArith w
  (vElem w.opc (tileAt ve x.valid v.a r c) (operandAt ve x.valid v.b v.bKind v.bLine (scalarOf x v.bSreg v.imm) r c)
    (operandAt ve x.valid v.c v.cKind v.cLine (scalarOf x v.cSreg v.imm) r c)).1

theorem State.vElem_vLines (s : State) (n k : Nat) (w : IWord) (r : Nat) {c : Nat} (hc : c < 96) :
    let ve := (s.core n).ve
    let x := s.ctx n k
    let v := vArith w
    (vElem w.opc (vOpA ve x v r c) (vOpB ve x v (vLines ve x v).1 r c) (vOpC ve x v (vLines ve x v).2 r c)).1 =
      s.vElement n k w r c := by
  dsimp only [vOpA, vOpB, vOpC, vLines]
  rw [operandAt_tileLine _ _ _ _ _ _ _ hc, operandAt_tileLine _ _ _ _ _ _ _ hc, State.vElement]

/-- The place that an opcode writes for element (r, c): VTRANS writes (c, r) (R155). -/
def vPlace (opc r c : Nat) : Nat × Nat := (if opc = 0x19 then c else r, if opc = 0x19 then r else c)

theorem vPlace_inj {opc r c r' c' : Nat} : vPlace opc r c = vPlace opc r' c' ↔ r = r' ∧ c = c' := by
  unfold vPlace
  split
  · simp [and_comm]
  · simp

/-- A row of an element-wise instruction writes each of its columns. -/
theorem Elementwise.vRow {opc : Nat} (h : Elementwise opc) (ve : VeSt) (x : Ctx) (d : Draw) (v : VArith) (ls : List W32 × List W32)
    (r : Nat) :
    (vRow ve x d opc v ls r).map (·.1) = (List.range v.cols).map (fun c =>
      ((vPlace opc r c).1, (vPlace opc r c).2, (vElem opc (vOpA ve x v r c) (vOpB ve x v ls.1 r c) (vOpC ve x v ls.2 r c)).1)) := by
  unfold Machine.vRow
  dsimp only
  split
  · next hreduce => exact absurd hreduce h.vUse_ne_reduce
  · rw [List.map_map]
    refine List.map_congr_left (fun c _ => ?_)
    simp only [Function.comp, h.certain, if_false, vPlace]
    split <;> rfl

section
variable {s : State} {n k : Nat} {w : IWord} (hew : Elementwise w.opc) (hok : vArithOk w (vArith w) (s.ctx n k) = true)
include hew hok

/-- The writes of an element-wise instruction: one for each row and column, each with its own place. -/
theorem State.mem_vWrites {u : Nat × Nat × W32} : u ∈ s.vWrites n k w ↔ ∃ r c, r < (vArith w).rows ∧ c < (vArith w).cols ∧
    u = ((vPlace w.opc r c).1, (vPlace w.opc r c).2, s.vElement n k w r c) := by
  obtain ⟨-, -, -, hcols⟩ := vArithOk_bounds hok
  simp only [State.vWrites, vResults, hew.vCols, Bool.false_eq_true, if_false, rowsFrom, List.map_flatMap, hew.vRow, List.mem_flatMap,
    List.mem_map, List.mem_range, Nat.sub_zero, Nat.zero_add]
  constructor
  · rintro ⟨_, ⟨r, hr, rfl⟩, c, hc, rfl⟩
    exact ⟨r, c, hr, hc, by rw [s.vElem_vLines n k w r (by omega)]⟩
  · rintro ⟨r, c, hr, hc, rfl⟩
    exact ⟨r, ⟨r, hr, rfl⟩, c, hc, by rw [s.vElem_vLines n k w r (by omega)]⟩

theorem State.vWrites_ne_nil : s.vWrites n k w ≠ [] := by
  obtain ⟨hrow, -, hcol, -⟩ := vArithOk_bounds hok
  exact List.ne_nil_of_mem ((State.mem_vWrites hew hok).mpr ⟨0, 0, hrow, hcol, rfl⟩)

/-- Every place written lies in the buffer. -/
theorem State.vWrites_lt {u : Nat × Nat × W32} (hu : u ∈ s.vWrites n k w) : u.1 < 96 ∧ u.2.1 < 96 := by
  obtain ⟨-, hrows, -, hcols⟩ := vArithOk_bounds hok
  obtain ⟨r, c, hr, hc, rfl⟩ := (State.mem_vWrites hew hok).mp hu
  unfold vPlace
  dsimp only
  split
  · exact ⟨by omega, by omega⟩
  · exact ⟨by omega, by omega⟩

theorem State.vArithTake_element {r c : Nat} (hr : r < (vArith w).rows) (hc : c < (vArith w).cols) :
    tileAt ((s.vArithTake n k w).core n).ve ((s.vArithTake n k w).ctx n k).valid (vArith w).dst (vPlace w.opc r c).1
      (vPlace w.opc r c).2 = s.vElement n k w r c := by
  have hmem := (State.mem_vWrites hew hok).mpr ⟨r, c, hr, hc, rfl⟩
  obtain ⟨hplace, hplace'⟩ := State.vWrites_lt hew hok hmem
  rw [State.vArithTake_tileAt hok (State.vWrites_ne_nil hew hok)]
  refine tileAt_write_same hplace hplace' (fun u hu => State.vWrites_lt hew hok hu) (vArith_dst_lt w) (fun u hu hur huc => ?_)
    (.inr ⟨_, hmem, rfl, rfl⟩)
  obtain ⟨r', c', -, -, rfl⟩ := (State.mem_vWrites hew hok).mp hu
  obtain ⟨rfl, rfl⟩ := vPlace_inj.mp (Prod.ext hur huc)
  rfl

/-- The elements of the buffer at other places stay (of a buffer that was not valid, +0). -/
theorem State.vArithTake_outside (hkeep : w.opc ≠ 0x19) {r c : Nat} (hr : r < 96) (hc : c < 96)
    (hout : (vArith w).rows ≤ r ∨ (vArith w).cols ≤ c) :
    tileAt ((s.vArithTake n k w).core n).ve ((s.vArithTake n k w).ctx n k).valid (vArith w).dst r c =
      tileAt (s.core n).ve (s.ctx n k).valid (vArith w).dst r c := by
  rw [State.vArithTake_tileAt hok (State.vWrites_ne_nil hew hok)]
  refine tileAt_write_same hr hc (fun u hu => State.vWrites_lt hew hok hu) (vArith_dst_lt w) (fun u hu hur huc => ?_) (.inl rfl)
  obtain ⟨r', c', hr', hc', rfl⟩ := (State.mem_vWrites hew hok).mp hu
  simp only [vPlace, if_neg hkeep] at hur huc
  omega

theorem State.vArithTake_otherBuffer {b r c : Nat} (hb : b < 4) (hne : b ≠ (vArith w).dst) (hr : r < 96) (hc : c < 96) :
    tileAt ((s.vArithTake n k w).core n).ve ((s.vArithTake n k w).ctx n k).valid b r c = tileAt (s.core n).ve (s.ctx n k).valid b r c := by
  rw [State.vArithTake_tileAt hok (State.vWrites_ne_nil hew hok)]
  exact tileAt_write_other hr hc (fun u hu => State.vWrites_lt hew hok hu) hb hne

end

/-! ### From the step to the engine -/

/-- The state as the vector engine begins an instruction: every older one has completed its rows (R100). -/
def State.veBegun (s : State) (n k : Nat) (ecc : Ecc) : State := (s.taken n k ecc).updCtx n k (fun x => { x with ve := none })

theorem State.veBegun_ctx (s : State) (n k : Nat) (ecc : Ecc) :
    (s.veBegun n k ecc).ctx n k = { (s.taken n k ecc).ctx n k with ve := none } := State.ctx_updCtx_same _ _ _ _

theorem State.veBegun_ve (s : State) (n k : Nat) (ecc : Ecc) : ((s.veBegun n k ecc).core n).ve = (s.core n).ve := by
  rw [State.veBegun, State.updCtx, State.core_setCtx_same, State.taken_core_same]
  rfl

theorem State.veBegun_core_other (s : State) {m n : Nat} (k : Nat) (ecc : Ecc) (h : m ≠ n) :
    (s.veBegun n k ecc).core m = s.core m := by
  rw [State.veBegun, State.updCtx, State.core_setCtx_other _ _ _ h, State.taken_core_other s k ecc h]

theorem State.veBegun_mem (s : State) (n k : Nat) (ecc : Ecc) : (s.veBegun n k ecc).mem = s.mem := s.taken_mem n k ecc

theorem State.veAccept_arith (s : State) (n k : Nat) {w : IWord} (h : 0x10 ≤ w.opc) :
    s.veAccept n k w = (s.updCtx n k (fun x => { x with ve := none })).vArithTake n k w := by
  unfold State.veAccept
  dsimp only
  split
  case h_5 => rfl
  all_goals omega

/-- An arithmetic instruction that issues to an idle vector engine. -/
theorem State.Issues.engStep_arith {s : State} {n k : Nat} {w : IWord} {ecc : Ecc} (h : s.Issues n k w ecc)
    (hidle : (s.ctx n k).qve = []) (hcls : w.cls = 4) (harith : 0x10 ≤ w.opc) :
    s.engStep n ecc .ve 4 w.opc none = (s.veBegun n k ecc).vArithTake n k w := by
  have htake := h.engStep (e := .ve) hidle (ring := none) rfl
  rw [hcls] at htake
  exact htake.trans (State.veAccept_arith _ n k harith)

/-- What a row of the statement's table gives: the command's step, and the operation that its opcode names. -/
structure VElementRow (n : Nat) (ecc : Ecc) (p : Nat × Instr × (W32 → W32 → W32 → W32 × NFlags)) : Prop where
  exec_eq : ∀ s, exec p.2.1 s = .next (s.engStep n ecc .ve 4 p.1 none)
  elementwise : Elementwise p.1
  result : ∀ a b c, (vElem p.1 a b c).1 = (p.2.2 a b c).1

/-- Settles O16: the writes are one for each row and column, no two at one place. That they all fall in the accepting step, and that every
operand is read before the first of them, is the model's (assumption log entries 21 and 78). -/
theorem vectorElements : Obligations.VectorElements := by
  intro s n k w ecc hissues hidle hcls x v A B C hok p hp hopc
  have hrow : VElementRow n ecc p := by
    fin_cases hp <;> exact ⟨fun _ => rfl, ⟨by simp, by simp, by simp⟩, fun _ _ _ => rfl⟩
  obtain ⟨hexec, hew, hresult⟩ := hrow
  rw [← hopc] at hexec hew hresult ⊢
  set u := s.veBegun n k ecc with hu
  have hx : u.ctx n k = { x with ve := none } := s.veBegun_ctx n k ecc
  have hok' : vArithOk w (vArith w) (u.ctx n k) = true := by rw [hx]; exact hok
  have hve : (u.core n).ve = (s.core n).ve := s.veBegun_ve n k ecc
  obtain ⟨hpc, hregs, hmem, hcore⟩ := State.vArithTake_frame hok' (State.vWrites_ne_nil hew hok')
  refine ⟨u.vArithTake n k w, ?_, fun r c hr hc => ?_, fun r c hkeep hr hc hout => ?_, fun b r c hb hne hr hc => ?_, ?_, ?_, ?_,
    fun m hm => ?_⟩
  · rw [hexec, hissues.engStep_arith hidle hcls hew.arith]
  · have hread : u.vElement n k w r c = (p.2.2 (A r c) (B r c) (C r c)).1 := by
      rw [State.vElement, hve, hx]
      exact hresult _ _ _
    exact (State.vArithTake_element hew hok' hr hc).trans hread
  · rw [State.vArithTake_outside hew hok' hkeep hr hc hout, hve, hx]
  · rw [State.vArithTake_otherBuffer hew hok' hb hne hr hc, hve, hx]
  · rw [hpc, hx]
    exact s.taken_pc n k ecc
  · rw [hregs, hx]
    exact s.taken_regs n k ecc
  · rw [hmem, hu, State.veBegun_mem]
  · rw [hcore m hm, hu, State.veBegun_core_other s k ecc hm]

end Sys2Proof.Machine

/-!
PROOFS. The sequencer's own instructions (R74, R75, R78, R79): what a control or scalar instruction that issues leaves.
-/

namespace Sys2Proof.Machine

/-- A control or scalar instruction that issues takes effect in the same step (R72, R76). -/
theorem State.Issues.ownStep {s : State} {n k : Nat} {w : IWord} {ecc : Ecc} (h : s.Issues n k w ecc)
    (eff : State → Nat → Nat → IWord → State) : s.ownStep n ecc w.cls w.opc eff = eff (s.issued n k ecc) n k w := by
  rw [State.ownStep, h.seqStep, seqOwn, State.issued_core, h.ready]

/-- A command that is the sequencer's step for the word that issues answers the word's effect. -/
theorem State.Issues.exec_own {s : State} {n k : Nat} {w : IWord} {ecc : Ecc} (h : s.Issues n k w ecc) {i : Instr} {cls opc : Nat}
    {eff : State → Nat → Nat → IWord → State} (hexec : exec i s = .next (s.ownStep n ecc cls opc eff)) (hcls : w.cls = cls)
    (hopc : w.opc = opc) : exec i s = .next (eff (s.issued n k ecc) n k w) := by
  subst hcls hopc
  rw [hexec, h.ownStep]

/-- Settles O5: each scalar instruction is one step of the sequencer, which writes its result and goes on. -/
theorem scalarResults : Obligations.ScalarResults := by
  intro s n k w ecc hissues hcls t
  exact ⟨hissues.exec_own (eff := effMovi) rfl hcls, hissues.exec_own (eff := effAdd) rfl hcls,
    hissues.exec_own (eff := effSub) rfl hcls, hissues.exec_own (eff := effMul) rfl hcls,
    hissues.exec_own (eff := effAnd) rfl hcls, hissues.exec_own (eff := effOr) rfl hcls,
    hissues.exec_own (eff := effXor) rfl hcls, hissues.exec_own (eff := effShl) rfl hcls,
    hissues.exec_own (eff := effShr) rfl hcls, hissues.exec_own (eff := effSltu) rfl hcls,
    hissues.exec_own (eff := effAddi) rfl hcls⟩

/-! ### Control instructions (R78) -/

section
variable (s : State) (n k : Nat) (ecc : Ecc)

/-- What an issued instruction does to its context alone. -/
theorem State.issued_updCtx (f : Ctx → Ctx) : (s.issued n k ecc).updCtx n k f = (s.issued n k ecc).setCtx n k (f (s.ctx n k)) := by
  rw [State.updCtx, State.issued_ctx]

theorem State.issued_quiet : (s.issued n k ecc).quiet n k = s.quiet n k := by
  simp only [State.quiet, State.issued_core]

variable {s n k} {w : IWord}

/-- A jump or branch whose target lies in the program. -/
theorem withTarget_issued (f : Ctx → IWord → Ctx) (h : ctlTarget w < (s.ctx n k).prog.length) :
    withTarget f (s.issued n k ecc) n k w = (s.issued n k ecc).setCtx n k (f (s.ctx n k) w) := by
  rw [withTarget, State.issued_ctx, if_neg (Nat.not_le.mpr h), State.issued_updCtx]

/-- A branch goes to its target or to the next instruction. -/
theorem Ctx.branch_eq (x : Ctx) (c : Prop) [Decidable c] (a : Nat) :
    (if c then { x with pc := a } else x.next) = { x with pc := if c then a else x.pc + 1 } := by
  split <;> rfl

/-- A LOOP whose count is 0 skips its body. -/
theorem effLoop_of_zero (h : ctlTarget w < (s.ctx n k).prog.length) (hcount : loopCount (s.ctx n k) w = 0#32) :
    effLoop (s.issued n k ecc) n k w = (s.issued n k ecc).setCtx n k { s.ctx n k with pc := ctlTarget w } := by
  simp only [effLoop, State.issued_ctx, if_neg (Nat.not_le.mpr h), if_pos hcount]

/-- A LOOP with a count pushes the count and the address of its body. -/
theorem effLoop_of_count (h : ctlTarget w < (s.ctx n k).prog.length) (hcount : loopCount (s.ctx n k) w ≠ 0#32)
    (hroom : (s.ctx n k).loops.length < 8) :
    effLoop (s.issued n k ecc) n k w = (s.issued n k ecc).setCtx n k
      { s.ctx n k with loops := (loopCount (s.ctx n k) w, (s.ctx n k).pc + 1) :: (s.ctx n k).loops, pc := (s.ctx n k).pc + 1 } := by
  simp only [effLoop, State.issued_ctx, if_neg (Nat.not_le.mpr h), if_neg hcount, if_neg (Nat.not_le.mpr hroom)]

/-- LOOP_END decrements the count, and goes to the body until it is used up. -/
theorem effLoopEnd_cons {c : W32} {body : Nat} {rest : List (W32 × Nat)} (h : (s.ctx n k).loops = (c, body) :: rest) :
    effLoopEnd (s.issued n k ecc) n k w = (s.issued n k ecc).setCtx n k
      (if c = 1 then { s.ctx n k with loops := rest, pc := (s.ctx n k).pc + 1 }
        else { s.ctx n k with loops := (c - 1, body) :: rest, pc := body }) := by
  have hlast : c - 1#32 = 0#32 ↔ c = 1 := by bv_omega
  simp only [effLoopEnd, State.issued_ctx, h, ne_eq, hlast, ite_not]
  split <;> rfl

end

/-- Settles O6: each control instruction by its effect on the context. -/
theorem controlFlow : Obligations.ControlFlow := by
  intro s n k w ecc hissues hcls x t
  refine ⟨fun hopc => ?_, fun hopc hin => ?_, fun hopc hin => ?_, fun hopc hin => ?_, fun hopc hin hcount => ?_,
    fun hopc hin hcount hroom => ?_, fun c body rest hopc hloops hc => ?_, fun body rest hopc hloops => ?_⟩
  · rw [hissues.exec_own rfl hcls hopc, effNop, State.issued_updCtx]
    rfl
  · rw [hissues.exec_own rfl hcls hopc, effJump, withTarget_issued ecc _ hin]
  · rw [hissues.exec_own rfl hcls hopc, effBranchNz, withTarget_issued ecc _ hin, Ctx.branch_eq]
    rfl
  · rw [hissues.exec_own rfl hcls hopc, effBranchZ, withTarget_issued ecc _ hin, Ctx.branch_eq]
    rfl
  · rw [hissues.exec_own rfl hcls hopc, effLoop_of_zero ecc hin hcount]
  · rw [hissues.exec_own rfl hcls hopc, effLoop_of_count ecc hin hcount hroom]
  · rw [hissues.exec_own rfl hcls hopc, effLoopEnd_cons ecc hloops, if_neg hc]
  · rw [hissues.exec_own rfl hcls hopc, effLoopEnd_cons ecc hloops, if_pos rfl]

end Sys2Proof.Machine

/-!
PROOFS. The steward's hold on a core (R81 to R86, R97, R104): drain and resume, bank switches, commits of program words, and who else
may try.
-/

namespace Sys2Proof.Machine

/-! ### Who writes the CP_ registers (R390) -/

theorem Who.isSteward_of_index {who : Who} (h : who.index = 0) : who.isSteward = true := beq_iff_eq.mpr h

theorem Who.not_isSteward {who : Who} (h : who.index ≠ 0) : who.isSteward = false := beq_eq_false_iff_ne.mpr h

/-- A command of the steward's alone, sent by any other requester, is discarded and logged. -/
theorem discarded_of_not_steward {who : Who} (h : who.index ≠ 0) (s : State) (addr : Nat) (a : Out) :
    (if who.isSteward then a else .next (s.logDiscard addr who true)) = .next (s.logDiscard addr who true) := by
  rw [Who.not_isSteward h]
  rfl

/-- No driver writes a CP_ register. -/
theorem Who.not_mayWrite_cp {who : Who} (h : who.index ≠ 0) {off n o : Nat} (hat : regAt off = .cp n o) : who.mayWrite off = false := by
  simp [Who.mayWrite, Who.not_isSteward h, driverMay, hat]

/-- A write of a register that shows, by one who may not write it, is discarded and logged, whether the requester reaches the registers
or not. -/
theorem State.write32_discarded {s : State} {who : Who} {off v hw : Nat} (h : who.mayWrite off = false)
    (hshown : (s.reg32 off).isSome = true) : s.write32 who off v hw = s.logDiscard (regAddr off) who true := by
  obtain ⟨x, hx⟩ := Option.isSome_iff_exists.mp hshown
  simp [State.write32, h, hx]

/-! ### Drain and resume (R97, R104) -/

theorem exec_drain {who : Who} (h : who.index = 0) (s : State) (n : Nat) : exec (.drain who n) s = .next (s.drainCore n) := by
  change execDrain who n s = _
  rw [execDrain, Who.isSteward_of_index h, if_pos rfl]

theorem exec_resume {who : Who} (h : who.index = 0) (s : State) (n : Nat) : exec (.resume who n) s = .next (s.resumeCore n) := by
  change execResume who n s = _
  rw [execResume, Who.isSteward_of_index h, if_pos rfl]

/-- Settles O10: a drain by the state of the core, resume by whether it is drained. -/
theorem drainAndResume : Obligations.DrainAndResume := by
  refine ⟨fun s who n hwho => ?_, fun s who n d hwho => ?_⟩
  · rw [exec_drain hwho, exec_resume hwho]
    refine ⟨fun k f hrun => ?_, fun k f hrun => ?_, fun hrun => ?_, fun hrun => ?_, fun hrun => ?_⟩
    · simp only [State.drainCore, hrun, CoreSt.interrupt]
    · simp only [State.drainCore, hrun]
    · rcases hrun with hrun | ⟨k, f, hrun⟩ <;> simp only [State.drainCore, hrun]
    · simp only [State.resumeCore, hrun, if_true]
    · simp only [State.resumeCore, hrun, if_false]
  · exact ⟨discarded_of_not_steward hwho s _ _, discarded_of_not_steward hwho s _ _, discarded_of_not_steward hwho s _ _,
      discarded_of_not_steward hwho s _ _, discarded_of_not_steward hwho s _ _⟩

/-! ### Bank switches (R81, R84) -/

theorem exec_bankSwitchRequest {who : Who} (h : who.index = 0) (s : State) (n : Nat) :
    exec (.bankSwitchRequest who n) s = .next (s.updCore n CoreSt.requestSwitch) := by
  change execBankSwitchRequest who n s = _
  rw [execBankSwitchRequest, Who.isSteward_of_index h, if_pos rfl]

theorem exec_bankSwitchCancel {who : Who} (h : who.index = 0) (s : State) (n : Nat) :
    exec (.bankSwitchCancel who n) s = .next (s.updCore n (fun c => { c with switchPending := false })) := by
  change execBankSwitchCancel who n s = _
  rw [execBankSwitchCancel, Who.isSteward_of_index h, if_pos rfl]

/-- A request binds the programs of the bank that is not active, and leaves those of the other. -/
theorem CoreSt.requestSwitch_progs (c : CoreSt) :
    c.requestSwitch.progs (!c.active) = scanBank (if c.active then c.bank0 else c.bank1) ∧
      c.requestSwitch.progs c.active = c.progs c.active := by
  cases h : c.active <;> simp [CoreSt.requestSwitch, CoreSt.bindInactive, CoreSt.progs, h]

/-- A request changes nothing else of the core but that the switch is pending. -/
theorem CoreSt.requestSwitch_eq (c : CoreSt) :
    c.requestSwitch = { c with switchPending := true, progs0 := c.requestSwitch.progs0, progs1 := c.requestSwitch.progs1 } := by
  unfold CoreSt.requestSwitch CoreSt.bindInactive
  split <;> rfl

/-! ### Commits of program words (R82, R83, R86) -/

theorem exec_programWordCommit {who : Who} (h : who.index = 0) (s : State) (n : Nat) (d3 : W32) :
    exec (.programWordCommit who n d3) s = .next (s.commitWord n d3) := by
  change execProgramWordCommit who n d3 s = _
  rw [execProgramWordCommit, Who.isSteward_of_index h, if_pos rfl]

/-- A core with word `w` at index `i` of a bank. -/
def CoreSt.setWord (c : CoreSt) (bank : Bool) (i : Nat) (w : IWord) : CoreSt :=
  if bank then { c with bank1 := Sp.set 0#128 c.bank1 i w } else { c with bank0 := Sp.set 0#128 c.bank0 i w }

theorem CoreSt.setWord_eq (c : CoreSt) (bank : Bool) (i : Nat) (w : IWord) :
    c.setWord bank i w = { c with bank0 := (c.setWord bank i w).bank0, bank1 := (c.setWord bank i w).bank1 } := by
  cases bank <;> rfl

theorem CoreSt.word_setWord_same (c : CoreSt) (bank : Bool) (i : Nat) (w : IWord) : (c.setWord bank i w).word bank i = w := by
  cases bank <;> exact Sp.get_set_same _ _ _ _

theorem CoreSt.word_setWord_otherIndex (c : CoreSt) (bank : Bool) {i j : Nat} (w : IWord) (h : j ≠ i) :
    (c.setWord bank i w).word bank j = c.word bank j := by
  cases bank <;> exact Sp.get_set_other _ _ _ h

theorem CoreSt.word_setWord_otherBank (c : CoreSt) {bank other : Bool} (i j : Nat) (w : IWord) (h : bank ≠ other) :
    (c.setWord bank i w).word other j = c.word other j := by
  obtain rfl : other = !bank := Bool.eq_not_of_ne h.symm
  cases bank <;> rfl

/-- A core once a commit has been accepted: the index goes on, and the fourth held word is that of the commit. -/
def CoreSt.committed (c : CoreSt) (d3 : W32) : CoreSt := { c with pwIndex := (c.pwIndex + 1) % 8192, pwData := c.pwData.set 3 (some d3) }

/-- A commit to the bank that is not active writes the word that CP_PWADDR names. -/
theorem State.commitWord_accepted {s : State} {n : Nat} (h : (s.core n).pwBank ≠ (s.core n).active) (d3 : W32) :
    s.commitWord n d3 = s.bump.setCore n (((s.core n).committed d3).setWord (s.core n).pwBank (s.core n).pwIndex
      (heldWord s.free (s.core n).pwData d3)) := by
  rw [State.commitWord, if_neg h]
  rfl

/-- A commit to the active bank is rejected (R83). -/
theorem State.commitWord_rejected {s : State} {n : Nat} (h : (s.core n).pwBank = (s.core n).active) (d3 : W32) :
    s.commitWord n d3 = (s.setCore n { s.core n with
      wrFault := true, pwIndex := ((s.core n).pwIndex + 1) % 8192, pwData := [none, none, none, none] }).logAs 1 n 0x0007 1 none
        [(1, n), (1, b2n (s.core n).pwBank), (2, (s.core n).pwIndex)] := by
  rw [State.commitWord, if_pos h]

/-- Settles O11: requests by the bank that is not active, commits by the bank that CP_PWADDR names, and the registers by who may write
them. That the programs bound are those whose headers stand in the bank, and that held words stand after a commit, is the model's
(assumption log entries 76 and 18). -/
theorem programBanks : Obligations.ProgramBanks := by
  refine ⟨fun s who n hwho => ⟨⟨_, exec_bankSwitchRequest hwho s n, ?_⟩, exec_bankSwitchCancel hwho s n⟩,
    fun s who n d0 d1 d2 d3 x hwho hdata hbank => ⟨_, exec_programWordCommit hwho s n d3, ?_⟩,
    fun s who n d3 hwho hbank => ?_, fun s who n d3 v hw hwho hn => ⟨discarded_of_not_steward hwho s _ _, fun o ho => ?_⟩⟩
  · obtain ⟨hbound, hkept⟩ := (s.core n).requestSwitch_progs
    have hcore := (s.core n).requestSwitch_eq
    rw [State.core_updCore_same]
    refine ⟨?_, ?_, hbound, hkept, ?_, ?_, ?_, fun m hm => s.core_updCore_other _ hm, rfl⟩ <;> rw [hcore]
  · rw [State.commitWord_accepted hbank, State.core_setCore_same, hdata]
    refine ⟨CoreSt.word_setWord_same _ _ _ _, fun i hi => CoreSt.word_setWord_otherIndex _ _ _ hi,
      fun i => CoreSt.word_setWord_otherBank _ _ _ _ hbank, ?_, ?_, fun m hm => State.core_setCore_other _ _ hm, rfl⟩
    · rw [CoreSt.setWord_eq]
      rfl
    · rw [CoreSt.setWord_eq, CoreSt.committed, hdata]
      rfl
  · rw [exec_programWordCommit hwho, State.commitWord_rejected hbank]
  · have hlt : o < 0x4000 ∧ o % 4 = 0 := by fin_cases ho <;> decide
    have hoff : 0x1800000 + n / 16 * 0x1000000 + n % 16 * 0x10000 + o = coreBase n + o := rfl
    have hat : regAt (coreBase n + o) = .cp n o := (regAt_core hn (by omega) rfl).trans (if_pos hlt.1)
    have h4 : (coreBase n + o) % 4 = 0 := by have := coreBase_mod_four n; omega
    have hshown : (s.reg32 (coreBase n + o)).isSome = true := by
      rw [State.reg32_cp s h4 hat]
      fin_cases ho <;> rfl
    dsimp only
    rw [hoff, exec_registerWrite32 s who v hw (by unfold coreBase regSpace; omega),
      State.write32_discarded (Who.not_mayWrite_cp hwho hat) hshown]

end Sys2Proof.Machine

/-!
PROOFS. A job that stops, and a core that takes other work (R92, R103, R104, R408): what the end of a job and the choice of a core's
next work leave alone.
-/

namespace Sys2Proof.Machine

/-! ### Posts toward the host, and what a job holds -/

/-- A state without the fields that posts toward the host and the pages, instances and compressions of a job stand in. -/
def State.hostless (s : State) : State :=
  { s with hostOut := [], watchOut := [], log := State.reset.log, tenants := [], pages := [], frames := [],
           coll := State.reset.coll, cz := [] }

theorem State.setJob_hostless (s : State) (k : Nat) (j : Job) : (s.setJob k j).hostless = s.hostless.setJob k j := rfl
theorem State.updTenant_hostless (s : State) (t : Nat) (f : Tenant → Tenant) : (s.updTenant t f).hostless = s.hostless := rfl
theorem State.dropColl_hostless (s : State) (k : Nat) : (s.dropColl k).hostless = s.hostless := rfl
theorem State.pages_hostless (s : State) (p : Sp PageEnt) : ({ s with pages := p } : State).hostless = s.hostless := rfl

section
variable {s t : State} (h : t.hostless = s.hostless)
include h

theorem State.mem_of_hostless : t.mem = s.mem := by
  change t.hostless.mem = s.hostless.mem
  rw [h]

theorem State.cores_of_hostless : t.cores = s.cores := by
  change t.hostless.cores = s.hostless.cores
  rw [h]

theorem State.job_of_hostless (k : Nat) : t.job k = s.job k := by
  change t.hostless.job k = s.hostless.job k
  rw [h]

end

theorem State.logAs_hostless (s : State) (c i e v : Nat) (t : Option Nat) (a : List (Nat × Nat)) :
    (s.logAs c i e v t a).hostless = s.hostless := by
  rw [State.logAs_eq]
  rfl

theorem State.flushQueue_hostless (s : State) (tn qn : Nat) : (s.flushQueue tn qn).hostless = s.hostless := by
  unfold State.flushQueue
  dsimp only
  split <;> rfl

theorem State.pushShadow_hostless (s : State) (tn qn : Nat) (e : W32 → Entry) : (s.pushShadow tn qn e).hostless = s.hostless := by
  unfold State.pushShadow
  dsimp only
  split <;> rfl

theorem State.drainWaiting_hostless (s : State) (tn fuel : Nat) : (s.drainWaiting tn fuel).hostless = s.hostless := by
  induction fuel generalizing s with
  | zero => rfl
  | succ fuel ih =>
    unfold State.drainWaiting
    dsimp only
    split
    · rfl
    · split
      · rw [ih, State.pushShadow_hostless]
        rfl
      · rfl

theorem State.post1_hostless (s : State) (tn : Nat) (e : Entry) : (s.post1 tn e).hostless = s.hostless := by
  rw [State.post1, State.flushQueue_hostless, State.drainWaiting_hostless]
  rfl

theorem State.postEvent_hostless (s : State) (tn op : Nat) (detail : List (Nat × Nat × Nat)) :
    (s.postEvent tn op detail).hostless = s.hostless := s.post1_hostless tn _

theorem State.complete_hostless (s : State) (tn : Nat) (cmd : Entry) (status code : Nat) (more : List (Nat × Nat × Nat)) :
    (s.complete tn cmd status code more).hostless = s.hostless := by
  unfold State.complete
  split
  · rfl
  · exact s.post1_hostless tn _

theorem State.releaseFences_hostless (s : State) (tn fuel : Nat) : (s.releaseFences tn fuel).hostless = s.hostless := by
  induction fuel generalizing s with
  | zero => rfl
  | succ fuel ih =>
    unfold State.releaseFences
    dsimp only
    split
    · rfl
    · rw [ih, State.complete_hostless]
      rfl

theorem State.finish_hostless (s : State) (tn : Nat) (cmd : Entry) (status code : Nat) (more : List (Nat × Nat × Nat)) :
    (s.finish tn cmd status code more).hostless = s.hostless := by
  rw [State.finish, State.releaseFences_hostless]
  exact s.complete_hostless tn cmd status code more

theorem State.reportQuota_hostless (s : State) (tn : Nat) : (s.reportQuota tn).hostless = s.hostless := by
  have hlogged (c : Prop) [Decidable c] (t : State) (a : List (Nat × Nat)) :
      (if c then t.logAs 0x0D 0 0x0051 1 (some tn) a else t).hostless = t.hostless := by
    split
    · exact t.logAs_hostless _ _ _ _ _ _
    · rfl
  unfold State.reportQuota
  dsimp only
  split
  · rw [State.postEvent_hostless, hlogged]
    rfl
  · rw [hlogged]
    rfl

theorem State.freeFrames_hostless (s : State) (tn : Nat) (sel : Nat × Nat × FrameUse → Bool) :
    (s.freeFrames tn sel).hostless = s.hostless := by
  rw [State.freeFrames, State.reportQuota_hostless]
  rfl

/-- A context once it is retired. -/
def Ctx.retired (x : Ctx) : Ctx := { x with life := .retired }

/-- A context as the end of job `j` leaves it. -/
def Ctx.retireOf (j : JobRec) (x : Ctx) : Ctx := if x.ofJob j then x.retired else x

/-- A core as the end of job `j` leaves it. -/
def CoreSt.retireOf (j : JobRec) (c : CoreSt) : CoreSt := { c with ctxs := c.ctxs.map (fun e => (e.1, e.2.retireOf j)) }

/-- The state with every context of job `j` retired. -/
def State.retireOf (s : State) (j : JobRec) : State := { s with cores := s.cores.map (fun e => (e.1, e.2.retireOf j)) }

theorem State.mapJobCtxs_retired (s : State) (j : JobRec) :
    s.mapJobCtxs j (fun x => { x with life := .retired }) = s.retireOf j := rfl

/-- A job that ends leaves its slot, and its contexts retire; one that does not yet end leaves all as it was. -/
theorem State.endJob_hostless (s : State) (k : Nat) :
    (s.endJob k).hostless = s.hostless ∨ (s.endJob k).hostless = ((s.retireOf (s.job k).info).setJob k Job.none).hostless := by
  unfold State.endJob
  dsimp only
  rw [State.mapJobCtxs_retired]
  split
  · refine .inr ?_
    split
    · rw [State.finish_hostless, State.updTenant_hostless, State.dropColl_hostless, State.setJob_hostless, State.pages_hostless,
        State.freeFrames_hostless, State.setJob_hostless]
    · rw [State.updTenant_hostless, State.dropColl_hostless, State.setJob_hostless, State.pages_hostless,
        State.freeFrames_hostless, State.setJob_hostless]
  · exact .inl rfl

/-! ### Contexts that retire -/

/-- A value read from a table whose entries are all changed by `g` is changed by `g`, or is listed nowhere. -/
theorem get_map_or {α : Type} (g : α → α) (d : α) (t : Sp α) (k : Nat) :
    Sp.get d (t.map (fun e => (e.1, g e.2))) k = g (Sp.get d t k) ∨ Sp.get d (t.map (fun e => (e.1, g e.2))) k = Sp.get d t k := by
  induction t with
  | nil => exact .inr rfl
  | cons e t ih =>
    rw [List.map_cons, Sp.get, Sp.get]
    split
    · exact .inl rfl
    · exact ih

/-- From `s` to `t` contexts may have retired; memory, and all else of the cores and contexts, is as it was. -/
structure State.Retires (s t : State) : Prop where
  mem : t.mem = s.mem
  core : ∀ n, t.core n = { s.core n with ctxs := (t.core n).ctxs }
  ctx : ∀ n k, t.ctx n k = { s.ctx n k with life := (t.ctx n k).life }
  life : ∀ n k, (t.ctx n k).life = (s.ctx n k).life ∨ (t.ctx n k).life = .retired

theorem State.Retires.of_cores {s t : State} (hmem : t.mem = s.mem) (hcores : t.cores = s.cores) : s.Retires t := by
  have hcore (n : Nat) : t.core n = s.core n := by rw [State.core, hcores, State.core]
  have hctx (n k : Nat) : t.ctx n k = s.ctx n k := by rw [State.ctx, hcore, State.ctx]
  exact ⟨hmem, fun n => by rw [hcore], fun n k => by rw [hctx], fun n k => .inl (by rw [hctx])⟩

/-- Posts toward the host retire nothing. -/
theorem State.Retires.of_hostless {s t : State} (h : t.hostless = s.hostless) : s.Retires t :=
  .of_cores (State.mem_of_hostless h) (State.cores_of_hostless h)

theorem State.setJob_retires (s : State) (k : Nat) (j : Job) : s.Retires (s.setJob k j) := .of_cores rfl rfl

theorem State.Retires.trans {s t u : State} (h : s.Retires t) (k : t.Retires u) : s.Retires u := by
  refine ⟨k.mem.trans h.mem, fun n => ?_, fun n j => ?_, fun n j => ?_⟩
  · rw [k.core n, h.core n]
  · rw [k.ctx n j, h.ctx n j]
  · rcases k.life n j with hu | hu
    · rw [hu]
      exact h.life n j
    · exact .inr hu

theorem Ctx.retireOf_cases (j : JobRec) (x : Ctx) : x.retireOf j = x.retired ∨ x.retireOf j = x := by
  unfold Ctx.retireOf
  split
  · exact .inl rfl
  · exact .inr rfl

theorem State.retireOf_core (s : State) (j : JobRec) (n : Nat) :
    (s.retireOf j).core n = (s.core n).retireOf j ∨ (s.retireOf j).core n = s.core n := get_map_or (CoreSt.retireOf j) _ _ _

theorem State.retireOf_ctx (s : State) (j : JobRec) (n k : Nat) :
    (s.retireOf j).ctx n k = (s.ctx n k).retired ∨ (s.retireOf j).ctx n k = s.ctx n k := by
  rw [State.ctx, State.ctx]
  rcases s.retireOf_core j n with hcore | hcore <;> rw [hcore]
  · rcases get_map_or (Ctx.retireOf j) Ctx.fresh (s.core n).ctxs k with hctx | hctx
    · rw [CoreSt.ctx, CoreSt.retireOf, hctx]
      exact Ctx.retireOf_cases j _
    · exact .inr hctx
  · exact .inr rfl

theorem State.Retires.of_ctx {s t : State} (hmem : t.mem = s.mem) (hcore : ∀ n, t.core n = { s.core n with ctxs := (t.core n).ctxs })
    (hctx : ∀ n k, t.ctx n k = (s.ctx n k).retired ∨ t.ctx n k = s.ctx n k) : s.Retires t := by
  refine ⟨hmem, hcore, fun n k => ?_, fun n k => ?_⟩
  · rcases hctx n k with h | h <;> rw [h]
    rfl
  · rcases hctx n k with h | h <;> rw [h]
    · exact .inr rfl
    · exact .inl rfl

theorem State.retireOf_retires (s : State) (j : JobRec) : s.Retires (s.retireOf j) := by
  refine .of_ctx rfl (fun n => ?_) (s.retireOf_ctx j)
  rcases s.retireOf_core j n with h | h <;> rw [h]
  rfl

theorem State.endJob_retires (s : State) (k : Nat) : s.Retires (s.endJob k) := by
  rcases s.endJob_hostless k with h | h
  · exact .of_hostless h
  · exact ((s.retireOf_retires _).trans (State.setJob_retires _ k Job.none)).trans (.of_hostless h)

/-- The state in which a job has begun to stop: the steward's record and event are out (R103, R410). -/
def State.stopping (s : State) (k cause : Nat) : State :=
  let j := s.job k
  let r := (Config.stopReason cause).toNat
  ((s.setJob k { j with life := .stopping }).logAs 0 0 0x0045 3 (some j.info.tenant) [(1, k), (2, r)]).postEvent j.info.tenant 0x82
    [(16, 2, j.info.job), (18, 2, r)]

theorem State.stopping_hostless (s : State) (k cause : Nat) :
    (s.stopping k cause).hostless = (s.setJob k { s.job k with life := .stopping }).hostless := by
  rw [State.stopping, State.postEvent_hostless, State.logAs_hostless]

theorem State.stopJob_of_running {s : State} {k : Nat} (h : (s.job k).life = .running) (cause : Nat) :
    s.stopJob k cause = (s.stopping k cause).endJob k := if_pos h

theorem State.stopJob_of_not_running {s : State} {k : Nat} (h : (s.job k).life ≠ .running) (cause : Nat) : s.stopJob k cause = s :=
  if_neg h

theorem State.stopJob_retires (s : State) (k cause : Nat) : s.Retires (s.stopJob k cause) := by
  by_cases h : (s.job k).life = .running
  · rw [State.stopJob_of_running h]
    exact ((s.setJob_retires k _).trans (.of_hostless (s.stopping_hostless k cause))).trans (State.endJob_retires _ k)
  · rw [State.stopJob_of_not_running h]
    exact .of_cores rfl rfl

/-- A stopped job does not run any more. -/
theorem State.stopJob_life (s : State) (k cause : Nat) : ((s.stopJob k cause).job k).life ≠ .running := by
  by_cases h : (s.job k).life = .running
  · have hstop : ((s.stopping k cause).job k).life = .stopping := by
      rw [State.job_of_hostless (s.stopping_hostless k cause), State.job_setJob_same]
    rw [State.stopJob_of_running h]
    rcases (s.stopping k cause).endJob_hostless k with he | he
    · rw [State.job_of_hostless he, hstop]
      exact JobLife.noConfusion
    · rw [State.job_of_hostless he, State.job_setJob_same]
      exact JobLife.noConfusion
  · rwa [State.stopJob_of_not_running h]

/-! ### A core's next work (R92, R104) -/

/-- What a core does next: one of the runs that are not a save. -/
theorem State.schedule_eq (s : State) (n : Nat) (pass : Option Nat) (atStart : Bool) :
    ∃ r y, s.schedule n pass atStart = s.setCore n { s.core n with run := r, yielded := y } ∧ (∀ k f, r ≠ .saving k f) ∧
      ((s.core n).drainReq = true → r = .drained) := by
  unfold State.schedule
  dsimp only
  split
  · exact ⟨_, _, rfl, by simp, fun _ => rfl⟩
  next hdrain =>
    have hnot {r : CoreRun} : (s.core n).drainReq = true → r = .drained := fun h => absurd h hdrain
    split
    · exact ⟨_, _, rfl, by simp, hnot⟩
    · split
      · exact ⟨_, _, rfl, by simp, hnot⟩
      · unfold State.fillScan
        dsimp only
        split
        · exact ⟨_, _, rfl, by simp, hnot⟩
        · exact ⟨_, _, rfl, by simp, hnot⟩

/-- From `s` to `t` core `n` may have taken other work, and that is all. -/
structure State.Reschedules (s t : State) (n : Nat) : Prop where
  rest : t = { s with cores := t.cores }
  other : ∀ m, m ≠ n → t.core m = s.core m
  core : ∃ r y, t.core n = { s.core n with run := r, yielded := y }

theorem State.schedule_reschedules (s : State) (n : Nat) (pass : Option Nat) (atStart : Bool) :
    s.Reschedules (s.schedule n pass atStart) n := by
  obtain ⟨r, y, h, -⟩ := s.schedule_eq n pass atStart
  rw [h]
  exact ⟨rfl, fun m hm => s.core_setCore_other _ hm, r, y, s.core_setCore_same n _⟩

theorem State.release_reschedules (s : State) (n k : Nat) : s.Reschedules (s.release n k) n := by
  unfold State.release
  split
  · exact s.schedule_reschedules n none false
  · exact ⟨rfl, fun _ _ => rfl, _, _, rfl⟩

/-- A core that takes other work leaves every context as it was. -/
theorem State.Reschedules.ctx {s t : State} {n : Nat} (h : s.Reschedules t n) (m k : Nat) : t.ctx m k = s.ctx m k := by
  by_cases hm : m = n
  · obtain ⟨r, y, hcore⟩ := h.core
    rw [hm, State.ctx, hcore, State.ctx]
    rfl
  · rw [State.ctx, h.other m hm, State.ctx]

end Sys2Proof.Machine

/-!
PROOFS. Faults of the sequencer (R102, R103): what it cannot fetch or take, and what such a fault leaves.
-/

namespace Sys2Proof.Machine

/-! ### The fault itself -/

@[simp] theorem State.logAs_core (s : State) (c i e v : Nat) (t : Option Nat) (a : List (Nat × Nat)) (m : Nat) :
    (s.logAs c i e v t a).core m = s.core m := by
  rw [State.core, State.logAs_cores, State.core]

@[simp] theorem State.logAs_ctx (s : State) (c i e v : Nat) (t : Option Nat) (a : List (Nat × Nat)) (m j : Nat) :
    (s.logAs c i e v t a).ctx m j = s.ctx m j := by
  rw [State.ctx, State.logAs_core, State.ctx]

theorem State.core_updCtx_same (s : State) (n k : Nat) (f : Ctx → Ctx) :
    (s.updCtx n k f).core n = (s.core n).setCtx k (f (s.ctx n k)) := s.core_setCtx_same n k _

/-- A core once CP_INT names a fault of context `k` (R104). -/
def CoreSt.faulted (c : CoreSt) (k code : Nat) : CoreSt := { c with fault := true, faultCode := code, faultCtx := k }

/-- A context once it has been parked. -/
def Ctx.parked (x : Ctx) : Ctx := { x with life := .parked, inTick := false, hold := .none }

/-- The context parked and the fault recorded in CP_INT and the log, before the job is stopped. -/
def State.faultParked (s : State) (n k code : Nat) : State :=
  let x := s.ctx n k
  ((s.updCore n (·.faulted k code)).logAs 1 n 0x0002 3 (some x.prog.tenant)
    [(1, n), (1, k), (1, code), (2, x.prog.id), (2, x.pc)]).updCtx n k Ctx.parked

/-- Then the module fails, of fault 0x03, or the job of the context is stopped, if it has one. -/
def State.faultStopped (s : State) (n k code : Nat) : State :=
  let t := s.faultParked n k code
  if code = 3 then t.moduleFault
  else
    match s.jobSlot (s.ctx n k).prog with
    | some j => t.stopJob j code
    | none => t

theorem State.seqFault_eq (s : State) (n k code : Nat) : s.seqFault n k code = (s.faultStopped n k code).release n k := by
  simp only [State.seqFault, State.faultStopped, State.faultParked, State.jobSlot, State.logAs_jobs, State.updCore_jobs] <;> rfl

section
variable (s : State) (n k code : Nat)

theorem State.faultParked_core :
    (s.faultParked n k code).core n = ((s.core n).faulted k code).setCtx k (s.ctx n k).parked := by
  rw [State.faultParked, State.core_updCtx_same, State.logAs_ctx, State.logAs_core, State.core_updCore_same, State.ctx,
    State.core_updCore_same]
  rfl

theorem State.faultParked_ctx : (s.faultParked n k code).ctx n k = (s.ctx n k).parked := by
  rw [State.ctx, State.faultParked_core, CoreSt.ctx_setCtx_same]

theorem State.faultParked_rest : s.faultParked n k code =
    { s with cores := (s.faultParked n k code).cores, log := (s.faultParked n k code).log } := by
  rw [State.faultParked, State.logAs_eq]
  rfl

theorem State.moduleFault_mem : s.moduleFault.mem = s.mem := by
  unfold State.moduleFault
  split <;> rfl

theorem State.moduleFault_cores : s.moduleFault.cores = s.cores := by
  unfold State.moduleFault
  split <;> rfl

theorem State.moduleFault_jobs : s.moduleFault.jobs = s.jobs := by
  unfold State.moduleFault
  split <;> rfl

/-- A module fault of a module that does not yet seal stops issue and begins the seal with cause 4 (R466). -/
theorem State.moduleFault_seals {s : State} (h : s.sealRun = none) :
    s.moduleFault.stopped = true ∧ s.moduleFault.sealRun = some ⟨4, s.now, some 6⟩ := by
  rw [State.moduleFault, h]
  exact ⟨rfl, rfl⟩

theorem State.faultStopped_retires : (s.faultParked n k code).Retires (s.faultStopped n k code) := by
  unfold State.faultStopped
  dsimp only
  split
  · exact .of_cores (State.moduleFault_mem _) (State.moduleFault_cores _)
  · split
    · exact State.stopJob_retires _ _ code
    · exact .of_cores rfl rfl

/-- Where no job is stopped, the context stays parked. -/
theorem State.faultStopped_cores {s : State} {n k code : Nat} (h : s.jobSlot (s.ctx n k).prog = none ∨ code = 3) :
    (s.faultStopped n k code).cores = (s.faultParked n k code).cores := by
  unfold State.faultStopped
  dsimp only
  split
  · exact State.moduleFault_cores _
  next hcode => rw [h.resolve_right hcode]

/-! ### What a fault leaves -/

/-- CP_INT names the fault (R104). -/
theorem State.seqFault_core : ((s.seqFault n k code).core n).fault = true ∧ ((s.seqFault n k code).core n).faultCode = code ∧
    ((s.seqFault n k code).core n).faultCtx = k := by
  obtain ⟨r, y, hcore⟩ := ((s.faultStopped n k code).release_reschedules n k).core
  rw [State.seqFault_eq, hcore, (s.faultStopped_retires n k code).core n, State.faultParked_core]
  exact ⟨rfl, rfl, rfl⟩

theorem State.seqFault_ctx : ((s.seqFault n k code).ctx n k) =
    { (s.ctx n k).parked with life := ((s.seqFault n k code).ctx n k).life } := by
  have hctx := (s.faultStopped_retires n k code).ctx n k
  rw [State.seqFault_eq, ((s.faultStopped n k code).release_reschedules n k).ctx n k, hctx, State.faultParked_ctx]

theorem State.seqFault_life : ((s.seqFault n k code).ctx n k).life = .parked ∨ ((s.seqFault n k code).ctx n k).life = .retired := by
  have hlife := (s.faultStopped_retires n k code).life n k
  rw [State.faultParked_ctx] at hlife
  rwa [State.seqFault_eq, ((s.faultStopped n k code).release_reschedules n k).ctx n k]

theorem State.seqFault_parked {s : State} {n k code : Nat} (h : s.jobSlot (s.ctx n k).prog = none ∨ code = 3) :
    ((s.seqFault n k code).ctx n k).life = .parked := by
  rw [State.seqFault_eq, ((s.faultStopped n k code).release_reschedules n k).ctx n k, State.ctx, State.core,
    State.faultStopped_cores h]
  exact congrArg Ctx.life (s.faultParked_ctx n k code)

theorem State.seqFault_mem : (s.seqFault n k code).mem = s.mem := by
  rw [State.seqFault_eq, ((s.faultStopped n k code).release_reschedules n k).rest]
  change (s.faultStopped n k code).mem = s.mem
  rw [(s.faultStopped_retires n k code).mem, State.faultParked_rest]

theorem State.seqFault_stops {s : State} {n k code j : Nat} (h : s.jobSlot (s.ctx n k).prog = some j) (hcode : code ≠ 3) :
    ((s.seqFault n k code).job j).life ≠ .running := by
  rw [State.seqFault_eq, ((s.faultStopped n k code).release_reschedules n k).rest]
  change ((s.faultStopped n k code).job j).life ≠ .running
  simp only [State.faultStopped, if_neg hcode, h]
  exact State.stopJob_life _ j code

/-- Fault 0x03 is one of the module. -/
theorem State.seqFault_module {s : State} (n k : Nat) (h : s.sealRun = none) : (s.seqFault n k 3).stopped = true ∧
    (s.seqFault n k 3).sealRun = some ⟨4, s.now, some 6⟩ ∧ (s.seqFault n k 3).jobs = s.jobs := by
  have hrest := s.faultParked_rest n k 3
  have hseal : (s.faultParked n k 3).sealRun = none := by rw [hrest, h]
  obtain ⟨hstopped, hrun⟩ := State.moduleFault_seals hseal
  rw [State.seqFault_eq, ((s.faultStopped n k 3).release_reschedules n k).rest]
  refine ⟨hstopped, hrun.trans ?_, (State.moduleFault_jobs _).trans ?_⟩ <;> rw [hrest]

end

/-! ### What the sequencer cannot take -/

/-- The code of the fault that a fetch, or the word fetched, gives (R102). -/
def State.fetchCode (s : State) (n k : Nat) (ecc : Ecc) : Nat :=
  if (s.ctx n k).prog.length ≤ (s.ctx n k).pc then 5 else if ecc = .uncorrectable then 3 else 1

/-- What a fetch gives where the sequencer of the running context is free (R72, R81, R102). -/
theorem State.fetch_of_free {s : State} {n k : Nat} (ecc : Ecc) (hrun : (s.core n).running = some k) (hgo : s.stopped = false)
    (htick : (s.ctx n k).inTick = true) (hfree : (s.ctx n k).hold = .none) :
    s.fetch n ecc =
      if (s.ctx n k).prog.length ≤ (s.ctx n k).pc then .fault k 5
      else if ecc = .uncorrectable then .fault k 3
      else .word k ((s.core n).word (s.core n).active ((s.ctx n k).prog.start + (s.ctx n k).pc)) := by
  rw [State.ctx] at htick hfree
  cases ecc <;> simp [State.fetch, State.ctx, hrun, hgo, htick, hfree]

/-- What cannot be fetched, and a word that is not legal, faults the running context, whatever instruction the step is for. Only the
record of a corrected word may stand in the log besides. -/
theorem State.seqStep_faults {s : State} {n k : Nat} {ecc : Ecc} (hrun : (s.core n).running = some k) (hgo : s.stopped = false)
    (htick : (s.ctx n k).inTick = true) (hfree : (s.ctx n k).hold = .none)
    (hbad : (s.ctx n k).prog.length ≤ (s.ctx n k).pc ∨ ecc = .uncorrectable ∨
      wordLegal ((s.core n).word (s.core n).active ((s.ctx n k).prog.start + (s.ctx n k).pc)) = false) :
    ∃ l, ∀ cls opc eff, s.seqStep n ecc cls opc eff = { s with log := l }.seqFault n k (s.fetchCode n k ecc) := by
  simp only [State.seqStep, State.fetch_of_free ecc hrun hgo htick hfree, State.fetchCode]
  by_cases hend : (s.ctx n k).prog.length ≤ (s.ctx n k).pc
  · simp only [if_pos hend]
    exact ⟨s.log, fun _ _ _ => rfl⟩
  · by_cases hecc : ecc = .uncorrectable
    · simp only [if_neg hend, if_pos hecc]
      exact ⟨s.log, fun _ _ _ => rfl⟩
    · have hword := (hbad.resolve_left hend).resolve_left hecc
      simp only [if_neg hend, if_neg hecc, hword]
      exact ⟨(s.issued n k ecc).log, fun _ _ _ => congrArg (State.seqFault · n k 1) (s.issued_eq n k ecc)⟩

/-- Settles O8: whichever instruction the step is for, what cannot be taken is one fault of the sequencer. -/
theorem fetchFaults : Obligations.FetchFaults := by
  intro s n k ecc hrun hgo htick hfree x w code hbad i hi
  obtain ⟨l, hstep⟩ := State.seqStep_faults hrun hgo htick hfree hbad
  have hexec : exec i s = .next ({ s with log := l }.seqFault n k code) := by
    obtain ⟨cls, opc, eff, hown⟩ : ∃ cls opc eff, exec i s = .next (s.ownStep n ecc cls opc eff) := by
      fin_cases hi <;> exact ⟨_, _, _, rfl⟩
    rw [hown, State.ownStep, hstep]
    rfl
  obtain ⟨hfault, hcode, hctx⟩ := State.seqFault_core { s with log := l } n k code
  have hleft := State.seqFault_ctx { s with log := l } n k code
  refine ⟨_, hexec, hfault, hcode, hctx, State.seqFault_life _ n k code, by rw [hleft]; rfl, by rw [hleft]; rfl,
    State.seqFault_mem _ n k code, fun h => State.seqFault_parked h, fun j hj hne => State.seqFault_stops hj hne, fun h hseal => ?_⟩
  rw [h]
  exact State.seqFault_module n k (s := { s with log := l }) hseal

end Sys2Proof.Machine

/-!
PROOFS. Holds and ticks (R75, R78, R90, R91, R408): what holds the sequencer, and how a tick and a HALT retire.
-/

namespace Sys2Proof.Machine

/-! ### What waits for a quiet context (R78) -/

section
variable {s : State} {n k : Nat} (hrun : (s.core n).running = some k) (hquiet : s.quiet n k = true) (hgo : s.stopped = false)
include hrun hquiet hgo

theorem exec_fenceComplete (hhold : (s.ctx n k).hold = .fence) :
    exec (.fenceComplete n) s = .next (s.updCtx n k (fun x => { x with hold := .none, pc := x.pc + 1, ve := none })) := by
  change execFenceComplete n s = _
  simp only [execFenceComplete, hrun, hhold, hquiet, hgo, and_self, if_true]

theorem exec_tickEndRetire (hhold : (s.ctx n k).hold = .tickEnd) : exec (.tickEndRetire n) s = .next (s.tickEndRetire n k) := by
  change execTickEndRetire n s = _
  simp only [execTickEndRetire, hrun, hhold, hquiet, hgo, and_self, if_true]

theorem exec_haltRetire (hhold : (s.ctx n k).hold = .halt) : exec (.haltRetire n) s = .next (s.haltRetire n k) := by
  change execHaltRetire n s = _
  simp only [execHaltRetire, hrun, hhold, hquiet, hgo, and_self, if_true]

end

theorem CoreSt.running_of_run {c : CoreSt} {k : Nat} {f : Bool} (h : c.run = .running k f) : c.running = some k := by
  rw [CoreSt.running, h]

theorem CoreSt.fillRuns_of_run {c : CoreSt} {k : Nat} {f : Bool} (h : c.run = .running k f) : c.fillRuns = f := by
  rw [CoreSt.fillRuns, h]

/-! ### Scalar registers (R75) -/

theorem Ctx.setReg_eq (x : Ctx) (r : Nat) (v : W32) : x.setReg r v = { x with regs := (x.setReg r v).regs } := by
  unfold Ctx.setReg
  split <;> rfl

theorem Ctx.reg_setReg_same (x : Ctx) {r : Nat} (v : W32) (h : r ≠ 0) : (x.setReg r v).reg r = v := by
  rw [Ctx.setReg, if_neg h, Ctx.reg, if_neg h, Sp.get_set_same]

theorem Ctx.reg_setReg_other (x : Ctx) {q r : Nat} (v : W32) (h : q ≠ r) : (x.setReg r v).reg q = x.reg q := by
  unfold Ctx.setReg
  split
  · rfl
  · rw [Ctx.reg, Ctx.reg, Sp.get_set_other _ _ _ h]

/-- A register reads by the registers alone. -/
theorem Ctx.reg_congr {x y : Ctx} (h : x.regs = y.regs) (r : Nat) : x.reg r = y.reg r := by rw [Ctx.reg, Ctx.reg, h]

/-! ### Overruns (R91) -/

theorem State.ctx_updCtx_otherCtx (s : State) (n : Nat) {j k : Nat} (f : Ctx → Ctx) (h : j ≠ k) :
    (s.updCtx n k f).ctx n j = s.ctx n j := by
  rw [State.ctx, State.core_updCtx_same, CoreSt.ctx_setCtx_other _ _ h, State.ctx]

/-- An overrun leaves each context as it was, but for the beat that its next tick is due in. -/
theorem State.overrun_ctx (s : State) (n k b j : Nat) :
    { (s.overrun n k b).ctx n j with tickBeat := 0 } = { s.ctx n j with tickBeat := 0 } := by
  by_cases h : b % 2 ^ s.stretchOf b = 0
  · have hcore : (s.overrun n k b).core n = (s.core n).countOverrun k b := by
      rw [State.overrun_of_included n k h]
      exact s.core_updCore_same n (fun c => c.countOverrun k b)
    rw [State.ctx, hcore, State.ctx]
    by_cases hj : j = k
    · rw [hj, CoreSt.countOverrun]
      change { ((s.core n).setCtx k _).ctx k with tickBeat := 0 } = _
      rw [CoreSt.ctx_setCtx_same]
    · change { ((s.core n).setCtx k _).ctx j with tickBeat := 0 } = _
      rw [CoreSt.ctx_setCtx_other _ _ hj]
  · rw [State.overrun_of_excluded n k h]

theorem State.overrunTo_ctx (s : State) (n k b0 b1 j : Nat) :
    (s.overrunTo n k b0 b1).ctx n j = { s.ctx n j with tickBeat := ((s.overrunTo n k b0 b1).ctx n j).tickBeat } := by
  have hkept : { (s.overrunTo n k b0 b1).ctx n j with tickBeat := 0 } = { s.ctx n j with tickBeat := 0 } := by
    unfold State.overrunTo
    split
    · exact foldl_keeps (p := fun s : State => { s.ctx n j with tickBeat := 0 }) (fun s _ => s.overrun_ctx n k _ j) _ s
    · rfl
  exact congrArg (fun x : Ctx => { x with tickBeat := ((s.overrunTo n k b0 b1).ctx n j).tickBeat }) hkept

/-- A tick that ends in its own beat has overrun none. -/
theorem State.overrunTo_of_le (s : State) (n k : Nat) {b0 b1 : Nat} (h : b1 ≤ b0) : s.overrunTo n k b0 b1 = s := by
  unfold State.overrunTo
  rw [Nat.sub_eq_zero_of_le h]
  split <;> rfl

theorem State.SameButCores.jobs {s t : State} (h : s.SameButCores t) : t.jobs = s.jobs := by rw [h]
theorem State.SameButCores.image {s t : State} (h : s.SameButCores t) : t.image = s.image := by rw [h]

/-! ### A context whose job is stopping (R408) -/

/-- Whether the job of a context is stopping. -/
def State.jobStops (s : State) (n k : Nat) : Bool := (s.jobSlot (s.ctx n k).prog).any (fun j => (s.job j).life == .stopping)

/-- A context that may begin a tick has a job that runs. -/
theorem State.jobStops_of_mayTick {s : State} {n k : Nat} (h : s.mayTick n (s.ctx n k).prog = true) : s.jobStops n k = false := by
  unfold State.mayTick at h
  unfold State.jobStops
  split at h
  next j hj =>
    simp only [Bool.and_eq_true, decide_eq_true_eq] at h
    rw [hj, Option.any_some, h.1]
    rfl
  next => exact absurd h Bool.false_ne_true

theorem State.retireIfStopping_of_not {s : State} {n k : Nat} (h : s.jobStops n k = false) : s.retireIfStopping n k = s := by
  unfold State.jobStops at h
  unfold State.retireIfStopping
  split
  · rfl
  next j hj =>
    rw [hj, Option.any_some] at h
    rw [if_neg (beq_eq_false_iff_ne.mp h)]

theorem State.retireIfStopping_of_stops {s : State} {n k : Nat} (h : s.jobStops n k = true) :
    ∃ j, s.retireIfStopping n k = (s.updCtx n k Ctx.retired).endJob j := by
  obtain ⟨j, hj, hlife⟩ := (Option.any_eq_true _ _).mp h
  refine ⟨j, ?_⟩
  rw [State.retireIfStopping, hj]
  exact if_pos (beq_iff_eq.mp hlife)

/-- One context retired. -/
theorem State.updCtx_retires (s : State) (n k : Nat) : s.Retires (s.updCtx n k Ctx.retired) := by
  refine .of_ctx rfl (fun m => ?_) (fun m j => ?_)
  · by_cases hm : m = n
    · rw [hm, State.core_updCtx_same]
      rfl
    · rw [State.updCtx, State.core_setCtx_other _ _ _ hm]
  · by_cases hm : m = n
    · by_cases hj : j = k
      · rw [hm, hj, State.ctx_updCtx_same]
        exact .inl rfl
      · rw [hm, State.ctx_updCtx_otherCtx _ _ _ hj]
        exact .inr rfl
    · rw [State.ctx, State.updCtx, State.core_setCtx_other _ _ _ hm]
      exact .inr rfl

theorem State.retireIfStopping_retires (s : State) (n k : Nat) : s.Retires (s.retireIfStopping n k) := by
  cases h : s.jobStops n k
  · rw [State.retireIfStopping_of_not h]
    exact .of_cores rfl rfl
  · obtain ⟨j, hend⟩ := State.retireIfStopping_of_stops h
    rw [hend]
    exact (s.updCtx_retires n k).trans (State.endJob_retires _ j)

theorem State.retireIfStopping_life (s : State) (n k : Nat) :
    ((s.retireIfStopping n k).ctx n k).life = if s.jobStops n k then .retired else (s.ctx n k).life := by
  cases h : s.jobStops n k
  · rw [State.retireIfStopping_of_not h]
    rfl
  · obtain ⟨j, hend⟩ := State.retireIfStopping_of_stops h
    have hlife := (State.endJob_retires (s.updCtx n k Ctx.retired) j).life n k
    rw [State.ctx_updCtx_same] at hlife
    rw [hend]
    exact hlife.elim id id

/-! ### The end of a tick (R90, R144) -/

/-- The tick of a context is over: the context as `f` leaves it, and the tile buffers cleared. -/
def State.tickDone (s : State) (n k : Nat) (f : Ctx → Ctx) : State :=
  (s.updCtx n k f).updCore n (fun c => { c with ve := clearTiles c.ve })

section
variable (s : State) (n k : Nat) (f : Ctx → Ctx)

theorem State.tickDone_sameButCores : s.SameButCores (s.tickDone n k f) := rfl

theorem State.tickDone_core : (s.tickDone n k f).core n =
    { (s.core n).setCtx k (f (s.ctx n k)) with ve := clearTiles (s.core n).ve } := by
  rw [State.tickDone, State.core_updCore_same, State.core_updCtx_same]
  rfl

theorem State.tickDone_ctx : (s.tickDone n k f).ctx n k = f (s.ctx n k) := by
  rw [State.ctx, State.tickDone_core]
  exact CoreSt.ctx_setCtx_same _ k _

theorem State.tickDone_ctx_other {j : Nat} (h : j ≠ k) : (s.tickDone n k f).ctx n j = s.ctx n j := by
  rw [State.ctx, State.tickDone_core]
  exact CoreSt.ctx_setCtx_other _ _ h

/-- A context that a row of the sequencer has retired: the tick is over, and it is out of its job if that stops. -/
def State.tickRetired : State := (s.tickDone n k f).retireIfStopping n k

theorem State.tickRetired_mem : (s.tickRetired n k f).mem = s.mem := (State.retireIfStopping_retires _ n k).mem

theorem State.tickRetired_overruns : ((s.tickRetired n k f).core n).overruns = (s.core n).overruns := by
  rw [State.tickRetired, (State.retireIfStopping_retires _ n k).core n, State.tickDone_core]
  rfl

theorem State.tickRetired_ctx_other {j : Nat} (h : j ≠ k) :
    (s.tickRetired n k f).ctx n j = { s.ctx n j with life := ((s.tickRetired n k f).ctx n j).life } := by
  have hctx := (State.retireIfStopping_retires (s.tickDone n k f) n k).ctx n j
  rwa [State.tickDone_ctx_other s n k f h] at hctx

theorem State.tickRetired_ctx :
    (s.tickRetired n k f).ctx n k = { f (s.ctx n k) with life := ((s.tickRetired n k f).ctx n k).life } := by
  have hctx := (State.retireIfStopping_retires (s.tickDone n k f) n k).ctx n k
  rwa [State.tickDone_ctx] at hctx

variable {f} (hprog : ∀ x, (f x).prog = x.prog)
include hprog

theorem State.tickDone_jobStops : (s.tickDone n k f).jobStops n k = s.jobStops n k := by
  rw [State.jobStops, State.tickDone_ctx, hprog]
  rfl

theorem State.tickRetired_life :
    ((s.tickRetired n k f).ctx n k).life = if s.jobStops n k then .retired else (f (s.ctx n k)).life := by
  rw [State.tickRetired, State.retireIfStopping_life, State.tickDone_jobStops s n k hprog, State.tickDone_ctx]

end

/-! ### The next tick of fill work (R90, R92, R93) -/

/-- Whether fill work goes on with its next tick. -/
def State.goesOn (s : State) (n k : Nat) (fill : Bool) : Prop :=
  fill = true ∧ (s.ctx n k).life = .live ∧ s.mayTick n (s.ctx n k).prog = true ∧ s.excludes s.beats.beat = false

/-- Whether fill work goes on is decided by its program and job, before or after its tick has been taken to be over. -/
theorem State.tickRetired_goesOn (s : State) (n k : Nat) (fill : Bool) {f : Ctx → Ctx} (hprog : ∀ x, (f x).prog = x.prog)
    (hlife : ∀ x, (f x).life = x.life) : (s.tickRetired n k f).goesOn n k fill ↔ s.goesOn n k fill := by
  cases h : s.jobStops n k
  · have hnot : (s.tickDone n k f).jobStops n k = false := (s.tickDone_jobStops n k hprog).trans h
    rw [State.tickRetired, State.retireIfStopping_of_not hnot, State.goesOn, State.tickDone_ctx, hprog, hlife]
    rfl
  · refine ⟨fun hgo => ?_, fun hgo => ?_⟩
    · have hretired := s.tickRetired_life n k hprog
      rw [h, hgo.2.1] at hretired
      exact CtxLife.noConfusion hretired
    · rw [State.jobStops_of_mayTick hgo.2.2.1] at h
      exact absurd h Bool.false_ne_true

/-- Fill work goes on with its next tick, or the core takes other work. -/
def State.nextWork (s : State) (n k : Nat) (fill : Bool) : State :=
  if fill ∧ (s.ctx n k).life = .live ∧ s.mayTick n (s.ctx n k).prog = true ∧ s.excludes s.beats.beat = false then
    s.updCtx n k (fun x => x.beginTick x.tickBeat)
  else s.schedule n none

section
variable {s : State} {n k : Nat} {fill : Bool}

theorem State.nextWork_of_goesOn (h : s.goesOn n k fill) : s.nextWork n k fill = s.updCtx n k (fun x => x.beginTick x.tickBeat) :=
  if_pos h

theorem State.nextWork_of_not (h : ¬s.goesOn n k fill) : s.nextWork n k fill = s.schedule n none := if_neg h

/-- What the core's next work leaves: memory, its count of overruns and its other contexts; of the context, registers, flags and life. -/
theorem State.nextWork_frame (s : State) (n k : Nat) (fill : Bool) : (s.nextWork n k fill).mem = s.mem ∧
    ((s.nextWork n k fill).core n).overruns = (s.core n).overruns ∧ (∀ j, j ≠ k → (s.nextWork n k fill).ctx n j = s.ctx n j) ∧
    ((s.nextWork n k fill).ctx n k).regs = (s.ctx n k).regs ∧ ((s.nextWork n k fill).ctx n k).flags = (s.ctx n k).flags ∧
    ((s.nextWork n k fill).ctx n k).life = (s.ctx n k).life ∧
    ((s.ctx n k).hold = .none → ((s.nextWork n k fill).ctx n k).hold = .none) := by
  by_cases h : s.goesOn n k fill
  · rw [State.nextWork_of_goesOn h, State.core_updCtx_same, State.ctx_updCtx_same]
    exact ⟨rfl, rfl, fun j hj => State.ctx_updCtx_otherCtx _ _ _ hj, rfl, rfl, rfl, fun _ => rfl⟩
  · have hwork := s.schedule_reschedules n none false
    obtain ⟨r, y, hcore⟩ := hwork.core
    rw [State.nextWork_of_not h, hcore, hwork.ctx n k]
    exact ⟨by rw [hwork.rest], rfl, fun j _ => hwork.ctx n j, rfl, rfl, rfl, id⟩

theorem State.nextWork_begins (h : s.goesOn n k fill) : ((s.nextWork n k fill).ctx n k).inTick = true ∧
    ((s.nextWork n k fill).ctx n k).pc = (s.ctx n k).prog.entry := by
  rw [State.nextWork_of_goesOn h, State.ctx_updCtx_same]
  exact ⟨rfl, rfl⟩

theorem State.nextWork_rests (h : ¬s.goesOn n k fill) : (s.nextWork n k fill).ctx n k = s.ctx n k := by
  rw [State.nextWork_of_not h]
  exact (s.schedule_reschedules n none false).ctx n k

end

/-! ### TICK_END_RETIRE and HALT_RETIRE -/

/-- A context whose tick is complete: s31 counts it (R75). -/
def Ctx.tickCounted (x : Ctx) : Ctx := (x.setReg 31 (x.reg 31 + 1)).endTick

theorem Ctx.tickCounted_eq (x : Ctx) : x.tickCounted = Ctx.endTick { x with regs := (x.setReg 31 (x.reg 31 + 1)).regs } := by
  rw [Ctx.tickCounted, Ctx.setReg_eq]

theorem Ctx.tickCounted_prog (x : Ctx) : x.tickCounted.prog = x.prog := by
  rw [Ctx.tickCounted_eq]
  rfl

theorem Ctx.tickCounted_life (x : Ctx) : x.tickCounted.life = x.life := by
  rw [Ctx.tickCounted_eq]
  rfl

/-- The state once the overruns of a scheduled program have been counted. -/
def State.tickOverruns (s : State) (n k : Nat) (fill : Bool) : State :=
  if fill then s else s.overrunTo n k s.beats.beat (s.now / s.beatLen)

theorem State.tickEndRetire_eq {s : State} {n k : Nat} {f : Bool} (h : (s.core n).run = .running k f) :
    s.tickEndRetire n k = ((s.tickOverruns n k f).tickRetired n k Ctx.tickCounted).nextWork n k f := by
  rw [State.tickEndRetire, CoreSt.fillRuns_of_run h]
  rfl

theorem State.haltRetire_eq (s : State) (n k : Nat) :
    s.haltRetire n k = (s.tickRetired n k (fun x => { x.endTick with life := .halted })).schedule n none := rfl

section
variable (s : State) (n k : Nat) (fill : Bool)

theorem State.tickOverruns_sameButCores : s.SameButCores (s.tickOverruns n k fill) := by
  unfold State.tickOverruns
  split
  · rfl
  · exact s.overrunTo_sameButCores n k _ _

theorem State.tickOverruns_ctx (j : Nat) :
    (s.tickOverruns n k fill).ctx n j = { s.ctx n j with tickBeat := ((s.tickOverruns n k fill).ctx n j).tickBeat } := by
  unfold State.tickOverruns
  split
  · rfl
  · exact s.overrunTo_ctx n k _ _ j

theorem State.tickOverruns_of_none {s : State} {n k : Nat} {fill : Bool} (h : fill = true ∨ s.now / s.beatLen ≤ s.beats.beat) :
    s.tickOverruns n k fill = s := by
  unfold State.tickOverruns
  split
  · rfl
  next hfill => exact s.overrunTo_of_le n k (h.resolve_left hfill)

/-- A scheduled program whose tick ends in the next beat has overrun once, in a beat that stretching does not exclude. -/
theorem State.tickOverruns_counts {s : State} {n k b : Nat} (hb : s.now / s.beatLen = b) (hnext : b = s.beats.beat + 1)
    (hslot : (firstSlot (s.core n).slots (s.ctx n k).prog.id).isSome = true) (hin : b % 2 ^ s.stretchOf b = 0) :
    ((s.tickOverruns n k false).core n).overruns = satAdd32 (s.core n).overruns 1 := by
  subst hnext
  rw [State.tickOverruns, if_neg Bool.false_ne_true, hb, State.overrunTo_next hslot, State.overrun_of_included n k hin]
  exact congrArg CoreSt.overruns (s.core_updCore_same n (fun c => c.countOverrun k (s.beats.beat + 1)))

theorem State.tickOverruns_jobStops : (s.tickOverruns n k fill).jobStops n k = s.jobStops n k := by
  have hsame := s.tickOverruns_sameButCores n k fill
  simp only [State.jobStops, State.jobSlot, State.job, hsame.jobs]
  rw [State.tickOverruns_ctx]

theorem State.tickOverruns_goesOn : (s.tickOverruns n k fill).goesOn n k fill ↔ s.goesOn n k fill := by
  cases fill
  · simp [State.goesOn]
  · rw [State.tickOverruns_of_none (.inl rfl)]

end

/-- A context whose tick is complete, but for its life: the registers count it, the flags stand. -/
theorem State.tickRetired_counted (s : State) (n k : Nat) (fill : Bool) :
    let y := ((s.tickOverruns n k fill).tickRetired n k Ctx.tickCounted).ctx n k
    y.regs = ((s.ctx n k).setReg 31 ((s.ctx n k).reg 31 + 1)).regs ∧ y.flags = (s.ctx n k).flags ∧ y.hold = .none ∧
      y.inTick = false ∧ y.prog = (s.ctx n k).prog ∧ y.life = if s.jobStops n k then .retired else (s.ctx n k).life := by
  have hlife := (s.tickOverruns n k fill).tickRetired_life n k Ctx.tickCounted_prog
  dsimp only
  rw [Ctx.tickCounted_life, State.tickOverruns_jobStops] at hlife
  rw [hlife, State.tickRetired_ctx, Ctx.tickCounted_eq, State.tickOverruns_ctx]
  exact ⟨rfl, rfl, rfl, rfl, rfl, rfl⟩

/-- The rest of what TICK_END_RETIRE leaves. -/
theorem State.tickRetired_others (s : State) (n k : Nat) (fill : Bool) {j : Nat} (h : j ≠ k) :
    let y := ((s.tickOverruns n k fill).tickRetired n k Ctx.tickCounted).ctx n j
    y.regs = (s.ctx n j).regs ∧ y.flags = (s.ctx n j).flags ∧ y.pc = (s.ctx n j).pc := by
  dsimp only
  rw [State.tickRetired_ctx_other _ n k _ h, State.tickOverruns_ctx]
  exact ⟨rfl, rfl, rfl⟩

/-- Settles O7: a tick that ends is counted, then the context retires if its job stops, and then comes the core's next work; none of
these touches another context's registers. -/
theorem holdsAndTicks : Obligations.HoldsAndTicks := by
  refine ⟨⟨?_, fun s n k hrun hhold hquiet hgo => exec_fenceComplete hrun hquiet hgo hhold⟩, ?_⟩
  · intro s n k w ecc hissues hcls x t
    refine ⟨fun hopc hquiet => ?_, fun hopc hquiet => ?_, fun hopc => ?_, fun hopc => ?_, fun hopc => ?_, fun hopc => ?_⟩
    · rw [hissues.exec_own rfl hcls hopc, effFence, State.issued_quiet, if_pos hquiet, State.issued_updCtx]
      rfl
    · rw [hissues.exec_own rfl hcls hopc, effFence, State.issued_quiet, hquiet, if_neg Bool.false_ne_true, State.issued_updCtx]
    · rw [hissues.exec_own rfl hcls hopc, effTickEnd, State.issued_updCtx]
    · rw [hissues.exec_own rfl hcls hopc, effHalt, State.issued_updCtx]
    · rw [hissues.exec_own rfl hcls hopc, effReadFlags, State.issued_updCtx]
    · rw [hissues.exec_own rfl hcls hopc, effClearFlags, State.issued_updCtx]
      rfl
  · intro s n k f hrun hquiet hgo x stops goesOn b
    refine ⟨fun hhold => ?_, fun hhold => ?_⟩
    · refine ⟨_, exec_tickEndRetire (CoreSt.running_of_run hrun) hquiet hgo hhold, ?_⟩
      rw [State.tickEndRetire_eq hrun]
      have hgoes := ((s.tickOverruns n k f).tickRetired_goesOn n k f Ctx.tickCounted_prog Ctx.tickCounted_life).trans
        (s.tickOverruns_goesOn n k f)
      have hover := (s.tickOverruns n k f).tickRetired_overruns n k Ctx.tickCounted
      have hmem := ((s.tickOverruns n k f).tickRetired_mem n k Ctx.tickCounted).trans (s.tickOverruns_sameButCores n k f).mem
      obtain ⟨hregs, hflags, hnone, hdone, hprog, hlife⟩ := s.tickRetired_counted n k f
      have hothers := fun j (hj : j ≠ k) => s.tickRetired_others n k f hj
      generalize (s.tickOverruns n k f).tickRetired n k Ctx.tickCounted = r at *
      obtain ⟨htmem, htover, htothers, htregs, htflags, htlife, hthold⟩ := r.nextWork_frame n k f
      have hreg := Ctx.reg_congr (htregs.trans hregs)
      refine ⟨(hreg 31).trans (Ctx.reg_setReg_same _ _ (by decide)),
        fun q hq => (hreg q).trans (Ctx.reg_setReg_other _ _ (by omega)), htflags.trans hflags, hthold hnone, htlife.trans hlife,
        fun h => ?_, fun h => ?_, fun h => ?_, fun hf hb hslot hin => ?_, fun j hj => ?_, htmem.trans hmem⟩
      · rw [← hprog]
        exact State.nextWork_begins (hgoes.mpr h)
      · rw [State.nextWork_rests (mt hgoes.mp h), hdone]
      · rw [htover, hover, State.tickOverruns_of_none h]
      · subst hf
        rw [htover, hover, State.tickOverruns_counts rfl hb hslot hin]
      · rw [htothers j hj]
        exact hothers j hj
    · refine ⟨_, exec_haltRetire (CoreSt.running_of_run hrun) hquiet hgo hhold, ?_⟩
      have hlife := s.tickRetired_life n k (f := fun x => { x.endTick with life := .halted }) (fun _ => rfl)
      have hwork := (s.tickRetired n k (fun x => { x.endTick with life := .halted })).schedule_reschedules n none false
      rw [State.haltRetire_eq, hwork.ctx, hlife, State.tickRetired_ctx]
      refine ⟨fun q => rfl, rfl, rfl, rfl, rfl, fun j hj => ?_, ?_⟩
      · rw [hwork.ctx, State.tickRetired_ctx_other _ _ _ _ hj]
        exact ⟨rfl, rfl, rfl⟩
      · rw [hwork.rest]
        exact s.tickRetired_mem n k _

end Sys2Proof.Machine

/-!
PROOFS. Slots and contexts (R88, R92, R97, R98, R101, R146): slot starts, yields, and contexts saved to and restored from their save
areas.
-/

namespace Sys2Proof

/-! ### Little-endian numbers (R7) -/

theorem leBytes_length (n v : Nat) : (leBytes n v).length = n := by
  induction n generalizing v with
  | zero => rfl
  | succ n ih => rw [leBytes, List.length_cons, ih]

theorem leVal_leBytes (n v : Nat) : leVal (leBytes n v) = v % 256 ^ n := by
  induction n generalizing v with
  | zero => rw [leBytes, leVal, pow_zero, Nat.mod_one]
  | succ n ih => rw [leBytes, leVal, ih, BitVec.toNat_ofNat, pow_succ' 256, Nat.mod_mul]

/-- An element of a list put together from pieces of one length. -/
theorem getElem?_flatMap_of_length {α β : Type} {f : α → List β} {w : Nat} (hf : ∀ x, (f x).length = w) (l : List α) (e : Nat)
    {j : Nat} (hj : j < w) : (l.flatMap f)[w * e + j]? = (l[e]?).bind (fun x => (f x)[j]?) := by
  induction l generalizing e with
  | nil => simp
  | cons x l ih =>
    cases e with
    | zero =>
      rw [List.flatMap_cons, Nat.mul_zero, Nat.zero_add, List.getElem?_append_left (by rw [hf]; exact hj)]
      rfl
    | succ e =>
      have hoff : w * (e + 1) + j - w = w * e + j := by rw [Nat.mul_succ]; omega
      rw [List.flatMap_cons, List.getElem?_append_right (by rw [hf, Nat.mul_succ]; omega), hf, hoff, ih e]
      rfl

namespace Machine

/-- Bytes that stand one behind the other are read in that order. -/
theorem rdBytes_of_getElem? (m : Sp Byte) (l : List Byte) (a : Nat) (h : ∀ i, i < l.length → l[i]? = some (rdByte m (a + i))) :
    rdBytes m a l.length = l := by
  induction l generalizing a with
  | nil => rfl
  | cons b l ih =>
    have hhead : b = rdByte m a := Option.some_injective _ (h 0 (Nat.zero_lt_succ _))
    have htail := ih (a + 1) (fun i hi => by
      rw [Nat.add_right_comm]
      exact h (i + 1) (Nat.succ_lt_succ hi))
    rw [List.length_cons, rdBytes, htail, ← hhead]

/-- A byte of the range reads as written. -/
theorem getElem?_of_wrBytes (m : Sp Byte) (a : Nat) {bs : List Byte} {i : Nat} (h : i < bs.length) :
    bs[i]? = some (rdByte (wrBytes m a bs) (a + i)) := by
  rw [rdByte_wrBytes_inside bs m a i h, List.getElem?_eq_getElem h]

/-! ### The save area (R145, R146) -/

theorem tileBytes_length (ve : VeSt) (b : Nat) : (tileBytes ve b).length = 36864 := by
  simp only [tileBytes, List.length_flatMap, leBytes_length, List.map_const', List.length_range, List.sum_replicate_nat]

/-- The four bytes of an element of a buffer. -/
theorem tileBytes_getElem? (ve : VeSt) (b : Nat) {e j : Nat} (he : e < 9216) (hj : j < 4) :
    (tileBytes ve b)[4 * e + j]? = (leBytes 4 (Sp.get 0#32 ve.tiles (b * 9216 + e)).toNat)[j]? := by
  rw [tileBytes, getElem?_flatMap_of_length (fun _ => leBytes_length 4 _) _ e hj, List.getElem?_range he]
  rfl

/-- The buffers saved leave the bytes of the others alone. -/
theorem rdByte_saveTiles_outside (base : Nat) (ve : VeSt) (valid : List Bool) {a : Nat} (bs : List Nat) (m : Sp Byte)
    (h : ∀ b ∈ bs, a < base + 36864 * b ∨ base + 36864 * b + 36864 ≤ a) :
    rdByte (saveTiles m base ve valid bs) a = rdByte m a := by
  induction bs generalizing m with
  | nil => rfl
  | cons b bs ih =>
    rw [saveTiles, ih _ (fun b hb => h b (List.mem_cons_of_mem _ hb))]
    split
    · exact rdByte_wrBytes_outside _ _ _ _ (by rw [tileBytes_length]; exact h b List.mem_cons_self)
    · rfl

/-- A byte of a valid buffer, in the save area. -/
theorem rdByte_saveTiles_inside (base : Nat) (ve : VeSt) {valid : List Bool} {b i : Nat} (hvalid : valid.getD b false = true)
    (hi : i < 36864) (bs : List Nat) (hbs : bs.Nodup) (hb : b ∈ bs) (m : Sp Byte) :
    (tileBytes ve b)[i]? = some (rdByte (saveTiles m base ve valid bs) (base + 36864 * b + i)) := by
  induction bs generalizing m with
  | nil => exact absurd hb List.not_mem_nil
  | cons c bs ih =>
    obtain ⟨hc, hnodup⟩ := List.nodup_cons.mp hbs
    rw [saveTiles]
    rcases List.mem_cons.mp hb with rfl | hmem
    · have hother : ∀ c ∈ bs, base + 36864 * b + i < base + 36864 * c ∨ base + 36864 * c + 36864 ≤ base + 36864 * b + i := by
        intro c hc'
        have hne : c ≠ b := fun h => hc (h ▸ hc')
        omega
      rw [rdByte_saveTiles_outside base ve valid bs _ hother, if_pos hvalid]
      exact getElem?_of_wrBytes m _ (by rw [tileBytes_length]; exact hi)
    · exact ih hnodup hmem _

/-- An element of a valid buffer, read from the save area. -/
theorem rdNat_saveTiles (m : Sp Byte) (base : Nat) (ve : VeSt) {valid : List Bool} {b e : Nat} (hb : b < 4)
    (hvalid : valid.getD b false = true) (he : e < 9216) :
    rdNat (saveTiles m base ve valid [0, 1, 2, 3]) (base + 36864 * b + 4 * e) 4 = (Sp.get 0#32 ve.tiles (b * 9216 + e)).toNat := by
  have hmem : b ∈ [0, 1, 2, 3] := by
    rw [show [0, 1, 2, 3] = List.range 4 from rfl]
    exact List.mem_range.mpr hb
  set v := Sp.get 0#32 ve.tiles (b * 9216 + e) with hv
  have hbytes := rdBytes_of_getElem? (saveTiles m base ve valid [0, 1, 2, 3]) (leBytes 4 v.toNat) (base + 36864 * b + 4 * e)
    (fun j hj => by
      rw [leBytes_length] at hj
      rw [hv, ← tileBytes_getElem? ve b he hj, Nat.add_assoc _ (4 * e)]
      exact rdByte_saveTiles_inside base ve hvalid (by omega) _ (by decide) hmem m)
  rw [leBytes_length] at hbytes
  rw [rdNat, hbytes, leVal_leBytes]
  exact Nat.mod_eq_of_lt v.isLt

/-! ### What the vector engine does to its core (R100, R101) -/

/-- From `s` to `t` the vector engine has worked for context `k` of core `n`: memory may have changed, of the core its vector storage, and
of the context flags, valid bits, due arrivals and the instruction in flight. -/
structure State.VeWorks (s t : State) (n k : Nat) : Prop where
  other : ∀ m, m ≠ n → t.core m = s.core m
  core : t.core n = { s.core n with ctxs := (t.core n).ctxs, ve := (t.core n).ve }
  ctx : t.ctx n k = { s.ctx n k with
    flags := (t.ctx n k).flags, valid := (t.ctx n k).valid, veArr := (t.ctx n k).veArr, ve := (t.ctx n k).ve }

theorem State.VeWorks.trans {s t u : State} {n k : Nat} (h : s.VeWorks t n k) (h' : t.VeWorks u n k) : s.VeWorks u n k := by
  refine ⟨fun m hm => (h'.other m hm).trans (h.other m hm), ?_, ?_⟩
  · rw [h'.core, h.core]
  · rw [h'.ctx, h.ctx]

/-- Cores that stand as they were. -/
theorem State.VeWorks.of_cores {s t : State} (h : t.cores = s.cores) (n k : Nat) : s.VeWorks t n k := by
  have hcore (m : Nat) : t.core m = s.core m := by rw [State.core, h, State.core]
  have hctx : t.ctx n k = s.ctx n k := by rw [State.ctx, hcore, State.ctx]
  exact ⟨fun m _ => hcore m, by rw [hcore], by rw [hctx]⟩

/-- A context and the vector storage put in place together are the vector engine's work, if of the context no more has changed. -/
theorem State.putVe_works (s : State) (n k : Nat) {x : Ctx} (ve : VeSt)
    (hx : x = { s.ctx n k with flags := x.flags, valid := x.valid, veArr := x.veArr, ve := x.ve }) : s.VeWorks (s.putVe n k x ve) n k := by
  refine ⟨fun m hm => s.putVe_core_other k x ve hm, ?_, ?_⟩
  · rw [State.putVe, State.core_setCore_same]
    rfl
  · rw [State.putVe_ctx]
    exact hx

theorem State.mem_works (s : State) (m : Sp Byte) (n k : Nat) : s.VeWorks { s with mem := m } n k :=
  .of_cores (s := s) (t := { s with mem := m }) rfl n k

theorem State.bump_works (s : State) (n k : Nat) : s.VeWorks s.bump n k := .of_cores (s := s) (t := s.bump) rfl n k

theorem State.setVe_works (s : State) (n k : Nat) (r : Option VeRun) : s.VeWorks (s.updCtx n k (fun x => { x with ve := r })) n k :=
  s.putVe_works n k (s.core n).ve rfl

theorem State.vLoadRows_works (s : State) (n k : Nat) (t : VXfer) (f : FFmt) (lo hi : Nat) : s.VeWorks (s.vLoadRows n k t f lo hi) n k := by
  unfold State.vLoadRows
  dsimp only
  split
  · exact .of_cores rfl n k
  · exact s.putVe_works n k _ rfl

theorem State.vStoreRows_works (s : State) (n k : Nat) (t : VXfer) (f : FFmt) (lo hi : Nat) :
    s.VeWorks (s.vStoreRows n k t f lo hi) n k := by
  obtain ⟨m, x, hrows, hx⟩ : ∃ m x, s.vStoreRows n k t f lo hi = State.putVe { s with mem := m } n k x (s.core n).ve ∧
      x = { s.ctx n k with flags := x.flags, valid := x.valid, veArr := x.veArr, ve := x.ve } := ⟨_, _, rfl, rfl⟩
  rw [hrows]
  exact (s.mem_works m n k).trans (State.putVe_works _ n k _ hx)

theorem State.vArithRows_works (s : State) (n k : Nat) (w : IWord) (ls : List W32 × List W32) (accs : List (W32 × NFlags)) (lo hi : Nat) :
    s.VeWorks (s.vArithRows n k w ls accs lo hi) n k := s.putVe_works n k _ rfl

theorem State.veRows_works (s : State) (n k : Nat) (r : VeRun) (lo hi : Nat) : s.VeWorks (s.veRows n k r lo hi) n k := by
  unfold State.veRows
  dsimp only
  split
  · split
    · split
      · exact s.vLoadRows_works n k _ _ lo hi
      · exact s.vStoreRows_works n k _ _ lo hi
    · exact .of_cores rfl n k
  · exact s.vArithRows_works n k _ _ _ lo hi

theorem State.undoVe_works (s : State) (n k : Nat) (r : VeRun) : s.VeWorks (s.undoVe n k r) n k :=
  (s.mem_works _ n k).trans (State.putVe_works _ n k _ rfl)

theorem State.cutVe_of_none {s : State} {n k : Nat} (h : (s.ctx n k).ve = none) : s.cutVe n k = s := by
  rw [State.cutVe, h]

theorem State.cutVe_works (s : State) (n k : Nat) : s.VeWorks (s.cutVe n k) n k := by
  unfold State.cutVe
  split
  · exact .of_cores rfl n k
  · dsimp only
    split
    · exact (s.bump_works n k).trans (State.setVe_works _ n k none)
    · exact (((s.undoVe_works n k _).trans (State.veRows_works _ n k _ _ _)).trans (State.bump_works _ n k)).trans
        (State.setVe_works _ n k _)

theorem State.resumeVe_of_none {s : State} {n k : Nat} (h : (s.ctx n k).ve = none) : s.resumeVe n k = s := by
  rw [State.resumeVe, h]

theorem State.resumeVe_works (s : State) (n k : Nat) : s.VeWorks (s.resumeVe n k) n k := by
  unfold State.resumeVe
  split
  · exact .of_cores rfl n k
  · exact (s.veRows_works n k _ _ _).trans (State.setVe_works _ n k _)

/-! ### A context saved (R98, R101, R145, R146) -/

/-- The due arrivals given change the core's groups, and the context's list of them. -/
theorem CoreSt.giveVe_eq (c : CoreSt) (k : Nat) : c.giveVe k = { c with grps := (c.giveVe k).grps, ctxs := (c.giveVe k).ctxs } := by
  have hkept : { (c.ctx k).veArr.foldl (fun c g => c.arrive k g false) c with grps := [] } = { c with grps := [] } :=
    foldl_keeps (f := fun c g => c.arrive k g false) (p := fun c : CoreSt => { c with grps := [] }) (fun _ _ => rfl) _ c
  exact congrArg (fun d : CoreSt => { d with grps := (c.giveVe k).grps, ctxs := (c.giveVe k).ctxs }) hkept

theorem CoreSt.giveVe_ctx (c : CoreSt) (k : Nat) : (c.giveVe k).ctx k = { c.ctx k with veArr := [] } := CoreSt.ctx_setCtx_same _ k _

section
variable (s : State) (n k : Nat)

/-- A save leaves the instruction in flight cut short, the due arrivals given, and the context in its saved form; memory and the vector
storage are the rest of it. -/
theorem State.saveCtx_eq : ∃ m ve, s.saveCtx n k = State.setCore { s.cutVe n k with mem := m } n
    { (((s.cutVe n k).core n).giveVe k).setCtx k ((((s.cutVe n k).core n).giveVe k).ctx k).saved with ve := ve } := ⟨_, _, rfl⟩

theorem State.saveCtx_core_other {m : Nat} (h : m ≠ n) : (s.saveCtx n k).core m = s.core m := by
  obtain ⟨mem, ve, hsave⟩ := s.saveCtx_eq n k
  rw [hsave, State.core_setCore_other _ _ h]
  exact (s.cutVe_works n k).other m h

theorem State.saveCtx_ctx : (s.saveCtx n k).ctx n k = ((((s.cutVe n k).core n).giveVe k).ctx k).saved := by
  obtain ⟨mem, ve, hsave⟩ := s.saveCtx_eq n k
  rw [hsave, State.ctx, State.core_setCore_same]
  generalize ((s.cutVe n k).core n).giveVe k = c
  exact CoreSt.ctx_setCtx_same c k _

theorem State.saveCtx_drainReq : ((s.saveCtx n k).core n).drainReq = (s.core n).drainReq := by
  obtain ⟨mem, ve, hsave⟩ := s.saveCtx_eq n k
  have hreq : (((s.cutVe n k).core n).giveVe k).drainReq = (s.core n).drainReq := by
    rw [CoreSt.giveVe_eq, (s.cutVe_works n k).core]
  rw [hsave, State.core_setCore_same, ← hreq]
  generalize ((s.cutVe n k).core n).giveVe k = c
  rfl

/-- A buffer that is valid is one of the valid ones. -/
theorem any_of_getD {l : List Bool} {b : Nat} (h : l.getD b false = true) : l.any id = true := by
  rw [List.getD_eq_getElem?_getD] at h
  cases hb : l[b]? with
  | none => rw [hb] at h; exact absurd h Bool.false_ne_true
  | some v => rw [hb] at h; exact List.any_eq_true.mpr ⟨v, List.mem_of_getElem? hb, h⟩

/-- Where no vector instruction is in flight, a save writes the valid buffers and nothing else. -/
theorem State.saveCtx_mem {s : State} {n k : Nat} (h : (s.ctx n k).ve = none) : (s.saveCtx n k).mem =
    if (s.ctx n k).valid.any id then saveTiles s.mem (s.saveBase n k) (s.core n).ve (s.ctx n k).valid [0, 1, 2, 3] else s.mem := by
  rw [State.ctx] at h
  simp only [State.saveCtx, State.cutVe_of_none h, CoreSt.giveVe_ctx, h]
  rw [CoreSt.giveVe_eq]
  rfl

/-- The core's next work once the context is saved: another than a save, and drained where a drain is asked for. -/
theorem State.scheduleSaved (pass : Option Nat) (b : Bool) :
    let t := ((s.saveCtx n k).updCore n (fun c => { c with run := .idle })).schedule n pass b
    t.ctx n k = ((((s.cutVe n k).core n).giveVe k).ctx k).saved ∧ (∀ m, m ≠ n → t.core m = s.core m) ∧
      ((s.core n).drainReq = true → (t.core n).run = .drained) ∧ (∀ j g, (t.core n).run ≠ .saving j g) ∧
      t.mem = (s.saveCtx n k).mem := by
  obtain ⟨r, y, hsched, hrun, hdrain⟩ := ((s.saveCtx n k).updCore n (fun c => { c with run := .idle })).schedule_eq n pass b
  dsimp only
  rw [State.core_updCore_same] at hsched hdrain
  rw [hsched, State.core_setCore_same]
  refine ⟨?_, fun m hm => ?_, fun hreq => hdrain ((s.saveCtx_drainReq n k).trans hreq), hrun, rfl⟩
  · rw [State.ctx, State.core_setCore_same, ← s.saveCtx_ctx n k]
    rfl
  · rw [State.core_setCore_other _ _ hm, State.core_updCore_other _ _ hm, s.saveCtx_core_other n k hm]

end

/-! ### A context restored (R74, R90, R101) -/

/-- A context as it is put on the core: in its tick, which begins where none is in progress. -/
def State.entering (s : State) (n k : Nat) (fill : Bool) : Ctx :=
  let x := s.ctx n k
  if x.inTick then x else x.beginTick (if fill then x.tickBeat else s.beats.beat + 1)

/-- The state with the context on the core, before its vector engine goes on. -/
def State.seated (s : State) (n k : Nat) (fill : Bool) : State :=
  let c := s.core n
  let x := s.entering n k fill
  s.setCore n { c.setCtx k x with
    run := .running k fill, ve := loadTiles s.mem (s.saveBase n k) x.valid (clearTiles c.ve) [0, 1, 2, 3],
    mx := c.mx.showMode x.mx, st := { c.st with tcache := [] } }

theorem State.restoreCtx_eq (s : State) (n k : Nat) (fill : Bool) : s.restoreCtx n k fill = (s.seated n k fill).resumeVe n k := rfl

section
variable (s : State) (n k : Nat) (fill : Bool)

theorem State.entering_inTick : (s.entering n k fill).inTick = true := by
  unfold State.entering
  dsimp only
  split
  next h => exact h
  next => rfl

theorem State.entering_regs : (s.entering n k fill).regs = (s.ctx n k).regs := by
  unfold State.entering
  dsimp only
  split <;> rfl

theorem State.entering_of_inTick {s : State} {n k : Nat} {fill : Bool} (h : (s.ctx n k).inTick = true) :
    s.entering n k fill = s.ctx n k := if_pos h

/-- A tick begins at the entry, with no vector instruction in flight. -/
theorem State.entering_of_no_tick {s : State} {n k : Nat} {fill : Bool} (h : (s.ctx n k).inTick = false) :
    (s.entering n k fill).pc = (s.ctx n k).prog.entry ∧ (s.entering n k fill).ve = none := by
  simp only [State.entering, h, Bool.false_eq_true, if_false]
  exact ⟨rfl, rfl⟩

theorem State.seated_ctx : (s.seated n k fill).ctx n k = s.entering n k fill := by
  rw [State.seated, State.ctx, State.core_setCore_same]
  exact CoreSt.ctx_setCtx_same _ k _

theorem State.seated_run : ((s.seated n k fill).core n).run = .running k fill := by
  rw [State.seated, State.core_setCore_same]

/-- Where no vector instruction is in flight, none goes on. -/
theorem State.restoreCtx_of_none {s : State} {n k : Nat} {fill : Bool} (h : (s.entering n k fill).ve = none) :
    s.restoreCtx n k fill = s.seated n k fill := by
  rw [State.restoreCtx_eq, State.resumeVe_of_none (by rw [State.seated_ctx, h])]

theorem State.restoreCtx_core_other {m : Nat} (h : m ≠ n) : (s.restoreCtx n k fill).core m = s.core m :=
  ((State.resumeVe_works _ n k).other m h).trans (State.core_setCore_other _ _ h)

theorem State.restoreCtx_run : ((s.restoreCtx n k fill).core n).run = .running k fill := by
  rw [State.restoreCtx_eq, (State.resumeVe_works _ n k).core]
  exact s.seated_run n k fill

theorem State.restoreCtx_ctx : ((s.restoreCtx n k fill).ctx n k).inTick = true ∧
    ((s.restoreCtx n k fill).ctx n k).regs = (s.ctx n k).regs := by
  rw [State.restoreCtx_eq, (State.resumeVe_works _ n k).ctx, State.seated_ctx]
  exact ⟨s.entering_inTick n k fill, s.entering_regs n k fill⟩

end

/-! ### The commands -/

/-- A core that moves to the next entry of its slot table (R88). -/
def CoreSt.nextSlot (c : CoreSt) : CoreSt := { c with slot := c.slot + 1, yielded := none }

/-- What a core does at a slot's start (R88, R97): a running context is asked to save, and a core that runs none takes its next work. -/
def State.beginSlot (s : State) (n : Nat) (c : CoreSt) : State :=
  match c.run with
  | .running k f => s.setCore n (c.interrupt k f)
  | .saving _ _ => s.setCore n c
  | .drained => s.setCore n c
  | .idle => (s.setCore n c).schedule n none true
  | .restoring _ _ => (s.setCore n c).schedule n none true

theorem exec_slotStart {s : State} {n : Nat} {sl : Slot} (hsl : (s.core n).slots[(s.core n).slot]? = some sl) (hgo : s.stopped = false) :
    exec (.slotStart n) s =
      .next ((s.advanceTo (s.beats.beat * 2 ^ (12 + s.beats.exp) + sl.start * 2 ^ (12 + s.beats.exp) / 1024)).beginSlot n
        (s.core n).nextSlot) := by
  change Host.Outcome.next (s.slotStart n) = _
  simp only [State.slotStart, hsl, hgo, Bool.false_eq_true, if_false]
  rfl

theorem exec_fillYield {s : State} {n k : Nat} (hrun : (s.core n).run = .running k true) (hstuck : s.stuck n k = true) :
    exec (.fillYield n) s = .next (s.setCore n { (s.core n).interrupt k true with yielded := some ((s.core n).ctx k).prog.id }) := by
  change execFillYield n s = _
  simp only [execFillYield, hrun, hstuck, if_true]

theorem exec_contextSaved {s : State} {n k : Nat} {f : Bool} (hrun : (s.core n).run = .saving k f) :
    exec (.contextSaved n) s = .next (((s.saveCtx n k).updCore n (fun c => { c with run := .idle })).schedule n (s.core n).yielded
      (s.core n).yielded.isNone) := by
  change execContextSaved n s = _
  rw [execContextSaved, hrun]

theorem exec_contextRestored {s : State} {n k : Nat} {f : Bool} (hrun : (s.core n).run = .restoring k f) :
    exec (.contextRestored n) s = .next (if s.mayHold n k then s.restoreCtx n k f
      else (s.updCore n (fun c => { c with run := .idle })).schedule n none) := by
  change execContextRestored n s = _
  rw [execContextRestored, hrun]
  dsimp only
  split <;> rfl

/-- Settles O9: the vector engine alone works on the core while a context is cut short or goes on, and a save writes each valid buffer to
its own part of the save area. -/
theorem slotsAndContexts : Obligations.SlotsAndContexts := by
  refine ⟨?_, fun s n k hrun hstuck => exec_fillYield hrun hstuck, ?_, fun s n k f hrun => ⟨fun hhold => ?_, fun hhold => ?_⟩⟩
  · intro s n sl hsl hgo c u
    have hrunc : (s.core n).nextSlot.run = (s.core n).run := rfl
    rw [exec_slotStart hsl hgo, State.beginSlot, hrunc]
    refine ⟨fun k f hrun => ?_, fun hrun => ?_, fun hrun => ?_⟩
    · rw [hrun]
      rfl
    · rcases hrun with hrun | ⟨k, f, hrun⟩ <;> (rw [hrun]; rfl)
    · rcases hrun with hrun | ⟨k, f, hrun⟩ <;> (rw [hrun]; rfl)
  · intro s n k f hrun u y
    obtain ⟨hctx, hother, hdrained, hsaving, hmem⟩ := s.scheduleSaved n k (s.core n).yielded (s.core n).yielded.isNone
    refine ⟨_, exec_contextSaved hrun, hctx, hother, hdrained, hsaving, fun hve hvalid => ?_, fun hve b e hb hvalid he => ?_⟩
    · rw [hmem, State.saveCtx_mem hve, hvalid, if_neg Bool.false_ne_true]
    · rw [State.sramNat, hmem, State.saveCtx_mem hve, if_pos (any_of_getD hvalid),
        ← rdNat_saveTiles s.mem (s.saveBase n k) (s.core n).ve hb hvalid he, State.saveBase]
      simp only [Nat.add_assoc]
  · rw [exec_contextRestored hrun, if_pos hhold]
    obtain ⟨htick, hregs⟩ := s.restoreCtx_ctx n k f
    refine ⟨_, rfl, s.restoreCtx_run n k f, htick, hregs, fun hno => ?_, fun hin hve => ?_,
      fun m hm => s.restoreCtx_core_other n k f hm, fun h => ?_⟩
    · obtain ⟨hpc, hnone⟩ := State.entering_of_no_tick (fill := f) hno
      rw [State.restoreCtx_of_none hnone, State.seated_ctx, hpc]
    · have hsame := State.entering_of_inTick (fill := f) hin
      rw [State.restoreCtx_of_none (by rw [hsame, hve]), State.seated_ctx, hsame]
    · have hnone : (s.entering n k f).ve = none := by
        cases hin : (s.ctx n k).inTick
        · exact (State.entering_of_no_tick hin).2
        · rw [State.entering_of_inTick hin]
          exact h.resolve_left (by rw [hin]; exact Bool.true_eq_false.mp)
      rw [State.restoreCtx_of_none hnone]
      rfl
  · rw [exec_contextRestored hrun, hhold, if_neg Bool.false_ne_true]

end Machine

end Sys2Proof

/-!
PROOFS. The matrix engine (R115, R120 to R126, R136 to R142): what an idle one takes, what a completed unit leaves, and ballast on one
array.
-/

namespace Sys2Proof.Machine

/-! ### A matrix instruction taken (R115, R120, R121, R125, R126) -/

theorem Ctx.hitsSave_congr {x y : Ctx} (h : y.saveArea = x.saveArea) (a len : Nat) : y.hitsSave a len = x.hitsSave a len := by
  rw [Ctx.hitsSave, h, Ctx.hitsSave]

/-- The checks of a tile read of the context the save area alone (R141, R147). -/
theorem tileLatchOk_congr {x y : Ctx} (h : y.saveArea = x.saveArea) (cs : ConvState) (t : TileJob) :
    tileLatchOk y cs t = tileLatchOk x cs t := by
  have hlines : y.linesHit = x.linesHit := by
    funext base stride len lines
    simp only [Ctx.linesHit, Ctx.hitsSave_congr h]
  rw [tileLatchOk, hlines, tileLatchOk]

/-- A unit reads of the context, as it latches, the conversion states and the save area. -/
theorem MxRun.latch_congr (r : MxRun) {x y : Ctx} (hconv : y.conv = x.conv) (hsave : y.saveArea = x.saveArea) :
    r.latch y = r.latch x := by
  have hok : (fun t => tileLatchOk y (convOf r.mode x.conv t.array) t) = fun t => tileLatchOk x (convOf r.mode x.conv t.array) t :=
    funext fun t => tileLatchOk_congr hsave _ t
  rw [MxRun.latch, hconv, hok, MxRun.latch]

theorem State.latchNext_of_idle {s : State} {n k : Nat} (h : (s.ctx n k).mx = []) : s.latchNext n k = s := by
  simp only [State.latchNext, h]

theorem State.latchNext_of_latch {s : State} {n k : Nat} {r q : MxRun} {rs : List MxRun} (h : (s.ctx n k).mx = r :: rs)
    (hlatch : r.latch (s.ctx n k) = some q) : s.latchNext n k = s.setCtx n k { s.ctx n k with mx := q :: rs } := by
  simp only [State.latchNext, h, hlatch]

/-- A core whose MX_STATUS shows the mode of a sequence. -/
def CoreSt.showing (c : CoreSt) (r : MxRun) : CoreSt := { c with mx := c.mx.showMode [r] }

theorem State.mxTake_of_idle {s : State} {n k : Nat} {w : IWord} {r q : MxRun} (hidle : (s.ctx n k).mx = [])
    (hrun : acceptRun (s.rdCore n) (s.ctx n k) w = some r) (hclear : r.partsClear (s.ctx n k) = true)
    (hlatch : r.latch (s.ctx n k) = some q) :
    s.mxTake n k w = (s.updCore n (·.showing r)).setCtx n k { s.ctx n k with mx := [q], mxDone := 0 } := by
  have htaken : s.mxTake n k w =
      ((s.updCore n (·.showing r)).setCtx n k { s.ctx n k with mx := [r], mxDone := 0 }).latchNext n k := by
    rw [State.mxTake, hrun, hidle]
    dsimp only
    rw [hclear]
    rfl
  have hlatch' : r.latch { s.ctx n k with mx := [r], mxDone := 0 } = some q := (r.latch_congr rfl rfl).trans hlatch
  rw [htaken, State.latchNext_of_latch (q := q) (rs := []) (by rw [State.ctx_setCtx_same]) (by rw [State.ctx_setCtx_same, hlatch']),
    State.ctx_setCtx_same, State.setCtx_setCtx]

theorem State.convTake_of_parse {s : State} {n k : Nat} {w : IWord} {c : ConvState} (h : parseConv (s.rdCore n) w = some c) :
    s.convTake n k w = s.setCtx n k { s.ctx n k with conv := setConvs (s.ctx n k).conv (field 10 7 w.pl) c } := by
  simp only [State.convTake, h]

/-- An idle matrix engine takes what issues in the same step. -/
theorem State.Issues.engStep_mx {s : State} {n k : Nat} {w : IWord} {ecc : Ecc} (h : s.Issues n k w ecc)
    (hqueue : (s.ctx n k).qmx = []) (hidle : (s.ctx n k).mx = []) :
    s.engStep n ecc .mx w.cls w.opc none = (s.taken n k ecc).mxAccept n k w := by
  refine h.engStep (e := .mx) hqueue ?_
  rw [State.engReady, State.queued, State.ctx_setCtx_same, Ctx.mxReady, Ctx.setQueue, hidle]

theorem State.taken_rdCore (s : State) (n k : Nat) (ecc : Ecc) (m : Nat) : (s.taken n k ecc).rdCore m = s.rdCore m := by
  funext off len
  rw [State.rdCore, State.taken_mem, State.rdCore]

/-- Settles O14: what a unit latches and what its checks read stand as the sequence becomes the running one. -/
theorem matrixIssues : Obligations.MatrixIssues := by
  intro s n k w ecc hissues hqueue hidle y
  have hstep := hissues.engStep_mx hqueue hidle
  have hidle' : y.mx = [] := by
    rw [show y = _ from s.taken_ctx n k ecc, Ctx.next, hidle]
  refine ⟨fun r r' hcls hrun hclear hlatch i hi => ?_, fun c hcls hopc hparse => ?_⟩
  · have htake : (s.taken n k ecc).mxAccept n k w = ((s.taken n k ecc).updCore n (·.showing r)).setCtx n k
        { y with mx := [r'], mxDone := 0 } := by
      rw [State.mxAccept, if_neg (by omega)]
      exact State.mxTake_of_idle hidle' (by rw [State.taken_rdCore]; exact hrun) hclear hlatch
    have hexec : exec i s = .next (s.engStep n ecc .mx w.cls w.opc none) := by
      rcases hi with ⟨hopc, rfl⟩ | ⟨hopc, rfl⟩ <;> (rw [hcls, hopc]; rfl)
    rw [hexec, hstep, htake]
    refine ⟨_, rfl, State.ctx_setCtx_same _ n k _, ?_, fun m hm => ?_, s.taken_mem n k ecc⟩
    · rw [State.core_setCtx_same, State.core_updCore_same]
      rfl
    · rw [State.core_setCtx_other _ _ _ hm, State.core_updCore_other _ _ hm, s.taken_core_other k ecc hm]
  · have htake : (s.taken n k ecc).mxAccept n k w =
        (s.taken n k ecc).setCtx n k { y with conv := setConvs y.conv (field 10 7 w.pl) c } := by
      rw [State.mxAccept, if_pos hcls]
      exact State.convTake_of_parse (by rw [State.taken_rdCore]; exact hparse)
    have hexec : exec (.convSet n ecc) s = .next (s.engStep n ecc .mx w.cls w.opc none) := by
      rw [hcls, hopc]
      rfl
    rw [hexec, hstep, htake]

/-! ### A unit completes (R98, R122 to R124, R142) -/

/-- Arrivals change the core's groups. -/
theorem CoreSt.arrives_eq (c : CoreSt) (k : Nat) (gs : List Nat) :
    ∃ grps, gs.foldl (fun (c : CoreSt) g => c.arrive k g false) c = { c with grps := grps } := by
  set d := gs.foldl (fun (c : CoreSt) g => c.arrive k g false) c
  have hkept : { d with grps := [] } = { c with grps := [] } :=
    foldl_keeps (f := fun c g => c.arrive k g false) (p := fun c : CoreSt => { c with grps := [] }) (fun _ _ => rfl) gs c
  exact ⟨d.grps, congrArg (fun c : CoreSt => { c with grps := d.grps }) hkept⟩

/-- A boundary changes which engines have stopped at one. -/
theorem CoreSt.atBoundary_eq (c : CoreSt) (e : Eng) : ∃ bound, c.atBoundary e = { c with bound := bound } := by
  unfold CoreSt.atBoundary
  split
  · exact ⟨_, rfl⟩
  · exact ⟨c.bound, rfl⟩

/-- What the unit in flight of a sequence writes (R122 to R124). -/
def State.unitOut (s : State) (n k : Nat) (r : MxRun) : UnitAcc :=
  let u := r.first + r.done
  runUnit s.mem (sramBase n) (s.core n).mx.acc (r.banks (s.core n).mx.bank u) (s.draw (s.ctx n k)) r u

/-- What a sequence leaves in the engine, alone there, once the unit in flight is done: nothing, or itself before the next unit latches. -/
def MxRun.rest (r : MxRun) : List MxRun :=
  if r.done + 1 = r.count then [] else [{ r with done := r.done + 1, latched := [], reload := false }]

theorem MxRun.rest_of_last (r : MxRun) (h : r.done + 1 = r.count) : r.rest = [] := if_pos h

theorem MxRun.rest_of_next (r : MxRun) (h : r.done + 1 ≠ r.count) :
    r.rest = [{ r with done := r.done + 1, latched := [], reload := false }] := if_neg h

/-- A context once that unit is written. -/
def State.unitCtx (s : State) (n k : Nat) (r : MxRun) : Ctx :=
  { s.ctx n k with flags := (s.ctx n k).flags ||| (s.unitOut n k r).flags, mx := r.rest, mxDone := r.done + 1 }

/-- The matrix engine of the core once that unit is written, with the arrays as it leaves them. -/
def State.unitMx (s : State) (n k : Nat) (r : MxRun) (arrays : List ArrSt) : MxSt :=
  let m := (s.core n).mx
  let u := r.first + r.done
  { m with bank := r.banks m.bank u, acc := (s.unitOut n k r).acc, actCyc := m.actCyc + BitVec.ofNat 64 (r.rowsIn u), arrays := arrays }

/-- The state once that unit is written and its arrivals are given. -/
def State.unitWritten (s : State) (n k : Nat) (r : MxRun) (arrays : List ArrSt) : State :=
  State.setCore { s.bump with mem := (s.unitOut n k r).mem } n
    ((r.arrivals (r.first + r.done)).foldl (fun c g => c.arrive k g false)
      { (s.core n).setCtx k (s.unitCtx n k r) with mx := s.unitMx n k r arrays })

/-- A unit is written, and then the engine of a running context latches the next; that of another comes to its boundary. -/
theorem State.unitDone_eq (s : State) (n k : Nat) (r : MxRun) : ∃ arrays, s.unitDone n k r [] =
    let t := s.unitWritten n k r arrays
    if (t.core n).running = some k then t.latchNext n k else t.updCore n (·.atBoundary .mx) := by
  by_cases hlast : r.done + 1 = r.count
  · have hbeq : (r.done + 1 == r.count) = true := beq_iff_eq.mpr hlast
    unfold State.unitDone State.unitWritten State.unitCtx
    rw [r.rest_of_last hlast, hbeq]
    exact ⟨_, rfl⟩
  · unfold State.unitDone State.unitWritten State.unitCtx
    rw [r.rest_of_next hlast, beq_false_of_ne hlast]
    exact ⟨_, rfl⟩

section
variable (s : State) (n k : Nat) (r : MxRun) (arrays : List ArrSt)

theorem State.unitWritten_core : ∃ grps, (s.unitWritten n k r arrays).core n =
    { (s.core n).setCtx k (s.unitCtx n k r) with mx := s.unitMx n k r arrays, grps := grps } := by
  rw [State.unitWritten, State.core_setCore_same]
  exact CoreSt.arrives_eq _ k _

theorem State.unitWritten_mx : ((s.unitWritten n k r arrays).core n).mx = s.unitMx n k r arrays := by
  obtain ⟨grps, hcore⟩ := s.unitWritten_core n k r arrays
  rw [hcore]

theorem State.unitWritten_ctx : (s.unitWritten n k r arrays).ctx n k = s.unitCtx n k r := by
  obtain ⟨grps, hcore⟩ := s.unitWritten_core n k r arrays
  rw [State.ctx, hcore]
  exact (s.core n).ctx_setCtx_same k _

theorem State.unitWritten_running : ((s.unitWritten n k r arrays).core n).running = (s.core n).running := by
  obtain ⟨grps, hcore⟩ := s.unitWritten_core n k r arrays
  rw [hcore]
  rfl

end

/-- From `s` to `t` the unit in flight of sequence `r` has been written, and `q` is left in the engine of context `k`. -/
structure State.UnitWrites (s t : State) (n k : Nat) (r : MxRun) (q : List MxRun) : Prop where
  mem : t.mem = (s.unitOut n k r).mem
  mx : ∃ arrays, (t.core n).mx = s.unitMx n k r arrays
  ctx : t.ctx n k = { s.unitCtx n k r with mx := q }

/-- The last unit of a sequence leaves the engine idle, also where a save stops it there (R98). -/
theorem State.unitDone_of_last (s : State) (n k : Nat) {r : MxRun} (hlast : r.done + 1 = r.count) :
    s.UnitWrites (s.unitDone n k r []) n k r [] := by
  obtain ⟨arrays, hdone⟩ := s.unitDone_eq n k r
  have hmx := s.unitWritten_mx n k r arrays
  have hctx := s.unitWritten_ctx n k r arrays
  rw [State.unitCtx, r.rest_of_last hlast] at hctx
  rw [hdone]
  dsimp only
  split
  · rw [State.latchNext_of_idle (by rw [hctx])]
    exact ⟨rfl, ⟨arrays, hmx⟩, hctx⟩
  · obtain ⟨bound, hbound⟩ := ((s.unitWritten n k r arrays).core n).atBoundary_eq .mx
    refine ⟨rfl, ⟨arrays, ?_⟩, ?_⟩
    · rw [State.core_updCore_same, hbound, ← hmx]
    · rw [State.ctx, State.core_updCore_same, hbound]
      exact hctx

/-- Behind another unit the next latches. -/
theorem State.unitDone_of_next {s : State} {n k : Nat} {r q : MxRun} (hrun : (s.core n).running = some k)
    (hnext : r.done + 1 ≠ r.count)
    (hlatch : { r with done := r.done + 1, latched := [], reload := false }.latch (s.unitCtx n k r) = some q) :
    s.UnitWrites (s.unitDone n k r []) n k r [q] := by
  obtain ⟨arrays, hdone⟩ := s.unitDone_eq n k r
  have hctx := s.unitWritten_ctx n k r arrays
  have hlatched : s.unitDone n k r [] = (s.unitWritten n k r arrays).setCtx n k { s.unitCtx n k r with mx := [q] } := by
    rw [hdone]
    dsimp only
    rw [if_pos (by rw [State.unitWritten_running, hrun]),
      State.latchNext_of_latch (rs := []) (by rw [hctx, State.unitCtx, r.rest_of_next hnext]) (by rw [hctx, hlatch]), hctx]
  rw [hlatched]
  exact ⟨rfl, ⟨arrays, by rw [State.core_setCtx_same, ← s.unitWritten_mx n k r arrays]; rfl⟩, State.ctx_setCtx_same _ n k _⟩

theorem exec_unitComplete {s : State} {n k : Nat} {r : MxRun} {rs : List MxRun} (hworks : (s.core n).works .mx = some k)
    (hmx : (s.ctx n k).mx = r :: rs) (hgo : s.stopped = false) :
    exec (.unitComplete n) s = .next (s.unitDone n k r rs) := by
  change execUnitComplete n s = _
  simp only [execUnitComplete, hworks, hmx, hgo, Bool.false_eq_true, if_false]

/-! ### Ballast (R136 to R140) -/

theorem mapAt_eq_mapIdx {α : Type} (l : List α) (i : Nat) (f : α → α) :
    mapAt l i f = l.mapIdx (fun j v => if j = i then f v else v) := by
  have hall (g : Nat → α → α) : (List.range l.length).filterMap (fun j => (l[j]?).map (g j)) = l.mapIdx g := by
    induction l generalizing g with
    | nil => rfl
    | cons x l ih =>
      rw [List.length_cons, List.range_succ_eq_map, List.filterMap_cons, List.filterMap_map, List.mapIdx_cons, ← ih]
      rfl
  exact hall _

theorem mapAt_getElem?_same {α : Type} (l : List α) (i : Nat) (f : α → α) : (mapAt l i f)[i]? = (l[i]?).map f := by
  simp only [mapAt_eq_mapIdx, List.getElem?_mapIdx, if_true]

theorem mapAt_getElem?_other {α : Type} (l : List α) {i j : Nat} (f : α → α) (h : j ≠ i) : (mapAt l i f)[j]? = l[j]? := by
  simp only [mapAt_eq_mapIdx, List.getElem?_mapIdx, h, if_false, Option.map_id']

section
variable (s : State) (n a : Nat) (f : ArrSt → ArrSt)

theorem State.updArray_same : ((s.updArray n a f).core n).mx.arrays[a]? = ((s.core n).mx.arrays[a]?).map f := by
  rw [State.updArray, State.core_updCore_same]
  exact mapAt_getElem?_same _ a f

theorem State.updArray_other {b : Nat} (h : b ≠ a) :
    ((s.updArray n a f).core n).mx.arrays[b]? = (s.core n).mx.arrays[b]? := by
  rw [State.updArray, State.core_updCore_same]
  exact mapAt_getElem?_other _ f h

end

theorem exec_ballastHoldExpiry {s : State} {n a : Nat} (hfree : (s.core n).arrayBusy a = false) :
    exec (.ballastHoldExpiry n a) s = .next (s.updArray n a (fun z => { z with pow := .gated })) := by
  change execBallastHoldExpiry n a s = _
  rw [execBallastHoldExpiry, hfree, if_neg Bool.false_ne_true]

/-- An array that runs ballast, out of gated idle, at the level at which it last worked in a scheduled slot (R138). -/
def ArrSt.rampedUp (z : ArrSt) : ArrSt := if z.pow = .gated then { z with pow := .ballast, level := z.schedLevel } else z

theorem exec_ballastRampUp {s : State} {n a at_ : Nat} (hfree : (s.core n).arrayBusy a = false) (hok : s.ballastOk = true)
    (hslot : s.nextSlot n = some at_) :
    exec (.ballastRampUp n a) s = .next ((s.advanceTo (at_ - 2000)).updArray n a ArrSt.rampedUp) := by
  change execBallastRampUp n a s = _
  simp only [execBallastRampUp, hslot, hok, hfree, Bool.not_false, Bool.and_true, if_true]
  rfl

/-- Settles O15: what the next unit latches is read from the context as the unit before it leaves it, and ballast changes the one array.
That MX_ACTCYC counts the rows of completed units is the model's choice (assumption log entry 19); the model puts an array at its ballast
level at once and keeps nothing of the ramp of R137. -/
theorem matrixUnits : Obligations.MatrixUnits := by
  refine ⟨fun s n k r hworks hmx hgo => ?_, fun s n a hfree hlen ha => ?_⟩
  · intro x u bank o
    have hexec := exec_unitComplete hworks hmx hgo
    refine ⟨fun hlast => ?_, fun q hrun hnext hlatch => ?_⟩
    · obtain ⟨hmem, ⟨arrays, hengine⟩, hctx⟩ := s.unitDone_of_last n k hlast
      refine ⟨_, hexec, hmem, ?_, hctx, ?_⟩
      · rw [hengine]
        rfl
      · rw [hengine]
        rfl
    · obtain ⟨hmem, ⟨arrays, hengine⟩, hctx⟩ := State.unitDone_of_next hrun hnext ((MxRun.latch_congr _ rfl rfl).trans hlatch)
      refine ⟨_, hexec, hmem, ?_, hctx⟩
      rw [hengine]
      rfl
  · refine ⟨⟨_, exec_ballastHoldExpiry hfree, s.updArray_same n a _, fun b hb => s.updArray_other n a _ hb, rfl⟩,
      fun at_ hok hslot => ⟨_, exec_ballastRampUp hfree hok hslot, ?_, rfl, fun b hb => ?_, rfl⟩⟩
    · exact (s.advanceTo (at_ - 2000)).updArray_same n a ArrSt.rampedUp
    · exact (s.advanceTo (at_ - 2000)).updArray_other n a ArrSt.rampedUp hb

end Sys2Proof.Machine

/-!
PROOFS. The reductions and drop-out of the vector engine (R153, R155): the one value that each place written gets.
-/

namespace Sys2Proof.Machine

/-! ### Writes with one value for each place -/

/-- Where a list of writes gives value `f r c` to each place (r, c) of `P` and writes no other, such a place reads `f r c`. -/
theorem tileAt_write_place {ve : VeSt} {valid : List Bool} {b : Nat} {ws : List (Nat × Nat × W32)} {P : Nat → Nat → Prop}
    {f : Nat → Nat → W32} (hb : b < 4) (hlt : ∀ r c, P r c → r < 96 ∧ c < 96)
    (hws : ∀ r c v, (r, c, v) ∈ ws ↔ P r c ∧ v = f r c) {r c : Nat} (h : P r c) :
    tileAt (ve.write valid b ws) (setValid valid b) b r c = f r c := by
  obtain ⟨hr, hc⟩ := hlt r c h
  refine tileAt_write_same hr hc (fun u hu => hlt _ _ ((hws _ _ _).mp hu).1) hb (fun u hu hur huc => ?_)
    (.inr ⟨(r, c, f r c), (hws r c _).mpr ⟨h, rfl⟩, rfl, rfl⟩)
  rw [((hws _ _ _).mp hu).2, hur, huc]

/-- What an arithmetic instruction leaves that gives value `f r c` to each place of `P`, of which there is one, and writes no other. -/
theorem State.vArithTake_place {s : State} {n k : Nat} {w : IWord} {P : Nat → Nat → Prop} {f : Nat → Nat → W32}
    (hok : vArithOk w (vArith w) (s.ctx n k) = true) (hwrites : ∀ r c v, (r, c, v) ∈ s.vWrites n k w ↔ P r c ∧ v = f r c)
    (hsome : ∃ r c, P r c) (hlt : ∀ r c, P r c → r < 96 ∧ c < 96) :
    (s.vArithTake n k w).mem = s.mem ∧ ((s.vArithTake n k w).ctx n k).pc = (s.ctx n k).pc ∧ ∀ r c, P r c →
      tileAt ((s.vArithTake n k w).core n).ve ((s.vArithTake n k w).ctx n k).valid (vArith w).dst r c = f r c := by
  obtain ⟨r₀, c₀, h₀⟩ := hsome
  have hne : s.vWrites n k w ≠ [] := List.ne_nil_of_mem ((hwrites r₀ c₀ _).mpr ⟨h₀, rfl⟩)
  obtain ⟨hpc, -, hmem, -⟩ := State.vArithTake_frame hok hne
  refine ⟨hmem, hpc, fun r c h => ?_⟩
  rw [State.vArithTake_tileAt hok hne]
  exact tileAt_write_place (vArith_dst_lt w) hlt hwrites h

/-! ### Operands as an instruction reads them (R150) -/

/-- The elements that operands A, B and C of an instruction supply. -/
def State.vReadA (s : State) (n k : Nat) (w : IWord) (r c : Nat) : W32 := tileAt (s.core n).ve (s.ctx n k).valid (vArith w).a r c
def State.vReadB (s : State) (n k : Nat) (w : IWord) (r c : Nat) : W32 :=
  let v := vArith w
  operandAt (s.core n).ve (s.ctx n k).valid v.b v.bKind v.bLine (scalarOf (s.ctx n k) v.bSreg v.imm) r c
def State.vReadC (s : State) (n k : Nat) (w : IWord) (r c : Nat) : W32 :=
  let v := vArith w
  operandAt (s.core n).ve (s.ctx n k).valid v.c v.cKind v.cLine (scalarOf (s.ctx n k) v.cSreg v.imm) r c

section
variable (s : State) (n k : Nat) (w : IWord) (r : Nat) {c : Nat}

theorem State.vOpB_vLines (hc : c < 96) :
    vOpB (s.core n).ve (s.ctx n k) (vArith w) (vLines (s.core n).ve (s.ctx n k) (vArith w)).1 r c = s.vReadB n k w r c :=
  operandAt_tileLine _ _ _ _ _ _ r hc

theorem State.vOpC_vLines (hc : c < 96) :
    vOpC (s.core n).ve (s.ctx n k) (vArith w) (vLines (s.core n).ve (s.ctx n k) (vArith w)).2 r c = s.vReadC n k w r c :=
  operandAt_tileLine _ _ _ _ _ _ r hc

end

/-! ### Reductions (R153) -/

/-- A reduction's value: its steps over the elements in order, from its first accumulator. -/
def vFold (opc : Nat) (acc : W32) (xs : List W32) : W32 := xs.foldl (fun a y => (vStep opc a y).1) acc

theorem vReduce_value (opc : Nat) (acc : W32) (f : NFlags) (xs : List W32) : (vReduce opc acc f xs).1 = vFold opc acc xs := by
  induction xs generalizing acc f with
  | nil => rfl
  | cons x xs ih =>
    rw [vReduce, ih]
    rfl

theorem vUse_reduce {opc : Nat} (h : 0x30 ≤ opc) : vUse opc = .reduce := by
  rw [vUse, if_neg (by omega), if_neg (by omega), if_pos h]

theorem rowsFrom_zero (hi : Nat) : rowsFrom 0 hi = List.range hi := by simp [rowsFrom]

theorem getD_map_range {α : Type} (f : Nat → α) (d : α) {m i : Nat} (h : i < m) : ((List.range m).map f).getD i d = f i := by
  simp [List.getD_eq_getElem?_getD, h]

/-- A row reduction writes one value for each row, in the column that operand B's line names. -/
theorem State.mem_vWrites_rowReduction {s : State} {n k : Nat} {w : IWord} (hreduce : 0x30 ≤ w.opc) (hrow : w.opc < 0x33)
    (r c : Nat) (v : W32) : (r, c, v) ∈ s.vWrites n k w ↔ (r < (vArith w).rows ∧ c = (vArith w).bLine) ∧
      v = vFold w.opc (s.vReadC n k w r 0) ((List.range (vArith w).cols).map (s.vReadA n k w r)) := by
  have hcols : vCols w.opc = false := decide_eq_false (by omega)
  have hvRow (r : Nat) : (vRow (s.core n).ve (s.ctx n k) (s.draw (s.ctx n k)) w.opc (vArith w)
      (vLines (s.core n).ve (s.ctx n k) (vArith w)) r).map (·.1) = [(r, (vArith w).bLine,
        vFold w.opc (s.vReadC n k w r 0) ((List.range (vArith w).cols).map (s.vReadA n k w r)))] := by
    simp only [vRow, vUse_reduce hreduce, List.map_cons, List.map_nil, vReduce_value, s.vOpC_vLines n k w r (c := 0) (by decide)]
    rfl
  simp only [State.vWrites, vResults, hcols, Bool.false_eq_true, if_false, rowsFrom_zero, List.map_flatMap, hvRow, List.mem_flatMap,
    List.mem_range, List.mem_singleton, Prod.mk.injEq]
  constructor
  · rintro ⟨_, hr, rfl, rfl, rfl⟩
    exact ⟨⟨hr, rfl⟩, rfl⟩
  · rintro ⟨⟨hr, rfl⟩, rfl⟩
    exact ⟨r, hr, rfl, rfl, rfl⟩

/-- A column reduction writes one value for each column, in the row that operand B's line names. -/
theorem State.mem_vWrites_columnReduction {s : State} {n k : Nat} {w : IWord} (hreduce : 0x33 ≤ w.opc) (hkind : (vArith w).cKind = 1)
    (hwidth : (vArith w).cols ≤ 96) (r c : Nat) (v : W32) :
    (r, c, v) ∈ s.vWrites n k w ↔ (c < (vArith w).cols ∧ r = (vArith w).bLine) ∧
      v = vFold w.opc (s.vReadC n k w 0 c) ((List.range (vArith w).rows).map (fun r => s.vReadA n k w r c)) := by
  have hcols : vCols w.opc = true := decide_eq_true hreduce
  have hfirst (c : Nat) (hc : c < (vArith w).cols) :
      (vLines (s.core n).ve (s.ctx n k) (vArith w)).2.getD c 0#32 = s.vReadC n k w 0 c := by
    rw [← s.vOpC_vLines n k w 0 (show c < 96 by omega), vOpC, if_pos hkind]
  have hvalue (c : Nat) (hc : c < (vArith w).cols) : ((vColRows (s.core n).ve (s.ctx n k) w.opc (vArith w)
      (vAcc0 (vArith w) (vLines (s.core n).ve (s.ctx n k) (vArith w))) 0 (vArith w).rows).getD c (0#32, 0#7)).1 =
        vFold w.opc (s.vReadC n k w 0 c) ((List.range (vArith w).rows).map (fun r => s.vReadA n k w r c)) := by
    rw [vColRows, getD_map_range _ _ hc, vReduce_value, vAcc0, getD_map_range _ _ hc, hfirst c hc, rowsFrom_zero]
    rfl
  simp only [State.vWrites, vResults, hcols, Nat.lt_irrefl, if_true, if_false, List.map_map, List.mem_map, List.mem_range, Function.comp,
    Prod.mk.injEq]
  constructor
  · rintro ⟨c', hc, rfl, rfl, rfl⟩
    exact ⟨⟨hc, rfl⟩, hvalue c' hc⟩
  · rintro ⟨⟨hc, rfl⟩, rfl⟩
    exact ⟨c, hc, rfl, rfl, hvalue c hc⟩

/-- The checks take the accumulators of a column reduction from a row of operand C. -/
theorem vArithOk_columnReduction {w : IWord} {v : VArith} {x : Ctx} (h : vArithOk w v x = true)
    (hopc : w.opc = 0x33 ∨ w.opc = 0x34 ∨ w.opc = 0x35) : v.cKind = 1 := by
  simp only [vArithOk, Bool.and_eq_true] at h
  obtain ⟨-, hkind⟩ := h
  rcases hopc with hopc | hopc | hopc <;> (rw [hopc] at hkind; exact beq_iff_eq.mp hkind)

theorem vArithOk_bLine {w : IWord} {v : VArith} {x : Ctx} (h : vArithOk w v x = true) : v.bLine < 96 := by
  simp only [vArithOk, Bool.and_eq_true, decide_eq_true_eq] at h
  obtain ⟨⟨⟨⟨⟨-, hline⟩, -⟩, -⟩, -⟩, -⟩ := h
  exact hline

/-! ### Drop-out (R155) -/

/-- The value that VDROP gives element (r, c). -/
def State.vDropped (s : State) (n k : Nat) (w : IWord) (rec : RndRec) (r c : Nat) : W32 :=
  if cgWord0 (s.seedOf (s.ctx n k).prog) (s.ctx n k).stepReg.toNat rec.tensor purposeDrop (rec.index r c) < (vArith w).imm.toNat
  then (mul32 (s.vReadA n k w r c) (s.vReadB n k w r c)).1 else 0

theorem vDrop_value (d : Draw) (rec : RndRec) (imm : W32) (r c : Nat) (a b : W32) : (vDrop d rec imm r c a b).1 =
    if cgWord0 d.seed d.step rec.tensor purposeDrop (rec.index r c) < imm.toNat then (mul32 a b).1 else 0 := by
  unfold vDrop
  dsimp only
  split <;> rfl

/-- VDROP writes one value for each row and column. -/
theorem State.mem_vWrites_vdrop {s : State} {n k : Nat} {w : IWord} {rec : RndRec} (hopc : w.opc = 0x1A)
    (hrec : (s.ctx n k).rnd = some rec) (hwidth : (vArith w).cols ≤ 96) (r c : Nat) (v : W32) :
    (r, c, v) ∈ s.vWrites n k w ↔ (r < (vArith w).rows ∧ c < (vArith w).cols) ∧ v = s.vDropped n k w rec r c := by
  have hcols : vCols 0x1A = false := rfl
  have huse : vUse 0x1A = .two := rfl
  have hvalue (r c : Nat) (hc : c < (vArith w).cols) : (vDrop (s.draw (s.ctx n k)) rec (vArith w).imm r c
      (vOpA (s.core n).ve (s.ctx n k) (vArith w) r c)
      (vOpB (s.core n).ve (s.ctx n k) (vArith w) (vLines (s.core n).ve (s.ctx n k) (vArith w)).1 r c)).1 =
        s.vDropped n k w rec r c := by
    rw [vDrop_value, s.vOpB_vLines n k w r (show c < 96 by omega)]
    rfl
  simp only [State.vWrites, vResults, hopc, hcols, Bool.false_eq_true, if_false, rowsFrom_zero, List.map_flatMap, vRow, huse, hrec, if_true,
    List.map_map, List.mem_flatMap, List.mem_map, List.mem_range, Function.comp, Prod.mk.injEq]
  constructor
  · rintro ⟨r', hr, c', hc, rfl, rfl, rfl⟩
    exact ⟨⟨hr, hc⟩, hvalue r' c' hc⟩
  · rintro ⟨⟨hr, hc⟩, rfl⟩
    exact ⟨r, hr, c, hc, rfl, rfl, hvalue r c hc⟩

/-! ### From the step to the engine -/

/-- The draws of a context read its own fields and its job. -/
theorem State.taken_seedOf (s : State) (n k : Nat) (ecc : Ecc) (p : Prog) : (s.taken n k ecc).seedOf p = s.seedOf p := by
  rw [State.taken, State.issued_eq]
  rfl

theorem State.veBegun_seedOf (s : State) (n k : Nat) (ecc : Ecc) (p : Prog) : (s.veBegun n k ecc).seedOf p = s.seedOf p :=
  s.taken_seedOf n k ecc p

/-- Settles O17: each place written gets one value, read from the operands as the instruction found them. That all is written in the
accepting step, and that operand lines in the destination buffer are read first, is the model's (assumption log entries 21 and 78). -/
theorem vectorReductions : Obligations.VectorReductions := by
  intro s n k w ecc hissues hidle hcls x v A B C hok
  set u := s.veBegun n k ecc
  have hx : u.ctx n k = { x with ve := none } := s.veBegun_ctx n k ecc
  have hve : (u.core n).ve = (s.core n).ve := s.veBegun_ve n k ecc
  have hmem : u.mem = s.mem := s.veBegun_mem n k ecc
  have hpc : (u.ctx n k).pc = (s.ctx n k).pc + 1 := by rw [hx]; exact s.taken_pc n k ecc
  have hA : u.vReadA n k w = A := by unfold State.vReadA; rw [hve, hx]
  have hB : u.vReadB n k w = B := by unfold State.vReadB; rw [hve, hx]; rfl
  have hC : u.vReadC n k w = C := by unfold State.vReadC; rw [hve, hx]; rfl
  have hok' : vArithOk w (vArith w) (u.ctx n k) = true := by rw [hx]; exact hok
  obtain ⟨hrow, hrows, hcol, hcols⟩ := vArithOk_bounds hok'
  have hline := vArithOk_bLine hok'
  have hstep {i : Instr} (hexec : exec i s = .next (s.engStep n ecc .ve 4 w.opc none)) (harith : 0x10 ≤ w.opc) :
      exec i s = .next (u.vArithTake n k w) := by rw [hexec, hissues.engStep_arith hidle hcls harith]
  refine ⟨fun p hp hopc => ?_, fun p hp hopc => ?_, fun rec hopc hrec => ?_⟩
  · obtain ⟨hexec, hreduce, hwhole⟩ : exec p.2 s = .next (s.engStep n ecc .ve 4 p.1 none) ∧ 0x30 ≤ p.1 ∧ p.1 < 0x33 := by
      fin_cases hp <;> exact ⟨rfl, by simp, by simp⟩
    rw [← hopc] at hexec hreduce hwhole ⊢
    obtain ⟨hkept, hnext, hval⟩ := State.vArithTake_place hok' (State.mem_vWrites_rowReduction hreduce hwhole)
      ⟨0, v.bLine, hrow, rfl⟩ (fun r c h => ⟨by omega, by omega⟩)
    refine ⟨_, hstep hexec (by omega), hkept.trans hmem, hnext.trans hpc, fun r hr => ?_⟩
    rw [hval r v.bLine ⟨hr, rfl⟩, hA, hC]
    rfl
  · obtain ⟨hexec, hreduce, hopcs⟩ : exec p.2 s = .next (s.engStep n ecc .ve 4 p.1 none) ∧ 0x33 ≤ p.1 ∧
        (p.1 = 0x33 ∨ p.1 = 0x34 ∨ p.1 = 0x35) := by
      fin_cases hp <;> exact ⟨rfl, by simp, by simp⟩
    rw [← hopc] at hexec hreduce hopcs ⊢
    have hkind := vArithOk_columnReduction hok' hopcs
    obtain ⟨hkept, hnext, hval⟩ := State.vArithTake_place hok' (State.mem_vWrites_columnReduction hreduce hkind hcols)
      ⟨v.bLine, 0, hcol, rfl⟩ (fun r c h => ⟨by omega, by omega⟩)
    refine ⟨_, hstep hexec (by omega), hkept.trans hmem, hnext.trans hpc, fun c hc => ?_⟩
    rw [hval v.bLine c ⟨hc, rfl⟩, hA, hC]
    rfl
  · have hrec' : (u.ctx n k).rnd = some rec := by rw [hx]; exact hrec
    obtain ⟨hkept, -, hval⟩ := State.vArithTake_place hok' (State.mem_vWrites_vdrop hopc hrec' hcols)
      ⟨0, 0, hrow, hcol⟩ (fun r c h => ⟨by omega, by omega⟩)
    refine ⟨_, hstep (by rw [hopc]; rfl) (by omega), hkept.trans hmem, fun r c hr hc => ?_⟩
    rw [hval r c ⟨hr, hc⟩, State.vDropped, hA, hB, hx, State.veBegun_seedOf]

end Sys2Proof.Machine

/-!
PROOFS. The transfers of the vector engine (R145, R151, R157, R167): what VSETSAVE, VSR_SET, VLOAD and VSTORE leave, and the arrival of a
store.
-/

namespace Sys2Proof.Machine

/-! ### Several writes of bytes to memory -/

section
variable {ι : Type} (start : ι → Nat) (bytes : ι → List Byte)

/-- A byte that none of the writes reaches stays. -/
theorem rdByte_foldl_wrBytes_outside (m : Sp Byte) {a : Nat} (l : List ι)
    (hout : ∀ e ∈ l, a < start e ∨ start e + (bytes e).length ≤ a) :
    rdByte (l.foldl (fun m e => wrBytes m (start e) (bytes e)) m) a = rdByte m a := by
  induction l generalizing m with
  | nil => rfl
  | cons e l ih =>
    rw [List.foldl_cons, ih _ (fun e' he' => hout e' (List.mem_cons_of_mem e he'))]
    exact rdByte_wrBytes_outside _ m _ a (hout e List.mem_cons_self)

/-- What one of the writes puts in place is read back, if no other reaches it. -/
theorem rdBytes_foldl_wrBytes (m : Sp Byte) {e : ι} {l : List ι} (he : e ∈ l) (hapart : ∀ e' ∈ l, e' ≠ e →
      start e' + (bytes e').length ≤ start e ∨ start e + (bytes e).length ≤ start e') :
    rdBytes (l.foldl (fun m e => wrBytes m (start e) (bytes e)) m) (start e) (bytes e).length = bytes e := by
  refine rdBytes_of_getElem? _ _ _ (fun i hi => ?_)
  induction l generalizing m with
  | nil => exact absurd he List.not_mem_nil
  | cons e' l ih =>
    rw [List.foldl_cons]
    by_cases hl : e ∈ l
    · exact ih _ hl (fun d hd => hapart d (List.mem_cons_of_mem e' hd))
    · obtain rfl := (List.mem_cons.mp he).resolve_right hl
      have hout : ∀ d ∈ l, start e + i < start d ∨ start d + (bytes d).length ≤ start e + i := by
        intro d hd
        have := hapart d (List.mem_cons_of_mem e hd) (fun h => hl (h ▸ hd))
        omega
      rw [rdByte_foldl_wrBytes_outside start bytes _ l hout]
      exact getElem?_of_wrBytes m _ hi

end

/-! ### VSETSAVE and VSR_SET (R145, R151) -/

section
variable {s : State} {n k : Nat} {w : IWord}

theorem State.vSetSaveTake_first (hzero : field 95 17 w.pl = 0) (hfits : fits (64 * field 16 0 w.pl + saveAreaSize) = true)
    (harea : (s.ctx n k).saveArea = none) :
    s.vSetSaveTake n k w = s.setCtx n k { s.ctx n k with saveArea := some (64 * field 16 0 w.pl) } := by
  simp [State.vSetSaveTake, hzero, hfits, harea]

theorem State.vSetSaveTake_again (hzero : field 95 17 w.pl = 0) (hfits : fits (64 * field 16 0 w.pl + saveAreaSize) = true)
    (harea : (s.ctx n k).saveArea = some (64 * field 16 0 w.pl)) : s.vSetSaveTake n k w = s := by
  simp [State.vSetSaveTake, hzero, hfits, harea]

theorem State.vSrSetTake_eq (hzero : field 95 17 w.pl = 0) (hfits : fits (64 * field 16 0 w.pl + 64) = true)
    (harea : (s.ctx n k).saveArea ≠ none) (h₁ : s.rdCore n (64 * field 16 0 w.pl + 3) 1 = 0)
    (h₂ : s.rdCore n (64 * field 16 0 w.pl + 4) 4 = 0) (h₃ : s.rdCore n (64 * field 16 0 w.pl + 20) 44 = 0) :
    s.vSrSetTake n k w = s.setCtx n k { s.ctx n k with rnd := some ⟨s.rdCore n (64 * field 16 0 w.pl) 3,
      s.rdCore n (64 * field 16 0 w.pl + 8) 8, s.rdCore n (64 * field 16 0 w.pl + 16) 4⟩ } := by
  simp [State.vSrSetTake, hzero, hfits, harea, h₁, h₂, h₃]

end

/-! ### The lines of a transfer (R151) -/

theorem vXfer_buf_lt (w : IWord) : (vXfer w).buf < 4 := Nat.mod_lt _ (by decide)

/-- The checks bound the rows and the columns. -/
theorem vXferOk_bounds {w : IWord} {t : VXfer} {x : Ctx} {f : FFmt} (h : vXferOk w t x = some f) :
    1 ≤ t.rows ∧ t.rows ≤ 96 ∧ 1 ≤ t.cols ∧ t.cols ≤ 96 := by
  unfold vXferOk at h
  split at h
  · cases h
  · obtain ⟨hchecks, -⟩ := Option.ite_none_right_eq_some.mp h
    simp only [Bool.and_eq_true, decide_eq_true_eq] at hchecks
    obtain ⟨⟨⟨⟨⟨⟨⟨⟨-, hrow⟩, hrows⟩, hcol⟩, hcols⟩, -⟩, -⟩, -⟩, -⟩ := hchecks
    exact ⟨hrow, hrows, hcol, hcols⟩

/-- The checks do not read the record of the instruction in flight. -/
theorem vXferOk_setVe (w : IWord) (t : VXfer) (x : Ctx) (run : Option VeRun) : vXferOk w t { x with ve := run } = vXferOk w t x := rfl

theorem mem_cellsFrom_zero {hi cols r c : Nat} : (r, c) ∈ cellsFrom 0 hi cols ↔ r < hi ∧ c < cols := by
  simp [cellsFrom, rowsFrom_zero]

/-! ### VLOAD (R157) -/

/-- The writes of a VLOAD to its buffer. -/
def State.vLoads (s : State) (n : Nat) (t : VXfer) (f : FFmt) : List (Nat × Nat × W32) :=
  (cellsFrom 0 t.rows t.cols).map (fun rc => (rc.1, rc.2, f.widen (s.sramNat n (t.at_ f.bytes rc.1 rc.2) f.bytes)))

theorem State.mem_vLoads (s : State) (n : Nat) (t : VXfer) (f : FFmt) (r c : Nat) (v : W32) :
    (r, c, v) ∈ s.vLoads n t f ↔ (r < t.rows ∧ c < t.cols) ∧ v = f.widen (s.sramNat n (t.at_ f.bytes r c) f.bytes) := by
  simp only [State.vLoads, List.mem_map, Prod.exists, mem_cellsFrom_zero, Prod.mk.injEq]
  constructor
  · rintro ⟨r', c', hcell, rfl, rfl, rfl⟩
    exact ⟨hcell, rfl⟩
  · rintro ⟨hcell, rfl⟩
    exact ⟨r, c, hcell, rfl, rfl, rfl⟩

/-- A VLOAD that passes its checks does its writes and makes its buffer valid. -/
theorem State.vLoadTake_eq {s : State} {n k : Nat} {w : IWord} {f : FFmt} (hok : vXferOk w (vXfer w) (s.ctx n k) = some f) :
    ∃ flags run, s.vLoadTake n k w =
      s.putVe n k { (s.ctx n k).raise flags with valid := setValid (s.ctx n k).valid (vXfer w).buf, ve := run }
        ((s.core n).ve.write (s.ctx n k).valid (vXfer w).buf (s.vLoads n (vXfer w) f)) := by
  obtain ⟨hrow, -, hcol, -⟩ := vXferOk_bounds hok
  have hcells : cellsFrom 0 (vXfer w).rows (vXfer w).cols ≠ [] := List.ne_nil_of_mem (mem_cellsFrom_zero.mpr ⟨hrow, hcol⟩)
  have hrows : ∃ flags, s.vLoadRows n k (vXfer w) f 0 (vXfer w).rows =
      s.putVe n k { (s.ctx n k).raise flags with valid := setValid (s.ctx n k).valid (vXfer w).buf }
        ((s.core n).ve.write (s.ctx n k).valid (vXfer w).buf (s.vLoads n (vXfer w) f)) := by
    simp only [State.vLoadRows, List.isEmpty_map, List.isEmpty_eq_false_iff.mpr hcells, Bool.false_eq_true, if_false, List.map_map]
    exact ⟨_, rfl⟩
  obtain ⟨flags, hrows⟩ := hrows
  rw [State.ctx] at hok
  simp only [State.vLoadTake, hok, hrows, State.putVe_beginVe]
  exact ⟨flags, _, rfl⟩

/-! ### VSTORE (R157) -/

/-- The address of element (r, c) of a transfer. -/
def VXfer.address (t : VXfer) (n : Nat) (f : FFmt) (rc : Nat × Nat) : Nat := sramBase n + t.at_ f.bytes rc.1 rc.2

/-- The bytes that a VSTORE writes there. -/
def State.vStored (s : State) (n k : Nat) (t : VXfer) (f : FFmt) (rc : Nat × Nat) : List Byte :=
  let x := s.ctx n k
  leBytes f.bytes (storeElem f (s.draw x) t.srReq x.rnd rc.1 rc.2 (tileAt (s.core n).ve x.valid t.buf rc.1 rc.2)).1

theorem State.vStored_length (s : State) (n k : Nat) (t : VXfer) (f : FFmt) (rc : Nat × Nat) : (s.vStored n k t f rc).length = f.bytes :=
  leBytes_length _ _

/-- Memory once a VSTORE has written its elements. -/
def State.vStoreMem (s : State) (n k : Nat) (t : VXfer) (f : FFmt) : Sp Byte :=
  (cellsFrom 0 t.rows t.cols).foldl (fun m rc => wrBytes m (t.address n f rc) (s.vStored n k t f rc)) s.mem

/-- The context once a VSTORE is complete, with the flags it raised and the record of the instruction: its arrival is due. -/
def Ctx.stored (x : Ctx) (t : VXfer) (flags : NFlags) (run : Option VeRun) : Ctx :=
  { x.raise flags with veArr := if t.setFlags then x.veArr ++ [t.group] else x.veArr, ve := run }

theorem State.vStoreTake_eq {s : State} {n k : Nat} {w : IWord} {f : FFmt} (hok : vXferOk w (vXfer w) (s.ctx n k) = some f) :
    ∃ flags run, s.vStoreTake n k w =
      State.setCtx { s with mem := s.vStoreMem n k (vXfer w) f } n k ((s.ctx n k).stored (vXfer w) flags run) := by
  have hrows : ∃ flags, s.vStoreRows n k (vXfer w) f 0 (vXfer w).rows =
      State.setCtx { s with mem := s.vStoreMem n k (vXfer w) f } n k ((s.ctx n k).stored (vXfer w) flags (s.ctx n k).ve) := by
    simp only [State.vStoreRows, List.foldl_map, decide_true, Bool.and_true]
    exact ⟨_, rfl⟩
  obtain ⟨flags, hrows⟩ := hrows
  simp only [State.vStoreTake, hok, hrows, State.beginVe, State.updCtx, State.ctx_setCtx_same, State.setCtx_setCtx]
  exact ⟨flags, _, rfl⟩

section
variable (s : State) (n k : Nat) (t : VXfer) (f : FFmt)

theorem State.vStoreMem_outside {a : Nat} (hout : ∀ r c, r < t.rows → c < t.cols →
      a < sramBase n + t.at_ f.bytes r c ∨ sramBase n + t.at_ f.bytes r c + f.bytes ≤ a) :
    rdByte (s.vStoreMem n k t f) a = rdByte s.mem a := by
  refine rdByte_foldl_wrBytes_outside _ _ s.mem _ (fun ⟨r, c⟩ hcell => ?_)
  obtain ⟨hr, hc⟩ := mem_cellsFrom_zero.mp hcell
  rw [State.vStored_length]
  exact hout r c hr hc

theorem State.vStoreMem_element {r c : Nat} (hr : r < t.rows) (hc : c < t.cols)
    (hapart : ∀ i j, i < t.rows → j < t.cols → (i, j) ≠ (r, c) →
      t.at_ f.bytes i j + f.bytes ≤ t.at_ f.bytes r c ∨ t.at_ f.bytes r c + f.bytes ≤ t.at_ f.bytes i j) :
    rdBytes (s.vStoreMem n k t f) (sramBase n + t.at_ f.bytes r c) f.bytes = s.vStored n k t f (r, c) := by
  have hread := rdBytes_foldl_wrBytes (t.address n f) (s.vStored n k t f) s.mem (mem_cellsFrom_zero.mpr ⟨hr, hc⟩)
    (fun ⟨i, j⟩ hcell hne => by
      obtain ⟨hi, hj⟩ := mem_cellsFrom_zero.mp hcell
      have := hapart i j hi hj hne
      simp only [State.vStored_length, VXfer.address]
      omega)
  rwa [State.vStored_length] at hread

end

/-! ### VSTORE_ARRIVAL (R151, R167) -/

theorem exec_vstoreArrival {s : State} {n k g : Nat} {gs : List Nat} (hrun : (s.core n).running = some k)
    (harr : (s.ctx n k).veArr = g :: gs) : exec (.vstoreArrival n) s =
      .next (s.setCore n (((s.core n).arrive k g false).setCtx k { s.ctx n k with
        veArr := gs, ve := if gs = [] then (s.ctx n k).storeDone else (s.ctx n k).ve })) := by
  change execVstoreArrival n s = _
  rw [State.ctx] at harr ⊢
  simp only [execVstoreArrival, hrun, harr, List.isEmpty_iff]

/-! ### From the step to the engine -/

/-- An idle vector engine takes what issues in the same step. -/
theorem State.Issues.engStep_ve {s : State} {n k : Nat} {w : IWord} {ecc : Ecc} (h : s.Issues n k w ecc) (hidle : (s.ctx n k).qve = [])
    (hcls : w.cls = 4) : s.engStep n ecc .ve 4 w.opc none = (s.taken n k ecc).veAccept n k w := by
  have htake := h.engStep (e := .ve) hidle (ring := none) rfl
  rwa [hcls] at htake

/-- A context put in place leaves the engine's storage. -/
theorem State.ve_setCtx (s : State) (n k : Nat) (x : Ctx) : ((s.setCtx n k x).core n).ve = (s.core n).ve := by
  rw [State.core_setCtx_same, CoreSt.setCtx]

section
variable (s : State) (n k : Nat) (ecc : Ecc)

theorem State.veAccept_vsetsave {w : IWord} (h : w.opc = 0) :
    (s.taken n k ecc).veAccept n k w = (s.veBegun n k ecc).vSetSaveTake n k w := by
  rw [State.veAccept, h]
  rfl

theorem State.veAccept_vsrSet {w : IWord} (h : w.opc = 1) :
    (s.taken n k ecc).veAccept n k w = (s.veBegun n k ecc).vSrSetTake n k w := by
  rw [State.veAccept, h]
  rfl

theorem State.veAccept_vload {w : IWord} (h : w.opc = 2) :
    (s.taken n k ecc).veAccept n k w = (s.veBegun n k ecc).vLoadTake n k w := by
  rw [State.veAccept, h]
  rfl

theorem State.veAccept_vstore {w : IWord} (h : w.opc = 3) :
    (s.taken n k ecc).veAccept n k w = (s.veBegun n k ecc).vStoreTake n k w := by
  rw [State.veAccept, h]
  rfl

theorem State.veBegun_setCtx (y : Ctx) :
    (s.veBegun n k ecc).setCtx n k y = (s.taken n k ecc).setCtx n k y := by
  rw [State.veBegun, State.updCtx, State.setCtx_setCtx]

theorem State.veBegun_rdCore (m : Nat) : (s.veBegun n k ecc).rdCore m = s.rdCore m :=
  s.taken_rdCore n k ecc m

theorem State.veBegun_sramNat (m off len : Nat) :
    (s.veBegun n k ecc).sramNat m off len = s.sramNat m off len := by
  rw [State.sramNat, State.veBegun_mem, State.sramNat]

/-- Conversions of an instruction draw with what its context held as it issued. -/
theorem State.veBegun_draw :
    (s.veBegun n k ecc).draw ((s.veBegun n k ecc).ctx n k) = s.draw ((s.taken n k ecc).ctx n k) := by
  rw [State.draw, State.veBegun_ctx, State.veBegun_seedOf]
  rfl

end

/-- Settles O18: a VLOAD writes one value for each element of its buffer, and the writes of a VSTORE are read back where no later one
reaches. That both take their whole effect in the accepting step, and a VSTORE's arrival alone is left for VSTORE_ARRIVAL, is the
model's (assumption log entry 21). -/
theorem vectorTransfers : Obligations.VectorTransfers := by
  refine ⟨?_, fun s n k g gs hrun harr => exec_vstoreArrival hrun harr⟩
  intro s n k w ecc hissues hidle hcls u x a
  have hx : (s.veBegun n k ecc).ctx n k = { x with ve := none } := s.veBegun_ctx n k ecc
  have hve : ((s.veBegun n k ecc).core n).ve = (s.core n).ve := s.veBegun_ve n k ecc
  have hstep {i : Instr} {t : State} (hexec : exec i s = .next (s.engStep n ecc .ve 4 w.opc none))
      (htake : (s.taken n k ecc).veAccept n k w = t) : exec i s = .next t := by
    rw [hexec, hissues.engStep_ve hidle hcls, htake]
  have hbegun : s.veBegun n k ecc = u.setCtx n k { x with ve := none } := rfl
  have hdraw : (s.veBegun n k ecc).draw ((s.veBegun n k ecc).ctx n k) = s.draw x := s.veBegun_draw n k ecc
  clear_value x
  refine ⟨fun hopc hzero hfits harea => ?_, fun hopc hzero hfits harea => ?_, fun hopc hzero hfits harea h₁ h₂ h₃ => ?_,
    fun f hopc hok => ?_, fun f hopc hok => ?_⟩
  · rw [hstep (by rw [hopc]; rfl) (s.veAccept_vsetsave n k ecc hopc), State.vSetSaveTake_first hzero hfits (by rw [hx]; exact harea),
      hx, State.veBegun_setCtx]
  · rw [hstep (by rw [hopc]; rfl) (s.veAccept_vsetsave n k ecc hopc), State.vSetSaveTake_again hzero hfits (by rw [hx]; exact harea),
      hbegun]
  · rw [← s.veBegun_rdCore n k ecc] at h₁ h₂ h₃ ⊢
    rw [hstep (by rw [hopc]; rfl) (s.veAccept_vsrSet n k ecc hopc),
      State.vSrSetTake_eq hzero hfits (by rw [hx]; exact harea) h₁ h₂ h₃, hx, State.veBegun_setCtx]
  · obtain ⟨-, hrows, -, hcols⟩ := vXferOk_bounds hok
    obtain ⟨flags, run, hload⟩ := State.vLoadTake_eq (s := s.veBegun n k ecc) (by rw [hx, vXferOk_setVe, hok])
    refine ⟨_, hstep (by rw [hopc]; rfl) ((s.veAccept_vload n k ecc hopc).trans hload), s.veBegun_mem n k ecc, fun r c hr hc => ?_⟩
    rw [State.putVe_ve, State.putVe_ctx, ← s.veBegun_sramNat n k ecc]
    exact tileAt_write_place (vXfer_buf_lt w) (fun r c h => ⟨by omega, by omega⟩) (State.mem_vLoads _ n (vXfer w) f) ⟨hr, hc⟩
  · obtain ⟨flags, run, hstore⟩ := State.vStoreTake_eq (s := s.veBegun n k ecc) (by rw [hx, vXferOk_setVe, hok])
    refine ⟨_, hstep (by rw [hopc]; rfl) ((s.veAccept_vstore n k ecc hopc).trans hstore), fun j hout => ?_, fun r c hr hc hapart => ?_,
      ?_, ?_, ?_⟩
    · rw [← s.veBegun_mem n k ecc]
      exact State.vStoreMem_outside _ n k _ f hout
    · refine (State.vStoreMem_element _ n k _ f hr hc hapart).trans ?_
      rw [State.vStored, hdraw, hve, hx]
    · rw [State.ve_setCtx, ← hve]
      rfl
    · rw [State.ctx_setCtx_same, hx]
      rfl
    · rw [State.ctx_setCtx_same, hx]
      rfl

end Sys2Proof.Machine

/-!
PROOFS. The vector registers in the service context (R148): what each of the four service opcodes writes, and what it leaves alone.
-/

namespace Sys2Proof.Machine

/-! ### Vector registers -/

theorem vregKey_inj {v i v' i' : Nat} (hi : i < 96) (hi' : i' < 96) : vregKey v i = vregKey v' i' ↔ v = v' ∧ i = i' := by
  unfold vregKey
  omega

section
variable (ve : VeSt) (f : Nat → W32) {i : Nat} (hi : i < 96)
include hi

theorem VeSt.vreg_setVreg_same (v : Nat) : (ve.setVreg v f).vreg v i = f i := by
  refine Sp.get_foldl_set 0#32 (vregKey v) f _ _ (fun j hj hkey => ?_) (.inr ⟨i, List.mem_range.mpr hi, rfl⟩)
  rw [((vregKey_inj (List.mem_range.mp hj) hi).mp hkey).2]

theorem VeSt.vreg_setVreg_other {v u : Nat} (h : u ≠ v) : (ve.setVreg v f).vreg u i = ve.vreg u i := by
  refine Sp.get_foldl_set 0#32 (vregKey v) f _ _ (fun j hj hkey => ?_) (.inl rfl)
  exact absurd ((vregKey_inj (List.mem_range.mp hj) hi).mp hkey).1.symm h

end

theorem State.updVe_ve (s : State) (n : Nat) (f : VeSt → VeSt) : ((s.updVe n f).core n).ve = f (s.core n).ve := by
  rw [State.updVe, State.core_updCore_same]

/-! ### A register in SRAM -/

theorem State.setSram_eq (s : State) (n off : Nat) (bs : List Byte) :
    s.setSram n off bs = { s with mem := (s.setSram n off bs).mem } := rfl

theorem State.setSram_mem (s : State) (n off : Nat) (bs : List Byte) :
    (s.setSram n off bs).mem = wrBytes s.mem (sramBase n + off) bs := rfl

/-- The 384 bytes of a vector register. -/
def VeSt.vregBytes (ve : VeSt) (v : Nat) : List Byte := (List.range 96).flatMap (fun i => leBytes 4 (ve.vreg v i).toNat)

theorem VeSt.vregBytes_length (ve : VeSt) (v : Nat) : (ve.vregBytes v).length = 384 := by
  simp only [VeSt.vregBytes, List.length_flatMap, leBytes_length, List.map_const', List.length_range, List.sum_replicate_nat]

theorem VeSt.vregBytes_getElem? (ve : VeSt) (v : Nat) {i j : Nat} (hi : i < 96) (hj : j < 4) :
    (ve.vregBytes v)[4 * i + j]? = (leBytes 4 (ve.vreg v i).toNat)[j]? := by
  rw [VeSt.vregBytes, getElem?_flatMap_of_length (fun _ => leBytes_length 4 _) _ i hj, List.getElem?_range hi]
  rfl

/-- A lane of a register that was written to memory is read back. -/
theorem rdNat_wrBytes_vregBytes (m : Sp Byte) (a : Nat) (ve : VeSt) (v : Nat) {i : Nat} (hi : i < 96) :
    rdNat (wrBytes m a (ve.vregBytes v)) (a + 4 * i) 4 = (ve.vreg v i).toNat := by
  have hbytes := rdBytes_of_getElem? (wrBytes m a (ve.vregBytes v)) (leBytes 4 (ve.vreg v i).toNat) (a + 4 * i) (fun j hj => by
    rw [leBytes_length] at hj
    rw [← ve.vregBytes_getElem? v hi hj, Nat.add_assoc]
    exact getElem?_of_wrBytes m a (by rw [VeSt.vregBytes_length]; omega))
  rw [leBytes_length] at hbytes
  rw [rdNat, hbytes, leVal_leBytes]
  exact Nat.mod_eq_of_lt (ve.vreg v i).isLt

/-! ### The four service opcodes (R148) -/

section
variable {s : State} {n : Nat} (hserve : s.service n = true)
include hserve

theorem exec_vrLoad {reg off : Nat} (hreg : reg < 32) (hoff : off + 384 ≤ 0x800000) : exec (.vrLoad n reg off) s =
    .next (s.updVe n (fun ve => ve.setVreg reg (fun i => BitVec.ofNat 32 (s.sramNat n (off + 4 * i) 4)))) := by
  have hfits : fits (off + 384) = true := decide_eq_true hoff
  change execVrLoad n reg off s = _
  simp only [execVrLoad, hserve, hreg, hfits, decide_true, Bool.and_true, if_true]

theorem exec_vrStore {reg off : Nat} (hreg : reg < 32) (hoff : off + 384 ≤ 0x800000) : exec (.vrStore n reg off) s =
    .next (s.setSram n off ((s.core n).ve.vregBytes reg)) := by
  have hfits : fits (off + 384) = true := decide_eq_true hoff
  change execVrStore n reg off s = _
  simp only [execVrStore, hserve, hreg, hfits, decide_true, Bool.and_true, if_true, VeSt.vregBytes]

theorem exec_vrFrombuf {reg buf row : Nat} (hreg : reg < 32) (hbuf : buf < 4) (hrow : row < 96) : exec (.vrFrombuf n reg buf row) s =
    .next (s.updVe n (fun ve => ve.setVreg reg (fun i => Sp.get 0#32 ve.tiles (tileKey buf row i)))) := by
  change execVrFrombuf n reg buf row s = _
  simp only [execVrFrombuf, hserve, hreg, hbuf, hrow, decide_true, Bool.and_true, if_true]

theorem exec_vrOp {opc dst : Nat} (hopc : veOpcode opc = true) (harith : 0x10 ≤ opc) (hdst : dst < 32) (a b c : Nat) :
    exec (.vrOp n opc dst a b c) s = .next (s.bump.updVe n (fun ve =>
      ve.setVreg dst (fun i => vrLane s.free opc (ve.vreg a i) (ve.vreg b i) (ve.vreg c i) i))) := by
  change execVrOp n opc dst a b c s = _
  simp only [execVrOp, hserve, hopc, harith, hdst, decide_true, Bool.and_true, if_true]

end

theorem vrLane_element (free : Nat) {opc : Nat} (h : opc ≤ 0x18 ∨ 0x20 ≤ opc ∧ opc ≤ 0x29) (a b c : W32) (i : Nat) :
    vrLane free opc a b c i = (vElem opc a b c).1 := if_pos h

theorem vrLane_columnReduction (free : Nat) {opc : Nat} (h : 0x33 ≤ opc) (a b c : W32) (i : Nat) :
    vrLane free opc a b c i = (vStep opc c a).1 := by
  have hlane : ¬ (opc ≤ 0x18 ∨ 0x20 ≤ opc ∧ opc ≤ 0x29) := by omega
  exact (if_neg hlane).trans (if_pos h)

/-- Settles O19: one register is written, lane by lane. That a column reduction on registers acts lane by lane too, and that a row
reduction, a transposition or drop-out leaves free values, is the model's choice (assumption log entry 22). -/
theorem vectorService : Obligations.VectorService := by
  intro s n hserve
  refine ⟨fun reg off hreg hoff => ⟨_, exec_vrLoad hserve hreg hoff, rfl, fun i hi => ?_, fun v i hv hi => ?_⟩,
    fun reg off hreg hoff => ⟨_, exec_vrStore hserve hreg hoff, s.setSram_eq n off _, fun i hi => ?_, fun j hj => ?_⟩,
    fun reg buf row hreg hbuf hrow => ⟨_, exec_vrFrombuf hserve hreg hbuf hrow, rfl, fun i hi => ?_⟩,
    fun opc dst a b c hdst hmem => ?_⟩
  · rw [State.updVe_ve, VeSt.vreg_setVreg_same _ _ hi]
  · rw [State.updVe_ve, VeSt.vreg_setVreg_other _ _ hi hv]
  · rw [State.sramNat, State.setSram_mem, ← Nat.add_assoc]
    exact rdNat_wrBytes_vregBytes s.mem _ _ reg hi
  · rw [State.setSram_mem]
    exact rdByte_wrBytes_outside _ s.mem _ j (by rwa [VeSt.vregBytes_length])
  · rw [State.updVe_ve, VeSt.vreg_setVreg_same _ _ hi]
  · obtain ⟨hopc, harith⟩ : veOpcode opc = true ∧ 0x10 ≤ opc := by
      fin_cases hmem <;> exact ⟨rfl, by simp⟩
    refine ⟨_, exec_vrOp hserve hopc harith hdst a b c, rfl, fun v i hv hi => ?_, fun i hi => ⟨fun hlanes => ?_, fun hcolumn => ?_⟩⟩
    · rw [State.updVe_ve, VeSt.vreg_setVreg_other _ _ hi hv]
      rfl
    · rw [State.updVe_ve, VeSt.vreg_setVreg_same _ _ hi]
      exact vrLane_element s.free hlanes _ _ _ i
    · rw [State.updVe_ve, VeSt.vreg_setVreg_same _ _ hi]
      exact vrLane_columnReduction s.free hcolumn _ _ _ i

end Sys2Proof.Machine

/-!
PROOFS. Wait groups and engine queues (R72, R166, R169): what is held, what stops its context, and what goes on when the group is set or
the queue has room.
-/

namespace Sys2Proof.Machine

/-! ### The state of a wait field (R166) -/

theorem CoreSt.waitState_of_free (c : CoreSt) (k : Nat) {w : IWord} (h : w.waitEn = false) : c.waitState k w = .ready := by
  simp [CoreSt.waitState, h]

theorem CoreSt.waitState_of_waits (c : CoreSt) (k : Nat) {w : IWord} (h : w.waitEn = true) :
    c.waitState k w = if (c.grp k w.waitGroup).arrivals < (c.grp k w.waitGroup).need then .held
      else if (c.grp k w.waitGroup).poison then .poisoned else .ready := by
  simp [CoreSt.waitState, h, Grp.isSet]

theorem CoreSt.waitState_held_iff (c : CoreSt) (k : Nat) {w : IWord} (h : w.waitEn = true) :
    c.waitState k w = .held ↔ (c.grp k w.waitGroup).arrivals < (c.grp k w.waitGroup).need := by
  rw [c.waitState_of_waits k h]
  split
  next hlow => simp [hlow]
  next hset => split <;> simp [hset]

theorem CoreSt.waitState_poisoned_iff (c : CoreSt) (k : Nat) {w : IWord} (h : w.waitEn = true) :
    c.waitState k w = .poisoned ↔
      (c.grp k w.waitGroup).need ≤ (c.grp k w.waitGroup).arrivals ∧ (c.grp k w.waitGroup).poison = true := by
  rw [c.waitState_of_waits k h]
  split
  next hlow => simp [hlow]
  next hset =>
    have hreached := Nat.not_lt.mp hset
    split
    next hpoison => simp [hreached, hpoison]
    next hpoison => simp [hpoison]

/-! ### The head of an engine's queue (R166) -/

theorem Ctx.popQueue_of_cons {x : Ctx} {e : Eng} {w : IWord} {ws : List IWord} (h : x.queue e = w :: ws) :
    x.popQueue e = x.setQueue e ws := by
  rw [Ctx.popQueue, h, List.drop_one, List.tail_cons]

section
variable {s : State} {n k : Nat} {e : Eng} {w : IWord} {ws : List IWord} (hqueue : (s.ctx n k).queue e = w :: ws)
include hqueue

theorem State.acceptHead_of_held (ring : Option Entry) (h : (s.core n).waitState k w = .held) : s.acceptHead n k e ring = s := by
  simp only [State.acceptHead, hqueue, h]

theorem State.acceptHead_of_ready {ring : Option Entry} (h : (s.core n).waitState k w = .ready) (hready : s.engReady n k e w ring = true) :
    s.acceptHead n k e ring = (s.updCtx n k (fun x => x.setQueue e ws)).engEffect n k e w ring := by
  simp only [State.acceptHead, hqueue, h, hready, if_true, State.updCtx, Ctx.popQueue_of_cons hqueue]

end

theorem exec_waitGroupRelease_engine {s : State} {n k : Nat} (e : Eng) (hrun : (s.core n).running = some k) :
    exec (.waitGroupRelease n (some e)) s = .next (if s.stopped then s else s.acceptHead n k e none) := by
  change execWaitGroupRelease n (some e) s = _
  simp only [execWaitGroupRelease, hrun]
  split <;> rfl

/-! ### The sequencer's own instructions (R166, R169) -/

/-- The instruction word at the program counter of context `k` of core `n`. -/
def State.wordAt (s : State) (n k : Nat) : IWord := (s.core n).word (s.core n).active ((s.ctx n k).prog.start + (s.ctx n k).pc)

section
variable {s : State} {n k : Nat} (hrun : (s.core n).running = some k) (hgo : s.stopped = false)
include hrun hgo

/-- A free sequencer of a running context issues the legal word at its program counter, behind the wait field. -/
theorem State.ownStep_of_free {ecc : Ecc} (htick : (s.ctx n k).inTick = true) (hfree : (s.ctx n k).hold = .none)
    (hin : (s.ctx n k).pc < (s.ctx n k).prog.length) (hread : ecc ≠ .uncorrectable) (hlegal : wordLegal (s.wordAt n k) = true)
    (eff : State → Nat → Nat → IWord → State) :
    s.ownStep n ecc (s.wordAt n k).cls (s.wordAt n k).opc eff = seqOwn eff (s.issued n k ecc) n k (s.wordAt n k) := by
  have hfetch : s.fetch n ecc = .word k (s.wordAt n k) := by
    rw [State.fetch_of_free ecc hrun hgo htick hfree, if_neg (Nat.not_le.mpr hin), if_neg hread, State.wordAt]
  simp [State.ownStep, State.seqStep, hfetch, hlegal, State.issued]

/-- The sequencer's own instruction takes effect once its group is set. -/
theorem exec_waitGroupRelease_own (hhold : (s.ctx n k).hold = .wait) (hset : (s.core n).waitState k (s.wordAt n k) = .ready) :
    exec (.waitGroupRelease n none) s =
      .next (ownEffect (s.wordAt n k) (s.setCtx n k { s.ctx n k with hold := .none }) n k (s.wordAt n k)) := by
  rw [State.wordAt, State.ctx] at hset
  rw [State.ctx] at hhold
  change execWaitGroupRelease n none s = _
  simp only [execWaitGroupRelease, State.releaseSeq, hrun, hhold, hgo, hset, and_self, if_true, State.wordAt, State.ctx]

end

theorem ownEffect_nop {w : IWord} (hcls : w.cls = 0) (hopc : w.opc = 0) : ownEffect w = effNop := by
  rw [ownEffect, hcls, hopc]
  rfl

section
variable {s : State} {n k : Nat} {w : IWord} (eff : State → Nat → Nat → IWord → State) (ecc : Ecc)

theorem seqOwn_of_held (h : (s.core n).waitState k w = .held) :
    seqOwn eff (s.issued n k ecc) n k w = (s.issued n k ecc).updCtx n k (fun x => { x with hold := .wait }) := by
  rw [seqOwn, State.issued_core, h]

theorem seqOwn_of_poisoned (h : (s.core n).waitState k w = .poisoned) :
    seqOwn eff (s.issued n k ecc) n k w = (s.issued n k ecc).poisonStop n k w.waitGroup := by
  rw [seqOwn, State.issued_core, h]

end

/-! ### An instruction that waits for room in its queue (R72) -/

/-- A held context with instruction `w` behind those that wait for engine `e`, out of its hold and past it. -/
def Ctx.dispatched (x : Ctx) (e : Eng) (w : IWord) : Ctx :=
  { { x with hold := .none }.setQueue e (x.queue e ++ [w]) with pc := x.pc + 1 }

theorem Ctx.queue_setHold (x : Ctx) (e : Eng) (h : SeqHold) : Ctx.queue { x with hold := h } e = x.queue e := by
  cases e <;> rfl

theorem effDispatch_of_room {s : State} {n k : Nat} {e : Eng} (ring : Option Entry) (w : IWord) (h : ((s.ctx n k).queue e).length < 8) :
    effDispatch e ring (s.setCtx n k { s.ctx n k with hold := .none }) n k w =
      if (s.ctx n k).queue e = [] then (s.setCtx n k ((s.ctx n k).dispatched e w)).acceptHead n k e ring
      else s.setCtx n k ((s.ctx n k).dispatched e w) := by
  simp only [effDispatch, State.ctx_setCtx_same, Ctx.queue_setHold, if_neg (Nat.not_le.mpr h), State.setCtx_setCtx, List.isEmpty_iff,
    Ctx.dispatched]

/-- What waits for room is dispatched as one that has just been fetched. -/
theorem exec_engineDispatch_of_room {s : State} {n k : Nat} {e : Eng} (hrun : (s.core n).running = some k)
    (hhold : (s.ctx n k).hold = .full) (hgo : s.stopped = false) (heng : engOfClass (s.wordAt n k).cls = some e)
    (hroom : ((s.ctx n k).queue e).length < 8) :
    exec (.engineDispatch n) s = .next
      (if (s.ctx n k).queue e = [] then (s.setCtx n k ((s.ctx n k).dispatched e (s.wordAt n k))).acceptHead n k e none
      else s.setCtx n k ((s.ctx n k).dispatched e (s.wordAt n k))) := by
  rw [← effDispatch_of_room none _ hroom]
  rw [State.wordAt] at heng
  change execEngineDispatch n s = _
  simp only [execEngineDispatch, hrun, hhold, hgo, and_self, if_true, heng, hroom, State.wordAt]

/-- Settles O13: a wait field is ready, held or poisoned, and each of its three readers goes by that. That an instruction which waited
for room is taken at once where none is queued before it is the model's choice (assumption log entry 20). -/
theorem engineQueues : Obligations.EngineQueues := by
  refine ⟨fun c k w => ⟨c.waitState_of_free k, fun h => ⟨c.waitState_held_iff k h, c.waitState_poisoned_iff k h⟩⟩,
    fun s n k e w ws hrun hqueue => ⟨fun hheld => ?_, fun hset hgo hready => ?_⟩, fun s n k ecc hrun hgo => ?_,
    fun s n k e hrun hhold hgo => ?_⟩
  · rw [exec_waitGroupRelease_engine e hrun, State.acceptHead_of_held hqueue none hheld, ite_self]
  · rw [exec_waitGroupRelease_engine e hrun, hgo, State.acceptHead_of_ready hqueue hset hready]
    rfl
  · intro x w
    refine ⟨fun htick hfree hin hread hlegal q hq hcls hopc => ?_, exec_waitGroupRelease_own hrun hgo, fun hhold hcls hopc hset => ?_⟩
    · obtain ⟨eff, hexec⟩ : ∃ eff, exec q.2.2 s = .next (s.ownStep n ecc q.1 q.2.1 eff) := by
        fin_cases hq <;> exact ⟨_, rfl⟩
      have hstep : exec q.2.2 s = .next (seqOwn eff (s.issued n k ecc) n k w) := by
        rw [hexec, ← hcls, ← hopc]
        exact congrArg Host.Outcome.next (State.ownStep_of_free hrun hgo htick hfree hin hread hlegal eff)
      rw [hstep]
      exact ⟨fun h => congrArg _ (seqOwn_of_held eff ecc h), fun h => congrArg _ (seqOwn_of_poisoned eff ecc h)⟩
    · have heff : ownEffect (s.wordAt n k) = effNop := ownEffect_nop hcls hopc
      rw [exec_waitGroupRelease_own hrun hgo hhold hset, heff, effNop, State.updCtx, State.ctx_setCtx_same, State.setCtx_setCtx]
      rfl
  · intro x w u heng
    refine ⟨fun hsome hroom => ?_, fun hnone => ?_⟩
    · rw [exec_engineDispatch_of_room hrun hhold hgo heng hroom, if_neg hsome]
      rfl
    · have hroom : (x.queue e).length < 8 := by simp [hnone]
      rw [exec_engineDispatch_of_room hrun hhold hgo heng hroom, if_pos hnone]
      rfl

end Sys2Proof.Machine

/-!
PROOFS. Pea transfers (R182 to R185, R349 to R351): instructions taken, local transfers that land, and the messages of remote ones.
-/

namespace Sys2Proof.Machine

/-! ### Arrivals at a group (R165, R167) -/

@[simp] theorem CoreSt.grp_setGrp_same (c : CoreSt) (k g : Nat) (v : Grp) : (c.setGrp k g v).grp k g = v := Sp.get_set_same _ _ _ _

@[simp] theorem CoreSt.grp_arrive (c : CoreSt) (k g : Nat) (poison : Bool) : (c.arrive k g poison).grp k g = (c.grp k g).arrive poison :=
  c.grp_setGrp_same k g _

@[simp] theorem State.core_arrive_same (s : State) (n k g : Nat) (poison : Bool) :
    (s.arrive n k g poison).core n = (s.core n).arrive k g poison := s.core_updCore_same n _

theorem State.core_arrive_other (s : State) {m n : Nat} (k g : Nat) (poison : Bool) (h : m ≠ n) :
    (s.arrive n k g poison).core m = s.core m := s.core_updCore_other _ h

@[simp] theorem State.arrive_mem (s : State) (n k g : Nat) (poison : Bool) : (s.arrive n k g poison).mem = s.mem := rfl

/-- An arrival touches groups alone. -/
theorem State.arrive_peas (s : State) (n k g : Nat) (poison : Bool) (m : Nat) :
    ((s.arrive n k g poison).core m).peas = (s.core m).peas := by
  by_cases h : m = n
  · rw [h, State.core_arrive_same]
    rfl
  · rw [State.core_arrive_other _ _ _ _ h]

@[simp] theorem State.setSram_core (s : State) (n off : Nat) (bs : List Byte) (m : Nat) : (s.setSram n off bs).core m = s.core m := rfl

/-! ### Instructions taken (R182, R183) -/

/-- The state with a transfer of core `n` in flight. -/
def State.peaFlies (s : State) (n : Nat) (m : PeaMsg) : State :=
  s.updCore n (fun c => { c with peas := c.peas ++ [m], st := { c.st with pea := c.st.pea + 1 } })

/-- What a transfer carries from its own core: PEA_GET brings nothing. -/
def State.peaData (s : State) (n : Nat) (m : PeaMsg) : List Byte := if m.op = 1 then [] else s.sram n m.loc m.len

theorem State.peaFlies_ctx (s : State) (n : Nat) (m : PeaMsg) (k : Nat) : (s.peaFlies n m).ctx n k = s.ctx n k := by
  rw [State.ctx, State.peaFlies, State.core_updCore_same]
  rfl

/-- Transfers in flight do not tell where a shard is. -/
theorem State.peaFlies_peaHere (s : State) (n : Nat) (m p : PeaMsg) : (s.peaFlies n m).peaHere n p = s.peaHere n p := by
  rw [State.peaHere, State.peaFlies_ctx]
  rfl

theorem State.peAccept_of_ok {s : State} {n k : Nat} {w : IWord} (hok : peaOk s (s.ctx n k) n (peaOf w k) = true) :
    s.peAccept n k w = s.peaFlies n { peaOf w k with data := s.peaData n (peaOf w k) } := by
  simp only [State.peAccept, hok, Bool.not_true, Bool.false_eq_true, if_false, State.peaFlies, State.peaData]
  split <;> rfl

/-- A legal instruction is in flight, and leaves as a message where its shard is not here. -/
theorem State.peTake_of_ok {s : State} {n k : Nat} {w : IWord} (hok : peaOk s (s.ctx n k) n (peaOf w k) = true) {m : PeaMsg}
    (hm : m = { peaOf w k with data := s.peaData n (peaOf w k) }) :
    s.peTake n k w = if s.peaHere n (peaOf w k) then s.peaFlies n m else (s.peaFlies n m).peaSend n m := by
  have hlast : ((s.peaFlies n m).core n).peas[(s.core n).peas.length]? = some m := by
    rw [State.peaFlies, State.core_updCore_same, List.getElem?_concat_length]
  have hhere : (s.peaFlies n m).peaHere n m = s.peaHere n (peaOf w k) := by
    rw [State.peaFlies_peaHere, hm]
    rfl
  simp only [State.peTake, State.peAccept_of_ok hok, ← hm, hlast, hhere]

/-- An idle Pea engine takes what issues in the same step. -/
theorem State.Issues.engStep_pe {s : State} {n k : Nat} {w : IWord} {ecc : Ecc} (h : s.Issues n k w ecc) (hidle : (s.ctx n k).qpe = [])
    (hcls : w.cls = 6) : s.engStep n ecc .pe 6 w.opc none = (s.taken n k ecc).peTake n k w := by
  have htake := h.engStep (e := .pe) hidle (ring := none) rfl
  rwa [hcls] at htake

/-- Settles O22: the bytes are those that SRAM holds as the instruction is taken, and the record of a corrected word changes none. -/
theorem peaTaken : Obligations.PeaTaken := by
  intro s n k w ecc hissues hidle hcls u m z out hok
  have hstep {i : Instr} {d : List Byte} (hexec : exec i s = .next (s.engStep n ecc .pe 6 w.opc none)) (hd : u.peaData n m = d) :
      exec i s = out d := by
    rw [hexec, hissues.engStep_pe hidle hcls, State.peTake_of_ok hok rfl]
    subst hd
    rfl
  have hsram : u.sram n m.loc m.len = s.sram n m.loc m.len := by rw [State.sram, s.taken_mem n k ecc, State.sram]
  refine ⟨fun hopc => hstep (by rw [hopc]; rfl) ?_, fun hopc => hstep (by rw [hopc]; rfl) (if_pos hopc),
    fun hopc => hstep (by rw [hopc]; rfl) ?_⟩
  · exact (if_neg (show ¬ w.opc = 1 by omega)).trans hsram
  · exact (if_neg (show ¬ w.opc = 1 by omega)).trans hsram

/-! ### Local transfers that land (R183 to R185) -/

/-- The state with a core's only transfer in flight no longer. -/
def State.peaLanded (s : State) (n : Nat) : State := s.setCore n { s.core n with peas := [] }

theorem firstPea_here {here : PeaMsg → Bool} {target : Nat} {l : List PeaMsg} {m : PeaMsg} (h : firstPea here target l = some m) :
    m.core = target ∧ here m = true := by
  induction l with
  | nil => simp [firstPea] at h
  | cons x l ih =>
    rw [firstPea] at h
    split at h
    next hx => exact Option.some.inj h ▸ hx
    · exact ih h

theorem exec_peaArrival_only {s : State} {n : Nat} {m : PeaMsg} (hfirst : firstPea (s.peaHere n) m.core (s.core n).peas = some m)
    (honly : (s.core n).peas = [m]) : exec (.peaArrival n m.core) s = .next ((s.peaLanded n).peaLand n m) := by
  have hdrop : dropPea (s.peaHere n) m.core [m] = [] := if_pos (firstPea_here hfirst)
  rw [honly] at hfirst
  change execPeaArrival n m.core s = _
  simp only [execPeaArrival, hfirst, State.updCore, honly, hdrop, State.peaLanded]

theorem State.peaLanded_core (s : State) (n m : Nat) :
    (s.peaLanded n).core m = if m = n then { s.core n with peas := [] } else s.core m := by
  split
  next h => rw [h, State.peaLanded, State.core_setCore_same]
  next h => rw [State.peaLanded, State.core_setCore_other _ _ h]

theorem State.peaLanded_ctx (s : State) (n k : Nat) : (s.peaLanded n).ctx n k = s.ctx n k := by
  rw [State.ctx, State.peaLanded_core, if_pos rfl]
  rfl

theorem State.peaLanded_liveCtx (s : State) (n m p : Nat) : ((s.peaLanded n).core m).liveCtx p = (s.core m).liveCtx p := by
  rw [State.peaLanded_core]
  split
  next h => rw [h]; rfl
  · rfl

theorem State.peaLanded_grp (s : State) (n m k g : Nat) : ((s.peaLanded n).core m).grp k g = (s.core m).grp k g := by
  rw [State.peaLanded_core]
  split
  next h => rw [h]; rfl
  · rfl

/-- The context in whose groups core `m.core` counts a transfer of core `n`. -/
def State.peaTarget (s : State) (n : Nat) (m : PeaMsg) : Option Nat :=
  if m.core = n then some m.ctx else (s.core m.core).liveCtx (s.ctx n m.ctx).prog.id

/-- Whether the target's windows bind a transfer, and lack its range (R184). -/
def State.peaBarred (s : State) (n : Nat) (m : PeaMsg) : Prop :=
  (m.core ≠ n ∨ m.remote = true) ∧ s.rangeGranted (s.ctx n m.ctx).prog.tenant m.core m.target m.len = false

section
variable {s : State} {n j : Nat} {m : PeaMsg} (htarget : s.peaTarget n m = some j)
include htarget

theorem State.peaLand_of_barred (h : s.peaBarred n m) : s.peaLand n m = s.peaDiscard n m := by
  rw [State.peaTarget] at htarget
  simp only [State.peaLand, htarget]
  exact if_pos h

theorem State.peaLand_of_granted (h : ¬ s.peaBarred n m) : s.peaLand n m =
    match m.op with
    | 0 => (s.setSram m.core m.target m.data).arrive m.core j m.group false
    | 1 => (s.setSram n m.loc (s.sram m.core m.target m.len)).arrive n m.ctx m.group false
    | _ => (s.setSram m.core m.target (addWords (s.sram m.core m.target m.len) m.data)).arrive m.core j m.group false := by
  rw [State.peaTarget] at htarget
  simp only [State.peaLand, htarget]
  exact (if_neg h).trans rfl

end

theorem State.peaLanded_peaTarget (s : State) (n : Nat) (m : PeaMsg) : (s.peaLanded n).peaTarget n m = s.peaTarget n m := by
  rw [State.peaTarget, State.peaLanded_ctx, State.peaLanded_liveCtx, State.peaTarget]

theorem State.peaLanded_peaBarred (s : State) (n : Nat) (m : PeaMsg) : (s.peaLanded n).peaBarred n m ↔ s.peaBarred n m := by
  rw [State.peaBarred, State.peaLanded_ctx, State.peaBarred]
  rfl

/-- Bytes that land give one arrival, which leaves the transfers in flight alone. -/
theorem State.landed_grp (s : State) (n k g a off : Nat) (bs : List Byte) (poison : Bool) :
    (((s.setSram a off bs).arrive n k g poison).core n).grp k g = ((s.core n).grp k g).arrive poison := by
  rw [State.core_arrive_same, CoreSt.grp_arrive, State.setSram_core]

theorem State.peaLanded_landed (s : State) (n m k g a off : Nat) (bs : List Byte) :
    let t := ((s.peaLanded n).setSram a off bs).arrive m k g false
    (t.core n).peas = [] ∧ t.mem = wrBytes s.mem (sramBase a + off) bs ∧ (t.core m).grp k g = ((s.core m).grp k g).arrive false := by
  refine ⟨?_, rfl, ?_⟩
  · rw [State.arrive_peas, State.setSram_core, State.peaLanded_core, if_pos rfl]
  · rw [State.landed_grp, State.peaLanded_grp]

/-- Settles O23: the windows bind a transfer to another core or under a shard number alone, and what lands gives one arrival. -/
theorem peaLands : Obligations.PeaLands := by
  intro s n j m hfirst honly htarget granted
  have hexec := exec_peaArrival_only hfirst honly
  have htarget' : (s.peaLanded n).peaTarget n m = some j := (s.peaLanded_peaTarget n m).trans htarget
  refine ⟨fun hbar haway => ?_, fun hfree => ⟨_, hexec, ?_⟩⟩
  · have hbarred : (s.peaLanded n).peaBarred n m := (s.peaLanded_peaBarred n m).mpr ⟨haway, hbar⟩
    rw [hexec, State.peaLand_of_barred htarget' hbarred]
    rfl
  · have hgranted : ¬ (s.peaLanded n).peaBarred n m := by
      rintro h
      obtain ⟨haway, hbar⟩ := (s.peaLanded_peaBarred n m).mp h
      exact Bool.noConfusion ((hfree haway).symm.trans hbar)
    rw [State.peaLand_of_granted htarget' hgranted]
    rcases m.op with _ | _ | op
    · rw [if_neg (by omega)]
      exact s.peaLanded_landed ..
    · rw [if_pos rfl]
      exact s.peaLanded_landed ..
    · rw [if_neg (by omega)]
      exact s.peaLanded_landed ..

/-! ### Messages of remote transfers (R349 to R351) -/

theorem State.takeMsg_of_front {s : State} {p kind sub : Nat} {m : LMsg} (h : s.front p kind sub = some m) (f : State → LMsg → State) :
    s.takeMsg p kind sub f = .next (f (s.popInbox p) m) := by
  rw [State.takeMsg, h]

theorem State.popInbox_core (s : State) (p n : Nat) : (s.popInbox p).core n = s.core n := rfl

section
variable {s : State} {p g : Nat} {m : LMsg}

theorem exec_put_of_ok {k : Nat} (hfront : s.front p 1 0 = some m) (hok : (s.popInbox p).peaCheck m g = .ok k) :
    exec (.put ⟨p, g⟩) s = .next ((((s.popInbox p).setSram m.core m.offset m.data).arrive m.core k m.group m.poison).answer 9 m m.tag
      (b2n m.poison) false []) := by
  change execPut ⟨p, g⟩ s = _
  rw [execPut, State.takeMsg_of_front hfront]
  rw [hok]

theorem exec_atomic_of_ok {k : Nat} (hfront : s.front p 4 0 = some m) (hok : (s.popInbox p).peaCheck m g = .ok k) :
    exec (.atomic ⟨p, g⟩) s = .next ((((s.popInbox p).setSram m.core m.offset (addWords (s.sram m.core m.offset m.data.length)
      m.data)).arrive m.core k m.group m.poison).answer 9 m m.tag (b2n m.poison) false []) := by
  change execAtomic ⟨p, g⟩ s = _
  rw [execAtomic, State.takeMsg_of_front hfront]
  rw [hok]
  rfl

theorem exec_get_of_ok {k : Nat} (hfront : s.front p 2 0 = some m) (hok : (s.popInbox p).peaCheck m g = .ok k) :
    exec (.get ⟨p, g⟩) s = .next ((s.popInbox p).answer 3 m m.tag (b2n m.poison) m.poison
      (rdBytes s.mem (sramBase m.core + m.offset) m.len)) := by
  change execGet ⟨p, g⟩ s = _
  rw [execGet, State.takeMsg_of_front hfront]
  rw [hok]
  rfl

variable {c : Nat} (hbad : (s.popInbox p).peaCheck m g = .error c)
include hbad

theorem exec_put_of_error (hfront : s.front p 1 0 = some m) : exec (.put ⟨p, g⟩) s = .next ((s.popInbox p).peaRefuse p m c) := by
  change execPut ⟨p, g⟩ s = _
  rw [execPut, State.takeMsg_of_front hfront]
  rw [hbad]

theorem exec_atomic_of_error (hfront : s.front p 4 0 = some m) : exec (.atomic ⟨p, g⟩) s = .next ((s.popInbox p).peaRefuse p m c) := by
  change execAtomic ⟨p, g⟩ s = _
  rw [execAtomic, State.takeMsg_of_front hfront]
  rw [hbad]

theorem exec_get_of_error (hfront : s.front p 2 0 = some m) : exec (.get ⟨p, g⟩) s = .next ((s.popInbox p).peaRefuse p m c) := by
  change execGet ⟨p, g⟩ s = _
  rw [execGet, State.takeMsg_of_front hfront]
  rw [hbad]

end

/-- The state once the answer to an outstanding transfer has ended it. -/
def State.peaEnded (s : State) (p : Nat) (o : OutMsg) (n : Nat) (pm : PeaMsg) : State := ((s.popInbox p).peaSettled o n pm).1

theorem State.peaEnded_core (s : State) (p : Nat) (o : OutMsg) (n : Nat) (pm : PeaMsg) :
    (s.peaEnded p o n pm).core n = { s.core n with peas := (s.core n).peas.erase pm } := by
  rw [State.peaEnded, State.peaSettled, State.core_updCore_same]
  rfl

section
variable {s : State} {p n : Nat} {m : LMsg} {o : OutMsg} {pm : PeaMsg} (hanswered : s.answered m = some o) (huse : o.use = .pea n pm)
include hanswered huse

/-- The data of a GET that is answered lands, and gives its arrival. -/
theorem exec_getResp_lands (hlive : (s.core n).peas.contains pm = true) (hfront : s.front p 3 0 = some m) (hop : pm.op = 1)
    (hstatus : m.status ≤ 1) (hlen : m.data.length = pm.len) : exec (.getResp p) s =
      .next (((s.peaEnded p o n pm).setSram n pm.loc m.data).arrive n pm.ctx pm.group (m.poison || m.status == 1)) := by
  have hanswered' : (s.popInbox p).answered m = some o := hanswered
  have hlive' : ((s.popInbox p).peaSettled o n pm).2 = true := hlive
  have hkept : ¬ (pm.op ≠ 1 ∨ ((s.popInbox p).peaSettled o n pm).2 = false) := by simp [hop, hlive']
  have hdone : ¬ (m.status = 3 ∨ m.status = 4) := by omega
  have hwhole : ¬ (m.status = 2 ∨ m.data.length ≠ pm.len) := by omega
  change execGetResp p s = _
  rw [execGetResp, State.takeMsg_of_front hfront]
  simp only [hanswered', huse, if_neg hkept, if_neg hdone, if_neg hwhole, State.peaEnded]

theorem exec_ack_ends (hfront : s.front p 9 0 = some m) (hstatus : m.status ≤ 1) :
    exec (.ack p) s = .next (s.peaEnded p o n pm) := by
  have hanswered' : (s.popInbox p).answered m = some o := hanswered
  have hkept : ¬ (((s.popInbox p).peaSettled o n pm).2 = true ∧ (m.status = 3 ∨ m.status = 4)) := by omega
  change execAck p s = _
  rw [execAck, State.takeMsg_of_front hfront]
  simp only [hanswered', huse, if_neg hkept, State.peaEnded]

end

/-- Settles O41: what a message brings lands as a local transfer's bytes do, and the answer to it ends the transfer that it names. That
the command tells the sender's program, which the message has no field for, is the model's choice (assumption log entry 92). -/
theorem messagesLand : Obligations.MessagesLand := by
  refine ⟨fun s p g m k => ?_, fun s p g m c hbad => ⟨exec_put_of_error hbad, exec_atomic_of_error hbad, exec_get_of_error hbad⟩,
    fun s p m o n pm hanswered huse hlive => ⟨fun hfront hop hstatus hlen => ?_, fun hfront hstatus => ?_⟩, fun s p m hfront => ?_⟩
  · intro u a hok
    refine ⟨fun hfront => ⟨_, exec_put_of_ok hfront hok, rfl, ?_, fun n hn => ?_⟩,
      fun hfront => ⟨_, exec_atomic_of_ok hfront hok, rfl, ?_, fun n hn => ?_⟩, fun hfront => exec_get_of_ok hfront hok⟩
    · rw [State.landed_grp, State.popInbox_core]
    · rw [State.core_arrive_other _ _ _ _ hn, State.setSram_core, State.popInbox_core]
    · rw [State.landed_grp, State.popInbox_core]
    · rw [State.core_arrive_other _ _ _ _ hn, State.setSram_core, State.popInbox_core]
  · refine ⟨_, exec_getResp_lands hanswered huse hlive hfront hop hstatus hlen, rfl, rfl, ?_, ?_⟩
    · rw [State.arrive_peas, State.setSram_core, State.peaEnded_core]
    · rw [State.landed_grp, State.peaEnded_core]
      rfl
  · refine ⟨_, exec_ack_ends hanswered huse hfront hstatus, rfl, rfl, ?_⟩
    rw [State.peaEnded_core]
  · change execTime p s = _
    rw [execTime, State.takeMsg_of_front hfront]

end Sys2Proof.Machine

/-!
PROOFS. Tier-1 writes (R190, R202 to R204, R217, R219): what a whole burst and a part of one leave, and what stores nothing.
-/

namespace Sys2Proof.Machine

/-! ### What quarantine and the drop of a copy leave in memory -/

@[simp] theorem State.invalidate_mem (s : State) (key : Nat) : (s.invalidate key).mem = s.mem := rfl

@[simp] theorem State.mapBig_mem (s : State) (tenant va : Nat) (moving : Bool) (f : Nat → PageTo) (l : List Nat) :
    (s.mapBig tenant va moving f l).mem = s.mem := by
  induction l generalizing s with
  | nil => rfl
  | cons i l ih => simp [State.mapBig, ih]

@[simp] theorem State.freeFrames_mem (s : State) (tn : Nat) (sel : Nat × Nat × FrameUse → Bool) : (s.freeFrames tn sel).mem = s.mem :=
  State.mem_of_hostless (s.freeFrames_hostless tn sel)

@[simp] theorem State.postEvent_mem (s : State) (tn op : Nat) (detail : List (Nat × Nat × Nat)) :
    (s.postEvent tn op detail).mem = s.mem := State.mem_of_hostless (s.postEvent_hostless tn op detail)

@[simp] theorem State.dropCopy_mem (s : State) (key : Nat) : (s.dropCopy key).mem = s.mem := by
  unfold State.dropCopy
  dsimp only
  split
  · rfl
  · simp

@[simp] theorem State.stopPromotion_mem (s : State) : s.stopPromotion.mem = s.mem := by
  unfold State.stopPromotion
  split
  · rfl
  · simp

/-- Changed map entries that lead to a frame, and caches without them, are all that changes. -/
theorem State.updMaps_eq (s : State) (f : Nat) (g : PageEnt → PageEnt) :
    s.updMaps f g = { s with pages := (s.updMaps f g).pages, cores := (s.updMaps f g).cores } := by
  have hkept : ({ s.updMaps f g with pages := [], cores := [] } : State) = { s with pages := [], cores := [] } :=
    foldl_keeps (f := fun (s : State) (p : Nat × PageEnt) => (s.setPage p.1 (g p.2)).invalidate p.1)
      (p := fun t : State => { t with pages := [], cores := [] }) (fun _ _ => rfl) (s.mapsOf f) s
  exact congrArg (fun t : State => { t with pages := (s.updMaps f g).pages, cores := (s.updMaps f g).cores }) hkept

@[simp] theorem State.updMaps_mem (s : State) (f : Nat) (g : PageEnt → PageEnt) : (s.updMaps f g).mem = s.mem := by
  rw [State.updMaps_eq]

@[simp] theorem State.retireEnd_mem (s : State) (d state reason page : Nat) : (s.retireEnd d state reason page).mem = s.mem := by
  simp [State.retireEnd, State.logRetire]

@[simp] theorem State.stopMove_mem (s : State) (d f : Nat) : (s.stopMove d f).mem = s.mem := by
  unfold State.stopMove
  dsimp only
  split
  · split
    · simp
    · rfl
  · rfl

@[simp] theorem State.quarantine_mem (s : State) (f cause : Nat) : (s.quarantine f cause).mem = s.mem := by
  unfold State.quarantine
  dsimp only
  split
  · rfl
  · split
    · exact s.moduleFault_mem
    · rw [foldl_keeps (p := State.mem) (by simp)]
      simp

@[simp] theorem State.afterQuarantine_mem (s : State) (f cause : Nat) : (s.afterQuarantine f cause).mem = s.mem := by
  unfold State.afterQuarantine
  dsimp only
  split
  · split
    · split
      · exact s.stopPromotion_mem
      · exact s.dropCopy_mem _
    · exact s.dropCopy_mem _
  · split
    · exact s.moduleFault_mem
    · rfl

theorem State.uncorrectable_mem (s : State) (a cause : Nat) : (s.uncorrectable a cause).mem = s.mem := by
  simp [State.uncorrectable, State.updChan]

/-! ### A burst read (R202, R215 to R219) -/

/-- A correctable burst changes the controllers and the log alone. -/
theorem State.correctable_keeps {β : Type} {p : State → β} (hmc : ∀ (s : State) m, p { s with mc := m } = p s)
    (hlog : ∀ (s : State) l, p { s with log := l } = p s) (s : State) (a : Nat) : p (s.correctable a) = p s := by
  have hcounted (f : McSt → McSt) (g : ChSt → ChSt) : p ((s.updMc (dieOf a) f).updChan (dieOf a) (chanOf a) g) = p s :=
    (hmc (s.updMc (dieOf a) f) _).trans (hmc s _)
  unfold State.correctable
  dsimp only
  generalize (if ((s.mcOf (dieOf a)).chan (chanOf a)).ceWin = s.now / 1000000 ∧ 0 < ((s.mcOf (dieOf a)).chan (chanOf a)).ceCount then
    ((s.mcOf (dieOf a)).chan (chanOf a)).ceCount + 1 else 1) = n
  split
  · rw [State.logAs_eq, hlog, hcounted]
  · rw [hlog, hcounted]

/-- A burst that can be read changes the controllers and the log at most. -/
theorem State.burstRead_of_good {s : State} {a : Nat} (cause : Nat) {ecc : Ecc} (hquar : s.quarantined (a / 64 * 64) = false)
    (hclean : s.isPoisoned (a / 64 * 64) = false) (hread : ecc.worse (s.errAt (a / 64 * 64)) ≠ .uncorrectable) :
    (s.burstRead a cause ecc).2.2 = false ∧ (s.burstRead a cause ecc).1.mem = s.mem ∧
      (s.burstRead a cause ecc).1.poison = s.poison := by
  cases hshown : ecc.worse (s.errAt (a / 64 * 64)) with
  | clean =>
    simp only [State.burstRead, hquar, hclean, hshown, Bool.or_self, Bool.false_eq_true, if_false]
    exact ⟨trivial, trivial, trivial⟩
  | corrected =>
    simp only [State.burstRead, hquar, hclean, hshown, Bool.or_self, Bool.false_eq_true, if_false]
    exact ⟨trivial, State.correctable_keeps (p := State.mem) (fun _ _ => rfl) (fun _ _ => rfl) s _,
      State.correctable_keeps (p := State.poison) (fun _ _ => rfl) (fun _ _ => rfl) s _⟩
  | uncorrectable => exact absurd hshown hread

/-- A burst that is poisoned or cannot be corrected reads as poisoned, and no byte changes. -/
theorem State.burstRead_of_bad {s : State} {a : Nat} (cause : Nat) {ecc : Ecc}
    (h : s.isPoisoned (a / 64 * 64) = true ∨ ecc.worse (s.errAt (a / 64 * 64)) = .uncorrectable) :
    (s.burstRead a cause ecc).2.2 = true ∧ (s.burstRead a cause ecc).1.mem = s.mem := by
  by_cases hmark : (s.quarantined (a / 64 * 64) || s.isPoisoned (a / 64 * 64)) = true
  · simp only [State.burstRead, hmark, if_true]
    exact ⟨trivial, rfl⟩
  · have hshown : ecc.worse (s.errAt (a / 64 * 64)) = .uncorrectable := by
      refine h.resolve_left (fun hpoison => hmark ?_)
      rw [hpoison, Bool.or_true]
    simp only [State.burstRead, if_neg hmark, hshown]
    exact ⟨trivial, s.uncorrectable_mem _ cause⟩

/-! ### Bytes of one burst stored under a new code word (R204) -/

theorem dieOf_of_burstOf {a b : Nat} (h : burstOf a = burstOf b) : dieOf a = dieOf b := by
  unfold burstOf at h
  unfold dieOf dieTier1
  omega

theorem burstOf_burst (a : Nat) : burstOf (a / 64 * 64) = burstOf a := by
  unfold burstOf
  omega

theorem inRanges_cutRanges (b : Nat) (l : List (Nat × Nat)) : inRanges (cutRanges b (b + 1) l) b = false := by
  induction l with
  | nil => rfl
  | cons r l ih =>
    have happ (x y : List (Nat × Nat)) : inRanges (x ++ y) b = (inRanges x b || inRanges y b) := List.any_append
    have hlow : inRanges (if r.1 < min r.2 b then [(r.1, min r.2 b)] else []) b = false := by
      split
      · simp [inRanges]
      · rfl
    have hhigh : inRanges (if max r.1 (b + 1) < r.2 then [(max r.1 (b + 1), r.2)] else []) b = false := by
      split
      · simp [inRanges]
      · rfl
    rw [cutRanges, happ, happ, hlow, hhigh, ih]
    rfl

/-- A write for the watcher leaves the module as it is. -/
theorem State.noteWrite_eq (s : State) (a : Nat) (bs : List Byte) (p : Bool) :
    s.noteWrite a bs p = { s with watchOut := (s.noteWrite a bs p).watchOut } := by
  unfold State.noteWrite
  dsimp only
  repeat' split
  all_goals rfl

/-- Bytes within one burst stored, with poison `p` in its new code word. -/
def State.putBurst (s : State) (a : Nat) (bs : List Byte) (p : Bool) : State :=
  ({ s with mem := wrBytes s.mem a bs }.newCode a p).noteWrite a bs p

section
variable (s : State) (a : Nat) (bs : List Byte) (p : Bool)

theorem State.putBurst_eq : s.putBurst a bs p =
    { { s with mem := wrBytes s.mem a bs }.newCode a p with watchOut := (s.putBurst a bs p).watchOut } := State.noteWrite_eq _ a bs p

theorem State.putBurst_mem : (s.putBurst a bs p).mem = wrBytes s.mem a bs := by
  rw [State.putBurst_eq]
  rfl

theorem State.putBurst_isPoisoned (j : Nat) :
    (s.putBurst a bs p).isPoisoned j = if burstOf j = burstOf a then p else s.isPoisoned j := by
  rw [State.putBurst_eq]
  exact Sp.get_set _ _ _ _ _

theorem State.putBurst_mcOf : (s.putBurst a bs p).mcOf (dieOf a) =
    { s.mcOf (dieOf a) with errs := Sp.set .clean (s.mcOf (dieOf a)).errs (burstOf a) .clean
                            zeros := cutRanges (burstOf a) (burstOf a + 1) (s.mcOf (dieOf a)).zeros } := by
  rw [State.putBurst_eq]
  exact Sp.get_set_same McSt.reset s.mc (dieOf a) _

variable {j : Nat} (h : burstOf j = burstOf a)
include h

theorem State.putBurst_errAt : (s.putBurst a bs p).errAt j = .clean := by
  rw [State.errAt, dieOf_of_burstOf h, h, State.putBurst_mcOf]
  dsimp only
  rw [Sp.get_set_same]

theorem State.putBurst_zeroMarked : (s.putBurst a bs p).zeroMarked j = false := by
  rw [State.zeroMarked, dieOf_of_burstOf h, h, State.putBurst_mcOf]
  exact inRanges_cutRanges _ _

end

theorem entryBytes_length (e : Entry) : (entryBytes e).length = 64 := leBytes_length _ _

theorem State.wrPiece_quarantined {s : State} {a : Nat} (htier : isTier1 a = true) (h : s.quarantined a = true) (bs : List Byte)
    (p : Bool) : s.wrPiece a bs p = s := by
  simp [State.wrPiece, htier, h]

theorem State.wrPiece_burst {s : State} {a : Nat} {bs : List Byte} (htier : isTier1 a = true) (h : s.quarantined a = false)
    (hlen : bs.length = 64) (p : Bool) : s.wrPiece a bs p = (s.access a 1).putBurst a bs p := by
  simp only [State.wrPiece, htier, h, hlen, Bool.not_true, Bool.false_eq_true, if_false, if_true]
  rfl

/-! ### The commands (R203, R204) -/

/-- A request that waits is the last of those that wait at its die. -/
theorem State.deferAcc_waiting (s : State) (q : MemAcc) :
    ((s.deferAcc q).mcOf (dieOf q.addr)).waiting = (s.mcOf (dieOf q.addr)).waiting ++ [q] := by
  change ((s.updMc (dieOf q.addr) (fun m => { m with waiting := m.waiting ++ [q] })).mcOf (dieOf q.addr)).waiting = _
  rw [State.updMc_mcOf_same]

section
variable {s : State} {a : Nat} (who : Who) (htier : isTier1 a = true)
include htier

theorem exec_tier1Write_waits (data : Entry) (p : Bool) (h : s.accWaits a = true) :
    exec (.tier1Write who a data p) s = .next (s.deferAcc (.write who a data p)) := by
  change execTier1Write who a data p s = _
  rw [execTier1Write, if_pos htier, if_pos h]

theorem exec_tier1Write_serves (data : Entry) (p : Bool) (h : s.accWaits a = false) :
    exec (.tier1Write who a data p) s = .next (s.wrPiece (a / 64 * 64) (entryBytes data) p) := by
  change execTier1Write who a data p s = _
  rw [execTier1Write, if_pos htier, h]
  rfl

theorem exec_mergedWrite_waits (data : List Byte) (ecc : Ecc) (h : s.accWaits a = true) :
    exec (.mergedWrite who a data ecc) s = .next (s.deferAcc (.merge who a data ecc)) := by
  change execMergedWrite who a data ecc s = _
  rw [execMergedWrite, if_pos htier, if_pos h]

theorem exec_mergedWrite_serves (data : List Byte) (ecc : Ecc) (h : s.accWaits a = false) :
    exec (.mergedWrite who a data ecc) s = .next (s.serveAcc (.merge who a data ecc)).1 := by
  change execMergedWrite who a data ecc s = _
  rw [execMergedWrite, if_pos htier, h]
  rfl

end

section
variable {s : State} {a : Nat} (who : Who) {data : List Byte} {ecc : Ecc}

theorem State.access_errAt (slots b : Nat) : (s.access a slots).errAt b = s.errAt b := State.updChan_errAt _ _ _ _ _

/-- A merge into a burst that can be read stores its bytes there. -/
theorem State.serveAcc_merge_good (hlen : a % 64 + data.length ≤ 64) (hpage : s.quarantined a = false)
    (hquar : s.quarantined (a / 64 * 64) = false) (hclean : s.isPoisoned (a / 64 * 64) = false)
    (hread : ecc.worse (s.errAt (a / 64 * 64)) ≠ .uncorrectable) :
    ∃ u : State, (s.serveAcc (.merge who a data ecc)).1 = u.putBurst a data false ∧ u.mem = s.mem ∧ u.poison = s.poison := by
  rw [← State.access_errAt (a := a) 3] at hread
  obtain ⟨hgood, hmem, hpoison⟩ := State.burstRead_of_good (s := s.access a 3) 2 hquar hclean hread
  have hpage' : (s.access a 3).quarantined a = false := hpage
  have hall : data.take (64 - a % 64) = data := List.take_of_length_le (by omega)
  refine ⟨((s.access a 3).burstRead a 2 ecc).1, ?_, hmem, hpoison⟩
  simp only [State.serveAcc, hpage', hgood, hall, Bool.false_eq_true, if_false]
  rfl

/-- A merge into a quarantined page, or into a burst that is poisoned or cannot be corrected, stores nothing. -/
theorem State.serveAcc_merge_bad (h : s.quarantined a = true ∨ s.isPoisoned (a / 64 * 64) = true ∨
    ecc.worse (s.errAt (a / 64 * 64)) = .uncorrectable) : (s.serveAcc (.merge who a data ecc)).1.mem = s.mem := by
  by_cases hpage : (s.access a 3).quarantined a = true
  · simp only [State.serveAcc, hpage, if_true]
    rfl
  · have hbad := h.resolve_left hpage
    rw [← State.access_errAt (a := a) 3] at hbad
    obtain ⟨hpoison, hmem⟩ := State.burstRead_of_bad (s := s.access a 3) 2 hbad
    simp only [State.serveAcc, hpage, hpoison, Bool.false_eq_true, if_false, if_true]
    exact hmem

end

/-- Settles O25: what is stored is stored under a new code word, which the burst's poison, errors and zero marker are read from. That a
request which has to wait is answered so and served later is the model's choice (assumption log entry 98). -/
theorem tier1Writes : Obligations.Tier1Writes := by
  intro s who a htier hburst b
  have hsame (j : Nat) : burstOf j = burstOf b ↔ j / 64 = a / 64 := by
    rw [show burstOf b = burstOf a from burstOf_burst a]
    rfl
  refine ⟨fun data p => ⟨fun hwaits => ⟨_, exec_tier1Write_waits who htier data p hwaits, rfl, rfl, s.deferAcc_waiting _⟩,
    fun hgo hpage => ?_, fun hgo hpage => ?_⟩, fun data ecc hsome hlen => ⟨fun hwaits =>
      ⟨_, exec_mergedWrite_waits who htier data ecc hwaits, rfl, rfl, s.deferAcc_waiting _⟩, fun hgo hpage hquar hclean hread => ?_,
      fun hgo hbad => ⟨_, exec_mergedWrite_serves who htier data ecc hgo, State.serveAcc_merge_bad who hbad⟩⟩⟩
  · have hexec := exec_tier1Write_serves who htier data p hgo
    rw [State.wrPiece_burst hburst hpage (entryBytes_length data)] at hexec
    refine ⟨_, hexec, ?_, ?_, State.putBurst_errAt _ _ _ _ rfl, State.putBurst_zeroMarked _ _ _ _ rfl, fun j hj => ?_, fun j hj => ?_,
      ?_, ?_⟩
    · have hread := rdBytes_wrBytes_same (entryBytes data) s.mem b
      rw [entryBytes_length] at hread
      rw [State.putBurst_mem]
      exact hread
    · rw [State.putBurst_isPoisoned, if_pos rfl]
    · rw [State.putBurst_mem]
      exact rdByte_wrBytes_outside _ s.mem b j (by rwa [entryBytes_length])
    · rw [State.putBurst_isPoisoned, if_neg (mt (hsame j).mp hj)]
      rfl
    · rw [State.putBurst_eq]
      rfl
    · rw [State.putBurst_eq]
      rfl
  · rw [exec_tier1Write_serves who htier data p hgo, State.wrPiece_quarantined hburst hpage]
  · obtain ⟨u, hserve, hmem, hpoison⟩ := State.serveAcc_merge_good who hlen hpage hquar hclean hread
    have hexec := exec_mergedWrite_serves who htier data ecc hgo
    rw [hserve] at hexec
    have hkept (j : Nat) : u.isPoisoned j = s.isPoisoned j := by rw [State.isPoisoned, hpoison, State.isPoisoned]
    refine ⟨_, hexec, ?_, State.putBurst_errAt _ _ _ _ (burstOf_burst a), fun j hj => ?_, fun j => ?_⟩
    · rw [State.putBurst_mem]
      exact rdBytes_wrBytes_same data u.mem a
    · rw [State.putBurst_mem, rdByte_wrBytes_outside data u.mem a j hj, hmem]
    · rw [State.putBurst_isPoisoned]
      split
      next hj =>
        rw [← hclean, State.isPoisoned, State.isPoisoned, hj, burstOf_burst]
      · exact hkept j

end Sys2Proof.Machine

/-!
PROOFS. Stream transfers (R165, R168, R170, R176, R188): groups armed, transfers taken, chunks that arrive, and transfers that suspend.
-/

namespace Sys2Proof.Machine

/-! ### FARM (R165, R168) -/

theorem CoreSt.grp_setGrp (c : CoreSt) (k a g : Nat) (v : Grp) :
    (c.setGrp k a v).grp k g = if g % 2048 = a % 2048 then v else c.grp k g := by
  have hkey : grpKey k g = grpKey k a ↔ g % 2048 = a % 2048 := by
    unfold grpKey
    omega
  simp only [CoreSt.grp, CoreSt.setGrp, Sp.get_set, hkey]

/-- Arming leaves the groups that it does not name. -/
theorem CoreSt.armGroups_other (k need : Nat) {g count : Nat} (c : CoreSt) (first : Nat)
    (h : ∀ i, i < count → g % 2048 ≠ (first + i) % 2048) : (c.armGroups k first need count).grp k g = c.grp k g := by
  induction count generalizing c first with
  | zero => rfl
  | succ count ih =>
    have hfirst : g % 2048 ≠ first % 2048 := h 0 (by omega)
    rw [CoreSt.armGroups, ih, CoreSt.grp_setGrp, if_neg hfirst]
    intro i hi
    have hnext := h (i + 1) (by omega)
    omega

/-- Each group named has the need and no arrivals; the groups wrap around at 2048. -/
theorem CoreSt.armGroups_grp (k need : Nat) {g count i : Nat} (c : CoreSt) (first : Nat) (hcount : count ≤ 2048) (hi : i < count)
    (hg : g % 2048 = (first + i) % 2048) : (c.armGroups k first need count).grp k g = ⟨need, 0, false⟩ := by
  induction count generalizing c first i with
  | zero => omega
  | succ count ih =>
    rw [CoreSt.armGroups]
    cases i with
    | zero =>
      have hlater (j : Nat) (hj : j < count) : g % 2048 ≠ ((first + 1) % 2048 + j) % 2048 := by omega
      rw [CoreSt.armGroups_other _ _ _ _ hlater, CoreSt.grp_setGrp]
      exact if_pos hg
    | succ i => exact ih (i := i) _ _ (by omega) (by omega) (by omega)

theorem State.farmTake_of_ok {s : State} {n k : Nat} {w : IWord} (hcount : field 21 11 w.pl ≠ 0) (hneed : field 29 22 w.pl ≠ 0) :
    s.farmTake n k w = s.updCore n (fun c => c.armGroups k (field 10 0 w.pl) (field 29 22 w.pl) (field 21 11 w.pl)) := by
  have hok : ¬ (field 21 11 w.pl = 0 ∨ field 29 22 w.pl = 0) := by omega
  exact if_neg hok

/-! ### SXFER (R170, R192) -/

/-- An idle stream engine takes what issues in the same step. -/
theorem State.Issues.engStep_st {s : State} {n k : Nat} {w : IWord} {ecc : Ecc} (h : s.Issues n k w ecc) (hqueue : (s.ctx n k).qst = [])
    (hidle : (s.ctx n k).st = none) (hcls : w.cls = 5) : s.engStep n ecc .st 5 w.opc none = (s.taken n k ecc).stAccept n k w := by
  have htake := h.engStep (e := .st) hqueue (ring := none) (by
    rw [State.engReady, State.queued, State.ctx_setCtx_same, Ctx.setQueue, hidle]
    rfl)
  rwa [hcls] at htake

theorem State.pageOf_congr {s t : State} (h : t.pages = s.pages) : t.pageOf = s.pageOf := by
  funext tenant va
  rw [State.pageOf, h, State.pageOf]

theorem State.dstKind_congr {s t : State} (h : t.pages = s.pages) : t.dstKind = s.dstKind := by
  funext n tenant d
  rw [State.dstKind, State.pageOf_congr h, State.dstKind]

theorem State.hitsSave_congr {s t : State} (h : t.pages = s.pages) : t.hitsSave = s.hitsSave := by
  funext n x d
  simp only [State.hitsSave, State.virtHits, State.pageOf_congr h]

@[simp] theorem State.taken_pages (s : State) (n k : Nat) (ecc : Ecc) : (s.taken n k ecc).pages = s.pages := by
  rw [State.taken, State.updCtx_pages, State.issued_eq]

/-- The address offset that a register of the context gives, shifted by `sh`. -/
def Ctx.streamOff (x : Ctx) (sreg sh : Nat) : Nat := if sreg = 0 then 0 else (x.reg sreg).toNat * 2 ^ sh

/-- A transfer at its start (R170). -/
def StRun.start (d : SDesc) (kind : PageKind) : StRun :=
  { desc := d, dstKind := kind, pos := 0, chunk := 0, chunkPoison := false, susp := none, dma := none, buf := [] }

theorem State.sxferTake_of_ok {s : State} {n k : Nat} {w : IWord} {d : SDesc}
    (hparse : parseDesc (s.rdCore n) (64 * field 16 0 w.pl) ((s.ctx n k).streamOff (field 21 17 w.pl) (field 30 27 w.pl))
      ((s.ctx n k).streamOff (field 26 22 w.pl) (field 34 31 w.pl)) = some d)
    (hrange : d.rangeOk = true) (htarget : targetOk n d (s.dstKind n (s.ctx n k).prog.tenant d) = true)
    (hsave : s.hitsSave n (s.ctx n k) d = false) :
    s.sxferTake n k w = s.setCtx n k { s.ctx n k with st := some (StRun.start d (s.dstKind n (s.ctx n k).prog.tenant d)) } := by
  have hlegal : (!d.rangeOk || !targetOk n d (s.dstKind n (s.ctx n k).prog.tenant d) || s.hitsSave n (s.ctx n k) d) = false := by
    rw [hrange, htarget, hsave]
    rfl
  unfold Ctx.streamOff at hparse
  unfold State.sxferTake
  dsimp only
  rw [hparse]
  exact if_neg (by rw [hlegal]; exact Bool.false_ne_true)

/-! ### CHUNK_ARRIVAL (R176) -/

/-- The group of a chunk. -/
def StRun.chunkGroup (t : StRun) : Nat := (t.desc.flagGroup + t.chunk * t.desc.flagStep) % 2048

/-- The transfer once its chunk is complete: at the next one, or over. -/
def StRun.chunkDone (t : StRun) : Option StRun :=
  if t.chunk + 1 = t.desc.chunks then none else some { t with chunk := t.chunk + 1, chunkPoison := false }

/-- An arrival at a core's own group, with what its stream engine counts of it. -/
theorem State.arrive_counted (s : State) (n k g : Nat) (poison : Bool) (f : StSt → StSt) :
    ∃ st, (if poison then (s.arrive n k g poison).updCore n (fun c => { c with st := f c.st }) else s.arrive n k g poison) =
      s.setCore n { (s.core n).arrive k g poison with st := st } := by
  cases poison with
  | false => exact ⟨(s.core n).st, rfl⟩
  | true =>
    refine ⟨f (s.core n).st, ?_⟩
    rw [if_pos rfl, State.updCore, State.core_arrive_same, State.arrive, State.updCore, State.setCore_setCore]
    rfl

/-- The arrival of a chunk for the core's own context: of the core, what its poison count shows may change besides. -/
theorem State.chunkArrive_own {s : State} {n k : Nat} {t : StRun} (h : t.receivers n = [n]) :
    ∃ st, s.chunkArrive n k t false =
      (s.setCore n { (s.core n).arrive k t.chunkGroup t.chunkPoison with st := st }).updCtx n k
        (fun x => { x with st := t.chunkDone }) := by
  obtain ⟨st, hst⟩ := s.arrive_counted n k t.chunkGroup t.chunkPoison (fun q =>
    { q with poison := satAdd32 q.poison ([n].filter (fun m => m == n || ((s.core m).liveCtx (s.ctx n k).prog.id).isSome)).length })
  have hsent : s.sendArrivals n k t.chunkGroup t.chunkPoison [n] = (s.arrive n k t.chunkGroup t.chunkPoison, true) := by
    simp only [State.sendArrivals, State.sendArrival, if_true, Bool.and_self]
  refine ⟨st, ?_⟩
  rw [← hst]
  unfold State.chunkArrive StRun.chunkDone
  dsimp only
  rw [h, Bool.false_or, ← StRun.chunkGroup, hsent]
  dsimp only
  rw [if_neg (by decide)]
  split
  · rfl
  · rfl

/-- The transfer of context `k` suspended at a fault of code 1, and the engine at a boundary. -/
def State.suspended (s : State) (n k : Nat) (t : StRun) (side : Bool) : State :=
  (s.setRun n k { t with susp := some (1, side), buf := [] }).updCore n (·.atBoundary .st)

/-- A core at a boundary has its groups, contexts and stream engine as before. -/
theorem State.boundary_core (s : State) (n : Nat) (e : Eng) :
    ∃ bound, (s.updCore n (·.atBoundary e)).core n = { s.core n with bound := bound } := by
  obtain ⟨bound, h⟩ := (s.core n).atBoundary_eq e
  exact ⟨bound, (s.core_updCore_same n _).trans h⟩

/-- A chunk that has arrived, once the engine is at a boundary: memory, the group of the chunk, and the transfer. -/
theorem State.chunkArrive_lands {s : State} {n k : Nat} {t : StRun} (h : t.receivers n = [n]) :
    let u := (s.chunkArrive n k t false).updCore n (·.atBoundary .st)
    u.mem = s.mem ∧ (u.core n).grp k t.chunkGroup = ((s.core n).grp k t.chunkGroup).arrive t.chunkPoison ∧
      (u.ctx n k).st = t.chunkDone := by
  intro u
  obtain ⟨st, harrive⟩ := State.chunkArrive_own (s := s) (k := k) h
  obtain ⟨bound, hcore⟩ := (s.chunkArrive n k t false).boundary_core n .st
  rw [harrive, State.core_updCtx_same, State.core_setCore_same, ← harrive] at hcore
  refine ⟨(congrArg State.mem harrive).trans rfl, ?_, ?_⟩
  · rw [hcore]
    exact CoreSt.grp_arrive _ _ _ _
  · rw [State.ctx, hcore]
    exact congrArg Ctx.st (CoreSt.ctx_setCtx_same _ k _)

/-- What a transfer that suspends leaves: itself suspended, in a core and a memory otherwise as they were. -/
theorem State.suspended_core (s : State) (n k : Nat) (t : StRun) (side : Bool) :
    (s.suspended n k t side).mem = s.mem ∧ ((s.suspended n k t side).core n).st = (s.core n).st ∧
      ((s.suspended n k t side).ctx n k).st = some { t with susp := some (1, side), buf := [] } := by
  obtain ⟨bound, hcore⟩ := (s.setRun n k { t with susp := some (1, side), buf := [] }).boundary_core n .st
  rw [State.setRun, State.core_updCtx_same, ← State.setRun] at hcore
  refine ⟨rfl, ?_, ?_⟩
  · rw [State.suspended, hcore]
    rfl
  · rw [State.suspended, State.ctx, hcore]
    exact congrArg Ctx.st (CoreSt.ctx_setCtx_same _ k _)

section
variable {s : State} {n k : Nat} {r : StRun} (hmoving : s.moving n = some (k, r)) (hgo : r.susp = none)

/-- What the engine has delivered of the chunk in hand, and where the transfer then stands. -/
def State.delivered (s : State) (n k : Nat) (r : StRun) : State × StRun :=
  s.deliver n (s.ctx n k).prog.tenant r (s.stopAt n r) (s.stopAt n r - r.pos + 1)

include hmoving hgo

theorem exec_chunkArrival_whole (hwhole : (r.chunk + 1) * r.desc.chunkLen ≤ (s.delivered n k r).2.pos) :
    exec (.chunkArrival n) s = .next (((s.delivered n k r).1.chunkArrive n k (s.delivered n k r).2 false).updCore n
      (·.atBoundary .st)).settle.pumpRelease := by
  have hstep : s.chunkStep n k r = ((s.delivered n k r).1.chunkArrive n k (s.delivered n k r).2 false).updCore n (·.atBoundary .st) := by
    rw [State.chunkStep, hgo]
    exact if_pos hwhole
  change execChunkArrival n s = _
  rw [execChunkArrival, hmoving, ← hstep]

/-! ### TRANSFER_SUSPEND (R188) -/

theorem exec_transferSuspend_moving {side : Bool} {va : Nat}
    (hfault : (s.delivered n k r).1.posFault (s.ctx n k).prog.tenant (s.delivered n k r).2 = some (1, side, va)) :
    exec (.transferSuspend n) s = .next (((s.delivered n k r).1.suspended n k (s.delivered n k r).2 side).updCore n (fun c =>
      { c with st := { c.st with fva := va, faults := satAdd32 c.st.faults 1 } })).settle.pumpRelease := by
  rw [State.delivered] at hfault
  change execTransferSuspend n s = _
  simp only [execTransferSuspend, hmoving, State.suspendStep, hfault, hgo]
  rfl

end

/-- Settles O20: FARM and SXFER change the context and its groups, and what moves is what the delivery gives, up to the end of the chunk or
to the faulting element. -/
theorem streamTransfers : Obligations.StreamTransfers := by
  refine ⟨fun s n k w ecc hissues hqueue hidle hcls => ?_, fun s n k r hmoving hgo => ?_, fun s n k va side r hmoving hgo => ?_⟩
  · intro u x off
    have hstep := hissues.engStep_st hqueue hidle hcls
    refine ⟨fun hopc hcount hneed => ?_, fun d hopc hparse hrange htarget hsave => ?_⟩
    · have hexec : exec (.farm n ecc) s = .next (u.farmTake n k w) := by
        rw [hopc] at hstep
        change Host.Outcome.next (s.engStep n ecc .st 5 1 none) = _
        rw [hstep, State.stAccept, if_pos hopc]
      rw [hexec, State.farmTake_of_ok hcount hneed]
      refine ⟨_, rfl, s.taken_mem n k ecc, fun i hi => ?_⟩
      rw [State.core_updCore_same]
      exact CoreSt.armGroups_grp k _ _ _ (Nat.le_of_lt (Nat.mod_lt _ (by decide))) hi rfl
    · have hexec : exec (.sxfer n ecc) s = .next (u.sxferTake n k w) := by
        rw [hopc] at hstep
        change Host.Outcome.next (s.engStep n ecc .st 5 0 none) = _
        rw [hstep, State.stAccept, if_neg (by omega)]
      have hpages : u.pages = s.pages := s.taken_pages n k ecc
      rw [← State.dstKind_congr hpages] at htarget ⊢
      rw [← State.hitsSave_congr hpages] at hsave
      rw [← s.taken_rdCore n k ecc] at hparse
      rw [hexec, State.sxferTake_of_ok hparse hrange htarget hsave]
      rfl
  · intro stop o g hwhole hown
    obtain ⟨hmem, hgrp, hst⟩ := State.chunkArrive_lands (s := o.1) (k := k) hown
    exact ⟨_, exec_chunkArrival_whole hmoving hgo hwhole, hmem, hgrp, hst⟩
  · intro stop o hfault
    obtain ⟨hmem, hcore, hst⟩ := o.1.suspended_core n k o.2 side
    refine ⟨_, exec_transferSuspend_moving hmoving hgo hfault, ?_, ?_, ?_, hmem⟩
    · rw [State.ctx, State.core_updCore_same]
      exact hst
    · rw [State.core_updCore_same]
    · rw [State.core_updCore_same]
      exact congrArg (fun q => satAdd32 q.faults 1) hcore

end Sys2Proof.Machine

/-!
PROOFS. Pages that settle (R187, R189, R221 to R223, R226, R274): moves that end, pages that retire, copies, and the end of a zero-fill.
-/

namespace Sys2Proof

variable {α : Type}

theorem Sp.mem_of_get_ne {d : α} {t : Sp α} {k : Nat} (h : Sp.get d t k ≠ d) : (k, Sp.get d t k) ∈ t := by
  induction t with
  | nil => exact absurd rfl h
  | cons p t ih =>
    obtain ⟨j, v⟩ := p
    rw [Sp.get] at h ⊢
    split at h
    next hj => simp [hj]
    next hj =>
      rw [if_neg hj]
      exact List.mem_cons_of_mem _ (ih h)

variable [DecidableEq α]

theorem Sp.lt_of_wfFrom {d : α} {lo : Nat} {t : Sp α} (h : Sp.wfFrom d (some lo) t = true) : ∀ e ∈ t, lo < e.1 := by
  induction t generalizing lo with
  | nil => simp
  | cons p t ih =>
    obtain ⟨j, v⟩ := p
    simp only [Sp.wfFrom, Bool.and_eq_true, decide_eq_true_eq] at h
    obtain ⟨⟨hlo, -⟩, ht⟩ := h
    intro e he
    rcases List.mem_cons.mp he with rfl | he
    · exact hlo
    · exact Nat.lt_trans hlo (ih ht e he)

/-- A table in canonical form reads each listed entry. -/
theorem Sp.get_of_mem {d : α} {lo : Option Nat} {t : Sp α} (h : Sp.wfFrom d lo t = true) {e : Nat × α} (he : e ∈ t) :
    Sp.get d t e.1 = e.2 := by
  induction t generalizing lo with
  | nil => cases he
  | cons p t ih =>
    obtain ⟨j, v⟩ := p
    have htail : Sp.wfFrom d (some j) t = true := by
      unfold Sp.wfFrom at h
      exact (Bool.and_eq_true_iff.mp h).2
    rw [Sp.get]
    rcases List.mem_cons.mp he with rfl | he
    · exact if_pos rfl
    · rw [if_neg (Nat.ne_of_lt (Sp.lt_of_wfFrom htail e he)), ih htail he]

/-- A range that is copied reads at its new place as it did at its old one. -/
theorem Machine.get_copyRange {d : α} {t : Sp α} (h : Sp.wf d t = true) (src dst : Nat) {n i : Nat} (hi : i < n) :
    Sp.get d (Machine.copyRange d t src dst n) (dst + i) = Sp.get d t (src + i) := by
  refine Sp.get_foldl_set d (fun e : Nat × α => dst + (e.1 - src)) (·.2) _ _ (fun e he hkey => ?_) ?_
  · obtain ⟨hmem, hrange⟩ := List.mem_filter.mp he
    simp only [Bool.and_eq_true, decide_eq_true_eq] at hrange
    have hplace : src + i = e.1 := by omega
    rw [hplace, Sp.get_of_mem h hmem]
  · by_cases hdefault : Sp.get d t (src + i) = d
    · left
      rw [Sp.get_eraseRange, if_pos (by omega), hdefault]
    · right
      refine ⟨_, List.mem_filter.mpr ⟨Sp.mem_of_get_ne hdefault, ?_⟩, by dsimp only; omega⟩
      simp only [Bool.and_eq_true, decide_eq_true_eq]
      omega

end Sys2Proof

namespace Sys2Proof.Machine

/-! ### The end of a retirement (R221, R226) -/

section
variable (s : State) (d state reason page : Nat)

theorem State.retireEnd_eq : s.retireEnd d state reason page =
    { s.updMc d (fun m => { m with retState := state, retReason := reason, retPage := none, retDest := none }) with
      log := (s.retireEnd d state reason page).log } := State.logAs_eq _ _ _ _ _ _ _

theorem State.retireEnd_mcOf : (s.retireEnd d state reason page).mcOf d =
    { s.mcOf d with retState := state, retReason := reason, retPage := none, retDest := none } := by
  rw [State.retireEnd_eq]
  exact Sp.get_set_same McSt.reset s.mc d _

@[simp] theorem State.retireEnd_retired : (s.retireEnd d state reason page).retired = s.retired := by
  rw [State.retireEnd_eq, State.updMc_retired]

@[simp] theorem State.retireEnd_frames : (s.retireEnd d state reason page).frames = s.frames := by
  rw [State.retireEnd_eq, State.updMc_frames]

@[simp] theorem State.retireEnd_now : (s.retireEnd d state reason page).now = s.now := by
  rw [State.retireEnd_eq, State.updMc_now]

end

@[simp] theorem State.settlePage_retired (s : State) (d page : Nat) : (s.settlePage d page).retired = s.retired := by
  unfold State.settlePage
  dsimp only
  split
  · simp
  · split
    · simp
    · split
      · rw [State.updMc_retired, State.updMaps_eq]
        rfl
      · simp

/-- The list write that is refused or runs into its timeout (R459). -/
theorem State.listTimeout_ends (s : State) (d armed page : Nat) :
    let t := s.listTimeout d armed page
    (t.mcOf d).retState = 3 ∧ (t.mcOf d).retReason = 4 ∧ t.now = max s.now (armed + 50000000) ∧ t.retired = s.retired ∧
      t.frames = s.frames ∧ t.mem = s.mem := by
  intro t
  have hmc : t.mcOf d = _ := State.retireEnd_mcOf _ d 3 4 page
  refine ⟨by rw [hmc], by rw [hmc], ?_, ?_, ?_, ?_⟩ <;> simp [t, State.listTimeout, State.logTimeout, State.advanceTo]

section
variable {s : State} {d page : Nat} (hpage : (s.mcOf d).retPage = some page) (hcopy : (s.mcOf d).retDest = none)
include hpage hcopy

theorem exec_retirementWriteTimeout_listed : exec (.retirementWriteTimeout d) s = .next (s.listTimeout d (s.mcOf d).retArmed page) := by
  change execRetirementWriteTimeout d s = _
  simp only [execRetirementWriteTimeout, hpage, hcopy, Option.isSome_none, Bool.false_eq_true, if_false]

/-- The page listed, with the cause of its quarantine, and what the page then holds (R221 steps 1 to 3). -/
def State.pageListed (s : State) (d page : Nat) : State :=
  ((s.writeRetList (s.retired ++ [(page, (((s.mcOf d).quar.find? (fun e => e.page == page)).map (·.cause)).getD 0)])).updMc d
    (fun m => { m with quar := markListed m.quar page })).settlePage d page

theorem exec_retireComplete_list (ok : Bool) : exec (.retireComplete d ok) s =
    .next (if (s.mcOf d).retArmed + 50000000 ≤ s.now then s.listTimeout d (s.mcOf d).retArmed page
      else if ok then s.pageListed d page else s.retireEnd d 3 4 page) := by
  change execRetireComplete d ok s = _
  simp only [execRetireComplete, hpage, hcopy, Option.isSome_none, Bool.false_eq_true, if_false]
  split
  · rfl
  · cases ok <;> rfl

end

theorem State.pageListed_retired (s : State) (d page : Nat) : (s.pageListed d page).retired =
    s.retired ++ [(page, (((s.mcOf d).quar.find? (fun e => e.page == page)).map (·.cause)).getD 0)] := by
  rw [State.pageListed, State.settlePage_retired]
  rfl

theorem State.retirePage_armed {s : State} {d page : Nat} (hidle : (s.mcOf d).retState ≠ 1) (hdie : page / dieFrames = d)
    (hnew : s.retired.any (fun e => e.1 == page) = false) (hroom : s.retired.length < 8192) :
    s.retirePage d page = s.setMc d { s.mcOf d with
      retState := 1, retReason := 0, retPage := some page, retArmed := s.now, retDest := none } := by
  simp only [State.retirePage, if_neg hidle, hdie, ne_eq, not_true_eq_false, if_false, hnew, Bool.false_eq_true,
    if_neg (Nat.not_le_of_lt hroom)]

/-! ### The copy of a page (R221) -/

theorem State.resumeOn_eq (s : State) (f : Nat) : s.resumeOn f = { s with cores := (s.resumeOn f).cores } := by
  have hkept : ({ s.resumeOn f with cores := [] } : State) = { s with cores := [] } :=
    foldl_keeps (f := fun (s : State) (p : Nat × PageEnt) => s.resumeTransfers (p.1 / 2 ^ 32) p.1)
      (p := fun t : State => { t with cores := [] }) (fun _ _ => rfl) (s.mapsOf f) s
  exact congrArg (fun t : State => { t with cores := (s.resumeOn f).cores }) hkept

/-- A burst that is noted changes controllers and poison marks alone. -/
theorem State.noteBurst_keeps {β : Type} {p : State → β} (hmc : ∀ (s : State) m, p { s with mc := m } = p s)
    (hpoison : ∀ (s : State) l, p { s with poison := l } = p s) (s : State) (b cause : Nat) : p (s.noteBurst b cause) = p s := by
  unfold State.noteBurst
  dsimp only
  split
  · exact hmc s _
  · split
    · rfl
    · exact hmc s _
    · exact (hpoison _ _).trans (hmc s _)

theorem State.noteFrame_keeps {β : Type} {p : State → β} (hmc : ∀ (s : State) m, p { s with mc := m } = p s)
    (hpoison : ∀ (s : State) l, p { s with poison := l } = p s) (s : State) (f cause : Nat) : p (s.noteFrame f cause) = p s := by
  unfold State.noteFrame
  dsimp only
  rw [foldl_keeps (p := p)]
  · exact hmc s _
  · intro s b
    split
    · rfl
    · exact s.noteBurst_keeps hmc hpoison b cause

/-- A frame copied: its bytes stand in the other one, and frames have the owners that they had. -/
theorem State.copyFrame_mem (s : State) (f g : Nat) :
    (s.copyFrame f g).mem = copyRange 0#8 s.mem (f * pageSize) (g * pageSize) pageSize := by
  have hnoted : (s.noteFrame f 1).mem = s.mem := s.noteFrame_keeps (fun _ _ => rfl) (fun _ _ => rfl) f 1
  rw [State.copyFrame, State.fillFrame, State.updMc_mem, hnoted]

theorem State.copyFrame_frames (s : State) (f g : Nat) : (s.copyFrame f g).frames = s.frames :=
  s.noteFrame_keeps (p := State.frames) (fun _ _ => rfl) (fun _ _ => rfl) f 1

/-- The copy that ends: `x` is the state in which the new frame has the bytes and the owner of the old one. -/
theorem State.finishMove_eq {s : State} {d f g : Nat} (hpage : (s.mcOf d).retPage = some f) (hdest : (s.mcOf d).retDest = some g) :
    ∃ x : State, s.finishMove d = (x.setFrame f { Frame.free with withdrawn := true }).retireEnd d 2 0 f ∧
      x.mem = copyRange 0#8 s.mem (f * pageSize) (g * pageSize) pageSize ∧
      x.frames = Sp.set Frame.free s.frames g { Frame.free with owner := (s.frameAt f).owner } := by
  have hbytes : ((s.resumeOn f).copyFrame f g).mem = copyRange 0#8 s.mem (f * pageSize) (g * pageSize) pageSize := by
    rw [State.copyFrame_mem, State.resumeOn_eq]
  have hframes : ((s.resumeOn f).copyFrame f g).frames = s.frames := by
    rw [State.copyFrame_frames, State.resumeOn_eq]
  have howner : ((s.resumeOn f).copyFrame f g).frameAt f = s.frameAt f := by rw [State.frameAt, hframes, State.frameAt]
  unfold State.finishMove
  rw [hpage, hdest]
  refine ⟨_, rfl, ?_, ?_⟩
  · dsimp only
    split
    · rw [State.updT2, State.setT2_mem, State.updMaps_mem, State.setFrame_mem, hbytes]
    · rw [State.updMaps_mem, State.setFrame_mem, hbytes]
  · dsimp only
    split
    · rw [State.updT2, State.setT2_frames, State.updMaps_eq, State.setFrame, hframes, howner]
    · rw [State.updMaps_eq, State.setFrame, hframes, howner]

/-- The two frames, the controller's result and the bytes once a copy has ended (R221, R226). -/
theorem State.finishMove_lands {s : State} {d f g : Nat} (hpage : (s.mcOf d).retPage = some f) (hdest : (s.mcOf d).retDest = some g)
    (hne : g ≠ f) (hwf : Memory.wf s.mem = true) :
    let u := s.finishMove d
    u.frameAt f = { Frame.free with withdrawn := true } ∧ u.frameAt g = { Frame.free with owner := (s.frameAt f).owner } ∧
      (u.mcOf d).retState = 2 ∧ (u.mcOf d).retReason = 0 ∧ (u.mcOf d).retPage = none ∧
      ∀ i, i < pageSize → rdByte u.mem (g * pageSize + i) = rdByte s.mem (f * pageSize + i) := by
  intro u
  obtain ⟨x, hmove, hbytes, hframes⟩ := State.finishMove_eq hpage hdest
  rw [show s.finishMove d = u from rfl] at hmove
  have hmc := State.retireEnd_mcOf (x.setFrame f { Frame.free with withdrawn := true }) d 2 0 f
  rw [← hmove] at hmc
  have hframe (i : Nat) : u.frameAt i = (x.setFrame f { Frame.free with withdrawn := true }).frameAt i := by
    rw [State.frameAt, hmove, State.retireEnd_frames, State.frameAt]
  refine ⟨?_, ?_, by rw [hmc], by rw [hmc], by rw [hmc], fun i hi => ?_⟩
  · rw [hframe, State.frameAt_setFrame_same]
  · rw [hframe, State.frameAt_setFrame_other _ _ hne, State.frameAt, hframes, Sp.get_set_same]
  · rw [hmove, State.retireEnd_mem, State.setFrame_mem, hbytes]
    exact get_copyRange hwf _ _ hi

theorem execRetireComplete_copied {s : State} {d f g : Nat} (hpage : (s.mcOf d).retPage = some f) (hdest : (s.mcOf d).retDest = some g)
    (ok : Bool) : execRetireComplete d ok s = .next (s.finishMove d).settle := by
  simp only [execRetireComplete, hpage, hdest, Option.isSome_some, if_true]

theorem execFaultResolved_copied {s : State} {tenant va f g : Nat} {ro : Bool} (hto : (s.pageOf tenant va).2.dest = .tier1 f ro)
    (hmoving : (s.pageOf tenant va).2.moving = true) (hpage : (s.mcOf (f / dieFrames)).retPage = some f)
    (hdest : (s.mcOf (f / dieFrames)).retDest = some g) : execFaultResolved tenant va s = .next (s.finishMove (f / dieFrames)).settle := by
  simp only [execFaultResolved, hto, hmoving, hpage, hdest, decide_true, Option.isSome_some, Bool.and_self, if_true]

/-! ### The move of a page (R187, R189) -/

theorem execFaultResolved_settled {s : State} {tenant va : Nat} (h : ∀ f ro, (s.pageOf tenant va).2.dest = .tier1 f ro →
    (s.mcOf (f / dieFrames)).retPage = some f → (s.mcOf (f / dieFrames)).retDest = none) :
    execFaultResolved tenant va s = .next (s.pageSettled tenant va) := by
  unfold execFaultResolved
  dsimp only
  split
  next f ro hto =>
    refine if_neg (fun hcopied => ?_)
    simp only [Bool.and_eq_true, decide_eq_true_eq] at hcopied
    obtain ⟨⟨-, hpage⟩, hdest⟩ := hcopied
    rw [h f ro hto hpage] at hdest
    cases hdest
  next => rfl

theorem State.pageSettled_of_moving {s : State} {tenant va : Nat} (h : (s.pageOf tenant va).2.moving = true) :
    (s.pageSettled tenant va).pages =
      Sp.set PageEnt.none s.pages (s.pageOf tenant va).1 { (s.pageOf tenant va).2 with moving := false } ∧
      (s.pageSettled tenant va).mem = s.mem := by
  rw [State.pageSettled, if_pos h]
  exact ⟨rfl, rfl⟩

/-! ### The end of a zero-fill (R223, R274) -/

/-- A job admitted (R274). -/
def Job.admitted (j : Job) : Job := { j with life := .running, cmd := 0#512 }

/-- But for what is posted toward the host, the job that is filled is admitted and its contexts start. -/
theorem State.filled_hostless {s : State} {k : Nat} (h : (s.job k).life = .filling) :
    ∃ cores, (s.filled k).hostless = ({ s.setJob k (s.job k).admitted with cores := cores } : State).hostless := by
  unfold State.filled
  dsimp only
  rw [if_pos h]
  exact ⟨_, State.finish_hostless _ _ _ _ _ _⟩

theorem State.filled_of_not_filling {s : State} {k : Nat} (h : (s.job k).life ≠ .filling) : s.filled k = s := if_neg h

theorem State.filled_mem (s : State) (k : Nat) : (s.filled k).mem = s.mem := by
  by_cases hlife : (s.job k).life = .filling
  · obtain ⟨cores, h⟩ := State.filled_hostless hlife
    rw [State.mem_of_hostless h, State.setJob_mem]
  · rw [State.filled_of_not_filling hlife]

theorem State.filled_job (s : State) (k i : Nat) :
    (s.filled k).job i = if i = k ∧ (s.job i).life = .filling then (s.job i).admitted else s.job i := by
  by_cases hlife : (s.job k).life = .filling
  · obtain ⟨cores, h⟩ := State.filled_hostless hlife
    have hjob : (s.filled k).job i = (s.setJob k (s.job k).admitted).job i := State.job_of_hostless h i
    rw [hjob]
    by_cases hi : i = k
    · rw [hi, if_pos ⟨rfl, hlife⟩, State.job_setJob_same]
    · rw [State.job_setJob_other _ _ hi, if_neg (not_and_of_not_left _ hi)]
  · have hother : ¬ (i = k ∧ (s.job i).life = .filling) := fun ⟨hi, h⟩ => hlife (hi ▸ h)
    rw [State.filled_of_not_filling hlife, if_neg hother]

/-- The jobs of the slots listed run once they are filled; no other changes. -/
theorem State.foldl_filled_job (l : List Nat) (s : State) (i : Nat) :
    (l.foldl State.filled s).job i = if i ∈ l ∧ (s.job i).life = .filling then (s.job i).admitted else s.job i := by
  induction l generalizing s with
  | nil => simp
  | cons k l ih =>
    rw [List.foldl_cons, ih, State.filled_job]
    by_cases hlife : (s.job i).life = .filling
    · by_cases hi : i = k
      · simp [hi ▸ hlife, hi, Job.admitted]
      · simp [hi]
    · simp [hlife]

theorem State.mem_jobs_of_filling {s : State} {k : Nat} (h : (s.job k).life = .filling) : k ∈ s.jobs.map (·.1) := by
  have hlisted : s.job k ≠ Job.none := by
    intro hnone
    rw [hnone] at h
    cases h
  exact List.mem_map_of_mem (Sp.mem_of_get_ne hlisted)

/-- Settles O21: each command's state written out, with what a copy leaves from `get_copyRange` and what a zero-fill leaves by induction
on the jobs. -/
theorem pagesSettle : Obligations.PagesSettle := by
  refine ⟨fun s tenant va hmoving hplain => ?_, ⟨fun s who d page hwho => ?_, fun s who d page hwho hidle hdie hnew hroom => ?_,
    fun s d page hpage hcopy => ?_, fun s f g c hpage hdest hne hwf hc => ?_⟩, fun s => ?_⟩
  · obtain ⟨hpages, hmem⟩ := State.pageSettled_of_moving hmoving
    refine ⟨_, execFaultResolved_settled hplain, ?_, fun j hj => ?_, hmem⟩
    · rw [hpages, Sp.get_set_same]
    · rw [hpages, Sp.get_set_other _ _ _ hj]
  · change execPageRetire who d page s = _
    rw [execPageRetire, hwho]
    rfl
  · change execPageRetire who d page s = _
    rw [execPageRetire, if_pos hwho, State.retirePage_armed hidle hdie hnew hroom]
  · have hend := State.retireEnd_mcOf s d 3 4 page
    refine ⟨fun hsoon => ?_, fun hsoon => ?_, fun ok hlate => ?_, ?_⟩
    · rw [exec_retireComplete_list hpage hcopy, if_neg (Nat.not_le_of_lt hsoon), if_pos rfl]
      exact ⟨_, rfl, s.pageListed_retired d page⟩
    · rw [exec_retireComplete_list hpage hcopy, if_neg (Nat.not_le_of_lt hsoon), if_neg Bool.false_ne_true]
      exact ⟨_, rfl, by rw [hend], by rw [hend], by rw [hend], s.retireEnd_retired d 3 4 page, s.retireEnd_frames d 3 4 page,
        s.retireEnd_mem d 3 4 page⟩
    · rw [exec_retireComplete_list hpage hcopy, if_pos hlate, exec_retirementWriteTimeout_listed hpage hcopy]
    · exact ⟨_, exec_retirementWriteTimeout_listed hpage hcopy, s.listTimeout_ends d _ page⟩
  · have hexec : exec c s = .next (s.finishMove (f / 245760)).settle := by
      rcases hc with ⟨ok, rfl⟩ | ⟨tenant, va, ro, rfl, hto, hmoving⟩
      · exact execRetireComplete_copied hpage hdest ok
      · exact execFaultResolved_copied hto hmoving hpage hdest
    exact ⟨_, hexec, State.finishMove_lands hpage hdest hne hwf⟩
  · have hjob (k : Nat) := State.foldl_filled_job (s.jobs.map (·.1)) s k
    refine ⟨_, rfl, rfl, fun p hp => ?_, fun k hlife => ?_, fun k hlife => ?_, foldl_keeps (p := State.mem) State.filled_mem _ s⟩
    · obtain ⟨q, -, rfl⟩ := List.mem_map.mp hp
      rfl
    · refine (congrArg Job.life (hjob k)).trans ?_
      rw [if_pos ⟨State.mem_jobs_of_filling hlife, hlife⟩]
      rfl
    · exact (hjob k).trans (if_neg (fun h => hlife h.2))

end Sys2Proof.Machine

/-!
PROOFS. Tier-1 reads (R202, R203, R212, R215 to R217, R224): what each kind of burst answers, and what an uncorrectable one leaves in the
registers of its controller.
-/

namespace Sys2Proof.Machine

/-! ### The controllers and the poison markers -/

/-- The poison markers and the controllers of a state. -/
def State.burstView (s : State) : Sp Bool × Sp McSt := (s.poison, s.mc)

/-- The poison markers of a state and the uncorrectable bursts counted at each die: what a quarantine leaves of its burst view. -/
def State.poisonView (s : State) : Sp Bool × (Nat → W32) := (s.poison, fun d => (s.mcOf d).ue)

section
variable {s t : State}

theorem State.burstView_of_hostless (h : t.hostless = s.hostless) : t.burstView = s.burstView := by
  change t.hostless.burstView = s.hostless.burstView
  rw [h]

section
variable (h : t.burstView = s.burstView)
include h

theorem State.mcOf_of_burstView (d : Nat) : t.mcOf d = s.mcOf d := congrArg (fun v : Sp Bool × Sp McSt => Sp.get McSt.reset v.2 d) h
theorem State.isPoisoned_of_burstView (a : Nat) : t.isPoisoned a = s.isPoisoned a :=
  congrArg (fun v : Sp Bool × Sp McSt => Sp.get false v.1 (burstOf a)) h
theorem State.poisonView_of_burstView : t.poisonView = s.poisonView :=
  congrArg (fun v : Sp Bool × Sp McSt => (v.1, fun d => (Sp.get McSt.reset v.2 d).ue)) h

end

end

/-- What an update of one controller leaves in it stands at every die. -/
theorem State.updMc_mcOf_keeps {β : Type} {p : McSt → β} {f : McSt → McSt} (hf : ∀ m, p (f m) = p m) (s : State) (d e : Nat) :
    p ((s.updMc d f).mcOf e) = p (s.mcOf e) := by
  by_cases h : e = d
  · rw [h, State.updMc_mcOf_same, hf]
  · rw [State.updMc_mcOf_other s f h]

theorem State.updMc_poisonView {f : McSt → McSt} (hf : ∀ m, (f m).ue = m.ue) (s : State) (d : Nat) :
    (s.updMc d f).poisonView = s.poisonView :=
  congrArg (Prod.mk s.poison) (funext (State.updMc_mcOf_keeps (p := McSt.ue) hf s d))

/-! ### What a quarantine and the drop of a copy leave there -/

section
variable (s : State)

theorem State.log_burstView (l : LogSt) : ({ s with log := l } : State).burstView = s.burstView := rfl
theorem State.setFrame_burstView (f : Nat) (x : Frame) : (s.setFrame f x).burstView = s.burstView := rfl
theorem State.tiers_burstView (x : TierSt) : ({ s with tiers := x } : State).burstView = s.burstView := rfl
theorem State.setT2_burstView (k : Nat) (t : T2Tensor) : (s.setT2 k t).burstView = s.burstView := rfl

theorem State.logAs_burstView (c i e v : Nat) (t : Option Nat) (a : List (Nat × Nat)) :
    (s.logAs c i e v t a).burstView = s.burstView := by
  rw [State.logAs_eq, State.log_burstView]

theorem State.moduleFault_burstView : s.moduleFault.burstView = s.burstView := by
  unfold State.moduleFault
  split <;> rfl

theorem State.mapBig_burstView (tenant va : Nat) (moving : Bool) (f : Nat → PageTo) (l : List Nat) :
    (s.mapBig tenant va moving f l).burstView = s.burstView := by
  induction l generalizing s with
  | nil => rfl
  | cons i l ih => exact (ih _).trans rfl

theorem State.freeFrames_burstView (tn : Nat) (sel : Nat × Nat × FrameUse → Bool) : (s.freeFrames tn sel).burstView = s.burstView :=
  State.burstView_of_hostless (s.freeFrames_hostless tn sel)

theorem State.dropCopy_burstView (key : Nat) : (s.dropCopy key).burstView = s.burstView := by
  unfold State.dropCopy
  dsimp only
  split
  · rfl
  · rw [State.tiers_burstView, State.setT2_burstView, State.freeFrames_burstView, State.mapBig_burstView]

theorem State.stopPromotion_burstView : s.stopPromotion.burstView = s.burstView := by
  unfold State.stopPromotion
  split
  · rfl
  · exact s.freeFrames_burstView _ _

theorem State.updMaps_burstView (f : Nat) (g : PageEnt → PageEnt) : (s.updMaps f g).burstView = s.burstView := by
  rw [State.updMaps_eq]
  rfl

theorem State.afterQuarantine_burstView (f cause : Nat) : (s.afterQuarantine f cause).burstView = s.burstView := by
  unfold State.afterQuarantine
  dsimp only
  split
  · split
    · split
      · exact s.stopPromotion_burstView
      · exact s.dropCopy_burstView _
    · exact s.dropCopy_burstView _
  · split
    · exact s.moduleFault_burstView
    · rfl

theorem State.retireEnd_poisonView (d state reason page : Nat) : (s.retireEnd d state reason page).poisonView = s.poisonView := by
  rw [State.retireEnd_eq, State.poisonView_of_burstView (State.log_burstView _ _), State.updMc_poisonView (by intro; rfl)]

theorem State.stopMove_poisonView (d f : Nat) : (s.stopMove d f).poisonView = s.poisonView := by
  unfold State.stopMove
  dsimp only
  split
  · split
    · exact (State.retireEnd_poisonView _ _ _ _ _).trans (State.poisonView_of_burstView (s.updMaps_burstView _ _))
    · rfl
  · rfl

/-- A quarantine sets no poison marker and counts no burst. -/
theorem State.quarantine_poisonView (f cause : Nat) : (s.quarantine f cause).poisonView = s.poisonView := by
  unfold State.quarantine
  dsimp only
  split
  · rfl
  · split
    · exact State.poisonView_of_burstView s.moduleFault_burstView
    · have hposted (t : State) (p : Nat × PageEnt) :
          (t.postEvent (p.1 / 2 ^ 32) 0x83 [(24, 8, p.1 % 2 ^ 32 * 65536)]).poisonView = t.poisonView :=
        State.poisonView_of_burstView (State.burstView_of_hostless (t.postEvent_hostless _ _ _))
      rw [foldl_keeps (p := State.poisonView) hposted, State.poisonView_of_burstView (State.updMaps_burstView _ _ _),
        State.poisonView_of_burstView (State.setFrame_burstView _ _ _), State.updMc_poisonView (by intro; rfl),
        State.stopMove_poisonView]

end

/-! ### The counts of a burst with an error (R215, R216) -/

theorem State.updChan_mcOf_keeps {β : Type} {p : McSt → β} (hp : ∀ m c x, p (McSt.setChan m c x) = p m) (s : State) (d ch : Nat)
    (f : ChSt → ChSt) (e : Nat) : p ((s.updChan d ch f).mcOf e) = p (s.mcOf e) :=
  State.updMc_mcOf_keeps (fun m => hp m ch (f (m.chan ch))) s d e

/-- A correctable burst is counted in MC_CE of its die. -/
theorem State.correctable_ce (s : State) (a : Nat) :
    ((s.correctable a).mcOf (dieOf a)).ce = satAdd32 (s.mcOf (dieOf a)).ce 1 := by
  unfold State.correctable
  extract_lets d ch c w n counted noted
  have hcounted : (noted.mcOf d).ce = satAdd32 (s.mcOf d).ce 1 := by
    rw [State.updChan_mcOf_keeps (p := McSt.ce) (fun _ _ _ => rfl), State.updMc_mcOf_same]
  split
  · rw [State.mcOf_of_burstView (State.logAs_burstView _ _ _ _ _ _ _), hcounted]
  · rw [State.mcOf_of_burstView (State.log_burstView _ _), hcounted]

/-- A controller that has met an uncorrectable burst at `b`. -/
def McSt.countUe (cause b : Nat) (m : McSt) : McSt :=
  { m with ue := satAdd32 m.ue 1, eValid := true, eCause := cause, eAddr := b }

/-- What follows the count of an uncorrectable burst leaves the controllers and the markers, but for the service request. -/
theorem State.uncorrectable_burstView (s : State) (a cause : Nat) : (s.uncorrectable a cause).burstView =
    ((((s.setPoison a true).quarantine (a / pageSize) cause).updMc (dieOf a) (McSt.countUe cause (a / 64 * 64))).updChan (dieOf a)
      (chanOf a) (fun c => { c with reqs := c.reqs ++ [1] })).burstView :=
  (State.afterQuarantine_burstView _ _ _).trans (State.logAs_burstView _ _ _ _ _ _ _)

theorem State.uncorrectable_poisoned (s : State) (a cause : Nat) : (s.uncorrectable a cause).isPoisoned a = true := by
  rw [State.isPoisoned_of_burstView (s.uncorrectable_burstView a cause)]
  have hkept := congrArg Prod.fst ((s.setPoison a true).quarantine_poisonView (a / pageSize) cause)
  exact (congrArg (fun p => Sp.get false p (burstOf a)) hkept).trans (Sp.get_set_same false s.poison (burstOf a) true)

/-- What `p` shows of a controller, its channels aside, once it has met an uncorrectable burst. -/
theorem State.uncorrectable_mcOf {β : Type} {p : McSt → β} (hp : ∀ m c x, p (McSt.setChan m c x) = p m) (s : State) (a cause : Nat) :
    p ((s.uncorrectable a cause).mcOf (dieOf a)) =
      p ((((s.setPoison a true).quarantine (a / pageSize) cause).mcOf (dieOf a)).countUe cause (a / 64 * 64)) := by
  rw [State.mcOf_of_burstView (s.uncorrectable_burstView a cause), State.updChan_mcOf_keeps hp, State.updMc_mcOf_same]

theorem State.uncorrectable_ue (s : State) (a cause : Nat) :
    ((s.uncorrectable a cause).mcOf (dieOf a)).ue = satAdd32 (s.mcOf (dieOf a)).ue 1 := by
  have hkept := congrArg Prod.snd ((s.setPoison a true).quarantine_poisonView (a / pageSize) cause)
  rw [State.uncorrectable_mcOf (p := McSt.ue) (fun _ _ _ => rfl)]
  exact congrArg (fun f => satAdd32 (f (dieOf a)) 1) hkept

/-! ### A burst read at its controller (R202, R216, R217, R224) -/

/-- The 64 bytes of a burst, zeros where it bears the zero marker. -/
def State.burstData (s : State) (b : Nat) : List Byte := if s.zeroMarked b then zeros 64 else rdBytes s.mem b 64

section
variable {s : State} {a : Nat} (cause : Nat) {ecc : Ecc}

theorem State.burstRead_of_marked (h : s.quarantined (a / 64 * 64) = true ∨ s.isPoisoned (a / 64 * 64) = true) :
    s.burstRead a cause ecc = (s.countPoisonRead (a / 64 * 64), s.burstData (a / 64 * 64), true) :=
  if_pos (Bool.or_eq_true_iff.mpr h)

/-- A burst that nothing marks answers by what its code word shows. -/
theorem State.burstRead_of_unmarked (hquar : s.quarantined (a / 64 * 64) = false) (hclean : s.isPoisoned (a / 64 * 64) = false)
    {shown : Ecc} (hshown : ecc.worse (s.errAt (a / 64 * 64)) = shown) : s.burstRead a cause ecc =
      match shown with
      | .clean => (s, s.burstData (a / 64 * 64), false)
      | .corrected => (s.correctable (a / 64 * 64), s.burstData (a / 64 * 64), false)
      | .uncorrectable => (s.uncorrectable (a / 64 * 64) cause, s.burstData (a / 64 * 64), true) := by
  simp only [State.burstRead, hquar, hclean, hshown, Bool.or_self, Bool.false_eq_true, if_false]
  cases shown <;> rfl

end

/-! ### The command (R203) -/

section
variable (s : State) (a slots b : Nat)

theorem State.access_zeroMarked : (s.access a slots).zeroMarked b = s.zeroMarked b :=
  congrArg (inRanges · (burstOf b)) (State.updChan_mcOf_keeps (p := McSt.zeros) (fun _ _ _ => rfl) s _ _ _ _)

theorem State.access_burstData : (s.access a slots).burstData b = s.burstData b := by
  rw [State.burstData, State.access_zeroMarked]
  rfl

end

section
variable {s : State} {a : Nat} (who : Who) (ecc : Ecc) (htier : isTier1 a = true)
include htier

theorem exec_tier1Read_waits (h : s.accWaits a = true) : exec (.tier1Read who a ecc) s = .next (s.deferAcc (.read who a ecc)) := by
  change execTier1Read who a ecc s = _
  rw [execTier1Read, if_pos htier, if_pos h]

theorem exec_tier1Read_serves (h : s.accWaits a = false) {o : State × List Byte × Bool}
    (ho : (s.access a 1).burstRead a 1 ecc = o) : exec (.tier1Read who a ecc) s = .next { o.1 with resp := .burst o.2.1 o.2.2 } := by
  subst ho
  change execTier1Read who a ecc s = _
  rw [execTier1Read, if_pos htier, h]
  rfl

end

/-- Settles O24: a read that is served answers by the marks of its burst and, where it has none, by what its code word shows; the
quarantine and the drop of a copy that an uncorrectable burst brings leave what it has counted. That a read which has to wait is answered
so and served later is the model's choice (assumption log entry 98). -/
theorem tier1Reads : Obligations.Tier1Reads := by
  intro s who a ecc htier u b m data shown
  have hdata : u.burstData b = data := s.access_burstData a 1 b
  have hshown : ecc.worse (u.errAt b) = shown := congrArg ecc.worse (State.access_errAt 1 b)
  have hburst : b / 64 * 64 = b := by omega
  refine ⟨fun hwaits => ⟨_, exec_tier1Read_waits who ecc htier hwaits, rfl, rfl, s.deferAcc_waiting _⟩,
    fun hgo => ⟨fun hquar hclean => ?_, fun hmarked => ?_⟩⟩
  · have hexec (e : Ecc) (he : shown = e) := exec_tier1Read_serves who ecc htier hgo
      (State.burstRead_of_unmarked (s := u) 1 hquar hclean (hshown.trans he))
    rw [← hdata]
    refine ⟨hexec .clean, fun he => ⟨_, hexec .corrected he, rfl, u.correctable_ce b, ?_, ?_, ?_⟩,
      fun he => ⟨_, hexec .uncorrectable he, rfl, u.uncorrectable_ue b 1, ?_, ?_, ?_, u.uncorrectable_poisoned b 1,
        u.uncorrectable_mem b 1⟩⟩
    · exact State.correctable_keeps (p := State.mem) (fun _ _ => rfl) (fun _ _ => rfl) u b
    · exact State.correctable_keeps (p := State.poison) (fun _ _ => rfl) (fun _ _ => rfl) u b
    · exact State.correctable_keeps (p := State.frames) (fun _ _ => rfl) (fun _ _ => rfl) u b
    · exact State.uncorrectable_mcOf (p := McSt.eValid) (fun _ _ _ => rfl) u b 1
    · exact State.uncorrectable_mcOf (p := McSt.eCause) (fun _ _ _ => rfl) u b 1
    · exact (State.uncorrectable_mcOf (p := McSt.eAddr) (fun _ _ _ => rfl) u b 1).trans hburst
  · rw [← hdata]
    exact exec_tier1Read_serves who ecc htier hgo (State.burstRead_of_marked (s := u) 1 hmarked)

end Sys2Proof.Machine

/-!
PROOFS. Tuber lists (R235, R239, R246): lists that a core hands over, and lists that end.
-/

namespace Sys2Proof.Machine

/-! ### What is read back -/

@[simp] theorem State.tubOf_updTub_same (s : State) (d : Nat) (f : TubDie → TubDie) : (s.updTub d f).tubOf d = f (s.tubOf d) :=
  s.tubOf_setTub_same d _

/-- A list that is set stands where the one with its number stood. -/
theorem State.listAt_setList {s : State} {l l' : TbList} (h : s.listAt l.id = some l) (hid : l'.id = l.id) :
    (s.setList l').listAt l.id = some l' := by
  have hkeep : ((fun m : TbList => m.id == l.id) ∘ fun m => if m.id = l'.id then l' else m) = fun m => m.id == l.id := by
    funext m
    simp only [Function.comp_apply, hid]
    split <;> simp_all
  have hfound : s.lists.find? (fun m => m.id == l.id) = some l := h
  rw [State.listAt, State.setList, List.find?_map, hkeep, hfound, Option.map_some, hid, if_pos rfl]

/-! ### A list handed over (R235, R239) -/

/-- An idle outbound unit takes what issues in the same step, where it is no host-queue instruction. -/
theorem State.Issues.engStep_tbList {s : State} {n k : Nat} {w : IWord} {ecc : Ecc} (h : s.Issues n k w ecc)
    (hidle : (s.ctx n k).qob = []) (hcls : w.cls = 7) (hopc : w.opc = 0) :
    s.engStep n ecc .ob 7 0 none = (s.taken n k ecc).tbTake n k w := by
  have hready : (s.queued n k ecc .ob w).engReady n k .ob w none = true := by simp [State.engReady, State.obReady, hcls]
  have htake := h.engStep (e := .ob) hidle hready
  simpa [State.engEffect, State.obAccept, hcls, hopc] using htake

/-- The records that a TB_LIST names, as core SRAM holds them. -/
def State.tbRecords (s : State) (n : Nat) (w : IWord) : List Entry :=
  (List.range (field 24 17 w.pl)).map (fun i => entryOf (s.sram n (64 * field 16 0 w.pl + 64 * i) 64))

/-- What R235 and R239 ask of a TB_LIST: a count, records and status inside SRAM and off the save area, and legal records, none of which
copies over the save area. -/
structure State.TbLegal (s : State) (n k : Nat) (w : IWord) : Prop where
  nonempty : field 24 17 w.pl ≠ 0
  inSram : fits (64 * field 16 0 w.pl + 64 * field 24 17 w.pl) = true
  statusIn : fits (16 * field 55 36 w.pl + 16) = true
  statusFree : (s.ctx n k).hitsSave (16 * field 55 36 w.pl) 16 = false
  records : (s.tbRecords n w).all (fun e => s.recOk (s.ctx n k).prog.tenant false e) = true
  copies : (s.tbRecords n w).any (fun e => (trec e).op == 2 &&
    s.virtHits n (s.ctx n k).prog.tenant (s.ctx n k) ((trec e).x 32 6) (trec e).xferLen) = false

theorem State.tbTake_of_legal {s : State} {n k : Nat} {w : IWord} (h : s.TbLegal n k w) :
    s.tbTake n k w = (s.addList (.core n k (field 35 25 w.pl) (16 * field 55 36 w.pl)) (s.ctx n k).prog.tenant (s.ctx n k).prog.nmode
      (s.tbRecords n w) false).updCtx n k (fun x => { x with outCmds := x.outCmds + 1 }) := by
  obtain ⟨hsome, hin, hstatus, hfree, hrecords, hcopies⟩ := h
  simp only [State.tbRecords] at hrecords hcopies
  simp only [State.tbTake, hsome, hin, hstatus, hfree, hrecords, hcopies]
  rfl

/-! ### A list ends (R246) -/

/-- Clearing the units of a list changes the Tuber dies alone. -/
theorem State.clearList_eq (s : State) (l : TbList) : s.clearList l = { s with tub := (s.clearList l).tub } := by
  have hkept : ({ s.clearList l with tub := [] } : State) = { s with tub := [] } :=
    foldl_keeps (p := fun u : State => { u with tub := [] }) (fun u e => by dsimp only; split <;> rfl) l.records s
  exact congrArg (fun u : State => { u with tub := (s.clearList l).tub }) hkept

/-- The state without a list, the units of which are cleared. -/
def State.dropList (s : State) (l : TbList) : State :=
  { s with tub := (s.clearList l).tub, lists := s.lists.filter (fun m => m.id != l.id) }

theorem exec_tbListComplete (id : Nat) (s : State) : exec (.tbListComplete id) s = .next (s.listComplete id).resumed := rfl

/-- A list that runs, or has records left and no fault, does not end. -/
theorem State.listComplete_of_going {s : State} {l : TbList} (hlist : s.listAt l.id = some l)
    (h : l.running = true ∨ l.done < l.records.length ∧ l.code = 0) : s.listComplete l.id = s := by
  have hgoing : (l.running || (decide (l.done < l.records.length) && l.code == 0)) = true := by simpa using h
  simp only [State.listComplete, hlist, hgoing, if_true]

theorem TbList.ended {l : TbList} (hidle : l.running = false) (hend : l.records.length ≤ l.done ∨ l.code ≠ 0) :
    (l.running || (decide (l.done < l.records.length) && l.code == 0)) = false := by
  simpa [hidle, imp_iff_not_or] using hend

section
variable {s : State} {l : TbList} (hlist : s.listAt l.id = some l) (hidle : l.running = false)
  (hend : l.records.length ≤ l.done ∨ l.code ≠ 0)
include hlist hidle hend

theorem State.listComplete_core {n k g st : Nat} (hfrom : l.from_ = .core n k g st) : s.listComplete l.id =
    (((s.dropList l).setSram n st (l.status s.now)).updCtx n k (fun x => { x with outCmds := x.outCmds - 1 })).arrive n k g
      (l.poison || l.code != 0) := by
  simp only [State.listComplete, hlist, TbList.ended hidle hend, hfrom]
  rw [s.clearList_eq l]
  rfl

theorem State.listComplete_host {e : Entry} (hfrom : l.from_ = .host e) : s.listComplete l.id =
    (s.dropList l).finish l.tenant e (if l.code ≠ 0 then 4 else if l.poison then 5 else 0) 0 [(32, 16, leVal (l.status s.now))] := by
  simp only [State.listComplete, hlist, TbList.ended hidle hend, hfrom]
  rw [s.clearList_eq l]
  rfl

end

/-- Settles O27: a list handed over is the taken instruction's alone, and one that ends clears its units before its status goes out. That
the list's code stands in bits 15 to 12 of that status, and that a failed list arrives poisoned, is the model's choice (assumption log
entry 59). -/
theorem tuberLists : Obligations.TuberLists := by
  refine ⟨?_, fun s l n k g st hlist hfrom hidle hend => ?_, fun s l e hlist hfrom hidle hend => ?_, fun s l hlist hgoing => ?_⟩
  · intro s n k w ecc hissues hidle hcls hopc u x a count status recs hsome hin hstatus hfree hrecords hcopies
    have hrecs : u.tbRecords n w = recs := by
      simp only [State.tbRecords, State.sram, u, State.taken_mem]
      rfl
    have hlegal : u.TbLegal n k w := ⟨hsome, hin, hstatus, hfree, hrecs ▸ hrecords, hrecs ▸ hcopies⟩
    have hexec : exec (.tbList n ecc) s = .next (u.tbTake n k w) := congrArg _ (hissues.engStep_tbList hidle hcls hopc)
    rw [State.tbTake_of_legal hlegal, hrecs] at hexec
    have hissued : u.lists = s.lists ∧ u.nextList = s.nextList := by
      simp only [u, State.taken]
      rw [s.issued_eq n k ecc]
      exact ⟨rfl, rfl⟩
    obtain ⟨hlists, hnext⟩ := hissued
    refine ⟨_, hexec, s.taken_mem n k ecc, congrArg (· + 1) hnext, ?_, State.ctx_updCtx_same _ _ _ _, fun m hm => ?_⟩
    · rw [← hlists, ← hnext]
      rfl
    · exact (State.core_setCtx_other _ _ _ hm).trans (s.taken_core_other k ecc hm)
  · have hexec := exec_tbListComplete l.id s
    rw [State.listComplete_core hlist hidle hend hfrom] at hexec
    refine ⟨_, hexec, rfl, rfl, ?_, ?_, fun m hm => ?_⟩
    · rw [State.core_arrive_same, CoreSt.grp_arrive, State.core_updCtx_same]
      rfl
    · rw [State.ctx, State.core_arrive_same]
      exact congrArg Ctx.outCmds (State.ctx_updCtx_same _ _ _ _)
    · rw [State.core_arrive_other _ _ _ _ hm]
      exact State.core_setCtx_other _ _ _ hm
  · have hexec := exec_tbListComplete l.id s
    rw [State.listComplete_host hlist hidle hend hfrom] at hexec
    exact ⟨s.dropList l, hexec, rfl, rfl, rfl⟩
  · rw [exec_tbListComplete, State.listComplete_of_going hlist hgoing]

end Sys2Proof.Machine

/-!
PROOFS. Tuber records that start (R236, R239 to R242, R249, R279): the start itself, the pace, and the waits.
-/

namespace Sys2Proof.Machine

/-! ### The start (R240, R241) -/

/-- The list whose current record has started. -/
def TbList.started (l : TbList) (poison : Bool) : TbList := { l with running := true, poisonIn := poison, waitFrom := none }

section
variable (s : State) (l : TbList) (d : Nat) (r : TRec) (poison : Bool) (p : Nat)

/-- A start changes its list and the Tuber dies alone. -/
theorem State.recordStart_eq :
    s.recordStart l d r poison p = { s.setList (l.started poison) with tub := (s.recordStart l d r poison p).tub } := by
  unfold State.recordStart
  dsimp only
  split <;> split <;> rfl

theorem State.recordStart_mem : (s.recordStart l d r poison p).mem = s.mem := by rw [State.recordStart_eq, State.setList_mem]
theorem State.recordStart_cores : (s.recordStart l d r poison p).cores = s.cores := by rw [State.recordStart_eq, State.setList_cores]

variable {s l} in
theorem State.recordStart_listAt (h : s.listAt l.id = some l) :
    (s.recordStart l d r poison p).listAt l.id = some (l.started poison) := by
  rw [State.recordStart_eq]
  exact State.listAt_setList (l' := l.started poison) h rfl

/-- What the credit of a package rests on is not what holds its banks. -/
theorem State.creditNow_holds (f : TubDie → List BankHold) (q : Nat) :
    (s.updTub d (fun t => { t with holds := f t })).creditNow d q = s.creditNow d q := by
  simp only [State.creditNow, State.tuberCap, State.effCap, State.tubOf_updTub_same]
  rfl

variable {r} in
/-- A record that holds its banks debits its bytes from the credit of its packages. -/
theorem State.recordStart_credit (h : r.holds = true) : ((s.recordStart l d r poison p).tubOf d).credit =
    ((s.tubOf d).debit (s.creditNow d) r (s.listRule l) s.now).credit := by
  have hcredit := State.creditNow_holds (s.setList (l.started poison)) d (fun t => t.holds ++ [⟨l.id, r.chans, r.ranks, r.banks⟩])
  unfold State.recordStart
  dsimp only
  rw [if_pos h, State.tubOf_updTub_same]
  split
  · simp only [TbList.started] at hcredit
    simp only [hcredit]
    rw [State.tubOf_updTub_same]
    rfl
  · rfl

end

/-! ### Whether it starts (R240 to R242, R247, R249) -/

section
variable {s : State} {l : TbList} {r : TRec} {d : Nat} (h : s.MayStart l r d) (holes : Nat)
include h

theorem State.MayStart.guards : (r.usesBands && !spanOk (s.listSpan l r) r.first r.bursts) = false ∧
    (s.bandsMove l r || (r.usesBands && s.banksHeld d l r)) = false ∧ (s.sourceOut l.tenant r && !l.fetched r) = false := by
  refine ⟨?_, ?_, ?_⟩
  · cases hu : r.usesBands
    · rfl
    · rw [h.bands hu]; rfl
  · rw [h.still]
    cases hu : r.usesBands
    · rfl
    · rw [h.free hu]; rfl
  · cases hs : s.sourceOut l.tenant r
    · rfl
    · rw [h.here hs]; rfl

/-- Past all that R240 to R242, R247 and R249 ask for, a record that holds no bank starts; one that holds its banks takes a pace. -/
theorem State.MayStart.exec_start : exec (.tuberRecordStart ⟨l.id, holes⟩) s =
    if r.holds = false then .next (s.recordStart l d r (s.xgroupsSet d r).2 8)
    else (s.paceFor d r (s.listRule l) holes).elim (.next (s.setList { l with waitFrom := some (l.waitFrom.getD s.now) })) (fun p =>
      if s.maintHits r (s.now + mcNs (r.hold (s.listRule l) holes p)) ||
          (decide (112 < r.hold (s.listRule l) holes p) && s.grantsNow d != 0) then .next s
      else .next (s.recordStart l d r (s.xgroupsSet d r).2 p)) := by
  obtain ⟨hspan, hfree, hhere⟩ := h.guards
  obtain ⟨b, hhome⟩ := h.home
  change execTuberRecordStart ⟨l.id, holes⟩ s = _
  simp only [execTuberRecordStart, h.listed, h.current, h.waiting, h.good, h.going, hhome, hspan, h.writable, hfree, h.allowed, h.set,
    hhere]
  cases r.holds
  · rfl
  · cases s.paceFor d r (s.listRule l) holes <;> rfl

end

section
variable {s : State} {l : TbList} {r : TRec} (hlist : s.listAt l.id = some l) (hcurrent : l.current = some r)
  (hidle : l.running = false) (hgood : l.code = 0) (hgoing : s.stopped = false) (holes : Nat)
include hlist hcurrent hidle hgood hgoing

/-- A record on bands that are not mapped ends its list with code 3. -/
theorem exec_tuberRecordStart_unmapped
    (h : s.listSpan l r 0 = none ∨ r.usesBands = true ∧ spanOk (s.listSpan l r) r.first r.bursts = false) :
    exec (.tuberRecordStart ⟨l.id, holes⟩) s = .next (s.setList { l with code := 3 }) := by
  change execTuberRecordStart ⟨l.id, holes⟩ s = _
  simp only [execTuberRecordStart, hlist, hcurrent, hidle, hgood, hgoing]
  cases hhome : s.listSpan l r 0 with
  | none => rfl
  | some b =>
    obtain ⟨huses, hspan⟩ := h.resolve_left (by simp [hhome])
    simp only [huses, hspan]
    rfl

/-- A record that would write read-only bands ends it with code 4. -/
theorem exec_tuberRecordStart_readOnly
    (h : ¬(s.listSpan l r 0 = none ∨ r.usesBands = true ∧ spanOk (s.listSpan l r) r.first r.bursts = false))
    (hro : s.putsRo l r = true) : exec (.tuberRecordStart ⟨l.id, holes⟩) s = .next (s.setList { l with code := 4 }) := by
  obtain ⟨hhome, hspan⟩ := not_or.mp h
  obtain ⟨b, hb⟩ := Option.ne_none_iff_exists'.mp hhome
  have hmapped : (r.usesBands && !spanOk (s.listSpan l r) r.first r.bursts) = false := by simpa using hspan
  change execTuberRecordStart ⟨l.id, holes⟩ s = _
  simp only [execTuberRecordStart, hlist, hcurrent, hidle, hgood, hgoing, hb, hmapped, hro]
  rfl

end

/-- Settles O28: past its conditions a record starts at once, or with the smallest pace that qualifies; its list and the credit of its
packages are all that a start changes there. The refresh holes in its hold are an operand (assumption log entry 101). -/
theorem recordsStart : Obligations.RecordsStart := by
  refine ⟨?_, ?_⟩
  · intro s l r d holes hstart l'
    have hexec := hstart.exec_start holes
    have hlisted (p : Nat) : (s.recordStart l d r (s.xgroupsSet d r).2 p).listAt l.id = some l' :=
      s.recordStart_listAt d r _ p hstart.listed
    refine ⟨fun hholds => ?_, ?_, fun hholds hpace => ?_⟩
    · rw [if_pos hholds] at hexec
      exact ⟨_, hexec, hlisted 8, s.recordStart_mem l d r _ 8, s.recordStart_cores l d r _ 8⟩
    · intro p hholds hpace h hmaint hgrants
      have hfree : (s.maintHits r (s.now + mcNs h) || (decide (112 < h) && s.grantsNow d != 0)) = false := by
        rw [mcNs, ceilDiv, Nat.mul_comm h 5, Nat.add_sub_assoc (by decide), hmaint]
        simpa using hgrants
      rw [if_neg (by simp [hholds]), hpace, Option.elim_some, hfree, if_neg Bool.false_ne_true] at hexec
      exact ⟨_, hexec, hlisted p, s.recordStart_mem l d r _ p, s.recordStart_cores l d r _ p,
        s.recordStart_credit l d _ p hholds⟩
    · rw [if_neg (by simp [hholds]), hpace, Option.elim_none] at hexec
      exact ⟨_, hexec, State.listAt_setList hstart.listed rfl, s.setList_tub _⟩
  · intro s l r holes hlist hcurrent hidle hgood hgoing lost
    exact ⟨exec_tuberRecordStart_unmapped hlist hcurrent hidle hgood hgoing holes,
      exec_tuberRecordStart_readOnly hlist hcurrent hidle hgood hgoing holes⟩

end Sys2Proof.Machine

/-!
PROOFS. Tuber records that end (R237, R243 to R248): what the end of a record adds to its list and frees, and TARM's exchange groups.
-/

namespace Sys2Proof.Machine

/-! ### The end of a record (R246, R247) -/

section
variable (s : State) (l : TbList) (d : Nat) (r : TRec) (o : TOut)

theorem State.recordDone_mem : (s.recordDone l d r o).mem = s.mem := by
  rw [State.recordDone, State.updTub_mem, State.setList_mem]

theorem State.recordDone_cores : (s.recordDone l d r o).cores = s.cores := by
  rw [State.recordDone, State.updTub_cores, State.setList_cores]

theorem State.recordDone_records : ((s.recordDone l d r o).tubOf d).records = (s.tubOf d).records + 1 := by
  rw [State.recordDone, State.tubOf_updTub_same]
  rfl

/-- No bank is held for the list any more. -/
theorem State.recordDone_holds : ((s.recordDone l d r o).tubOf d).holds.any (fun h => h.list == l.id) = false := by
  rw [State.recordDone, State.tubOf_updTub_same]
  simp

theorem State.recordDone_xgrp (c g : Nat) : ((s.recordDone l d r o).tubOf d).xgrp c g = (s.tubOf d).xgrp c g := by
  rw [State.recordDone, State.tubOf_updTub_same]
  rfl

end

section
variable {s : State} {l : TbList} {r : TRec} {d b : Nat} (hlist : s.listAt l.id = some l) (hcurrent : l.current = some r)
  (hrun : l.running = true) (hhome : s.listSpan l r 0 = some (d, b))
include hlist hcurrent hrun hhome

/-- A running record of the operation that is asked for does what `f` says, and is done. -/
theorem State.recordStep_of_running {op : Nat} (hop : r.op = op) (f : TbList → Nat → TRec → State × TOut) {o : State × TOut}
    (ho : f l d r = o) : s.recordStep l.id op f = .next (o.1.recordDone l d r o.2).serveWaiting.settle := by
  subst hop ho
  simp only [State.recordStep, hlist, hcurrent, hrun, hhome, beq_self_eq_true, Bool.and_self, if_true]

/-- So does a TEW record of the subcode that is asked for. -/
theorem State.tewRow_of_running {sub : Nat} (h : r.op = 5 ∧ r.x 32 1 = sub) {o : State × TOut}
    (ho : s.opTew d l.tenant (NMode.ofNat l.nmode) r = o) :
    s.tewRow l.id sub = .next (o.1.recordDone l d r o.2).serveWaiting.settle := by
  obtain ⟨hop, hsub⟩ := h
  have hrecord : (s.listAt l.id).bind TbList.current = some r := by rw [hlist, Option.bind_some, hcurrent]
  simp only [State.tewRow, hrecord, if_pos hsub]
  exact State.recordStep_of_running hlist hcurrent hrun hhome hop _ ho

end

/-! ### TARM (R168, R237) -/

theorem TubDie.xgrp_setXgrp (t : TubDie) {a g : Nat} (ha : a < 256) (hg : g < 256) (ctl c : Nat) (v : Grp) :
    (t.setXgrp ctl a v).xgrp c g = if c = ctl ∧ g = a then v else t.xgrp c g := by
  have hkey : xgKey c g = xgKey ctl a ↔ c = ctl ∧ g = a := by
    unfold xgKey
    omega
  simp only [TubDie.xgrp, TubDie.setXgrp, Sp.get_set, hkey]

/-- Groups `first` on of one controller armed with need `need`. -/
def TubDie.armGroups (ctl first need count : Nat) (t : TubDie) : TubDie :=
  (List.range count).foldl (fun t i => t.setXgrp ctl ((first + i) % 256) ⟨need, 0, false⟩) t

theorem TubDie.armGroups_xgrp {first count g : Nat} (hcount : first + count ≤ 256) (hg : g < 256) (ctl need c : Nat) (t : TubDie) :
    (t.armGroups ctl first need count).xgrp c g =
      if c = ctl ∧ first ≤ g ∧ g < first + count then ⟨need, 0, false⟩ else t.xgrp c g := by
  induction count with
  | zero => rw [if_neg (by omega)]; rfl
  | succ count ih =>
    have hlast : (first + count) % 256 = first + count := Nat.mod_eq_of_lt (by omega)
    have hstep : t.armGroups ctl first need (count + 1) =
        (t.armGroups ctl first need count).setXgrp ctl (first + count) ⟨need, 0, false⟩ := by
      rw [TubDie.armGroups, List.range_succ, List.foldl_concat, hlast, TubDie.armGroups]
    rw [hstep, TubDie.xgrp_setXgrp _ (by omega) hg, ih (by omega)]
    by_cases hnew : c = ctl ∧ g = first + count
    · rw [if_pos hnew, if_pos (by omega)]
    · have hsame : (c = ctl ∧ first ≤ g ∧ g < first + (count + 1)) ↔ (c = ctl ∧ first ≤ g ∧ g < first + count) := by omega
      rw [if_neg hnew, if_congr hsame rfl rfl]

/-- What a TARM record does at one controller: it arms its groups there if it targets the controller's die channels. -/
def TRec.armAt (r : TRec) (t : TubDie) (ctl : Nat) : TubDie :=
  if field (4 * ctl + 3) (4 * ctl) r.chans = 0 then t else t.armGroups ctl (r.x 32 1) (r.x 34 1) (r.x 33 1)

/-- Whether a TARM record arms group `g` of controller `c`. -/
abbrev TRec.Arms (r : TRec) (c g : Nat) : Prop :=
  field (4 * c + 3) (4 * c) r.chans ≠ 0 ∧ r.x 32 1 ≤ g ∧ g < r.x 32 1 + r.x 33 1

section
variable {r : TRec} (hgroups : r.x 32 1 + r.x 33 1 ≤ 256) {g : Nat} (hg : g < 256) (c : Nat)
include hgroups hg

theorem TRec.armAt_xgrp (t : TubDie) (ctl : Nat) :
    (r.armAt t ctl).xgrp c g = if c = ctl ∧ r.Arms c g then ⟨r.x 34 1, 0, false⟩ else t.xgrp c g := by
  unfold TRec.armAt
  split
  next hoff => rw [if_neg (by rintro ⟨rfl, hon, -⟩; exact hon hoff)]
  next hon =>
    rw [TubDie.armGroups_xgrp hgroups hg]
    refine if_congr ⟨?_, ?_⟩ rfl rfl
    · rintro ⟨rfl, hrange⟩
      exact ⟨rfl, hon, hrange⟩
    · rintro ⟨hc, -, hrange⟩
      exact ⟨hc, hrange⟩

theorem TRec.foldl_armAt_xgrp (l : List Nat) (t : TubDie) :
    (l.foldl r.armAt t).xgrp c g = if c ∈ l ∧ r.Arms c g then ⟨r.x 34 1, 0, false⟩ else t.xgrp c g := by
  induction l generalizing t with
  | nil => rfl
  | cons ctl l ih =>
    rw [List.foldl_cons, ih, TRec.armAt_xgrp hgroups hg, ← ite_or]
    refine if_congr ?_ rfl rfl
    rw [List.mem_cons]
    tauto

/-- TARM arms its groups at the controllers of its die channels, and no others. -/
theorem State.opTarm_xgrp (s : State) (d : Nat) : ((s.opTarm d r).tubOf d).xgrp c g =
    if c < 8 ∧ r.Arms c g then ⟨r.x 34 1, 0, false⟩ else (s.tubOf d).xgrp c g := by
  have htub : (s.opTarm d r).tubOf d = (List.range 8).foldl r.armAt (s.tubOf d) := State.tubOf_updTub_same _ _ _
  rw [htub, TRec.foldl_armAt_xgrp hgroups hg]
  simp only [List.mem_range]

end

/-! ### The operations -/

section
variable {s : State} {l : TbList} {r : TRec} {d b : Nat} (hlist : s.listAt l.id = some l) (hcurrent : l.current = some r)
  (hrun : l.running = true) (hhome : s.listSpan l r 0 = some (d, b))
include hlist hcurrent hrun hhome

/-- A sum of squares of a core's or the host's list writes its results to the exchange window, one of a partial keeps it (R244, R285). -/
theorem exec_tsq {o : State × TOut} (hop : r.op = 6)
    (ho : (∀ k sh t rec, l.from_ ≠ .partialOf k sh t rec) ∧
        o = s.opTsq d l.tenant (NMode.ofNat l.nmode) (s.listSpan l r) r l.poisonIn ∨
      ∃ k sh t rec, l.from_ = .partialOf k sh t rec ∧ o = s.partialStep k sh t rec) :
    exec (.tsq l.id) s = .next (o.1.recordDone l d r o.2).serveWaiting.settle := by
  change execTsq l.id s = _
  rw [execTsq]
  refine State.recordStep_of_running hlist hcurrent hrun hhome hop _ ?_
  obtain ⟨hother, rfl⟩ | ⟨k, sh, t, rec, hfrom, rfl⟩ := ho
  · split
    next k sh t rec hfrom => exact absurd hfrom (hother k sh t rec)
    next => rfl
  · rw [hfrom]

theorem exec_tupd {k sh t rec : Nat} (hop : r.op = 7) (hfrom : l.from_ = .update k sh t rec) :
    exec (.tupd l.id) s =
      .next ((s.opTupd k (sh, t, rec)).1.recordDone l d r (s.opTupd k (sh, t, rec)).2).serveWaiting.settle := by
  change execTupd l.id s = _
  rw [execTupd]
  exact State.recordStep_of_running hlist hcurrent hrun hhome hop _ (by rw [hfrom])

theorem exec_tarm (hop : r.op = 8) : exec (.tarm l.id) s = .next ((s.opTarm d r).recordDone l d r TOut.none).serveWaiting.settle := by
  change execTarm l.id s = _
  rw [execTarm]
  exact State.recordStep_of_running hlist hcurrent hrun hhome hop _ (o := (s.opTarm d r, TOut.none)) rfl

end

/-- Settles O29: every operation is one step of a running record, so its end is the same for all; the groups of TARM are those of each
controller in turn. -/
theorem recordsEnd : Obligations.RecordsEnd := by
  refine ⟨?_, fun s l r d b hlist hcurrent hrun hhome hop hgroups => ?_⟩
  · intro s l r d b hlist hcurrent hrun hhome sp nm tew sub p hp hasked
    have hstep {i : Instr} {op : Nat} (f : TbList → Nat → TRec → State × TOut) (hi : exec i s = s.recordStep l.id op f)
        (hop : r.op = op) : exec i s = .next ((f l d r).1.recordDone l d r (f l d r).2).serveWaiting.settle :=
      hi.trans (State.recordStep_of_running hlist hcurrent hrun hhome hop f rfl)
    have htew {i : Instr} (n : Nat) (hi : exec i s = s.tewRow l.id n) (h : r.op = 5 ∧ sub = n) :
        exec i s = .next (tew.1.recordDone l d r tew.2).serveWaiting.settle :=
      hi.trans (State.tewRow_of_running hlist hcurrent hrun hhome h rfl)
    have hexec : exec p.2.1 s = .next (p.2.2.1.recordDone l d r p.2.2.2).serveWaiting.settle := by
      revert p
      rw [List.forall_mem_append]
      refine ⟨?_, ?_⟩
      · simp only [List.forall_mem_cons]
        refine ⟨hstep (fun l _ r => s.opTput l.tenant (s.listSpan l r) r l.fetch) rfl,
          hstep (fun l _ r => s.opTget l.tenant (s.listSpan l r) r) rfl, hstep (fun l d r => s.opTlatch d l.tenant r l.fetch) rfl,
          hstep (fun l d r => s.opTmv d l.tenant (NMode.ofNat l.nmode) (s.listSpan l r) r l.poisonIn) rfl,
          fun h => exec_tsq hlist hcurrent hrun hhome h.1 (.inl ⟨h.2, rfl⟩), exec_tarm hlist hcurrent hrun hhome,
          htew 0 rfl, htew 1 rfl, htew 2 rfl, htew 3 rfl, htew 4 rfl, htew 5 rfl, htew 6 rfl, htew 7 rfl, htew 8 rfl, htew 9 rfl,
          htew 10 rfl, List.forall_mem_nil _⟩
      · split
        next k sh t rec hfrom =>
          exact List.forall_mem_singleton.mpr (fun h => exec_tsq hlist hcurrent hrun hhome h (.inr ⟨k, sh, t, rec, hfrom, rfl⟩))
        next k sh t rec hfrom =>
          exact List.forall_mem_singleton.mpr (fun h => exec_tupd hlist hcurrent hrun hhome h hfrom)
        next => exact List.forall_mem_nil _
    exact ⟨_, hexec, State.recordDone_mem _ _ _ _ _, rfl, State.recordDone_records _ _ _ _ _, State.recordDone_holds _ _ _ _ _, rfl⟩
  · have hmem : ((s.opTarm d r).recordDone l d r TOut.none).mem = s.mem := by
      rw [State.recordDone_mem, State.opTarm, State.updTub_mem]
    have hcores : ((s.opTarm d r).recordDone l d r TOut.none).cores = s.cores := by
      rw [State.recordDone_cores, State.opTarm, State.updTub_cores]
    refine ⟨_, exec_tarm hlist hcurrent hrun hhome hop, hmem, hcores, fun c i hc htarget hi => ?_, fun c hc hoff g hg => ?_⟩
    · rw [State.recordDone_xgrp, State.opTarm_xgrp hgroups (by omega), if_pos ⟨hc, htarget, by omega, by omega⟩]
    · rw [State.recordDone_xgrp, State.opTarm_xgrp hgroups hg, if_neg (fun h => h.2.1 hoff)]

end Sys2Proof.Machine

/-!
PROOFS. What the operations on tiers leave (R257, R266, R267, R272, R275): the maps of 2 MiB pages, posts toward the host, the accounts
of tenants, and copies that are dropped.
-/

namespace Sys2Proof.Machine

/-! ### A state read back -/

theorem State.updTenant_tenant_same (s : State) (tn : Nat) (f : Tenant → Tenant) : (s.updTenant tn f).tenant tn = f (s.tenant tn) :=
  Sp.get_set_same _ _ _ _

@[simp] theorem State.t2At_setT2_same (s : State) (key : Nat) (x : T2Tensor) : (s.setT2 key x).t2At key = x := Sp.get_set_same _ _ _ _

theorem State.t2At_setT2_other (s : State) {k key : Nat} (x : T2Tensor) (h : k ≠ key) : (s.setT2 key x).t2At k = s.t2At k :=
  Sp.get_set_other _ _ _ h

theorem State.setT2_tenant (s : State) (key : Nat) (x : T2Tensor) (k : Nat) : (s.setT2 key x).tenant k = s.tenant k := rfl

theorem State.updTenant_t2At (s : State) (tn : Nat) (f : Tenant → Tenant) (k : Nat) : (s.updTenant tn f).t2At k = s.t2At k := rfl

theorem State.t2At_congr {s t : State} (h : t.t2 = s.t2) (k : Nat) : t.t2At k = s.t2At k := by rw [State.t2At, h, State.t2At]

section
variable (s : State) (kind : GKind)

@[simp] theorem State.guestSend_mem : (s.guestSend kind).1.mem = s.mem := rfl
@[simp] theorem State.guestSend_frames : (s.guestSend kind).1.frames = s.frames := rfl
@[simp] theorem State.guestSend_t2At (k : Nat) : (s.guestSend kind).1.t2At k = s.t2At k := rfl
@[simp] theorem State.guestSend_tiers : (s.guestSend kind).1.tiers = s.tiers := rfl
theorem State.guestSend_cmds : (s.guestSend kind).1.guest.cmds = s.guest.cmds ++ [⟨s.guest.nextTag, kind, s.now, false⟩] := rfl

end

section
variable {s t : State} (h : t.hostless = s.hostless)
include h

theorem State.t2_of_hostless : t.t2 = s.t2 := by
  change t.hostless.t2 = s.hostless.t2
  rw [h]

theorem State.tiers_of_hostless : t.tiers = s.tiers := by
  change t.hostless.tiers = s.hostless.tiers
  rw [h]

end

/-! ### Pages of 2 MiB mapped and unmapped -/

section
variable (s : State) (tenant va : Nat)

section
variable {β : Type} {p : State → β} (h : ∀ (s : State) pages cores, p { s with pages := pages, cores := cores } = p s)
include h

/-- Map entries, and caches without them, are all that changes. -/
theorem State.mapBig_keeps (moving : Bool) (f : Nat → PageTo) (l : List Nat) : p (s.mapBig tenant va moving f l) = p s := by
  induction l generalizing s with
  | nil => rfl
  | cons i l ih =>
    rw [State.mapBig, ih]
    exact h s _ _

theorem State.unmapBig_keeps (n : Nat) : p (s.unmapBig tenant va n) = p s := by
  unfold State.unmapBig
  exact foldl_keeps (fun s _ => h s _ _) _ s

end

variable (moving : Bool) (f : Nat → PageTo) (l : List Nat) (n k : Nat)

@[simp] theorem State.mapBig_t2 : (s.mapBig tenant va moving f l).t2 = s.t2 := State.mapBig_keeps s tenant va (fun _ _ _ => rfl) _ f l
@[simp] theorem State.mapBig_frames : (s.mapBig tenant va moving f l).frames = s.frames :=
  State.mapBig_keeps s tenant va (fun _ _ _ => rfl) moving f l
@[simp] theorem State.mapBig_tiers : (s.mapBig tenant va moving f l).tiers = s.tiers :=
  State.mapBig_keeps s tenant va (fun _ _ _ => rfl) moving f l
@[simp] theorem State.mapBig_tenant : (s.mapBig tenant va moving f l).tenant k = s.tenant k :=
  State.mapBig_keeps s tenant va (p := fun s => s.tenant k) (fun _ _ _ => rfl) moving f l
@[simp] theorem State.mapBig_t2At : (s.mapBig tenant va moving f l).t2At k = s.t2At k :=
  State.t2At_congr (s.mapBig_t2 tenant va moving f l) k

@[simp] theorem State.unmapBig_mem : (s.unmapBig tenant va n).mem = s.mem := State.unmapBig_keeps s tenant va (fun _ _ _ => rfl) n
@[simp] theorem State.unmapBig_frames : (s.unmapBig tenant va n).frames = s.frames :=
  State.unmapBig_keeps s tenant va (fun _ _ _ => rfl) n
@[simp] theorem State.unmapBig_t2At : (s.unmapBig tenant va n).t2At k = s.t2At k :=
  State.unmapBig_keeps s tenant va (p := fun s => s.t2At k) (fun _ _ _ => rfl) n
@[simp] theorem State.unmapBig_tenant : (s.unmapBig tenant va n).tenant k = s.tenant k :=
  State.unmapBig_keeps s tenant va (p := fun s => s.tenant k) (fun _ _ _ => rfl) n

end

/-! ### Posts toward the host -/

section
variable {β : Type} {p : State → β} (hhost : ∀ (s : State) o, p { s with hostOut := o } = p s)
  (hwatch : ∀ (s : State) w, p { s with watchOut := w } = p s)
  (htenant : ∀ (s : State) tn q w, p (s.setTenant tn { s.tenant tn with queues := q, waiting := w }) = p s)
include htenant

include hhost in
theorem State.flushQueue_keeps (s : State) (tn qn : Nat) : p (s.flushQueue tn qn) = p s := by
  unfold State.flushQueue
  dsimp only
  split
  · exact (htenant _ tn _ _).trans (hhost s _)
  · rfl

include hwatch in
theorem State.pushShadow_keeps (s : State) (tn qn : Nat) (e : W32 → Entry) : p (s.pushShadow tn qn e) = p s := by
  unfold State.pushShadow
  dsimp only
  split
  · exact (hwatch _ _).trans (htenant s tn _ _)
  · exact htenant s tn _ _

include hwatch in
theorem State.drainWaiting_keeps (s : State) (tn fuel : Nat) : p (s.drainWaiting tn fuel) = p s := by
  induction fuel generalizing s with
  | zero => rfl
  | succ fuel ih =>
    unfold State.drainWaiting
    dsimp only
    split
    · rfl
    · split
      · rw [ih, State.pushShadow_keeps hwatch htenant]
        exact htenant s tn _ _
      · rfl

include hhost hwatch

/-- A post changes what is on its way to host and watcher, and the queues and waiting entries of its tenant, alone. -/
theorem State.postEvent_keeps (s : State) (tn op : Nat) (detail : List (Nat × Nat × Nat)) : p (s.postEvent tn op detail) = p s := by
  rw [State.postEvent, State.post1, State.flushQueue_keeps hhost htenant, State.drainWaiting_keeps hwatch htenant]
  exact htenant s tn _ _

end

/-! ### The accounts of tenants (R272, R275) -/

/-- A tenant but for its queues and what waits for room in them. -/
def Tenant.account (x : Tenant) : Tenant := { x with queues := [], waiting := [] }

/-- A tenant whose over-quota state is up to date. -/
def Tenant.reported (x : Tenant) : Tenant :=
  { x with over1 := decide (x.quota1 < x.use1), over2 := decide (x.quota2 < x.use2), lastExcess := x.excess }

/-- The over-quota state that a tenant shows is that of its quotas and use. -/
def Tenant.UpToDate (x : Tenant) : Prop := x.over1 = decide (x.quota1 < x.use1) ∧ x.over2 = decide (x.quota2 < x.use2)

/-- What giving back tier-1 frames leaves of a tenant's account: the quotas, and the use of tier 2. -/
def Tenant.limits (x : Tenant) : Nat × Nat × Nat := (x.quota1, x.quota2, x.use2)

/-- A tenant read after a write that keeps what `f` shows of it shows the same. -/
theorem State.setTenant_keeps {β : Type} (f : Tenant → β) (s : State) (tn k : Nat) {x : Tenant} (h : f x = f (s.tenant tn)) :
    f ((s.setTenant tn x).tenant k) = f (s.tenant k) := by
  by_cases hk : k = tn
  · rw [hk, State.tenant_setTenant_same, h]
  · rw [State.tenant_setTenant_other _ _ hk]

section
variable (s : State) (tn k : Nat)

theorem State.postEvent_account (op : Nat) (detail : List (Nat × Nat × Nat)) :
    ((s.postEvent tn op detail).tenant k).account = (s.tenant k).account :=
  State.postEvent_keeps (p := fun s => (s.tenant k).account) (fun _ _ => rfl) (fun _ _ => rfl)
    (fun s t _ _ => s.setTenant_keeps Tenant.account t k rfl) s tn op detail

/-- A report brings the over-quota state of its tenant up to date, logs and posts, and changes nothing else. -/
theorem State.reportQuota_keeps {β : Type} {p : State → β} (hlog : ∀ (s : State) l, p { s with log := l } = p s)
    (hpost : ∀ (s : State) op detail, p (s.postEvent tn op detail) = p s) :
    p (s.reportQuota tn) = p (s.setTenant tn (s.tenant tn).reported) := by
  have hlogged (c : Prop) [Decidable c] (t : State) (a : List (Nat × Nat)) :
      p (if c then t.logAs 0x0D 0 0x0051 1 (some tn) a else t) = p t := by
    split
    · rw [State.logAs_eq]
      exact hlog t _
    · rfl
  unfold State.reportQuota
  dsimp only
  split
  · rw [hpost, hlogged]
    rfl
  · rw [hlogged]
    rfl

@[simp] theorem State.reportQuota_frames : (s.reportQuota tn).frames = s.frames :=
  s.reportQuota_keeps tn (p := State.frames) (fun _ _ => rfl) (fun s op detail =>
    State.postEvent_keeps (p := State.frames) (fun _ _ => rfl) (fun _ _ => rfl) (fun _ _ _ _ => rfl) s tn op detail)

@[simp] theorem State.reportQuota_mem : (s.reportQuota tn).mem = s.mem := State.mem_of_hostless (s.reportQuota_hostless tn)
@[simp] theorem State.reportQuota_t2At : (s.reportQuota tn).t2At k = s.t2At k :=
  State.t2At_congr (State.t2_of_hostless (s.reportQuota_hostless tn)) k

theorem State.reportQuota_account : ((s.reportQuota tn).tenant k).account = ((s.setTenant tn (s.tenant tn).reported).tenant k).account :=
  s.reportQuota_keeps tn (p := fun s => (s.tenant k).account) (fun _ _ => rfl) (fun s op detail => s.postEvent_account tn k op detail)

theorem State.reportQuota_upToDate : ((s.reportQuota tn).tenant tn).UpToDate := by
  have hreported : (s.tenant tn).reported.account.UpToDate := ⟨rfl, rfl⟩
  rw [← State.tenant_setTenant_same s tn (s.tenant tn).reported, ← State.reportQuota_account] at hreported
  exact hreported

@[simp] theorem State.reportQuota_limits : ((s.reportQuota tn).tenant k).limits = (s.tenant k).limits :=
  (congrArg Tenant.limits (s.reportQuota_account tn k)).trans (s.setTenant_keeps Tenant.limits tn k rfl)

@[simp] theorem State.freeFrames_limits (sel : Nat × Nat × FrameUse → Bool) :
    ((s.freeFrames tn sel).tenant k).limits = (s.tenant k).limits :=
  (State.reportQuota_limits _ tn k).trans (State.setTenant_keeps Tenant.limits { s with pages := _, frames := _ } tn k rfl)

@[simp] theorem State.freeFrames_t2 (sel : Nat × Nat × FrameUse → Bool) : (s.freeFrames tn sel).t2 = s.t2 :=
  State.t2_of_hostless (s.freeFrames_hostless tn sel)

@[simp] theorem State.freeFrames_t2At (sel : Nat × Nat × FrameUse → Bool) : (s.freeFrames tn sel).t2At k = s.t2At k :=
  State.t2At_congr (s.freeFrames_t2 tn sel) k

@[simp] theorem State.freeFrames_tiers (sel : Nat × Nat × FrameUse → Bool) : (s.freeFrames tn sel).tiers = s.tiers :=
  State.tiers_of_hostless (s.freeFrames_hostless tn sel)

end

/-! ### Copies dropped (R267, R270) -/

/-- A tensor without a promoted copy. -/
def T2Tensor.uncopied (x : T2Tensor) : T2Tensor := { x with copy := [] }

theorem T2Tensor.uncopied_of_nil {x : T2Tensor} (h : x.copy = []) : x.uncopied = x := by
  rw [T2Tensor.uncopied, ← h]

section
variable (s : State) (key k : Nat)

theorem State.dropCopy_t2 (h : (s.t2At key).copy ≠ []) : (s.dropCopy key).t2 = Sp.set T2Tensor.none s.t2 key (s.t2At key).uncopied := by
  simp [State.dropCopy, if_neg h, State.setT2, T2Tensor.uncopied]

@[simp] theorem State.dropCopy_t2At_same : (s.dropCopy key).t2At key = (s.t2At key).uncopied := by
  by_cases h : (s.t2At key).copy = []
  · rw [State.dropCopy, if_pos h, T2Tensor.uncopied_of_nil h]
  · rw [State.t2At, State.dropCopy_t2 _ _ h, Sp.get_set_same]

theorem State.dropCopy_t2At_other {k key : Nat} (hk : k ≠ key) : (s.dropCopy key).t2At k = s.t2At k := by
  by_cases h : (s.t2At key).copy = []
  · rw [State.dropCopy, if_pos h]
  · rw [State.t2At, State.dropCopy_t2 _ _ h, Sp.get_set_other _ _ _ hk, State.t2At]

/-- Of the tiers block a drop changes the count of drops alone. -/
theorem State.dropCopy_tiers : (s.dropCopy key).tiers = { s.tiers with drops := (s.dropCopy key).tiers.drops } := by
  by_cases h : (s.t2At key).copy = []
  · rw [State.dropCopy, if_pos h]
  · simp [State.dropCopy, if_neg h]

/-- A drop changes maps and caches, the tensor and the count of drops, and what giving the frames back changes. -/
theorem State.dropCopy_keeps {β : Type} {p : State → β}
    (hmaps : ∀ (s : State) pages cores, p { s with pages := pages, cores := cores } = p s)
    (hfree : ∀ (s : State) tn sel, p (s.freeFrames tn sel) = p s) (ht2 : ∀ (s : State) x, p (s.setT2 key x) = p s)
    (htiers : ∀ (s : State) x, p { s with tiers := x } = p s) : p (s.dropCopy key) = p s := by
  unfold State.dropCopy
  dsimp only
  split
  · rfl
  · rw [htiers, ht2, hfree]
    exact State.mapBig_keeps s _ _ hmaps _ _ _

@[simp] theorem State.dropCopy_limits : ((s.dropCopy key).tenant k).limits = (s.tenant k).limits :=
  s.dropCopy_keeps key (p := fun s => (s.tenant k).limits) (fun _ _ _ => rfl) (fun s tn sel => s.freeFrames_limits tn k sel)
    (fun _ _ => rfl) (fun _ _ => rfl)

@[simp] theorem State.stopPromotion_t2At : s.stopPromotion.t2At k = s.t2At k := by
  unfold State.stopPromotion
  split
  · rfl
  · exact State.freeFrames_t2At s _ k _

@[simp] theorem State.stopPromotion_limits : (s.stopPromotion.tenant k).limits = (s.tenant k).limits := by
  unfold State.stopPromotion
  split
  · rfl
  · exact State.freeFrames_limits s _ k _

end

end Sys2Proof.Machine

/-!
PROOFS. Seals and quotas (R258, R260, R271, R275): a tensor that goes, the answers to a seal, and quotas that change.
-/

namespace Sys2Proof.Machine

/-! ### Keys (R258) -/

theorem keyTenant_t2Key {id : Nat} (tn : Nat) (h : id < 2 ^ 24) : keyTenant (t2Key tn id) = tn := by
  unfold keyTenant t2Key
  omega

theorem entryField_lt (e : Entry) (off n : Nat) : entryField e off n < 2 ^ (8 * n) := Nat.mod_lt _ (Nat.two_pow_pos _)

/-! ### A tensor that goes (R258) -/

section
variable (s : State) (key : Nat)

@[simp] theorem State.t2Free_t2At_same : (s.t2Free key).t2At key = T2Tensor.none := by simp [State.t2Free]

theorem State.t2Free_t2At_other {k : Nat} (h : k ≠ key) : (s.t2Free key).t2At k = s.t2At k := by
  rw [State.t2Free, State.reportQuota_t2At, State.t2At_setT2_other _ _ h]
  exact s.unmapBig_t2At _ _ _ k

@[simp] theorem State.t2Free_mem : (s.t2Free key).mem = s.mem := by simp [State.t2Free]
@[simp] theorem State.t2Free_frames : (s.t2Free key).frames = s.frames := by simp [State.t2Free]

theorem State.t2Free_limits : ((s.t2Free key).tenant (keyTenant key)).limits =
    let x := s.tenant (keyTenant key)
    (x.quota1, x.quota2, x.use2 - (s.t2At key).pages.length) := by
  rw [State.t2Free, State.reportQuota_limits, State.setT2_tenant, State.updTenant_tenant_same, State.unmapBig_tenant]
  rfl

theorem State.t2Free_use2 : ((s.t2Free key).tenant (keyTenant key)).use2 =
    (s.tenant (keyTenant key)).use2 - (s.t2At key).pages.length := congrArg (fun l => l.2.2) (s.t2Free_limits key)

end

/-! ### The answer to a seal (R260) -/

/-- The state without the guest die's seal of a tensor, which has been answered. -/
def State.sealAnswered (s : State) (key : Nat) : State :=
  { s with guest := { s.guest with cmds := s.guest.cmds.filter (fun c => c.kind != GKind.seal key) } }

section
variable {s : State} {key : Nat} (hseal : (s.t2At key).state = .sealing)
include hseal

theorem State.sealCommit_failed : s.sealCommit key false =
    ((s.sealAnswered key).t2Free key).t2Finish (keyTenant key) (s.t2At key).sealCmd 8 := by
  simp only [State.sealCommit, hseal, ne_eq, not_true_eq_false, if_false, Bool.not_false, if_true, State.sealAnswered]

theorem State.sealCommit_unwritten (h : (s.t2At key).whole = false) : s.sealCommit key true =
    ((s.sealAnswered key).t2Free key).t2Finish (keyTenant key) (s.t2At key).sealCmd 6 := by
  simp [State.sealCommit, hseal, h, State.sealAnswered]

theorem State.sealCommit_checked (h : (s.t2At key).whole = true) : s.sealCommit key true =
    if crc32 (s.t2Bytes (s.t2At key)) ≠ (s.t2At key).crc then
      ((s.sealAnswered key).t2Free key).t2Finish (keyTenant key) (s.t2At key).sealCmd 7
    else ((s.sealAnswered key).setT2 key { s.t2At key with state := .sealed }).t2Finish (keyTenant key) (s.t2At key).sealCmd 0 := by
  simp only [State.sealCommit, hseal, h, ne_eq, not_true_eq_false, if_false, Bool.not_true, Bool.false_eq_true, State.sealAnswered]
  rfl

end

theorem exec_t2SealCommit (s : State) (tn id : Nat) (ok : Bool) :
    exec (.t2SealCommit tn id ok) s = .next (s.sealCommit (t2Key tn id) ok) := rfl

/-! ### Quotas (R271, R275, R414) -/

section
variable (s : State) (tn k : Nat)

theorem State.dropWhile_keeps {β : Type} {p : State → β} (hdrop : ∀ (s : State) key, p (s.dropCopy key) = p s) (sel : Nat → Bool)
    (cond : State → Bool) (fuel : Nat) : p (s.dropWhile sel cond fuel) = p s := by
  induction fuel generalizing s with
  | zero => rfl
  | succ fuel ih =>
    unfold State.dropWhile
    split
    · split
      · rfl
      · rw [ih, hdrop]
    · rfl

/-- Bringing the over-quota state up to date reports it, and drops copies and reports it again where the tenant is over quota. -/
theorem State.settleQuota_keeps {β : Type} {p : State → β} (hreport : ∀ (s : State), p (s.reportQuota tn) = p s)
    (htiers : ∀ (s : State) x, p { s with tiers := x } = p s) (hdrop : ∀ (s : State) key, p (s.dropCopy key) = p s) :
    p (s.settleQuota tn) = p s := by
  unfold State.settleQuota
  dsimp only
  split
  · rw [hreport, State.dropWhile_keeps _ hdrop, htiers, hreport]
  · exact hreport s

theorem State.settleQuota_upToDate : ((s.settleQuota tn).tenant tn).UpToDate := by
  unfold State.settleQuota
  dsimp only
  split
  · exact State.reportQuota_upToDate _ tn
  · exact s.reportQuota_upToDate tn

theorem State.settleQuota_limits : ((s.settleQuota tn).tenant k).limits = (s.tenant k).limits :=
  s.settleQuota_keeps tn (p := fun s => (s.tenant k).limits) (fun s => s.reportQuota_limits tn k) (fun _ _ => rfl)
    (fun s key => s.dropCopy_limits key k)

theorem State.settleQuota_mem : (s.settleQuota tn).mem = s.mem :=
  s.settleQuota_keeps tn (p := State.mem) (fun s => s.reportQuota_mem tn) (fun _ _ => rfl) State.dropCopy_mem

theorem State.setQuota_upToDate (tier pages : Nat) : ((s.setQuota tn tier pages).tenant tn).UpToDate := State.settleQuota_upToDate _ tn

theorem State.setQuota_limits (tier pages : Nat) : ((s.setQuota tn tier pages).tenant tn).limits =
    if tier = 1 then (pages % 2 ^ 23, (s.tenant tn).quota2, (s.tenant tn).use2)
    else ((s.tenant tn).quota1, pages % 2 ^ 23, (s.tenant tn).use2) := by
  rw [State.setQuota, State.settleQuota_limits]
  split <;> rw [State.tenant_setTenant_same] <;> rfl

theorem State.setQuota_mem (tier pages : Nat) : (s.setQuota tn tier pages).mem = s.mem := by
  rw [State.setQuota, State.settleQuota_mem]
  split <;> rfl

end

section
variable {s : State} {who : Who} {tn : Nat}

theorem exec_quotaChange_sets (hwho : who.isDriver = true ∨ who.isSteward = true) (hstate : (s.tenant tn).state ≠ 0) (tier pages : Nat) :
    exec (.quotaChange who tn tier pages) s = .next (s.setQuota tn tier pages) := by
  change execQuotaChange who tn tier pages s = _
  rcases hwho with hwho | hwho <;> simp [execQuotaChange, hwho, hstate]

theorem exec_quotaChange_discards (h : who.isDriver = false ∧ who.isSteward = false ∨ (s.tenant tn).state = 0) (tier pages : Nat) :
    exec (.quotaChange who tn tier pages) s = .next (s.logDiscard (tnAddr tn (if tier = 1 then 0x08 else 0x0C)) who true) := by
  change execQuotaChange who tn tier pages s = _
  rcases h with ⟨hdriver, hsteward⟩ | hstate
  · simp only [execQuotaChange, hdriver, hsteward, Bool.not_false, Bool.and_self, Bool.true_or, if_true]
  · simp only [execQuotaChange, hstate, beq_self_eq_true, Bool.or_true, if_true]

end

/-- Settles O31: a seal by what its answer and the checks give, and a quota by what settling it keeps of the tenant's limits. -/
theorem sealsAndQuotas : Obligations.SealsAndQuotas := by
  refine ⟨fun s tn id hid => ?_, fun s who tn tier pages => ⟨fun hwho hstate => ?_, fun h => exec_quotaChange_discards h tier pages⟩⟩
  · intro key x hseal
    have htenant : keyTenant key = tn := keyTenant_t2Key tn hid
    have hgone := (s.sealAnswered key).t2Free_t2At_same key
    have hmem := (s.sealAnswered key).t2Free_mem key
    refine ⟨fun hwhole hcrc => ?_, fun hwhole hcrc => ?_, fun hwhole => ?_, ?_⟩
    · refine ⟨(s.sealAnswered key).setT2 key { x with state := .sealed }, ?_, State.t2At_setT2_same _ _ _, rfl, rfl⟩
      rw [exec_t2SealCommit, State.sealCommit_checked hseal hwhole, if_neg (not_not_intro hcrc), htenant]
      rfl
    · refine ⟨(s.sealAnswered key).t2Free key, ?_, hgone, hmem⟩
      rw [exec_t2SealCommit, State.sealCommit_checked hseal hwhole, if_pos hcrc, htenant]
      rfl
    · refine ⟨(s.sealAnswered key).t2Free key, ?_, hgone, hmem⟩
      rw [exec_t2SealCommit, State.sealCommit_unwritten hseal hwhole, htenant]
      rfl
    · refine ⟨(s.sealAnswered key).t2Free key, ?_, hgone, hmem⟩
      rw [exec_t2SealCommit, State.sealCommit_failed hseal, htenant]
      rfl
  · obtain ⟨hover1, hover2⟩ := s.setQuota_upToDate tn tier pages
    have hlimits := s.setQuota_limits tn tier pages
    refine ⟨_, exec_quotaChange_sets hwho hstate tier pages, fun htier => ?_, fun htier => ?_, hover1, hover2, s.setQuota_mem tn tier pages⟩
    · rw [if_pos htier] at hlimits
      exact ⟨congrArg (fun l => l.1) hlimits, congrArg (fun l => l.2.1) hlimits⟩
    · rw [if_neg htier] at hlimits
      exact ⟨congrArg (fun l => l.2.1) hlimits, congrArg (fun l => l.1) hlimits⟩

end Sys2Proof.Machine

/-!
PROOFS. The tier-2 commands of a tenant (R258 to R260, R262, R388, R403, R407 to R409, R412): a command taken from queue 0, and what
opening, writing, sealing, aborting and deleting a tensor leave.
-/

namespace Sys2Proof.Machine

/-! ### A command taken (R388, R403, R407, R412) -/

theorem State.acceptCommand_of_form {s : State} {tn : Nat} {e : Entry} (h : cmdOk e ((s.tenant tn).queue 0).cons = true) :
    s.acceptCommand tn e = (s.accepted tn e).runCommand tn e := by
  have hindex : entryField e 4 4 = ((s.tenant tn).queue 0).cons.toNat := by
    simp only [cmdOk, Bool.and_eq_true, beq_iff_eq] at h
    obtain ⟨⟨⟨⟨hindex, -⟩, -⟩, -⟩, -⟩ := h
    exact hindex
  rw [State.acceptCommand, if_pos h, State.accepted, hindex]
  rfl

/-- The command at the head of queue 0 is taken and runs. -/
theorem State.Accepts.commandRow {s : State} {tn : Nat} {e : Entry} {op : Nat} (h : s.Accepts tn e op) :
    s.commandRow tn e op = .next ((s.accepted tn e).runCommand tn e) := by
  obtain ⟨hop, hform, hwaits, hfirst, htake⟩ := h
  have hnew : ((s.tenant tn).queue 0).prod ≠ ((s.tenant tn).queue 0).cons := by
    have hinput := hwaits
    simp only [State.inputWaits, Bool.and_eq_true, bne_iff_ne] at hinput
    exact hinput.2
  have hlisted : ¬ (((s.tenant tn).queue 0).prod - ((s.tenant tn).queue 0).cons).toNat ≤ 0 := by
    intro hzero
    exact hnew (by bv_omega)
  rw [State.commandRow]
  simp only [hop, hwaits, hfirst, htake, List.length_nil, hlisted, ne_eq, not_true_eq_false, false_and, Bool.true_eq_false, or_false,
    and_self, if_false, if_true]
  rw [State.acceptCommand_of_form hform]

section
variable {s : State} {tn : Nat} {e : Entry}

theorem State.Accepts.exec_t2Open (h : s.Accepts tn e 0x10) : exec (.t2Open tn e) s = .next ((s.accepted tn e).t2Open tn e) := by
  change s.commandRow tn e 0x10 = _
  rw [h.commandRow, State.runCommand, h.opcode]
  rfl

theorem State.Accepts.exec_t2Write (h : s.Accepts tn e 0x11) : exec (.t2Write tn e) s = .next ((s.accepted tn e).t2Write tn e) := by
  change s.commandRow tn e 0x11 = _
  rw [h.commandRow, State.runCommand, h.opcode]
  rfl

theorem State.Accepts.exec_t2Seal (h : s.Accepts tn e 0x12) : exec (.t2Seal tn e) s = .next ((s.accepted tn e).t2Seal tn e) := by
  change s.commandRow tn e 0x12 = _
  rw [h.commandRow, State.runCommand, h.opcode]
  rfl

theorem State.Accepts.exec_t2Abort (h : s.Accepts tn e 0x13) : exec (.t2Abort tn e) s = .next ((s.accepted tn e).t2Abort tn e) := by
  change s.commandRow tn e 0x13 = _
  rw [h.commandRow, State.runCommand, h.opcode]
  rfl

theorem State.Accepts.exec_t2Delete (h : s.Accepts tn e 0x14) : exec (.t2Delete tn e) s = .next ((s.accepted tn e).t2Delete tn e) := by
  change s.commandRow tn e 0x14 = _
  rw [h.commandRow, State.runCommand, h.opcode]
  rfl

end

/-- What of a tenant neither its queue 0, the window nor the open commands hold stands when a command is taken. -/
theorem State.accepted_tenant_keeps {β : Type} (f : Tenant → β)
    (hf : ∀ x q w c o, f { x with queues := q, takeWin := w, takeCount := c, open_ := o } = f x) (s : State) (tn : Nat) (e : Entry)
    (k : Nat) : f ((s.accepted tn e).tenant k) = f (s.tenant k) :=
  s.setTenant_keeps f tn k (hf (s.tenant tn) _ _ _ _)

/-! ### T2_OPEN (R258, R259) -/

/-- The key of the tensor that a tier-2 command names. -/
def commandKey (tn : Nat) (e : Entry) : Nat := t2Key tn (entryField e 16 3)

section
variable {s : State} {tn : Nat} {e : Entry}

/-- A tensor opened: it is Loading, with its size, and its pages are counted. -/
theorem State.t2Open_opens (hover1 : (s.tenant tn).over1 = false) (hover2 : (s.tenant tn).over2 = false)
    (habsent : (s.t2At (commandKey tn e)).state = .absent)
    (hquota : (s.tenant tn).use2 + ceilDiv (entryField e 24 8) pageSize ≤ (s.tenant tn).quota2)
    (hroom : s.t2Used + ceilDiv (entryField e 24 8) pageSize ≤ tier2Pages) :
    let key := commandKey tn e
    ∃ u : State, s.t2Open tn e = u.finish tn e 0 0 [] ∧ (u.t2At key).state = .loading ∧ (u.t2At key).size = entryField e 24 8 ∧
      (u.tenant tn).use2 = (s.tenant tn).use2 + ceilDiv (entryField e 24 8) pageSize ∧ (∀ k, k ≠ key → u.t2At k = s.t2At k) ∧
      u.mem = s.mem ∧ u.frames = s.frames := by
  intro key
  have hunder : ¬ ((s.tenant tn).over1 || (s.tenant tn).over2) = true := by simp [hover1, hover2]
  refine ⟨_, (if_neg hunder).trans ((if_neg (not_not_intro habsent)).trans ((if_neg (Nat.not_lt_of_le hquota)).trans
    (if_neg (Nat.not_lt_of_le hroom)))), ?_, ?_, ?_, fun k hk => ?_, ?_, ?_⟩
  · rw [State.updTenant_t2At, State.mapBig_t2At]
    exact congrArg T2Tensor.state (State.t2At_setT2_same _ key _)
  · rw [State.updTenant_t2At, State.mapBig_t2At]
    exact congrArg T2Tensor.size (State.t2At_setT2_same _ key _)
  · rw [State.updTenant_tenant_same, State.mapBig_tenant]
    rfl
  · rw [State.updTenant_t2At, State.mapBig_t2At]
    exact State.t2At_setT2_other _ _ hk
  · rw [State.updTenant_mem, State.mapBig_mem]
    rfl
  · rw [State.updTenant_frames, State.mapBig_frames]
    rfl

/-! ### T2_SEAL, T2_ABORT and T2_DELETE (R259, R260, R262) -/

/-- A tensor that the guest die is asked to check. -/
def T2Tensor.sealing (x : T2Tensor) (e : Entry) : T2Tensor := { x with
  state := .sealing, crc := entryField e 20 4, sealCmd := e, whole := (List.range x.units).all (fun i => Sp.get false x.stored i) }

/-- T2_SEAL of a loading tensor asks the guest die to check it, and stores nothing. -/
theorem State.t2Seal_asks (h : (s.t2At (commandKey tn e)).state = .loading) : ∃ t : State, s.t2Seal tn e = t ∧
    t.t2At (commandKey tn e) = (s.t2At (commandKey tn e)).sealing e ∧
    t.guest.cmds = s.guest.cmds ++ [⟨s.guest.nextTag, .seal (commandKey tn e), s.now, false⟩] ∧ t.mem = s.mem ∧ t.frames = s.frames := by
  refine ⟨((s.setT2 (commandKey tn e) ((s.t2At (commandKey tn e)).sealing e)).guestSend (.seal (commandKey tn e))).1,
    if_neg (not_not_intro h), ?_, ?_, ?_, ?_⟩
  · rw [State.guestSend_t2At, State.t2At_setT2_same]
  · rw [State.guestSend_cmds, State.setT2_guest, State.setT2_now]
  · rw [State.guestSend_mem, State.setT2_mem]
  · rw [State.guestSend_frames, State.setT2_frames]

theorem State.t2Abort_eq (h : (s.t2At (commandKey tn e)).state = .loading) :
    s.t2Abort tn e = (s.t2Free (commandKey tn e)).finish tn e 0 0 [] :=
  if_neg (not_not_intro h)

/-- The state once nothing works on the promotion of a tensor any more. -/
def State.unpromoted (s : State) (key : Nat) : State :=
  let t := match s.tiers.copying with
    | some (k, _) => if k = key then s.stopPromotion else s
    | none => s
  { t with tiers := { t.tiers with queue := t.tiers.queue.filter (fun q => q.1 != key) } }

/-- A tensor of which no copy is left, as it is being deleted. -/
def State.t2Deleting (s : State) (key : Nat) : State :=
  ((s.unpromoted key).dropCopy key).setT2 key { ((s.unpromoted key).dropCopy key).t2At key with state := .deleting }

theorem State.t2Delete_eq
    (hstate : (s.t2At (commandKey tn e)).state = .sealed ∨ (s.t2At (commandKey tn e)).state = .damaged)
    (hfree : s.t2InUse tn (entryField e 16 3) = false) :
    s.t2Delete tn e = ((s.t2Deleting (commandKey tn e)).t2Free (commandKey tn e)).finish tn e 0 0 [] := by
  have hkept : ¬ ((s.t2At (commandKey tn e)).state ≠ .sealed ∧ (s.t2At (commandKey tn e)).state ≠ .damaged) := by
    rcases hstate with hstate | hstate <;> simp [hstate]
  exact (if_neg hkept).trans (if_neg (Bool.not_eq_true _ ▸ hfree))

end

section
variable (s : State) (key k : Nat)

theorem State.unpromoted_keeps {β : Type} {p : State → β} (hstop : ∀ s : State, p s.stopPromotion = p s)
    (htiers : ∀ (s : State) x, p { s with tiers := x } = p s) : p (s.unpromoted key) = p s := by
  unfold State.unpromoted
  dsimp only
  rw [htiers]
  split
  · split
    · exact hstop s
    · rfl
  · rfl

theorem State.t2Deleting_mem : (s.t2Deleting key).mem = s.mem := by
  rw [State.t2Deleting, State.setT2_mem, State.dropCopy_mem]
  exact s.unpromoted_keeps key (p := State.mem) State.stopPromotion_mem (fun _ _ => rfl)

theorem State.unpromoted_t2At : (s.unpromoted key).t2At k = s.t2At k :=
  s.unpromoted_keeps key (p := fun s => s.t2At k) (fun s => s.stopPromotion_t2At k) (fun _ _ => rfl)

theorem State.t2Deleting_pages : ((s.t2Deleting key).t2At key).pages = (s.t2At key).pages := by
  rw [State.t2Deleting, State.t2At_setT2_same, State.dropCopy_t2At_same, State.unpromoted_t2At]
  rfl

theorem State.t2Deleting_t2At_other {k key : Nat} (h : k ≠ key) : (s.t2Deleting key).t2At k = s.t2At k := by
  rw [State.t2Deleting, State.t2At_setT2_other _ _ h, State.dropCopy_t2At_other _ h, State.unpromoted_t2At]

theorem State.t2Deleting_use2 : ((s.t2Deleting key).tenant k).use2 = (s.tenant k).use2 := by
  have hlimits : ((s.unpromoted key).tenant k).limits = (s.tenant k).limits :=
    s.unpromoted_keeps key (p := fun s => (s.tenant k).limits) (fun s => s.stopPromotion_limits k) (fun _ _ => rfl)
  rw [← State.dropCopy_limits (s.unpromoted key) key k] at hlimits
  exact congrArg (fun l => l.2.2) hlimits

end

/-! ### T2_WRITE (R259, R260, R264) -/

/-- The units of a T2_WRITE marked, or their marks taken back. -/
def markUnits (v : Bool) (first n : Nat) (w : Sp Bool) : Sp Bool := (List.range n).foldl (fun w i => Sp.set false w (first + i) v) w

theorem get_markUnits (v : Bool) {first n i : Nat} (w : Sp Bool) (h : i < n) : Sp.get false (markUnits v first n w) (first + i) = v :=
  Sp.get_foldl_set false (fun i => first + i) (fun _ => v) (List.range n) w (fun _ _ _ => rfl) (.inr ⟨i, List.mem_range.mpr h, rfl⟩)

/-- A tensor but for its heat. -/
def T2Tensor.unheated (x : T2Tensor) : T2Tensor := { x with heat := [] }

theorem T2Tensor.heatRead_unheated (x : T2Tensor) (va n : Nat) : (x.heatRead va n).unheated = x.unheated := by
  unfold T2Tensor.heatRead
  split <;> rfl

section
variable {β : Type} {p : State → β}

theorem State.noteRead_keeps (hmc : ∀ (s : State) m, p { s with mc := m } = p s) (hpoison : ∀ (s : State) l, p { s with poison := l } = p s)
    (s : State) (a n : Nat) : p (s.noteRead a n) = p s := by
  have hbursts (n : Nat) : ∀ (s : State) (b : Nat), p (s.noteBursts b 1 n) = p s := by
    induction n with
    | zero => exact fun _ _ => rfl
    | succ n ih =>
      intro s b
      rw [State.noteBursts, ih, State.noteBurst_keeps hmc hpoison]
      exact hmc s _
  unfold State.noteRead
  split
  · exact hbursts _ s _
  · rfl

theorem State.heatRead_keeps (hheat : ∀ (s : State) k va n, p (s.updT2 k (fun x => x.heatRead va n)) = p s) (s : State)
    (tenant va n : Nat) : p (s.heatRead tenant va n) = p s := by
  unfold State.heatRead
  dsimp only
  split
  · exact hheat s _ _ _
  · split
    · exact hheat s _ _ _
    · rfl
  · rfl

/-- A read of a virtual range changes controllers, poison marks and the heat of tensors alone. -/
theorem State.noteVirt_keeps (hmc : ∀ (s : State) m, p { s with mc := m } = p s) (hpoison : ∀ (s : State) l, p { s with poison := l } = p s)
    (hheat : ∀ (s : State) k va n, p (s.updT2 k (fun x => x.heatRead va n)) = p s) (s : State) (tenant va n fuel : Nat) :
    p (s.noteVirt tenant va n fuel) = p s := by
  induction fuel generalizing s va n with
  | zero => rfl
  | succ fuel ih =>
    unfold State.noteVirt
    dsimp only
    split
    · rfl
    · rw [ih]
      split
      · rw [State.noteRead_keeps hmc hpoison, State.heatRead_keeps hheat]
      · exact State.heatRead_keeps hheat s _ _ _

end

section
variable (s : State) (tenant va n fuel : Nat)

theorem State.noteVirt_mem : (s.noteVirt tenant va n fuel).mem = s.mem :=
  State.noteVirt_keeps (p := State.mem) (fun _ _ => rfl) (fun _ _ => rfl) (fun _ _ _ _ => rfl) s tenant va n fuel

theorem State.noteVirt_now : (s.noteVirt tenant va n fuel).now = s.now :=
  State.noteVirt_keeps (p := State.now) (fun _ _ => rfl) (fun _ _ => rfl) (fun _ _ _ _ => rfl) s tenant va n fuel

theorem State.noteVirt_guest : (s.noteVirt tenant va n fuel).guest = s.guest :=
  State.noteVirt_keeps (p := State.guest) (fun _ _ => rfl) (fun _ _ => rfl) (fun _ _ _ _ => rfl) s tenant va n fuel

theorem State.noteVirt_t2At (k : Nat) : ((s.noteVirt tenant va n fuel).t2At k).unheated = (s.t2At k).unheated := by
  refine State.noteVirt_keeps (p := fun s => (s.t2At k).unheated) (fun _ _ => rfl) (fun _ _ => rfl) (fun s j va n => ?_) s tenant va n fuel
  by_cases hk : k = j
  · rw [hk, State.updT2, State.t2At_setT2_same, T2Tensor.heatRead_unheated]
  · rw [State.updT2, State.t2At_setT2_other _ _ hk]

end

/-- What a T2_WRITE needs so that it is taken: its units lie in a tensor that is loading and are not yet written, and its bytes in a
region. -/
structure T2Tensor.TakesWrite (x : T2Tensor) (e : Entry) (rg : Region) : Prop where
  nonempty : entryField e 24 4 ≠ 0
  few : entryField e 24 4 ≤ 65536
  loading : x.state = .loading
  fits : entryField e 20 4 + entryField e 24 4 ≤ x.units
  fresh : ∀ i, i < entryField e 24 4 → Sp.get false x.written (entryField e 20 4 + i) = false
  given : rg.len ≠ 0
  inside : entryField e 32 8 + min (entryField e 24 4 * 4096) (x.size - entryField e 20 4 * 4096) ≤ rg.len

/-- The bytes that a T2_WRITE reads: its units, up to the end of the tensor. -/
def T2Tensor.writeLen (x : T2Tensor) (e : Entry) : Nat := min (entryField e 24 4 * 4096) (x.size - entryField e 20 4 * 4096)

/-- A tensor with the units of a T2_WRITE marked as written. -/
def T2Tensor.marked (x : T2Tensor) (e : Entry) : T2Tensor :=
  { x with written := markUnits true (entryField e 20 4) (entryField e 24 4) x.written }

/-- The bytes that a T2_WRITE stores, zero-padded behind the tensor's last byte. -/
def T2Tensor.padded (x : T2Tensor) (e : Entry) (data : List Byte) : List Byte :=
  data.take (x.size - entryField e 20 4 * 4096) ++ zeros (entryField e 20 4 * 4096 + entryField e 24 4 * 4096 - x.size)

/-- Memory once the units of a T2_WRITE hold its bytes. -/
def T2Tensor.storing (x : T2Tensor) (e : Entry) (data : List Byte) (mem : Sp Byte) : Sp Byte :=
  (List.range (entryField e 24 4)).foldl (fun m i =>
    wrBytes m (x.unitAddr (entryField e 20 4 + i)) (((x.padded e data).drop (4096 * i)).take 4096)) mem

section
variable (s : State) (tn : Nat) (e : Entry)

/-- The state once the units of a T2_WRITE are marked. -/
def State.t2Marked : State := s.setT2 (commandKey tn e) ((s.t2At (commandKey tn e)).marked e)

/-- The address and the length of what a T2_WRITE reads of a device region. -/
def State.t2From : Nat × Nat :=
  (((s.tenant tn).region (entryField e 28 1)).va + entryField e 32 8, (s.t2At (commandKey tn e)).writeLen e)

/-- What a T2_WRITE reads of a device region, and whether it is poisoned. -/
def State.t2Source : List Byte × Bool :=
  (s.t2Marked tn e).readVirt tn (s.t2From tn e).1 (s.t2From tn e).2 ((s.t2From tn e).2 / 64 + 2)

/-- The state once that read is noted. -/
def State.t2Noted : State :=
  (s.t2Marked tn e).noteVirt tn (s.t2From tn e).1 (s.t2From tn e).2 ((s.t2From tn e).2 / 64 + 2)

/-- The state once the bytes that a T2_WRITE has read stand in the flash, and the guest die has been told. -/
def State.t2Storing (data : List Byte) : State :=
  (State.guestSend { s with mem := (s.t2At (commandKey tn e)).storing e data s.mem } (.write tn e)).1

end

section
variable {s : State} {tn : Nat} {e : Entry} {data : List Byte} (h : (s.t2At (commandKey tn e)).state = .loading)
include h

/-- Poisoned data is not stored, and the units may be written again. -/
theorem State.t2Store_poisoned : s.t2Store tn e data true = (s.setT2 (commandKey tn e) { s.t2At (commandKey tn e) with
    written := markUnits false (entryField e 20 4) (entryField e 24 4) (s.t2At (commandKey tn e)).written }).finish tn e 5 0 [] :=
  (if_neg (not_not_intro h)).trans (if_pos rfl)

theorem State.t2Store_stores : s.t2Store tn e data false = s.t2Storing tn e data :=
  (if_neg (not_not_intro h)).trans (if_neg Bool.false_ne_true)

end

/-! ### What a T2_WRITE leaves (R259, R260) -/

section
variable {s : State} {tn : Nat} {e : Entry}

section
variable (h : (s.t2At (commandKey tn e)).TakesWrite e ((s.tenant tn).region (entryField e 28 1)))
include h

/-- A T2_WRITE taken: its units are marked, and its bytes come from the host, or from a device region at once. -/
theorem State.t2Write_eq : s.t2Write tn e =
    if ((s.tenant tn).region (entryField e 28 1)).host then
      ((s.t2Marked tn e).dmaRead (.t2write tn e) (((s.tenant tn).region (entryField e 28 1)).base + entryField e 32 8) (s.t2From tn e).2).1
    else ((s.t2Noted tn e).t2Store tn e (s.t2Source tn e).1 (s.t2Source tn e).2).settle := by
  obtain ⟨hnonempty, hfew, hloading, hfits, hfresh, hgiven, hinside⟩ := h
  have hsize : ¬ (entryField e 24 4 = 0 ∨ 65536 < entryField e 24 4) := by omega
  have hunits : ¬ (List.range (entryField e 24 4)).any
      (fun i => Sp.get false (s.t2At (commandKey tn e)).written (entryField e 20 4 + i)) = true := by
    simpa using hfresh
  have hregion : ¬ (((s.tenant tn).region (entryField e 28 1)).len = 0 ∨
      ((s.tenant tn).region (entryField e 28 1)).len < entryField e 32 8 + (s.t2At (commandKey tn e)).writeLen e) :=
    not_or.mpr ⟨hgiven, Nat.not_lt_of_le hinside⟩
  exact (if_neg hsize).trans ((if_neg (not_not_intro hloading)).trans ((if_neg (Nat.not_lt_of_le hfits)).trans
    ((if_neg hunits).trans (if_neg hregion))))

end

theorem State.t2Noted_t2At : ((s.t2Noted tn e).t2At (commandKey tn e)).unheated = ((s.t2At (commandKey tn e)).marked e).unheated := by
  rw [State.t2Noted, State.noteVirt_t2At, State.t2Marked, State.t2At_setT2_same]

/-- A T2_WRITE from a host region reads the host first. -/
theorem State.t2Marked_dmaRead (use : DmaUse) (addr len : Nat) :
    let t := ((s.t2Marked tn e).dmaRead use addr len).1
    t.mem = s.mem ∧ t.t2At (commandKey tn e) = (s.t2At (commandKey tn e)).marked e ∧
      t.hl.dma = s.hl.dma ++ [⟨s.hl.nextDma, use, addr, len, s.now⟩] := by
  refine ⟨?_, State.t2At_setT2_same s _ _, ?_⟩
  · rw [State.dmaRead, State.t2Marked, State.setT2_mem]
  · rw [State.dmaRead, State.t2Marked, State.setT2_hl, State.setT2_now]

theorem State.t2Noted_loading (h : (s.t2At (commandKey tn e)).state = .loading) :
    ((s.t2Noted tn e).t2At (commandKey tn e)).state = .loading :=
  (congrArg T2Tensor.state State.t2Noted_t2At).trans h

theorem State.t2Noted_written : ((s.t2Noted tn e).t2At (commandKey tn e)).written = ((s.t2At (commandKey tn e)).marked e).written := by
  have hkept := congrArg T2Tensor.written (State.t2Noted_t2At (s := s) (tn := tn) (e := e))
  exact hkept

theorem State.t2Noted_mem : (s.t2Noted tn e).mem = s.mem := by rw [State.t2Noted, State.noteVirt_mem, State.t2Marked, State.setT2_mem]

theorem State.t2Noted_guest : (s.t2Noted tn e).guest = s.guest := by
  rw [State.t2Noted, State.noteVirt_guest, State.t2Marked, State.setT2_guest]

theorem State.t2Noted_now : (s.t2Noted tn e).now = s.now := by rw [State.t2Noted, State.noteVirt_now, State.t2Marked, State.setT2_now]

/-- Where the units of a tensor lie, the read does not change. -/
theorem State.t2Noted_storing_mem (data : List Byte) :
    ((s.t2Noted tn e).t2Storing tn e data).mem = (s.t2At (commandKey tn e)).storing e data s.mem := by
  have hplaces := congrArg (fun x : T2Tensor => x.storing e data s.mem) (State.t2Noted_t2At (s := s) (tn := tn) (e := e))
  change ((s.t2Noted tn e).t2At (commandKey tn e)).storing e data (s.t2Noted tn e).mem = _
  rw [State.t2Noted_mem]
  exact hplaces

/-- The tensor is still loading, with its units marked. -/
theorem State.t2Noted_storing_t2At (h : (s.t2At (commandKey tn e)).state = .loading) (data : List Byte) :
    let y := ((s.t2Noted tn e).t2Storing tn e data).t2At (commandKey tn e)
    y.state = .loading ∧ y.written = ((s.t2At (commandKey tn e)).marked e).written :=
  ⟨State.t2Noted_loading h, State.t2Noted_written⟩

theorem State.t2Noted_storing_cmds (data : List Byte) : ((s.t2Noted tn e).t2Storing tn e data).guest.cmds =
    s.guest.cmds ++ [⟨s.guest.nextTag, .write tn e, s.now, false⟩] := by
  rw [State.t2Storing, State.guestSend_cmds, State.t2Noted_guest, State.t2Noted_now]

end

/-- Settles O30: each command is taken from its queue, and then does to the state it finds what its own lemma says. -/
theorem tierTwoCommands : Obligations.TierTwoCommands := by
  intro s tn e key x
  have htenant : keyTenant key = tn := keyTenant_t2Key tn (entryField_lt e 16 3)
  have huse : ((s.accepted tn e).tenant tn).use2 = (s.tenant tn).use2 :=
    State.accepted_tenant_keeps Tenant.use2 (fun _ _ _ _ _ => rfl) s tn e tn
  refine ⟨?_, ?_, fun hacc hloading => ?_, fun hacc hloading => ?_, fun hacc hstate hfree => ?_⟩
  · intro hacc n hover1 hover2 habsent hquota hroom
    have hquota2 : ((s.accepted tn e).tenant tn).quota2 = (s.tenant tn).quota2 :=
      State.accepted_tenant_keeps Tenant.quota2 (fun _ _ _ _ _ => rfl) s tn e tn
    obtain ⟨u, hopen, hstate, hsize, hcount, hothers, hmem, hframes⟩ := State.t2Open_opens (s := s.accepted tn e) (e := e)
      ((State.accepted_tenant_keeps Tenant.over1 (fun _ _ _ _ _ => rfl) s tn e tn).trans hover1)
      ((State.accepted_tenant_keeps Tenant.over2 (fun _ _ _ _ _ => rfl) s tn e tn).trans hover2) habsent
      (by rw [huse, hquota2]; exact hquota) hroom
    rw [huse] at hcount
    exact ⟨u, hacc.exec_t2Open.trans (congrArg Host.Outcome.next hopen), hstate, hsize, hcount, hothers, hmem, hframes⟩
  · intro hacc first n rg off len marks v d bs hnonempty hfew hloading hfits hfresh hgiven hinside
    have hregion : ((s.accepted tn e).tenant tn).region (entryField e 28 1) = rg :=
      State.accepted_tenant_keeps (fun y => y.region (entryField e 28 1)) (fun _ _ _ _ _ => rfl) s tn e tn
    have hwrite := State.t2Write_eq (s := s.accepted tn e) (tn := tn) (e := e)
      (hregion ▸ ⟨hnonempty, hfew, hloading, hfits, hfresh, hgiven, hinside⟩)
    have hsource : (s.accepted tn e).t2Source tn e = d := by rw [State.t2Source, State.t2From, hregion]; rfl
    have hnoted := State.t2Noted_loading (s := s.accepted tn e) (tn := tn) (e := e) hloading
    rw [hregion, hsource] at hwrite
    refine ⟨fun hhost => ?_, fun hdev hclean => ?_, fun hdev hpoison => ?_⟩
    · rw [if_pos hhost] at hwrite
      exact ⟨_, hacc.exec_t2Write.trans (congrArg Host.Outcome.next hwrite), State.t2Marked_dmaRead _ _ _⟩
    · rw [hdev, if_neg Bool.false_ne_true, hclean, State.t2Store_stores hnoted] at hwrite
      obtain ⟨hstate, hwritten⟩ := State.t2Noted_storing_t2At (s := s.accepted tn e) (tn := tn) (e := e) hloading d.1
      exact ⟨_, hacc.exec_t2Write.trans (congrArg Host.Outcome.next hwrite), hstate, hwritten, State.t2Noted_storing_mem d.1,
        State.t2Noted_storing_cmds d.1⟩
    · rw [hdev, if_neg Bool.false_ne_true, hpoison, State.t2Store_poisoned hnoted] at hwrite
      refine ⟨_, hacc.exec_t2Write.trans (congrArg Host.Outcome.next hwrite), State.t2Noted_mem, ?_, fun i hi => ?_⟩
      · exact (congrArg T2Tensor.state (State.t2At_setT2_same _ key _)).trans hnoted
      · exact (congrArg (fun y : T2Tensor => Sp.get false y.written (entryField e 20 4 + i)) (State.t2At_setT2_same _ key _)).trans
          (get_markUnits false _ hi)
  · obtain ⟨t, hseal, hasks⟩ := State.t2Seal_asks (s := s.accepted tn e) hloading
    exact ⟨t, hacc.exec_t2Seal.trans (congrArg Host.Outcome.next hseal), hasks⟩
  · refine ⟨_, hacc.exec_t2Abort.trans (congrArg Host.Outcome.next (State.t2Abort_eq hloading)), State.t2Free_t2At_same _ key, ?_,
      fun k hk => State.t2Free_t2At_other _ key hk, State.t2Free_mem _ key, State.t2Free_frames _ key⟩
    have hcount := (s.accepted tn e).t2Free_use2 key
    rw [htenant, huse] at hcount
    exact hcount
  · refine ⟨_, hacc.exec_t2Delete.trans (congrArg Host.Outcome.next (State.t2Delete_eq hstate hfree)), State.t2Free_t2At_same _ key, ?_,
      fun k hk => ?_, ?_⟩
    · have hcount := ((s.accepted tn e).t2Deleting key).t2Free_use2 key
      rw [htenant, State.t2Deleting_use2, State.t2Deleting_pages, huse] at hcount
      exact hcount
    · exact (State.t2Free_t2At_other _ key hk).trans (State.t2Deleting_t2At_other _ hk)
    · exact (State.t2Free_mem _ key).trans (State.t2Deleting_mem _ key)

end Sys2Proof.Machine

/-!
PROOFS. Heat and promotion (R223, R264 to R267, R270, R272): the end of a heat epoch, frames given to a copy, and the copy made.
-/

namespace Sys2Proof

/-! ### Keys of a table -/

section
variable {α : Type}

theorem Sp.get_of_notMem {d : α} {t : Sp α} {k : Nat} (h : k ∉ t.map (·.1)) : Sp.get d t k = d := by
  by_contra hne
  exact h (List.mem_map_of_mem (Sp.mem_of_get_ne hne))

/-- What holds of every listed key of a table holds of every key, for a function that leaves what no key is listed for. -/
theorem Sp.get_listed {d : α} {f : α → α} (hf : f d = d) (t : Sp α) (k : Nat) :
    (if k ∈ t.map (·.1) then f (Sp.get d t k) else Sp.get d t k) = f (Sp.get d t k) := by
  split
  next => rfl
  next hk => rw [Sp.get_of_notMem hk, hf]

variable [DecidableEq α]

/-- A table in canonical form lists no key twice. -/
theorem Sp.keys_nodup {d : α} {lo : Option Nat} {t : Sp α} (h : Sp.wfFrom d lo t = true) : (t.map (·.1)).Nodup := by
  induction t generalizing lo with
  | nil => exact List.nodup_nil
  | cons p t ih =>
    obtain ⟨j, v⟩ := p
    have htail : Sp.wfFrom d (some j) t = true := by
      unfold Sp.wfFrom at h
      exact (Bool.and_eq_true_iff.mp h).2
    refine List.nodup_cons.mpr ⟨fun hmem => ?_, ih htail⟩
    obtain ⟨e, he, hkey⟩ := List.mem_map.mp hmem
    exact Nat.ne_of_gt (Sp.lt_of_wfFrom htail e he) hkey

end

end Sys2Proof

namespace Sys2Proof.Machine

/-! ### The end of a heat epoch (R265) -/

/-- A tensor at the end of an epoch, before its counters are halved: an unpinned one below the drop threshold has no copy. -/
def T2Tensor.cooled (drop : Nat) (x : T2Tensor) : T2Tensor := if x.cls = 0 ∧ x.meanHeat < drop then x.uncopied else x

theorem T2Tensor.cooled_cases (drop : Nat) (x : T2Tensor) : x.cooled drop = x.uncopied ∨ x.cooled drop = x := by
  unfold T2Tensor.cooled
  split
  · exact .inl rfl
  · exact .inr rfl

theorem T2Tensor.cooled_cooled (drop : Nat) (x : T2Tensor) : (x.cooled drop).cooled drop = x.cooled drop := by
  rcases x.cooled_cases drop with h | h
  · rw [h]
    rcases x.uncopied.cooled_cases drop with h' | h' <;> exact h'
  · rw [h, h]

theorem T2Tensor.cooled_heat (drop : Nat) (x : T2Tensor) : (x.cooled drop).heat = x.heat := by
  rcases x.cooled_cases drop with h | h <;> rw [h]
  rfl

theorem T2Tensor.cooled_none (drop : Nat) : T2Tensor.none.cooled drop = T2Tensor.none := by
  rcases T2Tensor.none.cooled_cases drop with h | h <;> exact h

section
variable (s : State) (key k : Nat)

/-- At the end of an epoch a tensor's copy is dropped, the tensor is queued, or nothing happens. -/
theorem State.epochTensor_cases : (s.t2At key).cooled s.tiers.drop = (s.t2At key).uncopied ∧ s.epochTensor key = s.dropCopy key ∨
    (s.t2At key).cooled s.tiers.drop = s.t2At key ∧ ∃ q, s.epochTensor key = { s with tiers := { s.tiers with queue := q } } := by
  unfold State.epochTensor
  dsimp only
  split
  next hcls => exact .inr ⟨if_neg (fun h => hcls h.1), s.tiers.queue, rfl⟩
  next hcls =>
    split
    next hcopy =>
      have hsame : (s.t2At key).cooled s.tiers.drop = s.t2At key := by
        unfold T2Tensor.cooled
        split
        · exact T2Tensor.uncopied_of_nil hcopy
        · rfl
      refine .inr ⟨hsame, ?_⟩
      split
      · exact ⟨_, rfl⟩
      · exact ⟨s.tiers.queue, rfl⟩
    next =>
      split
      next hcool => exact .inl ⟨if_pos ⟨not_not.mp hcls, hcool⟩, rfl⟩
      next hwarm => exact .inr ⟨if_neg (fun h => hwarm h.2), s.tiers.queue, rfl⟩

theorem State.epochTensor_t2At : (s.epochTensor key).t2At k = if k = key then (s.t2At k).cooled s.tiers.drop else s.t2At k := by
  rcases s.epochTensor_cases key with ⟨hcool, hdrop⟩ | ⟨hwarm, q, hqueue⟩
  · split
    next hk => rw [hk, hdrop, State.dropCopy_t2At_same, hcool]
    next hk => rw [hdrop, State.dropCopy_t2At_other _ hk]
  · rw [hqueue]
    split
    next hk =>
      rw [hk, hwarm]
      rfl
    next => rfl

theorem State.epochTensor_mem : (s.epochTensor key).mem = s.mem := by
  rcases s.epochTensor_cases key with ⟨-, hdrop⟩ | ⟨-, q, hqueue⟩
  · rw [hdrop, State.dropCopy_mem]
  · rw [hqueue]

theorem State.epochTensor_tiers : (s.epochTensor key).tiers.drop = s.tiers.drop ∧ (s.epochTensor key).tiers.epoch = s.tiers.epoch := by
  rcases s.epochTensor_cases key with ⟨-, hdrop⟩ | ⟨-, q, hqueue⟩
  · rw [hdrop, State.dropCopy_tiers]
    exact ⟨rfl, rfl⟩
  · rw [hqueue]
    exact ⟨rfl, rfl⟩

theorem State.epochTensor_wf (h : Sp.wf T2Tensor.none s.t2 = true) : Sp.wf T2Tensor.none (s.epochTensor key).t2 = true := by
  rcases s.epochTensor_cases key with ⟨-, hdrop⟩ | ⟨-, q, hqueue⟩
  · rw [hdrop]
    by_cases hcopy : (s.t2At key).copy = []
    · rw [State.dropCopy, if_pos hcopy]
      exact h
    · rw [State.dropCopy_t2 _ _ hcopy]
      exact Sp.wf_set _ _ _ _ h
  · rw [hqueue]
    exact h

end

/-- The tensors of the keys listed, each at the end of its epoch. -/
theorem State.foldl_epochTensor_t2At (l : List Nat) (s : State) (k : Nat) : (l.foldl (fun s k => s.epochTensor k) s).t2At k =
    if k ∈ l then (s.t2At k).cooled s.tiers.drop else s.t2At k := by
  induction l generalizing s with
  | nil => simp
  | cons j l ih =>
    rw [List.foldl_cons, ih, (s.epochTensor_tiers j).1, State.epochTensor_t2At]
    by_cases hj : k = j
    · simp [hj, T2Tensor.cooled_cooled]
    · simp [hj]

theorem State.foldl_epochTensor_wf (l : List Nat) (s : State) (h : Sp.wf T2Tensor.none s.t2 = true) :
    Sp.wf T2Tensor.none (l.foldl (fun s k => s.epochTensor k) s).t2 = true := by
  induction l generalizing s with
  | nil => exact h
  | cons j l ih => exact ih _ (s.epochTensor_wf j h)

theorem State.foldl_halve_t2At {l : List Nat} (hl : l.Nodup) (s : State) (k : Nat) :
    (l.foldl (fun s k => s.updT2 k T2Tensor.halve) s).t2At k = if k ∈ l then (s.t2At k).halve else s.t2At k := by
  induction l generalizing s with
  | nil => simp
  | cons j l ih =>
    obtain ⟨hj, hl⟩ := List.nodup_cons.mp hl
    rw [List.foldl_cons, ih hl, State.updT2]
    by_cases hk : k = j
    · rw [hk, if_neg hj, if_pos List.mem_cons_self, State.t2At_setT2_same]
    · simp [State.t2At_setT2_other _ _ hk, hk]

/-- The state at the end of an epoch: the next one begun, each tensor cooled, and each tensor's counters halved. -/
def State.epochBegun (s : State) : State := { s with tiers := { s.tiers with epoch := s.tiers.epochEnd } }
def State.tensorsCooled (s : State) : State := (s.t2.map (·.1)).foldl (fun s k => s.epochTensor k) s
def State.countersHalved (s : State) : State := (s.t2.map (·.1)).foldl (fun s k => s.updT2 k T2Tensor.halve) s

theorem State.endEpoch_eq (s : State) : s.endEpoch = s.epochBegun.tensorsCooled.countersHalved := rfl

theorem State.tensorsCooled_t2At (s : State) (k : Nat) : s.tensorsCooled.t2At k = (s.t2At k).cooled s.tiers.drop :=
  (State.foldl_epochTensor_t2At _ s k).trans (Sp.get_listed (T2Tensor.cooled_none _) s.t2 k)

theorem State.tensorsCooled_wf (s : State) (h : Sp.wf T2Tensor.none s.t2 = true) : Sp.wf T2Tensor.none s.tensorsCooled.t2 = true :=
  State.foldl_epochTensor_wf _ s h

theorem State.countersHalved_t2At {s : State} (h : Sp.wf T2Tensor.none s.t2 = true) (k : Nat) :
    s.countersHalved.t2At k = (s.t2At k).halve :=
  (State.foldl_halve_t2At (Sp.keys_nodup h) s k).trans (Sp.get_listed rfl s.t2 k)

/-- The end of an epoch cools every tensor and halves its counters. -/
theorem State.endEpoch_t2At {s : State} (h : Sp.wf T2Tensor.none s.t2 = true) (k : Nat) :
    s.endEpoch.t2At k = ((s.t2At k).cooled s.tiers.drop).halve := by
  rw [State.endEpoch_eq, State.countersHalved_t2At (s.epochBegun.tensorsCooled_wf h), State.tensorsCooled_t2At]
  rfl

theorem State.endEpoch_keeps {β : Type} {p : State → β} (hepoch : ∀ (s : State) k, p (s.epochTensor k) = p s)
    (ht2 : ∀ (s : State) k x, p (s.setT2 k x) = p s) (s : State) : p s.endEpoch = p s.epochBegun := by
  have hhalved (s : State) : p s.countersHalved = p s := foldl_keeps (fun s k => ht2 s k _) _ s
  have hcooled (s : State) : p s.tensorsCooled = p s := foldl_keeps hepoch _ s
  rw [State.endEpoch_eq, hhalved, hcooled]

theorem exec_heatEpochEnd_soon {s : State} (h : s.beats.beat < s.tiers.epochEnd) : exec .heatEpochEnd s = .next s :=
  if_neg (Nat.not_le_of_lt h)

theorem exec_heatEpochEnd_due {s : State} (h : s.tiers.epochEnd ≤ s.beats.beat) : exec .heatEpochEnd s = .next s.endEpoch := if_pos h

/-! ### Frames given to a copy (R223, R257, R272) -/

section
variable (s : State) (o : Nat × Nat × FrameUse) (fs : List Nat)

theorem State.foldl_giveFrame_frames : (fs.foldl (fun s f => s.giveFrame o f) s).frames =
    fs.foldl (fun t f => Sp.set Frame.free t f { Frame.free with owner := some o }) s.frames := by
  induction fs generalizing s with
  | nil => rfl
  | cons f fs ih =>
    rw [List.foldl_cons, ih]
    rfl

/-- Frames that are given away change memory, its marks and the frames alone. -/
theorem State.foldl_giveFrame_keeps {β : Type} {p : State → β} (hmem : ∀ (s : State) m b, p { s with mem := m, poison := b } = p s)
    (hmc : ∀ (s : State) m, p { s with mc := m } = p s) (hframes : ∀ (s : State) t, p { s with frames := t } = p s) :
    p (fs.foldl (fun s f => s.giveFrame o f) s) = p s :=
  foldl_keeps (fun s _ => (hframes _ _).trans ((hmc _ _).trans (hmem s _ _))) fs s

/-- The state once an owner has been given frames, which its tenant's use counts. -/
def State.allocated : State :=
  (fs.foldl (fun s f => s.giveFrame o f) s.bump).updTenant o.1 (fun t => { t with use1 := t.use1 + fs.length })

theorem State.allocFrames_of_room {d n : Nat}
    (h : (pickFrames s.frames d (Config.frameChoice s.free) (n + s.frames.length) n).length = n) : s.allocFrames d n o =
    some (s.allocated o (pickFrames s.frames d (Config.frameChoice s.free) (n + s.frames.length) n),
      pickFrames s.frames d (Config.frameChoice s.free) (n + s.frames.length) n) := by
  rw [State.allocFrames, if_pos h, State.allocated, h]

theorem State.allocated_t2 : (s.allocated o fs).t2 = s.t2 :=
  State.foldl_giveFrame_keeps s.bump o fs (p := State.t2) (fun _ _ _ => rfl) (fun _ _ => rfl) (fun _ _ => rfl)

theorem State.allocated_tiers : (s.allocated o fs).tiers = s.tiers :=
  State.foldl_giveFrame_keeps s.bump o fs (p := State.tiers) (fun _ _ _ => rfl) (fun _ _ => rfl) (fun _ _ => rfl)

theorem State.allocated_guest : (s.allocated o fs).guest = s.guest :=
  State.foldl_giveFrame_keeps s.bump o fs (p := State.guest) (fun _ _ _ => rfl) (fun _ _ => rfl) (fun _ _ => rfl)

theorem State.allocated_now : (s.allocated o fs).now = s.now :=
  State.foldl_giveFrame_keeps s.bump o fs (p := State.now) (fun _ _ _ => rfl) (fun _ _ => rfl) (fun _ _ => rfl)

theorem State.allocated_use1 : ((s.allocated o fs).tenant o.1).use1 = (s.tenant o.1).use1 + fs.length := by
  have hkept : (fs.foldl (fun s f => s.giveFrame o f) s.bump).tenant o.1 = s.tenant o.1 :=
    State.foldl_giveFrame_keeps s.bump o fs (p := fun s => s.tenant o.1) (fun _ _ _ => rfl) (fun _ _ => rfl) (fun _ _ => rfl)
  rw [State.allocated, State.updTenant_tenant_same, hkept]

theorem State.allocated_frame {f : Nat} (h : f ∈ fs) :
    Sp.get Frame.free (s.allocated o fs).frames f = { Frame.free with owner := some o } := by
  rw [State.allocated, State.updTenant_frames, State.foldl_giveFrame_frames]
  exact Sp.get_foldl_set Frame.free id (fun _ => { Frame.free with owner := some o }) fs _ (fun _ _ _ => rfl) (.inr ⟨f, h, rfl⟩)

end

/-! ### PROMOTION_BEGIN (R266, R267) -/

/-- The state without a tensor in the queue of promotion. -/
def State.dequeued (s : State) (key : Nat) : State :=
  { s with tiers := { s.tiers with queue := s.tiers.queue.filter (fun q => q.1 != key) } }

/-- The state once the frames of a promotion have been allocated and the guest die has been asked for the copy. -/
def State.promotionBegun (s : State) (key : Nat) (fs : List Nat) : State :=
  let a := (s.dequeued key).allocated (keyTenant key, 0xFFFF, .copy key) fs
  (State.guestSend { a with tiers := { a.tiers with copying := some (key, fs) } } (.copy key)).1

theorem exec_promotionBegin {s : State} {key h d : Nat} (hidle : s.tiers.copying = none) (hon : s.tiers.promEnable = true)
    (hadmit : s.tiers.admitting = false) (hgo : s.stopped = false) (hhot : hottest s.tiers.queue = some (key, h))
    (hdie : s.promotable key = some d) {fs : List Nat}
    (hfs : pickFrames s.frames d (Config.frameChoice s.free) ((s.t2At key).pages.length + s.frames.length) (s.t2At key).pages.length = fs)
    (hroom : fs.length = (s.t2At key).pages.length) : exec .promotionBegin s = .next (s.promotionBegun key fs) := by
  have hdie' : (s.dequeued key).promotable key = some d := hdie
  have halloc := (s.dequeued key).allocFrames_of_room (keyTenant key, 0xFFFF, .copy key) (d := d) (n := (s.t2At key).pages.length)
    ((congrArg List.length hfs).trans hroom)
  rw [show pickFrames (s.dequeued key).frames d (Config.frameChoice (s.dequeued key).free)
    ((s.t2At key).pages.length + (s.dequeued key).frames.length) (s.t2At key).pages.length = fs from hfs] at halloc
  have hfree : ¬ (s.tiers.copying.isSome || !s.tiers.promEnable || s.tiers.admitting || s.stopped) = true := by
    simp [hidle, hon, hadmit, hgo]
  refine (if_neg hfree).trans ?_
  rw [hhot]
  dsimp only
  split
  next hnone => cases hdie'.symm.trans hnone
  next d' hsome =>
    cases hdie'.symm.trans hsome
    split
    next hnone => cases halloc.symm.trans hnone
    next hsome =>
      cases halloc.symm.trans hsome
      rfl

/-! ### PROMOTION_COPY_COMPLETE (R267) -/

/-- The frames of a promoted copy with the pages that stand in tier 2. -/
def State.copyFilled (s : State) (pages fs : List Nat) : State :=
  (List.range fs.length).foldl (fun s i => s.fillFrame (tier2Base + nth pages i * pageSize) (nth fs i)) s

theorem State.copyFilled_mem (s : State) (pages fs : List Nat) : (s.copyFilled pages fs).mem = (List.range fs.length).foldl
    (fun m i => copyRange 0#8 m (tier2Base + nth pages i * pageSize) (nth fs i * pageSize) pageSize) s.mem :=
  (List.foldl_hom State.mem (fun _ _ => rfl)).symm

theorem State.copyFilled_keeps {β : Type} {p : State → β} (hmem : ∀ (s : State) m b, p { s with mem := m, poison := b } = p s)
    (hmc : ∀ (s : State) m, p { s with mc := m } = p s) (s : State) (pages fs : List Nat) : p (s.copyFilled pages fs) = p s :=
  foldl_keeps (fun s _ => (hmc _ _).trans (hmem s _ _)) _ s

section
variable (s : State) (key : Nat) (fs : List Nat)

/-- A tensor's pages in the frames of its copy, and its virtual pages led there. -/
def State.copyMapped : State :=
  ((s.copyFilled (s.t2At key).pages fs).mapBig (keyTenant key) (s.t2At key).va true (fun i => .tier1 (nth fs i) true)
    (List.range fs.length)).setT2 key { s.t2At key with copy := fs }

/-- The state once the copy of a promotion has been made. -/
def State.promotionMade : State :=
  let u := s.copyMapped key fs
  { u with
    tiers := { u.tiers with copying := none, promotions := satAdd32 u.tiers.promotions 1 }
    guest := { u.guest with cmds := u.guest.cmds.filter (fun c => c.kind != GKind.copy key) } }

theorem State.copyMapped_mem : (s.copyMapped key fs).mem = (List.range fs.length).foldl
    (fun m i => copyRange 0#8 m (tier2Base + nth (s.t2At key).pages i * pageSize) (nth fs i * pageSize) pageSize) s.mem := by
  rw [State.copyMapped, State.setT2_mem, State.mapBig_mem, State.copyFilled_mem]

theorem State.copyMapped_frames : (s.copyMapped key fs).frames = s.frames := by
  rw [State.copyMapped, State.setT2_frames, State.mapBig_frames]
  exact State.copyFilled_keeps (p := State.frames) (fun _ _ _ => rfl) (fun _ _ => rfl) s _ fs

theorem State.copyMapped_tiers : (s.copyMapped key fs).tiers = s.tiers := by
  rw [State.copyMapped, State.setT2_tiers, State.mapBig_tiers]
  exact State.copyFilled_keeps (p := State.tiers) (fun _ _ _ => rfl) (fun _ _ => rfl) s _ fs

theorem State.promotionMade_copy : ((s.promotionMade key fs).t2At key).copy = fs :=
  congrArg T2Tensor.copy (State.t2At_setT2_same _ key _)

theorem State.promotionMade_promotions : (s.promotionMade key fs).tiers.promotions = satAdd32 s.tiers.promotions 1 := by
  rw [State.promotionMade, State.copyMapped_tiers]

end

theorem exec_promotionCopyComplete {s : State} {key : Nat} {fs : List Nat} (hcopying : s.tiers.copying = some (key, fs))
    (hsealed : (s.t2At key).state = .sealed) (hquota : (s.tenant (keyTenant key)).use1 ≤ (s.tenant (keyTenant key)).quota1) :
    exec .promotionCopyComplete s = .next (s.promotionMade key fs) := by
  change execPromotionCopyComplete s = _
  unfold execPromotionCopyComplete
  rw [hcopying]
  exact if_pos ⟨hsealed, hquota⟩

/-- What PROMOTION_BEGIN leaves. -/
theorem State.promotionBegun_lands (s : State) (key : Nat) (fs : List Nat) : let t := s.promotionBegun key fs
    t.tiers.copying = some (key, fs) ∧ t.tiers.queue = s.tiers.queue.filter (fun q => q.1 != key) ∧
      (t.tenant (keyTenant key)).use1 = (s.tenant (keyTenant key)).use1 + fs.length ∧
      t.guest.cmds = s.guest.cmds ++ [⟨s.guest.nextTag, .copy key, s.now, false⟩] ∧ t.t2 = s.t2 ∧
      ∀ f ∈ fs, Sp.get Frame.free t.frames f = { Frame.free with owner := some (keyTenant key, 0xFFFF, .copy key) } := by
  have hlisted (f : Nat) (hf : f ∈ fs) := (s.dequeued key).allocated_frame (keyTenant key, 0xFFFF, .copy key) fs hf
  refine ⟨rfl, ?_, (s.dequeued key).allocated_use1 _ fs, ?_, (s.dequeued key).allocated_t2 _ fs, hlisted⟩
  · rw [State.promotionBegun, State.guestSend_tiers, State.allocated_tiers, State.dequeued]
  · rw [State.promotionBegun, State.guestSend_cmds, State.allocated_guest, State.allocated_now, State.dequeued]

/-- Settles O32: an epoch's end by what it does to each tensor, in whatever order; a promotion by what allocating frames and filling them
leave. -/
theorem heatAndPromotion : Obligations.HeatAndPromotion := by
  refine ⟨fun s hsoon => exec_heatEpochEnd_soon hsoon, fun s hwf hdue => ?_, ?_, fun s key fs hcopying hsealed hquota => ?_⟩
  · have hmem : s.endEpoch.mem = s.mem := State.endEpoch_keeps (p := State.mem) State.epochTensor_mem (fun _ _ _ => rfl) s
    have hepoch : s.endEpoch.tiers.epoch = s.tiers.epochEnd :=
      State.endEpoch_keeps (p := fun s => s.tiers.epoch) (fun s k => (s.epochTensor_tiers k).2) (fun _ _ _ => rfl) s
    refine ⟨_, exec_heatEpochEnd_due hdue, hmem, hepoch, fun k => ?_, fun k hcls hcool => ?_, fun k hkept => ?_⟩
    · rw [State.endEpoch_t2At hwf, T2Tensor.halve, T2Tensor.cooled_heat]
    · rw [State.endEpoch_t2At hwf, T2Tensor.cooled, if_pos ⟨hcls, hcool⟩]
      rfl
    · have hnot : ¬ ((s.t2At k).cls = 0 ∧ (s.t2At k).meanHeat < s.tiers.drop) := by
        rcases hkept with hcls | hwarm
        · exact fun h => hcls h.1
        · exact fun h => Nat.not_lt_of_le hwarm h.2
      rw [State.endEpoch_t2At hwf, T2Tensor.cooled, if_neg hnot]
      rfl
  · intro s key h d hidle hon hadmit hgo hhot hdie n fs hroom
    have hlands := s.promotionBegun_lands key fs
    rw [hroom] at hlands
    exact ⟨_, exec_promotionBegin hidle hon hadmit hgo hhot hdie rfl hroom, hlands⟩
  · exact ⟨_, exec_promotionCopyComplete hcopying hsealed hquota, rfl, s.promotionMade_copy key fs, s.promotionMade_promotions key fs,
      s.copyMapped_frames key fs, s.copyMapped_mem key fs⟩

end Sys2Proof.Machine

/-!
PROOFS. The step state of a job (R287): what its write leaves, and arrivals at the contexts that issued a step (R284).
-/

namespace Sys2Proof.Machine

/-! ### Jobs read back -/

theorem State.job_congr {s t : State} (h : t.jobs = s.jobs) (k : Nat) : t.job k = s.job k := by rw [State.job, h, State.job]

theorem State.job_updUpd_same (s : State) (k : Nat) (f : UpdSt → UpdSt) : (s.updUpd k f).job k = { s.job k with upd := f (s.job k).upd } :=
  State.job_setJob_same _ _ _

theorem State.upd_updUpd_same (s : State) (k : Nat) (f : UpdSt → UpdSt) : ((s.updUpd k f).job k).upd = f (s.job k).upd :=
  congrArg Job.upd (s.job_updUpd_same k f)

theorem State.entriesOf_congr {s t : State} (himage : t.image = s.image) (hjobs : t.jobs = s.jobs) (k : Nat) :
    t.entriesOf k = s.entriesOf k := by
  rw [State.entriesOf, State.entriesOf, himage, State.job_congr hjobs]

/-- A fold of steps that each put a value in the same place puts one there. -/
theorem foldl_puts {σ α β : Type} {put : σ → β → σ} {f : σ → α → σ} (hput : ∀ s b c, put (put s b) c = put s c)
    (hget : ∀ s, ∃ b, s = put s b) (hf : ∀ s x, ∃ b, f s x = put s b) (l : List α) (s : σ) : ∃ b, l.foldl f s = put s b := by
  induction l generalizing s with
  | nil => exact hget s
  | cons x l ih =>
    obtain ⟨b, hb⟩ := hf s x
    obtain ⟨c, hc⟩ := ih (f s x)
    exact ⟨c, by rw [List.foldl_cons, hc, hb, hput]⟩

/-- Steps that each change the update block of one die change those blocks alone. -/
theorem State.foldl_updUp_changes {α : Type} (s : State) (d : α → Nat) (f : State → α → UpDie → UpDie) (l : List α) :
    ∃ up, l.foldl (fun (s : State) x => s.updUp (d x) (f s x)) s = { s with up := up } :=
  foldl_puts (put := fun (s : State) up => { s with up := up }) (fun _ _ _ => rfl) (fun s => ⟨s.up, rfl⟩) (fun _ _ => ⟨_, rfl⟩) l s

/-! ### The step state written (R287) -/

theorem StepSt.bytes_length (st : StepSt) : st.bytes.length = 64 := by
  simp only [StepSt.bytes, List.length_append, leBytes_length, zeros, List.length_replicate]

theorem State.stepMem_congr {s t : State} (hjobs : t.jobs = s.jobs) (hframes : t.frames = s.frames) (hmem : t.mem = s.mem) (k : Nat)
    (st : StepSt) : t.stepMem k st = s.stepMem k st := by
  simp only [State.stepMem, State.job_congr hjobs, State.quarantined, State.frameAt, hframes, hmem]
  rfl

/-- What goes to the watcher is added behind what stands there. -/
theorem State.noteWrite_watchOut (s : State) (a : Nat) (bs : List Byte) (p : Bool) :
    s.watchOut <+: (s.noteWrite a bs p).watchOut := by
  unfold State.noteWrite
  dsimp only
  split
  · split
    · split
      · exact List.prefix_append _ _
      · exact List.prefix_rfl
    · exact List.prefix_rfl
  · exact List.prefix_rfl

theorem State.putBurst_watchOut (s : State) (a : Nat) (bs : List Byte) (p : Bool) : s.watchOut <+: (s.putBurst a bs p).watchOut :=
  State.noteWrite_watchOut ({ s with mem := wrBytes s.mem a bs }.newCode a p) a bs p

/-- Writing 64 bytes changes memory, the poison marks and the controllers, and adds to what goes to the watcher. -/
theorem State.wrPiece_changes (s : State) (a : Nat) {bs : List Byte} (hlen : bs.length = 64) (p : Bool) :
    ∃ poison mc out, s.watchOut <+: out ∧ s.wrPiece a bs p =
      { s with mem := if s.quarantined a = true then s.mem else wrBytes s.mem a bs, poison := poison, mc := mc, watchOut := out } := by
  by_cases htier : isTier1 a = true
  · by_cases hquar : s.quarantined a = true
    · rw [State.wrPiece_quarantined htier hquar, if_pos hquar]
      exact ⟨s.poison, s.mc, s.watchOut, List.prefix_rfl, rfl⟩
    · obtain ⟨mc, hmc⟩ : ∃ mc, s.access a 1 = { s with mc := mc } := ⟨_, rfl⟩
      rw [State.wrPiece_burst htier (Bool.eq_false_of_not_eq_true hquar) hlen, if_neg hquar, hmc]
      exact ⟨_, _, _, State.putBurst_watchOut { s with mc := mc } a bs p, State.putBurst_eq { s with mc := mc } a bs p⟩
  · have hquar : s.quarantined a = false := by simp [State.quarantined, htier]
    have hwrite : s.wrPiece a bs p = { s with mem := wrBytes s.mem a bs } := by simp [State.wrPiece, htier]
    rw [hwrite, hquar]
    exact ⟨s.poison, s.mc, s.watchOut, List.prefix_rfl, rfl⟩

/-- The write of a step state is that of its page, and of the sequencer's copy. -/
theorem State.setStep_changes (s : State) (k : Nat) (st : StepSt) : ∃ poison mc out, s.watchOut <+: out ∧ s.setStep k st =
    { s with mem := s.stepMem k st, poison := poison, mc := mc, watchOut := out }.updUpd k (fun u => { u with st := st }) := by
  unfold State.setStep State.stepMem
  cases hpage : (s.job k).upd.page with
  | none => exact ⟨s.poison, s.mc, s.watchOut, List.prefix_rfl, rfl⟩
  | some p =>
    obtain ⟨poison, mc, out, hout, hwrite⟩ := s.wrPiece_changes (p * pageSize) st.bytes_length false
    dsimp only
    rw [hwrite]
    exact ⟨poison, mc, out, hout, rfl⟩

theorem State.setStep_upd (s : State) (k : Nat) (st : StepSt) : ((s.setStep k st).job k).upd = { (s.job k).upd with st := st } := by
  obtain ⟨poison, mc, out, -, hstep⟩ := s.setStep_changes k st
  rw [hstep]
  exact State.upd_updUpd_same _ k _

theorem State.setStep_mem (s : State) (k : Nat) (st : StepSt) : (s.setStep k st).mem = s.stepMem k st := by
  obtain ⟨poison, mc, out, -, hstep⟩ := s.setStep_changes k st
  rw [hstep]
  rfl

theorem State.setStep_watchOut (s : State) (k : Nat) (st : StepSt) : s.watchOut <+: (s.setStep k st).watchOut := by
  obtain ⟨poison, mc, out, hout, hstep⟩ := s.setStep_changes k st
  rw [hstep]
  exact hout

theorem State.setStep_lists (s : State) (k : Nat) (st : StepSt) : (s.setStep k st).lists = s.lists := by
  obtain ⟨poison, mc, out, -, hstep⟩ := s.setStep_changes k st
  rw [hstep]
  rfl

theorem State.setStep_cores (s : State) (k : Nat) (st : StepSt) : (s.setStep k st).cores = s.cores := by
  obtain ⟨poison, mc, out, -, hstep⟩ := s.setStep_changes k st
  rw [hstep]
  rfl

theorem State.setStep_core (s : State) (k : Nat) (st : StepSt) (n : Nat) : (s.setStep k st).core n = s.core n := by
  rw [State.core, State.setStep_cores, State.core]

/-! ### Arrivals of the contexts that issued a step (R284) -/

/-- The arrivals at the groups `g` of the contexts that issued a step. -/
def State.arrivals (s : State) (g : UpdIssue → Nat) (l : List UpdIssue) : State :=
  l.foldl (fun s i => s.arriveAt (i.core, i.ctx, g i)) s

/-- They change the cores alone. -/
theorem State.arrivals_changes (s : State) (g : UpdIssue → Nat) (l : List UpdIssue) :
    ∃ cores, s.arrivals g l = { s with cores := cores } :=
  foldl_puts (put := fun s cores => { s with cores := cores }) (fun _ _ _ => rfl) (fun s => ⟨s.cores, rfl⟩) (fun _ _ => ⟨_, rfl⟩) l s

theorem State.arrivals_keeps {β : Type} {p : State → β} (h : ∀ (s : State) cores, p { s with cores := cores } = p s) (s : State)
    (g : UpdIssue → Nat) (l : List UpdIssue) : p (s.arrivals g l) = p s := by
  obtain ⟨cores, harrivals⟩ := s.arrivals_changes g l
  rw [harrivals, h]

theorem State.arrivals_job (s : State) (g : UpdIssue → Nat) (l : List UpdIssue) (k : Nat) : (s.arrivals g l).job k = s.job k :=
  State.arrivals_keeps (p := fun s => s.job k) (fun _ _ => rfl) s g l

end Sys2Proof.Machine

/-!
PROOFS. Acknowledgments of the difference stream (R297, R300): ring space freed, and steps sealed.
-/

namespace Sys2Proof.Machine

/-! ### SEG acknowledged (R300) -/

/-- The state once an acknowledged SEG has freed its space. -/
def State.ringFreed (s : State) (k : Nat) (r : WRec) (rest : List WRec) : State :=
  { s with watchOut := rest }.updUpd k (fun u =>
    { u with rings := Sp.upd Ring.empty u.rings r.free.1 (fun q => { q with used := q.used - r.free.2 }) })

theorem exec_segAck {s : State} {k : Nat} {r : WRec} {rest : List WRec} (hout : s.watchOut = r :: rest) (hkind : r.kind = 2)
    (hjob : r.job = (s.job k).info.job) (hlife : (s.job k).life ≠ .none) : exec (.segAck k) s = .next (s.ringFreed k r rest) := by
  change Host.Outcome.next (s.segAck k) = _
  rw [State.segAck, hout]
  exact congrArg _ (if_pos ⟨hkind, hjob, hlife⟩)

theorem State.ringFreed_rings (s : State) (k : Nat) (r : WRec) (rest : List WRec) : ((s.ringFreed k r rest).job k).upd.rings =
    Sp.upd Ring.empty (s.job k).upd.rings r.free.1 (fun q => { q with used := q.used - r.free.2 }) :=
  congrArg UpdSt.rings (State.upd_updUpd_same _ k _)

/-! ### END acknowledged (R300) -/

/-- The counts of what waited for the seal stand on the dies, and nothing waits for it. -/
theorem State.sealWaits_changes (s : State) (k : Nat) :
    ∃ up, s.sealWaits k = { s with up := up }.updUpd k (fun u => { u with waitFrom := [] }) := by
  obtain ⟨up, hup⟩ := s.foldl_updUp_changes Prod.fst
    (fun s w u => { u with sealWait := u.sealWait + BitVec.ofNat 64 (s.now - w.2) }) (s.job k).upd.waitFrom
  exact ⟨up, congrArg (fun t : State => t.updUpd k _) hup⟩

theorem State.sealWaits_upd (s : State) (k : Nat) : ((s.sealWaits k).job k).upd = { (s.job k).upd with waitFrom := [] } := by
  obtain ⟨up, hwaits⟩ := s.sealWaits_changes k
  rw [hwaits]
  exact State.upd_updUpd_same _ k _

theorem State.sealWaits_mem (s : State) (k : Nat) : (s.sealWaits k).mem = s.mem := by
  obtain ⟨up, hwaits⟩ := s.sealWaits_changes k
  rw [hwaits]
  rfl

theorem State.sealWaits_watchOut (s : State) (k : Nat) : (s.sealWaits k).watchOut = s.watchOut := by
  obtain ⟨up, hwaits⟩ := s.sealWaits_changes k
  rw [hwaits]
  rfl

/-- The update state of a job once the step of END record `e` is sealed, and `es` are the END records that still wait. -/
def UpdSt.sealedBy (u : UpdSt) (e : W32 × Nat × Nat) (es : List (W32 × Nat × Nat)) : UpdSt :=
  { u with st := { u.st with sealed := e.1 }, waitFrom := [], endAt := es, issues := u.issues.filter (fun i => i.step != e.1),
           undo := u.undo.filter (fun x => decide (e.1.toNat < x.1)) }

/-- The state once an acknowledged END has sealed its step, before what waited for the seal goes on. -/
def State.stepSealed (s : State) (k : Nat) (rest : List WRec) (e : W32 × Nat × Nat) (es : List (W32 × Nat × Nat)) : State :=
  let u := (s.job k).upd
  let t := ({ s with watchOut := rest }.setStep k { u.st with sealed := e.1 }).sealWaits k
  (t.arrivals UpdIssue.sealGrp (u.issues.filter (fun i => i.step == e.1))).updUpd k (fun u => { u with
    endAt := es, issues := u.issues.filter (fun i => i.step != e.1), undo := u.undo.filter (fun x => decide (e.1.toNat < x.1)) })

theorem exec_endAck {s : State} {k : Nat} {r : WRec} {rest : List WRec} {e : W32 × Nat × Nat} {es : List (W32 × Nat × Nat)}
    (hout : s.watchOut = r :: rest) (hend : (s.job k).upd.endAt = e :: es) (hkind : r.kind = 3) (hjob : r.job = (s.job k).info.job)
    (hclean : (s.job k).upd.poisoned = false) (hhost : (s.job k).upd.hostHold = []) :
    exec (.endAck k e.2.1 e.2.2) s = .next ((s.stepSealed k rest e es).pumpOps k).collPump := by
  change Host.Outcome.next (s.endAck k e.2.1 e.2.2).collPump = _
  rw [State.endAck, hout, hend]
  exact congrArg (fun t : State => Host.Outcome.next t.collPump) (if_pos ⟨hkind, hjob, rfl, rfl, hclean, hhost⟩)

section
variable (s : State) (k : Nat) (rest : List WRec) (e : W32 × Nat × Nat) (es : List (W32 × Nat × Nat))

theorem State.stepSealed_upd : ((s.stepSealed k rest e es).job k).upd = (s.job k).upd.sealedBy e es := by
  rw [State.stepSealed, State.upd_updUpd_same, State.arrivals_job, State.sealWaits_upd, State.setStep_upd]
  rfl

theorem State.stepSealed_mem : (s.stepSealed k rest e es).mem = s.stepMem k { (s.job k).upd.st with sealed := e.1 } := by
  rw [State.stepSealed, State.updUpd, State.updJob_mem, State.arrivals_keeps (p := State.mem) (fun _ _ => rfl), State.sealWaits_mem,
    State.setStep_mem]
  rfl

/-- What the page's write tells the watcher stands behind what was still to be acknowledged. -/
theorem State.stepSealed_watchOut : rest <+: (s.stepSealed k rest e es).watchOut := by
  rw [State.stepSealed, State.updUpd, State.updJob_watchOut, State.arrivals_keeps (p := State.watchOut) (fun _ _ => rfl),
    State.sealWaits_watchOut]
  exact State.setStep_watchOut { s with watchOut := rest } k _

end

/-- Settles O35: the state that each acknowledgment leaves is written out, up to where what waited for a seal goes on. -/
theorem streamAcks : Obligations.StreamAcks := by
  refine ⟨fun s k r rest hout hkind hjob hlife => ?_, fun s k r rest e es hout hend hkind hjob hclean hhost => ?_⟩
  · refine ⟨_, exec_segAck hout hkind hjob hlife, rfl, rfl, ?_, fun d hd => ?_⟩
    · rw [State.ringFreed_rings, Sp.upd, Sp.get_set_same]
    · rw [State.ringFreed_rings, Sp.upd, Sp.get_set_other _ _ _ hd]
  · refine ⟨_, exec_endAck hout hend hkind hjob hclean hhost, s.stepSealed_watchOut k rest e es, ?_⟩
    rw [State.stepSealed_upd]
    exact ⟨rfl, rfl, rfl, s.stepSealed_mem k rest e es, rfl⟩

end Sys2Proof.Machine

/-!
PROOFS. Training steps (R284 to R287, R298): gradient records landed, the decision of a step, and the end of its update stage.
-/

namespace Sys2Proof.Machine

/-! ### A gradient record has landed (R285) -/

/-- A landed record is noted where the sums and the job keep it, its words go to a watcher, and a TSQ begins to sum it. -/
theorem exec_gradientRecordLanded {s : State} {k l t r : Nat} (hlife : (s.job k).life = .running)
    (hready : s.coll.insts.any (fun i => s.sumsReady i k l t r) = true) :
    ∃ coll out, exec (.gradientRecordLanded k l t r) s =
      .next (({ s with coll := coll, watchOut := out }.updUpd k (fun u => { u with landed := u.landed ++ [(l, t, r)] })).addList
        (.partialOf k l t r) (s.job k).info.tenant 0
        [tsqRecord (recRange (s.entryAt k t) (s.shareLen k (s.entryAt k t)) r).1 (recRange (s.entryAt k t) (s.shareLen k (s.entryAt k t)) r).2]
        false) := by
  change ∃ coll out, execGradientRecordLanded k l t r s = _
  unfold execGradientRecordLanded
  rw [if_pos ⟨hlife, hready⟩]
  dsimp only
  split
  · exact ⟨_, _, rfl⟩
  · exact ⟨_, s.watchOut, rfl⟩

theorem State.addList_job (s : State) (f : ListFrom) (tenant nmode : Nat) (records : List Entry) (poisonIn : Bool) (k : Nat) :
    (s.addList f tenant nmode records poisonIn).job k = s.job k := rfl

/-! ### What the difference stream leaves alone (R298 to R302) -/

/-- The update state of a job but for what its difference stream and its host copy keep. -/
def UpdSt.streamless (u : UpdSt) : UpdSt :=
  { u with segs := 0, crcs := 0, bytes := 0, segOut := [], ends := [], endAt := [], hostBuf := [], hostHold := [], gap := Option.none,
           gapSnap := Option.none }

theorem UpdSt.streamless_issues (u : UpdSt) : u.streamless.issues = u.issues := rfl
theorem UpdSt.streamless_st (u : UpdSt) : u.streamless.st = u.st := rfl

/-- What a state shows of the update stage of a job: the update state but for the stream, and the lists of the controllers. -/
def State.stage (s : State) (k : Nat) : UpdSt × List TbList := ((s.job k).upd.streamless, s.lists)

theorem State.stage_of_hostless {s t : State} (h : t.hostless = s.hostless) (k : Nat) : t.stage k = s.stage k := by
  change t.hostless.stage k = s.hostless.stage k
  rw [h]

theorem State.stage_ite (c : Prop) [Decidable c] (s t : State) (k : Nat) :
    (if c then s else t).stage k = if c then s.stage k else t.stage k := apply_ite (fun s : State => s.stage k) c s t

theorem State.updUpd_stage (s : State) (k : Nat) {f : UpdSt → UpdSt} (hf : ∀ u, (f u).streamless = u.streamless) :
    (s.updUpd k f).stage k = s.stage k := by
  rw [State.stage, State.upd_updUpd_same, hf]
  rfl

theorem State.push7_hostless (s : State) (tn : Nat) (es : List Entry) : (s.push7 tn es).hostless = s.hostless := by
  rw [State.push7, State.flushQueue_hostless]
  exact foldl_keeps (fun s e => s.pushShadow_hostless tn 7 (fun _ => e)) es s

theorem State.push7_stage (s : State) (tn : Nat) (es : List Entry) (k : Nat) : (s.push7 tn es).stage k = s.stage k :=
  State.stage_of_hostless (s.push7_hostless tn es) k

theorem State.drainHost_stage (s : State) (k : Nat) : (s.drainHost k).stage k = s.stage k := by
  rw [State.drainHost, State.push7_stage, State.updUpd_stage]
  exact fun _ => rfl

theorem State.hostCopy_stage (s : State) (k : Nat) (r : WRec) : (s.hostCopy k r).stage k = s.stage k := by
  unfold State.hostCopy
  dsimp only
  split
  · rw [State.drainHost_stage, State.updUpd_stage]
    exact fun _ => rfl
  · rw [State.stage_ite, State.stage_ite, State.push7_stage, State.updUpd_stage, State.updUpd_stage, State.updUpd_stage, ite_self, ite_self]
    · exact fun _ => rfl
    · exact fun _ => rfl
    · exact fun _ => rfl
  · rfl

theorem State.emit_stage (s : State) (k die : Nat) (r : WRec) : (s.emit k die r).stage k = s.stage k := by
  rw [State.emit, State.hostCopy_stage, State.updUpd_stage]
  · rfl
  · intro u
    split
    · rfl
    · split <;> rfl

theorem State.emitAll_stage (s : State) (k : Nat) (l : List (Nat × WRec)) :
    (l.foldl (fun (s : State) r => s.emit k r.1 r.2) s).stage k = s.stage k :=
  foldl_keeps (p := fun s : State => s.stage k) (fun s (r : Nat × WRec) => s.emit_stage k r.1 r.2) l s

theorem State.flushSegs_stage (s : State) (k : Nat) : (s.flushSegs k).stage k = s.stage k := by
  rw [State.flushSegs, State.emitAll_stage, State.updUpd_stage]
  exact fun _ => rfl

theorem State.emitEnds_stage (s : State) (k : Nat) (l : List WRec) : (s.emitEnds k l).stage k = s.stage k := by
  induction l generalizing s with
  | nil =>
    rw [State.emitEnds, State.updUpd_stage]
    exact fun _ => rfl
  | cons r rest ih =>
    unfold State.emitEnds
    split
    · rw [State.updUpd_stage]
      exact fun _ => rfl
    · dsimp only
      rw [ih]
      split
      · rw [State.updUpd_stage, State.emit_stage]
        exact fun _ => rfl
      · exact s.emit_stage k 0 r

theorem State.sendEnd_stage (s : State) (k : Nat) (r : WRec) : (s.sendEnd k r).stage k = s.stage k := by
  rw [State.sendEnd, State.pumpEnds, State.emitEnds_stage, State.updUpd_stage]
  exact fun _ => rfl

/-! ### The end of an update stage (R287, R298, R299) -/

/-- The step state that decision `d` leaves of update state `u`. -/
def UpdDec.stepState (d : UpdDec) (u : UpdSt) : StepSt :=
  { d.next with nonfinite := BitVec.ofNat 32 (min u.nonfinite (2 ^ 32 - 1)), sealed := u.st.sealed }

/-- The update state of a job whose stage with decision `d` has ended. -/
def UpdSt.stageOver (u : UpdSt) (d : UpdDec) : UpdSt :=
  { u with dec := Option.none, left := [], landed := [], parts := [], shards := [], waitNorm := false, nonfinite := 0, segs := 0, crcs := 0,
           bytes := 0, last := d.outcome, rend := false, leaves := 0, rsegs := 0, rcrc := 0, fails := (0#32, 0) }

/-- The state once STEP, the SEG records and END of a decided step have been sent. -/
def State.stageSent (s : State) (k : Nat) (d : UpdDec) : State :=
  let j := (s.job k).info
  let st := d.stepState (s.job k).upd
  let s := ((s.setStep k st).emit k 0 ⟨1, 0, j.job, st.step.toNat,
    leBytes 1 d.outcome ++ zeros 3 ++ leBytes 4 (pow2 st.exp).toNat ++ leBytes 4 st.g.toNat ++ leBytes 4 st.lr.toNat, st.bytes, (0, 0)⟩).flushSegs k
  let v := (s.job k).upd
  s.sendEnd k ⟨3, 0, j.job, st.step.toNat, leBytes 8 v.bytes ++ leBytes 4 v.segs ++ leBytes 4 v.crcs, [], (0, 0)⟩

theorem State.stageEnd_eq (s : State) (k : Nat) (d : UpdDec) :
    s.stageEnd k d = ((s.stageSent k d).updUpd k (fun u => u.stageOver d)).arrivals UpdIssue.doneGrp
      ((s.job k).upd.issues.filter (fun i => i.step == (d.stepState (s.job k).upd).step)) := by
  unfold State.stageEnd State.stageSent State.arrivals UpdDec.stepState UpdSt.stageOver
  rfl

/-- The stream leaves the update state as the step state's write leaves it, and the lists as they were. -/
theorem State.stageSent_stage (s : State) (k : Nat) (d : UpdDec) :
    ((s.stageSent k d).job k).upd.streamless = { (s.job k).upd with st := d.stepState (s.job k).upd }.streamless ∧
      (s.stageSent k d).lists = s.lists := by
  have hstage : (s.stageSent k d).stage k = (s.setStep k (d.stepState (s.job k).upd)).stage k := by
    rw [State.stageSent, State.sendEnd_stage, State.flushSegs_stage, State.emit_stage]
  rw [State.stage, State.stage, State.setStep_upd, State.setStep_lists] at hstage
  exact Prod.mk.inj hstage

theorem State.stageEnd_upd (s : State) (k : Nat) (d : UpdDec) :
    ((s.stageEnd k d).job k).upd = ((s.stageSent k d).job k).upd.stageOver d := by
  rw [State.stageEnd_eq, State.arrivals_job, State.upd_updUpd_same]

theorem State.stageEnd_lists (s : State) (k : Nat) (d : UpdDec) : (s.stageEnd k d).lists = s.lists := by
  rw [State.stageEnd_eq, State.arrivals_keeps (p := State.lists) (fun _ _ => rfl), State.updUpd, State.updJob_lists]
  exact (s.stageSent_stage k d).2

/-- What the end of a stage leaves of the update state. -/
theorem State.stageEnd_lands (s : State) (k : Nat) (d : UpdDec) : let u := ((s.stageEnd k d).job k).upd
    u.dec = none ∧ u.landed = [] ∧ u.last = d.outcome ∧ u.issues = (s.job k).upd.issues ∧ u.st = d.stepState (s.job k).upd := by
  obtain ⟨hsent, -⟩ := s.stageSent_stage k d
  rw [State.stageEnd_upd]
  generalize ((s.stageSent k d).job k).upd = v at hsent
  have hissues : v.issues = (s.job k).upd.issues := by
    rw [← v.streamless_issues, hsent]
    rfl
  have hst : v.st = d.stepState (s.job k).upd := by
    rw [← v.streamless_st, hsent]
    rfl
  exact ⟨rfl, rfl, rfl, hissues, hst⟩

theorem exec_updateStageEnd {s : State} {k : Nat} {d : UpdDec} (hdec : (s.job k).upd.dec = some d) (hleft : (s.job k).upd.left = []) :
    exec (.updateStageEnd k) s = .next ((s.stageEnd k d).replayed k) := by
  change execUpdateStageEnd k s = _
  rw [execUpdateStageEnd, hdec]
  exact if_pos hleft

/-! ### The decision of a step (R286 to R291) -/

/-- G: the sum of the partials, in their order (R286). -/
def normSum (qs : List (W32 × Bool)) : W32 := qs.foldl (fun a q => (add32 a q.1).1) negZero32

section
variable (s : State) (k : Nat) (qs : List (W32 × Bool))

/-- The outcome of the step in hand, with gscale and the flags of their computation. -/
def State.outcome286 : Nat × W32 × NFlags := decide286 (s.job k).info (s.job k).upd.st.exp (normSum qs) (qs.any (·.2))

/-- The step state that this outcome makes. -/
def State.stepAfter : StepSt × NFlags :=
  stateAfter (s.job k).info (s.job k).upd.st ((s.job k).upd.st.step + 1) (s.outcome286 k qs).1 (normSum qs)

/-- The decision that a step to be applied or skipped stands under. -/
def State.decision286 : UpdDec := ⟨(s.outcome286 k qs).1, (s.outcome286 k qs).2.1, (s.stepAfter k qs).1⟩

/-- The state once the flags of a decision are raised and a watcher has been told of it. -/
def State.decisionTold : State :=
  let c := s.outcome286 k qs
  let nx := s.stepAfter k qs
  let t := (s.updDies k).foldl (fun s d => s.updUp d (fun u => { u with flags := u.flags ||| c.2.2 ||| nx.2 })) s
  if t.watched then { t with watchOut := t.watchOut ++ [⟨0x22, 0, (s.job k).info.job, ((s.job k).upd.st.step + 1).toNat,
    leBytes 1 c.1 ++ zeros 3 ++ leBytes 4 (pow2 nx.1.exp).toNat ++ leBytes 4 (normSum qs).toNat ++ leBytes 4 nx.1.lr.toNat, [], (0, 0)⟩] }
  else t

theorem State.decisionTold_changes : ∃ up out, s.decisionTold k qs = { s with up := up, watchOut := out } := by
  obtain ⟨up, hup⟩ := s.foldl_updUp_changes id
    (fun _ _ u => { u with flags := u.flags ||| (s.outcome286 k qs).2.2 ||| (s.stepAfter k qs).2 }) (s.updDies k)
  unfold State.decisionTold
  dsimp only [id] at hup ⊢
  rw [hup]
  split
  · exact ⟨_, _, rfl⟩
  · exact ⟨up, s.watchOut, rfl⟩

/-- The state with a decision to apply, before its TUPDs start. -/
def State.applying (d : UpdDec) : State :=
  (s.updUpd k (fun u => { u with dec := some d, left := s.updKeys k, nonfinite := 0, waitNorm := false })).putConsts k d

/-- The state with a TUPD for each of the records listed. -/
def State.tupdsStarted (tn : Nat) (keys : List UpdKey) : State :=
  keys.foldl (fun s p =>
    let e := s.entryAt k p.2.1
    let rg := recRange e (s.shareLen k e) p.2.2
    s.addList (.update k p.1 p.2.1 p.2.2) tn 0 [tupdRecord rg.1 rg.2] false) s

/-- The state with the skip of a step of job `j` logged, and counted on `dies`. -/
def State.skipNoted (dies : List Nat) (j : Job) (outcome : Nat) : State :=
  dies.foldl (fun s d => s.updUp d (fun u => { u with skips := satAdd32 u.skips 1 }))
    (s.logAs 4 (dies.headD 0) 0x0043 1 (some j.info.tenant) [(1, k), (4, (j.upd.st.step + 1).toNat), (1, outcome)])

theorem State.skipNoted_changes (dies : List Nat) (j : Job) (outcome : Nat) :
    ∃ log up, s.skipNoted k dies j outcome = { s with log := log, up := up } := by
  unfold State.skipNoted
  rw [State.logAs_eq]
  obtain ⟨up, hup⟩ := State.foldl_updUp_changes { s with log := _ } id (fun _ _ u => { u with skips := satAdd32 u.skips 1 }) dies
  exact ⟨_, up, hup⟩

variable {s k qs}

theorem State.normStep_of_poisoned (h : (s.outcome286 k qs).1 = 4) :
    s.normStep k qs = (s.updUpd k (fun u => { u with last := 4 })).stepStop k 2 := if_pos h

theorem State.normStep_of_applied (h : (s.outcome286 k qs).1 = 1) : s.normStep k qs =
    ((s.decisionTold k qs).applying k (s.decision286 k qs)).tupdsStarted k (s.job k).info.tenant ((s.decisionTold k qs).updKeys k) := by
  have hno : ¬ (s.outcome286 k qs).1 = 4 := by omega
  exact (if_neg hno).trans (if_pos h)

theorem State.normStep_of_skipped (hskip : (s.outcome286 k qs).1 ≠ 1) (hclean : (s.outcome286 k qs).1 ≠ 4) : s.normStep k qs =
    ((((s.decisionTold k qs).skipNoted k (s.updDies k) (s.job k) (s.outcome286 k qs).1).updUpd k (fun u => { u with nonfinite := 0 })).stageEnd k
      (s.decision286 k qs)).replayed k :=
  (if_neg hclean).trans (if_neg hskip)

end

/-! ### What follows a decision (R286 to R291, R298) -/

section
variable {s : State} {k : Nat} {qs : List (W32 × Bool)}

theorem exec_globalNormComplete (hlife : (s.job k).life = .running) (hdec : (s.job k).upd.dec = none) (hentries : s.entriesOf k ≠ [])
    (hissued : s.stepIssued k ((s.job k).upd.st.step + 1) = true ∨ (s.job k).upd.replay = true) (hgo : s.stopped = false)
    (hpartials : s.allPartials k = some qs) : exec (.globalNormComplete k) s = .next (s.normStep k qs) := by
  change execGlobalNormComplete k s = _
  have hready : (s.job k).life = .running ∧ (s.job k).upd.dec.isNone = true ∧ s.entriesOf k ≠ [] ∧
      (s.stepIssued k ((s.job k).upd.st.step + 1) || (s.job k).upd.replay) = true ∧ s.stopped = false :=
    ⟨hlife, by rw [hdec]; rfl, hentries, Bool.or_eq_true_iff.mpr hissued, hgo⟩
  rw [execGlobalNormComplete, if_pos hready, hpartials]

/-- The constants of a step change the blocks of the dies alone. -/
theorem State.putConsts_changes (s : State) (k : Nat) (d : UpdDec) :
    ∃ blocks : Sp TubDie × Sp UpDie, s.putConsts k d = { s with tub := blocks.1, up := blocks.2 } :=
  foldl_puts (put := fun (s : State) (blocks : Sp TubDie × Sp UpDie) => { s with tub := blocks.1, up := blocks.2 })
    (fun _ _ _ => rfl) (fun s => ⟨(s.tub, s.up), rfl⟩)
    (fun s _ => foldl_puts (put := fun (s : State) (blocks : Sp TubDie × Sp UpDie) => { s with tub := blocks.1, up := blocks.2 })
      (fun _ _ _ => rfl) (fun s => ⟨(s.tub, s.up), rfl⟩) (fun _ _ => ⟨(_, _), rfl⟩) _ s) _ s

section
variable (s : State) (k : Nat) (d : UpdDec)

theorem State.applying_changes : ∃ blocks : Sp TubDie × Sp UpDie, s.applying k d =
    { s with tub := blocks.1, up := blocks.2 }.updUpd k
      (fun u => { u with dec := some d, left := s.updKeys k, nonfinite := 0, waitNorm := false }) :=
  State.putConsts_changes _ k d

theorem State.applying_upd : ((s.applying k d).job k).upd =
    { (s.job k).upd with dec := some d, left := s.updKeys k, nonfinite := 0, waitNorm := false } := by
  obtain ⟨blocks, happlying⟩ := s.applying_changes k d
  rw [happlying]
  exact State.upd_updUpd_same _ k _

theorem State.applying_mem : (s.applying k d).mem = s.mem := by
  obtain ⟨blocks, happlying⟩ := s.applying_changes k d
  rw [happlying]
  rfl

theorem State.applying_lists : (s.applying k d).lists = s.lists := by
  obtain ⟨blocks, happlying⟩ := s.applying_changes k d
  rw [happlying]
  rfl

end

theorem State.tupdsStarted_keeps {β : Type} {p : State → β} (h : ∀ (s : State) lists next, p { s with lists := lists, nextList := next } = p s)
    (s : State) (k tn : Nat) (keys : List UpdKey) : p (s.tupdsStarted k tn keys) = p s := foldl_keeps (fun s _ => h s _ _) keys s

theorem State.tupdsStarted_length (s : State) (k tn : Nat) (keys : List UpdKey) :
    (s.tupdsStarted k tn keys).lists.length = s.lists.length + keys.length := by
  unfold State.tupdsStarted
  induction keys generalizing s with
  | nil => rfl
  | cons p keys ih =>
    rw [List.foldl_cons, ih, List.length_cons, State.addList]
    dsimp only
    rw [List.length_append, List.length_singleton]
    omega

/-- A step that is applied: its decision stands, and a TUPD has been started for each of its records. -/
theorem State.normStep_applied_lands (h : (s.outcome286 k qs).1 = 1) : let t := s.normStep k qs
    (t.job k).upd.dec = some (s.decision286 k qs) ∧ (t.job k).upd.left = s.updKeys k ∧ (t.job k).upd.st = (s.job k).upd.st ∧
      t.lists.length = s.lists.length + (s.updKeys k).length ∧ t.mem = s.mem := by
  obtain ⟨up, out, htold⟩ := s.decisionTold_changes k qs
  rw [State.normStep_of_applied h, htold]
  dsimp only
  rw [State.tupdsStarted_keeps (p := fun t : State => t.job k) (fun _ _ _ => rfl),
    State.tupdsStarted_keeps (p := State.mem) (fun _ _ _ => rfl), State.tupdsStarted_length, State.applying_upd, State.applying_mem,
    State.applying_lists]
  exact ⟨rfl, rfl, rfl, rfl, rfl⟩

/-- A step that is skipped: its state is written, its stage is over, and what waited for the stage starts again. -/
theorem State.normStep_skipped_lands (hskip : (s.outcome286 k qs).1 ≠ 1) (hclean : (s.outcome286 k qs).1 ≠ 4) :
    ∃ t : State, s.normStep k qs = t.replayed k ∧ (t.job k).upd.dec = none ∧
      (t.job k).upd.st = { (s.stepAfter k qs).1 with nonfinite := 0, sealed := (s.job k).upd.st.sealed } ∧
      (t.job k).upd.last = (s.outcome286 k qs).1 ∧ t.lists = s.lists := by
  obtain ⟨up, out, htold⟩ := s.decisionTold_changes k qs
  obtain ⟨log, up', hnoted⟩ := State.skipNoted_changes { s with up := up, watchOut := out } k (s.updDies k) (s.job k) (s.outcome286 k qs).1
  have hstep := State.normStep_of_skipped hskip hclean
  rw [htold, hnoted] at hstep
  generalize hv : (State.updUpd _ k _) = v at hstep
  have hupd : (v.job k).upd = { (s.job k).upd with nonfinite := 0 } := by
    rw [← hv]
    exact State.upd_updUpd_same _ k _
  have hlists : v.lists = s.lists := by
    rw [← hv]
    rfl
  obtain ⟨hdec, -, hlast, -, hst⟩ := v.stageEnd_lands k (s.decision286 k qs)
  refine ⟨_, hstep, hdec, ?_, hlast, (v.stageEnd_lists k _).trans hlists⟩
  rw [hst, hupd]
  rfl

end

/-- Settles O34: G and the outcome are computed once from the partials; what follows is told by outcome, and the end of a stage by what its
stream leaves alone. -/
theorem trainingSteps : Obligations.TrainingSteps := by
  refine ⟨fun s k l t r hlife hready => ?_, fun s k qs hlife hdec hentries hissued hgo hpartials => ?_, fun s k d hdec hleft => ?_⟩
  · intro e rg
    obtain ⟨coll, out, hexec⟩ := exec_gradientRecordLanded hlife hready
    refine ⟨_, hexec, ?_, ?_, rfl, rfl⟩
    · rw [State.addList_job, State.upd_updUpd_same]
      rfl
    · rw [State.addList]
      exact List.map_append
  · intro st G c nx
    have hexec := exec_globalNormComplete hlife hdec hentries hissued hgo hpartials
    refine ⟨fun happly => ?_, fun hskip hclean => ?_, fun hpoison => ?_⟩
    · obtain ⟨hdecided, hrest⟩ := State.normStep_applied_lands (s := s) (k := k) (qs := qs) happly
      refine ⟨_, hexec, hdecided.trans (congrArg some ?_), hrest⟩
      exact congrArg (fun n => (⟨n, c.2.1, nx⟩ : UpdDec)) happly
    · obtain ⟨t, hnorm, hlands⟩ := State.normStep_skipped_lands (s := s) (k := k) (qs := qs) hskip hclean
      exact ⟨t, hexec.trans (congrArg _ hnorm), hlands⟩
    · refine ⟨_, hexec.trans (congrArg _ (State.normStep_of_poisoned hpoison)), ?_⟩
      rw [State.upd_updUpd_same]
      exact ⟨rfl, rfl, rfl, rfl⟩
  · obtain ⟨hnone, hlanded, hlast, hissues, hst⟩ := s.stageEnd_lands k d
    exact ⟨_, exec_updateStageEnd hdec hleft, hnone, hlanded, hlast, hissues, hst⟩

end Sys2Proof.Machine

/-!
PROOFS. The update instructions of a context (R282 to R284, R301).
-/

namespace Sys2Proof.Machine

/-! ### An update instruction taken (R282) -/

/-- An instruction taken changes its core and, where its word was corrected, the log. -/
theorem State.taken_changes (s : State) (n k : Nat) (ecc : Ecc) :
    ∃ log cores, s.taken n k ecc = { s with log := log, cores := cores } := by
  unfold State.taken
  rw [s.issued_eq n k ecc]
  exact ⟨_, _, rfl⟩

theorem CoreSt.grp_setCtx (c : CoreSt) (j : Nat) (x : Ctx) (k g : Nat) : (c.setCtx j x).grp k g = c.grp k g := rfl

theorem CoreSt.ctx_arrive (c : CoreSt) (k g : Nat) (poison : Bool) (j : Nat) : (c.arrive k g poison).ctx j = c.ctx j := rfl

section
variable (s : State) (n k : Nat) (ecc : Ecc)

theorem State.taken_jobs : (s.taken n k ecc).jobs = s.jobs := by
  obtain ⟨log, cores, htaken⟩ := s.taken_changes n k ecc
  rw [htaken]

theorem State.taken_image : (s.taken n k ecc).image = s.image := by
  obtain ⟨log, cores, htaken⟩ := s.taken_changes n k ecc
  rw [htaken]

theorem State.taken_frames : (s.taken n k ecc).frames = s.frames := by
  obtain ⟨log, cores, htaken⟩ := s.taken_changes n k ecc
  rw [htaken]

theorem State.taken_job (j : Nat) : (s.taken n k ecc).job j = s.job j := State.job_congr (s.taken_jobs n k ecc) j

theorem State.taken_grp (g : Nat) : ((s.taken n k ecc).core n).grp k g = (s.core n).grp k g := by
  rw [State.taken_core_same, CoreSt.grp_setCtx]

end

/-- An idle outbound unit takes an update instruction in the step that issues it. -/
theorem State.Issues.engStep_upd {s : State} {n k : Nat} {w : IWord} {ecc : Ecc} (h : s.Issues n k w ecc)
    (hidle : (s.ctx n k).qob = []) (hcls : w.cls = 10) :
    s.engStep n ecc .ob 10 w.opc none = (s.taken n k ecc).updTake n k w := by
  have hready : (s.queued n k ecc .ob w).engReady n k .ob w none = true := by simp [State.engReady, State.obReady, hcls]
  have htake := h.engStep (e := .ob) hidle hready
  simpa [State.engEffect, State.obAccept, hcls] using htake

/-! ### What each does (R282 to R284, R301) -/

/-- The step register goes on. -/
def Ctx.stepOn (x : Ctx) : Ctx := { x with stepReg := x.stepReg + 1 }

/-- UPD_STEP noted in the job of slot `j`. -/
def State.stepNoted (s : State) (n k j : Nat) (i : UpdIssue) : State :=
  (s.updCtx n k Ctx.stepOn).updUpd j (fun u => { u with issues := u.issues ++ [i] })

/-- UPD_ADVANCE of a job without an update set. -/
def State.stepAdvanced (s : State) (n k j g : Nat) : State :=
  ((s.updCtx n k Ctx.stepOn).setStep j { (s.job j).upd.st with step := (s.ctx n k).stepReg }).arriveAt (n, k, g)

/-- UPD_SNAP or UPD_APPLY put behind the operations of its job. -/
def State.opQueued (s : State) (j : Nat) (o : UpdOp) : State :=
  (s.updCtx o.core o.ctx (fun x => { x with outCmds := x.outCmds + 1 })).updUpd j (fun u => { u with ops := u.ops ++ [o] })

section
variable {s : State} {n k : Nat} {w : IWord} (hlife : (s.job (field 3 0 w.pl)).life ≠ .none)
  (htenant : (s.job (field 3 0 w.pl)).info.tenant = (s.ctx n k).prog.tenant)
include hlife htenant

theorem State.updTake_step (hopc : w.opc = 0) (hreg : field 57 26 w.pl = (s.ctx n k).stepReg.toNat) :
    s.updTake n k w = s.stepNoted n k (field 3 0 w.pl) ⟨(s.ctx n k).stepReg, n, k, field 14 4 w.pl, field 25 15 w.pl⟩ := by
  unfold State.updTake
  rw [if_neg (by simp [hlife, htenant, hopc, hreg]), hopc]
  rfl

theorem State.updTake_advance (hopc : w.opc = 3) (hnone : s.entriesOf (field 3 0 w.pl) = []) :
    s.updTake n k w = s.stepAdvanced n k (field 3 0 w.pl) (field 14 4 w.pl) := by
  unfold State.updTake
  rw [if_neg (by simp [hlife, htenant, hopc, hnone]), hopc]
  rfl

theorem State.updTake_op {apply : Bool} (hopc : w.opc = if apply then 2 else 1) : s.updTake n k w =
    (s.opQueued (field 3 0 w.pl) ⟨apply, n, k, field 14 4 w.pl, field 81 58 w.pl⟩).pumpOps (field 3 0 w.pl) := by
  unfold State.updTake
  cases apply with
  | false =>
    rw [if_neg (by simp [hlife, htenant, hopc]), hopc]
    rfl
  | true =>
    rw [if_neg (by simp [hlife, htenant, hopc]), hopc]
    rfl

end

section
variable (s : State) (n k j : Nat)

theorem State.updUpd_ctx (f : UpdSt → UpdSt) (m i : Nat) : (s.updUpd j f).ctx m i = s.ctx m i := rfl

theorem State.updCtx_job (f : Ctx → Ctx) : (s.updCtx n k f).job j = s.job j := rfl

theorem State.stepNoted_ctx (i : UpdIssue) : (s.stepNoted n k j i).ctx n k = (s.ctx n k).stepOn := by
  rw [State.stepNoted, State.updUpd_ctx, State.ctx_updCtx_same]

theorem State.stepNoted_upd (i : UpdIssue) :
    ((s.stepNoted n k j i).job j).upd = { (s.job j).upd with issues := (s.job j).upd.issues ++ [i] } := by
  rw [State.stepNoted, State.upd_updUpd_same, State.updCtx_job]

theorem State.stepNoted_job_other (i : UpdIssue) {l : Nat} (h : l ≠ j) : (s.stepNoted n k j i).job l = s.job l := by
  rw [State.stepNoted, State.updUpd, State.updJob, State.job_setJob_other _ _ h, State.updCtx_job]

theorem State.opQueued_ctx (o : UpdOp) :
    (s.opQueued j o).ctx o.core o.ctx = { s.ctx o.core o.ctx with outCmds := (s.ctx o.core o.ctx).outCmds + 1 } := by
  rw [State.opQueued, State.updUpd_ctx, State.ctx_updCtx_same]

theorem State.opQueued_upd (o : UpdOp) : ((s.opQueued j o).job j).upd = { (s.job j).upd with ops := (s.job j).upd.ops ++ [o] } := by
  rw [State.opQueued, State.upd_updUpd_same, State.updCtx_job]

variable (g : Nat)

theorem State.stepAdvanced_upd :
    ((s.stepAdvanced n k j g).job j).upd = { (s.job j).upd with st := { (s.job j).upd.st with step := (s.ctx n k).stepReg } } := by
  rw [State.stepAdvanced]
  exact (State.setStep_upd _ j _).trans (by rw [State.updCtx_job])

theorem State.stepAdvanced_mem :
    (s.stepAdvanced n k j g).mem = s.stepMem j { (s.job j).upd.st with step := (s.ctx n k).stepReg } := by
  rw [State.stepAdvanced, State.arriveAt, State.arrive_mem, State.setStep_mem]
  exact State.stepMem_congr rfl rfl rfl j _

theorem State.stepAdvanced_core :
    (s.stepAdvanced n k j g).core n = ((s.core n).setCtx k (s.ctx n k).stepOn).arrive k g false := by
  rw [State.stepAdvanced, State.arriveAt, State.core_arrive_same, State.setStep_core, State.updCtx, State.core_setCtx_same]

end

/-- Settles O33: an idle outbound unit takes each in the step that issues it, and each changes its context and its job. -/
theorem updateInstructions : Obligations.UpdateInstructions := by
  intro s n k w ecc hissues hidle hcls u x slot g hlife htenant
  have hjob : u.job slot = s.job slot := s.taken_job n k ecc slot
  have hlife' : (u.job slot).life ≠ .none := hjob ▸ hlife
  have htenant' : (u.job slot).info.tenant = x.prog.tenant := hjob ▸ htenant
  have hexec {i : Instr} {t : State} (hi : exec i s = .next (s.engStep n ecc .ob 10 w.opc none)) (ht : u.updTake n k w = t) :
      exec i s = .next t := by rw [hi, hissues.engStep_upd hidle hcls, ht]
  have hop {i : Instr} {apply : Bool} (hi : exec i s = .next (s.engStep n ecc .ob 10 w.opc none))
      (hopc : w.opc = if apply then 2 else 1) : ∃ v : State, exec i s = .next (v.pumpOps slot) ∧ v.mem = s.mem ∧
        v.ctx n k = { x with outCmds := x.outCmds + 1 } ∧
        (v.job slot).upd = { (s.job slot).upd with ops := (s.job slot).upd.ops ++ [⟨apply, n, k, g, field 81 58 w.pl⟩] } := by
    refine ⟨_, hexec hi (State.updTake_op hlife' htenant' hopc), s.taken_mem n k ecc, u.opQueued_ctx slot _, ?_⟩
    rw [State.opQueued_upd, hjob]
  refine ⟨fun hopc hreg => ?_, fun hopc hnone => ?_, fun p hp hopc => ?_⟩
  · refine ⟨_, hexec (by rw [hopc]; rfl) (State.updTake_step hlife' htenant' hopc hreg), s.taken_mem n k ecc, u.stepNoted_ctx n k slot _, ?_,
      fun j hj => (u.stepNoted_job_other n k slot _ hj).trans (s.taken_job n k ecc j)⟩
    rw [State.stepNoted_upd, hjob]
  · have hnone' : u.entriesOf slot = [] := (State.entriesOf_congr (s.taken_image n k ecc) (s.taken_jobs n k ecc) slot).trans hnone
    refine ⟨_, hexec (by rw [hopc]; rfl) (State.updTake_advance hlife' htenant' hopc hnone'), ?_, ?_, ?_, ?_⟩
    · rw [State.ctx, State.stepAdvanced_core, CoreSt.ctx_arrive, CoreSt.ctx_setCtx_same]
      rfl
    · rw [State.stepAdvanced_upd, hjob]
    · rw [State.stepAdvanced_mem, State.stepAdvanced_upd]
      exact State.stepMem_congr (s.taken_jobs n k ecc) (s.taken_frames n k ecc) (s.taken_mem n k ecc) slot _
    · rw [State.stepAdvanced_core, CoreSt.grp_arrive, CoreSt.grp_setCtx, State.taken_grp]
  · simp only [List.mem_cons, List.not_mem_nil, or_false] at hp
    rcases hp with rfl | rfl
    · exact hop (by rw [hopc]; rfl) hopc
    · exact hop (by rw [hopc]; rfl) hopc

end Sys2Proof.Machine

/-!
PROOFS. How a step takes its command, that every command completes, and how an event comes to be logged (R473, R475).
-/

namespace Sys2Proof.Machine

/-- Settles O54: the definition of a step, its queue read off. -/
theorem stepTakesFront : Obligations.StepTakesFront := by
  intro s c rest hpending
  simp only [step, hpending]

/-- Settles O55: what every command keeps has the queue among it. That no command ends in a fault or a refusal, also where no event of its
kind can occur, is a choice of the model (log entry 1). -/
theorem commandsComplete : Obligations.CommandsComplete := by
  intro c s
  obtain ⟨t, ht, hqueue, -⟩ := exec_keeps c s
  exact ⟨t, ht, hqueue⟩

/-- What makes a record of the ring the one that counts a further event of a source and code in the window of an instant (R475). -/
def LogRec.Counts (r : LogRec) (now cls inst code : Nat) : Prop :=
  r.cls = cls ∧ r.inst = inst ∧ r.code = code ∧ r.crumb = false ∧ r.time / 1000 = now / 1000

theorem LogSt.recent_eq_none {l : LogSt} {now cls inst code : Nat} (h : ∀ p ∈ l.ring, ¬p.2.Counts now cls inst code) :
    l.recent now cls inst code = none := by
  refine List.find?_eq_none.2 fun p hp hm => h p hp ?_
  simpa [LogRec.Counts, and_assoc] using hm

theorem LogSt.recent_eq_some {l : LogSt} {now cls inst code : Nat} {p : Nat × LogRec} (hp : p ∈ l.ring)
    (hsame : p.2.Counts now cls inst code) (honly : ∀ q ∈ l.ring, q.2.Counts now cls inst code → q = p) :
    l.recent now cls inst code = some p := by
  have hcounts : ∀ q : Nat × LogRec, (q.2.cls == cls && q.2.inst == inst && q.2.code == code && !q.2.crumb &&
      q.2.time / 1000 == now / 1000) = true ↔ q.2.Counts now cls inst code := by simp [LogRec.Counts, and_assoc]
  unfold LogSt.recent
  cases hf : l.ring.find? _ with
  | none => exact absurd ((hcounts p).2 hsame) (List.find?_eq_none.1 hf p hp)
  | some q =>
    have hq := List.find?_some hf
    rw [honly q (List.mem_of_find?_eq_some hf) ((hcounts q).1 hq)]

/-- Settles O57: an event without a record of its window is pushed, and one with such a record is counted in it. -/
theorem logRecords : Obligations.LogRecords := by
  intro s cls inst code sev tenant args
  refine ⟨fun hnone => ?_, fun p hp hsame honly => ?_⟩
  · rw [State.logAs, LogSt.recent_eq_none hnone]
    exact ⟨rfl, Sp.get_set_same _ _ _ _, fun k hk => Sp.get_set_other _ _ _ hk, rfl⟩
  · rw [State.logAs, LogSt.recent_eq_some hp hsame honly]
    exact ⟨Sp.get_set_same _ _ _ _, fun k hk => Sp.get_set_other _ _ _ hk, rfl⟩

end Sys2Proof.Machine

/-! PROOFS. What is stored: the memory, its poison marks and the NOR flash stay canonical (O59). Most operations leave all three alone
(`_stored`); those that write keep the form (`_ok`). -/

namespace Sys2Proof.Machine

/-- The sparse tables that O59 speaks of. -/
structure Storage where
  mem : Sp Byte
  poison : Sp Bool
  nor : Sp Byte

/-- What of a state stands in them. -/
def State.stored (s : State) : Storage := ⟨s.mem, s.poison, s.nor⟩

/-- Of a state written out field by field, three fields count. As for `State.coded`, the equations are proved `by rfl`, so that `simp`
uses them also for the side condition of a fold. -/
@[simp] theorem State.stored_mk
    (pending : List Instr) (free : Nat) (resp : Resp) (hostOut : List HostOut) (linkOut : List LinkOut) (now : Nat)
    (aligned stopped : Bool) (sealRun : Option SealRun) (beats : BeatSt) (cores : Sp CoreSt) (mem : Sp Byte) (poison : Sp Bool)
    (log : LogSt) (image : Option Image) (tenants : Sp Tenant) (pages : Sp PageEnt) (hl : HlSt) (watched : Bool)
    (watchOut : List WRec) (jobs : Sp Job) (mc : Sp McSt) (frames : Sp Frame) (t2 : Sp T2Tensor) (tiers : TierSt) (nor : Sp Byte)
    (retired : List (Nat × Nat)) (pm : PmSt) (guest : GuestSt) (tub : Sp TubDie) (lists : List TbList) (nextList : Nat)
    (up : Sp UpDie) (cz : Sp CzDie) (coll : CollSt) (ports : Sp Port) (gl : GlSt) (start : StartSt) (dd : DdSt) (tap : TapSt)
    (watch : WatchSt) (split : SplitSt) :
    (State.mk pending free resp hostOut linkOut now aligned stopped sealRun beats cores mem poison log image tenants pages hl
      watched watchOut jobs mc frames t2 tiers nor retired pm guest tub lists nextList up cz coll ports gl start dd tap watch
      split).stored = ⟨mem, poison, nor⟩ := by rfl

@[simp] theorem State.stored_eta (s : State) : (⟨s.mem, s.poison, s.nor⟩ : Storage) = s.stored := by rfl

theorem State.mem_stored (s : State) : s.mem = s.stored.mem := rfl

theorem State.poison_stored (s : State) : s.poison = s.stored.poison := rfl

theorem State.nor_stored (s : State) : s.nor = s.stored.nor := rfl

@[simp] theorem State.stored_ite (c : Prop) [Decidable c] (s t : State) :
    (if c then s else t).stored = if c then s.stored else t.stored := apply_ite State.stored c s t

/-- A fold of steps that each leave what is stored leaves it. -/
theorem State.stored_foldl {α : Type} {f : State → α → State} (hf : ∀ s x, (f s x).stored = s.stored) (l : List α) (s : State) :
    (l.foldl f s).stored = s.stored := by
  induction l generalizing s with
  | nil => rfl
  | cons x l ih => rw [List.foldl_cons, ih, hf]

/-- What a computation that may have no answer leaves stored. -/
def StoredIs (c : Storage) (o : Option State) : Prop := ∀ t, o = some t → t.stored = c

@[simp] theorem storedIs_none (c : Storage) : StoredIs c none := fun _ h => nomatch h

@[simp] theorem storedIs_some (c : Storage) (s : State) : StoredIs c (some s) ↔ s.stored = c := by simp [StoredIs]

/-- What a command's answer holds stored. -/
def outStored : Out → Option Storage
  | .next t => some t.stored
  | _ => none

@[simp] theorem outStored_next (t : State) : outStored (.next t) = some t.stored := rfl

@[simp] theorem outStored_ite (c : Prop) [Decidable c] (a b : Out) :
    outStored (if c then a else b) = if c then outStored a else outStored b := apply_ite outStored c a b

/-- The canonical form of all three. -/
structure Storage.Ok (c : Storage) : Prop where
  mem : Memory.wf c.mem = true
  poison : Sp.wf false c.poison = true
  nor : Sp.wf 0xFF#8 c.nor = true

theorem State.memoryOk_iff (s : State) : s.MemoryOk ↔ s.stored.Ok :=
  ⟨fun ⟨hm, hp, hn⟩ => ⟨hm, hp, hn⟩, fun ⟨hm, hp, hn⟩ => ⟨hm, hp, hn⟩⟩

@[simp] theorem Storage.ok_ite (c : Prop) [Decidable c] (a b : Storage) : (if c then a else b).Ok ↔ if c then a.Ok else b.Ok := by
  split <;> rfl

theorem State.ok_foldl {α : Type} {f : State → α → State} (hf : ∀ s x, s.stored.Ok → (f s x).stored.Ok) (l : List α) {s : State}
    (h : s.stored.Ok) : (l.foldl f s).stored.Ok := by
  induction l generalizing s with
  | nil => exact h
  | cons x l ih => exact ih (hf s x h)

theorem State.ok_foldl_fst {α β : Type} {f : State × β → α → State × β} (hf : ∀ a x, a.1.stored.Ok → (f a x).1.stored.Ok)
    (l : List α) {a : State × β} (h : a.1.stored.Ok) : (l.foldl f a).1.stored.Ok := by
  induction l generalizing a with
  | nil => exact h
  | cons x l ih => exact ih (hf a x h)

theorem Storage.Ok.withMem {s : State} (h : s.stored.Ok) {m : Sp Byte} (hm : Memory.wf m = true) :
    (⟨m, s.poison, s.nor⟩ : Storage).Ok := ⟨hm, h.poison, h.nor⟩

theorem Storage.Ok.withPoison {s : State} (h : s.stored.Ok) {p : Sp Bool} (hp : Sp.wf false p = true) :
    (⟨s.mem, p, s.nor⟩ : Storage).Ok := ⟨h.mem, hp, h.nor⟩

theorem Storage.Ok.withNor {s : State} (h : s.stored.Ok) {n : Sp Byte} (hn : Sp.wf 0xFF#8 n = true) :
    (⟨s.mem, s.poison, n⟩ : Storage).Ok := ⟨h.mem, h.poison, hn⟩

theorem Memory.wf_foldl {α : Type} {f : Sp Byte → α → Sp Byte} (hf : ∀ m x, Memory.wf m = true → Memory.wf (f m x) = true) (l : List α)
    {m : Sp Byte} (h : Memory.wf m = true) : Memory.wf (l.foldl f m) = true :=
  List.foldlRecOn l f h fun m hm x _ => hf m x hm

/-- The canonical form of what a computation answers, if it answers. -/
def OptOk (o : Option State) : Prop := ∀ t, o = some t → t.stored.Ok

@[simp] theorem optOk_none : OptOk none := fun _ h => nomatch h

@[simp] theorem optOk_some (s : State) : OptOk (some s) ↔ s.stored.Ok := by simp [OptOk]

theorem OptOk.map {α : Type} {o : Option α} {f : α → State} (h : ∀ a, o = some a → (f a).stored.Ok) : OptOk (o.map f) := by
  cases o with
  | none => exact optOk_none
  | some a => simpa using h a rfl

theorem OptOk.bind {α : Type} {o : Option α} {f : α → Option State} (h : ∀ a, o = some a → OptOk (f a)) : OptOk (o.bind f) := by
  cases o with
  | none => exact optOk_none
  | some a => exact h a rfl

theorem OptOk.foldl {α : Type} {f : Option State → α → Option State} (hf : ∀ o x, OptOk o → OptOk (f o x)) (l : List α)
    {o : Option State} (h : OptOk o) : OptOk (l.foldl f o) := List.foldlRecOn l f h fun o ho x _ => hf o x ho

theorem OptOk.getD {o : Option State} (h : OptOk o) {s : State} (hs : s.stored.Ok) : (o.getD s).stored.Ok := by
  cases o with
  | none => exact hs
  | some t => exact h t rfl

/-- The canonical form of the next state of a command. -/
def OutOk : Out → Prop
  | .next t => t.stored.Ok
  | _ => True

@[simp] theorem outOk_next (t : State) : OutOk (.next t) ↔ t.stored.Ok := .rfl

@[simp] theorem outOk_ite (c : Prop) [Decidable c] (a b : Out) : OutOk (if c then a else b) ↔ if c then OutOk a else OutOk b := by
  split <;> rfl

theorem StoredIs.getD {s : State} {o : Option State} (h : StoredIs s.stored o) : (o.getD s).stored = s.stored := by
  cases o with
  | none => rfl
  | some t => exact h t rfl

/-! ### Ops -/

@[simp] theorem State.setSram_ok (s : State) (n off : Nat) (bs : List Byte) (h : s.stored.Ok) : (s.setSram n off bs).stored.Ok :=
  h.withMem (Memory.wf_wrBytes _ _ _ h.mem)

@[simp] theorem State.setCore_stored (s : State) (n : Nat) (c : CoreSt) : (s.setCore n c).stored = s.stored := by rfl

@[simp] theorem State.updCore_stored (s : State) (n : Nat) (f : CoreSt → CoreSt) : (s.updCore n f).stored = s.stored := by rfl

@[simp] theorem State.setCtx_stored (s : State) (n k : Nat) (x : Ctx) : (s.setCtx n k x).stored = s.stored := by rfl

@[simp] theorem State.updCtx_stored (s : State) (n k : Nat) (f : Ctx → Ctx) : (s.updCtx n k f).stored = s.stored := by rfl

@[simp] theorem State.arrive_stored (s : State) (n k g : Nat) (poison : Bool) : (s.arrive n k g poison).stored = s.stored := by rfl

@[simp] theorem State.bump_stored (s : State) : s.bump.stored = s.stored := by rfl

@[simp] theorem State.logAs_stored (s : State) (cls inst code sev : Nat) (tenant : Option Nat) (args : List (Nat × Nat)) :
    (s.logAs cls inst code sev tenant args).stored = s.stored := by
  unfold State.logAs
  split <;> simp

@[simp] theorem State.logDiscard_stored (s : State) (addr : Nat) (who : Who) (write : Bool) :
    (s.logDiscard addr who write).stored = s.stored := by simp [State.logDiscard]

@[simp] theorem State.logUnmapped_stored (s : State) (addr : Nat) (who : Who) (write : Bool) :
    (s.logUnmapped addr who write).stored = s.stored := by simp [State.logUnmapped]

@[simp] theorem State.answerUnmapped_stored (s : State) (addr : Nat) (who : Who) (write : Bool) :
    (s.answerUnmapped addr who write).stored = s.stored := by simp [State.answerUnmapped]

@[simp] theorem State.logTimeout_stored (s : State) (row t : Nat) : (s.logTimeout row t).stored = s.stored := by simp [State.logTimeout]

@[simp] theorem State.advanceTo_stored (s : State) (t : Nat) : (s.advanceTo t).stored = s.stored := by rfl

@[simp] theorem State.setTenant_stored (s : State) (t : Nat) (x : Tenant) : (s.setTenant t x).stored = s.stored := by rfl

@[simp] theorem State.updTenant_stored (s : State) (t : Nat) (f : Tenant → Tenant) : (s.updTenant t f).stored = s.stored := by rfl

@[simp] theorem State.setPoison_ok (s : State) (a : Nat) (p : Bool) (h : s.stored.Ok) : (s.setPoison a p).stored.Ok :=
  h.withPoison (Sp.wf_set _ _ _ _ h.poison)

@[simp] theorem State.setMc_stored (s : State) (d : Nat) (m : McSt) : (s.setMc d m).stored = s.stored := by rfl

@[simp] theorem State.updMc_stored (s : State) (d : Nat) (f : McSt → McSt) : (s.updMc d f).stored = s.stored := by rfl

@[simp] theorem State.setFrame_stored (s : State) (f : Nat) (x : Frame) : (s.setFrame f x).stored = s.stored := by rfl

@[simp] theorem State.updChan_stored (s : State) (d ch : Nat) (f : ChSt → ChSt) : (s.updChan d ch f).stored = s.stored := by rfl

@[simp] theorem State.setErr_stored (s : State) (a : Nat) (e : Ecc) : (s.setErr a e).stored = s.stored := by rfl

@[simp] theorem State.access_stored (s : State) (a slots : Nat) : (s.access a slots).stored = s.stored := by rfl

@[simp] theorem State.newCode_ok (s : State) (a : Nat) (p : Bool) (h : s.stored.Ok) : (s.newCode a p).stored.Ok :=
  State.setPoison_ok _ _ _ h

@[simp] theorem State.noteWrite_stored (s : State) (a : Nat) (bs : List Byte) (p : Bool) : (s.noteWrite a bs p).stored = s.stored := by
  simp only [State.noteWrite]
  repeat' split
  all_goals simp

@[simp] theorem State.noteBurst_ok (s : State) (b cause : Nat) (h : s.stored.Ok) : (s.noteBurst b cause).stored.Ok := by
  simp only [State.noteBurst]
  repeat' split
  all_goals simp [h]

@[simp] theorem State.noteBursts_ok (s : State) (b cause n : Nat) (h : s.stored.Ok) : (s.noteBursts b cause n).stored.Ok := by
  induction n generalizing s b with
  | zero => exact h
  | succ n ih => simp [State.noteBursts, ih, h]

@[simp] theorem State.noteRead_ok (s : State) (a n : Nat) (h : s.stored.Ok) : (s.noteRead a n).stored.Ok := by simp [State.noteRead, h]

/-- A burst written with a new code word (R204). -/
theorem State.newBurst_ok (s : State) (a : Nat) (bs : List Byte) (p q : Bool) (h : s.stored.Ok) :
    (({ s with mem := wrBytes s.mem a bs }.newCode a p).noteWrite a bs q).stored.Ok := by
  rw [State.noteWrite_stored]
  exact State.newCode_ok _ _ _ (h.withMem (Memory.wf_wrBytes _ _ _ h.mem))

@[simp] theorem State.wrPiece_ok (s : State) (a : Nat) (bs : List Byte) (p : Bool) (h : s.stored.Ok) : (s.wrPiece a bs p).stored.Ok := by
  simp only [State.wrPiece]
  split
  · exact h.withMem (Memory.wf_wrBytes _ _ _ h.mem)
  · split
    · exact h
    · split
      · exact State.newBurst_ok _ _ _ _ _ h
      · split
        · simp [h]
        · exact State.newBurst_ok _ _ _ _ _ (by simp [h])

@[simp] theorem State.wrPieces_ok (s : State) (a : Nat) (bs : List Byte) (p : Bool) (fuel : Nat) (h : s.stored.Ok) :
    (s.wrPieces a bs p fuel).stored.Ok := by
  induction fuel generalizing s a bs with
  | zero => exact h
  | succ fuel ih =>
    unfold State.wrPieces
    split <;> simp [ih, h]

@[simp] theorem State.wrPhys_ok (s : State) (a : Nat) (bs : List Byte) (p : Bool) (h : s.stored.Ok) : (s.wrPhys a bs p).stored.Ok := by
  simp [State.wrPhys, h]

@[simp] theorem State.setTub_stored (s : State) (d : Nat) (t : TubDie) : (s.setTub d t).stored = s.stored := by rfl

@[simp] theorem State.updTub_stored (s : State) (d : Nat) (f : TubDie → TubDie) : (s.updTub d f).stored = s.stored := by rfl

@[simp] theorem State.heatRead_stored (s : State) (tenant va n : Nat) : (s.heatRead tenant va n).stored = s.stored := by
  unfold State.heatRead
  repeat' split
  all_goals simp

@[simp] theorem State.hostWrite_stored (s : State) (addr : Nat) (bs : List Byte) : (s.hostWrite addr bs).stored = s.stored := by rfl

@[simp] theorem State.dmaRead_stored (s : State) (use : DmaUse) (addr len : Nat) : (s.dmaRead use addr len).1.stored = s.stored := by rfl

@[simp] theorem State.flushQueue_stored (s : State) (tn qn : Nat) : (s.flushQueue tn qn).stored = s.stored := by simp [State.flushQueue]

@[simp] theorem State.pushShadow_stored (s : State) (tn qn : Nat) (e : W32 → Entry) : (s.pushShadow tn qn e).stored = s.stored := by
  simp [State.pushShadow]

@[simp] theorem State.drainWaiting_stored (s : State) (tn fuel : Nat) : (s.drainWaiting tn fuel).stored = s.stored := by
  induction fuel generalizing s with
  | zero => rfl
  | succ fuel ih =>
    simp only [State.drainWaiting]
    split <;> simp [ih]

@[simp] theorem State.post1_stored (s : State) (tn : Nat) (e : Entry) : (s.post1 tn e).stored = s.stored := by simp [State.post1]

@[simp] theorem State.postEvent_stored (s : State) (tn op : Nat) (detail : List (Nat × Nat × Nat)) :
    (s.postEvent tn op detail).stored = s.stored := by simp [State.postEvent]

@[simp] theorem State.complete_stored (s : State) (tn : Nat) (cmd : Entry) (status code : Nat) (more : List (Nat × Nat × Nat)) :
    (s.complete tn cmd status code more).stored = s.stored := by simp [State.complete]

@[simp] theorem State.releaseFences_stored (s : State) (tn fuel : Nat) : (s.releaseFences tn fuel).stored = s.stored := by
  induction fuel generalizing s with
  | zero => rfl
  | succ fuel ih =>
    simp only [State.releaseFences]
    split <;> simp [ih]

@[simp] theorem State.finish_stored (s : State) (tn : Nat) (cmd : Entry) (status code : Nat) (more : List (Nat × Nat × Nat)) :
    (s.finish tn cmd status code more).stored = s.stored := by simp [State.finish]

@[simp] theorem State.setJob_stored (s : State) (k : Nat) (j : Job) : (s.setJob k j).stored = s.stored := by rfl

@[simp] theorem State.updJob_stored (s : State) (k : Nat) (f : Job → Job) : (s.updJob k f).stored = s.stored := by rfl

@[simp] theorem State.mapJobCtxs_stored (s : State) (j : JobRec) (f : Ctx → Ctx) : (s.mapJobCtxs j f).stored = s.stored := by rfl

@[simp] theorem State.reportQuota_stored (s : State) (tn : Nat) : (s.reportQuota tn).stored = s.stored := by simp [State.reportQuota]

@[simp] theorem State.freeFrames_stored (s : State) (tn : Nat) (sel : Nat × Nat × FrameUse → Bool) :
    (s.freeFrames tn sel).stored = s.stored := by simp [State.freeFrames]

@[simp] theorem State.dropColl_stored (s : State) (k : Nat) : (s.dropColl k).stored = s.stored := by rfl

@[simp] theorem State.endJob_stored (s : State) (k : Nat) : (s.endJob k).stored = s.stored := by
  simp [State.endJob, State.mem_stored, State.poison_stored, State.nor_stored]

@[simp] theorem State.stopJob_stored (s : State) (k : Nat) (cause : Nat) : (s.stopJob k cause).stored = s.stored := by simp [State.stopJob]

@[simp] theorem State.moduleFault_stored (s : State) : s.moduleFault.stored = s.stored := by
  unfold State.moduleFault
  split <;> simp

@[simp] theorem State.fillScan_stored (s : State) (n : Nat) (pass : Option Nat) : (s.fillScan n pass).stored = s.stored := by
  simp only [State.fillScan]
  split <;> simp

@[simp] theorem State.schedule_stored (s : State) (n : Nat) (pass : Option Nat) (atStart : Bool) :
    (s.schedule n pass atStart).stored = s.stored := by
  unfold State.schedule
  repeat' split
  all_goals simp

@[simp] theorem State.parkCtx_stored (s : State) (n k : Nat) : (s.parkCtx n k).stored = s.stored := by rfl

@[simp] theorem State.release_stored (s : State) (n k : Nat) : (s.release n k).stored = s.stored := by simp [State.release]

@[simp] theorem State.park_stored (s : State) (n k : Nat) : (s.park n k).stored = s.stored := by simp [State.park]

@[simp] theorem State.dropMove_stored (s : State) (k : Nat) : (s.dropMove k).stored = s.stored := by simp [State.dropMove]

@[simp] theorem State.forgetStep_ok (s : State) (k : Nat) (r : W32) (h : s.stored.Ok) : (s.forgetStep k r).stored.Ok :=
  h.withMem (Memory.wf_foldl (fun _ _ hm => Memory.wf_xorBytes _ _ _ hm) _ h.mem)

@[simp] theorem State.restartJob_ok (s : State) (k : Nat) (r : W32) (h : s.stored.Ok) : (s.restartJob k r).stored.Ok := by
  simp [State.restartJob, State.ok_foldl, h]

@[simp] theorem State.holdJob_stored (s : State) (k : Nat) : (s.holdJob k).stored = s.stored := by simp [State.holdJob, State.stored_foldl]

@[simp] theorem State.replayJob_ok (s : State) (k : Nat) (h : s.stored.Ok) : (s.replayJob k).stored.Ok := by simp [State.replayJob, h]

@[simp] theorem State.stepStop_ok (s : State) (k : Nat) (cause : Nat) (h : s.stored.Ok) : (s.stepStop k cause).stored.Ok := by
  simp [State.stepStop, h]

@[simp] theorem State.seqFault_stored (s : State) (n k code : Nat) : (s.seqFault n k code).stored = s.stored := by
  simp only [State.seqFault]
  repeat' split
  all_goals simp

/-! ### Sequencer -/

@[simp] theorem State.poisonStop_ok (s : State) (n k g : Nat) (h : s.stored.Ok) : (s.poisonStop n k g).stored.Ok := by
  simp only [State.poisonStop]
  split <;> simp [h]

@[simp] theorem State.logCorrected_stored (s : State) (n k : Nat) (ecc : Ecc) : (s.logCorrected n k ecc).stored = s.stored := by
  unfold State.logCorrected
  split <;> simp

@[simp] theorem State.seqStep_ok (s : State) (n : Nat) (ecc : Ecc) (cls opc : Nat) {eff : State → Nat → Nat → IWord → State}
    (hf : ∀ s n k w, s.stored.Ok → (eff s n k w).stored.Ok) (h : s.stored.Ok) : (s.seqStep n ecc cls opc eff).stored.Ok := by
  unfold State.seqStep
  split
  · exact h
  · simp [h]
  · split
    · simp [h]
    · split
      · exact h
      · exact hf _ _ _ _ (by simp [h])

theorem seqOwn_ok {eff : State → Nat → Nat → IWord → State} (hf : ∀ s n k w, s.stored.Ok → (eff s n k w).stored.Ok)
    (s : State) (n k : Nat) (w : IWord) (h : s.stored.Ok) : (seqOwn eff s n k w).stored.Ok := by
  unfold seqOwn
  split
  · simp [h]
  · simp [h]
  · exact hf _ _ _ _ h

@[simp] theorem State.ownStep_ok (s : State) (n : Nat) (ecc : Ecc) (cls opc : Nat) {eff : State → Nat → Nat → IWord → State}
    (hf : ∀ s n k w, s.stored.Ok → (eff s n k w).stored.Ok) (h : s.stored.Ok) : (s.ownStep n ecc cls opc eff).stored.Ok :=
  s.seqStep_ok n ecc cls opc (seqOwn_ok hf) h

@[simp] theorem withTarget_stored (f : Ctx → IWord → Ctx) (s : State) (n k : Nat) (w : IWord) :
    (withTarget f s n k w).stored = s.stored := by simp [withTarget]

@[simp] theorem effNop_stored (s : State) (n k : Nat) (w : IWord) : (effNop s n k w).stored = s.stored := by rfl

@[simp] theorem effJump_stored (s : State) (n : Nat) (k : Nat) (w : IWord) : (effJump s n k w).stored = s.stored := by simp [effJump]

@[simp] theorem effBranchNz_stored (s : State) (n : Nat) (k : Nat) (w : IWord) : (effBranchNz s n k w).stored = s.stored := by
  simp [effBranchNz]

@[simp] theorem effBranchZ_stored (s : State) (n : Nat) (k : Nat) (w : IWord) : (effBranchZ s n k w).stored = s.stored := by
  simp [effBranchZ]

@[simp] theorem effLoop_stored (s : State) (n k : Nat) (w : IWord) : (effLoop s n k w).stored = s.stored := by simp [effLoop]

@[simp] theorem effLoopEnd_stored (s : State) (n k : Nat) (w : IWord) : (effLoopEnd s n k w).stored = s.stored := by
  simp only [effLoopEnd]
  split <;> simp

@[simp] theorem effFence_stored (s : State) (n k : Nat) (w : IWord) : (effFence s n k w).stored = s.stored := by simp [effFence]

@[simp] theorem effTickEnd_stored (s : State) (n k : Nat) (w : IWord) : (effTickEnd s n k w).stored = s.stored := by rfl

@[simp] theorem effHalt_stored (s : State) (n k : Nat) (w : IWord) : (effHalt s n k w).stored = s.stored := by rfl

@[simp] theorem effReadFlags_stored (s : State) (n k : Nat) (w : IWord) : (effReadFlags s n k w).stored = s.stored := by rfl

@[simp] theorem effClearFlags_stored (s : State) (n k : Nat) (w : IWord) : (effClearFlags s n k w).stored = s.stored := by rfl

@[simp] theorem scalar_stored (f : W32 → W32 → W32) (s : State) (n k : Nat) (w : IWord) : (scalar f s n k w).stored = s.stored := by rfl

@[simp] theorem effMovi_stored (s : State) (n k : Nat) (w : IWord) : (effMovi s n k w).stored = s.stored := by rfl

@[simp] theorem effAdd_stored (s : State) (n : Nat) (k : Nat) (w : IWord) : (effAdd s n k w).stored = s.stored := by rfl

@[simp] theorem effSub_stored (s : State) (n : Nat) (k : Nat) (w : IWord) : (effSub s n k w).stored = s.stored := by rfl

@[simp] theorem effMul_stored (s : State) (n : Nat) (k : Nat) (w : IWord) : (effMul s n k w).stored = s.stored := by rfl

@[simp] theorem effAnd_stored (s : State) (n : Nat) (k : Nat) (w : IWord) : (effAnd s n k w).stored = s.stored := by rfl

@[simp] theorem effOr_stored (s : State) (n : Nat) (k : Nat) (w : IWord) : (effOr s n k w).stored = s.stored := by rfl

@[simp] theorem effXor_stored (s : State) (n : Nat) (k : Nat) (w : IWord) : (effXor s n k w).stored = s.stored := by rfl

@[simp] theorem effShl_stored (s : State) (n : Nat) (k : Nat) (w : IWord) : (effShl s n k w).stored = s.stored := by rfl

@[simp] theorem effShr_stored (s : State) (n : Nat) (k : Nat) (w : IWord) : (effShr s n k w).stored = s.stored := by rfl

@[simp] theorem effSltu_stored (s : State) (n : Nat) (k : Nat) (w : IWord) : (effSltu s n k w).stored = s.stored := by rfl

@[simp] theorem effAddi_stored (s : State) (n k : Nat) (w : IWord) : (effAddi s n k w).stored = s.stored := by rfl

@[simp] theorem ownEffect_stored (w : IWord) (s : State) (n k : Nat) (v : IWord) : (ownEffect w s n k v).stored = s.stored := by
  suffices h : ∀ f, ownEffect w = f → (f s n k v).stored = s.stored from h _ rfl
  intro f hf
  unfold ownEffect at hf
  split at hf <;> subst hf <;> simp

@[simp] theorem State.releaseSeq_ok (s : State) (n : Nat) (h : s.stored.Ok) : (s.releaseSeq n).stored.Ok := by
  simp only [State.releaseSeq]
  split
  · exact h
  · split
    · split <;> simp [h]
    · exact h

/-! ### Context -/

@[simp] theorem State.slotStart_stored (s : State) (n : Nat) : (s.slotStart n).stored = s.stored := by
  simp only [State.slotStart]
  repeat' split
  all_goals simp

@[simp] theorem State.drainCore_stored (s : State) (n : Nat) : (s.drainCore n).stored = s.stored := by
  simp only [State.drainCore]
  split <;> simp

@[simp] theorem State.resumeCore_stored (s : State) (n : Nat) : (s.resumeCore n).stored = s.stored := by simp [State.resumeCore]

@[simp] theorem State.commitWord_stored (s : State) (n : Nat) (data3 : W32) : (s.commitWord n data3).stored = s.stored := by
  simp [State.commitWord]

@[simp] theorem execFenceComplete_stored (core : Nat) (s : State) : outStored (execFenceComplete core s) = some s.stored := by
  unfold execFenceComplete
  split <;> simp

@[simp] theorem State.retireIfStopping_stored (s : State) (n k : Nat) : (s.retireIfStopping n k).stored = s.stored := by
  unfold State.retireIfStopping
  split <;> simp

@[simp] theorem State.overrun_stored (s : State) (n k b : Nat) : (s.overrun n k b).stored = s.stored := by simp [State.overrun]

@[simp] theorem State.overrunTo_stored (s : State) (n k b0 b1 : Nat) : (s.overrunTo n k b0 b1).stored = s.stored := by
  simp [State.overrunTo, State.stored_foldl]

@[simp] theorem State.tickEndRetire_stored (s : State) (n k : Nat) :
    (s.tickEndRetire n k).stored = s.stored := by simp [State.tickEndRetire]

@[simp] theorem execTickEndRetire_stored (core : Nat) (s : State) : outStored (execTickEndRetire core s) = some s.stored := by
  unfold execTickEndRetire
  split <;> simp

@[simp] theorem State.haltRetire_stored (s : State) (n k : Nat) : (s.haltRetire n k).stored = s.stored := by simp [State.haltRetire]

@[simp] theorem execHaltRetire_stored (core : Nat) (s : State) : outStored (execHaltRetire core s) = some s.stored := by
  unfold execHaltRetire
  split <;> simp

/-! ### Matrix -/

@[simp] theorem State.latchNext_stored (s : State) (n k : Nat) : (s.latchNext n k).stored = s.stored := by
  simp only [State.latchNext]
  repeat' split
  all_goals simp

@[simp] theorem State.mxTake_stored (s : State) (n k : Nat) (w : IWord) : (s.mxTake n k w).stored = s.stored := by
  simp only [State.mxTake]
  split <;> simp

@[simp] theorem State.convTake_stored (s : State) (n k : Nat) (w : IWord) : (s.convTake n k w).stored = s.stored := by
  unfold State.convTake
  split <;> simp

@[simp] theorem State.mxAccept_stored (s : State) (n k : Nat) (w : IWord) : (s.mxAccept n k w).stored = s.stored := by simp [State.mxAccept]

@[simp] theorem State.mapMx_stored (s : State) (f : MxSt → MxSt) : (s.mapMx f).stored = s.stored := by
  simp [State.mapMx]

@[simp] theorem State.suspendBallast_stored (s : State) : s.suspendBallast.stored = s.stored := by simp [State.suspendBallast]

@[simp] theorem State.resumeBallast_stored (s : State) : s.resumeBallast.stored = s.stored := by simp [State.resumeBallast]

theorem finishElem_wf (rd : Rd) (base : Nat) (d : Draw) (cs : ConvState) (t : TileJob) (m n : Nat) (a : Acc) {u : UnitAcc}
    (h : Memory.wf u.mem = true) : Memory.wf (finishElem rd base d cs t m n a u).mem = true := Memory.wf_wrBytes _ _ _ h

theorem partElem_wf (base mode : Nat) (t : TileJob) (row col : Nat) (a : Acc) {u : UnitAcc} (h : Memory.wf u.mem = true) :
    Memory.wf (partElem base mode t row col a u).mem = true := Memory.wf_wrBytes _ _ _ (Memory.wf_wrBytes _ _ _ h)

theorem tileElem_wf (rd : Rd) (base : Nat) (acc0 : Sp Acc) (bank : Nat) (d : Draw) (r : MxRun) (t : TileJob) {u : UnitAcc}
    (rc : Nat × Nat) (h : Memory.wf u.mem = true) : Memory.wf (tileElem rd base acc0 bank d r t u rc).mem = true := by
  simp only [tileElem]
  split
  · split
    · exact finishElem_wf _ _ _ _ _ _ _ _ h
    · exact h
  · exact partElem_wf _ _ _ _ _ _ h

theorem runUnit_wf {m : Sp Byte} (base : Nat) (acc0 : Sp Acc) (bank : Nat) (d : Draw) (r : MxRun) (u : Nat)
    (h : Memory.wf m = true) : Memory.wf (runUnit m base acc0 bank d r u).mem = true :=
  List.foldlRecOn (motive := fun v : UnitAcc => Memory.wf v.mem = true) _ _ h fun _ hu _ _ =>
    List.foldlRecOn (motive := fun v : UnitAcc => Memory.wf v.mem = true) _ _ hu fun _ hv _ _ => tileElem_wf _ _ _ _ _ _ _ _ hv

@[simp] theorem State.unitDone_ok (s : State) (n k : Nat) (r : MxRun) (rs : List MxRun) (h : s.stored.Ok) :
    (s.unitDone n k r rs).stored.Ok := by
  have hunit (base : Nat) (acc0 : Sp Acc) (bank : Nat) (d : Draw) (u : Nat) :
      (⟨(runUnit s.mem base acc0 bank d r u).mem, s.poison, s.nor⟩ : Storage).Ok := h.withMem (runUnit_wf _ _ _ _ _ _ h.mem)
  unfold State.unitDone
  split <;> simp [hunit]

@[simp] theorem execUnitComplete_ok (core : Nat) (s : State) (h : s.stored.Ok) : OutOk (execUnitComplete core s) := by
  unfold execUnitComplete
  repeat' split
  all_goals simp [h]

@[simp] theorem State.updArray_stored (s : State) (n a : Nat) (f : ArrSt → ArrSt) : (s.updArray n a f).stored = s.stored := by rfl

@[simp] theorem execBallastRampUp_stored (core array : Nat) (s : State) : outStored (execBallastRampUp core array s) = some s.stored := by
  unfold execBallastRampUp
  split <;> simp

/-! ### VectorOps -/

@[simp] theorem State.vArithRows_stored (s : State) (n k : Nat) (w : IWord) (ls : List W32 × List W32) (accs : List (W32 × NFlags))
    (lo hi : Nat) :
    (s.vArithRows n k w ls accs lo hi).stored = s.stored := by rfl

@[simp] theorem State.beginVe_stored (s : State) (n k : Nat) (r : VeRun) : (s.beginVe n k r).stored = s.stored := by rfl

@[simp] theorem State.vArithTake_stored (s : State) (n k : Nat) (w : IWord) : (s.vArithTake n k w).stored = s.stored := by
  simp [State.vArithTake]

@[simp] theorem State.vLoadRows_stored (s : State) (n k : Nat) (t : VXfer) (f : FFmt) (lo hi : Nat) :
    (s.vLoadRows n k t f lo hi).stored = s.stored := by simp [State.vLoadRows]

@[simp] theorem State.vLoadTake_stored (s : State) (n k : Nat) (w : IWord) : (s.vLoadTake n k w).stored = s.stored := by
  simp only [State.vLoadTake]
  split <;> simp

@[simp] theorem State.vStoreRows_ok (s : State) (n k : Nat) (t : VXfer) (f : FFmt) (lo hi : Nat) (h : s.stored.Ok) :
    (s.vStoreRows n k t f lo hi).stored.Ok :=
  h.withMem (Memory.wf_foldl (fun _ _ hm => Memory.wf_wrBytes _ _ _ hm) _ h.mem)

@[simp] theorem State.vStoreTake_ok (s : State) (n k : Nat) (w : IWord) (h : s.stored.Ok) : (s.vStoreTake n k w).stored.Ok := by
  simp only [State.vStoreTake]
  split <;> simp [h]

@[simp] theorem State.vSetSaveTake_stored (s : State) (n k : Nat) (w : IWord) : (s.vSetSaveTake n k w).stored = s.stored := by
  simp only [State.vSetSaveTake]
  repeat' split
  all_goals simp

@[simp] theorem State.vSrSetTake_stored (s : State) (n k : Nat) (w : IWord) : (s.vSrSetTake n k w).stored = s.stored := by
  simp [State.vSrSetTake]

@[simp] theorem State.veAccept_ok (s : State) (n k : Nat) (w : IWord) (h : s.stored.Ok) : (s.veAccept n k w).stored.Ok := by
  unfold State.veAccept
  split <;> simp [h]

@[simp] theorem execVstoreArrival_stored (core : Nat) (s : State) : outStored (execVstoreArrival core s) = some s.stored := by
  simp only [execVstoreArrival]
  repeat' split
  all_goals simp

@[simp] theorem State.veRows_ok (s : State) (n k : Nat) (r : VeRun) (lo hi : Nat) (h : s.stored.Ok) : (s.veRows n k r lo hi).stored.Ok := by
  simp only [State.veRows]
  repeat' split
  all_goals simp [h]

@[simp] theorem State.undoVe_ok (s : State) (n k : Nat) (r : VeRun) (h : s.stored.Ok) : (s.undoVe n k r).stored.Ok := by
  refine h.withMem (Memory.wf_foldl (fun _ _ hm => ?_) _ h.mem)
  split
  · exact Memory.wf_wrByte _ _ _ hm
  · exact hm

@[simp] theorem State.cutVe_ok (s : State) (n k : Nat) (h : s.stored.Ok) : (s.cutVe n k).stored.Ok := by
  unfold State.cutVe
  split <;> simp [h]

@[simp] theorem State.resumeVe_ok (s : State) (n k : Nat) (h : s.stored.Ok) : (s.resumeVe n k).stored.Ok := by
  unfold State.resumeVe
  split <;> simp [h]

@[simp] theorem State.updVe_stored (s : State) (n : Nat) (f : VeSt → VeSt) : (s.updVe n f).stored = s.stored := by rfl

/-! ### StreamOps -/

@[simp] theorem State.farmTake_stored (s : State) (n k : Nat) (w : IWord) : (s.farmTake n k w).stored = s.stored := by simp [State.farmTake]

@[simp] theorem State.sxferTake_stored (s : State) (n k : Nat) (w : IWord) : (s.sxferTake n k w).stored = s.stored := by
  unfold State.sxferTake
  extract_lets x off
  split
  · simp
  · extract_lets
    split <;> simp

@[simp] theorem State.stAccept_stored (s : State) (n k : Nat) (w : IWord) : (s.stAccept n k w).stored = s.stored := by simp [State.stAccept]

@[simp] theorem State.writePieces_ok (s : State) (p es : Nat) (els : List (List Byte × Bool)) (fuel : Nat)
    (h : s.stored.Ok) :
    (s.writePieces p es els fuel).stored.Ok := by
  induction fuel generalizing s p els with
  | zero => exact h
  | succ fuel ih =>
    unfold State.writePieces
    split <;> simp [ih, h]

@[simp] theorem State.writeRun_ok (s : State) (n tenant space es : Nat) (a : Int) (els : List (List Byte × Bool)) (h : s.stored.Ok) :
    (s.writeRun n tenant space es a els).stored.Ok := by
  unfold State.writeRun
  repeat' split
  all_goals simp [h]

@[simp] theorem State.writeCut_ok (s : State) (n tenant space es : Nat) (a : Int) (els : List (List Byte × Bool)) (fuel : Nat)
    (h : s.stored.Ok) :
    (s.writeCut n tenant space es a els fuel).stored.Ok := by
  induction fuel generalizing s a els with
  | zero => exact h
  | succ fuel ih =>
    unfold State.writeCut
    split <;> simp [ih, h]

@[simp] theorem State.heatRun_stored (s : State) (tenant space : Nat) (a : Int) (len fuel : Nat) :
    (s.heatRun tenant space a len fuel).stored = s.stored := by
  induction fuel generalizing s a len with
  | zero => rfl
  | succ fuel ih => simp [State.heatRun, ih]

@[simp] theorem State.touchPage_stored (s : State) (n tenant space : Nat) (a : Int) : (s.touchPage n tenant space a).stored = s.stored := by
  simp [State.touchPage]

@[simp] theorem State.touchRun_stored (s : State) (n tenant space es : Nat) (a : Int) (m : Nat) :
    (s.touchRun n tenant space es a m).stored = s.stored := by
  induction m with
  | zero => rfl
  | succ m ih => simp [State.touchRun, ih]

@[simp] theorem State.noteElems_ok (s : State) (tenant space : Nat) (l : List Int) (last : Nat) (h : s.stored.Ok) :
    (s.noteElems tenant space l last).stored.Ok := by
  induction l generalizing s last with
  | nil => exact h
  | cons a r ih =>
    simp only [State.noteElems]
    split
    · split <;> simp [ih, h]
    · simp [ih, h]

@[simp] theorem State.moveRun_ok (s : State) (n tenant : Nat) (t : StRun) (r : List Nat × Nat × Nat) (els : List (List Byte × Bool))
    (h : s.stored.Ok) : (s.moveRun n tenant t r els).1.stored.Ok := by
  simp only [State.moveRun, State.updCore_stored]
  refine State.writeCut_ok _ _ _ _ _ _ _ _ ?_
  split <;> simp [State.stored_foldl, h]

@[simp] theorem State.setRun_stored (s : State) (n k : Nat) (t : StRun) : (s.setRun n k t).stored = s.stored := by rfl

@[simp] theorem State.writeRuns_ok (s : State) (n tenant : Nat) (t : StRun) (els : List (List Byte × Bool))
    (rs : List (List Nat × Nat × Nat)) (h : s.stored.Ok) : (s.writeRuns n tenant t els rs).1.stored.Ok := by
  induction rs generalizing s els with
  | nil => exact h
  | cons r rs ih => exact ih _ _ (s.moveRun_ok n tenant t r _ h)

theorem State.moveNext_ok (s : State) (n tenant : Nat) (t : StRun) {o : State × StRun} {t' : StRun} (h : s.stored.Ok)
    (hm : s.moveNext n tenant t = (some o, t')) : o.1.stored.Ok := by
  simp only [State.moveNext] at hm
  split at hm
  · simp at hm
  · split at hm
    · simp at hm
    · simp only [Prod.mk.injEq, Option.some.injEq] at hm
      obtain ⟨rfl, -⟩ := hm
      exact s.writeRuns_ok _ _ _ _ _ h

@[simp] theorem State.deliver_ok (s : State) (n tenant : Nat) (t : StRun) (stop fuel : Nat) (h : s.stored.Ok) :
    (s.deliver n tenant t stop fuel).1.stored.Ok := by
  induction fuel generalizing s t with
  | zero => exact h
  | succ fuel ih =>
    unfold State.deliver
    split
    · exact h
    · split
      next o _ hm => exact ih _ _ (s.moveNext_ok n tenant t h hm)
      next => exact h

@[simp] theorem State.sendArrival_stored (s : State) (n k m g : Nat) (poison : Bool) :
    (s.sendArrival n k m g poison).1.stored = s.stored := by
  simp only [State.sendArrival]
  repeat' split
  all_goals simp

@[simp] theorem State.sendArrivals_stored (s : State) (n k g : Nat) (poison : Bool) (ms : List Nat) :
    (s.sendArrivals n k g poison ms).1.stored = s.stored := by
  induction ms generalizing s with
  | nil => rfl
  | cons m ms ih => simp [State.sendArrivals, ih]

@[simp] theorem State.chunkArrive_stored (s : State) (n k : Nat) (t : StRun) (poison : Bool) :
    (s.chunkArrive n k t poison).stored = s.stored := by simp [State.chunkArrive]

@[simp] theorem State.poisonOut_stored (s : State) (n k : Nat) (t : StRun) (fuel : Nat) : (s.poisonOut n k t fuel).stored = s.stored := by
  induction fuel generalizing s t with
  | zero => rfl
  | succ fuel ih =>
    simp only [State.poisonOut]
    split <;> simp [ih]

@[simp] theorem State.guestSend_stored (s : State) (kind : GKind) : (s.guestSend kind).1.stored = s.stored := by rfl

@[simp] theorem State.fetchFrom_stored (s : State) (n k tenant : Nat) (t : StRun) (va len : Nat) :
    (s.fetchFrom n k tenant t va len).stored = s.stored := by
  unfold State.fetchFrom
  repeat' split
  all_goals simp

@[simp] theorem State.outFetch_stored (s : State) (n k tenant : Nat) (t : StRun) : (s.outFetch n k tenant t).stored = s.stored := by
  simp only [State.outFetch]
  split <;> simp

@[simp] theorem State.chunkStep_ok (s : State) (n k : Nat) (t : StRun) (h : s.stored.Ok) : (s.chunkStep n k t).stored.Ok := by
  simp [State.chunkStep, h]

@[simp] theorem State.suspendStep_ok (s : State) (n k : Nat) (t : StRun) (h : s.stored.Ok) : (s.suspendStep n k t).stored.Ok := by
  simp only [State.suspendStep]
  split <;> simp [h]

@[simp] theorem State.resumeTransfers_stored (s : State) (tenant key : Nat) : (s.resumeTransfers tenant key).stored = s.stored := by rfl

@[simp] theorem State.pageSettled_stored (s : State) (tenant va : Nat) : (s.pageSettled tenant va).stored = s.stored := by
  simp [State.pageSettled]

@[simp] theorem State.fetched_stored (s : State) (n : Nat) (id : Bool × Nat) (head : Nat) (data : List Byte) (bad : List Nat) :
    (s.fetched n id head data bad).stored = s.stored := by
  unfold State.fetched
  repeat' split
  all_goals simp

/-! ### TierOps -/

@[simp] theorem State.zeroFrame_ok (s : State) (f : Nat) (h : s.stored.Ok) : (s.zeroFrame f).stored.Ok :=
  ⟨Memory.wf_eraseRange _ _ _ h.mem, Sp.wf_eraseRange _ _ _ _ h.poison, h.nor⟩

@[simp] theorem State.giveFrame_ok (s : State) (o : Nat × Nat × FrameUse) (f : Nat) (h : s.stored.Ok) : (s.giveFrame o f).stored.Ok :=
  s.zeroFrame_ok f h

theorem State.allocFrames_ok (s : State) (d n : Nat) (o : Nat × Nat × FrameUse) {a : State × List Nat} (h : s.stored.Ok)
    (ha : s.allocFrames d n o = some a) : a.1.stored.Ok := by
  simp only [State.allocFrames, Option.ite_none_right_eq_some, Option.some.injEq] at ha
  obtain ⟨-, rfl⟩ := ha
  exact State.ok_foldl (fun s f hs => s.giveFrame_ok o f hs) _ h

@[simp] theorem State.setT2_stored (s : State) (key : Nat) (t : T2Tensor) : (s.setT2 key t).stored = s.stored := by rfl

@[simp] theorem State.updT2_stored (s : State) (key : Nat) (f : T2Tensor → T2Tensor) : (s.updT2 key f).stored = s.stored := by rfl

@[simp] theorem State.setPage_stored (s : State) (k : Nat) (e : PageEnt) : (s.setPage k e).stored = s.stored := by rfl

@[simp] theorem State.invalidate_stored (s : State) (key : Nat) : (s.invalidate key).stored = s.stored := by rfl

@[simp] theorem State.mapBig_stored (s : State) (tenant va : Nat) (moving : Bool) (f : Nat → PageTo) (l : List Nat) :
    (s.mapBig tenant va moving f l).stored = s.stored := by
  induction l generalizing s with
  | nil => rfl
  | cons i l ih => simp [State.mapBig, ih]

@[simp] theorem State.unmapBig_stored (s : State) (tenant va n : Nat) : (s.unmapBig tenant va n).stored = s.stored := by
  simp [State.unmapBig, State.stored_foldl]

@[simp] theorem State.dropCopy_stored (s : State) (key : Nat) : (s.dropCopy key).stored = s.stored := by
  simp [State.dropCopy, State.mem_stored, State.poison_stored, State.nor_stored]

@[simp] theorem State.stopPromotion_stored (s : State) : s.stopPromotion.stored = s.stored := by
  unfold State.stopPromotion
  split <;> simp [State.mem_stored, State.poison_stored, State.nor_stored]

@[simp] theorem State.dropWhile_stored (s : State) (sel : Nat → Bool) (cond : State → Bool) (fuel : Nat) :
    (s.dropWhile sel cond fuel).stored = s.stored := by
  induction fuel generalizing s with
  | zero => rfl
  | succ fuel ih =>
    unfold State.dropWhile
    split
    · split <;> simp [ih]
    · rfl

@[simp] theorem State.settleQuota_stored (s : State) (tn : Nat) : (s.settleQuota tn).stored = s.stored := by
  simp [State.settleQuota, State.mem_stored, State.poison_stored, State.nor_stored]

@[simp] theorem State.setQuota_stored (s : State) (tn tier pages : Nat) : (s.setQuota tn tier pages).stored = s.stored := by
  simp [State.setQuota]

@[simp] theorem State.noteFrame_ok (s : State) (f cause : Nat) (h : s.stored.Ok) : (s.noteFrame f cause).stored.Ok := by
  refine State.ok_foldl (fun s b hs => ?_) _ (by simpa using h)
  split
  · exact hs
  · exact s.noteBurst_ok b cause hs

theorem Memory.wf_copyRange {α : Type} [DecidableEq α] (d : α) {t : Sp α} (src dst n : Nat) (h : Sp.wf d t = true) :
    Sp.wf d (copyRange d t src dst n) = true :=
  List.foldlRecOn (motive := fun m => Sp.wf d m = true) _ _ (Sp.wf_eraseRange _ _ _ _ h) fun _ hm _ _ => Sp.wf_set _ _ _ _ hm

@[simp] theorem State.fillFrame_ok (s : State) (a dst : Nat) (h : s.stored.Ok) : (s.fillFrame a dst).stored.Ok :=
  ⟨Memory.wf_copyRange _ _ _ _ h.mem, Memory.wf_copyRange _ _ _ _ h.poison, h.nor⟩

@[simp] theorem State.copyFrame_ok (s : State) (src dst : Nat) (h : s.stored.Ok) :
    (s.copyFrame src dst).stored.Ok := by simp [State.copyFrame, h]

/-! ### MemOps -/

@[simp] theorem State.writeRetList_ok (s : State) (l : List (Nat × Nat)) (h : s.stored.Ok) : (s.writeRetList l).stored.Ok := by
  simp only [State.writeRetList, State.stored_mk]
  exact h.withNor (Memory.wf_norPut _ _ _ h.nor)

@[simp] theorem State.correctable_stored (s : State) (a : Nat) : (s.correctable a).stored = s.stored := by simp [State.correctable]

@[simp] theorem State.updMaps_stored (s : State) (f : Nat) (g : PageEnt → PageEnt) : (s.updMaps f g).stored = s.stored := by
  simp [State.updMaps, State.stored_foldl]

@[simp] theorem State.resumeOn_stored (s : State) (f : Nat) :
    (s.resumeOn f).stored = s.stored := by simp [State.resumeOn, State.stored_foldl]

@[simp] theorem State.logRetire_stored (s : State) (page reason : Nat) : (s.logRetire page reason).stored = s.stored := by
  simp [State.logRetire]

@[simp] theorem State.retireEnd_stored (s : State) (d state reason page : Nat) : (s.retireEnd d state reason page).stored = s.stored := by
  simp [State.retireEnd]

@[simp] theorem State.stopMove_stored (s : State) (d f : Nat) : (s.stopMove d f).stored = s.stored := by
  simp only [State.stopMove]
  split <;> simp

@[simp] theorem State.quarantine_stored (s : State) (f cause : Nat) : (s.quarantine f cause).stored = s.stored := by
  simp [State.quarantine, State.stored_foldl]

@[simp] theorem State.afterQuarantine_stored (s : State) (f cause : Nat) : (s.afterQuarantine f cause).stored = s.stored := by
  simp only [State.afterQuarantine]
  repeat' split
  all_goals simp

@[simp] theorem State.uncorrectable_ok (s : State) (a cause : Nat) (h : s.stored.Ok) : (s.uncorrectable a cause).stored.Ok := by
  simp [State.uncorrectable, h]

@[simp] theorem State.countPoisonRead_stored (s : State) (a : Nat) : (s.countPoisonRead a).stored = s.stored := by rfl

@[simp] theorem State.burstRead_ok (s : State) (a cause : Nat) (ecc : Ecc) (h : s.stored.Ok) : (s.burstRead a cause ecc).1.stored.Ok := by
  simp only [State.burstRead]
  repeat' split
  all_goals simp [h]

@[simp] theorem State.settleDie_ok (s : State) (d : Nat) (h : s.stored.Ok) : (s.settleDie d).stored.Ok := by
  refine State.ok_foldl (fun s e hs => ?_) _ (by simpa using h)
  split <;> simp [hs]

@[simp] theorem State.settle_ok (s : State) (h : s.stored.Ok) : s.settle.stored.Ok := State.ok_foldl State.settleDie_ok _ h

@[simp] theorem State.serveAcc_ok (s : State) (q : MemAcc) (h : s.stored.Ok) : (s.serveAcc q).1.stored.Ok := by
  simp only [State.serveAcc]
  split
  · simp [h]
  · simp [h]
  · split
    · simp [h]
    · split
      · simp [h]
      · exact State.newBurst_ok _ _ _ _ _ (by simp [h])

@[simp] theorem State.deferAcc_stored (s : State) (q : MemAcc) : (s.deferAcc q).stored = s.stored := by rfl

@[simp] theorem State.serveDie_ok (s : State) (d : Nat) (h : s.stored.Ok) : (s.serveDie d).stored.Ok := by
  simp only [State.serveDie, State.stored_ite, State.stored_mk, State.stored_eta, ite_self]
  refine State.ok_foldl_fst (fun a q ha => ?_) _ (by simpa using h)
  split <;> simp [ha]

@[simp] theorem State.serveWaiting_ok (s : State) (h : s.stored.Ok) : s.serveWaiting.stored.Ok := by
  refine State.ok_foldl (fun s d hs => ?_) _ h
  split <;> simp [hs]

@[simp] theorem execFrameStart_stored (die : Nat) (f : FrameRep) (s : State) : outStored (execFrameStart die f s) = some s.stored := by
  simp [execFrameStart, State.stored_foldl]

@[simp] theorem State.retirePage_stored (s : State) (d page : Nat) : (s.retirePage d page).stored = s.stored := by simp [State.retirePage]

@[simp] theorem State.settlePage_ok (s : State) (d page : Nat) (h : s.stored.Ok) : (s.settlePage d page).stored.Ok := by
  simp only [State.settlePage]
  repeat' split
  all_goals simp [h]

@[simp] theorem State.finishMove_ok (s : State) (d : Nat) (h : s.stored.Ok) : (s.finishMove d).stored.Ok := by
  simp only [State.finishMove]
  split
  · rw [State.retireEnd_stored, State.setFrame_stored, State.stored_mk, State.stored_eta]
    split <;> simp [h]
  · exact h

@[simp] theorem State.listTimeout_stored (s : State) (die armed page : Nat) : (s.listTimeout die armed page).stored = s.stored := by
  simp [State.listTimeout]

@[simp] theorem execRetireComplete_ok (die : Nat) (ok : Bool) (s : State) (h : s.stored.Ok) : OutOk (execRetireComplete die ok s) := by
  simp only [execRetireComplete]
  split <;> simp [h]

@[simp] theorem execRetirementWriteTimeout_stored (die : Nat) (s : State) :
    outStored (execRetirementWriteTimeout die s) = some s.stored := by
  simp only [execRetirementWriteTimeout]
  split <;> simp

@[simp] theorem execFaultResolved_ok (tenant va : Nat) (s : State) (h : s.stored.Ok) : OutOk (execFaultResolved tenant va s) := by
  simp only [execFaultResolved]
  split <;> simp [h]

/-! ### TuberOps -/

@[simp] theorem State.noteUnit_ok (s : State) (a : Nat) (h : s.stored.Ok) : (s.noteUnit a).stored.Ok := by simp [State.noteUnit, h]

@[simp] theorem State.noteShares_ok (s : State) (sp : Span) (r : TRec) (h : s.stored.Ok) : (s.noteShares sp r).stored.Ok :=
  State.ok_foldl (fun _ _ hs => State.ok_foldl (fun s i hs => by split <;> simp [hs]) _ hs) _ h

@[simp] theorem State.noteVirt_ok (s : State) (tenant va n fuel : Nat) (h : s.stored.Ok) : (s.noteVirt tenant va n fuel).stored.Ok := by
  induction fuel generalizing s va n with
  | zero => exact h
  | succ fuel ih =>
    simp only [State.noteVirt]
    split
    · exact h
    · refine ih _ _ _ ?_
      split <;> simp [h]

@[simp] theorem State.writeVirt_ok (s : State) (tenant va : Nat) (bs : List Byte) (p : Bool) (fuel : Nat) (h : s.stored.Ok) :
    (s.writeVirt tenant va bs p fuel).stored.Ok := by
  induction fuel generalizing s va bs with
  | zero => exact h
  | succ fuel ih =>
    unfold State.writeVirt
    split
    · exact h
    · refine ih _ _ _ ?_
      split
      · simp [h]
      · split <;> simp [h]

@[simp] theorem State.deliverX_stored (s : State) (tn mask off group : Nat) (pieces : List (Nat × List Byte × Bool)) (poison : Bool) :
    (s.deliverX tn mask off group pieces poison).stored = s.stored := by simp [State.deliverX, State.stored_foldl]

@[simp] theorem State.opTput_ok (s : State) (tn : Nat) (sp : Span) (r : TRec) (data : Option TSource) (h : s.stored.Ok) :
    (s.opTput tn sp r data).1.stored.Ok := by
  refine State.ok_foldl_fst (fun a c ha => ?_) _ (by split <;> simp [h])
  dsimp only
  split <;> simp [ha]

@[simp] theorem State.opTget_ok (s : State) (tn : Nat) (sp : Span) (r : TRec) (h : s.stored.Ok) : (s.opTget tn sp r).1.stored.Ok := by
  refine State.ok_foldl_fst (fun a c ha => ?_) _ h
  dsimp only
  split <;> simp [ha]

@[simp] theorem State.opTlatch_ok (s : State) (d tn : Nat) (r : TRec) (data : Option TSource) (h : s.stored.Ok) :
    (s.opTlatch d tn r data).1.stored.Ok := by
  simp [State.opTlatch, State.ok_foldl_fst, h]

@[simp] theorem State.keepQueue_stored (s : State) (d tn : Nat) (sp : Span) (r : TRec) (w a : OFmt) (poisonIn : Bool) :
    (s.keepQueue d tn sp r w a poisonIn).stored = s.stored := by rfl

@[simp] theorem State.putResults_stored (s : State) (tn : Nat) (nm : NMode) (r : TRec) (poisonIn : Bool) (sets : List SetOut) :
    (s.putResults tn nm r poisonIn sets).1.stored = s.stored := by simp [State.putResults]

@[simp] theorem State.opTmv_ok (s : State) (d tn : Nat) (nm : NMode) (sp : Span) (r : TRec) (poisonIn : Bool) (h : s.stored.Ok) :
    (s.opTmv d tn nm sp r poisonIn).1.stored.Ok := by
  unfold State.opTmv
  split <;> simp [h]

@[simp] theorem State.opTsq_ok (s : State) (d tn : Nat) (nm : NMode) (sp : Span) (r : TRec) (poisonIn : Bool) (h : s.stored.Ok) :
    (s.opTsq d tn nm sp r poisonIn).1.stored.Ok := by simp [State.opTsq, h]

@[simp] theorem State.opTarm_stored (s : State) (d : Nat) (r : TRec) : (s.opTarm d r).stored = s.stored := by rfl

@[simp] theorem State.opTew_stored (s : State) (d tn : Nat) (nm : NMode) (r : TRec) : (s.opTew d tn nm r).1.stored = s.stored := by rfl

/-! ### UpdateOps -/

@[simp] theorem State.setStep_ok (s : State) (k : Nat) (st : StepSt) (h : s.stored.Ok) : (s.setStep k st).stored.Ok := by
  unfold State.setStep
  split <;> simp [h]

@[simp] theorem State.push7_stored (s : State) (tn : Nat) (es : List Entry) : (s.push7 tn es).stored = s.stored := by
  simp [State.push7, State.stored_foldl]

@[simp] theorem State.updUpd_stored (s : State) (k : Nat) (f : UpdSt → UpdSt) : (s.updUpd k f).stored = s.stored := by rfl

@[simp] theorem State.drainHost_stored (s : State) (k : Nat) : (s.drainHost k).stored = s.stored := by simp [State.drainHost]

@[simp] theorem State.hostReady_stored (s : State) (k : Nat) : (s.hostReady k).stored = s.stored := by
  simp only [State.hostReady]
  split <;> simp

@[simp] theorem State.hostCopy_stored (s : State) (k : Nat) (r : WRec) : (s.hostCopy k r).stored = s.stored := by
  simp only [State.hostCopy]
  split <;> simp

@[simp] theorem State.updUp_stored (s : State) (d : Nat) (f : UpDie → UpDie) : (s.updUp d f).stored = s.stored := by rfl

@[simp] theorem State.emit_stored (s : State) (k die : Nat) (r : WRec) : (s.emit k die r).stored = s.stored := by simp [State.emit]

@[simp] theorem State.flushSegs_stored (s : State) (k : Nat) : (s.flushSegs k).stored = s.stored := by
  simp [State.flushSegs, State.stored_foldl]

@[simp] theorem State.unitWrite_ok (s : State) (a : Nat) (bs : List Byte) (p : Bool) (h : s.stored.Ok) :
    (s.unitWrite a bs p).stored.Ok := by
  unfold State.unitWrite
  split
  · exact h
  · exact State.newBurst_ok (s.access a 0) _ _ _ _ (by simpa using h)

@[simp] theorem State.putShare_ok (s : State) (sp : Span) (u : Nat × Nat × Nat) (i : Nat) (bs : List Byte) (p : Bool) (h : s.stored.Ok) :
    (s.putShare sp u i bs p).stored.Ok := by
  unfold State.putShare
  split <;> simp [h]

@[simp] theorem State.putHalf_ok (s : State) (sp : Span) (u : Nat × Nat × Nat) (i : Nat) (bs : List Byte) (p : Bool) (h : s.stored.Ok) :
    (s.putHalf sp u i bs p).stored.Ok := by
  unfold State.putHalf
  split <;> simp [h]

@[simp] theorem State.noteUpd_ok (s : State) (rule : Nat) (sp : UpdSpans) (u : Nat × Nat × Nat) (i : Nat) (h : s.stored.Ok) :
    (s.noteUpd rule sp u i).stored.Ok := by
  refine State.ok_foldl (fun s x hs => ?_) _ h
  split <;> simp [hs]

@[simp] theorem State.updWrite_ok (s : State) (rule : Nat) (k : UpdK) (sp : UpdSpans) (ring : Span) (cap pos n : Nat)
    (u : Nat × Nat × Nat) (i j cnt : Nat) (h : s.stored.Ok) : (s.updWrite rule k sp ring cap pos n u i j cnt).1.stored.Ok := by
  simp only [State.updWrite]
  refine State.ok_foldl (fun s q hs => s.putShare_ok _ _ _ _ _ hs) _ ?_
  have hput := State.putShare_ok _ sp.m1 u i (s.updBurst rule k sp u i cnt).m1 (s.updBurst rule k sp u i cnt).poison
    (State.putHalf_ok _ sp.lo u i (s.updBurst rule k sp u i cnt).lo (s.updBurst rule k sp u i cnt).poison
      (State.putHalf_ok _ sp.hi u i (s.updBurst rule k sp u i cnt).hi (s.updBurst rule k sp u i cnt).poison
        (s.noteUpd_ok rule sp u i h)))
  split
  · exact State.putShare_ok _ _ _ _ _ _ hput
  · exact hput

@[simp] theorem State.putConsts_stored (s : State) (k : Nat) (d : UpdDec) : (s.putConsts k d).stored = s.stored := by
  simp [State.putConsts, State.stored_foldl]

@[simp] theorem State.opTupd_ok (s : State) (k : Nat) (key : UpdKey) (h : s.stored.Ok) : (s.opTupd k key).1.stored.Ok := by
  simp only [State.opTupd]
  split
  · exact h
  · simp only [State.stored_ite, State.moduleFault_stored, State.updUp_stored, State.updUpd_stored, ite_self]
    exact State.ok_foldl_fst (fun a c ha => by simp [ha]) _ h

/-! ### Tuber -/

@[simp] theorem State.setList_stored (s : State) (l : TbList) : (s.setList l).stored = s.stored := by rfl

@[simp] theorem State.addList_stored (s : State) (f : ListFrom) (tenant nmode : Nat) (records : List Entry) (poisonIn : Bool) :
    (s.addList f tenant nmode records poisonIn).stored = s.stored := by rfl

@[simp] theorem State.tbTake_stored (s : State) (n k : Nat) (w : IWord) : (s.tbTake n k w).stored = s.stored := by simp [State.tbTake]

@[simp] theorem State.settleCredit_stored (s : State) : s.settleCredit.stored = s.stored := by rfl

@[simp] theorem State.listFetched_stored (s : State) (l : Nat) (id : Bool × Nat) (head : Nat) (bs : List Byte) (bad : List Nat) :
    (s.listFetched l id head bs bad).stored = s.stored := by
  unfold State.listFetched
  split <;> simp

@[simp] theorem State.fetchSource_ok (s : State) (l : TbList) (r : TRec) (fuel : Nat) (h : s.stored.Ok) :
    (s.fetchSource l r fuel).stored.Ok := by
  induction fuel generalizing s l with
  | zero => exact h
  | succ fuel ih =>
    simp only [State.fetchSource]
    split
    · simp [h]
    · split <;> simp [ih, h]

@[simp] theorem State.updWaits_stored (s : State) (l : TbList) (die : Nat) (r : TRec) : (s.updWaits l die r).stored = s.stored := by
  unfold State.updWaits
  split <;> simp

@[simp] theorem State.recordStart_stored (s : State) (l : TbList) (d : Nat) (r : TRec) (poison : Bool) (p : Nat) :
    (s.recordStart l d r poison p).stored = s.stored := by simp [State.recordStart]

@[simp] theorem execTuberRecordStart_ok (start : RecordAt) (s : State) (h : s.stored.Ok) : OutOk (execTuberRecordStart start s) := by
  simp only [execTuberRecordStart]
  repeat' split
  all_goals simp [h]

@[simp] theorem State.recordDone_stored (s : State) (l : TbList) (d : Nat) (r : TRec) (o : TOut) :
    (s.recordDone l d r o).stored = s.stored := by rfl

@[simp] theorem State.recordStep_ok (s : State) (list op : Nat) {f : TbList → Nat → TRec → State × TOut}
    (hf : ∀ l d r, (f l d r).1.stored.Ok) (h : s.stored.Ok) : OutOk (s.recordStep list op f) := by
  unfold State.recordStep
  split
  · exact h
  · split
    · exact h
    · simp [hf, h]

@[simp] theorem State.partialStep_ok (s : State) (k sh t rec : Nat) (h : s.stored.Ok) : (s.partialStep k sh t rec).1.stored.Ok := by
  simp [State.partialStep, h]

@[simp] theorem execTsq_ok (list : Nat) (s : State) (h : s.stored.Ok) : OutOk (execTsq list s) :=
  s.recordStep_ok list 6 (fun l d r => by split <;> simp [h]) h

@[simp] theorem execTupd_ok (list : Nat) (s : State) (h : s.stored.Ok) : OutOk (execTupd list s) :=
  s.recordStep_ok list 7 (fun l d r => by split <;> simp [h]) h

@[simp] theorem State.tewRow_ok (s : State) (list sub : Nat) (h : s.stored.Ok) : OutOk (s.tewRow list sub) := by
  unfold State.tewRow
  split <;> simp [h]

@[simp] theorem State.clearList_stored (s : State) (l : TbList) : (s.clearList l).stored = s.stored :=
  State.stored_foldl (fun s e => by dsimp only; split <;> simp) _ _

@[simp] theorem State.listComplete_ok (s : State) (list : Nat) (h : s.stored.Ok) : (s.listComplete list).stored.Ok := by
  unfold State.listComplete
  repeat' split
  all_goals simp [h]

/-! ### Tiers -/

@[simp] theorem State.t2Finish_stored (s : State) (tn : Nat) (e : Entry) (code : Nat) : (s.t2Finish tn e code).stored = s.stored := by
  simp [State.t2Finish]

@[simp] theorem State.t2Free_stored (s : State) (key : Nat) : (s.t2Free key).stored = s.stored := by simp [State.t2Free]

@[simp] theorem State.t2Open_stored (s : State) (tn : Nat) (e : Entry) : (s.t2Open tn e).stored = s.stored := by simp [State.t2Open]

@[simp] theorem State.t2Store_ok (s : State) (tn : Nat) (e : Entry) (data : List Byte) (poison : Bool) (h : s.stored.Ok) :
    (s.t2Store tn e data poison).stored.Ok := by
  simp only [State.t2Store]
  split
  · simp [h]
  · split
    · simp [h]
    · rw [State.guestSend_stored]
      exact h.withMem (Memory.wf_foldl (fun _ _ hm => Memory.wf_wrBytes _ _ _ hm) _ h.mem)

@[simp] theorem State.t2Stored_stored (s : State) (tn : Nat) (e : Entry) (ok : Bool) : (s.t2Stored tn e ok).stored = s.stored := by
  simp [State.t2Stored]

@[simp] theorem State.t2Write_ok (s : State) (tn : Nat) (e : Entry) (h : s.stored.Ok) : (s.t2Write tn e).stored.Ok := by
  have hite (c : Prop) [Decidable c] (a b : State) (ha : a.stored.Ok) (hb : b.stored.Ok) : (if c then a else b).stored.Ok := by
    split <;> assumption
  refine hite _ _ _ (by simp [h]) (hite _ _ _ (by simp [h]) (hite _ _ _ (by simp [h]) (hite _ _ _ (by simp [h])
    (hite _ _ _ (by simp [h]) (hite _ _ _ (by simp [h]) ?_)))))
  exact State.settle_ok _ (State.t2Store_ok _ _ _ _ _ (State.noteVirt_ok _ _ _ _ _ (by simpa using h)))

@[simp] theorem State.t2Seal_stored (s : State) (tn : Nat) (e : Entry) : (s.t2Seal tn e).stored = s.stored := by simp [State.t2Seal]

@[simp] theorem State.sealCommit_stored (s : State) (key : Nat) (ok : Bool) : (s.sealCommit key ok).stored = s.stored := by
  simp only [State.sealCommit]
  repeat' split
  all_goals simp

@[simp] theorem State.t2Abort_stored (s : State) (tn : Nat) (e : Entry) : (s.t2Abort tn e).stored = s.stored := by simp [State.t2Abort]

@[simp] theorem State.t2Delete_stored (s : State) (tn : Nat) (e : Entry) : (s.t2Delete tn e).stored = s.stored := by
  unfold State.t2Delete
  split <;> simp

@[simp] theorem State.epochTensor_stored (s : State) (key : Nat) : (s.epochTensor key).stored = s.stored := by simp [State.epochTensor]

@[simp] theorem State.endEpoch_stored (s : State) : s.endEpoch.stored = s.stored := by simp [State.endEpoch, State.stored_foldl]

@[simp] theorem execPromotionBegin_ok (s : State) (h : s.stored.Ok) : OutOk (execPromotionBegin s) := by
  simp only [execPromotionBegin]
  split
  · exact h
  · split
    · exact h
    · split
      · exact h
      · split
        next => exact h
        next ha => simpa using State.allocFrames_ok _ _ _ _ (by exact h) ha

@[simp] theorem execPromotionCopyComplete_ok (s : State) (h : s.stored.Ok) : OutOk (execPromotionCopyComplete s) := by
  simp only [execPromotionCopyComplete]
  split
  · exact h
  · split
    next fs _ _ =>
      simp only [outOk_next, State.stored_mk, State.stored_eta, State.setT2_stored, State.mapBig_stored]
      exact State.ok_foldl (fun s i hs => s.fillFrame_ok _ _ hs) _ h
    next => simp [h]

@[simp] theorem State.t2Damage_stored (s : State) (key : Nat) : (s.t2Damage key).stored = s.stored := by
  unfold State.t2Damage
  split <;> simp

/-! ### Update -/

@[simp] theorem State.arriveAt_stored (s : State) (g : Nat × Nat × Nat) : (s.arriveAt g).stored = s.stored := by rfl

@[simp] theorem State.outDone_stored (s : State) (g : Nat × Nat × Nat) : (s.outDone g).stored = s.stored := by rfl

@[simp] theorem State.putUpdWord_ok (s : State) (k : Nat) (l t kind i : Nat) (v : W32) (p : Bool) (h : s.stored.Ok) :
    (s.putUpdWord k l t kind i v p).stored.Ok := by
  simp only [State.putUpdWord]
  repeat' split
  all_goals simp [h]

@[simp] theorem State.emitEnds_stored (s : State) (k : Nat) (l : List WRec) : (s.emitEnds k l).stored = s.stored := by
  induction l generalizing s with
  | nil => simp [State.emitEnds]
  | cons r rest ih => simp [State.emitEnds, ih]

@[simp] theorem State.pumpEnds_stored (s : State) (k : Nat) : (s.pumpEnds k).stored = s.stored := by simp [State.pumpEnds]

@[simp] theorem State.sendEnd_stored (s : State) (k : Nat) (r : WRec) : (s.sendEnd k r).stored = s.stored := by simp [State.sendEnd]

@[simp] theorem State.noteSnap_ok (s : State) (k : Nat) (h : s.stored.Ok) : (s.noteSnap k).stored.Ok :=
  State.ok_foldl (fun _ _ hs => State.ok_foldl (fun _ _ hs => State.ok_foldl (fun _ _ hs => State.ok_foldl
    (fun s q hs => by split <;> simp [hs]) _ hs) _ hs) _ hs) _ h

@[simp] theorem State.runSnap_ok (s : State) (k : Nat) (o : UpdOp) (h : s.stored.Ok) : (s.runSnap k o).stored.Ok := by
  simp [State.runSnap, State.ok_foldl, h]

@[simp] theorem State.applyWords_ok (s : State) (k l t kind e0 : Nat) (base p : Bool) (data : List Byte) (n : Nat) (h : s.stored.Ok) :
    (s.applyWords k l t kind e0 base p data n).stored.Ok :=
  State.ok_foldl (fun s _ hs => s.putUpdWord_ok _ _ _ _ _ _ _ hs) _ h

theorem State.applyRec_ok (s : State) (k : Nat) (hd data : List Byte) (h : s.stored.Ok) : OptOk (s.applyRec k hd data) := by
  simp only [State.applyRec]
  split
  · split
    · simp
    · split <;> simp [h]
  · split
    · simp
    · split <;> simp [h]
  all_goals simp [h]

@[simp] theorem State.applyFrom_ok (s : State) (k tn va size pos fuel : Nat) (h : s.stored.Ok) :
    (s.applyFrom k tn va size pos fuel).1.stored.Ok := by
  induction fuel generalizing s pos with
  | zero => exact h
  | succ fuel ih =>
    simp only [State.applyFrom]
    split
    · exact h
    · split
      · exact h
      · split
        · simp [h]
        · split
          · simp [h]
          · split
            · simp [h]
            · split
              · simp [h]
              · split
                next => simp [h]
                next ha => exact ih _ _ (State.applyRec_ok _ _ _ _ (by simp [h]) _ ha)

@[simp] theorem State.runApply_ok (s : State) (k : Nat) (o : UpdOp) (h : s.stored.Ok) : (s.runApply k o).stored.Ok := by
  simp only [State.runApply, State.stored_ite, State.outDone_stored, State.stopJob_stored, State.updCtx_stored, ite_self]
  split <;> simp [h]

@[simp] theorem State.runOps_ok (s : State) (k fuel : Nat) (h : s.stored.Ok) : (s.runOps k fuel).stored.Ok := by
  induction fuel generalizing s with
  | zero => exact h
  | succ fuel ih =>
    simp only [State.runOps]
    split
    · exact h
    · split
      · exact h
      · refine ih _ ?_
        split <;> simp [h]

@[simp] theorem State.pumpOps_ok (s : State) (k : Nat) (h : s.stored.Ok) : (s.pumpOps k).stored.Ok := by simp [State.pumpOps, h]

@[simp] theorem State.updTake_ok (s : State) (n k : Nat) (w : IWord) (h : s.stored.Ok) : (s.updTake n k w).stored.Ok := by
  unfold State.updTake
  split <;> simp [h]

@[simp] theorem State.stageEnd_ok (s : State) (k : Nat) (d : UpdDec) (h : s.stored.Ok) : (s.stageEnd k d).stored.Ok := by
  simp [State.stageEnd, State.ok_foldl, h]

@[simp] theorem State.replayed_ok (s : State) (k : Nat) (h : s.stored.Ok) : (s.replayed k).stored.Ok := by simp [State.replayed, h]

@[simp] theorem State.normStep_ok (s : State) (k : Nat) (qs : List (W32 × Bool)) (h : s.stored.Ok) : (s.normStep k qs).stored.Ok := by
  simp only [State.normStep]
  split
  · simp [h]
  · split
    · simp [State.stored_foldl, h]
    · refine State.replayed_ok _ _ (State.stageEnd_ok _ _ _ ?_)
      simp [State.stored_foldl, h]

@[simp] theorem execGlobalNormComplete_ok (slot : Nat) (s : State) (h : s.stored.Ok) : OutOk (execGlobalNormComplete slot s) := by
  unfold execGlobalNormComplete
  split <;> simp [h]

@[simp] theorem execUpdateStageEnd_ok (slot : Nat) (s : State) (h : s.stored.Ok) : OutOk (execUpdateStageEnd slot s) := by
  unfold execUpdateStageEnd
  split <;> simp [h]

@[simp] theorem State.segAck_stored (s : State) (slot : Nat) : (s.segAck slot).stored = s.stored := by
  unfold State.segAck
  split <;> simp

@[simp] theorem State.sealWaits_stored (s : State) (k : Nat) : (s.sealWaits k).stored = s.stored := by
  simp [State.sealWaits, State.stored_foldl]

@[simp] theorem State.endAck_ok (s : State) (slot count digest : Nat) (h : s.stored.Ok) : (s.endAck slot count digest).stored.Ok := by
  simp only [State.endAck]
  split
  · split
    · simp [State.stored_foldl, h]
    · exact h
  · exact h

@[simp] theorem State.recordAcked_ok (s : State) (r : WRec) (h : s.stored.Ok) : (s.recordAcked r).stored.Ok := by
  unfold State.recordAcked
  repeat' split
  all_goals simp [h]

@[simp] theorem State.recordAck_ok (s : State) (h : s.stored.Ok) : s.recordAck.stored.Ok := by
  simp only [State.recordAck]
  repeat' split
  all_goals simp [State.ok_foldl, h]

/-! ### Admit -/

theorem State.allocBands_ok (s : State) (d pages tn job : Nat) (use : Nat → FrameUse) {t : State} (h : s.stored.Ok)
    (ht : s.allocBands d pages tn job use = some t) : t.stored.Ok := by
  simp only [State.allocBands, Option.ite_none_right_eq_some, Option.some.injEq] at ht
  obtain ⟨-, rfl⟩ := ht
  exact State.ok_foldl (fun s i hs => s.giveFrame_ok _ _ hs) _ h

@[simp] theorem State.mapUse_stored (s : State) (tn va n : Nat) (ro : Bool) (o : Nat → Nat × Nat × FrameUse) :
    (s.mapUse tn va n ro o).stored = s.stored := by simp [State.mapUse]

theorem State.allocPart_ok (s : State) (job slot d : Nat) (t : TensorRec) (h : s.stored.Ok) : OptOk (s.allocPart job slot d t) := by
  unfold State.allocPart
  dsimp only
  split
  next => exact optOk_none
  next u hu =>
    have hs : u.stored.Ok := by
      split at hu
      · exact OptOk.map (fun a ha => by simp [State.stored_foldl, s.allocFrames_ok _ _ _ h ha]) u hu
      · exact s.allocBands_ok _ _ _ _ _ h hu
    split <;> simp [hs]

theorem State.allocSlot_ok (s : State) (k slot : Nat) (h : s.stored.Ok) : OptOk (s.allocSlot k slot) := by
  unfold State.allocSlot
  refine OptOk.foldl ?_ _ (OptOk.foldl ?_ _ (by simpa using h))
  · rintro (_ | u) t hu
    · exact optOk_none
    · exact u.allocPart_ok _ _ _ t ((optOk_some u).1 hu)
  · rintro (_ | u) e hu
    · exact optOk_none
    · dsimp only
      split
      · exact optOk_none
      · refine OptOk.foldl ?_ _ hu
        rintro (_ | v) id hv
        · exact optOk_none
        · dsimp only
          split
          · exact v.allocPart_ok _ _ _ _ ((optOk_some v).1 hv)
          · exact optOk_none

@[simp] theorem State.freeSlot_stored (s : State) (k slot : Nat) : (s.freeSlot k slot).stored = s.stored := by simp [State.freeSlot]

theorem State.allocPlain_ok (s : State) (t : TensorRec) (h : s.stored.Ok) : OptOk (s.allocPlain t) := by
  unfold State.allocPlain
  dsimp only
  split
  · exact OptOk.map (fun u hu => by simp [s.allocBands_ok _ _ _ _ _ h hu])
  · exact OptOk.map (fun a ha => by simp [s.allocFrames_ok _ _ _ h ha])

theorem State.allocRings_ok (s : State) (k : Nat) (dies : List Nat) (h : s.stored.Ok) : OptOk (s.allocRings k dies) := by
  refine OptOk.foldl (fun a d ha => OptOk.bind (fun u hu => ?_)) _ (by simpa using h)
  split
  · exact (optOk_some u).2 (ha u hu)
  · exact fun v hv => u.allocBands_ok _ _ _ _ _ (ha u hu) hv

theorem State.allocStep_ok (s : State) (k : Nat) (h : s.stored.Ok) : OptOk (s.allocStep k) := by
  unfold State.allocStep
  dsimp only
  split
  · exact optOk_none
  · exact OptOk.map (fun a ha => by simp [s.allocFrames_ok _ _ _ h ha])

theorem State.allocTable_ok (s : State) (k : Nat) (h : s.stored.Ok) : OptOk (s.allocTable k) := by
  unfold State.allocTable
  dsimp only
  split
  · simpa using h
  · exact OptOk.bind (fun d _ => OptOk.map (fun a ha => s.allocFrames_ok _ _ _ h ha))

theorem State.allocJob_ok (s : State) (k : Nat) (h : s.stored.Ok) : OptOk (s.allocJob k) := by
  unfold State.allocJob
  refine OptOk.map fun u hu => State.setStep_ok _ _ _ (OptOk.bind (fun u hu => u.allocTable_ok k ?_) u hu)
  refine OptOk.bind (fun u hu => u.allocStep_ok k ?_) u hu
  refine OptOk.bind (fun u hu => u.allocRings_ok k _ ?_) u hu
  refine OptOk.foldl ?_ _ (OptOk.foldl ?_ _ (by simpa using h)) u hu
  · rintro (_ | u) l hu
    · exact optOk_none
    · exact u.allocSlot_ok _ _ ((optOk_some u).1 hu)
  · rintro (_ | u) t hu
    · exact optOk_none
    · exact u.allocPlain_ok t ((optOk_some u).1 hu)

theorem State.grantLayer_ok (s : State) (j : JobRec) (l : Nat) (t : TensorRec) {a : State × List Nat} (h : s.stored.Ok)
    (ha : s.grantLayer j l t = some a) : a.1.stored.Ok := by
  unfold State.grantLayer at ha
  split at ha
  · simp at ha
  · exact s.allocFrames_ok _ _ _ h ha

@[simp] theorem State.stageLayer_stored (s : State) (j : JobRec) (l : Nat) (t : TensorRec) : (s.stageLayer j l t).stored = s.stored := by
  unfold State.stageLayer
  repeat' split
  all_goals simp

@[simp] theorem State.mapLayers_ok (s : State) (j : JobRec) (n : Nat) (h : s.stored.Ok) : (s.mapLayers j n).1.stored.Ok := by
  refine State.ok_foldl_fst (fun a l ha => ?_) _ h
  split
  · split
    next hg =>
      split at hg
      · simp [State.grantLayer_ok _ _ _ _ ha hg]
      · simp at hg
    next => simp [ha]
  · exact ha

@[simp] theorem State.mapWindows_stored (s : State) (j : JobRec) : (s.mapWindows j).stored = s.stored := by
  simp [State.mapWindows, State.stored_foldl]

@[simp] theorem State.fillJob_ok (s : State) (k : Nat) (h : s.stored.Ok) : (s.fillJob k).stored.Ok := by simp [State.fillJob, h]

@[simp] theorem State.filled_stored (s : State) (k : Nat) : (s.filled k).stored = s.stored := by simp [State.filled]

@[simp] theorem execZeroFillComplete_stored (s : State) : outStored (execZeroFillComplete s) = some s.stored := by
  simp [execZeroFillComplete, State.stored_foldl]

/-! ### LinkOps -/

@[simp] theorem State.setPort_stored (s : State) (p : Nat) (q : Port) : (s.setPort p q).stored = s.stored := by rfl

@[simp] theorem State.updPort_stored (s : State) (p : Nat) (f : Port → Port) : (s.updPort p f).stored = s.stored := by rfl

@[simp] theorem State.sendFlit_stored (s : State) (p : Nat) (e : Egress) : (s.sendFlit p e).stored = s.stored := by rfl

@[simp] theorem State.pump_stored (s : State) (p fuel : Nat) : (s.pump p fuel).stored = s.stored := by
  induction fuel generalizing s with
  | zero => rfl
  | succ fuel ih =>
    simp only [State.pump]
    split
    · rfl
    · split <;> simp [ih]

@[simp] theorem State.pumpAll_stored (s : State) : s.pumpAll.stored = s.stored := by simp [State.pumpAll, State.stored_foldl]

@[simp] theorem State.enqueue_stored (s : State) (p : Nat) (m : LMsg) (from_ : Option (Nat × Nat)) :
    (s.enqueue p m from_).stored = s.stored := by simp [State.enqueue]

theorem State.tryPost_storedIs (s : State) (m : LMsg) (from_ : Option (Nat × Nat)) : StoredIs s.stored (s.tryPost m from_) := by
  unfold State.tryPost
  split <;> simp

@[simp] theorem State.post_stored (s : State) (m : LMsg) (from_ : Option (Nat × Nat)) : (s.post m from_).stored = s.stored :=
  (s.tryPost_storedIs m from_).getD

@[simp] theorem State.member_stored (s : State) (sub frag frags : Nat) (about : W32) (node count dst : Nat) (data : List Byte) :
    (s.member sub frag frags about node count dst data).stored = s.stored := by simp [State.member]

@[simp] theorem State.fenceTo_stored (s : State) (dst : Nat) (epoch : W32) (leader : Nat) :
    (s.fenceTo dst epoch leader).stored = s.stored := by simp [State.fenceTo]

@[simp] theorem State.logPort_stored (s : State) (p : Nat) : (s.logPort p).stored = s.stored := by simp [State.logPort]

@[simp] theorem State.logFrame_stored (s : State) (p : Nat) (m : LMsg) (check : Nat) : (s.logFrame p m check).stored = s.stored := by
  simp [State.logFrame]

@[simp] theorem State.postOut_stored (s : State) (kind cls : Nat) (poison : Bool) (key dst tenant slot : Nat) (spec data : List Byte)
    (use : OutUse) :
    (s.postOut kind cls poison key dst tenant slot spec data use).stored = s.stored := by simp [State.postOut]

@[simp] theorem State.answer_stored (s : State) (kind : Nat) (m : LMsg) (tag status : Nat) (poison : Bool) (data : List Byte) :
    (s.answer kind m tag status poison data).stored = s.stored := by simp [State.answer]

@[simp] theorem State.rateCheck_stored (s : State) (p : Nat) (m : LMsg) : (s.rateCheck p m).1.stored = s.stored := by
  simp only [State.rateCheck]
  repeat' split
  all_goals simp

@[simp] theorem State.receive_stored (s : State) (p : Nat) (m : LMsg) : (s.receive p m).stored = s.stored := by simp [State.receive]

@[simp] theorem State.arrived_stored (s : State) (p vc : Nat) (m : LMsg) : (s.arrived p vc m).stored = s.stored := by simp [State.arrived]

@[simp] theorem State.popInbox_stored (s : State) (p : Nat) : (s.popInbox p).stored = s.stored := by rfl

@[simp] theorem State.takeMsg_stored (s : State) (p kind sub : Nat) {f : State → LMsg → State} (hf : ∀ s m, (f s m).stored = s.stored) :
    outStored (s.takeMsg p kind sub f) = some s.stored := by
  unfold State.takeMsg
  split <;> simp [hf]

theorem State.takeMsg_ok (s : State) (p kind sub : Nat) {f : State → LMsg → State} (hf : ∀ s m, s.stored.Ok → (f s m).stored.Ok)
    (h : s.stored.Ok) : OutOk (s.takeMsg p kind sub f) := by
  unfold State.takeMsg
  split
  · exact h
  · exact hf _ _ (by simpa using h)

/-! ### CollOps -/

@[simp] theorem State.putInst_stored (s : State) (i : CollInst) : (s.putInst i).stored = s.stored := by rfl

@[simp] theorem State.virtPut_ok (s : State) (tn va : Nat) (bs : List Byte) (p : Bool) (h : s.stored.Ok) :
    (s.virtPut tn va bs p).stored.Ok := by
  simp [State.virtPut, h]

@[simp] theorem State.partPut_ok (s : State) (k slot off : Nat) (t : TensorRec) (bs : List Byte) (p : Bool) (h : s.stored.Ok) :
    (s.partPut k slot off t bs p).stored.Ok := by
  simp only [State.partPut]
  split <;> simp [h]

@[simp] theorem State.noteAnswer_ok (s : State) (i : CollInst) (e : CollEntry) (q : SegKey) (off n : Nat) (h : s.stored.Ok) :
    (s.noteAnswer i e q off n).stored.Ok := by
  simp only [State.noteAnswer]
  repeat' split
  all_goals simp [h]

@[simp] theorem State.place_ok (s : State) (i : CollInst) (e : CollEntry) (q : SegKey) (off : Nat) (bs : List Byte) (p : Bool)
    (h : s.stored.Ok) : (s.place i e q off bs p).1.stored.Ok := by
  simp only [State.place]
  split
  · exact State.ok_foldl (fun s d hs => s.virtPut_ok _ _ _ _ hs) _ h
  · simp [h]
  · exact h
  · repeat' split
    all_goals simp [h]

@[simp] theorem State.ackSeg_stored (s : State) (m : LMsg) (status : Nat) : (s.ackSeg m status).stored = s.stored := by simp [State.ackSeg]

@[simp] theorem State.countTx_stored (s : State) (n : Nat) : (s.countTx n).stored = s.stored := by rfl

@[simp] theorem State.countRx_stored (s : State) : s.countRx.stored = s.stored := by rfl

@[simp] theorem State.sendReq_stored (s : State) (k coll : Nat) (step : W32) (cls : Nat) (comp : Bool) (q : SegKey) (seg node : Nat) :
    (s.sendReq k coll step cls comp q seg node).stored = s.stored := by simp [State.sendReq]

@[simp] theorem State.sendSeg_ok (s : State) (i : CollInst) (e : CollEntry) (q : SegKey) (node seg cls : Nat) (h : s.stored.Ok) :
    (s.sendSeg i e q node seg cls).stored.Ok := by simp [State.sendSeg, h]

@[simp] theorem State.updCz_stored (s : State) (d : Nat) (f : CzDie → CzDie) : (s.updCz d f).stored = s.stored := by rfl

@[simp] theorem State.nameLeaf_ok (s : State) (k : Nat) (f : Leaf) (h : s.stored.Ok) : (s.nameLeaf k f).stored.Ok := by
  refine State.ok_foldl (fun s w hs => ?_) _ (by simpa using h)
  split <;> simp [hs]

@[simp] theorem State.startCz_ok (s : State) (n c inst coll : Nat) (step : W32) (d : Entry) (h : s.stored.Ok) :
    (s.startCz n c inst coll step d).stored.Ok := by simp [State.startCz, h]

@[simp] theorem State.giveAnswer_ok (s : State) (i : CollInst) (e : CollEntry) (hr : HeldReq) (h : s.stored.Ok) :
    (s.giveAnswer i e hr).stored.Ok := by
  simp only [State.giveAnswer]
  split
  · rw [State.putInst_stored]
    exact State.ok_foldl (fun s g hs => s.sendSeg_ok _ _ _ _ _ _ hs) _ h
  · simp [h]

@[simp] theorem State.giveNorm_stored (s : State) (h : HeldReq) (q : W32 × Bool) : (s.giveNorm h q).stored = s.stored := by
  simp [State.giveNorm]

theorem State.serve_ok (s : State) (hr : HeldReq) (h : s.stored.Ok) : OptOk (s.serve hr) := by
  unfold State.serve
  split
  · split
    · split
      · simp [h]
      · split <;> simp [h]
    · simp
  · split
    · split <;> simp [h]
    · simp

@[simp] theorem State.serveHeld_ok (s : State) (h : s.stored.Ok) : s.serveHeld.stored.Ok := by
  refine State.ok_foldl (fun s r hs => ?_) _ h
  split
  next u hu => simpa using s.serve_ok r hs u hu
  next => exact hs

@[simp] theorem State.holdReq_stored (s : State) (m : LMsg) : (s.holdReq m).stored = s.stored := by simp [State.holdReq]

@[simp] theorem State.admitReqs_ok (s : State) (h : s.stored.Ok) : s.admitReqs.stored.Ok := by
  refine State.ok_foldl (fun s m hs => ?_) _ h
  split <;> simp [hs]

@[simp] theorem State.pumpReqs_ok (s : State) (n : Nat) (h : s.stored.Ok) : (s.pumpReqs n).stored.Ok := by
  induction n generalizing s with
  | zero => exact h
  | succ n ih =>
    simp only [State.pumpReqs]
    split
    · exact s.serveHeld_ok h
    · exact ih _ (State.admitReqs_ok _ (s.serveHeld_ok h))

@[simp] theorem State.askFor_stored (s : State) (i : CollInst) (e : CollEntry) (ws : List (SegKey × Nat)) :
    (s.askFor i e ws).stored = s.stored := by simp [State.askFor, State.stored_foldl]

@[simp] theorem State.supply_ok (s : State) (i : CollInst) (e : CollEntry) (q : SegKey) (h : s.stored.Ok) :
    (s.supply i e q).1.stored.Ok := by
  simp [State.supply, h]

@[simp] theorem State.supplyOwn_ok (s : State) (i : CollInst) (e : CollEntry) (l : Nat) (h : s.stored.Ok) :
    (s.supplyOwn i e l).1.stored.Ok := by
  unfold State.supplyOwn
  split
  · split
    · exact h
    · exact State.ok_foldl_fst (fun _ _ ha => State.ok_foldl_fst (fun a st ha => by split <;> simp [ha]) _ ha) _ h
  · exact State.ok_foldl_fst (fun a d ha => by simp [ha]) _ h
  · split
    · split <;> simp [h]
    · simp [h]
  · exact h

@[simp] theorem State.beginIssue_ok (s : State) (k : Nat) (step : W32) (e : CollEntry) (x : CollIssue) (h : s.stored.Ok) :
    (s.beginIssue k step e x).stored.Ok := by
  simp only [State.beginIssue]
  refine State.pumpReqs_ok _ _ ?_
  rw [State.askFor_stored]
  split
  · split <;> simp [h]
  · split
    · refine State.ok_foldl_fst (fun a y ha => by simp [ha]) _ ?_
      split <;> simp [h]
    · refine State.supplyOwn_ok _ _ _ _ ?_
      split <;> simp [h]

@[simp] theorem State.collTake_ok (s : State) (n c : Nat) (w : IWord) (h : s.stored.Ok) : (s.collTake n c w).stored.Ok := by
  simp only [State.collTake]
  repeat' split
  all_goals simp [h]

/-! ### Coll -/

@[simp] theorem State.writeVec_ok (s : State) (i : CollInst) (e : CollEntry) (x : CollIssue) (h : s.stored.Ok) :
    (s.writeVec i e x).1.stored.Ok := State.ok_foldl (fun s _ hs => s.virtPut_ok _ _ _ _ hs) _ h

@[simp] theorem State.poisonVec_ok (s : State) (i : CollInst) (e : CollEntry) (x : CollIssue) (h : s.stored.Ok) :
    (s.poisonVec i e x).1.stored.Ok := by simp [State.poisonVec, h]

@[simp] theorem State.endIssue_ok (s : State) (i : CollInst) (e : CollEntry) (x : CollIssue) (h : s.stored.Ok) :
    (s.endIssue i e x).stored.Ok := by
  unfold State.endIssue
  repeat' split
  all_goals simp [h]

@[simp] theorem execCollectiveComplete_ok (id : Nat) (s : State) (h : s.stored.Ok) : OutOk (execCollectiveComplete id s) := by
  unfold execCollectiveComplete
  repeat' split
  all_goals simp [h]

@[simp] theorem State.mapSlotCtxs_stored (s : State) (k : Nat) (sel : Nat → Bool) (f : Ctx → Ctx) :
    (s.mapSlotCtxs k sel f).stored = s.stored := by rfl

@[simp] theorem State.beginSlots_stored (s : State) (k : Nat) (sel : Nat → Bool) (step : W32) :
    (s.beginSlots k sel step).stored = s.stored := by rfl

@[simp] theorem State.renameSlot_stored (s : State) (k from_ dest : Nat) : (s.renameSlot k from_ dest).stored = s.stored := by rfl

@[simp] theorem State.mapSlot_stored (s : State) (k slot : Nat) : (s.mapSlot k slot).stored = s.stored :=
  State.stored_foldl (fun s t => by split <;> simp) _ _

@[simp] theorem State.installMap_ok (s : State) (k : Nat) (step : W32) (m : List (Nat × Nat)) (h : s.stored.Ok) :
    (s.installMap k step m).stored.Ok := by
  have rings (u : State) (hu : u.stored.Ok) : ((u.allocRings k (u.updDies k)).getD u).stored.Ok := (u.allocRings_ok k _ hu).getD hu
  simp only [State.installMap]
  split
  · exact rings _ (by simp [State.stored_foldl, h])
  · refine State.pumpOps_ok _ _ ?_
    rw [State.updUpd_stored]
    exact rings _ (by simp [State.stored_foldl, h])

@[simp] theorem State.refuseMap_stored (s : State) (k : Nat) : (s.refuseMap k).stored = s.stored := by simp [State.refuseMap]

@[simp] theorem State.beginMove_ok (s : State) (i : CollInst) (e : CollEntry) (m : List (Nat × Nat)) (h : s.stored.Ok) :
    (s.beginMove i e m).stored.Ok := by
  simp only [State.beginMove]
  split
  next => simp [h]
  next u hu =>
    refine State.pumpReqs_ok _ _ ?_
    rw [State.askFor_stored]
    refine OptOk.bind (fun v hv => v.allocRings_ok _ _ ?_) u hu
    exact OptOk.foldl (fun o w ho => OptOk.bind fun a ha => a.allocSlot_ok _ _ (ho a ha)) _ (by simpa using h) v hv

@[simp] theorem State.pumpMove_ok (s : State) (i : CollInst) (e : CollEntry) (h : s.stored.Ok) : (s.pumpMove i e).stored.Ok := by
  simp only [State.pumpMove]
  repeat' split
  all_goals simp [h]

@[simp] theorem State.collPump_ok (s : State) (h : s.stored.Ok) : s.collPump.stored.Ok := by
  refine State.ok_foldl (fun s i hs => ?_) _ (s.pumpReqs_ok _ h)
  split
  · split <;> simp [hs]
  · exact hs

@[simp] theorem State.takeReq_ok (s : State) (k : Nat) (m : LMsg) (h : s.stored.Ok) :
    (s.takeReq k m).stored.Ok := by simp [State.takeReq, h]

@[simp] theorem State.poisonRest_ok (s : State) (i : CollInst) (e : CollEntry) (q : SegKey) (h : s.stored.Ok) :
    (s.poisonRest i e q).1.stored.Ok := State.ok_foldl_fst (fun a g ha => by split <;> simp [ha]) _ h

@[simp] theorem State.dropSeg_ok (s : State) (k : Nat) (m : LMsg) (h : s.stored.Ok) : (s.dropSeg k m).stored.Ok := by
  simp only [State.dropSeg]
  repeat' split
  all_goals simp [h]

@[simp] theorem State.putSeg_ok (s : State) (i : CollInst) (e : CollEntry) (q : SegKey) (bs : List Byte)
    (copy : List (Nat × Option (List Byte))) (p : Bool) (h : s.stored.Ok) : (s.putSeg i e q bs copy p).1.stored.Ok := by
  unfold State.putSeg
  dsimp only
  split
  · simp [h]
  · exact State.ok_foldl_fst (fun a b ha => by simp [ha]) _ h

@[simp] theorem State.takeSeg_ok (s : State) (port k : Nat) (m : LMsg) (h : s.stored.Ok) : (s.takeSeg port k m).stored.Ok := by
  unfold State.takeSeg
  repeat' split
  all_goals simp [h]

@[simp] theorem State.segLost_ok (s : State) (k coll : Nat) (step : W32) (q : SegKey) (h : s.stored.Ok) :
    (s.segLost k coll step q).stored.Ok := by
  unfold State.segLost
  split <;> simp [h]

@[simp] theorem State.czBlock_ok (s : State) (r : CzRun) (b : Nat) (h : s.stored.Ok) : (s.czBlock r b).1.stored.Ok := by
  simp only [State.czBlock, State.updUpd_stored]
  refine State.ok_foldl (fun s i hs => by split <;> simp [hs]) _ (State.ok_foldl (fun s x hs => by simp [hs]) _ ?_)
  simp [h]

@[simp] theorem State.rseg_stored (s : State) (r : CzRun) (b0 b1 : Nat) : (s.rseg r b0 b1).stored = s.stored := by simp [State.rseg]

@[simp] theorem State.groupDone_ok (s : State) (r : CzRun) (g : Nat) (p : Bool) (h : s.stored.Ok) : (s.groupDone r g p).1.stored.Ok := by
  simp only [State.groupDone]
  repeat' split
  all_goals simp [h]

@[simp] theorem State.czDone_ok (s : State) (r : CzRun) (h : s.stored.Ok) : (s.czDone r).stored.Ok := by
  simp only [State.czDone]
  split <;> simp [h]

@[simp] theorem State.compressStep_ok (s : State) (die ctl : Nat) (r : CzRun) (h : s.stored.Ok) :
    (s.compressStep die ctl r).stored.Ok := by
  have hgroup (c : Prop) [Decidable c] (o : State) (ho : o.stored.Ok) (r1 r2 : CzRun) (g out : Nat) (bs : List Byte) (p : Bool) :
      (if c then (o.virtPut (o.tn r.jobSlot) out bs p).groupDone r1 g p else (o, r2)).1.stored.Ok := by
    split <;> simp [ho]
  unfold State.compressStep
  extract_lets key n g o buf bs p full r1 s1 r' s2
  have hs : s2.stored.Ok := by
    rw [State.updCz_stored]
    exact hgroup _ _ (s.czBlock_ok _ _ h) _ _ _ _ _ _
  refine State.settle_ok _ ?_
  split
  · exact State.czDone_ok _ _ hs
  · exact State.collPump_ok _ hs

@[simp] theorem execCompressBlock_ok (die ctl : Nat) (s : State) (h : s.stored.Ok) : OutOk (execCompressBlock die ctl s) := by
  unfold execCompressBlock
  split <;> simp [h]

@[simp] theorem State.writeRange_ok (s : State) (i : CollInst) (e : CollEntry) (o : OwnSum) (dst q : Nat) (bad : Bool) (h : s.stored.Ok) :
    (s.writeRange i e o dst q bad).stored.Ok := by
  refine State.ok_foldl (fun s c hs => ?_) _ h
  dsimp only
  split <;> simp [hs]

@[simp] theorem State.abandon_ok (s : State) (k : Nat) (h : s.stored.Ok) : (s.abandon k).stored.Ok := by
  simp only [State.abandon, State.stored_mk, State.stored_eta, State.dropMove_stored]
  refine State.ok_foldl (fun s i hs => ?_) _ h
  split
  · refine State.ok_foldl (fun s x hs => by split <;> simp [hs]) _ ?_
    simp only [State.putInst_stored, State.stored_mk, State.stored_eta, State.logAs_stored]
    refine State.ok_foldl (fun s u hs => ?_) _ (State.ok_foldl_fst (fun a q ha => by simp [ha]) _ hs)
    split
    · exact State.ok_foldl (fun s q hs => by simp [hs]) _ hs
    · exact hs
  · exact hs

@[simp] theorem State.expandStep_ok (s : State) (die : Nat) (i : CollInst) (e : CollEntry) (o : OwnSum) (dst q : Nat)
    (a : Nat × Nat × Nat × Nat) (h : s.stored.Ok) :
    (s.expandStep die i e o dst q a).stored.Ok := by simp [State.expandStep, h]

@[simp] theorem execExpandBlock_ok (die ctl : Nat) (s : State) (h : s.stored.Ok) : OutOk (execExpandBlock die ctl s) := by
  unfold execExpandBlock
  split <;> simp [h]

@[simp] theorem State.askNorm_stored (s : State) (k : Nat) : (s.askNorm k).stored = s.stored := by simp [State.askNorm, State.stored_foldl]

/-! ### HostOps -/

@[simp] theorem State.queueError_stored (s : State) (tn q : Nat) : (s.queueError tn q).stored = s.stored := by simp [State.queueError]

@[simp] theorem State.dropRegion_stored (s : State) (tn r : Nat) : (s.dropRegion tn r).stored = s.stored := by simp [State.dropRegion]

@[simp] theorem State.logOutside_stored (s : State) (off port : Nat) (write : Bool) : (s.logOutside off port write).stored = s.stored := by
  simp [State.logOutside]

@[simp] theorem State.logRefused_stored (s : State) (tn job part code : Nat) : (s.logRefused tn job part code).stored = s.stored := by
  simp [State.logRefused]

@[simp] theorem State.refuse_stored (s : State) (tn : Nat) (e : Entry) (part code : Nat) : (s.refuse tn e part code).stored = s.stored := by
  simp [State.refuse]

@[simp] theorem State.hearBeats_stored (s : State) (told : List (Nat × Nat)) : (s.hearBeats told).stored = s.stored := by rfl

@[simp] theorem State.jobStart_ok (s : State) (tn : Nat) (e : Entry) (h : s.stored.Ok) : (s.jobStart tn e).stored.Ok := by
  simp only [State.jobStart]
  split
  · simp [h]
  · split
    · simp [h]
    · split
      · simp [h]
      · split
        · simp [h]
        · split
          · simp [h]
          · split
            next ha => exact State.fillJob_ok _ _ (State.allocJob_ok _ _ (by simp [h]) _ ha)
            next => simp [h]

@[simp] theorem State.jobStop_stored (s : State) (tn : Nat) (e : Entry) : (s.jobStop tn e).stored = s.stored := by
  simp only [State.jobStop]
  repeat' split
  all_goals simp

@[simp] theorem State.fenceCmd_stored (s : State) (tn : Nat) (e : Entry) : (s.fenceCmd tn e).stored = s.stored := by simp [State.fenceCmd]

@[simp] theorem State.submitList_stored (s : State) (tn : Nat) (e : Entry) (data : List Byte) (poison : Bool) :
    (s.submitList tn e data poison).stored = s.stored := by simp [State.submitList]

@[simp] theorem State.reshardMap_stored (s : State) (tn : Nat) (e : Entry) (data : List Byte) (poison : Bool) :
    (s.reshardMap tn e data poison).stored = s.stored := by
  unfold State.reshardMap
  split <;> simp

@[simp] theorem State.fromRegion_ok (s : State) (tn : Nat) (e : Entry) (r off len : Nat) (use : DmaUse)
    {f : State → List Byte → Bool → State} (hf : ∀ s b p, s.stored.Ok → (f s b p).stored.Ok) (h : s.stored.Ok) :
    (s.fromRegion tn e r off len use f).stored.Ok := by
  simp only [State.fromRegion]
  split
  · simp [h]
  · split
    · simp [h]
    · exact State.settle_ok _ (hf _ _ _ (by simp [h]))

@[simp] theorem State.tbSubmit_ok (s : State) (tn : Nat) (e : Entry) (h : s.stored.Ok) :
    (s.tbSubmit tn e).stored.Ok := by simp [State.tbSubmit, h]

@[simp] theorem State.reshard_ok (s : State) (tn : Nat) (e : Entry) (h : s.stored.Ok) : (s.reshard tn e).stored.Ok := by
  simp only [State.reshard]
  repeat' split
  all_goals simp [h]

@[simp] theorem State.runCommand_ok (s : State) (tn : Nat) (e : Entry) (h : s.stored.Ok) : (s.runCommand tn e).stored.Ok := by
  unfold State.runCommand
  split <;> simp [h]

@[simp] theorem State.acceptCommand_ok (s : State) (tn : Nat) (e : Entry) (h : s.stored.Ok) : (s.acceptCommand tn e).stored.Ok := by
  simp [State.acceptCommand, h]

@[simp] theorem State.commandRow_ok (s : State) (tn : Nat) (e : Entry) (op : Nat) (h : s.stored.Ok) :
    OutOk (s.commandRow tn e op) := by simp [State.commandRow, h]

@[simp] theorem State.takeHeld_ok (s : State) (fuel : Nat) (h : s.stored.Ok) : (s.takeHeld fuel).stored.Ok := by
  induction fuel generalizing s with
  | zero => exact h
  | succ fuel ih =>
    simp only [State.takeHeld]
    split
    · exact h
    · split
      · exact h
      · exact ih _ (by simp [h])

@[simp] theorem State.dmaDone_ok (s : State) (r : DmaRead) (data : List Byte) (poison lost : Bool) (h : s.stored.Ok) :
    (s.dmaDone r data poison lost).stored.Ok := by
  unfold State.dmaDone
  split <;> simp [h]

@[simp] theorem State.logAttach_stored (s : State) (port cause sev : Nat) : (s.logAttach port cause sev).stored = s.stored := by
  simp [State.logAttach]

/-! ### PeaOps -/

@[simp] theorem State.peAccept_stored (s : State) (n k : Nat) (w : IWord) : (s.peAccept n k w).stored = s.stored := by simp [State.peAccept]

@[simp] theorem State.peaDiscard_stored (s : State) (n : Nat) (m : PeaMsg) : (s.peaDiscard n m).stored = s.stored := by
  simp [State.peaDiscard]

@[simp] theorem State.peaLand_ok (s : State) (n : Nat) (m : PeaMsg) (h : s.stored.Ok) : (s.peaLand n m).stored.Ok := by
  simp only [State.peaLand]
  repeat' split
  all_goals simp [h]

@[simp] theorem execPeaArrival_ok (core target : Nat) (s : State) (h : s.stored.Ok) : OutOk (execPeaArrival core target s) := by
  unfold execPeaArrival
  split <;> simp [h]

/-! ### OutboundOps -/

@[simp] theorem State.hqPostTake_stored (s : State) (n k : Nat) (w : IWord) : (s.hqPostTake n k w).stored = s.stored := by
  simp [State.hqPostTake]

@[simp] theorem State.hqTakeTake_ok (s : State) (n k : Nat) (w : IWord) (ring : Entry) (h : s.stored.Ok) :
    (s.hqTakeTake n k w ring).stored.Ok := by simp [State.hqTakeTake, h]

@[simp] theorem State.obAccept_ok (s : State) (n k : Nat) (w : IWord) (ring : Option Entry) (h : s.stored.Ok) :
    (s.obAccept n k w ring).stored.Ok := by
  unfold State.obAccept
  split <;> simp [h]

@[simp] theorem State.peaSend_stored (s : State) (n : Nat) (m : PeaMsg) : (s.peaSend n m).stored = s.stored := by
  simp only [State.peaSend]
  split <;> simp

@[simp] theorem State.peTake_stored (s : State) (n k : Nat) (w : IWord) : (s.peTake n k w).stored = s.stored := by
  simp only [State.peTake]
  split <;> simp

/-! ### Host -/

@[simp] theorem State.serveQueue_stored (s : State) (tn q : Nat) : (s.serveQueue tn q).stored = s.stored := by
  simp [State.serveQueue, State.stored_foldl]

@[simp] theorem State.bellQueue_stored (s : State) (tn q : Nat) (v : W32) : (s.bellQueue tn q v).stored = s.stored := by
  simp [State.bellQueue]

@[simp] theorem execDoorbell_stored (tenant : Nat) (line : Entry) (s : State) : outStored (execDoorbell tenant line s) = some s.stored := by
  simp [execDoorbell, State.stored_foldl]

@[simp] theorem State.placeBytes_ok (s : State) (x : Nat × Nat × Region) (off : Nat) (data : List Byte) (h : s.stored.Ok) :
    (s.placeBytes x off data).stored.Ok := by simp [State.placeBytes, h]

@[simp] theorem execPlacementWrite_ok (requester off : Nat) (data : List Byte) (s : State) (h : s.stored.Ok) :
    OutOk (execPlacementWrite requester off data s) := by
  unfold execPlacementWrite
  split <;> simp [h]

@[simp] theorem execPlacementNotify_ok (requester off : Nat) (data : List Byte) (s : State) (h : s.stored.Ok) :
    OutOk (execPlacementNotify requester off data s) := by
  unfold execPlacementNotify
  split <;> simp [h]

@[simp] theorem execCxlMemAccess_ok (port off : Nat) (data : Option Entry) (poison : Bool) (s : State) (h : s.stored.Ok) :
    OutOk (execCxlMemAccess port off data poison s) := by
  simp only [execCxlMemAccess]
  repeat' split
  all_goals simp [h]

@[simp] theorem State.strayDma_stored (s : State) : s.strayDma.stored = s.stored := by simp [State.strayDma]

/-! ### PortOps -/

@[simp] theorem State.expire_stored (s : State) (row t d : Nat) : (s.expire row t d).stored = s.stored := by simp [State.expire]

@[simp] theorem State.outLost_ok (s : State) (o : OutMsg) (h : s.stored.Ok) : (s.outLost o).stored.Ok := by
  simp only [State.outLost]
  repeat' split
  all_goals simp [h]

@[simp] theorem State.msgLost_ok (s : State) (m : LMsg) (h : s.stored.Ok) : (s.msgLost m).stored.Ok := by
  unfold State.msgLost
  split <;> simp [h]

@[simp] theorem State.trunkLost_ok (s : State) (p : Nat) (h : s.stored.Ok) : (s.trunkLost p).stored.Ok := by
  refine State.ok_foldl (fun s r hs => ?_) _ h
  exact State.ok_foldl (fun s e hs => by simp [hs]) _ (State.ok_foldl (fun s e hs => by simp [hs]) _ (by simpa using hs))

@[simp] theorem State.portDown_ok (s : State) (p reason : Nat) (h : s.stored.Ok) : (s.portDown p reason).stored.Ok := by
  simp only [State.portDown]
  repeat' split
  all_goals simp [h]

@[simp] theorem State.resend_stored (s : State) (p down seq : Nat) : (s.resend p down seq).stored = s.stored := by
  unfold State.resend
  split <;> simp

@[simp] theorem State.fastRetrain_ok (s : State) (p : Nat) (lane : Option Nat) (h : s.stored.Ok) : (s.fastRetrain p lane).stored.Ok := by
  unfold State.fastRetrain
  split <;> simp [h]

@[simp] theorem State.replay_ok (s : State) (p : Nat) (h : s.stored.Ok) : (s.replay p).stored.Ok := by
  simp only [State.replay]
  split
  · exact h
  · split <;> simp [h]

@[simp] theorem State.beginTraining_stored (s : State) (p : Nat) : (s.beginTraining p).stored = s.stored := by simp [State.beginTraining]

@[simp] theorem State.trainFail_stored (s : State) (p reason : Nat) : (s.trainFail p reason).stored = s.stored := by simp [State.trainFail]

@[simp] theorem State.trainDown_stored (s : State) (p reason : Nat) (again : Bool) : (s.trainDown p reason again).stored = s.stored := by
  simp [State.trainDown]

@[simp] theorem State.linkUp_stored (s : State) (p : Nat) : (s.linkUp p).stored = s.stored := by simp [State.linkUp, State.stored_foldl]

@[simp] theorem State.trainStep_stored (s : State) (p : Nat) (ev : TrainEv) : (s.trainStep p ev).stored = s.stored := by
  unfold State.trainStep
  dsimp only
  split
  · simp
  · split <;> simp
  · simp
  · simp
  · simp 
  · simp
  all_goals simp

@[simp] theorem State.retrainStep_ok (s : State) (p : Nat) (ev : TrainEv) (h : s.stored.Ok) : (s.retrainStep p ev).stored.Ok := by
  simp only [State.retrainStep]
  repeat' split
  all_goals simp [h]

@[simp] theorem State.stepExpired_stored (s : State) (p : Nat) : (s.stepExpired p).stored = s.stored := by simp [State.stepExpired]

@[simp] theorem execPortTraining_ok (port : Nat) (ev : TrainEv) (s : State) (h : s.stored.Ok) :
    OutOk (execPortTraining port ev s) := by
  simp only [execPortTraining]
  repeat' split
  all_goals simp [h]

@[simp] theorem execTrainingRetry_stored (port : Nat) (s : State) : outStored (execTrainingRetry port s) = some s.stored := by
  unfold execTrainingRetry
  split <;> simp

@[simp] theorem execFastRetrainTimeout_ok (port : Nat) (s : State) (h : s.stored.Ok) : OutOk (execFastRetrainTimeout port s) := by
  unfold execFastRetrainTimeout
  split <;> simp [h]

@[simp] theorem State.asmOf_stored (s : State) (p vc : Nat) : (s.asmOf p vc).1.stored = s.stored := by
  unfold State.asmOf
  repeat' split
  all_goals simp

@[simp] theorem State.takeFlit_stored (s : State) (p : Nat) (h : Nat) (bytes : List Byte) : (s.takeFlit p h bytes).stored = s.stored := by
  unfold State.takeFlit
  split <;> simp

@[simp] theorem State.flitChecks_stored (s : State) (p : Nat) (fixed : Option Nat) (bytes : List Byte) :
    (s.flitChecks p fixed bytes).1.stored = s.stored := by
  unfold State.flitChecks
  repeat' split
  all_goals simp

/-! ### PeaLink -/

@[simp] theorem State.peaRefuse_stored (s : State) (p : Nat) (m : LMsg) (check : Nat) : (s.peaRefuse p m check).stored = s.stored := by
  simp [State.peaRefuse]

@[simp] theorem execPut_ok (f : PeaAt) (s : State) (h : s.stored.Ok) : OutOk (execPut f s) := by
  refine s.takeMsg_ok _ _ _ (fun s m hs => ?_) h
  split <;> simp [hs]

@[simp] theorem execGet_stored (f : PeaAt) (s : State) : outStored (execGet f s) = some s.stored :=
  s.takeMsg_stored _ _ _ (fun s m => by split <;> simp)

@[simp] theorem execAtomic_ok (f : PeaAt) (s : State) (h : s.stored.Ok) : OutOk (execAtomic f s) := by
  refine s.takeMsg_ok _ _ _ (fun s m hs => ?_) h
  split <;> simp [hs]

@[simp] theorem State.peaSettled_stored (s : State) (o : OutMsg) (n : Nat) (pm : PeaMsg) :
    (s.peaSettled o n pm).1.stored = s.stored := by rfl

@[simp] theorem execGetResp_ok (port : Nat) (s : State) (h : s.stored.Ok) : OutOk (execGetResp port s) := by
  refine s.takeMsg_ok _ _ _ (fun s m hs => ?_) h
  split
  · split <;> simp [hs]
  · simp [hs]

@[simp] theorem execAck_ok (port : Nat) (s : State) (h : s.stored.Ok) : OutOk (execAck port s) := by
  refine s.takeMsg_ok _ _ _ (fun s m hs => ?_) h
  split
  · simp [hs]
  · split <;> simp [hs]

/-! ### WatchOps -/

@[simp] theorem execWatchSessionRecord_stored (node : Nat) (m : WatchMsg) (s : State) :
    outStored (execWatchSessionRecord node m s) = some s.stored := by
  unfold execWatchSessionRecord
  repeat' split
  all_goals simp

@[simp] theorem State.putResid_stored (s : State) (k l id e0 : Nat) (xor p : Bool) (data : List Byte) :
    (s.putResid k l id e0 xor p data).stored = s.stored := by rfl

@[simp] theorem State.putGrad_ok (s : State) (k : Nat) (r : WRec) (h : s.stored.Ok) : (s.putGrad k r).stored.Ok := by
  refine State.ok_foldl (fun s i hs => ?_) _ h
  dsimp only
  split <;> simp [hs]

@[simp] theorem State.applySealed_ok (s : State) (k : Nat) (r : WRec) (h : s.stored.Ok) : (s.applySealed k r).stored.Ok := by
  unfold State.applySealed
  split
  iterate 3 exact (s.applyRec_ok k _ _ h).getD h
  all_goals simp [h]

theorem State.runEscrow_ok (s : State) (k : Nat) (l : List WRec) (h : s.stored.Ok) : OptOk (s.runEscrow k l) := by
  have hgrad (rs : List WRec) : (rs.foldl (fun (s : State) r => s.putGrad k r) s).stored.Ok :=
    State.ok_foldl (fun s r hs => s.putGrad_ok k r hs) _ h
  simp only [State.runEscrow]
  split
  · exact optOk_none
  · split
    · rw [optOk_some]
      exact State.stageEnd_ok _ _ _ (State.ok_foldl (fun s key hs => s.opTupd_ok k key hs) _ (by simp [hgrad]))
    · simp [hgrad]

@[simp] theorem State.runEscrows_ok (s : State) (k : Nat) (l : List WRec) (fuel : Nat) (h : s.stored.Ok) :
    (s.runEscrows k l fuel).stored.Ok := by
  induction fuel generalizing s with
  | zero => exact h
  | succ fuel ih =>
    unfold State.runEscrows
    split
    next u hu => exact ih u (s.runEscrow_ok k l h u hu)
    next => exact h

@[simp] theorem State.applyWrites_ok (s : State) (k : Nat) (l : List WRec) (h : s.stored.Ok) : (s.applyWrites k l).stored.Ok := by
  refine State.ok_foldl (fun s r hs => ?_) _ h
  split
  · split
    · exact hs.withMem (Memory.wf_wrBytes _ _ _ hs.mem)
    · exact hs
  · exact hs

@[simp] theorem State.applyQueues_stored (s : State) (l : List WRec) : (s.applyQueues l).stored = s.stored := by
  simp [State.applyQueues, State.stored_foldl]

@[simp] theorem State.logTakeover_stored (s : State) (x w k : Nat) (r : W32) : (s.logTakeover x w k r).stored = s.stored := by
  simp [State.logTakeover]

@[simp] theorem State.takeFlight_ok (s : State) (k : Nat) (l : List WRec) (r : W32) (h : s.stored.Ok) : (s.takeFlight k l r).stored.Ok := by
  simp only [State.takeFlight]
  split
  · simp only [State.holdJob_stored]
    rw [State.stored_foldl (fun s p => by simp), State.updUpd_stored]
    exact State.ok_foldl (fun s r hs => s.putGrad_ok k r hs) _ h
  · simp [h]

theorem State.takeJob_ok (s : State) (x : Nat) (j : JobRec) (m : List (Nat × Nat)) (h : s.stored.Ok) : OptOk (s.takeJob x j m) := by
  simp only [State.takeJob]
  split
  next => exact optOk_none
  next u hu =>
    have hs : u.stored.Ok := by
      split at hu
      next => exact State.allocJob_ok _ _ (by simp [h]) _ hu
      next => simp at hu
    rw [optOk_some]
    refine State.takeFlight_ok _ _ _ _ ?_
    rw [State.updJob_stored]
    refine State.applyWrites_ok _ _ _ (State.runEscrows_ok _ _ _ _ ?_)
    exact State.ok_foldl (fun s r hs => s.applySealed_ok _ r hs) _ (u.fillJob_ok _ hs)

/-! ### MemberOps -/

@[simp] theorem State.updGl_stored (s : State) (f : GlSt → GlSt) : (s.updGl f).stored = s.stored := by simp [State.updGl]

@[simp] theorem State.sendCount_stored (s : State) (kind : Nat) (about : W32) (count dst : Nat) :
    (s.sendCount kind about count dst).stored = s.stored := by
  unfold State.sendCount
  split <;> simp

@[simp] theorem State.beaconDown_stored (s : State) : s.beaconDown.stored = s.stored := by simp [State.beaconDown, State.stored_foldl]

@[simp] theorem State.ackUp_stored (s : State) : s.ackUp.stored = s.stored := by
  simp only [State.ackUp]
  split <;> simp

@[simp] theorem State.counted_stored (s : State) : s.counted.stored = s.stored := by simp [State.counted]

@[simp] theorem State.takeCount_stored (s : State) (child : Nat) (epoch : W32) (n : Nat) :
    (s.takeCount child epoch n).stored = s.stored := by simp [State.takeCount]

@[simp] theorem State.isolate_stored (s : State) : s.isolate.stored = s.stored := by simp [State.isolate, State.stored_foldl]

@[simp] theorem State.endIsolation_stored (s : State) : s.endIsolation.stored = s.stored := by simp [State.endIsolation, State.stored_foldl]

@[simp] theorem State.fenced_stored (s : State) (epoch : W32) (leader : Nat) : (s.fenced epoch leader).stored = s.stored := by
  simp [State.fenced, State.stored_foldl]

@[simp] theorem State.sendView_stored (s : State) (pr : Proposal) (dst : Nat) : (s.sendView pr dst).stored = s.stored := by
  simp [State.sendView, State.stored_foldl]

@[simp] theorem State.viewDown_stored (s : State) (pr : Proposal) : (s.viewDown pr).stored = s.stored := by
  simp [State.viewDown, State.stored_foldl]

@[simp] theorem State.propose_stored (s : State) (v : List Nat) : (s.propose v).stored = s.stored := by simp [State.propose]

@[simp] theorem State.resendNorm_stored (s : State) (k : Nat) (maps : List (List (Nat × Nat))) (x w : Nat) :
    (s.resendNorm k maps x w).stored = s.stored := by simp [State.resendNorm, State.stored_foldl]

@[simp] theorem State.survive_ok (s : State) (k x : Nat) (w : Option Nat) (h : s.stored.Ok) : (s.survive k x w).stored.Ok := by
  unfold State.survive
  split <;> simp [h]

@[simp] theorem State.remapImage_stored (s : State) (x w : Nat) : (s.remapImage x w).stored = s.stored := by rfl

@[simp] theorem State.activate467_ok (s : State) (x : Nat) (h : s.stored.Ok) : (s.activate467 x).stored.Ok := by
  unfold State.activate467
  split
  · exact h
  · simp only [State.stored_mk, State.stored_eta]
    refine State.ok_foldl (fun s q hs => ?_) _ (by simpa using h)
    split
    next hu => simpa using s.takeJob_ok _ _ _ hs _ hu
    next => split <;> simp [hs]

@[simp] theorem State.dropWatcher_stored (s : State) (w : Nat) : (s.dropWatcher w).stored = s.stored := by
  simp [State.dropWatcher, State.stored_foldl]

@[simp] theorem State.newWatcher_ok (s : State) (w : Option Nat) (h : s.stored.Ok) : (s.newWatcher w).stored.Ok := by
  have hjobs (u : State) (hu : u.stored.Ok) (l : List Nat) : (l.foldl (fun (s : State) k => if s.entriesOf k = [] then s
      else (s.updUpd k (fun u => { u with ops := u.ops ++ [⟨false, 64, 0, 0, 0⟩] })).pumpOps k) u).stored.Ok :=
    State.ok_foldl (fun s k hs => by split <;> simp [hs]) _ hu
  have hdrop : (match s.gl.watcher with
      | some o => s.dropWatcher o
      | none => s).stored.Ok := by
    split <;> simp [h]
  unfold State.newWatcher
  split
  · exact h
  cases w with
  | none => exact hdrop
  | some w => exact hjobs _ (by rw [State.logAs_stored]; exact hdrop) _

@[simp] theorem State.takeAssign_ok (s : State) (h : s.stored.Ok) : s.takeAssign.stored.Ok := by
  have hlog (c : Prop) [Decidable c] (u : State) (hu : u.stored.Ok) :
      (if c then u.logAs 0 0 0x0041 2 none [(3, u.self), (3, 0)] else u).stored.Ok := by
    split <;> simp [hu]
  exact State.newWatcher_ok _ _ (hlog _ _ (by simpa using h))

@[simp] theorem State.releaseHeld_stored (s : State) : s.releaseHeld.stored = s.stored := by simp [State.releaseHeld, State.stored_foldl]

@[simp] theorem State.install_ok (s : State) (pr : Proposal) (h : s.stored.Ok) : (s.install pr).stored.Ok := by
  simp only [State.install]
  refine State.collPump_ok _ ?_
  rw [State.pumpAll_stored]
  refine State.takeAssign_ok _ (State.ok_foldl (fun s x hs => ?_) _ ?_)
  · have hx (u : State) (hu : u.stored.Ok) : (match x.2 with | some w => u.remapImage x.1 w | none => u).stored.Ok := by
      split <;> simp [hu]
    refine hx _ ?_
    split
    · simp [hs]
    · exact State.ok_foldl (fun s k hs => by simp [hs]) _ hs
  · simp [State.stored_foldl, h]

@[simp] theorem State.mayInstall_ok (s : State) (h : s.stored.Ok) : s.mayInstall.stored.Ok := by
  unfold State.mayInstall
  split <;> simp [h]

@[simp] theorem State.report_ok (s : State) (h : s.stored.Ok) : s.report.stored.Ok := by
  unfold State.report
  split <;> simp [h]

@[simp] theorem State.mayReport_ok (s : State) (h : s.stored.Ok) : s.mayReport.stored.Ok := by
  unfold State.mayReport
  split <;> simp [h]

@[simp] theorem State.takeDrained_ok (s : State) (src : Nat) (epoch : W32) (n : Nat) (h : s.stored.Ok) :
    (s.takeDrained src epoch n).stored.Ok := by
  unfold State.takeDrained
  split <;> simp [h]

@[simp] theorem State.ownDrain_ok (s : State) (all : Bool) (h : s.stored.Ok) : (s.ownDrain all).stored.Ok := by
  have hlost (l : List OutMsg) : (l.foldl (fun (s : State) o => s.outLost o) s).stored.Ok :=
    State.ok_foldl (fun s o hs => by simp [hs]) _ h
  simp only [State.ownDrain]
  split
  · split
    · exact h
    · split <;> simp [hlost]
  · exact h

/-! ### Member -/

@[simp] theorem State.sendControl_stored (s : State) (p t16 : Nat) : (s.sendControl p t16).stored = s.stored := by rfl

@[simp] theorem State.takeAck_ok (s : State) (p ack : Nat) (nack : Bool) (h : s.stored.Ok) : (s.takeAck p ack nack).stored.Ok := by
  simp only [State.takeAck]
  repeat' split
  all_goals simp [h]

@[simp] theorem State.takeCredits_stored (s : State) (p : Nat) (bytes : List Byte) : (s.takeCredits p bytes).stored = s.stored := by rfl

@[simp] theorem State.takeOffset_stored (s : State) (o : Int) : (s.takeOffset o).stored = s.stored := by simp [State.takeOffset]

@[simp] theorem State.takeTime_stored (s : State) (p t16 : Nat) (bytes : List Byte) : (s.takeTime p t16 bytes).stored = s.stored := by
  simp [State.takeTime]

@[simp] theorem State.takeControl_ok (s : State) (p t16 : Nat) (bytes : List Byte) (h : s.stored.Ok) :
    (s.takeControl p t16 bytes).stored.Ok := by
  simp only [State.takeControl]
  repeat' split
  all_goals simp [h]

@[simp] theorem execOutOfTime_stored (s : State) : outStored (execOutOfTime s) = some s.stored := by
  unfold execOutOfTime
  split <;> simp

@[simp] theorem State.askJoin_stored (s : State) : s.askJoin.stored = s.stored := by simp [State.askJoin]

@[simp] theorem State.leaseLost_stored (s : State) : s.leaseLost.stored = s.stored := by simp [State.leaseLost]

@[simp] theorem execBeaconAckDeadline_stored (s : State) : outStored (execBeaconAckDeadline s) = some s.stored := by
  unfold execBeaconAckDeadline
  split <;> simp

@[simp] theorem State.suspect_stored (s : State) (node by_ last : Nat) : (s.suspect node by_ last).stored = s.stored := by
  simp [State.suspect]

@[simp] theorem State.proposeNext_stored (s : State) : s.proposeNext.stored = s.stored := by simp [State.proposeNext]

@[simp] theorem State.complete358_ok (s : State) (pr : Proposal) (h : s.stored.Ok) :
    (s.complete358 pr).stored.Ok := by simp [State.complete358, h]

@[simp] theorem State.dropStale_stored (s : State) : s.dropStale.stored = s.stored := by
  unfold State.dropStale
  split <;> simp

@[simp] theorem execPropose_ok (port : Nat) (s : State) (h : s.stored.Ok) : OutOk (execPropose port s) := by
  refine s.takeMsg_ok _ _ _ (fun s m hs => ?_) h
  dsimp only
  split
  · simp [hs]
  · split
    · simp [hs]
    · split <;> split <;> simp [hs]

@[simp] theorem execFragmentTimeout_stored (s : State) : outStored (execFragmentTimeout s) = some s.stored := by
  unfold execFragmentTimeout
  split <;> simp

@[simp] theorem execDrainMessageTimeout_ok (s : State) (h : s.stored.Ok) : OutOk (execDrainMessageTimeout s) := by
  unfold execDrainMessageTimeout
  split <;> simp [h]

@[simp] theorem execDrainedDeadline_ok (s : State) (h : s.stored.Ok) : OutOk (execDrainedDeadline s) := by
  simp only [execDrainedDeadline]
  split
  · split
    · exact h
    · split
      · split
        · simp [h]
        · refine State.report_ok _ (State.ok_foldl (fun s c hs => ?_) _ (by simp [h]))
          split <;> simp [hs]
      · simp [h]
  · exact h

@[simp] theorem execDrainMiss_stored (port : Nat) (s : State) : outStored (execDrainMiss port s) = some s.stored :=
  s.takeMsg_stored _ _ _ (fun s m => by split <;> simp)

@[simp] theorem execProposalTimeout_stored (s : State) : outStored (execProposalTimeout s) = some s.stored := by
  unfold execProposalTimeout
  split <;> simp

@[simp] theorem execInstall_ok (port : Nat) (s : State) (h : s.stored.Ok) : OutOk (execInstall port s) := by
  refine s.takeMsg_ok _ _ _ (fun s m hs => ?_) h
  split
  · split <;> simp [hs]
  · exact hs

@[simp] theorem execHeldFrameTimeout_stored (s : State) : outStored (execHeldFrameTimeout s) = some s.stored := by
  simp only [execHeldFrameTimeout]
  repeat' split
  all_goals simp [State.stored_foldl]

/-! ### NorOps -/

@[simp] theorem State.writeBoot_ok (s : State) (committed pending : Nat) (h : s.stored.Ok) : (s.writeBoot committed pending).stored.Ok := by
  simp only [State.writeBoot, State.stored_mk]
  exact h.withNor (Memory.wf_norPut _ _ _ h.nor)

@[simp] theorem State.addMinute_ok (s : State) (h : s.stored.Ok) : s.addMinute.stored.Ok := by
  simp only [State.addMinute, State.stored_mk]
  exact h.withNor (Memory.wf_norPut _ _ _ h.nor)

@[simp] theorem State.writeLedger_ok (s : State) (es : List (Nat × Nat × Nat × Nat)) (h : s.stored.Ok) : (s.writeLedger es).stored.Ok := by
  simp only [State.writeLedger, State.stored_mk]
  exact h.withNor (Memory.wf_norPut _ _ _ (Sp.wf_eraseRange _ _ _ _ h.nor))

@[simp] theorem State.addLedger_ok (s : State) (reason stage slot : Nat) (h : s.stored.Ok) : (s.addLedger reason stage slot).stored.Ok := by
  simp [State.addLedger, h]

@[simp] theorem State.eraseNextCrumb_ok (s : State) (h : s.stored.Ok) : s.eraseNextCrumb.stored.Ok :=
  h.withNor (Sp.wf_eraseRange _ _ _ _ h.nor)

@[simp] theorem State.writeCrumbs_ok (s : State) (cause time : Nat) (rs : List LogRec) (h : s.stored.Ok) :
    (s.writeCrumbs cause time rs).stored.Ok := by
  unfold State.writeCrumbs
  refine State.eraseNextCrumb_ok _ ?_
  rw [State.stored_mk]
  exact h.withNor (Memory.wf_norPut _ _ _ (Sp.wf_eraseRange _ _ _ _ h.nor))

@[simp] theorem State.loadCrumbs_stored (s : State) : s.loadCrumbs.stored = s.stored := by
  unfold State.loadCrumbs
  split <;> simp

/-! ### StartOps -/

@[simp] theorem State.logStage_stored (s : State) (stage reason sev : Nat) : (s.logStage stage reason sev).stored = s.stored := by
  simp [State.logStage]

@[simp] theorem State.failedStart_ok (s : State) (stage reason : Nat) (h : s.stored.Ok) : (s.failedStart stage reason).stored.Ok := by
  simp only [State.failedStart]
  split <;> simp [h]

@[simp] theorem State.powerLoss_stored (s : State) (hold : ResetHold) : (s.powerLoss hold).stored = s.stored := by
  simp only [State.powerLoss]
  repeat' split
  all_goals simp

@[simp] theorem State.imageError_stored (s : State) (e : Nat × Nat × Nat) : (s.imageError e).stored = s.stored := by simp [State.imageError]

@[simp] theorem State.trySlots_stored (s : State) (l : List (Nat × SlotCheck)) (last : Nat) : (s.trySlots l last).1.stored = s.stored := by
  induction l generalizing s last with
  | nil => rfl
  | cons c l ih =>
    simp only [State.trySlots]
    split
    · simp
    · simp [ih, apply_ite Prod.fst]

@[simp] theorem State.trainHosts_stored (s : State) (hosts : List (Nat × Nat)) : (s.trainHosts hosts).stored = s.stored := by rfl

theorem State.repairLanes_storedIs (s : State) (bad : List (Nat × Nat)) (l : List Nat) : StoredIs s.stored (s.repairLanes bad l) := by
  induction l generalizing s with
  | nil => simp [State.repairLanes]
  | cons k ks ih =>
    unfold State.repairLanes
    split
    next => simp
    next m new _ =>
      intro t ht
      rw [ih _ t ht, State.stored_foldl (fun s l => by simp)]
      simp

@[simp] theorem State.readRetired_stored (s : State) : s.readRetired.stored = s.stored := by
  simp only [State.readRetired]
  repeat' split
  all_goals simp [State.stored_foldl]

@[simp] theorem State.mountTensor_stored (s : State) (key : Nat) : (s.mountTensor key).stored = s.stored := by
  simp only [State.mountTensor]
  split <;> simp

@[simp] theorem State.placeTensor_stored (s : State) (key : Nat) : (s.placeTensor key).stored = s.stored := by
  unfold State.placeTensor
  split <;> simp

@[simp] theorem State.mountTier2_stored (s : State) : s.mountTier2.stored = s.stored := by simp [State.mountTier2, State.stored_foldl]

@[simp] theorem State.commitImage_ok (s : State) (h : s.stored.Ok) : s.commitImage.stored.Ok := by simp [State.commitImage, h]

/-! ### PowerOps -/

@[simp] theorem State.updPm_stored (s : State) (f : PmSt → PmSt) : (s.updPm f).stored = s.stored := by simp [State.updPm]

@[simp] theorem State.failSensor_stored (s : State) (i : Nat) : (s.failSensor i).stored = s.stored := by simp [State.failSensor]

@[simp] theorem State.sample_stored (s : State) (i : Nat) (v : Int) : (s.sample i v).stored = s.stored := by simp [State.sample]

@[simp] theorem State.trip_stored (s : State) : s.trip.stored = s.stored := by simp [State.trip]

/-! ### Watch -/

@[simp] theorem execWatchAckTimeout_stored (s : State) : outStored (execWatchAckTimeout s) = some s.stored := by
  unfold execWatchAckTimeout
  split <;> simp

@[simp] theorem execTakeoverTimeout_stored (s : State) : outStored (execTakeoverTimeout s) = some s.stored := by
  unfold execTakeoverTimeout
  split <;> simp

@[simp] theorem State.beginTest_stored (s : State) : s.beginTest.stored = s.stored := by simp [State.beginTest, State.stored_foldl]

@[simp] theorem State.logService_stored (s : State) (req place : Nat) (fail : Bool) : (s.logService req place fail).stored = s.stored := by
  simp [State.logService]

@[simp] theorem execFullModuleTestComplete_stored (ok : Bool) (s : State) :
    outStored (execFullModuleTestComplete ok s) = some s.stored := by
  simp [execFullModuleTestComplete, State.stored_foldl]

/-! ### Beat -/

@[simp] theorem State.trainResult_stored (s : State) (d ch x : Nat) (fail : Bool) : (s.trainResult d ch x fail).stored = s.stored := by
  simp [State.trainResult]

@[simp] theorem State.scrub_ok (s : State) (d ch n : Nat) (found : List (Nat × Ecc)) (h : s.stored.Ok) :
    (s.scrub d ch n found).stored.Ok := by
  simp only [State.scrub, State.updChan_stored]
  refine State.ok_foldl (fun s f hs => ?_) _ (by simpa using h)
  split
  · exact hs
  · split <;> simp [hs]

@[simp] theorem State.degrade_stored (s : State) (p lane : Nat) : (s.degrade p lane).stored = s.stored := by simp [State.degrade]

@[simp] theorem State.swapSpare_stored (s : State) (p : Nat) (r : LinkVisit) : (s.swapSpare p r).stored = s.stored := by
  simp [State.swapSpare]

@[simp] theorem State.overruns_stored (s : State) (b n : Nat) : (s.overruns b n).stored = s.stored := by
  simp [State.overruns, State.stored_foldl]

@[simp] theorem State.coreBeat_stored (s : State) (n : Nat) : (s.coreBeat n).stored = s.stored := by rfl

@[simp] theorem State.endBeat_stored (s : State) : s.endBeat.stored = s.stored := by simp [State.endBeat, State.stored_foldl]

@[simp] theorem State.beatNumber_stored (s : State) (b : Nat) : (s.beatNumber b).stored = s.stored := by rfl

@[simp] theorem State.endTakeover_stored (s : State) : s.endTakeover.stored = s.stored := by
  simp only [State.endTakeover]
  repeat' split
  all_goals simp [State.stored_foldl]

/-! ### Engine -/

@[simp] theorem State.engEffect_ok (s : State) (n k : Nat) (e : Eng) (w : IWord) (ring : Option Entry) (h : s.stored.Ok) :
    (s.engEffect n k e w ring).stored.Ok := by
  unfold State.engEffect
  split <;> simp [h]

@[simp] theorem State.acceptHead_ok (s : State) (n k : Nat) (e : Eng) (ring : Option Entry) (h : s.stored.Ok) :
    (s.acceptHead n k e ring).stored.Ok := by
  unfold State.acceptHead
  repeat' split
  all_goals simp [h]

@[simp] theorem effDispatch_ok (e : Eng) (ring : Option Entry) (s : State) (n k : Nat) (w : IWord) (h : s.stored.Ok) :
    (effDispatch e ring s n k w).stored.Ok := by simp [effDispatch, h]

@[simp] theorem State.engStep_ok (s : State) (n : Nat) (ecc : Ecc) (e : Eng) (cls opc : Nat) (ring : Option Entry) (h : s.stored.Ok) :
    (s.engStep n ecc e cls opc ring).stored.Ok := by
  have hseq : (s.seqStep n ecc cls opc (effDispatch e ring)).stored.Ok :=
    s.seqStep_ok _ _ _ _ (fun s n k w hs => effDispatch_ok e ring s n k w hs) h
  unfold State.engStep
  split
  · exact h
  · split
    · split
      · simp [h]
      · exact hseq
    · exact hseq

@[simp] theorem execEngineDispatch_ok (core : Nat) (s : State) (h : s.stored.Ok) : OutOk (execEngineDispatch core s) := by
  simp only [execEngineDispatch]
  repeat' split
  all_goals simp [h]

@[simp] theorem execWaitGroupRelease_ok (core : Nat) (eng : Option Eng) (s : State) (h : s.stored.Ok) :
    OutOk (execWaitGroupRelease core eng s) := by
  unfold execWaitGroupRelease
  repeat' split
  all_goals simp [h]

@[simp] theorem execHqResume_ok (core : Nat) (entry : Entry) (s : State) (h : s.stored.Ok) : OutOk (execHqResume core entry s) := by
  unfold execHqResume
  repeat' split
  all_goals simp [h]

/-! ### Guest -/

@[simp] theorem State.logFirewall_stored (s : State) (check : Nat) : (s.logFirewall check).stored = s.stored := by simp [State.logFirewall]

@[simp] theorem State.guestReset_stored (s : State) (check : Nat) : (s.guestReset check).stored = s.stored := by simp [State.guestReset]

@[simp] theorem State.dropGCmd_stored (s : State) (tag : Nat) : (s.dropGCmd tag).stored = s.stored := by rfl

@[simp] theorem State.guestFail_ok (s : State) (c : GCmd) (h : s.stored.Ok) : (s.guestFail c).stored.Ok := by
  unfold State.guestFail
  split <;> simp [h]

@[simp] theorem State.guestRetry_stored (s : State) (c : GCmd) : (s.guestRetry c).stored = s.stored := by rfl

@[simp] theorem State.guestAgain_ok (s : State) (c : GCmd) (h : s.stored.Ok) : (s.guestAgain c).stored.Ok := by simp [State.guestAgain, h]

@[simp] theorem State.guestBad_stored (s : State) (a : Nat) (bad : List Nat) : (s.guestBad a bad).stored = s.stored := by
  unfold State.guestBad
  repeat' split
  all_goals simp

@[simp] theorem State.guestDeliver_ok (s : State) (c : GCmd) (m : GMsg) (h : s.stored.Ok) : (s.guestDeliver c m).stored.Ok := by
  unfold State.guestDeliver
  split <;> simp [h]

@[simp] theorem State.guestStray_stored (s : State) : s.guestStray.stored = s.stored := by simp [State.guestStray]

@[simp] theorem State.guestMute_stored (s : State) : s.guestMute.stored = s.stored := by simp [State.guestMute]

/-! ### Interrupt -/

@[simp] theorem execFillYield_stored (core : Nat) (s : State) : outStored (execFillYield core s) = some s.stored := by
  simp only [execFillYield]
  split <;> simp

theorem saveTiles_wf {m : Sp Byte} (base : Nat) (ve : VeSt) (valid : List Bool) (bs : List Nat) (h : Memory.wf m = true) :
    Memory.wf (saveTiles m base ve valid bs) = true := by
  induction bs generalizing m with
  | nil => exact h
  | cons b bs ih =>
    refine ih ?_
    split
    · exact Memory.wf_wrBytes _ _ _ h
    · exact h

@[simp] theorem State.saveCtx_ok (s : State) (n k : Nat) (h : s.stored.Ok) : (s.saveCtx n k).stored.Ok := by
  have hcut := s.cutVe_ok n k h
  simp only [State.saveCtx, State.setCore_stored]
  have htiles (c : Bool) (base : Nat) (ve : VeSt) (valid : List Bool) : Memory.wf (if c = true then
      saveTiles (s.cutVe n k).mem base ve valid [0, 1, 2, 3] else (s.cutVe n k).mem) = true := by
    split
    · exact saveTiles_wf _ _ _ _ hcut.mem
    · exact hcut.mem
  refine hcut.withMem ?_
  split
  · split
    · exact htiles _ _ _ _
    · exact Memory.wf_wrBytes _ _ _ (htiles _ _ _ _)
  · exact htiles _ _ _ _

@[simp] theorem State.restoreCtx_ok (s : State) (n k : Nat) (fill : Bool) (h : s.stored.Ok) : (s.restoreCtx n k fill).stored.Ok := by
  simp [State.restoreCtx, h]

@[simp] theorem execContextSaved_ok (core : Nat) (s : State) (h : s.stored.Ok) : OutOk (execContextSaved core s) := by
  unfold execContextSaved
  split <;> simp [h]

@[simp] theorem execContextRestored_ok (core : Nat) (s : State) (h : s.stored.Ok) : OutOk (execContextRestored core s) := by
  unfold execContextRestored
  split <;> simp [h]

/-! ### Mgmt -/

@[simp] theorem State.smbus_stored (s : State) {f : State → State} (hf : (f s).stored = s.stored) :
    outStored (s.smbus f) = some s.stored := by
  unfold State.smbus
  split <;> simp [hf]

theorem State.smbus_ok (s : State) {f : State → State} (hf : (f s).stored.Ok) (h : s.stored.Ok) : OutOk (s.smbus f) := by
  unfold State.smbus
  split
  · exact hf
  · exact h

@[simp] theorem State.nack_stored (s : State) : s.nack.stored = s.stored := by rfl

@[simp] theorem State.reply_stored (s : State) (bs : List Byte) : (s.reply bs).stored = s.stored := by rfl

@[simp] theorem execNorWrite_ok (off : Nat) (data : List Byte) (s : State) (h : s.stored.Ok) : OutOk (execNorWrite off data s) := by
  refine s.smbus_ok ?_ h
  split
  · simp [h]
  · split
    · simp [h]
    · rw [State.reply_stored]
      exact h.withNor (Memory.wf_norPut _ _ _ h.nor)

@[simp] theorem State.tapGo_stored (s : State) (ok : Bool) (code : Nat) (drive : Bool) : (s.tapGo ok code drive).stored = s.stored := by
  simp [State.tapGo]

/-! ### Regs -/

@[simp] theorem State.setHostEn_stored (s : State) (tn : Nat) (b : Bool) : (s.setHostEn tn b).stored = s.stored := by simp [State.setHostEn]

@[simp] theorem State.putTn_stored (s : State) (who : Who) (o v hw : Nat) : (s.putTn who o v hw).stored = s.stored := by
  unfold State.putTn
  split <;> simp

@[simp] theorem State.putDd_stored (s : State) (o v : Nat) : (s.putDd o v).stored = s.stored := by simp [State.putDd]

@[simp] theorem State.putCl_stored (s : State) (o v hw : Nat) : (s.putCl o v hw).stored = s.stored := by
  unfold State.putCl
  split <;> simp

@[simp] theorem State.putTb_stored (s : State) (who : Who) (off d o v hw : Nat) : (s.putTb who off d o v hw).stored = s.stored := by
  unfold State.putTb
  split <;> simp

@[simp] theorem State.putUp_stored (s : State) (d o v hw : Nat) : (s.putUp d o v hw).stored = s.stored := by
  unfold State.putUp
  split <;> simp

@[simp] theorem State.putBank_stored (s : State) (n v hw : Nat) : (s.putBank n v hw).stored = s.stored := by simp [State.putBank]

@[simp] theorem State.putInt_stored (s : State) (n v hw : Nat) : (s.putInt n v hw).stored = s.stored := by simp [State.putInt]

@[simp] theorem State.putNflags_stored (s : State) (n v hw : Nat) : (s.putNflags n v hw).stored = s.stored := by
  unfold State.putNflags
  split <;> simp

@[simp] theorem State.putCp_stored (s : State) (n o v hw : Nat) : (s.putCp n o v hw).stored = s.stored := by
  unfold State.putCp
  split <;> simp

@[simp] theorem State.updMx_stored (s : State) (n : Nat) (f : MxSt → MxSt) : (s.updMx n f).stored = s.stored := by rfl

@[simp] theorem State.putMx_stored (s : State) (n o v hw : Nat) : (s.putMx n o v hw).stored = s.stored := by
  unfold State.putMx
  split <;> simp

@[simp] theorem State.put64_stored (s : State) (off v : Nat) : (s.put64 off v).stored = s.stored := by
  unfold State.put64
  split <;> simp

@[simp] theorem State.writeHalf_stored (s : State) (who : Who) (off v : Nat) : (s.writeHalf who off v).stored = s.stored := by
  simp only [State.writeHalf]
  repeat' split
  all_goals simp

@[simp] theorem State.clear32_stored (s : State) (off hw : Nat) : (s.clear32 off hw).stored = s.stored := by
  unfold State.clear32
  repeat' split
  all_goals simp

@[simp] theorem State.seen64_stored (s : State) (off : Nat) : (s.seen64 off).stored = s.stored := by
  unfold State.seen64
  split <;> simp

@[simp] theorem State.readHalf_stored (s : State) (who : Who) (off v : Nat) : (s.readHalf who off v).1.stored = s.stored := by
  simp only [State.readHalf]
  repeat' split
  all_goals simp

@[simp] theorem State.read32_stored (s : State) (who : Who) (off hw : Nat) : (s.read32 who off hw).1.stored = s.stored := by
  unfold State.read32
  repeat' split
  all_goals simp

@[simp] theorem State.read64_stored (s : State) (who : Who) (off hw : Nat) : (s.read64 who off hw).1.stored = s.stored := by
  unfold State.read64
  repeat' split
  all_goals simp

@[simp] theorem State.answerReg_stored (w : Nat) (r : State × Nat) : (State.answerReg w r).stored = r.1.stored := by
  simp [State.answerReg]

@[simp] theorem State.idle_stored (s : State) : s.idle.stored = s.stored := by simp [State.idle]

/-! ### Start -/

@[simp] theorem State.stageMissed_ok (s : State) (stage : Nat) (h : s.stored.Ok) :
    (s.stageMissed stage).stored.Ok := by simp [State.stageMissed, h]

/-! ### Operations that complete commands, reset the module or start it -/

theorem State.ok_ite {p : Prop} [Decidable p] {s t : State} (hs : s.stored.Ok) (ht : t.stored.Ok) : (if p then s else t).stored.Ok := by
  split
  · exact hs
  · exact ht

/-- A filter of the cells keeps the canonical form. -/
theorem Sp.wf_filter {α : Type} [DecidableEq α] (d : α) (p : Nat × α → Bool) (t : Sp α) (h : Sp.wf d t = true) :
    Sp.wf d (t.filter p) = true := by
  have hfrom (t : Sp α) : ∀ lo, Sp.wfFrom d lo t = true → Sp.wfFrom d lo (t.filter p) = true := by
    induction t with
    | nil => intros; rfl
    | cons x t ih =>
      intro lo h
      simp only [Sp.wfFrom, Bool.and_eq_true] at h
      obtain ⟨⟨hlo, hv⟩, ht⟩ := h
      by_cases hp : p x = true
      · rw [List.filter_cons_of_pos hp]
        simp only [Sp.wfFrom, Bool.and_eq_true]
        exact ⟨⟨hlo, hv⟩, ih _ ht⟩
      · rw [List.filter_cons_of_neg hp]
        refine ih lo (Sp.wfFrom_of_head d (some x.1) t ht lo ?_ (by simp))
        rintro l rfl k hk
        cases hk
        exact (of_decide_eq_true hlo).le
  exact hfrom t none h

@[simp] theorem State.pumpRelease_stored (s : State) : s.pumpRelease.stored = s.stored := by
  refine State.stored_foldl (fun s t => State.stored_foldl (fun s r => ?_) _ s) _ s
  split
  · exact s.dropRegion_stored t.1 r.1
  · rfl

@[simp] theorem State.detach_ok (s : State) (cause port : Nat) (h : s.stored.Ok) : (s.detach cause port).stored.Ok := by
  refine State.ok_ite h ?_
  rw [State.logAttach_stored]
  exact State.settle_ok _ (State.ok_foldl (fun s r hs => s.dmaDone_ok r [] true true hs) _ h)

@[simp] theorem State.attach_stored (s : State) (port : Nat) (v : W32) : (s.attach port v).stored = s.stored := by
  rw [State.attach, State.stored_ite, State.logAttach_stored]
  exact ite_self _

@[simp] theorem State.heartbeatLost_ok (s : State) (h : s.stored.Ok) : s.heartbeatLost.stored.Ok :=
  State.detach_ok _ 1 0 (by simpa using h)

@[simp] theorem State.heartbeat_ok (s : State) (h : s.stored.Ok) : s.heartbeat.stored.Ok := by
  unfold State.heartbeat
  split
  · exact h
  · split
    · exact s.heartbeatLost_ok h
    · exact h

@[simp] theorem State.mbRefuse_stored (s : State) (r : Nat) : (s.mbRefuse r).stored = s.stored := by rfl

@[simp] theorem State.mbDone_stored (s : State) (res : Nat) : (s.mbDone res).stored = s.stored := by rfl

theorem State.mailboxRun_ok (s : State) (who : Who) {f : State → Nat → Nat → State}
    (hf : ∀ (s : State) t r, s.stored.Ok → (f s t r).stored.Ok) (h : s.stored.Ok) : (s.mailboxRun who f).stored.Ok :=
  State.ok_ite (by simpa using h) (State.ok_ite h (State.ok_ite h (hf _ _ _ h)))

@[simp] theorem State.hreg_stored (s : State) (tn r : Nat) : (s.hreg tn r).stored = s.stored := by
  simp only [State.hreg]
  repeat' split
  all_goals simp [State.stored_foldl]

@[simp] theorem State.dreg_stored (s : State) (tn r : Nat) : (s.dreg tn r).stored = s.stored := by
  simp only [State.dreg]
  repeat' split
  all_goals simp

@[simp] theorem State.rrel_stored (s : State) (tn r : Nat) : (s.rrel tn r).stored = s.stored := by
  simp only [State.rrel]
  split
  · rfl
  · rw [State.pumpRelease_stored]
    rfl

@[simp] theorem State.dbell_stored (s : State) (tn : Nat) : (s.dbell tn).stored = s.stored := by
  simp only [State.dbell]
  split <;> simp

@[simp] theorem State.qset_ok (s : State) (tn q : Nat) (h : s.stored.Ok) : (s.qset tn q).stored.Ok := by
  have hfree : (s.freeFrames tn (fun o => o == (tn, 0xFFFF, FrameUse.shadow q))).stored.Ok := by simp [h]
  simp only [State.qset]
  split
  · exact h
  · split
    · exact h
    · split
      next => exact h
      next u hu =>
        have hs : u.stored.Ok := by
          split at hu
          · obtain rfl := Option.some.inj hu
            exact hfree
          · exact OptOk.bind (fun d _ => OptOk.map (fun a ha => State.allocFrames_ok _ _ _ _ hfree ha)) u hu
        simpa using hs

@[simp] theorem State.qreset_stored (s : State) (tn q : Nat) : (s.qreset tn q).stored = s.stored := by
  simp only [State.qreset]
  split <;> simp

@[simp] theorem State.dmaExpired_ok (s : State) (r : DmaRead) (h : s.stored.Ok) : (s.dmaExpired r).stored.Ok := by
  rw [State.dmaExpired, State.pumpRelease_stored]
  exact State.settle_ok _ (State.dmaDone_ok _ _ _ _ _ (by simpa using h))

/-- A module reset keeps the cells of tier 2, with their poison, and the NOR flash. -/
@[simp] theorem State.afterReset_ok (s : State) (hold : ResetHold) (h : s.stored.Ok) : (s.afterReset hold).stored.Ok :=
  ⟨Sp.wf_filter _ _ _ h.mem, Sp.wf_filter _ _ _ h.poison, h.nor⟩

@[simp] theorem State.enter_stored (s : State) (stage : Nat) : (s.enter stage).stored = s.stored := by simp [State.enter]

@[simp] theorem State.beginStart_stored (s : State) (cause : Nat) : (s.beginStart cause).stored = s.stored := by simp [State.beginStart]

@[simp] theorem State.moduleReset_ok (s : State) (cause : Nat) (h : s.stored.Ok) : (s.moduleReset cause).stored.Ok :=
  State.ok_ite (s.afterReset_ok .trip h) (by simp [h])

@[simp] theorem State.holdSprout_stored (s : State) : s.holdSprout.stored = s.stored := by rfl

@[simp] theorem State.afterSeal_ok (s : State) (r : SealRun) (h : s.stored.Ok) : (s.afterSeal r).stored.Ok := by
  unfold State.afterSeal
  split
  · exact State.ok_ite (by simpa using h) (s.moduleReset_ok _ h)
  · exact s.afterReset_ok (if s.start.hold = .none then .power else s.start.hold) h

@[simp] theorem State.stage1_ok (s : State) (r : Stage1Rep) (h : s.stored.Ok) : (s.stage1 r).stored.Ok := by
  simp only [State.stage1]
  split
  · simp [h]
  · split
    · simp [h]
    · split
      next => simp [h]
      next u hu =>
        have hs := State.repairLanes_storedIs _ _ _ u hu
        simp at hs
        simp [hs, h]

@[simp] theorem State.sproutStage_ok (s : State) (r : Stage1Rep) (h : s.stored.Ok) : (s.sproutStage r).stored.Ok := by
  unfold State.sproutStage
  split
  · simp [h]
  · split
    · simp [h]
    · have ht := s.trySlots_stored (s.slotOrder r.slots) 2
      split
      next hn => simp_all
      next u _ _ hu =>
        have hs : (u.trainHosts r.hosts).stored.Ok := by simp_all
        exact State.ok_ite (by simpa using hs) (State.stage1_ok _ r hs)

@[simp] theorem State.stage2_ok (s : State) (r : Stage2Rep) (h : s.stored.Ok) : (s.stage2 r).stored.Ok := by
  refine State.ok_ite (by simp [h]) (State.ok_ite (by simp [h]) ?_)
  have ht : ((List.range 4).foldl (fun (s : State) d => { s with tub := Sp.upd TubDie.reset s.tub d (fun t =>
      { t with ready := !r.failed.contains d, checkFail := r.failed.contains d }) })
      ((List.range 4).foldl (fun (s : State) d => s.updMc d (fun m => m.trained d (dieVersion r.versions d) s.retired))
        (s.enter 3).readRetired)).stored.Ok := by
    simpa [State.stored_foldl] using h
  refine State.ok_ite (State.failedStart_ok _ _ _ ht) ?_
  have hq (l : List Nat) := State.ok_foldl (f := fun s f => s.quarantine f 4) (fun s f hs => by simpa using hs) l ht
  exact State.ok_ite (hq _) (State.ok_ite (State.failedStart_ok _ _ _ (hq _)) (hq _))

@[simp] theorem State.applyImage_stored (s : State) (im : Image) : (s.applyImage im).stored = s.stored := by
  refine (State.stored_foldl (fun s n => s.updCore_stored n (im.coreFor n)) _ _).trans ?_
  refine (State.stored_foldl (fun s d => ?_) _ _).trans ?_
  · rfl
  · exact State.stored_foldl (fun s t => s.setTenant_stored t.tenant (im.tenantFor s t)) _ _

@[simp] theorem State.stage3_ok (s : State) (r : Stage3Rep) (h : s.stored.Ok) : (s.stage3 r).stored.Ok := by
  simp only [State.stage3]
  split
  · simp [h]
  · split
    · simp [h]
    · split
      · simp [State.stored_foldl, h]
      · split
        · simp [State.stored_foldl, h]
        · rw [State.askJoin_stored]
          refine State.eraseNextCrumb_ok _ (State.commitImage_ok _ ?_)
          rw [State.stored_foldl (fun s p => s.beginTraining_stored p), State.trainHosts_stored]
          simpa [State.stored_foldl] using h

@[simp] theorem State.setLevel_stored (s : State) (l : Nat) : (s.setLevel l).stored = s.stored := by
  have hs : s.settleCredit.stored = s.stored := s.settleCredit_stored
  simp only [State.setLevel]
  split
  · rfl
  · rw [State.logAs_stored]
    split
    · rw [State.suspendBallast_stored]
      exact hs
    · split
      · rw [State.resumeBallast_stored]
        exact hs
      · exact hs

@[simp] theorem State.judge_stored (s : State) : s.judge.stored = s.stored := by
  simp only [State.judge]
  repeat' split
  all_goals simp

@[simp] theorem State.control_stored (s : State) : s.control.stored = s.stored := by
  simp only [State.control]
  split
  · split <;> simp
  · split <;> simp

@[simp] theorem State.endTrip_stored (s : State) : s.endTrip.stored = s.stored := by
  simp only [State.endTrip]
  split
  · split <;> simp
  · rfl

@[simp] theorem State.leaveReset_ok (s : State) (h : s.stored.Ok) : s.leaveReset.stored.Ok := by simp [State.leaveReset, h]

@[simp] theorem State.planLeave_ok (s : State) (h : s.stored.Ok) : s.planLeave.stored.Ok :=
  State.ok_ite (s.moduleReset_ok 6 h) (State.ok_ite (by simpa using h) h)

@[simp] theorem State.planBeat_ok (s : State) (h : s.stored.Ok) : s.planBeat.stored.Ok :=
  State.ok_ite (State.ok_ite (s.leaveReset_ok h) (s.moduleReset_ok 6 h)) h

@[simp] theorem State.orderTest_ok (s : State) (h : s.stored.Ok) : s.orderTest.stored.Ok :=
  State.ok_ite h (State.ok_ite (by simpa using h) (State.ok_ite h (State.planLeave_ok _ (by simpa using h))))

@[simp] theorem State.serviceFault_ok (s : State) (h : s.stored.Ok) : s.serviceFault.stored.Ok :=
  State.ok_ite (State.orderTest_ok _ (by simpa using h)) (by simpa using h)

@[simp] theorem State.chanStep_ok (s : State) (d ch : Nat) (r : ChanVisit) (x : Nat) (h : s.stored.Ok) :
    (s.chanStep d ch r x).stored.Ok := by
  simp only [State.chanStep]
  refine State.ok_ite (by simp [h]) (State.ok_ite (State.ok_ite (by simp [h]) (by simp [h]))
    (State.ok_ite (State.ok_ite ?_ ?_) (State.ok_ite ?_ ?_)))
  · rw [State.trainResult_stored]
    exact State.ok_ite (by simp [h]) (by simp [h])
  · rw [State.updChan_stored, State.trainResult_stored]
    exact State.ok_ite (by simp [h]) (by simp [h])
  · simpa using h
  · simpa using h

@[simp] theorem State.chanVisit_ok (s : State) (d ch : Nat) (r : ChanVisit) (h : s.stored.Ok) : (s.chanVisit d ch r).stored.Ok :=
  State.scrub_ok _ _ _ _ _ (State.ok_foldl (fun s x hs => s.chanStep_ok d ch r x hs) _ (by simp [State.stored_foldl, h]))

@[simp] theorem State.linkStep_ok (s : State) (p : Nat) (r : LinkVisit) (x : Nat) (h : s.stored.Ok) : (s.linkStep p r x).stored.Ok :=
  State.ok_ite (by simp [h]) (State.ok_ite (by simp [h]) (State.ok_ite (State.ok_ite (by simp [h]) (by simp [h])) h))

@[simp] theorem State.linkVisit_ok (s : State) (r : LinkVisit) (h : s.stored.Ok) : (s.linkVisit r).stored.Ok :=
  State.ok_foldl (fun s x hs => s.linkStep_ok r.port r x hs) _ (by simp [State.stored_foldl, h])

@[simp] theorem State.maintain_ok (s : State) (b : Nat) (chans : List ChanVisit) (links : List LinkVisit) (sensors : List Nat)
    (h : s.stored.Ok) : (s.maintain b chans links sensors).stored.Ok := by
  simp only [State.maintain, State.logService_stored]
  rw [State.stored_foldl (fun s i => by simp)]
  refine State.ok_foldl (fun s r hs => s.linkVisit_ok r hs) _ ?_
  rw [State.stored_foldl (fun s p => by simp)]
  exact State.ok_foldl (fun s d hs => State.ok_ite (s.chanVisit_ok _ _ _ hs) hs) _ h

@[simp] theorem State.guestLate_ok (s : State) (c : GCmd) (h : s.stored.Ok) : (s.guestLate c).stored.Ok := by
  refine State.ok_ite ?_ (by simp [h])
  rw [State.guestReset_stored, State.pumpRelease_stored]
  exact State.settle_ok _ (State.guestFail_ok _ _ (by simpa using h))

@[simp] theorem State.orderedReset_ok (s : State) (cause : Nat) (h : s.stored.Ok) : (s.orderedReset cause).stored.Ok :=
  State.ok_ite (s.moduleReset_ok _ h) h

@[simp] theorem State.sealExpired_ok (s : State) (r : SealRun) (h : s.stored.Ok) : (s.sealExpired r).stored.Ok :=
  State.afterSeal_ok _ r (by simpa using h)

@[simp] theorem State.putHl_ok (s : State) (who : Who) (o v : Nat) (h : s.stored.Ok) : (s.putHl who o v).stored.Ok := by
  unfold State.putHl
  split
  · exact State.ok_ite (s.detach_ok _ _ h) (State.ok_ite (by simpa using h) h)
  · exact s.heartbeat_ok h
  · exact h
  · refine State.ok_ite (by simpa using h) ?_
    split
    · exact s.mailboxRun_ok who (fun s t r hs => by simpa using hs) h
    · exact s.mailboxRun_ok who (fun s t r hs => by simpa using hs) h
    · exact s.mailboxRun_ok who (fun s t r hs => by simpa using hs) h
    · exact s.mailboxRun_ok who (fun s t _ hs => by simpa using hs) h
    · exact s.mailboxRun_ok who (fun s => s.qset_ok) h
    · exact s.mailboxRun_ok who (fun s t q hs => by simpa using hs) h
    · exact h
  · exact h

@[simp] theorem State.putGl_stored (s : State) (who : Who) (off o v : Nat) : (s.putGl who off o v).stored = s.stored := by
  unfold State.putGl
  split
  · split
    · simp
    · rfl
  · rfl

@[simp] theorem State.putTi_stored (s : State) (who : Who) (off o v : Nat) : (s.putTi who off o v).stored = s.stored := by
  simp only [State.putTi]
  repeat' split
  all_goals simp

@[simp] theorem State.put32_ok (s : State) (who : Who) (off v hw : Nat) (h : s.stored.Ok) : (s.put32 who off v hw).stored.Ok := by
  unfold State.put32
  split
  · exact s.putHl_ok who _ v h
  · simpa using h
  · exact State.ok_ite (by simpa using h) h
  all_goals simpa using h

@[simp] theorem State.write32_ok (s : State) (who : Who) (off v hw : Nat) (h : s.stored.Ok) : (s.write32 who off v hw).stored.Ok := by
  unfold State.write32
  split
  · simpa using h
  · split
    · exact State.ok_ite (s.put32_ok _ _ _ _ h) (by simpa using h)
    · simpa using h
    · simpa using h

@[simp] theorem State.write64_ok (s : State) (who : Who) (off v hw : Nat) (h : s.stored.Ok) : (s.write64 who off v hw).stored.Ok := by
  unfold State.write64
  split
  · simpa using h
  · split
    · simpa using h
    · exact State.write32_ok _ who _ _ _ (s.write32_ok who off _ _ h)

/-! ### Every command -/

theorem outOk_of_stored {s : State} {o : Out} (h : s.stored.Ok) (ho : outStored o = some s.stored) : OutOk o := by
  cases o with
  | next t =>
    have ht : t.stored = s.stored := Option.some.inj ho
    simpa [ht] using h
  | fault r => trivial
  | refused r => trivial

theorem OutOk.ite {p : Prop} [Decidable p] {a b : Out} (ha : OutOk a) (hb : OutOk b) : OutOk (if p then a else b) := by
  split
  · exact ha
  · exact hb

theorem State.inTime_ok (s : State) (stage : Nat) {t : State} (ht : t.stored.Ok) (h : s.stored.Ok) : OutOk (.next (s.inTime stage t)) :=
  State.ok_ite (by simp [h]) ht

theorem execAttach_ok (who : Who) (value : W32) (s : State) (h : s.stored.Ok) : OutOk (execAttach who value s) :=
  OutOk.ite (by simpa using h) (OutOk.ite (by simpa using h) h)

theorem execDetach_ok (who : Who) (value : W32) (s : State) (h : s.stored.Ok) : OutOk (execDetach who value s) :=
  OutOk.ite (by simpa using h) (OutOk.ite (s.detach_ok _ _ h) h)

theorem execHeartbeat_ok (who : Who) (s : State) (h : s.stored.Ok) : OutOk (execHeartbeat who s) :=
  State.ok_ite (s.heartbeat_ok h) (by simpa using h)

theorem execHeartbeatTimeout_ok (s : State) (h : s.stored.Ok) : OutOk (execHeartbeatTimeout s) :=
  OutOk.ite (s.heartbeatLost_ok h) h

theorem execHostLinkDown_ok (s : State) (h : s.stored.Ok) : OutOk (execHostLinkDown s) := s.detach_ok 2 0 h

theorem execHostDmaComplete_ok (id : Nat) (data : List Byte) (poison : Bool) (s : State) (h : s.stored.Ok) :
    OutOk (execHostDmaComplete id data poison s) := by
  unfold execHostDmaComplete
  split
  · simpa using h
  · exact OutOk.ite (by simp [h]) (by simp [h])

theorem execHostDmaTimeout_ok (id : Nat) (s : State) (h : s.stored.Ok) : OutOk (execHostDmaTimeout id s) := by
  unfold execHostDmaTimeout
  split
  · exact h
  · exact s.dmaExpired_ok _ h

theorem execTbListComplete_ok (list : Nat) (s : State) (h : s.stored.Ok) : OutOk (execTbListComplete list s) := by
  simp only [execTbListComplete, outOk_next, State.pumpRelease_stored]
  refine State.collPump_ok _ (State.ok_foldl (fun s k hs => State.ok_ite hs ?_) _ ?_)
  · simp [hs]
  · simp [h]

theorem execSensorSample_ok (readings : Readings) (s : State) (h : s.stored.Ok) : OutOk (execSensorSample readings s) := by
  refine OutOk.ite h (OutOk.ite ?_ (OutOk.ite ?_ ?_))
  all_goals simp [State.stored_foldl, h]

theorem execInputSample_ok (mv : Nat) (rail : Option (Int × Int)) (s : State) (h : s.stored.Ok) : OutOk (execInputSample mv rail s) := by
  refine OutOk.ite h (OutOk.ite (by simp [h]) (OutOk.ite (by simp [h]) ?_))
  suffices hr : ∀ u : State, u.stored.Ok → OutOk (match rail with
      | some r =>
        if heldFor u.pm.railOut u.now 100000 then
          .next (u.logAs 0x0B 0 0x0060 2 none [(1, 2), (4, logInt r.1), (4, logInt r.2)]).moduleFault
        else .next u
      | none => .next u) from
    hr _ (State.ok_ite (by simp [h]) (by simp [h]))
  intro u hu
  split
  · exact OutOk.ite (by simpa using hu) hu
  · exact hu

theorem execPlannedTakeoverTimeout_ok (s : State) (h : s.stored.Ok) : OutOk (execPlannedTakeoverTimeout s) := by
  unfold execPlannedTakeoverTimeout
  split
  · exact OutOk.ite (by simp [h]) h
  · exact h

theorem execBeatStart_ok (chans : List ChanVisit) (links : List LinkVisit) (sensors : List Nat) (s : State) (h : s.stored.Ok) :
    OutOk (execBeatStart chans links sensors s) := by
  refine OutOk.ite h ?_
  dsimp only
  generalize hu : State.beatNumber _ _ = u
  have hs : u.stored.Ok := by
    rw [← hu, State.beatNumber_stored]
    refine State.ok_ite (by simp [h]) (State.ok_foldl (fun s n hs => by simp [hs]) _ (by simp [h]))
  refine OutOk.ite hs (State.planBeat_ok _ ?_)
  rw [State.endTakeover_stored]
  generalize hv : List.foldl _ _ _ = v
  have ht : v.stored.Ok := by
    rw [← hv]
    exact State.ok_foldl (fun s n hs => by simp [hs]) _ (u.serveWaiting_ok hs)
  exact State.ok_ite (State.maintain_ok _ _ _ _ _ ht) ht

theorem execChunkArrival_ok (core : Nat) (s : State) (h : s.stored.Ok) : OutOk (execChunkArrival core s) := by
  unfold execChunkArrival
  split
  · exact h
  · simp [h]

theorem execTransferSuspend_ok (core : Nat) (s : State) (h : s.stored.Ok) : OutOk (execTransferSuspend core s) := by
  unfold execTransferSuspend
  split
  · exact h
  · simp [h]

theorem execGuestMessage_ok (tag : Nat) (msg : GMsg) (s : State) (h : s.stored.Ok) : OutOk (execGuestMessage tag msg s) := by
  refine OutOk.ite h ?_
  split
  · simpa using h
  · refine OutOk.ite (s.guestLate_ok _ h) ?_
    rw [outOk_next, State.pumpRelease_stored]
    exact State.settle_ok _ (State.ok_ite (by simp [h]) (by simp [h]))

theorem execGuestCommandTimeout_ok (tag : Nat) (s : State) (h : s.stored.Ok) : OutOk (execGuestCommandTimeout tag s) := by
  refine OutOk.ite h ?_
  split
  · exact h
  · exact s.guestLate_ok _ h

theorem execNorOpen_ok (slot : Nat) (s : State) (h : s.stored.Ok) : OutOk (execNorOpen slot s) := by
  have hboot (c : Prop) [Decidable c] (a b : Nat) : (if c then s.writeBoot a b else s).stored.Ok := State.ok_ite (by simp [h]) h
  refine s.smbus_ok (State.ok_ite (by simpa using h) ?_) h
  exact (hboot _ _ _).withNor (Sp.wf_eraseRange _ _ _ _ (hboot _ _ _).nor)

theorem execNorClose_ok (check : SlotCheck) (bad : List Nat) (s : State) (h : s.stored.Ok) : OutOk (execNorClose check bad s) := by
  refine s.smbus_ok ?_ h
  split
  · simpa using h
  · dsimp only
    split
    · simpa using h
    · simpa using h
    · exact State.ok_ite (by simp [h]) (by simp [h])

theorem execRelease_ok (s : State) (h : s.stored.Ok) : OutOk (execRelease s) := s.smbus_ok (by simp [h]) h

theorem execReset_ok (s : State) (h : s.stored.Ok) : OutOk (execReset s) := s.smbus_ok (by simp [h]) h

theorem execRegisterWrite_ok (who : Who) (width off value hwSet : Nat) (s : State) (h : s.stored.Ok) :
    OutOk (execRegisterWrite who width off value hwSet s) :=
  OutOk.ite (by simpa using h) (OutOk.ite (s.write32_ok _ _ _ _ h) (OutOk.ite (s.write64_ok _ _ _ _ h) (by simpa using h)))

theorem execPowerGood_ok (s : State) (h : s.stored.Ok) : OutOk (execPowerGood s) := OutOk.ite h (OutOk.ite h (by simp [h]))

theorem execStartStage1_ok (rep : Stage1Rep) (s : State) (h : s.stored.Ok) : OutOk (execStartStage1 rep s) :=
  OutOk.ite (s.inTime_ok 1 (s.sproutStage_ok rep h) h) h

theorem execStartStage2_ok (rep : Stage2Rep) (s : State) (h : s.stored.Ok) : OutOk (execStartStage2 rep s) :=
  OutOk.ite (s.inTime_ok 2 (s.stage2_ok rep h) h) h

theorem execStartStage3_ok (rep : Stage3Rep) (s : State) (h : s.stored.Ok) : OutOk (execStartStage3 rep s) :=
  OutOk.ite (s.inTime_ok 3 (s.stage3_ok rep h) h) h

theorem execWatchdogTimeout_ok (armed : Nat) (s : State) (h : s.stored.Ok) : OutOk (execWatchdogTimeout armed s) :=
  OutOk.ite h (OutOk.ite (by simp [h]) (OutOk.ite (by simp [h]) (by simp [h])))

theorem execCrumbSealComplete_ok (s : State) (h : s.stored.Ok) : OutOk (execCrumbSealComplete s) := by
  unfold execCrumbSealComplete
  split
  · exact h
  · exact OutOk.ite (s.sealExpired_ok _ h) (by simp [h])

theorem execCrumbSealTimeout_ok (s : State) (h : s.stored.Ok) : OutOk (execCrumbSealTimeout s) := by
  unfold execCrumbSealTimeout
  split
  · exact h
  · exact s.sealExpired_ok _ h

theorem execCollSeg_ok (port : Nat) (s : State) (h : s.stored.Ok) : OutOk (execCollSeg port s) :=
  s.takeMsg_ok _ _ _ (fun s m hs => State.ok_ite (by simp [hs]) (State.ok_ite (by simp [hs]) (by simp [hs]))) h

theorem execDrained_ok (port : Nat) (s : State) (h : s.stored.Ok) : OutOk (execDrained port s) :=
  s.takeMsg_ok _ _ _ (fun s m hs => by simp [hs]) h

/-- No command breaks the canonical form of the memory, its poison marks or the NOR flash. -/
theorem exec_ok (c : Instr) (s : State) (h : s.stored.Ok) : OutOk (exec c s) := by
  cases c with
  | registerWrite who width off value hw => exact execRegisterWrite_ok who width off value hw s h
  | beatStart chans links sensors => exact execBeatStart_ok chans links sensors s h
  | chunkArrival core => exact execChunkArrival_ok core s h
  | transferSuspend core => exact execTransferSuspend_ok core s h
  | tbListComplete list => exact execTbListComplete_ok list s h
  | attach who value => exact execAttach_ok who value s h
  | detach who value => exact execDetach_ok who value s h
  | heartbeat who => exact execHeartbeat_ok who s h
  | heartbeatTimeout => exact execHeartbeatTimeout_ok s h
  | hostLinkDown => exact execHostLinkDown_ok s h
  | hreg who => exact s.mailboxRun_ok who (fun s t r hs => by simpa using hs) h
  | dreg who => exact s.mailboxRun_ok who (fun s t r hs => by simpa using hs) h
  | rrel who => exact s.mailboxRun_ok who (fun s t r hs => by simpa using hs) h
  | dbell who => exact s.mailboxRun_ok who (fun s t _ hs => by simpa using hs) h
  | qset who => exact s.mailboxRun_ok who (fun s => s.qset_ok) h
  | qreset who => exact s.mailboxRun_ok who (fun s t q hs => by simpa using hs) h
  | hostDmaComplete id data poison => exact execHostDmaComplete_ok id data poison s h
  | hostDmaTimeout id => exact execHostDmaTimeout_ok id s h
  | powerGood => exact execPowerGood_ok s h
  | startStage1 rep => exact execStartStage1_ok rep s h
  | startStage2 rep => exact execStartStage2_ok rep s h
  | startStage3 rep => exact execStartStage3_ok rep s h
  | watchdogTimeout armed => exact execWatchdogTimeout_ok armed s h
  | guestMessage tag msg => exact execGuestMessage_ok tag msg s h
  | guestCommandTimeout tag => exact execGuestCommandTimeout_ok tag s h
  | norOpen slot => exact execNorOpen_ok slot s h
  | norClose check bad => exact execNorClose_ok check bad s h
  | release => exact execRelease_ok s h
  | reset => exact execReset_ok s h
  | sensorSample readings => exact execSensorSample_ok readings s h
  | inputSample mv rail => exact execInputSample_ok mv rail s h
  | crumbSealComplete => exact execCrumbSealComplete_ok s h
  | crumbSealTimeout => exact execCrumbSealTimeout_ok s h
  | plannedTakeoverTimeout => exact execPlannedTakeoverTimeout_ok s h
  | fullModuleTest => exact s.orderTest_ok h
  | collSeg port => exact execCollSeg_ok port s h
  | drained port => exact execDrained_ok port s h
  | fillYield _ | fenceComplete _ | tickEndRetire _ | haltRetire _ | ballastRampUp _ _ | vstoreArrival _ | frameStart _ _
  | retirementWriteTimeout _ | zeroFillComplete | trainingRetry _ | get _ | time _ | fenceNotice _ | beacon _
  | beaconAck _ | suspect _ | join _ | leave _ | drainMiss _ | beaconAckDeadline | proposalTimeout | fragmentTimeout
  | heldFrameTimeout | outOfTime | doorbell _ _ | status | testUnlock _ _ | logRead _ | watchAckTimeout | takeoverTimeout
  | watchSessionRecord _ _ | fullModuleTestComplete _ =>
    refine outOk_of_stored h ?_
    simp [
      exec, execTime, execBeacon, execBeaconAck, execSuspect, execLeave, execJoin, execFenceNotice,
      execStatus, execTestUnlock, execLogRead]
  | _ =>
    simp [h,
      exec, execSlotStart, execDrain, execResume, execBankSwitchRequest, execBankSwitchCancel, execProgramWordCommit,
      execBallastHoldExpiry, execVrLoad, execVrStore, execVrFrombuf, execVrOp, execTier1Read, execTier1Write, execMergedWrite,
      execPerBankRefresh, execRefreshManagement, execModeRegisterReadout, execPageRetire, execTput, execTget, execTlatch, execTmv,
      execTarm, execTewAdd, execTewMul, execTewFma, execTewMax, execTewExp, execTewGate, execTewRotary, execTewConvert,
      execTewRowMax, execTewRowSum, execTewDivide, execT2SealCommit, execHeatEpochEnd, execQuotaChange, execGradientRecordLanded,
      execSegAck, execEndAck, execWatchRecordAck, execHostPortReset, execJobStart, execJobStop, execFenceCommand, execTbSubmit,
      execT2Open, execT2Write, execT2Seal, execT2Abort, execT2Delete, execReshard, execCommandTakeWindow, execTrainingStepTimeout,
      execBeaconModeTimeout, execAckTimeout, execFastRetrain, execDataFlit, execControlFlit, execBeaconTick, execLeaseExpiry,
      execLeaderLeaseExpiry, execLinkSilent, execDeclaration, execSuccession, execDrainDone, execJoinBatchInterval, execNop,
      execJump, execBranchNz, execBranchZ, execLoop, execLoopEnd, execFence, execTickEnd, execHalt, execReadFlags, execClearFlags,
      execMovi, execAdd, execSub, execMul, execAnd, execOr, execXor, execShl, execShr, execSltu, execAddi, execTseq, execTseqConv,
      execConvSet, execVsetsave, execVsrSet, execVload, execVstore, execVadd, execVsub, execVmul, execVfma, execVmax, execVmin,
      execVabs, execVneg, execVcopy, execVtrans, execVdrop, execVrcp, execVrsqrt, execVsqrt, execVexp, execVexp2, execVlog2,
      execVtanh, execVsigmoid, execVsin, execVcos, execVrsum, execVrsumsq, execVrmax, execVcsum, execVcsumsq, execVcmax, execFarm,
      execSxfer, execPeaPut, execPeaGet, execPeaAdd, execTbList, execGather, execRscat, execAllred, execPerm, execHqPost,
      execHqTake, execUpdStep, execUpdSnap, execUpdApply, execUpdAdvance, execGuestResetRelease, execGuestReady,
      execGuestReadyTimeout, execIdcode, execSamplePreload, execExtest, execDieWrapperSelect, execInstrumentAccess, execBypass,
      execTestReset, execRegisterReadClear, execRegisterSplitLowRead, execStageLimitTimeout, execReferenceLoss, execD2dLinkFault,
      execPowerLoss, execOvervoltageDisconnect, execModEnLow, execP3v3AuxRise, execHoldUpBoostComplete, execOnTimeTick]
/-- Settles O59: a command writes the memory, its poison marks and the NOR flash only through the operations that keep them canonical;
an empty queue only lets time pass. -/
theorem memoryStaysCanonical : Obligations.MemoryStaysCanonical := by
  intro s t hs hstep
  unfold step at hstep
  rw [State.memoryOk_iff] at hs ⊢
  split at hstep
  next => obtain rfl := Host.Outcome.next.inj hstep; simpa using hs
  next c rest _ =>
    have ht := exec_ok c { s with pending := rest } hs
    rw [hstep] at ht
    exact ht

end Sys2Proof.Machine

/-! PROOFS. Who reaches a register, and who may write it (R15, R390). -/

namespace Sys2Proof.Machine

theorem Who.mayRead_of_not_reaches {who : Who} (h : who.reaches = false) (off : Nat) : who.mayRead off = false := by
  obtain ⟨hsteward, hdriver⟩ : who.isSteward = false ∧ who.isDriver = false := by simpa [Who.reaches] using h
  simp [Who.mayRead, hsteward, hdriver]

/-- A write is discarded where its requester reaches no register, or may not write this one. -/
theorem State.write32_of_denied {who : Who} {off : Nat} (h : who.reaches = false ∨ who.mayWrite off = false) (s : State) (v hw : Nat) :
    s.write32 who off v hw = s.logDiscard (regAddr off) who true := by
  unfold State.write32
  split
  · rfl
  next hreach =>
    have hmay : who.mayWrite off = false := h.resolve_left (fun hr => hreach (.inr hr))
    split <;> simp [hmay]

theorem State.write32_of_no_register {s : State} {off : Nat} (h32 : s.reg32 off = none) (h64 : s.reg64 (off / 8 * 8) = none) (who : Who)
    (v hw : Nat) : s.write32 who off v hw = s.logDiscard (regAddr off) who true := by
  simp [State.write32, h32, h64]

theorem State.read32_of_denied {who : Who} {off : Nat} (h : who.mayRead off = false) (s : State) (hw : Nat) :
    s.read32 who off hw = (s.logDiscard (regAddr off) who false, 0) := by
  simp [State.read32, h]

theorem State.read32_of_no_register {s : State} {off : Nat} (h32 : s.reg32 off = none) (h64 : s.reg64 (off / 8 * 8) = none) (who : Who)
    (hw : Nat) : s.read32 who off hw = (s.logDiscard (regAddr off) who false, 0) := by
  simp [State.read32, h32, h64]

theorem execRegisterWrite_32 {off : Nat} (h : off < regSpace) (who : Who) (v hw : Nat) (s : State) :
    execRegisterWrite who 32 off v hw s = .next (s.write32 who off v hw) := by
  rw [execRegisterWrite, if_neg (Nat.not_le.2 h), if_pos rfl]

theorem execRegisterReadClear_32 {off : Nat} (h : off < regSpace) (who : Who) (hw : Nat) (s : State) :
    execRegisterReadClear who 32 off hw s = .next (State.answerReg 32 (s.read32 who off hw)) := by
  rw [execRegisterReadClear, if_neg (Nat.not_le.2 h), if_pos rfl]

theorem execRegisterSplitLowRead_of_lt {off : Nat} (h : off < regSpace) (who : Who) (s : State) :
    execRegisterSplitLowRead who off s = .next (State.answerReg 32 (s.read32 who off 0)) := by
  rw [execRegisterSplitLowRead, if_neg (Nat.not_le.2 h)]

/-- Settles O1: each access is the 32-bit write or read of its offset, which ends in the log where the requester or the offset is refused. -/
theorem registerAccess : Obligations.RegisterAccess := by
  refine ⟨fun s who off v hw _ hoff => ⟨fun hreach => ?_, fun _ h32 h64 => ?_, fun hmay => ?_, fun hmay => ?_⟩,
    fun s who width off v hw hoff => ?_⟩
  · have hread := Who.mayRead_of_not_reaches hreach off
    refine ⟨?_, ?_, ?_⟩
    · exact (execRegisterWrite_32 hoff who v hw s).trans (by rw [State.write32_of_denied (.inl hreach)])
    · exact (execRegisterReadClear_32 hoff who hw s).trans (by rw [State.read32_of_denied hread, State.answerReg])
    · exact (execRegisterSplitLowRead_of_lt hoff who s).trans (by rw [State.read32_of_denied hread, State.answerReg])
  · refine ⟨?_, ?_⟩
    · exact (execRegisterWrite_32 hoff who v hw s).trans (by rw [State.write32_of_no_register h32 h64])
    · exact (execRegisterReadClear_32 hoff who hw s).trans (by rw [State.read32_of_no_register h32 h64, State.answerReg])
  · exact (execRegisterWrite_32 hoff who v hw s).trans (by rw [State.write32_of_denied (.inr hmay)])
  · exact (execRegisterReadClear_32 hoff who hw s).trans (by rw [State.read32_of_denied hmay, State.answerReg])
  · refine ⟨?_, ?_, ?_⟩
    · exact if_pos hoff
    · exact if_pos hoff
    · exact if_pos hoff

end Sys2Proof.Machine

/-! PROOFS. The SMBus mailbox and the test access port (R429, R430, R439, R454, R455, R470, R487, R488). -/

namespace Sys2Proof.Machine

/-! ### The mailbox -/

theorem State.smbus_of_aux {s : State} (h : s.start.aux = true) (f : State → State) : s.smbus f = .next (f s) := if_pos h

theorem State.smbus_of_not_aux {s : State} (h : s.start.aux = false) (f : State → State) : s.smbus f = .next { s with resp := .nack } := by
  simp [State.smbus, h]

theorem execStatus_of_aux {s : State} (haux : s.start.aux = true) : execStatus s = .next { s with
    log := { s.log with alertLost := false }
    resp := .bytes (leBytes 4 s.syStart ++ leBytes 4 s.sySprout ++ leBytes 4 s.syImage ++ leBytes 1 s.ledger.length ++
      leBytes 1 (b2n s.log.alertLost) ++ zeros 2) } := by
  rw [execStatus, State.smbus_of_aux haux]
  rfl

theorem execNorOpen_of_free {s : State} {slot : Nat} (haux : s.start.aux = true) (hslot : slot < 2) (hc : s.committed ≠ some slot)
    (hp : s.pendingSlot ≠ some slot) : execNorOpen slot s = .next { s with
      nor := Sp.eraseRange (slotBase slot) (slotBase slot + 0x2000000) s.nor
      start := { s.start with openSlot := some slot, programmed := [] }
      resp := .bytes [] } := by
  rw [execNorOpen, State.smbus_of_aux haux, if_neg (by simp [hc, hp, hslot])]
  simp only [if_neg hp]
  rfl

theorem execNorWrite_of_unprogrammed {s : State} {k off : Nat} {data : List Byte} (haux : s.start.aux = true) (hopen : s.start.openSlot = some k)
    (hne : data ≠ []) (hlen : data.length ≤ 248) (hoff : off + data.length ≤ 0x2000000)
    (hfree : ∀ i, i < data.length → Sp.get false s.start.programmed (off + i) = false) :
    execNorWrite off data s = .next { s with
      nor := norPut s.nor (slotBase k + off) data
      start := { s.start with programmed :=
        (List.range data.length).foldl (fun p i => Sp.set false p (off + i) true) s.start.programmed }
      resp := .bytes [] } := by
  have hany : (List.range data.length).any (fun i => Sp.get false s.start.programmed (off + i)) = false := by
    simpa using hfree
  rw [execNorWrite, State.smbus_of_aux haux]
  simp only [hopen]
  rw [if_neg (by simp [hne, hany]; omega)]
  rfl

theorem execNorWrite_of_programmed {s : State} {k off i : Nat} {data : List Byte} (haux : s.start.aux = true)
    (hopen : s.start.openSlot = some k) (hi : i < data.length) (hprog : Sp.get false s.start.programmed (off + i) = true) :
    execNorWrite off data s = .next { s with resp := .nack } := by
  have hany : (List.range data.length).any (fun i => Sp.get false s.start.programmed (off + i)) = true :=
    List.any_eq_true.2 ⟨i, List.mem_range.2 hi, hprog⟩
  rw [execNorWrite, State.smbus_of_aux haux]
  simp only [hopen]
  rw [if_pos (.inr (.inr (.inr hany)))]
  rfl

/-- The state in which NOR_CLOSE judges the image: no slot is open any more. -/
def State.slotClosed (s : State) : State := { s with start := { s.start with openSlot := none, programmed := [] } }

theorem execNorClose_of_bad_header {s : State} {k e : Nat} {c : SlotCheck} (haux : s.start.aux = true) (hopen : s.start.openSlot = some k)
    (hh : headerCheck (s.slotImage k) c.sig c.cert s.start.secMin = some e) (bad : List Nat) :
    execNorClose c bad s = .next ((s.slotClosed.imageError (e, 0, 0)).reply []) := by
  rw [execNorClose, State.smbus_of_aux haux]
  simp only [hopen, hh]
  rfl

theorem execNorClose_of_bad_image {s : State} {k : Nat} {c : SlotCheck} {bad : List Nat} {e : Nat × Nat × Nat} (haux : s.start.aux = true)
    (hopen : s.start.openSlot = some k) (hh : headerCheck (s.slotImage k) c.sig c.cert s.start.secMin = none)
    (hi : imageFail (s.slotImage k) bad = some e) : execNorClose c bad s = .next ((s.slotClosed.imageError e).reply []) := by
  rw [execNorClose, State.smbus_of_aux haux]
  simp only [hopen, hh, hi]
  rfl

theorem execNorClose_of_good_image {s : State} {k : Nat} {c : SlotCheck} {bad : List Nat} (haux : s.start.aux = true)
    (hopen : s.start.openSlot = some k) (hh : headerCheck (s.slotImage k) c.sig c.cert s.start.secMin = none)
    (hi : imageFail (s.slotImage k) bad = none) :
    execNorClose c bad s = .next (if s.start.done then ((s.slotClosed.writeBoot (s.committed.getD (1 - k)) k).reply []).planLeave
      else (s.slotClosed.writeBoot (s.committed.getD (1 - k)) k).reply []) := by
  rw [execNorClose, State.smbus_of_aux haux]
  simp only [hopen, hh, hi]
  rfl

theorem State.orderedReset_of_running {s : State} (hp : s.start.pwrGood = true) (hs : s.sealRun = none) (cause : Nat) :
    s.orderedReset cause = s.moduleReset cause := by
  simp [State.orderedReset, hp, hs]

theorem execRelease_of_running {s : State} (haux : s.start.aux = true) (hp : s.start.pwrGood = true) (hs : s.sealRun = none) :
    execRelease s = .next (((s.writeLedger []).reply []).moduleReset 2) := by
  rw [execRelease, State.smbus_of_aux haux, State.orderedReset_of_running (s := (s.writeLedger []).reply []) hp hs]

theorem execReset_of_running {s : State} (haux : s.start.aux = true) (hp : s.start.pwrGood = true) (hs : s.sealRun = none) :
    execReset s = .next ((s.reply []).moduleReset 1) := by
  rw [execReset, State.smbus_of_aux haux, State.orderedReset_of_running (s := s.reply []) hp hs]

theorem execTestUnlock_of_sprout {s : State} {rec : List Byte} (haux : s.start.aux = true) (hs : s.start.stage = 5) (hl : rec.length = 128) :
    execTestUnlock rec true s = .next { s with start := { s.start with unlocked := true }, resp := .bytes [] } := by
  rw [execTestUnlock, State.smbus_of_aux haux, if_pos ⟨hs, hl, rfl⟩]
  rfl

theorem execTestUnlock_of_denied {s : State} {rec : List Byte} {ok : Bool} (haux : s.start.aux = true)
    (h : s.start.stage ≠ 5 ∨ rec.length ≠ 128 ∨ ok = false) : execTestUnlock rec ok s = .next { s with resp := .nack } := by
  rw [execTestUnlock, State.smbus_of_aux haux, if_neg (by rintro ⟨hs, hl, rfl⟩; simp [hs, hl] at h)]
  rfl

theorem execLogRead_of_record {s : State} {slot : Nat} (haux : s.start.aux = true) (h : s.log.at_ slot ≠ LogRec.none) :
    execLogRead slot s = .next { s with
      log := { s.log with read := Sp.set false s.log.read slot true }, resp := .bytes (s.log.at_ slot).bytes } := by
  rw [execLogRead, State.smbus_of_aux haux]
  simp only [if_neg h]
  rfl

theorem not_answered_of_not_aux {s : State} (h : s.start.aux = false) (slot off : Nat) (d : List Byte) (c : SlotCheck) (bad : List Nat)
    (ok : Bool) : ∀ i ∈ ([.status, .norOpen slot, .norWrite off d, .norClose c bad, .release, .reset, .testUnlock d ok,
      .logRead slot] : List Instr), exec i s = .next { s with resp := .nack } := by
  simp only [List.forall_mem_cons, List.not_mem_nil, false_implies, implies_true, and_true]
  refine ⟨?_, ?_, ?_, ?_, ?_, ?_, ?_, ?_⟩
  all_goals simp only [exec, execStatus, execNorOpen, execNorWrite, execNorClose, execRelease, execReset, execTestUnlock, execLogRead,
    State.smbus_of_not_aux h]

/-! ### The test access port -/

theorem State.tapGo_eq (s : State) (ok : Bool) (code : Nat) (drive : Bool) :
    s.tapGo ok code drive = { s with tap :=
      if ok then { s.tap with ir := code, driving := drive } else { s.tap with ir := 0xFF, driving := false } } := by
  cases ok <;> rfl

theorem execInstrumentAccess_eq (i : Nat) (s : State) : execInstrumentAccess i s = .next { s with tap :=
    if s.start.unlocked = true ∨ i = 0 ∨ i = 4 then { s.tap with ir := 5, driving := false }
    else { s.tap with ir := 0xFF, driving := false } } := by
  rw [execInstrumentAccess, State.tapGo_eq]
  simp only [Bool.or_eq_true, beq_iff_eq, or_assoc]

/-- Settles O52 (log entries 42, 52 and 54 name the model's choices of what is allowed and how the rest is answered): one equation for each
command, by what it meets. -/
theorem management : Obligations.Management := by
  refine ⟨fun s slot off d c bad ok haux => not_answered_of_not_aux haux slot off d c bad ok, fun s haux => ?_, fun s => ?_⟩
  · refine ⟨execStatus_of_aux haux, fun slot hslot hc hp => execNorOpen_of_free haux hslot hc hp,
      fun k off data hopen hne hlen hoff hfree => ?_, fun k off data i hopen hi hprog => execNorWrite_of_programmed haux hopen hi hprog,
      fun k c bad hopen => ?_, fun hp hs => ⟨execRelease_of_running haux hp hs, execReset_of_running haux hp hs⟩,
      fun rec hl hs => execTestUnlock_of_sprout haux hs hl, fun rec ok h => execTestUnlock_of_denied haux h, fun slot h => execLogRead_of_record haux h⟩
    · refine ⟨_, execNorWrite_of_unprogrammed haux hopen hne hlen hoff hfree, rfl, rfl, fun i hi => ?_, rfl⟩
      exact Sp.get_foldl_set false (off + ·) (fun _ => true) _ _ (fun _ _ _ => rfl) (.inr ⟨i, List.mem_range.2 hi, rfl⟩)
    · refine ⟨fun e hh => ?_, fun e hh hi => ?_, fun hh hi => ?_⟩
      · change execNorClose c bad s = _
        exact execNorClose_of_bad_header haux hopen hh bad
      · change execNorClose c bad s = _
        exact execNorClose_of_bad_image haux hopen hh hi
      · change execNorClose c bad s = _
        exact execNorClose_of_good_image haux hopen hh hi
  · refine ⟨rfl, fun pins => rfl, ?_, ?_, fun i => execInstrumentAccess_eq i s, rfl, rfl⟩
    · exact congrArg Host.Outcome.next (s.tapGo_eq s.start.unlocked 3 true)
    · exact congrArg Host.Outcome.next (s.tapGo_eq s.start.unlocked 4 false)

end Sys2Proof.Machine

/-! PROOFS. Attach, detach, heartbeat and the ports of the host (R390, R392, R394 to R397, R424, R458). -/

namespace Sys2Proof.Machine

/-! ### Attaching (R394, R395) -/

/-- What R395 asks of the module before it attaches. -/
def State.fullFunction (s : State) : Bool := s.image.isSome && s.start.stage == 4 && s.start.done

theorem State.fullFunction_iff (s : State) : s.fullFunction = true ↔ s.image ≠ none ∧ s.start.stage = 4 ∧ s.start.done = true := by
  simp [State.fullFunction, Option.isSome_iff_ne_none, and_assoc]

/-- Why a host may not attach, 0 if it may. -/
def State.attachRefusal (s : State) (port : Nat) (v : W32) : Nat :=
  if !s.fullFunction then 3 else if v.toNat % 16 ≠ 1 ∧ v.toNat % 16 ≠ 2 then 1
  else if s.hl.state = 1 ∧ s.hl.att.any (· != port) = true ∧ s.hl.hostId ≠ v.toNat / 256 then 2 else 0

/-- The state with the host attached. -/
def State.attached (s : State) (port : Nat) (v : W32) : State :=
  { s with hl := { s.hl with
    refusal := 0, state := 1, session := (s.hl.session + 1) % 65536, hostId := v.toNat / 256, inUse := v.toNat % 16, hbArmed := s.now
    att := if s.hl.att.contains port then s.hl.att else s.hl.att ++ [port] } }

theorem State.attach_eq (s : State) (port : Nat) (v : W32) : s.attach port v =
    if s.attachRefusal port v ≠ 0 then { s with hl := { s.hl with refusal := s.attachRefusal port v } }
    else (s.attached port v).logAttach port 0 0 := by
  cases hi : s.image with
  | none =>
    simp only [State.attach, State.attachRefusal, State.fullFunction, State.attached, hi]
    rfl
  | some im =>
    simp only [State.attach, State.attachRefusal, State.fullFunction, State.attached, hi]
    rfl

theorem State.attach_of_refused {s : State} {port : Nat} {v : W32} {r : Nat} (h : s.attachRefusal port v = r) (hr : r ≠ 0) :
    s.attach port v = { s with hl := { s.hl with refusal := r } } := by
  rw [State.attach_eq, h, if_pos hr]

theorem State.attach_of_accepted {s : State} {port : Nat} {v : W32} (h : s.attachRefusal port v = 0) :
    s.attach port v = (s.attached port v).logAttach port 0 0 := by
  rw [State.attach_eq, h, if_neg (by decide)]

theorem execAttach_of_driver {who : Who} {v : W32} (hw : who.mayDrive = true) (h4 : bitN 4 v.toNat = true) (h5 : bitN 5 v.toNat = false)
    (s : State) : execAttach who v s = .next (s.attach who.port v) := by
  simp [execAttach, hw, h4, h5]

theorem execDetach_of_driver {who : Who} {v : W32} (hw : who.mayDrive = true) (h5 : bitN 5 v.toNat = true) (s : State) :
    execDetach who v s = .next (s.detach 3 who.port) := by
  simp [execDetach, hw, h5]

/-! ### Detaching (R396, R397) -/

/-- The state in which the host's regions, rings, doorbell lines and attached ports are gone. -/
def State.unhosted (s : State) (cause : Nat) : State :=
  { s with
    tenants := s.tenants.map (fun (t : Nat × Tenant) => (t.1, t.2.orphan))
    pages := s.pages.filter (fun p => match p.2.dest with
      | .hostPage _ _ => false
      | _ => true)
    hl := { s.hl with state := 2, cause := cause, inUse := 0, att := [], cstate := if s.hl.cstate = 1 then 2 else s.hl.cstate } }

/-- The reads of host memory that are under way end as lost. -/
def State.loseReads (s : State) (reads : List DmaRead) : State :=
  (reads.foldl (fun (s : State) r => s.dmaDone r [] true true) s).settle

theorem State.detach_of_attached {s : State} (h : s.hl.state = 1) (cause port : Nat) :
    s.detach cause port = ((s.unhosted cause).loseReads s.hl.dma).logAttach port cause (if cause = 3 then 1 else 2) := by
  rw [State.detach, if_neg (not_not.2 h)]
  rfl

/-- What no longer holds of a tenant and of a page once the host is gone. -/
theorem State.unhosted_gone (s : State) (cause : Nat) :
    (∀ x ∈ (s.unhosted cause).tenants, x.2.doorbell = none ∧ x.2.held = [] ∧ (∀ r ∈ x.2.regions, r.2.host = false) ∧
      ∀ q ∈ x.2.queues, q.2.isSet = false) ∧
    ∀ x ∈ (s.unhosted cause).pages, ∀ r i, x.2.dest ≠ .hostPage r i := by
  refine ⟨fun x hx => ?_, fun x hx r i hd => ?_⟩
  · obtain ⟨t, -, rfl⟩ := List.mem_map.1 hx
    refine ⟨rfl, rfl, fun r hr => ?_, fun q hq => ?_⟩
    · simpa using (List.mem_filter.1 hr).2
    · obtain ⟨q', -, rfl⟩ := List.mem_map.1 hq
      rfl
  · have hkeep := (List.mem_filter.1 hx).2
    simp [hd] at hkeep

theorem execHeartbeatTimeout_of_attached {s : State} (h : s.hl.state = 1) : execHeartbeatTimeout s = .next s.heartbeatLost := if_pos h

theorem execHeartbeat_of_driver {who : Who} (hw : who.mayDrive = true) (s : State) : execHeartbeat who s = .next s.heartbeat := by
  simp [execHeartbeat, hw]

/-- A heartbeat at the expiry of the timer, or later, finds it expired. -/
theorem State.heartbeat_of_late {s : State} (h : s.hl.state = 1) (ht : s.hl.hbArmed + 4000000000 ≤ s.now) : s.heartbeat = s.heartbeatLost := by
  rw [State.heartbeat, if_neg (not_not.2 h), if_pos ht]

theorem State.heartbeat_of_timely {s : State} (h : s.hl.state = 1) (ht : s.now < s.hl.hbArmed + 4000000000) :
    s.heartbeat = { s with hl := { s.hl with hbArmed := s.now } } := by
  rw [State.heartbeat, if_neg (not_not.2 h), if_neg (by omega)]

/-- The state at the expiry of the heartbeat's timer, the timeout logged. -/
def State.heartbeatExpired (s : State) : State := (s.advanceTo (s.hl.hbArmed + 4000000000)).logTimeout 19 s.hl.hbArmed

theorem State.heartbeatLost_of_attached {s : State} (h : s.hl.state = 1) :
    s.heartbeatLost = ((s.heartbeatExpired.unhosted 1).loseReads s.hl.dma).logAttach 0 1 2 := by
  have hhl : s.heartbeatExpired.hl = s.hl := State.logAs_hl ..
  have hd := State.detach_of_attached (s := s.heartbeatExpired) (hhl ▸ h) 1 0
  rw [hhl] at hd
  exact hd

/-- Settles O45 (a write with bits 5 and 4 both set detaches: log entry 16): attaching by its checks, detaching as the host's traces gone
and its reads lost, the heartbeat by its timer. -/
theorem hostSessions : Obligations.HostSessions := by
  refine ⟨fun s who v hw => ?_, fun s who v hw h4 h5 => ?_, fun s hs => ?_, fun s who hw hs => ?_, fun s port speed width => rfl⟩
  · refine ⟨?_, ?_, ?_⟩
    · change execAttach who v s = _
      simp [execAttach, hw]
    · change execDetach who v s = _
      simp [execDetach, hw]
    · change execHeartbeat who s = _
      simp [execHeartbeat, hw]
  · have hattach := execAttach_of_driver hw h4 h5 s
    simp only [← State.fullFunction_iff]
    refine ⟨fun hfull hv ho => ?_, fun hfull => ?_, fun hfull h1 h2 => ?_, fun hfull hv ho => ?_⟩
    · have hr : s.attachRefusal who.port v = 0 := by
        rw [State.attachRefusal, hfull, if_neg (by decide), if_neg (by omega), if_neg ho]
      refine ⟨_, hattach.trans (by rw [State.attach_of_accepted hr]), ?_, ?_, ?_⟩
      · exact State.logAs_mem ..
      · exact State.logAs_tenants ..
      · exact State.logAs_hl ..
    · have hr : s.attachRefusal who.port v = 3 := by simp [State.attachRefusal, hfull]
      exact hattach.trans (by rw [State.attach_of_refused hr (by decide)])
    · have hr : s.attachRefusal who.port v = 1 := by simp [State.attachRefusal, hfull, h1, h2]
      exact hattach.trans (by rw [State.attach_of_refused hr (by decide)])
    · have hr : s.attachRefusal who.port v = 2 := by
        rw [State.attachRefusal, hfull, if_neg (by decide), if_neg (by omega), if_pos ho]
      exact hattach.trans (by rw [State.attach_of_refused hr (by decide)])
  · have hgone (u : State) (cause : Nat) := u.unhosted_gone cause
    refine ⟨fun who v hw h5 => ⟨s.unhosted 3, ?_, ⟨rfl, rfl, rfl, rfl, hgone s 3⟩, rfl⟩,
      ⟨s.heartbeatExpired.unhosted 1, ?_, ⟨rfl, rfl, rfl, rfl, hgone _ 1⟩, ?_, ?_⟩, ⟨s.unhosted 2, ?_, ⟨rfl, rfl, rfl, rfl, hgone s 2⟩, rfl⟩,
      fun who hw => ⟨fun ht => ?_, fun ht => ?_⟩⟩
    · change execDetach who v s = _
      rw [execDetach_of_driver hw h5, State.detach_of_attached hs]
      rfl
    · change execHeartbeatTimeout s = _
      rw [execHeartbeatTimeout_of_attached hs, State.heartbeatLost_of_attached hs]
      rfl
    · exact State.logAs_mem ..
    · exact State.logAs_now ..
    · change execHostLinkDown s = _
      rw [execHostLinkDown, State.detach_of_attached hs, if_neg (by decide), State.loseReads]
    · change execHeartbeat who s = _
      rw [execHeartbeat_of_driver hw, State.heartbeat_of_timely hs ht]
    · change execHeartbeat who s = execHeartbeatTimeout s
      rw [execHeartbeat_of_driver hw, State.heartbeat_of_late hs ht, execHeartbeatTimeout_of_attached hs]
  · change execHeartbeat who s = _
    rw [execHeartbeat_of_driver hw, State.heartbeat, if_pos hs]

end Sys2Proof.Machine

/-! PROOFS. An acknowledged residual record lets the END go that it held back (R316, R463), which O53 leaves out. -/

namespace Sys2Proof.Machine

/-- The records of the watch session after a command. -/
def outRecords : Out → List WRec
  | .next t => t.watchOut
  | _ => []

/-- A residual record of step 1, of the job in slot 0. -/
def residualRec : WRec := ⟨0x11, 0, 0, 1, zeros 16, [], (0, 0)⟩

/-- The END record of that step. -/
def endRec : WRec := ⟨3, 0, 0, 1, zeros 16, [], (0, 0)⟩

/-- The residual record is not acknowledged yet, and holds the END back. -/
def residualPending : State :=
  { State.reset with
    watchOut := [residualRec]
    jobs := [(0, { Job.none with upd := { UpdSt.none with ends := [endRec] } })] }

theorem residualPending_holds_end : residualPending.endHeld endRec = true := by decide

/-- The END is sent with the acknowledgment. -/
theorem outRecords_watchRecordAck : outRecords (exec .watchRecordAck residualPending) = [endRec] := by decide +kernel

theorem outRecords_recordAcked :
    outRecords (.next ({ residualPending with watchOut := [] }.recordAcked residualRec).collPump) = [] := by
  rfl

/-- Refutes O53: its clause on WATCH_RECORD_ACK says that only `recordAcked` and `collPump` follow an acknowledgment, while an END that the
record held back is sent too. -/
theorem not_watchSessions : ¬ Obligations.WatchSessions := by
  rintro ⟨-, hack, -⟩
  obtain ⟨hnext, -⟩ := hack residualPending residualRec [] rfl (by decide) (by decide)
  have hrecords := congrArg outRecords hnext
  rw [outRecords_watchRecordAck, outRecords_recordAcked] at hrecords
  exact absurd hrecords (by decide)

end Sys2Proof.Machine

/-! PROOFS. The mailbox of the host: regions, the doorbell line and queues (R272, R401, R416). -/

namespace Sys2Proof.Machine

/-! ### What the mailbox lets through -/

section

variable {s : State} {who : Who} {f : State → Nat → Nat → State}

theorem State.mailboxRun_of_discarded (h : who.mayDrive = false ∨ s.hl.cstate = 1) : s.mailboxRun who f = s.logDiscard (hlAddr 0x38) who true := by
  rw [State.mailboxRun, if_pos]
  rcases h with h | h <;> simp [h]

theorem State.mailboxRun_of_driver (hw : who.mayDrive = true) (hc : s.hl.cstate ≠ 1) : s.mailboxRun who f =
    if (s.tenant s.hl.tenant).state = 0 then s.mbRefuse 1 else if s.hl.state ≠ 1 then s.mbRefuse 6 else f s s.hl.tenant s.hl.object := by
  rw [State.mailboxRun, if_neg (by simp [hw, hc])]

/-- The three ways in which the mailbox answers without running its command. -/
theorem State.mailbox_refusals (s : State) (who : Who) (f : State → Nat → Nat → State) :
    (who.mayDrive = false ∨ s.hl.cstate = 1 → s.mailbox who f = .next (s.logDiscard (hlAddr 0x38) who true)) ∧
    (who.mayDrive = true → s.hl.cstate ≠ 1 → (s.tenant s.hl.tenant).state = 0 → s.mailbox who f = .next (s.mbRefuse 1)) ∧
    (who.mayDrive = true → s.hl.cstate ≠ 1 → (s.tenant s.hl.tenant).state ≠ 0 → s.hl.state ≠ 1 → s.mailbox who f = .next (s.mbRefuse 6)) := by
  refine ⟨fun h => ?_, fun hw hc ht => ?_, fun hw hc ht hs => ?_⟩
  · rw [State.mailbox, State.mailboxRun_of_discarded h]
  · rw [State.mailbox, State.mailboxRun_of_driver hw hc, if_pos ht]
  · rw [State.mailbox, State.mailboxRun_of_driver hw hc, if_neg ht, if_pos hs]

theorem State.mailbox_run (hw : who.mayDrive = true) (hc : s.hl.cstate ≠ 1) (ht : (s.tenant s.hl.tenant).state ≠ 0) (hs : s.hl.state = 1) :
    s.mailbox who f = .next (f s s.hl.tenant s.hl.object) := by
  rw [State.mailbox, State.mailboxRun_of_driver hw hc, if_neg ht, if_neg (not_not.2 hs)]

end

/-! ### The commands, their checks passed -/

section

variable {s : State} {tn r : Nat}

theorem Tenant.region_of_regions {t : Tenant} {rs : Sp Region} {g : Region} (h : t.regions = Sp.set Region.none rs r g) : t.region r = g := by
  rw [Tenant.region, h, Sp.get_set_same]

theorem State.setPages_eq {ι : Type} (s : State) (key : ι → Nat) (val : ι → PageEnt) (l : List ι) :
    l.foldl (fun (s : State) i => s.setPage (key i) (val i)) s =
      { s with pages := l.foldl (fun t i => Sp.set PageEnt.none t (key i) (val i)) s.pages } := by
  induction l generalizing s with
  | nil => rfl
  | cons i l ih => exact ih _

/-- The region that HREG registers. -/
def State.hostRegion (s : State) (tn : Nat) : Region :=
  let len := s.hl.carg1.toNat % 2 ^ 40
  { Region.none with host := true, base := s.hl.carg0.toNat, va := s.freshVa tn 65536 len, len := len, write := bitN 40 s.hl.carg1.toNat }

theorem State.hreg_of_checked (ha : s.hl.carg0.toNat % 65536 = 0) (hl : s.hl.carg1.toNat % 2 ^ 40 % 65536 = 0)
    (hl0 : s.hl.carg1.toNat % 2 ^ 40 ≠ 0) (hover : (s.tenant tn).over1 = false) (hn : (s.tenant tn).regions.length < 64)
    (hfree : ((s.tenant tn).region r).len = 0) :
    let g := s.hostRegion tn
    s.hreg tn r = State.mbDone { s.bump.setTenant tn { s.tenant tn with regions := Sp.set Region.none (s.tenant tn).regions r g } with
      pages := (List.range (g.len / 65536)).foldl (fun t i =>
        Sp.set PageEnt.none t (pageKey tn (g.va / 65536 + i)) ⟨.hostPage r i, false, false⟩) s.pages } g.va := by
  simp only [State.hreg]
  rw [if_neg (by simp only [ha, hl, hl0]; simp), if_neg (by simp [hover]), if_neg (by omega), if_neg (by simp [hfree]), State.setPages_eq]
  rfl

/-- The pages of a new host region, one after another. -/
theorem get_hostPages {tn va r n i : Nat} (t : Sp PageEnt) (h : i < n) :
    Sp.get PageEnt.none ((List.range n).foldl (fun t i => Sp.set PageEnt.none t (pageKey tn (va + i)) ⟨.hostPage r i, false, false⟩) t)
      (pageKey tn (va + i)) = ⟨.hostPage r i, false, false⟩ := by
  refine Sp.get_foldl_set _ (fun i => pageKey tn (va + i)) (fun i => (⟨.hostPage r i, false, false⟩ : PageEnt)) _ _ (fun j _ hj => ?_)
    (.inr ⟨i, List.mem_range.2 h, rfl⟩)
  obtain rfl : j = i := by
    simp only [pageKey] at hj
    omega
  rfl

theorem State.dreg_of_checked (ha : s.hl.carg0.toNat % pageSize = 0) (hl : s.hl.carg1.toNat % 2 ^ 40 % pageSize = 0)
    (hl0 : s.hl.carg1.toNat % 2 ^ 40 ≠ 0) (hend : s.hl.carg0.toNat + s.hl.carg1.toNat % 2 ^ 40 ≤ 2 ^ 48)
    (hover : (s.tenant tn).over1 = false) (hn : (s.tenant tn).regions.length < 64)
    (hpages : ∀ i, i < s.hl.carg1.toNat % 2 ^ 40 / pageSize → s.forbiddenPage tn (s.hl.carg0.toNat + i * pageSize) = false)
    (hfree : ((s.tenant tn).region r).len = 0) :
    ∃ hdm bar : Nat, s.dreg tn r = ((s.bump.setTenant tn { s.tenant tn with
      regions := Sp.set Region.none (s.tenant tn).regions r { Region.none with
        va := s.hl.carg0.toNat, len := s.hl.carg1.toNat % 2 ^ 40, write := bitN 40 s.hl.carg1.toNat
        placement := bitN 41 s.hl.carg1.toNat && s.hl.inUse == 2, adapter := s.hl.carg1.toNat / 2 ^ 48, hdm := hdm, bar2 := bar }
      use1 := (s.tenant tn).use1 + s.hl.carg1.toNat % 2 ^ 40 / pageSize }).settleQuota tn).mbDone (hdm % 2 ^ 41 + bar / 65536 * 2 ^ 41) := by
  have hany : (List.range (s.hl.carg1.toNat % 2 ^ 40 / pageSize)).any (fun i => s.forbiddenPage tn (s.hl.carg0.toNat + i * pageSize)) = false := by
    simpa using hpages
  simp only [State.dreg]
  have hargs : ¬(s.hl.carg0.toNat % pageSize ≠ 0 ∨ s.hl.carg1.toNat % 2 ^ 40 % pageSize ≠ 0 ∨ s.hl.carg1.toNat % 2 ^ 40 = 0 ∨
      2 ^ 48 < s.hl.carg0.toNat + s.hl.carg1.toNat % 2 ^ 40) := by
    rintro (h | h | h | h)
    · exact h ha
    · exact h hl
    · exact hl0 h
    · omega
  rw [if_neg hargs, if_neg (by simp [hover]), if_neg (by omega), if_neg (by rw [hany]; decide), if_neg (by simp [hfree])]
  have hbar (c : Bool) (b : Nat) : (if c = true then b / 65536 else 0) = (if c = true then b else 0) / 65536 := by
    split
    · rfl
    · rfl
  rw [hbar]
  exact ⟨_, _, rfl⟩

theorem State.rrel_of_region (h : ((s.tenant tn).region r).len ≠ 0) : s.rrel tn r =
    State.pumpRelease { s.setTenant tn { s.tenant tn with
      regions := Sp.set Region.none (s.tenant tn).regions r { (s.tenant tn).region r with releasing := true } } with
      hl := { s.hl with cstate := 1, creason := 0, cres := 0#64 } } := by
  simp only [State.rrel]
  rw [if_neg h]

theorem State.dbell_of_line (h : s.hl.carg0.toNat % 64 = 0) :
    s.dbell tn = (s.setTenant tn { s.tenant tn with doorbell := some s.hl.carg0.toNat }).mbDone 0 := by
  simp only [State.dbell]
  rw [if_neg (not_not.2 h)]
  rfl

theorem shadowPages_input {q : Nat} (h : isInput q = true) (n : Nat) : shadowPages q n = 0 := if_pos h

theorem shadowPages_ne_zero {q n : Nat} (h : isInput q = false) : shadowPages q n ≠ 0 := by
  have hpos : 0 < 2 ^ n := Nat.two_pow_pos n
  simp only [shadowPages, h, ceilDiv, pageSize, Bool.false_eq_true, if_false]
  omega

theorem State.qset_of_checked {s2 : State} (hr : r < 8) (ha : s.hl.carg0.toNat % 4096 = 0) (h6 : 6 ≤ s.hl.carg1.toNat % 32)
    (h16 : s.hl.carg1.toNat % 32 ≤ 16) (hq : ((s.tenant tn).queue r).shadow.length ≤ 2 ^ (s.hl.carg1.toNat % 32)) :
    let s1 := s.freeFrames tn (fun o => o == (tn, 0xFFFF, FrameUse.shadow r))
    let m := shadowPages r (s.hl.carg1.toNat % 32)
    (s1.tenant tn).use1 + m ≤ (s1.tenant tn).quota1 →
    (if isInput r then s2 = s1 else ∃ d fs, s1.bestDie (fun d => decide (m ≤ s1.freeOnDie d)) = some d ∧
      s1.allocFrames d m (tn, 0xFFFF, .shadow r) = some (s2, fs)) →
    s.qset tn r = (((s2.updTenant tn (fun t => t.setQueue r ({ (s.tenant tn).queue r with
      isSet := true, base := s.hl.carg0.toNat, depthExp := s.hl.carg1.toNat % 32, port := b2n (bitN 8 s.hl.carg1.toNat)
      err := false }.again (isInput r)))).serveQueue tn r).mbDone (((s.tenant tn).queue r).restart (isInput r))) := by
  intro s1 m hquota hgot
  have hs2 : (if m = 0 then some s1
      else (s1.bestDie (fun d => decide (m ≤ s1.freeOnDie d))).bind (fun d => (s1.allocFrames d m (tn, 0xFFFF, .shadow r)).map (·.1))) = some s2 := by
    cases hin : isInput r with
    | true =>
      rw [hin, if_pos rfl] at hgot
      rw [if_pos (shadowPages_input hin _), hgot]
    | false =>
      rw [hin, if_neg (by decide)] at hgot
      obtain ⟨d, fs, hd, hfs⟩ := hgot
      rw [if_neg (shadowPages_ne_zero hin), hd, Option.bind_some, hfs]
      rfl
  simp only [State.qset]
  rw [if_neg (by omega), if_neg (not_lt.2 hquota)]
  split
  next hnone => exact absurd (hnone.symm.trans hs2) (by simp)
  next u hu =>
    obtain rfl : u = s2 := Option.some.inj (hu.symm.trans hs2)
    rfl

/-- The tenant with the queue out of the error state. -/
def Tenant.queueReset (t : Tenant) (r : Nat) : Tenant :=
  let y := { t.queue r with err := false }.again (isInput r)
  if r = 0 then { t.setQueue r y with held := [] } else t.setQueue r y

theorem Tenant.queueReset_queue (t : Tenant) (r : Nat) : (t.queueReset r).queue r = { t.queue r with err := false }.again (isInput r) := by
  have hset (y : Queue) : (t.setQueue r y).queue r = y := Sp.get_set_same _ _ _ _
  unfold Tenant.queueReset
  dsimp only
  split
  · exact hset _
  · exact hset _

theorem State.qreset_of_queue (hr : r < 8) : s.qreset tn r =
    (((s.setTenant tn ((s.tenant tn).queueReset r)).serveQueue tn r).mbDone (((s.tenant tn).queue r).restart (isInput r))) := by
  simp only [State.qreset]
  rw [if_neg (by omega)]
  rfl

end

/-- Settles O46 (that a device region's pages count beside those of its tensors is log entry 91): the mailbox's refusals, then one equation
for each command whose checks pass. -/
theorem mailboxCommands : Obligations.MailboxCommands := by
  refine ⟨fun s who => ?_, fun s who hw hc ht hs => ?_⟩
  · simp only [List.forall_mem_cons, List.not_mem_nil, false_implies, implies_true, and_true]
    exact ⟨s.mailbox_refusals who _, s.mailbox_refusals who _, s.mailbox_refusals who _, s.mailbox_refusals who _,
      s.mailbox_refusals who _, s.mailbox_refusals who _⟩
  · have hrun (f : State → Nat → Nat → State) := State.mailbox_run (f := f) hw hc ht hs
    refine ⟨fun ha hl hl0 hover hn hfree => ?_, fun ha hl hl0 hend hover hn hpages hfree => ?_, fun hlen => ?_, fun ha => ?_,
      fun s2 hr ha h6 h16 hq hquota hgot => ?_, fun hr => ?_⟩
    · refine ⟨_, (hrun _).trans (congrArg _ (State.hreg_of_checked ha hl hl0 hover hn hfree)), rfl, rfl, rfl, rfl, ?_, fun i hi => ?_⟩
      · exact Tenant.region_of_regions (congrArg Tenant.regions (State.tenant_setTenant_same _ _ _))
      · exact get_hostPages s.pages hi
    · obtain ⟨hdm, bar, hdreg⟩ := State.dreg_of_checked (r := s.hl.object) ha hl hl0 hend hover hn hpages hfree
      refine ⟨_, hdm, bar, (hrun _).trans (congrArg _ hdreg), rfl, rfl, ?_, ?_⟩
      · rw [State.tenant_setTenant_same]
      · rw [State.tenant_setTenant_same]
        exact Tenant.region_of_regions rfl
    · refine ⟨_, (hrun _).trans (congrArg _ (State.rrel_of_region hlen)), rfl, ?_, rfl, rfl⟩
      exact Tenant.region_of_regions (congrArg Tenant.regions (State.tenant_setTenant_same _ _ _))
    · exact ⟨_, (hrun _).trans (congrArg _ (State.dbell_of_line ha)), rfl, State.tenant_setTenant_same _ _ _, rfl⟩
    · exact (hrun _).trans (congrArg _ (State.qset_of_checked hr ha h6 h16 hq hquota hgot))
    · refine ⟨_, (hrun _).trans (congrArg _ (State.qreset_of_queue hr)), ?_, rfl⟩
      rw [State.tenant_setTenant_same]
      exact Tenant.queueReset_queue _ _

end Sys2Proof.Machine

/-! PROOFS. Loss of power or of the reference, the crumb seal, sensors and the input (R419, R423, R433, R456, R457, R466, R477, R479, R481,
R488 to R492). -/

namespace Sys2Proof.Machine

/-! ### What stops issue -/

/-- Issue stops, with what the reset after the seal waits for. -/
def State.halted (s : State) (hold : ResetHold) : State := { s with stopped := true, start := { s.start with hold := hold } }.suspendBallast

theorem State.powerLoss_of_running {s : State} (hp : s.start.pwrGood = true) (hs : s.sealRun = none) (hold : ResetHold) :
    s.powerLoss hold = { s.halted hold with linkOut := s.linkOut ++ [LinkOut.leave], sealRun := some ⟨0, s.now, none⟩ } := by
  have hsr : (s.halted hold).sealRun = none := hs
  unfold State.powerLoss
  rw [if_neg (by simp [hp])]
  dsimp only
  split
  next r hr => exact absurd (hsr.symm.trans hr) (by simp)
  next => rfl

theorem State.powerLoss_of_sealing {s : State} {r : SealRun} (hp : s.start.pwrGood = true) (hs : s.sealRun = some r) (hold : ResetHold) :
    s.powerLoss hold = { s.halted hold with sealRun := some { r with reset := none } } := by
  have hsr : (s.halted hold).sealRun = some r := hs
  unfold State.powerLoss
  rw [if_neg (by simp [hp])]
  dsimp only
  split
  next q hq =>
    obtain rfl : r = q := Option.some.inj (hsr.symm.trans hq)
    rfl
  next hn => exact absurd (hsr.symm.trans hn) (by simp)

theorem State.moduleFault_of_unsealed {s : State} (hs : s.sealRun = none) : s.moduleFault =
    { s with stopped := true, linkOut := s.linkOut ++ [.leave], sealRun := some ⟨4, s.now, some 6⟩ } := by
  simp only [State.moduleFault, hs]

theorem State.expire_now (s : State) (row t d : Nat) : (s.expire row t d).now = max s.now (t + d) := State.logAs_now ..

theorem State.expire_linkOut (s : State) (row t d : Nat) : (s.expire row t d).linkOut = s.linkOut := State.logAs_linkOut ..

theorem State.expire_start (s : State) (row t d : Nat) : (s.expire row t d).start = s.start := State.logAs_start ..

theorem execReferenceLoss_of_running {s : State} (hp : s.start.pwrGood = true) (hs : s.sealRun = none) (armed : Nat) :
    ∃ t, execReferenceLoss armed s = .next t ∧ t.stopped = true ∧ t.linkOut = s.linkOut ++ [LinkOut.leave] ∧
      t.now = max s.now (armed + 1000) ∧ t.sealRun = some ⟨2, t.now, none⟩ ∧ t.start = { s.start with hold := .power } := by
  rw [execReferenceLoss, if_neg (by simp [hp, hs])]
  refine ⟨_, rfl, rfl, ?_, s.expire_now .., rfl, ?_⟩
  · rw [State.expire_linkOut]
  · rw [State.expire_start]

theorem execD2dLinkFault_of_running {s : State} (hp : s.start.pwrGood = true) (hs : s.sealRun = none) {link wing dir : Nat} (hl : link < 5)
    (hw : wing < 12) (hd : dir < 2) (replays : Nat) : ∃ t, execD2dLinkFault link wing dir replays s = .next t ∧
      t.stopped = true ∧ t.linkOut = s.linkOut ++ [LinkOut.leave] ∧ t.sealRun = some ⟨4, s.now, some 6⟩ ∧
      Sp.get 0#32 t.dd.replay ((link * 16 + wing) * 2 + dir) = satAdd32 (Sp.get 0#32 s.dd.replay ((link * 16 + wing) * 2 + dir)) replays := by
  rw [execD2dLinkFault, if_neg (by simp [hp]; omega)]
  exact ⟨_, congrArg _ (State.moduleFault_of_unsealed hs), rfl, rfl, rfl, Sp.get_set_same _ _ _ _⟩

/-! ### The seal (R477) -/

theorem execCrumbSealTimeout_of_sealing {s : State} {r : SealRun} (hs : s.sealRun = some r) :
    execCrumbSealTimeout s = .next ((s.expire 23 r.armed 8000000).afterSeal r) := by
  simp only [execCrumbSealTimeout, hs]
  rfl

theorem execCrumbSealComplete_of_late {s : State} {r : SealRun} (hs : s.sealRun = some r) (ht : r.armed + 8000000 ≤ s.now) :
    execCrumbSealComplete s = execCrumbSealTimeout s := by
  simp only [execCrumbSealComplete, execCrumbSealTimeout, hs, if_pos ht]

theorem execCrumbSealComplete_of_timely {s : State} {r : SealRun} (hs : s.sealRun = some r) (ht : s.now < r.armed + 8000000) :
    execCrumbSealComplete s = .next ((s.writeCrumbs r.cause r.armed (s.log.sealed r.armed)).afterSeal r) := by
  simp only [execCrumbSealComplete, hs, if_neg (not_le.2 ht)]

theorem State.writeCrumbs_start (s : State) (cause time : Nat) (rs : List LogRec) : (s.writeCrumbs cause time rs).start = s.start := by
  rw [State.writeCrumbs, State.eraseNextCrumb]

theorem State.writeCrumbs_mem (s : State) (cause time : Nat) (rs : List LogRec) : (s.writeCrumbs cause time rs).mem = s.mem := by
  rw [State.writeCrumbs, State.eraseNextCrumb]

/-- After a seal that no reset follows, the module waits for power. -/
theorem State.afterSeal_of_hold {r : SealRun} (hr : r.reset = none) (s : State) :
    s.afterSeal r =
      let z := s.afterReset (if s.start.hold = .none then .power else s.start.hold)
      { z with start := { z.start with cause := if r.cause = 2 then 7 else 0 } } := by
  simp only [State.afterSeal, hr]

/-! ### Sensors, the store and the input -/

theorem State.advanceTo_next (s : State) {d : Nat} (hd : 0 < d) : (s.advanceTo ((s.now / d + 1) * d)).now = (s.now / d + 1) * d := by
  have hnext : s.now < (s.now / d + 1) * d := Nat.lt_mul_of_div_lt (Nat.lt_succ_self _) hd
  exact max_eq_right hnext.le

theorem State.sample_of_plausible {s : State} {i : Nat} {v : Int} (hf : (s.pm.sensor i).failed = false)
    (hv : (s.pm.sensor i).plausible i v = true) : s.sample i v = s.updPm (fun p => { p with
      sensors := Sp.set Sensor.reset p.sensors i { s.pm.sensor i with good := (v :: (s.pm.sensor i).good).take 8, bad := 0 } }) := by
  simp only [State.sample, hf, hv]
  rfl

theorem State.sensor_sample_of_plausible {s : State} {i : Nat} {v : Int} (hf : (s.pm.sensor i).failed = false)
    (hv : (s.pm.sensor i).plausible i v = true) (j : Nat) : (s.sample i v).pm.sensor j =
      if j = i then { s.pm.sensor i with good := (v :: (s.pm.sensor i).good).take 8, bad := 0 } else s.pm.sensor j := by
  rw [State.sample_of_plausible hf hv, PmSt.sensor, State.updPm, Sp.get_set]
  rfl

theorem execSensorSample_of_plausible {s : State} {i : Nat} {v : Int} (hp : s.start.pwrGood = true) (hh : s.start.hold = .none)
    (hi : i < 78) (hf : (s.pm.sensor i).failed = false) (hv : (s.pm.sensor i).plausible i v = true) :
    let u := (s.advanceTo ((s.now / 1000000 + 1) * 1000000)).sample i v
    execSensorSample [(i, v)] s = .next (if s.sealRun.isSome then u else u.control) := by
  have hu := State.sample_of_plausible (s := s.advanceTo ((s.now / 1000000 + 1) * 1000000)) (i := i) (v := v) hf hv
  have hstart := congrArg State.start hu
  have hseal := congrArg State.sealRun hu
  have hone : ([(i, v)] : Readings).filter (fun r => decide (r.1 < 78)) = [(i, v)] := by simp [hi]
  simp only [execSensorSample, hone, List.foldl_cons, List.foldl_nil]
  rw [if_neg (by simp [hp]), hstart, hseal, if_neg (by exact fun h => by simp [hh, State.updPm] at h)]
  exact (apply_ite Host.Outcome.next _ _ _).symm

/-- What an input sample of `mv` makes of the controller's timers. -/
def State.inputTimers (s : State) (mv : Nat) : State :=
  let s := s.advanceTo ((s.now / 10000 + 1) * 10000)
  let out := decide (mv < 48000) || decide (60000 < mv)
  s.updPm (fun p => { p with
    vinLow := since p.vinLow s.now (decide (mv < 45000)), vinHigh := since p.vinHigh s.now (decide (62000 < mv))
    vinOut := since p.vinOut s.now out, railOut := none, vinBad := p.vinBad && out })

theorem execInputSample_of_good {s : State} {mv : Nat} (hp : s.start.pwrGood = true) (hlow : 48000 ≤ mv) (hhigh : mv ≤ 60000) :
    ∃ t, execInputSample mv none s = .next t ∧ t.now = (s.now / 10000 + 1) * 10000 ∧
      t.pm = { s.pm with vinLow := none, vinHigh := none, vinOut := none, railOut := none, vinBad := false } := by
  have h45 : decide (mv < 45000) = false := by simp; omega
  have h48 : decide (mv < 48000) = false := by simp; omega
  have h60 : decide (60000 < mv) = false := by simp; omega
  have h62 : decide (62000 < mv) = false := by simp; omega
  refine ⟨s.inputTimers mv, ?_, s.advanceTo_next (by decide), ?_⟩
  · simp [execInputSample, State.inputTimers, hp, h45, h48, h60, h62, since, heldFor, State.updPm]
  · simp [State.inputTimers, h45, h48, h60, h62, since, State.updPm]

theorem execInputSample_of_low {s : State} {mv a : Nat} (hp : s.start.pwrGood = true) (hlow : mv < 45000) (ha : s.pm.vinLow = some a)
    (ht : a + 10000 ≤ (s.now / 10000 + 1) * 10000) : execInputSample mv none s = .next ((s.inputTimers mv).powerLoss .power) := by
  have hnow := s.advanceTo_next (d := 10000) (by decide)
  have h45 : decide (mv < 45000) = true := by simpa using hlow
  have hheld : heldFor (s.inputTimers mv).pm.vinLow (s.inputTimers mv).now 10000 = true := by
    simp only [State.inputTimers, State.updPm, h45, since, State.advanceTo_pm, ha, if_true, heldFor, Option.getD_some, hnow]
    exact decide_eq_true ht
  rw [execInputSample, if_neg (by simp [hp])]
  exact if_pos (by rw [Bool.or_eq_true]; exact .inl hheld)

theorem execHoldUpBoostComplete_of_power {s : State} (hp : s.start.pwrGood = true) (e : Nat) : ∃ t, execHoldUpBoostComplete e s = .next t ∧
    t.pm = { s.pm with charged := true, energy := min e 65535, degraded := decide (min e 65535 < 600) } ∧ t.start = s.start := by
  rw [execHoldUpBoostComplete, if_neg (by simp [hp])]
  refine ⟨_, rfl, ?_, ?_⟩
  · split
    · exact State.logAs_pm ..
    · rfl
  · split
    · exact State.logAs_start ..
    · rfl

/-- Settles O51 (a module reset keeps tier 2: log entry 45; the cause and the hold after a seal: log entries 42 and 44): one equation for
each event, by what it meets. -/
theorem powerEvents : Obligations.PowerEvents := by
  refine ⟨fun s hp hs => ?_, fun s r hp hs => ?_, fun s r hs => ?_, fun s straps haux => ?_, fun s hp => ?_,
    fun s i v hp hh hi hf hv => ?_, fun s mv hp => ?_⟩
  · refine ⟨?_, ?_, ?_, fun armed => execReferenceLoss_of_running hp hs armed,
      fun link wing dir replays hl hw hd => execD2dLinkFault_of_running hp hs hl hw hd replays⟩
    · exact congrArg Host.Outcome.next (State.powerLoss_of_running hp hs .power)
    · exact congrArg Host.Outcome.next (State.powerLoss_of_running hp hs .power)
    · exact congrArg Host.Outcome.next (State.powerLoss_of_running hp hs .modEn)
  · exact ⟨_, congrArg Host.Outcome.next (State.powerLoss_of_sealing hp hs .power), rfl, rfl, rfl, rfl⟩
  · have htimely (ht : s.now < r.armed + 8000000) : exec .crumbSealComplete s = _ := execCrumbSealComplete_of_timely hs ht
    refine ⟨?_, fun ht => ?_, fun ht => ⟨s.writeCrumbs r.cause r.armed (s.log.sealed r.armed), htimely ht, rfl, State.writeCrumbs_start ..⟩,
      fun hr ht => ⟨_, htimely ht, ?_⟩⟩
    · change execCrumbSealTimeout s = _
      exact execCrumbSealTimeout_of_sealing hs
    · change execCrumbSealComplete s = execCrumbSealTimeout s
      exact execCrumbSealComplete_of_late hs ht
    · rw [State.afterSeal_of_hold hr]
      refine ⟨rfl, rfl, rfl, rfl, ?_, ?_⟩
      · exact congrArg (fun t : StartSt => if t.hold = .none then ResetHold.power else t.hold) (State.writeCrumbs_start ..)
      · exact congrArg (List.filter _) (State.writeCrumbs_mem ..)
  · change execP3v3AuxRise straps s = _
    rw [execP3v3AuxRise, if_neg (by simp [haux])]
  · refine ⟨fun e => execHoldUpBoostComplete_of_power hp e, ?_⟩
    change execOnTimeTick s = _
    rw [execOnTimeTick, if_neg (by simp [hp])]
  · have hu := State.sample_of_plausible (s := s.advanceTo ((s.now / 1000000 + 1) * 1000000)) (i := i) (v := v) hf hv
    have hsensor := State.sensor_sample_of_plausible (s := s.advanceTo ((s.now / 1000000 + 1) * 1000000)) (i := i) (v := v) hf hv
    refine ⟨_, execSensorSample_of_plausible hp hh hi hf hv, ?_, (hsensor i).trans (if_pos rfl), fun j hj => (hsensor j).trans (if_neg hj)⟩
    rw [hu]
    exact s.advanceTo_next (by decide)
  · refine ⟨fun hlow hhigh => execInputSample_of_good hp hlow hhigh, fun a hlow ha ht => ?_⟩
    exact ⟨_, execInputSample_of_low hp hlow ha ht, s.advanceTo_next (by decide), rfl, rfl⟩

end Sys2Proof.Machine

/-! PROOFS. A frame that stage 2 reports can lose its quarantine again (R217, R219), which O50 leaves out. -/

namespace Sys2Proof.Machine

/-- Whether a frame is quarantined after a command. -/
def outQuarantined (f : Nat) : Out → Bool
  | .next t => (t.frameAt f).quar
  | _ => false

/-- A start at stage 2 with the hold-up store charged, while frame 1 moves to frame 2 for its retirement. -/
def movingAtStage2 : State :=
  { State.reset with
    start := { StartSt.reset with pwrGood := true, stage := 2 }
    pm := { PmSt.reset with charged := true, energy := 600 }
    mc := [(0, { McSt.reset with retPage := some 1, retDest := some 2 })] }

/-- Training reports both frames, the destination first. -/
def reportOfBoth : Stage2Rep := { trained := true, versions := List.replicate 32 [2], failed := [], frames := [2, 1] }

theorem movingAtStage2_quar (d : Nat) : (movingAtStage2.mcOf d).quar = [] := by
  by_cases hd : 0 = d
  · subst hd
    rfl
  · simp [State.mcOf, movingAtStage2, Sp.get, hd, McSt.reset]

/-- The move that stops gives its destination back, free of the quarantine that it had just got. -/
theorem outQuarantined_startStage2 : outQuarantined 2 (exec (.startStage2 reportOfBoth) movingAtStage2) = false := by decide +kernel

/-- Refutes O50: its clause on stage 2 says that every frame reported there is quarantined after it, while the quarantine of a frame that
moves stops the move, and the destination frame, quarantined just before, becomes free again. -/
theorem not_startRuns : ¬ Obligations.StartRuns := by
  rintro ⟨-, -, -, hstage2, -⟩
  obtain ⟨-, -, hpassed, -⟩ := hstage2 movingAtStage2 reportOfBoth (by decide) (by decide)
  obtain ⟨t, ht, -, -, -, hquar⟩ := hpassed rfl (by decide) rfl (fun d => by rw [movingAtStage2_quar]; decide) rfl (by decide)
  have h2 : (t.frameAt 2).quar = true := hquar 2 (by decide) (by decide) (by decide +kernel)
  have hout := outQuarantined_startStage2
  rw [ht] at hout
  exact absurd (h2.symm.trans hout) (by decide)

end Sys2Proof.Machine

/-! PROOFS. The firewall of the guest die (R260, R425 to R427). -/

namespace Sys2Proof.Machine

/-! ### Resets of the guest (R427) -/

theorem execGuestResetRelease_of_reset {s : State} (h : s.guest.phase = 1) : execGuestResetRelease s =
    .next { s with now := max s.now (s.guest.armed + 1000000),
                   guest := { s.guest with phase := 2, armed := max s.now (s.guest.armed + 1000000) } } := by
  rw [execGuestResetRelease, if_neg (not_not.2 h)]
  rfl

theorem execGuestReadyTimeout_of_waiting {s : State} (h : s.guest.phase = 2) : execGuestReadyTimeout s =
    .next ((s.expire 17 s.guest.armed 2000000000).guestReset 3) := by
  rw [execGuestReadyTimeout, if_neg (not_not.2 h)]
  rfl

theorem execGuestReady_of_late {s : State} (h : s.guest.phase = 2) (ht : s.guest.armed + 2000000000 ≤ s.now) :
    execGuestReady s = execGuestReadyTimeout s := by
  rw [execGuestReady, execGuestReadyTimeout, if_neg (not_not.2 h), if_neg (not_not.2 h), if_pos ht]

theorem execGuestReady_of_timely {s : State} (h : s.guest.phase = 2) (ht : s.now < s.guest.armed + 2000000000) :
    execGuestReady s = .next { s with guest := { s.guest with
      phase := 3, cmds := s.guest.cmds.map (fun (c : GCmd) => { c with armed := s.now, retried := true }) } } := by
  rw [execGuestReady, if_neg (not_not.2 h), if_neg (by omega)]

/-! ### Answers and timeouts of commands (R426) -/

section

variable {s : State} {tag : Nat} {c : GCmd}

theorem execGuestCommandTimeout_of_outstanding (hphase : s.guest.phase = 3) (hc : s.guest.cmds.find? (fun c => c.tag == tag) = some c) :
    execGuestCommandTimeout tag s = .next (s.guestLate c) := by
  simp only [execGuestCommandTimeout, hphase, hc]
  rfl

theorem execGuestMessage_of_late (hphase : s.guest.phase = 3) (hc : s.guest.cmds.find? (fun c => c.tag == tag) = some c)
    (ht : c.armed + c.kind.limit ≤ s.now) (m : GMsg) : execGuestMessage tag m s = .next (s.guestLate c) := by
  simp only [execGuestMessage, hphase, hc, if_pos ht]
  rfl

theorem execGuestMessage_of_timely (hphase : s.guest.phase = 3) (hc : s.guest.cmds.find? (fun c => c.tag == tag) = some c)
    (ht : s.now < c.armed + c.kind.limit) (m : GMsg) : execGuestMessage tag m s =
      .next (if c.kind.fits m then s.guestDeliver c m else (s.logFirewall 2).guestAgain c).settle.pumpRelease := by
  simp only [execGuestMessage, hphase, hc, if_neg (not_le.2 ht)]
  rfl

theorem execGuestMessage_of_stray (hphase : s.guest.phase = 3) (hc : s.guest.cmds.find? (fun c => c.tag == tag) = none) (m : GMsg) :
    execGuestMessage tag m s = .next s.guestStray := by
  simp only [execGuestMessage, hphase, hc]
  rfl

/-- A command sent again counts its time from now. -/
def State.resent (s : State) (c : GCmd) (now : Nat) : List GCmd :=
  s.guest.cmds.map (fun (x : GCmd) => if x.tag = c.tag then { x with armed := now, retried := true } else x)

theorem State.guestLate_of_first (hc : c.retried = false) : let t := s.guestLate c
    t.now = max s.now (c.armed + c.kind.limit) ∧ t.guest = { s.guest with cmds := s.resent c t.now } ∧ t.mem = s.mem := by
  have ht : s.guestLate c = ((s.expire 16 c.armed c.kind.limit).logFirewall 3).guestRetry c := by simp [State.guestLate, hc]
  have hguest : ((s.expire 16 c.armed c.kind.limit).logFirewall 3).guest = s.guest := (State.logAs_guest ..).trans (State.logAs_guest ..)
  dsimp only
  rw [ht]
  refine ⟨(State.logAs_now ..).trans (State.logAs_now ..), ?_, (State.logAs_mem ..).trans (State.logAs_mem ..)⟩
  simp only [State.guestRetry, hguest, State.resent]

theorem State.guestLate_of_retried (hc : c.retried = true) :
    s.guestLate c = ((s.expire 16 c.armed c.kind.limit).guestFail c).settle.pumpRelease.guestReset 3 := by
  simp [State.guestLate, hc]

theorem State.guestAgain_of_first (hc : c.retried = false) : let u := (s.logFirewall 2).guestAgain c
    u.guest = { s.guest with cmds := s.resent c s.now } ∧ u.mem = s.mem := by
  have hu : (s.logFirewall 2).guestAgain c = (s.logFirewall 2).guestRetry c := by simp [State.guestAgain, hc]
  have hguest : (s.logFirewall 2).guest = s.guest := State.logAs_guest ..
  have hnow : (s.logFirewall 2).now = s.now := State.logAs_now ..
  dsimp only
  rw [hu]
  refine ⟨?_, State.logAs_mem ..⟩
  simp only [State.guestRetry, hguest, hnow, State.resent]

end

/-! ### A T2_WRITE answered (R260) -/

theorem State.t2Free_guest (s : State) (key : Nat) : (s.t2Free key).guest = s.guest := by
  have hreport (t : State) (tn : Nat) : (t.reportQuota tn).guest = t.guest :=
    (congrArg State.guest (t.reportQuota_hostless tn) : (t.reportQuota tn).hostless.guest = t.hostless.guest)
  rw [State.t2Free, hreport, State.setT2_guest, State.updTenant_guest]
  exact State.unmapBig_keeps s _ _ (p := State.guest) (fun _ _ _ => rfl) _

/-- The tensor after the guest's answer to a T2_WRITE, before the command completes. -/
def State.writeAnswered (s : State) (tn : Nat) (e : Entry) (ok : Bool) : State :=
  let key := t2Key tn (entryField e 16 3)
  if ok then s.updT2 key (fun t => if t.state = .loading then
    { t with stored := markUnits true (entryField e 20 4) (entryField e 24 4) t.stored } else t)
  else if (s.t2At key).state = .loading then s.t2Free key else s

theorem State.t2Stored_eq (s : State) (tn : Nat) (e : Entry) (ok : Bool) : s.t2Stored tn e ok =
    (s.writeAnswered tn e ok).finish tn e (if ok then 0 else 1) (if ok then 0 else 8) [] := by
  cases ok <;> rfl

theorem State.writeAnswered_guest (s : State) (tn : Nat) (e : Entry) (ok : Bool) : (s.writeAnswered tn e ok).guest = s.guest := by
  unfold State.writeAnswered
  dsimp only
  split
  · rfl
  · split
    · exact s.t2Free_guest _
    · rfl

theorem State.writeAnswered_mem (s : State) (tn : Nat) (e : Entry) (ok : Bool) : (s.writeAnswered tn e ok).mem = s.mem := by
  unfold State.writeAnswered
  dsimp only
  split
  · rfl
  · split
    · exact s.t2Free_mem _
    · rfl

theorem State.writeAnswered_stored {s : State} {tn : Nat} {e : Entry} (h : (s.t2At (t2Key tn (entryField e 16 3))).state = .loading) :
    let t := (s.writeAnswered tn e true).t2At (t2Key tn (entryField e 16 3))
    t.state = .loading ∧ ∀ i, i < entryField e 24 4 → Sp.get false t.stored (entryField e 20 4 + i) = true := by
  have ht : (s.writeAnswered tn e true).t2At (t2Key tn (entryField e 16 3)) = { s.t2At (t2Key tn (entryField e 16 3)) with
      stored := markUnits true (entryField e 20 4) (entryField e 24 4) (s.t2At (t2Key tn (entryField e 16 3))).stored } := by
    rw [State.writeAnswered, if_pos rfl, State.updT2, State.t2At_setT2_same, if_pos h]
  dsimp only
  rw [ht]
  exact ⟨h, fun i hi => get_markUnits true _ hi⟩

theorem State.writeAnswered_freed {s : State} {tn : Nat} {e : Entry} (h : (s.t2At (t2Key tn (entryField e 16 3))).state = .loading) :
    (s.writeAnswered tn e false).t2At (t2Key tn (entryField e 16 3)) = T2Tensor.none := by
  rw [State.writeAnswered, if_neg (by decide), if_pos h, State.t2Free_t2At_same]

/-- Settles O49 (that commands sent again at the ready message count as retried is log entry 49): each message and timeout by what it
answers and when it comes. -/
theorem guestFirewall : Obligations.GuestFirewall := by
  refine ⟨fun s h => execGuestResetRelease_of_reset h, fun s h => ⟨fun ht => execGuestReady_of_timely h ht,
    fun ht => execGuestReady_of_late h ht, execGuestReadyTimeout_of_waiting h⟩, fun s tag c hphase hc => ?_, fun s tag m hphase hc => ?_⟩
  · have htimeout : exec (.guestCommandTimeout tag) s = .next (s.guestLate c) := execGuestCommandTimeout_of_outstanding hphase hc
    refine ⟨fun hr => ⟨_, htimeout, State.guestLate_of_first hr⟩, fun hr => htimeout.trans (by rw [State.guestLate_of_retried hr]),
      fun ht m => (execGuestMessage_of_late hphase hc ht m).trans htimeout.symm, fun ht => ?_⟩
    have hmessage (m : GMsg) : exec (.guestMessage tag m) s = _ := execGuestMessage_of_timely hphase hc ht m
    refine ⟨fun m hm => (hmessage m).trans (by rw [if_pos hm]), fun m hm hr => ?_, fun m hm hr => ?_, fun tn e ok hk => ?_⟩
    · refine ⟨_, (hmessage m).trans (by rw [if_neg (by simp [hm])]), State.guestAgain_of_first hr⟩
    · rw [hmessage m, if_neg (by simp [hm]), State.guestAgain, if_pos hr]
    · have hdeliver : s.guestDeliver c (.wrote ok) = (s.dropGCmd c.tag).t2Stored tn e ok := by simp only [State.guestDeliver, hk]
      refine ⟨(s.dropGCmd c.tag).writeAnswered tn e ok, ?_, ?_, ?_, fun hl => ⟨?_, ?_⟩⟩
      · rw [hmessage, if_pos (by rw [hk]; rfl), hdeliver, State.t2Stored_eq]
      · rw [State.writeAnswered_guest]
        rfl
      · exact State.writeAnswered_mem ..
      · rintro rfl
        exact State.writeAnswered_stored (s := s.dropGCmd c.tag) hl
      · rintro rfl
        exact State.writeAnswered_freed (s := s.dropGCmd c.tag) hl
  · exact execGuestMessage_of_stray hphase hc m

end Sys2Proof.Machine

/-! PROOFS. Membership by BEACON (R352 to R356): the lease, the isolation of a module, and what each message and deadline does to the
state of the group. -/
namespace Sys2Proof.Machine

/-! ### Draining every core, and isolation (R104, R354) -/

theorem State.drainCore_sameButCores (s : State) (n : Nat) : s.SameButCores (s.drainCore n) := by
  unfold State.drainCore
  dsimp only
  split <;> rfl

theorem State.drainCore_core_other (s : State) {m n : Nat} (h : n ≠ m) : (s.drainCore m).core n = s.core n := by
  unfold State.drainCore
  dsimp only
  split <;> exact State.core_setCore_other _ _ h

theorem State.drainCore_run_of_running {s : State} {n k : Nat} {f : Bool} (h : (s.core n).run = .running k f) :
    ((s.drainCore n).core n).run = .saving k f := by
  have hdrain : s.drainCore n = s.setCore n { (s.core n).interrupt k f with drainReq := true } := by
    simp only [State.drainCore, h]
  rw [hdrain, State.core_setCore_same]
  rfl

/-- What isolation changes of the group, the clock, memory and the contexts that run. -/
structure State.Isolates (s t : State) : Prop where
  gl : t.gl = { s.gl with isolated := true }
  now : t.now = s.now
  mem : t.mem = s.mem
  saving : ∀ n k f, n < 64 → (s.core n).run = .running k f → (t.core n).run = .saving k f

theorem State.isolate_isolates {s : State} (h : s.gl.isolated = false) : s.Isolates s.isolate := by
  let u := (s.updGl (fun g => { g with isolated := true })).logAs 7 0 0x0032 4 none [(4, s.gl.epoch.toNat), (3, s.self)]
  have hisolate : s.isolate = (List.range 64).foldl (fun (s : State) n => s.drainCore n) u := by
    rw [State.isolate, if_neg (by rw [h]; decide)]
  have hu : u.SameButCores s.isolate := by
    rw [hisolate]
    exact State.sameButCores_foldl State.drainCore_sameButCores _ _
  have hgl : s.isolate.gl = u.gl := by rw [hu]
  refine ⟨hgl.trans (State.logAs_gl ..), hu.now.trans (State.logAs_now ..), hu.mem.trans (State.logAs_mem ..), fun n k f hn hrun => ?_⟩
  obtain ⟨v, hcore, -, hdrained⟩ := State.foldl_core State.drainCore_sameButCores State.drainCore_core_other List.nodup_range
    (List.mem_range.mpr hn) u
  rw [hisolate, hdrained, State.drainCore_run_of_running]
  have hsame : u.core n = s.core n := congrArg (fun l => Sp.get CoreSt.reset l n) (State.logAs_cores ..)
  rw [hcore, hsame, hrun]

theorem State.popInbox_mem (s : State) (p : Nat) : (s.popInbox p).mem = s.mem := State.updPort_mem ..

theorem State.expire_gl (s : State) (row t d : Nat) : (s.expire row t d).gl = s.gl := State.logAs_gl ..

theorem State.expire_mem (s : State) (row t d : Nat) : (s.expire row t d).mem = s.mem := State.logAs_mem ..

theorem State.expire_core (s : State) (row t d n : Nat) : (s.expire row t d).core n = s.core n :=
  congrArg (fun l => Sp.get CoreSt.reset l n) (State.logAs_cores ..)

/-- A lease that runs out isolates the module at its end. -/
theorem State.leaseLost_of_held {s : State} (h : s.gl.isolated = false) : let t := s.leaseLost
    t.gl = { s.gl with isolated := true } ∧ t.now = max s.now (s.gl.lastBeacon + 1000000) ∧ t.mem = s.mem ∧
      (∀ n k f, n < 64 → (s.core n).run = .running k f → (t.core n).run = .saving k f) := by
  have hexp : (s.expire 10 s.gl.lastBeacon 1000000).gl.isolated = false := by rw [State.expire_gl, h]
  obtain ⟨hgl, hnow, hmem, hsaving⟩ := State.isolate_isolates hexp
  have hlost : s.leaseLost = (s.expire 10 s.gl.lastBeacon 1000000).isolate := by rw [State.leaseLost, if_neg (by rw [h]; decide)]
  rw [State.expire_gl] at hgl
  rw [State.expire_now] at hnow
  rw [State.expire_mem] at hmem
  simp only [State.expire_core] at hsaving
  dsimp only
  rw [hlost]
  exact ⟨hgl, hnow, hmem, hsaving⟩

/-! ### The commands -/

theorem execBeaconTick_of_leading {s : State} (hlead : s.isLeader = true) (hin : s.gl.isolated = false) :
    let t0 := (s.now / 100000 + 1) * 100000
    exec .beaconTick s = .next ((s.advanceTo t0).updGl (fun g =>
      { g with beacon := some t0, acked := true, counts := [], lastBeacon := t0 })).beaconDown.counted := by
  change execBeaconTick s = _
  rw [execBeaconTick, if_neg (by simp [hlead, hin])]

section
variable {s : State} {p : Nat} {m : LMsg} (hfront : s.front p 6 1 = some m)
include hfront

theorem execBeacon_of_viewless (hview : s.gl.view = []) :
    exec (.beacon p) s = .next ((s.popInbox p).updGl (fun g => { g with leader := m.node })).askJoin := by
  have hviewless : (s.popInbox p).gl.view = [] := hview
  change execBeacon p s = _
  rw [execBeacon, State.takeMsg_of_front hfront]
  rw [if_pos hviewless]

/-- The state a BEACON of the leader leaves, before it is sent on: `u` is the module with its lease as it stands then. -/
def State.renewed (u : State) : State :=
  u.updGl (fun g => { g with lastBeacon := u.now, beacon := some (u.now / 100000 * 100000), acked := false, counts := [] })

omit hfront in
theorem State.renewed_gl (u : State) : u.renewed.gl =
    { u.gl with lastBeacon := u.now, beacon := some (u.now / 100000 * 100000), acked := false, counts := [] } := rfl

omit hfront in
theorem State.renewed_mem (u : State) : u.renewed.mem = u.mem := State.updGl_mem ..

theorem execBeacon_of_member (hview : s.gl.view ≠ []) (habout : m.about = s.gl.epoch) (hnode : m.node = s.gl.leader)
    (hlead : s.isLeader = false) : exec (.beacon p) s =
      .next (if s.gl.lastBeacon + 1000000 ≤ s.now then (s.popInbox p).leaseLost else s.popInbox p).renewed.endIsolation.beaconDown.counted := by
  have hviews : ¬(s.popInbox p).gl.view = [] := hview
  have hmember : m.about = (s.popInbox p).gl.epoch ∧ m.node = (s.popInbox p).gl.leader ∧ (s.popInbox p).isLeader = false :=
    ⟨habout, hnode, hlead⟩
  change execBeacon p s = _
  rw [execBeacon, State.takeMsg_of_front hfront]
  rw [if_neg hviews, if_pos hmember]
  rfl

end

theorem execBeaconAck_of_child {s : State} {p : Nat} {m : LMsg} (hfront : s.front p 6 2 = some m) (habout : m.about = s.gl.epoch)
    (hchild : s.children.contains m.src = true) : exec (.beaconAck p) s =
      .next ((s.popInbox p).updGl (fun g => { g with counts := Sp.set 0 g.counts m.src m.count })).counted := by
  have hcount : m.about = (s.popInbox p).gl.epoch ∧ (s.popInbox p).children.contains m.src = true := ⟨habout, hchild⟩
  change execBeaconAck p s = _
  rw [execBeaconAck, State.takeMsg_of_front hfront]
  rw [State.takeCount, if_pos hcount]

theorem execBeaconAckDeadline_of_unacked {s : State} {a : Nat} (ha : s.gl.beacon = some a) (hack : s.gl.acked = false) :
    exec .beaconAckDeadline s = .next (s.advanceTo (a + 80000 - 3000 * depthOf s.dims s.gl.leader s.self)).ackUp := by
  change execBeaconAckDeadline s = _
  simp [execBeaconAckDeadline, ha, hack]

theorem execLeaseExpiry_of_member {s : State} (hview : s.gl.view ≠ []) (hlead : s.isLeader = false) :
    exec .leaseExpiry s = .next s.leaseLost := by
  change execLeaseExpiry s = _
  rw [execLeaseExpiry, if_neg (by simp [hview, hlead])]

theorem execLeaderLeaseExpiry_of_leading {s : State} (hlead : s.isLeader = true) (hin : s.gl.isolated = false) :
    exec .leaderLeaseExpiry s = .next (s.advanceTo (s.gl.lastMajority + 1000000)).isolate := by
  change execLeaderLeaseExpiry s = _
  rw [execLeaderLeaseExpiry, if_neg (by simp [hlead, hin])]

theorem execOutOfTime_of_off {s : State} {a : Nat} (ha : s.gl.offSince = some a) : exec .outOfTime s =
    .next ((((s.expire 15 a 1000000).updGl (fun g => { g with outOfTime := true, offSince := none })).logAs 7 0 0x0033 4 none
      [(4, toBits 32 (s.expire 15 a 1000000).gl.offset)]).moduleFault) := by
  change execOutOfTime s = _
  simp only [execOutOfTime, ha]
  rfl

/-- Settles O42: each message and deadline by the state it leaves before the BEACON, or the count, goes on through the tree. -/
theorem beacons : Obligations.Beacons := by
  refine ⟨fun s hlead hin => ?_, fun s p m hfront => ⟨fun hview => ?_, fun hview habout hnode hlead hlease => ?_,
    fun hview habout hnode hlead hin hlate => ?_⟩, fun s p m hfront habout hchild => ?_, fun s a => execBeaconAckDeadline_of_unacked,
    fun s hview hlead hin => ?_, fun s hlead hin => ?_, fun s a ha => ?_⟩
  · exact ⟨_, execBeaconTick_of_leading hlead hin, State.advanceTo_next s (by decide), rfl, rfl⟩
  · exact ⟨_, execBeacon_of_viewless hfront hview, rfl, (State.updGl_mem ..).trans (State.popInbox_mem ..)⟩
  · have hexec := execBeacon_of_member hfront hview habout hnode hlead
    by_cases hlate : s.gl.lastBeacon + 1000000 ≤ s.now
    · have hin : s.gl.isolated = true := hlease.resolve_right (by omega)
      have hlost : (s.popInbox p).leaseLost = s.popInbox p := if_pos hin
      rw [if_pos hlate, hlost] at hexec
      exact ⟨_, hexec, (State.renewed_mem _).trans (State.popInbox_mem ..), rfl⟩
    · rw [if_neg hlate] at hexec
      exact ⟨_, hexec, (State.renewed_mem _).trans (State.popInbox_mem ..), rfl⟩
  · have hexec := execBeacon_of_member hfront hview habout hnode hlead
    rw [if_pos hlate] at hexec
    obtain ⟨hgl, hnow, hmem, hsaving⟩ := State.leaseLost_of_held (s := s.popInbox p) hin
    have hnow : (s.popInbox p).leaseLost.now = s.now := hnow.trans (max_eq_left hlate)
    refine ⟨_, hexec, hmem, ?_, hsaving⟩
    rw [State.renewed_gl, hgl, hnow]
    rfl
  · exact ⟨_, execBeaconAck_of_child hfront habout hchild, rfl, (State.updGl_mem ..).trans (State.popInbox_mem ..)⟩
  · exact ⟨_, execLeaseExpiry_of_member hview hlead, State.leaseLost_of_held hin⟩
  · obtain ⟨hgl, hnow, hmem, hsaving⟩ := State.isolate_isolates (s := s.advanceTo (s.gl.lastMajority + 1000000)) hin
    exact ⟨_, execLeaderLeaseExpiry_of_leading hlead hin, hgl, hnow, hmem, hsaving⟩
  · refine ⟨_, execOutOfTime_of_off ha, (State.logAs_gl ..).trans ?_, (State.logAs_now ..).trans (State.expire_now ..),
      (State.logAs_mem ..).trans (State.expire_mem ..)⟩
    change { (s.expire 15 a 1000000).gl with outOfTime := true, offSince := none } = _
    rw [State.expire_gl]
end Sys2Proof.Machine

/-! PROOFS. Silence, death, succession and joining (R355 to R357): what each message and deadline notes before the next view is
proposed. -/
namespace Sys2Proof.Machine

theorem execSuspect_of_new {s : State} {p : Nat} {m : LMsg} (hfront : s.front p 6 3 = some m) (hlead : s.isLeader = true)
    (hnew : s.gl.suspects.any (fun x => x.1 == m.node && x.2.1 == m.src) = false) : exec (.suspect p) s =
      .next ((s.popInbox p).updGl (fun g => { g with suspects := g.suspects ++ [(m.node, m.src, s.now - 200000)] })) := by
  have hu : (s.popInbox p).isLeader = true := hlead
  have hnewu : ¬(s.popInbox p).gl.suspects.any (fun x => x.1 == m.node && x.2.1 == m.src) = true := ne_true_of_eq_false hnew
  change execSuspect p s = _
  rw [execSuspect, State.takeMsg_of_front hfront]
  rw [if_pos hu, State.suspect, if_neg hnewu]
  rfl

theorem execLeave_of_member {s : State} {p : Nat} {m : LMsg} (hfront : s.front p 6 8 = some m) (hlead : s.isLeader = true)
    (hmember : isMember s.gl.view m.src = true) (halive : s.gl.dead.contains m.src = false) : exec (.leave p) s =
      .next ((s.popInbox p).updGl (fun g => { g with dead := g.dead ++ [m.src] })).proposeNext := by
  have hu : (s.popInbox p).isLeader = true ∧ isMember (s.popInbox p).gl.view m.src = true := ⟨hlead, hmember⟩
  have hdead : (s.popInbox p).gl.dead.contains m.src = false := halive
  change execLeave p s = _
  rw [execLeave, State.takeMsg_of_front hfront]
  rw [if_pos hu, State.updGl, State.updGl, hdead]
  rfl

theorem execJoin_of_new {s : State} {p : Nat} {m : LMsg} (hfront : s.front p 6 7 = some m) (hlead : s.isLeader = true)
    (hmember : isMember s.gl.view m.src = false) (hnew : s.gl.joiners.contains m.src = false) : exec (.join p) s =
      .next ((s.popInbox p).updGl (fun g => { g with joiners := g.joiners ++ [m.src] })) := by
  have hu : (s.popInbox p).isLeader = true ∧ isMember (s.popInbox p).gl.view m.src = false ∧
      (s.popInbox p).gl.joiners.contains m.src = false := ⟨hlead, hmember, hnew⟩
  change execJoin p s = _
  rw [execJoin, State.takeMsg_of_front hfront]
  rw [if_pos hu]

theorem execDeclaration_of_silent {s : State} {node : Nat} (hlead : s.isLeader = true)
    (hby : (neighbours s.dims node).filter (isMember s.gl.view) ≠ [])
    (hreps : ∀ n ∈ (neighbours s.dims node).filter (isMember s.gl.view),
      ∃ x ∈ s.gl.suspects.filter (fun x => x.1 == node), x.2.1 = n)
    (halive : s.gl.dead.contains node = false) (hmember : isMember s.gl.view node = true) : exec (.declaration node) s =
      .next ((s.expire 11 (((s.gl.suspects.filter (fun x => x.1 == node)).map (fun x => x.2.2)).foldl max 0) 2000000).updGl
        (fun g => { g with dead := g.dead ++ [node] })).proposeNext := by
  have hall : ((neighbours s.dims node).filter (isMember s.gl.view)).all
      (fun n => (s.gl.suspects.filter (fun x => x.1 == node)).any (fun x => x.2.1 == n)) = true :=
    List.all_eq_true.mpr fun n hn => by
      obtain ⟨x, hx, rfl⟩ := hreps n hn
      exact List.any_eq_true.mpr ⟨x, hx, beq_self_eq_true _⟩
  change execDeclaration node s = _
  rw [execDeclaration]
  rw [if_pos ⟨hlead, hby, hall, halive, hmember⟩]

theorem execSuccession_of_next {s : State} (hview : s.gl.view ≠ []) (hlead : s.isLeader = false) (hprop : s.gl.prop = none)
    (hin : s.gl.isolated = false)
    (hnext : (List.range s.gl.view.length).find? (fun i => stateIn s.gl.view i == 4 && i != s.gl.leader) = some s.self) :
    exec .succession s = .next ((s.expire 10 s.gl.lastBeacon 500000).propose (s.without [s.gl.leader])) := by
  change execSuccession s = _
  rw [execSuccession]
  rw [hnext, if_neg (by simp [hview, hlead, hprop, hin])]

theorem execJoinBatchInterval_of_joiners {s : State} (hlead : s.isLeader = true) (hjoin : s.gl.joiners ≠ []) (hprop : s.gl.prop = none)
    (hin : s.gl.isolated = false) : exec .joinBatchInterval s =
      .next ((s.advanceTo (s.gl.lastJoin + 10000000)).updGl
        (fun g => { g with lastJoin := max s.now (s.gl.lastJoin + 10000000) })).proposeNext := by
  change execJoinBatchInterval s = _
  rw [execJoinBatchInterval, if_pos ⟨hlead, hjoin, by rw [hprop]; rfl, hin⟩]
  rfl

/-- Settles O43: each message and deadline by what the leader, or its successor, then proposes. -/
theorem viewsChange : Obligations.ViewsChange := by
  refine ⟨fun s p m => ⟨execSuspect_of_new, execLeave_of_member, execJoin_of_new⟩,
    fun s node hlead hby hreps halive hmember => ?_, fun s => execSuccession_of_next, fun s hlead hjoin hprop hin => ?_⟩
  · refine ⟨_, execDeclaration_of_silent hlead hby hreps halive hmember, ?_, State.expire_now .., State.expire_mem ..⟩
    rw [State.updGl, State.expire_gl]
  · exact ⟨_, execJoinBatchInterval_of_joiners hlead hjoin hprop hin, rfl, rfl, rfl⟩

end Sys2Proof.Machine

/-! PROOFS. Epoch changes and fences (R358 to R362). What a message that is sent can change of the module is stated once
(`State.Sends`), then each message and deadline of a proposal has its equation. -/
namespace Sys2Proof.Machine

/-! ### What sending a message changes -/

/-- `t` is `s` after messages were sent: ports, log, flits on the links and the fallback routes used are all that may differ. -/
def State.Sends (s t : State) : Prop :=
  t = { s with ports := t.ports, log := t.log, linkOut := t.linkOut, gl := { s.gl with fallbacks := t.gl.fallbacks } }

theorem State.Sends.refl (s : State) : s.Sends s := rfl

theorem State.Sends.trans {s t u : State} (h : s.Sends t) (k : t.Sends u) : s.Sends u := by
  unfold State.Sends at h k ⊢
  rw [k, h]

section
variable {s t : State} (h : s.Sends t)
include h

theorem State.Sends.gl : t.gl = { s.gl with fallbacks := t.gl.fallbacks } := by
  unfold State.Sends at h
  exact congrArg State.gl h
theorem State.Sends.prop : t.gl.prop = s.gl.prop := by rw [h.gl]
theorem State.Sends.now : t.now = s.now := by rw [h]
theorem State.Sends.mem : t.mem = s.mem := by rw [h]
theorem State.Sends.image : t.image = s.image := by rw [h]
theorem State.Sends.self : t.self = s.self := by rw [State.self, State.self, h.image]
theorem State.Sends.dims : t.dims = s.dims := by rw [State.dims, State.dims, State.fabric, State.fabric, h.image]

end

theorem State.sends_foldl {α : Type} {f : State → α → State} (hf : ∀ (s : State) x, s.Sends (f s x)) (l : List α) (s : State) :
    s.Sends (l.foldl f s) := by
  induction l generalizing s with
  | nil => exact .refl s
  | cons x l ih => exact (hf s x).trans (ih _)

theorem State.updPort_sends (s : State) (p : Nat) (f : Port → Port) : s.Sends (s.updPort p f) := rfl

theorem State.sendFlit_sends (s : State) (p : Nat) (e : Egress) : s.Sends (s.sendFlit p e) := rfl

theorem State.pump_sends (s : State) (p fuel : Nat) : s.Sends (s.pump p fuel) := by
  induction fuel generalizing s with
  | zero => exact .refl s
  | succ fuel ih =>
    simp only [State.pump]
    split
    · exact .refl s
    · split
      · exact .refl s
      · exact (s.sendFlit_sends p _).trans (ih _)

theorem State.pumpAll_sends (s : State) : s.Sends s.pumpAll := State.sends_foldl (fun s p => s.pump_sends p 400) _ _

theorem State.enqueue_sends (s : State) (p : Nat) (m : LMsg) (from_ : Option (Nat × Nat)) : s.Sends (s.enqueue p m from_) :=
  (s.updPort_sends p _).trans (State.pump_sends _ p 400)

theorem State.logAs_sends (s : State) (c i e v : Nat) (t : Option Nat) (a : List (Nat × Nat)) : s.Sends (s.logAs c i e v t a) := by
  rw [State.logAs_eq]
  rfl

theorem State.tryPost_sends {s t : State} {m : LMsg} {from_ : Option (Nat × Nat)} (h : s.tryPost m from_ = some t) : s.Sends t := by
  unfold State.tryPost at h
  split at h
  · cases h
  · dsimp only at h
    split at h
    all_goals
      obtain rfl := Option.some.inj h
      refine State.Sends.trans ?_ (State.enqueue_sends _ _ m from_)
    · rw [State.logAs_eq]
      rfl
    · exact .refl s

theorem State.post_sends (s : State) (m : LMsg) (from_ : Option (Nat × Nat)) : s.Sends (s.post m from_) := by
  unfold State.post
  cases hpost : s.tryPost m from_ with
  | none => exact .refl s
  | some t => exact State.tryPost_sends hpost

theorem State.member_sends (s : State) (sub frag frags : Nat) (about : W32) (node count dst : Nat) (data : List Byte) :
    s.Sends (s.member sub frag frags about node count dst data) := by
  unfold State.member
  split
  · exact .refl s
  · exact s.post_sends _ none

theorem State.logFrame_sends (s : State) (p : Nat) (m : LMsg) (check : Nat) : s.Sends (s.logFrame p m check) := State.logAs_sends ..

theorem State.logFrame_port (s : State) (p : Nat) (m : LMsg) (check r : Nat) : (s.logFrame p m check).port r = s.port r :=
  congrArg (fun l => Sp.get Port.reset l r) (State.logAs_ports ..)

/-! ### One change at each of several ports -/

section
variable (f : Port → Port)

theorem State.foldl_updPort_sends (l : List Nat) (s : State) : s.Sends (l.foldl (fun (s : State) p => s.updPort p f) s) :=
  State.sends_foldl (fun s p => s.updPort_sends p f) l s

theorem State.foldl_updPort_gl (l : List Nat) (s : State) : (l.foldl (fun (s : State) p => s.updPort p f) s).gl = s.gl := by
  induction l generalizing s with
  | nil => rfl
  | cons p l ih => rw [List.foldl_cons, ih, State.updPort_gl]

theorem State.foldl_updPort_port_other {l : List Nat} {r : Nat} (hr : r ∉ l) (s : State) :
    (l.foldl (fun (s : State) p => s.updPort p f) s).port r = s.port r := by
  induction l generalizing s with
  | nil => rfl
  | cons p l ih =>
    rw [List.mem_cons, not_or] at hr
    rw [List.foldl_cons, ih hr.2, State.updPort, State.port_setPort_other _ _ hr.1]

theorem State.foldl_updPort_port {l : List Nat} (hl : l.Nodup) {r : Nat} (hr : r ∈ l) (s : State) :
    (l.foldl (fun (s : State) p => s.updPort p f) s).port r = f (s.port r) := by
  induction l generalizing s with
  | nil => simp at hr
  | cons p l ih =>
    obtain ⟨hp, hl⟩ := List.nodup_cons.mp hl
    rw [List.foldl_cons]
    rcases eq_or_ne r p with rfl | hne
    · rw [State.foldl_updPort_port_other f hp, State.updPort, State.port_setPort_same]
    · rw [ih hl ((List.mem_cons.mp hr).resolve_left hne), State.updPort, State.port_setPort_other _ _ hne]

end

/-! ### Messages of a proposal (R358, R359) -/

section
variable {s : State} {p : Nat} {m : LMsg}

theorem State.dropStale_of_stale (h : ∀ pr, s.gl.prop = some pr → pr.view = [] ∧ pr.armed + 1000000 ≤ s.now) :
    s.dropStale = s.updGl (fun g => { g with prop := none }) := by
  cases hprop : s.gl.prop with
  | none =>
    simp only [State.dropStale, hprop]
    rw [State.updGl, ← hprop]
  | some pr =>
    simp only [State.dropStale, hprop]
    exact if_pos (h pr hprop)

theorem State.dropStale_of_fresh (h : ∀ pr, s.gl.prop = some pr → ¬(pr.view = [] ∧ pr.armed + 1000000 ≤ s.now)) : s.dropStale = s := by
  cases hprop : s.gl.prop with
  | none => simp only [State.dropStale, hprop]
  | some pr =>
    simp only [State.dropStale, hprop]
    exact if_neg (h pr hprop)

theorem execPropose_of_first (hfront : s.front p 6 4 = some m) (hepoch : s.gl.epoch.toNat < m.about.toNat) (hfrag : m.f 17 1 < m.f 18 1)
    (hstale : ∀ pr, s.gl.prop = some pr → pr.view = [] ∧ pr.armed + 1000000 ≤ s.now) :
    let pr := { newProposal m.about m.node s.now (m.f 18 1) [] with frags := Sp.set [] [] (m.f 17 1) m.data }
    let v := (s.popInbox p).updGl (fun g => { g with prop := some pr })
    exec (.propose p) s = .next (if pr.frags.length = pr.count then v.complete358 pr else v) := by
  have hdrop := State.dropStale_of_stale (s := s.popInbox p) hstale
  have hlater : ¬(m.about.toNat ≤ (s.popInbox p).gl.epoch.toNat ∨ m.f 18 1 = 0 ∨ m.f 18 1 ≤ m.f 17 1) := by
    change ¬(m.about.toNat ≤ s.gl.epoch.toNat ∨ _)
    omega
  change execPropose p s = _
  rw [execPropose, State.takeMsg_of_front hfront]
  dsimp only
  rw [hdrop, State.updGl]
  dsimp only
  rw [if_neg hlater]
  rfl

theorem execPropose_of_old (hfront : s.front p 6 4 = some m) (hepoch : m.about.toNat ≤ s.gl.epoch.toNat)
    (hfresh : ∀ pr, s.gl.prop = some pr → ¬(pr.view = [] ∧ pr.armed + 1000000 ≤ s.now)) :
    exec (.propose p) s = .next (s.popInbox p) := by
  have hdrop := State.dropStale_of_fresh (s := s.popInbox p) hfresh
  have hold : m.about.toNat ≤ (s.popInbox p).gl.epoch.toNat ∨ m.f 18 1 = 0 ∨ m.f 18 1 ≤ m.f 17 1 := Or.inl hepoch
  change execPropose p s = _
  rw [execPropose, State.takeMsg_of_front hfront]
  dsimp only
  rw [hdrop, if_pos hold]

variable {pr : Proposal} (hprop : s.gl.prop = some pr) (habout : m.about = pr.epoch)
include hprop habout

theorem execDrained_of_current (hfront : s.front p 6 5 = some m) (hview : pr.view ≠ []) : exec (.drained p) s =
    .next ((s.popInbox p).updGl (fun g => { g with prop := some { pr with counts := Sp.set 0 pr.counts m.src m.count } })).mayReport := by
  have hu : (s.popInbox p).gl.prop = some pr := hprop
  change execDrained p s = _
  rw [execDrained, State.takeMsg_of_front hfront, State.takeDrained]
  simp only [hu]
  rw [if_pos ⟨habout, hview⟩]

theorem execInstall_of_current (hfront : s.front p 6 6 = some m) (hview : pr.view ≠ []) :
    exec (.install p) s = .next ((s.popInbox p).install pr) := by
  have hu : (s.popInbox p).gl.prop = some pr := hprop
  change execInstall p s = _
  rw [execInstall, State.takeMsg_of_front hfront]
  simp only [hu]
  rw [if_pos ⟨habout, hview⟩]

theorem execDrainMiss_of_proposer (hfront : s.front p 6 9 = some m) (hself : pr.proposer = s.self) : exec (.drainMiss p) s =
    .next ((s.popInbox p).updGl (fun g => { g with prop := some { pr with misses := pr.misses ++ [m.node] } })) := by
  have hu : (s.popInbox p).gl.prop = some pr := hprop
  have hmine : pr.proposer = (s.popInbox p).self ∧ m.about = pr.epoch := ⟨hself, habout⟩
  change execDrainMiss p s = _
  rw [execDrainMiss, State.takeMsg_of_front hfront]
  simp only [hu]
  rw [if_pos hmine]

end

/-! ### Fences (R360) -/

/-- A port whose queue keeps the messages of class 2 alone. -/
def Port.fencedQueue (q : Port) : Port := { q with egress := q.egress.filter (fun e => e.vc / 2 == 2) }

/-- What stands of the module when its fence takes effect: its queues keep class 2 alone. -/
theorem State.fenced_eq {s : State} (h : s.sealRun = none) (epoch : W32) (leader : Nat) : ∃ v : State, v.gl = s.gl ∧ v.now = s.now ∧
    v.mem = s.mem ∧ (∀ r, r < 18 → v.port r = (s.port r).fencedQueue) ∧ s.fenced epoch leader =
      { v.updGl (fun g => { g with mstate := 6 }) with stopped := true, sealRun := some ⟨1, v.now, some 3⟩ } := by
  let u := (List.range 18).foldl (fun (s : State) p => s.updPort p Port.fencedQueue) s
  have hu : s.Sends u := State.foldl_updPort_sends Port.fencedQueue _ s
  refine ⟨u.logAs 7 0 0x0031 4 none [(4, epoch.toNat), (3, leader)], (State.logAs_gl ..).trans ?_, (State.logAs_now ..).trans hu.now,
    (State.logAs_mem ..).trans hu.mem, fun r hr => ?_, ?_⟩
  · exact State.foldl_updPort_gl Port.fencedQueue _ s
  · exact (congrArg (fun l => Sp.get Port.reset l r) (State.logAs_ports ..)).trans
      (State.foldl_updPort_port Port.fencedQueue List.nodup_range (List.mem_range.mpr hr) s)
  · rw [State.fenced, h]
    rfl

/-- A fence leaves the ports of the module with the messages of class 2 alone, and the seal begins. -/
theorem State.fenced_of_open {s : State} (h : s.sealRun = none) (epoch : W32) (leader : Nat) : let t := s.fenced epoch leader
    t.stopped = true ∧ t.gl = { s.gl with mstate := 6 } ∧ t.sealRun = some ⟨1, s.now, some 3⟩ ∧ t.mem = s.mem ∧
      ∀ r e, r < 18 → e ∈ (t.port r).egress → e.vc / 2 = 2 := by
  obtain ⟨v, hgl, hnow, hmem, hports, hfenced⟩ := State.fenced_eq h epoch leader
  rw [hfenced]
  refine ⟨rfl, by rw [← hgl]; rfl, by rw [hnow], hmem, fun r e hr he => ?_⟩
  have hqueue : e ∈ (v.port r).egress := he
  rw [hports r hr] at hqueue
  simpa using (List.mem_filter.mp hqueue).2

theorem execFenceNotice_of_later {s : State} {p : Nat} {m : LMsg} (hfront : s.front p 8 0 = some m)
    (hepoch : s.gl.epoch.toNat < (BitVec.ofNat 32 (m.f 16 4)).toNat) :
    exec (.fenceNotice p) s = .next ((s.popInbox p).fenced (BitVec.ofNat 32 (m.f 16 4)) (m.f 20 3 % 2 ^ 18)) := by
  have hu : (s.popInbox p).gl.epoch.toNat < (BitVec.ofNat 32 (m.f 16 4)).toNat := hepoch
  change execFenceNotice p s = _
  rw [execFenceNotice, State.takeMsg_of_front hfront]
  dsimp only
  rw [if_pos hu]

/-! ### Deadlines of a proposal (R358, R359, R361) -/

section
variable {s : State} {pr : Proposal} (hprop : s.gl.prop = some pr)
include hprop

theorem execFragmentTimeout_of_open (hview : pr.view = []) : exec .fragmentTimeout s =
    .next ((s.advanceTo (pr.armed + 1000000)).updGl (fun g => { g with prop := none })) := by
  change execFragmentTimeout s = _
  simp only [execFragmentTimeout, hprop]
  rw [if_pos hview]

theorem State.ownDrain_of_sent (hview : pr.view ≠ []) (hdrained : pr.drained = false) (houts : s.gl.outs = []) :
    s.ownDrain false = (s.updGl (fun g => { g with prop := some { pr with drained := true } })).mayReport := by
  rw [State.ownDrain]
  simp only [hprop, houts]
  rw [if_neg (by simp [hview, hdrained]), List.filter_nil, List.foldl_nil, if_pos houts, State.updGl, hprop]
  rfl

theorem State.ownDrain_of_drained (hdrained : pr.drained = true) (all : Bool) : s.ownDrain all = s := by
  rw [State.ownDrain]
  simp only [hprop]
  exact if_pos (Or.inr hdrained)

theorem execDrainMessageTimeout_of_undrained (hview : pr.view ≠ []) (hdrained : pr.drained = false) :
    exec .drainMessageTimeout s = .next ((s.expire 12 pr.armed 1000000).ownDrain true) := by
  change execDrainMessageTimeout s = _
  simp only [execDrainMessageTimeout, hprop]
  rw [if_neg (by simp [hview, hdrained])]

/-- What a member does about a child `c` of the proposal that did not report: the proposer notes it, another module names it. -/
def State.missChild (pr : Proposal) (s : State) (c : Nat) : State :=
  if pr.proposer = s.self then s.updGl (fun g => { g with prop := g.prop.map (fun (p : Proposal) => { p with misses := p.misses ++ [c] }) })
  else s.member 9 0 0 pr.epoch c 0 pr.proposer []

omit hprop in
theorem State.foldl_missChild_of_proposer (l : List Nat) {s : State} {own : Proposal} (hown : s.gl.prop = some own)
    (hself : pr.proposer = s.self) :
    l.foldl (State.missChild pr) s = s.updGl (fun g => { g with prop := some { own with misses := own.misses ++ l } }) := by
  induction l generalizing s own with
  | nil => rw [List.foldl_nil, List.append_nil, State.updGl, ← hown]
  | cons c l ih =>
    have hmiss : State.missChild pr s c = s.updGl (fun g => { g with prop := some { own with misses := own.misses ++ [c] } }) := by
      rw [State.missChild, if_pos hself, State.updGl, hown]
      rfl
    rw [List.foldl_cons, hmiss, ih (s := s.updGl (fun g => { g with prop := some { own with misses := own.misses ++ [c] } }))
      (own := { own with misses := own.misses ++ [c] }) rfl hself, List.append_assoc]
    rfl

omit hprop in
theorem State.foldl_missChild_of_other (l : List Nat) {s : State} (hself : pr.proposer ≠ s.self) :
    s.Sends (l.foldl (State.missChild pr) s) := by
  induction l generalizing s with
  | nil => exact .refl s
  | cons c l ih =>
    have hmiss : s.Sends (State.missChild pr s c) := by
      rw [State.missChild, if_neg hself]
      exact State.member_sends ..
    exact hmiss.trans (ih (by rwa [hmiss.self]))

theorem execDrainedDeadline_of_unreported (hview : pr.view ≠ []) (hdrained : pr.drained = true) (hrep : pr.reported = false) :
    exec .drainedDeadline s = .next (((s.propChildren pr).filter (fun c => !(pr.counts.any (fun x => x.1 == c)))).foldl (State.missChild pr)
      (s.advanceTo (pr.armed + 1900000 - 30000 * depthOf s.dims (State.propRoot pr) s.self))).report := by
  have hu := State.ownDrain_of_drained (s := s.advanceTo (pr.armed + 1900000 - 30000 * depthOf s.dims (State.propRoot pr) s.self))
    hprop hdrained true
  change execDrainedDeadline s = _
  simp only [execDrainedDeadline, hprop]
  rw [if_neg (by simp [hview, hrep]), hu]
  simp only [State.advanceTo_gl, hprop]
  rw [if_neg (by simp [hrep])]
  rfl

/-- A proposal given up: its children that did not report are noted as dead. -/
def State.dropProp (s : State) (pr : Proposal) : State :=
  s.updGl (fun g => { g with prop := none, dead := g.dead ++ pr.misses.filter (fun x => !g.dead.contains x) })

omit hprop in
theorem State.dropProp_gl (s : State) (pr : Proposal) (row t d : Nat) : ((s.expire row t d).dropProp pr).gl =
    { s.gl with prop := none, dead := s.gl.dead ++ pr.misses.filter (fun x => !s.gl.dead.contains x) } := by
  rw [State.dropProp, State.updGl, State.expire_gl]

omit hprop in
theorem State.dropProp_now (s : State) (pr : Proposal) (row t d : Nat) : ((s.expire row t d).dropProp pr).now = max s.now (t + d) :=
  (State.updGl_now ..).trans (State.expire_now ..)

omit hprop in
theorem State.dropProp_majority (s : State) (pr : Proposal) (row t d n : Nat) :
    ((s.expire row t d).dropProp pr).majority n = s.majority n := by
  unfold State.majority
  rw [State.dropProp_gl]

theorem execProposalTimeout_of_proposer (hself : pr.proposer = s.self) (hview : pr.view ≠ []) : exec .proposalTimeout s =
    let v := (s.expire 13 pr.armed 2000000).dropProp pr
    if v.majority (b2n pr.drained + countSum pr.counts) then
      .next (v.propose ((List.range pr.view.length).map (fun i => if pr.misses.contains i then 0 else pr.view.getD i 0)))
    else .next (v.updGl (fun g => { g with stopInject := false })).isolate := by
  change execProposalTimeout s = _
  simp only [execProposalTimeout, hprop]
  rw [if_neg (by simp [hself, hview])]
  rfl

end

theorem execHeldFrameTimeout_of_held {s : State} {p : Nat} (h : (List.range 18).find? (fun r => (s.port r).heldMsgs != []) = some p) :
    exec .heldFrameTimeout s = .next ((s.port p).heldMsgs.foldl (fun (s : State) m => s.logFrame p m 8)
      ((s.expire 14 (s.port p).heldAt 2000000).setPort p { s.port p with heldMsgs := [] })) := by
  change execHeldFrameTimeout s = _
  simp only [execHeldFrameTimeout, h]

theorem State.foldl_logFrame_port (l : List LMsg) (s : State) (p r check : Nat) :
    (l.foldl (fun (s : State) m => s.logFrame p m check) s).port r = s.port r := by
  induction l generalizing s with
  | nil => rfl
  | cons m l ih => rw [List.foldl_cons, ih, State.logFrame_port]

/-- Settles O44 (that the proposer is the node field of PROPOSE is log entry 39, deduced): each message and deadline of an epoch change by
what it does to the proposal. -/
theorem epochsChange : Obligations.EpochsChange := by
  refine ⟨fun s p m => ⟨execPropose_of_first, execPropose_of_old, fun pr hfront hprop habout => execDrained_of_current hprop habout hfront,
    fun pr hfront hprop habout => execInstall_of_current hprop habout hfront,
    fun pr hfront hprop hself habout => execDrainMiss_of_proposer hprop habout hfront hself, fun hfront hepoch hseal => ?_⟩,
    fun s pr hprop => ⟨fun hview => ?_, fun hview hdrained houts => ?_, execDrainMessageTimeout_of_undrained hprop,
      fun hview hdrained hrep => ?_, fun hself hview => ⟨fun hmaj => ?_, fun hmin => ?_⟩⟩, fun s p hheld => ?_⟩
  · obtain ⟨hstop, hgl, hrun, hmem, hports⟩ := State.fenced_of_open (s := s.popInbox p) hseal (BitVec.ofNat 32 (m.f 16 4))
      (m.f 20 3 % 2 ^ 18)
    exact ⟨_, execFenceNotice_of_later hfront hepoch, hstop, hgl, hrun, hmem.trans (State.popInbox_mem ..), hports⟩
  · exact ⟨_, execFragmentTimeout_of_open hprop hview, rfl, rfl, State.updGl_mem ..⟩
  · exact ⟨_, congrArg Host.Outcome.next (State.ownDrain_of_sent hprop hview hdrained houts), rfl, State.updGl_mem ..⟩
  · refine ⟨_, execDrainedDeadline_of_unreported hprop hview hdrained hrep, ?_⟩
    let u := s.advanceTo (pr.armed + 1900000 - 30000 * depthOf s.dims (State.propRoot pr) s.self)
    have hu : u.gl.prop = some pr := hprop
    by_cases hself : pr.proposer = s.self
    · rw [if_pos hself, State.foldl_missChild_of_proposer _ hu hself]
      exact ⟨rfl, rfl, State.updGl_mem ..⟩
    · have hsends := State.foldl_missChild_of_other ((s.propChildren pr).filter (fun c => !(pr.counts.any (fun x => x.1 == c))))
        (s := u) hself
      rw [if_neg hself]
      exact ⟨hsends.now, hsends.prop.trans hu, hsends.mem⟩
  · have hexec := execProposalTimeout_of_proposer hprop hself hview
    rw [if_pos ((State.dropProp_majority ..).trans hmaj)] at hexec
    exact ⟨_, hexec, State.dropProp_gl .., State.dropProp_now ..⟩
  · have hexec := execProposalTimeout_of_proposer hprop hself hview
    rw [if_neg (ne_true_of_eq_false ((State.dropProp_majority ..).trans hmin))] at hexec
    refine ⟨_, hexec, ?_, (State.updGl_now ..).trans (State.dropProp_now ..)⟩
    rw [State.updGl, State.dropProp_gl]
  · have hsends := State.sends_foldl (fun s m => s.logFrame_sends p m 8) (s.port p).heldMsgs
      ((s.expire 14 (s.port p).heldAt 2000000).setPort p { s.port p with heldMsgs := [] })
    refine ⟨_, execHeldFrameTimeout_of_held hheld, ?_, hsends.now.trans ((State.setPort_now ..).trans (State.expire_now ..)),
      hsends.mem.trans ((State.setPort_mem ..).trans (State.expire_mem ..))⟩
    rw [State.foldl_logFrame_port, State.port_setPort_same]

end Sys2Proof.Machine

/-! PROOFS. The training of a port, its retries, fast retrains and silence (R327 to R330, R341, R348, R355): what each step, limit and
event leaves of its port. -/
namespace Sys2Proof.Machine

/-! ### Ports after a report, and after a failed step -/

theorem State.port_of_ports {s t : State} (h : t.ports = s.ports) (r : Nat) : t.port r = s.port r :=
  congrArg (fun l => Sp.get Port.reset l r) h

theorem State.logPort_port (s : State) (p r : Nat) : (s.logPort p).port r = s.port r := State.port_of_ports (State.logAs_ports ..) r

theorem State.logPort_now (s : State) (p : Nat) : (s.logPort p).now = s.now := State.logAs_now ..

theorem State.logPort_mem (s : State) (p : Nat) : (s.logPort p).mem = s.mem := State.logAs_mem ..

theorem State.expire_port (s : State) (row t d r : Nat) : (s.expire row t d).port r = s.port r :=
  State.port_of_ports (State.logAs_ports ..) r

theorem State.expire_image (s : State) (row t d : Nat) : (s.expire row t d).image = s.image := State.logAs_image ..

theorem State.port_updPort_same (s : State) (p : Nat) (f : Port → Port) : (s.updPort p f).port p = f (s.port p) :=
  State.port_setPort_same ..

theorem State.trainFail_port (s : State) (p reason : Nat) : (s.trainFail p reason).port p =
    { s.port p with state := 1, reason := reason, step := 0, retryAt := some (s.now + 1000000000) } := by
  rw [State.trainFail, State.logPort_port, State.port_updPort_same]

theorem State.trainFail_now (s : State) (p reason : Nat) : (s.trainFail p reason).now = s.now := State.logPort_now ..

/-- A step that takes its limit leaves the port in beacon mode, to be tried again 1 s later. -/
theorem State.stepExpired_port (s : State) (p : Nat) : (s.stepExpired p).port p = { s.port p with
    state := 1, reason := if (s.port p).step = 1 then 1 else 0, step := 0, retryAt := some ((s.stepExpired p).now + 1000000000) } := by
  rw [State.stepExpired, State.trainFail_port, State.trainFail_now, State.expire_port]

theorem State.stepExpired_now (s : State) (p : Nat) :
    (s.stepExpired p).now = max s.now ((s.port p).armed + stepLimit (s.port p).step) :=
  (State.trainFail_now ..).trans (State.expire_now ..)

/-! ### Beacon mode (R327) -/

theorem beaconLaneOf_of_lowest {ls : List Nat} {l : Nat} (hl : l < 9) (hin : ls.contains l = true)
    (hlow : ∀ j, j < l → ls.contains j = false) : beaconLaneOf ls = some l := by
  rw [beaconLaneOf, List.head?_filter, List.find?_range_eq_some]
  exact ⟨hin, List.mem_range.mpr hl, fun j hj => by simpa using hlow j hj⟩

theorem beaconLaneOf_of_silent {ls : List Nat} (h : ∀ j, j < 9 → ls.contains j = false) : beaconLaneOf ls = none := by
  rw [beaconLaneOf, List.head?_filter, List.find?_eq_none]
  intro j hj
  simpa using h j (List.mem_range.mp hj)

section
variable {s : State} {p : Nat} (hpwr : s.start.pwrGood = true) (hp : p < 18)
include hpwr hp

theorem execPortTraining_of_signal (hstate : (s.port p).state = 0) (hreason : (s.port p).reason = 0) (ls : List Nat) :
    exec (.portTraining p (.signal ls)) s = .next (match beaconLaneOf ls with
      | none => s.setPort p { s.port p with reason := 1 }
      | some l => (s.setPort p { s.port p with
          state := 1, reason := 0, beaconLane := l, retryAt := if s.start.stage = 4 then some (s.now + 1000000000) else none }).logPort
            p) := by
  change execPortTraining p _ s = _
  unfold execPortTraining
  dsimp only
  rw [if_neg (by simp [hpwr]; omega), hstate, hreason]
  refine (if_neg (by decide)).trans ?_
  cases beaconLaneOf ls with
  | none => exact if_pos rfl
  | some l => exact (if_neg (by simp)).trans (if_neg (by simp))

/-! ### Steps of training (R328) -/

theorem execPortTraining_of_training (hstate : (s.port p).state = 2) (ev : TrainEv) : exec (.portTraining p ev) s =
    if (s.port p).step ≠ 0 ∧ (s.port p).retrain.isNone = true ∧ (s.port p).armed + stepLimit (s.port p).step ≤ s.now then
      .next (s.stepExpired p)
    else .next (s.trainStep p ev) := by
  change execPortTraining p _ s = _
  unfold execPortTraining
  dsimp only
  rw [if_neg (by simp [hpwr]; omega), hstate]
  rfl

theorem execPortTraining_of_timely (hstate : (s.port p).state = 2)
    (htime : (s.port p).retrain.isSome = true ∨ s.now < (s.port p).armed + stepLimit (s.port p).step) (ev : TrainEv) :
    exec (.portTraining p ev) s = .next (s.trainStep p ev) := by
  rw [execPortTraining_of_training hpwr hp hstate, if_neg]
  rintro ⟨-, hnone, hlate⟩
  rcases htime with hsome | htime
  · rw [Option.isNone_iff_eq_none.mp hnone] at hsome
    cases hsome
  · omega

end

theorem execTrainingStepTimeout_of_training {s : State} {p : Nat} (hstate : (s.port p).state = 2) (hstep : (s.port p).step ≠ 0) :
    exec (.trainingStepTimeout p) s = .next (s.stepExpired p) := by
  change execTrainingStepTimeout p s = _
  rw [execTrainingStepTimeout]
  exact if_pos ⟨hstate, hstep⟩

section
variable {s : State} {p : Nat}

theorem State.trainStep_of_allLanes (hstep : (s.port p).step = 1) {ls : List Nat} (hall : ∀ j, j < 9 → ls.contains j = true) :
    s.trainStep p (.signal ls) = s.setPort p { s.port p with step := 2, armed := s.now } := by
  unfold State.trainStep
  dsimp only
  rw [hstep]
  exact if_pos (List.all_eq_true.mpr fun j hj => hall j (List.mem_range.mp hj))

theorem State.trainStep_of_missingLane (hstep : (s.port p).step = 1) {ls : List Nat} {j : Nat} (hj : j < 9) (hno : ls.contains j = false) :
    s.trainStep p (.signal ls) = s.trainFail p 1 := by
  unfold State.trainStep
  dsimp only
  rw [hstep]
  refine if_neg fun hall => ?_
  rw [List.all_eq_true.mp hall j (List.mem_range.mpr hj)] at hno
  cases hno

theorem State.trainStep_of_equalised (hstep : (s.port p).step = 2) :
    s.trainStep p (.equalised []) = s.setPort p { s.port p with spare := 15, step := 3, armed := s.now } := by
  unfold State.trainStep
  dsimp only
  rw [hstep]
  rfl

theorem State.trainStep_of_spared (hstep : (s.port p).step = 2) (l : Nat) :
    s.trainStep p (.equalised [l]) = s.setPort p { s.port p with spare := l, step := 3, armed := s.now } := by
  unfold State.trainStep
  dsimp only
  rw [hstep]
  rfl

theorem State.trainStep_of_margins (hstep : (s.port p).step = 3) (eyes : List Nat) :
    let sp := if (s.port p).spare = 15 then worstLane eyes else (s.port p).spare
    s.trainStep p (.margins eyes) =
      s.setPort p { s.port p with spare := sp, lanes := (List.range 9).filter (· != sp), step := 4, armed := s.now } := by
  unfold State.trainStep
  dsimp only
  rw [hstep]
  rfl

theorem State.trainStep_of_order (hstep : (s.port p).step = 4) {ls : List Nat} (hlen : ls.length = 8)
    (hall : ls.all (fun l => (s.port p).lanes.contains l) = true) (hdup : ls.eraseDups = ls) :
    s.trainStep p (.order ls) = s.setPort p { s.port p with lanes := ls, step := 5, armed := s.now } := by
  unfold State.trainStep
  dsimp only
  rw [hstep]
  exact if_pos ⟨hlen, hall, hdup⟩

theorem State.trainStep_of_locked (hstep : (s.port p).step = 5) (hretrain : (s.port p).retrain = none) :
    s.trainStep p (.locked true) = s.setPort p { s.port p with step := 6, armed := s.now } := by
  unfold State.trainStep
  dsimp only
  rw [hstep]
  have hfirst : ¬(s.port p).retrain.isSome = true := by simp [hretrain]
  exact if_neg hfirst

theorem State.trainStep_of_record (hstep : (s.port p).step = 6) (digest : Nat) {mask : Nat} (hver : commonVersion mask s.gl.verMax ≠ 0) :
    (s.trainStep p (.record (s.peerOf p) (s.peerPortOf p) digest mask)).port p = { s.port p with
      peerNode := s.peerOf p, peerPort := s.peerPortOf p, version := commonVersion mask s.gl.verMax, mapOk := true,
      step := 7, armed := s.now, reason := if digest = s.fabric.digest then 0 else 5 } := by
  unfold State.trainStep
  dsimp only
  rw [hstep]
  refine (congrArg (State.port · p) ((if_neg (by simp)).trans (if_neg hver))).trans ?_
  rw [State.port_setPort_same, beq_self_eq_true, beq_self_eq_true]
  rfl

/-- What a link that comes up drops of the notes about it, at the ports of its trunk. -/
def State.dropNotes (p : Nat) (s : State) (r : Nat) : State :=
  s.updPort r (fun x => { x with notes := x.notes.filter (fun n => n.1 != p) })

theorem State.dropNotes_port_of_clean (p r : Nat) {s : State} {n : Nat} (h : (s.port n).notes = []) :
    (State.dropNotes p s r).port n = s.port n := by
  rcases eq_or_ne n r with rfl | hne
  · rw [State.dropNotes, State.port_updPort_same, h, List.filter_nil, ← h]
  · rw [State.dropNotes, State.updPort, State.port_setPort_other _ _ hne]

theorem State.foldl_dropNotes_port_of_clean (p : Nat) (l : List Nat) {s : State} {n : Nat} (h : (s.port n).notes = []) :
    (l.foldl (State.dropNotes p) s).port n = s.port n := by
  induction l generalizing s with
  | nil => rfl
  | cons r l ih =>
    have hr := State.dropNotes_port_of_clean p r h
    rw [List.foldl_cons, ih (by rw [hr, h]), hr]

/-- A port as it comes up (R333, R335). -/
def Port.up (q : Port) (now : Nat) : Port :=
  { q with state := 3, step := 0, retrain := none, txSeq := 1, sent := [], replays := 0, rxSeq := 0, nack := false, asm := [],
           credits := List.replicate 6 64, freed := List.replicate 6 0, lastRx := now,
           silent := false, notes := [], retryAt := none }

theorem State.trainStep_of_delays (hstep : (s.port p).step = 7) (a : Int) : ∃ u : State,
    s.trainStep p (.delays a) = u.pumpAll ∧ u.port p = Port.up { s.port p with asym := a } s.now := by
  let v := s.updPort p (fun q => { q with asym := a })
  let w := v.setPort p ((v.port p).up v.now)
  have hw : w.port p = Port.up { s.port p with asym := a } s.now := by rw [State.port_setPort_same, State.port_updPort_same]; rfl
  refine ⟨((w.trunkOf p).foldl (State.dropNotes p) w).logPort p, ?_, ?_⟩
  · unfold State.trainStep
    dsimp only
    rw [hstep]
    rfl
  · rw [State.logPort_port, State.foldl_dropNotes_port_of_clean p _ (by rw [hw]; rfl), hw]

end

/-! ### Retries, beacon mode and fast retrains (R328, R348) -/

section
variable {s : State} {p : Nat}

theorem execTrainingRetry_of_armed {a : Nat} (ha : (s.port p).retryAt = some a) (hstage : s.start.stage = 4) (hp : p < 18)
    (hused : (s.fabPort p).unused = false) (hdown : (s.port p).state ≠ 3) : exec (.trainingRetry p) s =
      .next ((s.advanceTo a).updPort p (fun q => { q with state := 2, reason := 0, step := 1, armed := max s.now a, retryAt := none })) := by
  have hbegin : (s.advanceTo a).beginTraining p =
      (s.advanceTo a).updPort p (fun q => { q with state := 2, reason := 0, step := 1, armed := max s.now a, retryAt := none }) :=
    (if_neg (ne_true_of_eq_false hused)).trans (if_neg hdown)
  change execTrainingRetry p s = _
  simp only [execTrainingRetry, ha]
  rw [if_pos ⟨hstage, hp⟩, hbegin]

theorem execBeaconModeTimeout_of_waiting (hpwr : s.start.pwrGood = true) (hstate : (s.port p).state = 0) (hreason : (s.port p).reason = 0)
    (hp : p < 18) : exec (.beaconModeTimeout p) s =
      .next (((s.expire 5 0 10000000).setPort p { s.port p with reason := 1 }).logPort p) := by
  change execBeaconModeTimeout p s = _
  rw [execBeaconModeTimeout]
  exact if_pos ⟨hpwr, hstate, hreason, hp⟩

theorem execFastRetrain_of_spared {lane : Nat} (hlane : (s.port p).lanes.contains lane = true) (hheld : (s.port p).held = false)
    (hstate : (s.port p).state = 3) (hretrain : (s.port p).retrain = none) (hspare : (s.port p).spare ≠ 15) :
    exec (.fastRetrain p lane) s = .next ((s.setPort p { s.port p with
      retrain := some s.now, step := 4, armed := s.now, replays := 0
      lanes := (s.port p).lanes.map (fun (x : Nat) => if x = lane then (s.port p).spare else x)
      retired := (s.port p).retired ++ [lane], spare := 15 }).logAs 6 p 0x0023 2 none [(1, p), (1, (s.port p).spare), (1, lane)]) := by
  change execFastRetrain p lane s = _
  rw [execFastRetrain, hlane, hheld]
  have hidle : ¬((s.port p).state ≠ 3 ∨ (s.port p).retrain.isSome = true) := by simp [hstate, hretrain]
  rw [Bool.not_false, Bool.and_self, if_pos rfl, State.fastRetrain]
  dsimp only
  rw [if_neg hidle, if_neg hspare]

section
variable {a : Nat} (ha : (s.port p).retrain = some a)
include ha

theorem execFastRetrainTimeout_of_retraining : exec (.fastRetrainTimeout p) s =
    if (s.port p).state = 2 then
      .next (((s.expire 8 a 20000).updPort p (fun q => { q with retrain := none })).trainFail p 1)
    else .next ((s.expire 8 a 20000).portDown p 1) := by
  change execFastRetrainTimeout p s = _
  simp only [execFastRetrainTimeout, ha]
  rw [State.expire_port]

end

/-! ### Silence (R355) -/

section
variable (hheld : (s.port p).held = false) (hsilent : (s.port p).silent = false) (hused : (s.fabPort p).unused = false)
include hheld hsilent hused

/-- A port marked as silent at the end of its 200 µs. -/
def State.markSilent (s : State) (p : Nat) : State :=
  (s.expire 9 (s.port p).lastRx 200000).setPort p { s.port p with silent := true }

omit hheld hsilent hused in
theorem State.markSilent_gl (s : State) (p : Nat) : (s.markSilent p).gl = s.gl := (State.setPort_gl ..).trans (State.expire_gl ..)

omit hheld hsilent hused in
theorem State.markSilent_image (s : State) (p : Nat) : (s.markSilent p).image = s.image :=
  (State.setPort_image ..).trans (State.expire_image ..)

omit hheld hsilent hused in
theorem State.markSilent_fabric (s : State) (p : Nat) : (s.markSilent p).fabric = s.fabric := by
  rw [State.fabric, State.fabric, State.markSilent_image]

omit hheld hsilent hused in
theorem State.markSilent_self (s : State) (p : Nat) : (s.markSilent p).self = s.self := by
  rw [State.self, State.self, State.markSilent_image]

omit hheld hsilent hused in
theorem State.markSilent_peerOf (s : State) (p r : Nat) : (s.markSilent p).peerOf r = s.peerOf r := by
  rw [State.peerOf, State.peerOf, State.fabPort, State.fabPort, State.markSilent_fabric]

omit hheld hsilent hused in
theorem State.markSilent_fabPort (s : State) (p r : Nat) : (s.markSilent p).fabPort r = s.fabPort r := by
  rw [State.fabPort, State.fabPort, State.markSilent_fabric]

theorem execLinkSilent_of_quiet : exec (.linkSilent p) s =
    let u := s.markSilent p
    let links := (List.range 18).filter (fun r => !(s.fabPort r).unused && s.peerOf r == s.peerOf p)
    if s.gl.view = [] ∨ !(links.all (fun r => (u.port r).silent)) then .next u
    else if s.isLeader then .next (u.suspect (s.peerOf p) s.self (s.port p).lastRx)
    else .next (u.member 3 0 0 s.gl.epoch (s.peerOf p) 0 s.gl.leader []) := by
  have hlead : (s.markSilent p).isLeader = s.isLeader := by
    rw [State.isLeader, State.isLeader, State.markSilent_gl, State.markSilent_self]
  change execLinkSilent p s = _
  rw [execLinkSilent]
  dsimp only
  rw [if_neg (by simp [hheld, hsilent, hused]), ← State.markSilent]
  simp only [State.markSilent_fabPort, State.markSilent_peerOf, State.markSilent_gl, State.markSilent_self, hlead]

theorem execLinkSilent_of_viewless (hview : s.gl.view = []) : exec (.linkSilent p) s = .next (s.markSilent p) := by
  rw [execLinkSilent_of_quiet hheld hsilent hused]
  exact if_pos (Or.inl hview)

theorem execLinkSilent_of_leading (hlead : s.isLeader = true)
    (hall : ((List.range 18).filter (fun r => !(s.fabPort r).unused && s.peerOf r == s.peerOf p)).all
      (fun r => ((s.markSilent p).port r).silent) = true)
    (hnew : s.gl.suspects.any (fun x => x.1 == s.peerOf p && x.2.1 == s.self) = false) : exec (.linkSilent p) s =
      .next ((s.markSilent p).updGl (fun g => { g with
        suspects := s.gl.suspects ++ [(s.peerOf p, s.self, (s.port p).lastRx)] })) := by
  have hview : s.gl.view ≠ [] := by
    intro hview
    rw [State.isLeader, hview] at hlead
    cases hlead
  rw [execLinkSilent_of_quiet hheld hsilent hused]
  dsimp only
  rw [hall, if_neg (by simp [hview]), if_pos hlead, State.suspect, State.markSilent_gl, hnew, State.updGl, State.updGl,
    State.markSilent_gl]
  rfl

end

end

/-- Settles O39 (the reasons of a step that fails or comes late are log entry 36, the lane that a fast retrain retires is entry 35, both
deduced): each report, limit and event of a port by the step it stands in. -/
theorem linkTraining : Obligations.LinkTraining := by
  refine ⟨fun s p hpwr hp => ⟨fun ls l hl hin hlow hstate hreason => ?_, fun ls hno hstate hreason => ?_,
    fun hstate hstep hretrain hlate ev => ?_, fun hstate htime => ?_⟩, fun s p hstate hstep => ?_,
    fun s p a ha hstage hp hused hdown => ?_, fun s p hpwr hstate hreason hp => ?_,
    fun s p lane hlane hheld hstate hretrain hspare => ?_, fun s p a ha => ⟨fun hstate => ?_, fun hstate => ?_⟩,
    fun s p hheld hsilent hused => ⟨execLinkSilent_of_viewless hheld hsilent hused, execLinkSilent_of_leading hheld hsilent hused⟩⟩
  · refine ⟨_, (execPortTraining_of_signal hpwr hp hstate hreason ls).trans (by rw [beaconLaneOf_of_lowest hl hin hlow]), ?_,
      (State.logPort_mem ..).trans (State.setPort_mem ..)⟩
    rw [State.logPort_port, State.port_setPort_same]
  · rw [execPortTraining_of_signal hpwr hp hstate hreason, beaconLaneOf_of_silent hno]
  · rw [execPortTraining_of_training hpwr hp hstate, if_pos ⟨hstep, by rw [hretrain]; rfl, hlate⟩,
      execTrainingStepTimeout_of_training hstate hstep]
  · have htrain (ev : TrainEv) := execPortTraining_of_timely hpwr hp hstate htime ev
    refine ⟨fun ls hstep hall => ?_, fun ls j hstep hj hno => ?_, fun hstep => ?_, fun l hstep => ?_, fun eyes hstep => ?_,
      fun ls hstep hlen hall hdup => ?_, fun hstep hretrain => ?_, fun digest mask hstep hver => ?_, fun a hstep => ?_⟩
    · rw [htrain, State.trainStep_of_allLanes hstep hall]
    · exact ⟨_, by rw [htrain, State.trainStep_of_missingLane hstep hj hno], State.trainFail_port ..⟩
    · rw [htrain, State.trainStep_of_equalised hstep]
    · rw [htrain, State.trainStep_of_spared hstep]
    · exact (htrain _).trans (congrArg Host.Outcome.next (State.trainStep_of_margins hstep eyes))
    · rw [htrain, State.trainStep_of_order hstep hlen hall hdup]
    · rw [htrain, State.trainStep_of_locked hstep hretrain]
    · exact ⟨_, htrain _, State.trainStep_of_record hstep digest hver⟩
    · obtain ⟨u, hu, hport⟩ := State.trainStep_of_delays (s := s) hstep a
      exact ⟨u, by rw [htrain, hu], hport⟩
  · exact ⟨_, execTrainingStepTimeout_of_training hstate hstep, State.stepExpired_now .., State.stepExpired_port ..⟩
  · refine ⟨_, execTrainingRetry_of_armed ha hstage hp hused hdown, rfl, ?_⟩
    rw [State.port_updPort_same]
    rfl
  · refine ⟨_, execBeaconModeTimeout_of_waiting hpwr hstate hreason hp, ?_, ?_⟩
    · rw [State.logPort_now, State.setPort_now, State.expire_now, Nat.zero_add]
    · rw [State.logPort_port, State.port_setPort_same]
  · refine ⟨_, execFastRetrain_of_spared hlane hheld hstate hretrain hspare, ?_⟩
    rw [State.port_of_ports (State.logAs_ports ..), State.port_setPort_same]
  · refine ⟨_, by rw [execFastRetrainTimeout_of_retraining ha, if_pos hstate], ?_, ?_⟩
    · rw [State.trainFail_now, State.updPort_now, State.expire_now]
    · rw [State.trainFail_port, State.trainFail_now, State.port_updPort_same, State.expire_port]
  · rw [execFastRetrainTimeout_of_retraining ha, if_neg hstate]

end Sys2Proof.Machine

/-! PROOFS. Flits received and flits acknowledged (R331 to R336): what the codeword and CRC of a flit decide, the message that a data flit
joins, what a control flit returns, and the replay of what is not acknowledged. -/
namespace Sys2Proof.Machine

/-! ### Several changes at one port -/

theorem State.setPort_setPort (s : State) (p : Nat) (q r : Port) : (s.setPort p q).setPort p r = s.setPort p r := by
  rw [State.setPort, State.setPort, Sp.set_set]
  rfl

theorem State.updPort_setPort (s : State) (p : Nat) (q : Port) (f : Port → Port) : (s.setPort p q).updPort p f = s.setPort p (f q) := by
  rw [State.updPort, State.port_setPort_same, State.setPort_setPort]

/-! ### The codeword and CRC of a flit (R331, R332) -/

/-- A port that keeps a flit of which `n` bytes were corrected. -/
def Port.kept (q : Port) (n now : Nat) : Port :=
  { q with fecc := q.fecc + BitVec.ofNat 64 (min n 8), lastRx := now, silent := false }

/-- A port that drops a flit whose CRC is wrong. -/
def Port.dropped (q : Port) (n : Nat) : Port :=
  { q with fecc := q.fecc + BitVec.ofNat 64 (min n 8), crcs := satAdd32 q.crcs 1 }

section
variable {s : State} {p n : Nat} {bytes : List Byte}

theorem State.flitChecks_of_good (hlen : bytes.length = 256) (hcrc : crc32 (bytes.take 252) = leVal (bytes.drop 252)) :
    s.flitChecks p (some n) bytes = (s.setPort p ((s.port p).kept n s.now), true) := by
  rw [State.flitChecks]
  rw [if_pos ⟨hlen, hcrc⟩]
  exact congrArg (·, true) (State.updPort_setPort ..)

theorem State.flitChecks_of_bad (hbad : ¬(bytes.length = 256 ∧ crc32 (bytes.take 252) = leVal (bytes.drop 252))) :
    s.flitChecks p (some n) bytes = (s.setPort p ((s.port p).dropped n), false) := by
  rw [State.flitChecks]
  rw [if_neg hbad]
  exact congrArg (·, false) (State.updPort_setPort ..)

/-! ### Data flits (R332 to R335) -/

theorem State.asmOf_of_some {vc : Nat} (h : Sp.get [] (s.port p).asm vc ≠ []) : s.asmOf p vc = (s, Sp.get [] (s.port p).asm vc) := by
  unfold State.asmOf
  split
  · next hnone => exact absurd hnone h
  · rfl

/-- The bytes that the message of a data flit has with it. -/
def Port.joined (q : Port) (h : Nat) (bytes : List Byte) : List Byte :=
  (if bitN 17 h then [] else Sp.get [] q.asm (field 16 14 h)) ++ (bytes.drop 4).take (field 26 19 h)

theorem Port.joined_eq (q : Port) (h : Nat) (bytes : List Byte) : q.joined h bytes =
    if bitN 17 h then (bytes.drop 4).take (field 26 19 h)
    else Sp.get [] q.asm (field 16 14 h) ++ (bytes.drop 4).take (field 26 19 h) := by
  rw [Port.joined]
  split <;> rfl

/-- A port that accepts a data flit with header `h`. -/
def Port.accepted (q : Port) (h : Nat) (bytes : List Byte) : Port :=
  { q with
    rxSeq := field 11 0 h, nack := false, freed := mapAt q.freed (field 16 14 h) (· + 1)
    asm := Sp.set [] q.asm (field 16 14 h) (if bitN 18 h then [] else q.joined h bytes) }

theorem State.takeFlit_of_continued {h : Nat} (hcont : bitN 17 h = true ∨ Sp.get [] (s.port p).asm (field 16 14 h) ≠ []) :
    s.takeFlit p h bytes =
      if bitN 18 h then (s.setPort p ((s.port p).accepted h bytes)).arrived p (field 16 14 h)
        ⟨((s.port p).joined h bytes).take 32, ((s.port p).joined h bytes).drop 32⟩
      else s.setPort p ((s.port p).accepted h bytes) := by
  have hasm : (if bitN 17 h then (s, []) else s.asmOf p (field 16 14 h)) =
      (s, if bitN 17 h then [] else Sp.get [] (s.port p).asm (field 16 14 h)) := by
    cases hfirst : bitN 17 h with
    | true => rfl
    | false => exact State.asmOf_of_some (hcont.resolve_left (by rw [hfirst]; decide))
  rw [State.takeFlit, hasm]
  rfl

variable (hup : (s.port p).state ≠ 0)
include hup

theorem execDataFlit_of_next (hlen : bytes.length = 256) (hcrc : crc32 (bytes.take 252) = leVal (bytes.drop 252))
    (hdata : field 13 12 (leVal (bytes.take 4)) = 0) (hform : flitForm (leVal (bytes.take 4)) = true)
    (hseq : field 11 0 (leVal (bytes.take 4)) = ((s.port p).rxSeq + 1) % 4096) : exec (.dataFlit p (some n) bytes) s =
      .next ((s.setPort p ((s.port p).kept n s.now)).takeFlit p (leVal (bytes.take 4)) bytes) := by
  have hrx : ((s.setPort p ((s.port p).kept n s.now)).port p).rxSeq = (s.port p).rxSeq := by rw [State.port_setPort_same]; rfl
  change execDataFlit p (some n) bytes s = _
  rw [execDataFlit, if_neg hup, State.flitChecks_of_good hlen hcrc]
  dsimp only
  rw [hrx, hdata, hform, ← hseq]
  exact (if_neg (by decide)).trans ((if_neg (by decide)).trans (if_neg (by simp)))

theorem execDataFlit_of_uncorrectable : exec (.dataFlit p none bytes) s =
    .next (s.setPort p { s.port p with fecu := satAdd32 (s.port p).fecu 1, nack := true }) := by
  change execDataFlit p none bytes s = _
  rw [execDataFlit, if_neg hup, State.flitChecks]
  dsimp only
  rw [State.updPort, State.updPort_setPort]
  rfl

theorem execDataFlit_of_damaged (hbad : ¬(bytes.length = 256 ∧ crc32 (bytes.take 252) = leVal (bytes.drop 252))) :
    exec (.dataFlit p (some n) bytes) s = .next (s.setPort p { s.port p with
      fecc := (s.port p).fecc + BitVec.ofNat 64 (min n 8), crcs := satAdd32 (s.port p).crcs 1, nack := true }) := by
  change execDataFlit p (some n) bytes s = _
  rw [execDataFlit, if_neg hup, State.flitChecks_of_bad hbad]
  dsimp only
  rw [State.updPort_setPort]
  rfl

/-! ### Control flits (R332, R334, R335) -/

/-- A port whose peer acknowledges `ack`. -/
def Port.acked (q : Port) (ack now : Nat) : Port :=
  match q.sent.findIdx? (fun x => x.1.seq == ack) with
  | some i => { q with sent := q.sent.drop (i + 1), ackAt := now, replays := 0 }
  | none => q

/-- A port to which a control flit returns credits. -/
def Port.credited (q : Port) (bytes : List Byte) : Port :=
  { q with credits := (List.range 6).map (fun v => min 64 (q.credits.getD v 0 + leVal ((bytes.drop (6 + 2 * v)).take 2))) }

/-- A port on which something is heard. -/
def Port.heard (q : Port) (now : Nat) : Port := { q with lastRx := now, silent := false }

/-- A port that a control flit gives its stamps. -/
def Port.stamped (q : Port) (t16 : Nat) (bytes : List Byte) : Port := { q with tPeer := leVal ((bytes.drop 18).take 8), tRx := t16 }

omit hup in
theorem Port.acked_eq (q : Port) (ack now : Nat) : q.acked ack now =
    { q with sent := (q.acked ack now).sent, ackAt := (q.acked ack now).ackAt, replays := (q.acked ack now).replays } := by
  unfold Port.acked
  split <;> rfl

omit hup in
theorem Port.acked_peerNode (q : Port) (ack now : Nat) : (q.acked ack now).peerNode = q.peerNode := by rw [Port.acked_eq]

omit hup in
theorem Port.acked_credits (q : Port) (ack now : Nat) : (q.acked ack now).credits = q.credits := by rw [Port.acked_eq]

omit hup in
theorem Port.acked_sent (q : Port) (ack now : Nat) : (q.acked ack now).sent = match q.sent.findIdx? (fun x => x.1.seq == ack) with
    | some i => q.sent.drop (i + 1)
    | none => q.sent := by
  unfold Port.acked
  cases q.sent.findIdx? (fun x => x.1.seq == ack) <;> rfl

omit hup in
theorem State.takeAck_of_ack (q : Port) (ack : Nat) : (s.setPort p q).takeAck p ack false = s.setPort p (q.acked ack s.now) := by
  rw [State.takeAck, State.port_setPort_same, if_neg (by decide), Port.acked]
  cases q.sent.findIdx? (fun x => x.1.seq == ack) with
  | none => rfl
  | some i => exact State.setPort_setPort ..

omit hup in
theorem State.takeCredits_setPort (q : Port) : (s.setPort p q).takeCredits p bytes = s.setPort p (q.credited bytes) :=
  State.updPort_setPort ..

omit hup in
theorem State.takeTime_of_notParent {q : Port} (hparent : s.parent ≠ some q.peerNode) (t16 : Nat) :
    (s.setPort p q).takeTime p t16 bytes = s.setPort p (q.stamped t16 bytes) := by
  have hother : ¬((s.setPort p q).parent = some q.peerNode ∧ leVal ((bytes.drop 34).take 8) ≠ 0 ∧ q.held = false) :=
    fun h => hparent h.1
  rw [State.takeTime, State.port_setPort_same]
  dsimp only
  rw [if_neg hother, State.setPort_setPort]
  rfl

/-- A port after a control flit that brings no nack, no note and no acknowledgment of chapter 12, before this end's own goes out. -/
def Port.controlled (q : Port) (now t16 : Nat) (bytes : List Byte) : Port :=
  (((q.heard now).acked (leVal ((bytes.drop 4).take 2) % 4096) now).credited bytes).stamped t16 bytes

omit hup in
theorem Port.controlled_credits (q : Port) (now t16 : Nat) (bytes : List Byte) : (q.controlled now t16 bytes).credits =
    (List.range 6).map (fun v => min 64 (q.credits.getD v 0 + leVal ((bytes.drop (6 + 2 * v)).take 2))) := by
  have hcredits := Port.acked_credits (q.heard now) (leVal ((bytes.drop 4).take 2) % 4096) now
  rw [Port.controlled, Port.stamped, Port.credited, hcredits]
  rfl

omit hup in
theorem Port.controlled_sent (q : Port) (now t16 : Nat) (bytes : List Byte) : (q.controlled now t16 bytes).sent =
    match q.sent.findIdx? (fun x => x.1.seq == leVal ((bytes.drop 4).take 2) % 4096) with
      | some i => q.sent.drop (i + 1)
      | none => q.sent := Port.acked_sent (q.heard now) ..

omit hup in
theorem State.takeControl_of_plain {t16 : Nat} {q : Port} (hack : bitN 12 (leVal ((bytes.drop 4).take 2)) = false)
    (hnote : leVal ((bytes.drop 42).take 4) = 0) (hver : q.version ≠ 3) (hparent : s.parent ≠ some q.peerNode) :
    (s.setPort p q).takeControl p t16 bytes = ((s.setPort p (q.controlled s.now t16 bytes)).sendControl p t16).pump p 400 := by
  let r := ((q.heard s.now).acked (leVal ((bytes.drop 4).take 2) % 4096) s.now).credited bytes
  have hpeer : r.peerNode = q.peerNode := Port.acked_peerNode ..
  have hheard : (s.setPort p q).setPort p (q.heard s.now) = s.setPort p (q.heard s.now) := State.setPort_setPort ..
  have hcredit : ((s.setPort p (q.heard s.now)).takeAck p (leVal ((bytes.drop 4).take 2) % 4096) false).takeCredits p bytes =
      s.setPort p r := by rw [State.takeAck_of_ack, State.takeCredits_setPort]
  have htime : (s.setPort p r).takeTime p t16 bytes = s.setPort p (q.controlled s.now t16 bytes) :=
    State.takeTime_of_notParent (by rwa [hpeer]) t16
  unfold State.takeControl
  dsimp only
  rw [State.port_setPort_same, if_neg hver, if_pos hnote, hack]
  calc (State.sendControl ((((((s.setPort p q).setPort p (q.heard s.now)).takeAck p (leVal ((bytes.drop 4).take 2) % 4096) false).takeCredits
        p bytes)).takeTime p t16 bytes) p t16).pump p 400
    _ = _ := by rw [hheard, hcredit, htime]

omit hup in
theorem State.sendControl_port (s : State) (p t16 : Nat) : (s.sendControl p t16).port p = { s.port p with
    nack := false, freed := List.replicate 6 0, notes := (s.port p).notes.drop 1 ++ (s.port p).notes.take 1 } :=
  State.port_setPort_same ..

omit hup in
theorem State.sendControl_mem (s : State) (p t16 : Nat) : (s.sendControl p t16).mem = s.mem := rfl

omit hup in
theorem State.sendControl_linkOut (s : State) (p t16 : Nat) :
    (s.sendControl p t16).linkOut = s.linkOut ++ [LinkOut.control p ((s.port p).control t16)] := rfl

theorem execControlFlit_of_plain (hlen : bytes.length = 256) (hcrc : crc32 (bytes.take 252) = leVal (bytes.drop 252))
    (hcontrol : leVal (bytes.take 4) = 4096) (hack : bitN 12 (leVal ((bytes.drop 4).take 2)) = false)
    (hnote : leVal ((bytes.drop 42).take 4) = 0) (hver : (s.port p).version ≠ 3) (hparent : s.parent ≠ some (s.port p).peerNode)
    (frac : Nat) : exec (.controlFlit p (some n) frac bytes) s =
      .next (((s.setPort p (((s.port p).kept n s.now).controlled s.now (16 * s.now + frac % 16) bytes)).sendControl p
        (16 * s.now + frac % 16)).pump p 400) := by
  change execControlFlit p (some n) frac bytes s = _
  rw [execControlFlit, if_neg hup, State.flitChecks_of_good hlen hcrc]
  dsimp only
  rw [if_pos ⟨rfl, hcontrol⟩, State.takeControl_of_plain (q := (s.port p).kept n s.now) hack hnote hver hparent]

end

/-! ### Replays (R334, R348) -/

/-- A port whose oldest flit is sent again. -/
def Port.replayed (q : Port) (now : Nat) : Port :=
  { q with retries := satAdd32 q.retries 1, replays := q.replays + 1, ackAt := now }

section
variable {s : State} {p : Nat} {x : Flit × Egress} {xs : List (Flit × Egress)} (hsent : (s.port p).sent = x :: xs)
include hsent

theorem State.replay_of_sent : s.replay p =
    let u := { s.setPort p ((s.port p).replayed s.now) with linkOut := s.linkOut ++ [LinkOut.replay p x.1.seq] }
    if 16 ≤ (s.port p).replays + 1 then u.fastRetrain p none else u := by
  unfold State.replay
  dsimp only
  split
  · next hnone =>
    rw [hsent] at hnone
    cases hnone
  · next y ys hy =>
    obtain ⟨rfl, rfl⟩ := List.cons.inj (hy.symm.trans hsent)
    rfl

theorem execAckTimeout_of_unacked (hup : (s.port p).state = 3) (hretrain : (s.port p).retrain = none) : ∃ u : State,
    exec (.ackTimeout p) s = .next (if 16 ≤ (s.port p).replays + 1 then u.fastRetrain p none else u) ∧
      u.now = max s.now ((s.port p).ackAt + 4000) ∧ u.port p = (s.port p).replayed (max s.now ((s.port p).ackAt + 4000)) ∧
      u.linkOut = s.linkOut ++ [.replay p x.1.seq] := by
  let v := s.expire 7 (s.port p).ackAt 4000
  have hport : v.port p = s.port p := State.expire_port ..
  refine ⟨{ v.setPort p ((v.port p).replayed v.now) with linkOut := v.linkOut ++ [.replay p x.1.seq] }, ?_, State.expire_now .., ?_, ?_⟩
  · change execAckTimeout p s = _
    rw [execAckTimeout]
    dsimp only
    rw [if_neg (by simp [hsent, hup, hretrain]), State.replay_of_sent (hport.symm ▸ hsent), hport]
  · exact (State.port_setPort_same ..).trans (by rw [hport, State.expire_now])
  · exact congrArg (· ++ [LinkOut.replay p x.1.seq]) (State.expire_linkOut ..)

end

/-- Settles O40 (a control flit sent for each one received, and a buffer free at acceptance, are log entry 33, deduced): each flit by its
checks and its header, and the timer of acknowledgments by the replays so far. -/
theorem linkFlits : Obligations.LinkFlits := by
  refine ⟨fun s p n bytes hup hlen hcrc => ?_, fun s p bytes hup => execDataFlit_of_uncorrectable hup,
    fun s p n bytes hup => execDataFlit_of_damaged hup, fun s p n frac bytes hup hlen hcrc hcontrol hack hnote hver hparent => ?_,
    fun s p x xs hsent hup hretrain => ?_⟩
  · intro h vc body hdata hform hseq hcont all q'
    have hexec := execDataFlit_of_next (n := n) hup hlen hcrc hdata hform hseq
    have hq : ((s.port p).kept n s.now).accepted h bytes = q' := by
      rw [Port.accepted, Port.joined_eq]
      rfl
    have hall : ((s.port p).kept n s.now).joined h bytes = all := Port.joined_eq ..
    rw [State.takeFlit_of_continued (by rwa [State.port_setPort_same]), State.port_setPort_same, State.setPort_setPort, hq, hall] at hexec
    refine ⟨fun hlast => ⟨_, by rw [hexec, if_neg (by rw [hlast]; decide)], ?_, ?_, ?_⟩, fun hlast => ⟨s.setPort p q', ?_, ?_, ?_⟩⟩
    · exact State.port_setPort_same ..
    · exact fun r hr => State.port_setPort_other _ _ hr
    · exact State.setPort_mem ..
    · rw [hexec, if_pos hlast]
    · exact State.port_setPort_same ..
    · exact State.setPort_mem ..
  · refine ⟨_, execControlFlit_of_plain hup hlen hcrc hcontrol hack hnote hver hparent frac, ?_⟩
    refine ⟨(State.sendControl_mem ..).trans (State.setPort_mem ..), ?_, ?_, ?_, ?_, ?_⟩
    · rw [State.sendControl_port, State.port_setPort_same]
      exact Port.controlled_credits ((s.port p).kept n s.now) s.now (16 * s.now + frac % 16) bytes
    · rw [State.sendControl_port, State.port_setPort_same]
      exact Port.controlled_sent ((s.port p).kept n s.now) s.now (16 * s.now + frac % 16) bytes
    · rw [State.sendControl_port]
    · rw [State.sendControl_port]
    · rw [State.sendControl_linkOut, List.length_append, State.setPort_linkOut]
      rfl
  · obtain ⟨u, hexec, hnow, hport, hout⟩ := execAckTimeout_of_unacked hsent hup hretrain
    refine ⟨fun hfew => ⟨u, ?_, hnow, hport, hout⟩, fun hmany => ⟨u, ?_, hnow, hport, hout⟩⟩
    · rw [hexec, if_neg (by omega)]
    · rw [hexec, if_pos (by omega)]

end Sys2Proof.Machine

/-! PROOFS. What reads and writes of device memory leave of the module: everything beside memory, its poison marks, its controllers, the
heat of tier 2, the writes to the host and the records for the watcher (`State.beside`). -/
namespace Sys2Proof.Machine

/-- The module without what an access to memory can change. -/
def State.beside (s : State) : State := { s with mem := [], poison := [], mc := [], t2 := [], hostOut := [], watchOut := [] }

section
variable {s t : State} (h : t.beside = s.beside)
include h

theorem State.cz_of_beside : t.cz = s.cz := (congrArg State.cz h :)
theorem State.coll_of_beside : t.coll = s.coll := (congrArg State.coll h :)
theorem State.jobs_of_beside : t.jobs = s.jobs := (congrArg State.jobs h :)
theorem State.image_of_beside : t.image = s.image := (congrArg State.image h :)
theorem State.gl_of_beside : t.gl = s.gl := (congrArg State.gl h :)
theorem State.now_of_beside : t.now = s.now := (congrArg State.now h :)
theorem State.watched_of_beside : t.watched = s.watched := (congrArg State.watched h :)
theorem State.cores_of_beside : t.cores = s.cores := (congrArg State.cores h :)
theorem State.hl_of_beside : t.hl = s.hl := (congrArg State.hl h :)
theorem State.pages_of_beside : t.pages = s.pages := (congrArg State.pages h :)
theorem State.tenants_of_beside : t.tenants = s.tenants := (congrArg State.tenants h :)
theorem State.ports_of_beside : t.ports = s.ports := (congrArg State.ports h :)

theorem State.czAt_of_beside (d : Nat) : t.czAt d = s.czAt d := by rw [State.czAt, State.czAt, State.cz_of_beside h]

end

theorem State.beside_foldl {α : Type} {f : State → α → State} (hf : ∀ (s : State) x, (f s x).beside = s.beside) (l : List α) (s : State) :
    (l.foldl f s).beside = s.beside := foldl_keeps hf l s

section
variable (s : State)

@[simp] theorem State.access_beside (a slots : Nat) : (s.access a slots).beside = s.beside := by rfl

theorem State.setPoison_beside (a : Nat) (p : Bool) : (s.setPoison a p).beside = s.beside := by rfl

theorem State.updMc_beside (d : Nat) (f : McSt → McSt) : (s.updMc d f).beside = s.beside := by rfl

@[simp] theorem State.newCode_beside (a : Nat) (p : Bool) : (s.newCode a p).beside = s.beside :=
  (State.setPoison_beside _ a p).trans (s.updMc_beside _ _)

@[simp] theorem State.hostWrite_beside (addr : Nat) (bs : List Byte) : (s.hostWrite addr bs).beside = s.beside := by rfl

@[simp] theorem State.noteBurst_beside (b cause : Nat) : (s.noteBurst b cause).beside = s.beside :=
  State.noteBurst_keeps (p := State.beside) (fun _ _ => rfl) (fun _ _ => rfl) s b cause

@[simp] theorem State.noteRead_beside (a n : Nat) : (s.noteRead a n).beside = s.beside :=
  State.noteRead_keeps (p := State.beside) (fun _ _ => rfl) (fun _ _ => rfl) s a n

@[simp] theorem State.noteVirt_beside (tenant va n fuel : Nat) : (s.noteVirt tenant va n fuel).beside = s.beside :=
  State.noteVirt_keeps (p := State.beside) (fun _ _ => rfl) (fun _ _ => rfl) (fun _ _ _ _ => rfl) s tenant va n fuel

@[simp] theorem State.noteWrite_beside (a : Nat) (bs : List Byte) (p : Bool) : (s.noteWrite a bs p).beside = s.beside := by
  unfold State.noteWrite
  dsimp only
  split
  · split
    · split <;> rfl
    · rfl
  · rfl

/-- A burst written, coded anew, and recorded for the watcher. -/
theorem State.written_beside (l : Sp Byte) (a : Nat) (bs : List Byte) (p q : Bool) :
    (({ s with mem := l }.newCode a p).noteWrite a bs q).beside = s.beside :=
  (State.noteWrite_beside _ a bs q).trans (State.newCode_beside _ a p)

@[simp] theorem State.wrPiece_beside (a : Nat) (bs : List Byte) (p : Bool) : (s.wrPiece a bs p).beside = s.beside := by
  have hburst : ((s.access a 3).noteBurst (burstOf a) 2).beside = s.beside :=
    (State.noteBurst_beside _ _ _).trans (s.access_beside a 3)
  unfold State.wrPiece
  dsimp only
  split
  · rfl
  · split
    · rfl
    · split
      · exact (State.written_beside _ _ a bs p p).trans (s.access_beside a 1)
      · split
        · exact hburst
        · exact (State.written_beside _ _ a bs p p).trans hburst

@[simp] theorem State.wrPieces_beside (a : Nat) (bs : List Byte) (p : Bool) (fuel : Nat) : (s.wrPieces a bs p fuel).beside = s.beside := by
  induction fuel generalizing s a bs with
  | zero => rfl
  | succ fuel ih =>
    unfold State.wrPieces
    split
    · rfl
    · rw [ih, State.wrPiece_beside]

@[simp] theorem State.wrPhys_beside (a : Nat) (bs : List Byte) (p : Bool) : (s.wrPhys a bs p).beside = s.beside :=
  State.wrPieces_beside ..

@[simp] theorem State.writeVirt_beside (tenant va : Nat) (bs : List Byte) (p : Bool) (fuel : Nat) :
    (s.writeVirt tenant va bs p fuel).beside = s.beside := by
  induction fuel generalizing s va bs with
  | zero => rfl
  | succ fuel ih =>
    unfold State.writeVirt
    split
    · rfl
    · rw [ih]
      split
      · exact State.wrPiece_beside ..
      · split
        · exact State.hostWrite_beside ..
        · rfl

@[simp] theorem State.virtPut_beside (tn va : Nat) (bs : List Byte) (p : Bool) : (s.virtPut tn va bs p).beside = s.beside :=
  State.writeVirt_beside ..

@[simp] theorem State.unitWrite_beside (a : Nat) (bs : List Byte) (p : Bool) : (s.unitWrite a bs p).beside = s.beside := by
  unfold State.unitWrite
  split
  · rfl
  · exact (State.written_beside _ _ a bs _ p).trans (s.access_beside a 0)

@[simp] theorem State.putShare_beside (sp : Span) (u : Nat × Nat × Nat) (i : Nat) (bs : List Byte) (p : Bool) :
    (s.putShare sp u i bs p).beside = s.beside := by
  unfold State.putShare
  split
  · exact State.unitWrite_beside ..
  · rfl

end

end Sys2Proof.Machine

/-! PROOFS. The next block of a compressor (R310 to R312, R315, R322) and of an expander (R318, R320, R374). -/
namespace Sys2Proof.Machine

/-! ### Compression of one block -/

section
variable (s : State) (r : CzRun)

theorem State.updUpd_cz (k : Nat) (f : UpdSt → UpdSt) : (s.updUpd k f).cz = s.cz := State.updJob_cz ..

theorem State.updUpd_watched (k : Nat) (f : UpdSt → UpdSt) : (s.updUpd k f).watched = s.watched := State.updJob_watched ..

/-- The module without what an access to memory can change, and without the records of its jobs. -/
def State.besideJobs : State := { s.beside with jobs := [] }

theorem State.besideJobs_of_beside {t : State} (h : t.beside = s.beside) : t.besideJobs = s.besideJobs := by
  rw [State.besideJobs, State.besideJobs, h]

theorem State.updUpd_besideJobs (k : Nat) (f : UpdSt → UpdSt) : (s.updUpd k f).besideJobs = s.besideJobs := rfl

theorem State.czBlock_besideJobs (b : Nat) : (s.czBlock r b).1.besideJobs = s.besideJobs := by
  unfold State.czBlock
  dsimp only
  refine (State.updUpd_besideJobs ..).trans (State.besideJobs_of_beside s ?_)
  rw [State.beside_foldl, State.beside_foldl (fun s x => (State.noteBurst_beside _ x 1).trans (s.access_beside (64 * x) 1)),
    State.noteVirt_beside]
  intro s i
  split
  · exact State.wrPhys_beside ..
  · rfl

theorem State.besideJobs_cz : s.besideJobs.cz = s.cz := rfl

theorem State.besideJobs_watched : s.besideJobs.watched = s.watched := rfl

theorem State.czBlock_cz (b : Nat) : (s.czBlock r b).1.cz = s.cz := by
  rw [← State.besideJobs_cz, State.czBlock_besideJobs, State.besideJobs_cz]

theorem State.czBlock_watched (b : Nat) : (s.czBlock r b).1.watched = s.watched := by
  rw [← State.besideJobs_watched, State.czBlock_besideJobs, State.besideJobs_watched]

theorem State.rseg_cz (b0 b1 : Nat) : (s.rseg r b0 b1).cz = s.cz := by
  unfold State.rseg
  split
  · exact State.updUpd_cz ..
  · rfl

theorem State.rseg_mem (b0 b1 : Nat) : (s.rseg r b0 b1).mem = s.mem := by
  unfold State.rseg
  split
  · exact State.updJob_mem ..
  · rfl

/-- The record of a range with a block that is poison says so. -/
theorem State.rseg_of_bad {b b0 b1 : Nat} (hw : s.watched = true) (hb : b ∈ r.bad) (h0 : b0 ≤ b) (h1 : b < b1) :
    ∃ x ∈ (s.rseg r b0 b1).watchOut, x.kind = 0x11 ∧ x.flags = 1 := by
  have hany : r.bad.any (fun b => decide (b0 ≤ b) && decide (b < b1)) = true :=
    List.any_eq_true.mpr ⟨b, hb, by simp [h0, h1]⟩
  unfold State.rseg
  rw [if_pos hw]
  dsimp only
  rw [State.updUpd, State.updJob_watchOut, hany]
  exact ⟨_, List.mem_append_right _ (List.mem_singleton_self _), rfl, rfl⟩

theorem State.groupDone_of_clean (g : Nat) : (s.groupDone r g false).1.cz = s.cz ∧ (s.groupDone r g false).1.mem = s.mem ∧
    (s.groupDone r g false).2.groups = r.groups ∧ (s.groupDone r g false).2.bufs = r.bufs := by
  unfold State.groupDone
  dsimp only
  rw [if_neg (by decide)]
  split
  · exact ⟨State.rseg_cz .., State.rseg_mem .., rfl, rfl⟩
  · exact ⟨rfl, rfl, rfl, rfl⟩

theorem State.groupDone_of_poison (g : Nat) : s.groupDone r g true =
    ((s.rseg r (4 * g) (min r.blocks (4 * g + 4))).moduleFault, r) := by
  rw [State.groupDone]
  exact if_pos rfl

end

/-- A compression after block `b` of controller `ctl`: `full` ends its group. -/
def CzRun.after (r : CzRun) (ctl b : Nat) (buf : List Byte × Bool) (full : Bool) (o : State × CzBlock × Bool × List (Nat × W32)) : CzRun :=
  { r with
    groups := mapAt r.groups ctl (· + 1), bufs := mapAt r.bufs ctl (fun _ => if full then ([], false) else buf)
    xors := o.2.2.2.foldl (fun m x => Sp.set 0#32 m x.1 x.2) r.xors, bad := if o.2.2.1 then r.bad ++ [b] else r.bad }

theorem CzRun.mem_after_bad (r : CzRun) (ctl b : Nat) (buf : List Byte × Bool) (full : Bool)
    {o : State × CzBlock × Bool × List (Nat × W32)} (h : o.2.2.1 = true) : b ∈ (r.after ctl b buf full o).bad := by
  rw [CzRun.after, h]
  exact List.mem_append_right _ (List.mem_singleton_self b)

/-- A compressor that has counted block `o`, its compression `r` standing as `r'` then. -/
def CzDie.counted (z : CzDie) (r r' : CzRun) (o : CzBlock) : CzDie :=
  { z with
    runs := if r'.done then z.runs.filter (· != r) else z.runs.map (fun x => if x = r then r' else x)
    flags := z.flags ||| o.flags
    blk0 := z.blk0 + BitVec.ofNat 64 (b2n (o.mode == 0))
    blk1 := z.blk1 + BitVec.ofNat 64 (b2n (o.mode == 1))
    blk2 := z.blk2 + BitVec.ofNat 64 (b2n (o.mode == 2)) }

/-- The counters and flags of die `d` after block `o`. -/
def State.BlockCounted (s u : State) (d : Nat) (o : CzBlock) : Prop :=
  (u.czAt d).flags = (s.czAt d).flags ||| o.flags ∧
    (u.czAt d).blk0 = (s.czAt d).blk0 + BitVec.ofNat 64 (b2n (o.mode == 0)) ∧
    (u.czAt d).blk1 = (s.czAt d).blk1 + BitVec.ofNat 64 (b2n (o.mode == 1)) ∧
    (u.czAt d).blk2 = (s.czAt d).blk2 + BitVec.ofNat 64 (b2n (o.mode == 2))

theorem State.czAt_updCz_same (s : State) (d : Nat) (f : CzDie → CzDie) : (s.updCz d f).czAt d = f (s.czAt d) := Sp.get_set_same _ _ _ _

theorem State.blockCounted_of_cz {s t : State} (h : t.cz = s.cz) (d : Nat) (r r' : CzRun) (o : CzBlock) :
    s.BlockCounted (t.updCz d (fun z => z.counted r r' o)) d o := by
  have hdie : t.czAt d = s.czAt d := by rw [State.czAt, State.czAt, h]
  unfold State.BlockCounted
  rw [State.czAt_updCz_same, hdie]
  exact ⟨rfl, rfl, rfl, rfl⟩

section
variable {s : State} {die ctl : Nat} {r : CzRun}

theorem execCompressBlock_of_ready (hrun : s.stopped = false)
    (hnext : (s.czAt die).runs.find? (fun r => decide (CzRun.blockOf ctl (r.groups.getD ctl 0) < r.blocks)) = some r)
    (hfree : s.czWaits r (CzRun.blockOf ctl (r.groups.getD ctl 0)) = false) :
    exec (.compressBlock die ctl) s = .next (s.compressStep die ctl r) := by
  change execCompressBlock die ctl s = _
  rw [execCompressBlock, hnext]
  dsimp only
  rw [hrun, hfree]
  rfl

variable (s die ctl r)

theorem State.compressStep_of_full (hfull : CzRun.blockOf ctl (r.groups.getD ctl 0) % 4 = 3 ∨
      CzRun.blockOf ctl (r.groups.getD ctl 0) + 1 = r.blocks) {p : Bool}
    (hp : ((r.bufs.getD ctl ([], false)).2 || (s.czBlock r (CzRun.blockOf ctl (r.groups.getD ctl 0))).2.2.1) = p) :
    let b := CzRun.blockOf ctl (r.groups.getD ctl 0)
    let o := s.czBlock r b
    let bs := (r.bufs.getD ctl ([], false)).1 ++ o.2.1.bytes
    let w := o.1.virtPut (o.1.tn r.jobSlot) (r.out + 576 * (b / 4)) (bs ++ zeros (576 - bs.length)) p
    let d := w.groupDone (r.after ctl b (bs, p) true o) (b / 4) p
    let u := d.1.updCz die (fun z => z.counted r d.2 o.2.1)
    s.compressStep die ctl r = (if d.2.done then u.czDone d.2 else u.collPump).settle := by
  have hends : (CzRun.blockOf ctl (r.groups.getD ctl 0) % 4 == 3 || CzRun.blockOf ctl (r.groups.getD ctl 0) + 1 == r.blocks) = true := by
    simpa using hfull
  rw [← hp]
  unfold State.compressStep
  dsimp only
  rw [hends]
  rfl

theorem State.compressStep_of_open (hmid : CzRun.blockOf ctl (r.groups.getD ctl 0) % 4 ≠ 3)
    (hlast : CzRun.blockOf ctl (r.groups.getD ctl 0) + 1 < r.blocks) :
    let b := CzRun.blockOf ctl (r.groups.getD ctl 0)
    let o := s.czBlock r b
    let buf := ((r.bufs.getD ctl ([], false)).1 ++ o.2.1.bytes, (r.bufs.getD ctl ([], false)).2 || o.2.2.1)
    let u := o.1.updCz die (fun z => z.counted r (r.after ctl b buf false o) o.2.1)
    s.compressStep die ctl r = (if (r.after ctl b buf false o).done then u.czDone (r.after ctl b buf false o) else u.collPump).settle := by
  have hopen : (CzRun.blockOf ctl (r.groups.getD ctl 0) % 4 == 3 || CzRun.blockOf ctl (r.groups.getD ctl 0) + 1 == r.blocks) = false := by
    rw [Bool.or_eq_false_iff, beq_eq_false_iff_ne, beq_eq_false_iff_ne]
    exact ⟨hmid, hlast.ne⟩
  unfold State.compressStep
  dsimp only
  rw [hopen]
  rfl

theorem mapAt_getD_of_lt {α : Type} (l : List α) {i : Nat} (f : α → α) (d : α) (h : i < l.length) :
    (mapAt l i f).getD i d = f (l.getD i d) := by
  simp [List.getD_eq_getElem?_getD, mapAt_getElem?_same, h]

theorem mapAt_of_length_le {α : Type} (l : List α) {i : Nat} (f : α → α) (h : l.length ≤ i) : mapAt l i f = l := by
  refine List.ext_getElem? fun j => ?_
  by_cases hj : j = i
  · rw [hj, mapAt_getElem?_same, List.getElem?_eq_none h]
    rfl
  · exact mapAt_getElem?_other l f hj

/-- The block behind one that does not end its group is the next. -/
theorem CzRun.blockOf_succ {c n : Nat} (h : CzRun.blockOf c n % 4 ≠ 3) : CzRun.blockOf c (n + 1) = CzRun.blockOf c n + 1 := by
  unfold CzRun.blockOf at h ⊢
  omega

variable {s die ctl r}

/-- A compression with a block left in the group of a controller goes on. -/
theorem CzRun.after_done_of_open (hctl : ctl < 8) (hmid : CzRun.blockOf ctl (r.groups.getD ctl 0) % 4 ≠ 3)
    (hlast : CzRun.blockOf ctl (r.groups.getD ctl 0) + 1 < r.blocks) (b : Nat) (buf : List Byte × Bool) (full : Bool)
    (o : State × CzBlock × Bool × List (Nat × W32)) : (r.after ctl b buf full o).done = false := by
  have hgroups : CzRun.blockOf ctl ((mapAt r.groups ctl (· + 1)).getD ctl 0) < r.blocks := by
    rcases Nat.lt_or_ge ctl r.groups.length with hlt | hge
    · rw [mapAt_getD_of_lt _ _ _ hlt, CzRun.blockOf_succ hmid]
      exact hlast
    · rw [mapAt_of_length_le _ _ hge]
      omega
  rw [CzRun.done, List.all_eq_false]
  refine ⟨ctl, List.mem_range.mpr hctl, ?_⟩
  rw [decide_eq_true_iff, not_le]
  exact hgroups

theorem CzRun.mem_counted_runs {z : CzDie} {r' : CzRun} (hr : r ∈ z.runs) (hdone : r'.done = false) (o : CzBlock) :
    r' ∈ (z.counted r r' o).runs := by
  rw [CzDie.counted, hdone]
  exact List.mem_map.mpr ⟨r, hr, if_pos rfl⟩

end

/-! ### Expansion of one block (R318, R320, R374) -/

/-- The running sum `m` with block `v` added at element `el`. -/
def addElem (v : List W32 × Bool) (m : Sp (W32 × Bool)) (el : Nat) : Sp (W32 × Bool) :=
  Sp.set (negZero32, false) m el ((add32 (Sp.get (negZero32, false) m el).1 (v.1.getD (el % 256) 0#32)).1,
    (Sp.get (negZero32, false) m el).2 || v.2)

/-- Each element of a block is added once. -/
theorem get_foldl_addElem (v : List W32 × Bool) (e0 n : Nat) (m : Sp (W32 × Bool)) (el : Nat) :
    Sp.get (negZero32, false) ((List.range n).foldl (fun m x => addElem v m (e0 + x)) m) el =
      if e0 ≤ el ∧ el < e0 + n then ((add32 (Sp.get (negZero32, false) m el).1 (v.1.getD (el % 256) 0#32)).1,
        (Sp.get (negZero32, false) m el).2 || v.2)
      else Sp.get (negZero32, false) m el := by
  induction n with
  | zero => rw [if_neg (by omega)]; rfl
  | succ n ih =>
    rw [List.range_succ, List.foldl_append, List.foldl_cons, List.foldl_nil]
    rcases eq_or_ne el (e0 + n) with rfl | hne
    · rw [addElem, Sp.get_set_same, ih, if_neg (by omega), if_pos (by omega)]
    · rw [addElem, Sp.get_set_other _ _ _ hne, ih]
      by_cases hin : e0 ≤ el ∧ el < e0 + n
      · rw [if_pos hin, if_pos (by omega)]
      · rw [if_neg hin, if_neg (by omega)]

theorem State.mem_putInst (s : State) (i : CollInst) : i ∈ (s.putInst i).coll.insts := by
  have hmine : i.is i.job i.coll i.step = true := by simp [CollInst.is]
  unfold State.putInst
  dsimp only
  split
  · next hany =>
    obtain ⟨x, hx, hxmine⟩ := List.any_eq_true.mp hany
    exact List.mem_map.mpr ⟨x, hx, if_pos hxmine⟩
  · exact List.mem_append_right _ (List.mem_singleton_self i)

theorem State.putInst_cz (s : State) (i : CollInst) : (s.putInst i).cz = s.cz := rfl

theorem State.writeRange_beside (s : State) (i : CollInst) (e : CollEntry) (o : OwnSum) (dst q : Nat) (bad : Bool) :
    (s.writeRange i e o dst q bad).beside = s.beside := by
  unfold State.writeRange
  dsimp only
  refine State.beside_foldl (fun s c => ?_) _ s
  split
  · exact State.putShare_beside ..
  · exact State.virtPut_beside ..

theorem State.ite_writeRange_beside (s : State) (i : CollInst) (e : CollEntry) (o : OwnSum) (dst q : Nat) (fin : Bool) :
    (if fin then s.writeRange i e o dst q false else s).beside = s.beside := by
  split
  · exact State.writeRange_beside ..
  · rfl

/-- An owned sum that a block is to be added to is one of the sums it was found among. -/
theorem State.mem_sums_of_nextExpand {s : State} {die ctl dst q : Nat} {i : CollInst} {e : CollEntry} {o : OwnSum}
    {a : Nat × Nat × Nat × Nat} (h : s.nextExpand die ctl = some (i, e, o, dst, q, a)) : o ∈ i.sums := by
  obtain ⟨j, hj, hsome⟩ := List.exists_of_findSome?_eq_some h
  split at hsome
  · split at hsome
    · obtain ⟨u, hu, hsum⟩ := List.exists_of_findSome?_eq_some hsome
      split at hsum
      · obtain ⟨r, hr, hrange⟩ := List.exists_of_findSome?_eq_some hsum
        split at hrange
        · split at hrange
          · cases hrange
            exact hu
          · cases hrange
        · cases hrange
      · cases hsum
    · cases hsome
  · cases hsome

theorem execExpandBlock_of_ready {s : State} {die ctl dst q : Nat} {i : CollInst} {e : CollEntry} {o : OwnSum}
    {a : Nat × Nat × Nat × Nat} (hrun : s.stopped = false) (h : s.nextExpand die ctl = some (i, e, o, dst, q, a)) :
    exec (.expandBlock die ctl) s = .next (s.expandStep die i e o dst q a).settle := by
  have hnext : s.expandable die ctl = some (i, e, o, dst, q, a) := h
  change execExpandBlock die ctl s = _
  rw [execExpandBlock, hnext]
  dsimp only
  rw [hrun]
  rfl

/-- A die that has counted an expanded block. -/
def CzDie.expanded (z : CzDie) (v : List W32 × Bool × Nat × Bool) (e : CollEntry) : CzDie :=
  { z with
    damaged := satAdd32 z.damaged (b2n v.2.2.2)
    eblk := z.eblk + BitVec.ofNat 64 (b2n (e.compressed && !v.2.2.2))
    eblk2 := z.eblk2 + BitVec.ofNat 64 (b2n (e.compressed && !v.2.2.2 && v.2.2.1 == 2)) }

/-- A block that is expanded goes into a sum of its collective, and its die counts it. -/
theorem State.expandStep_eq {s : State} {i : CollInst} {e : CollEntry} {o : OwnSum} (ho : o ∈ i.sums) (die dst q src blk e0 n : Nat) :
    ∃ (u : State) (i' : CollInst), s.expandStep die i e o dst q (src, blk, e0, n) =
        (u.putInst i').updCz die (fun z => z.expanded (s.slotBlock i.job e src o.shard blk) e) ∧ u.beside = s.beside ∧
      ∃ o' ∈ i'.sums, o'.shard = o.shard ∧ o'.acc = (List.range n).foldl (fun m x =>
        addElem ((s.slotBlock i.job e src o.shard blk).1, (s.slotBlock i.job e src o.shard blk).2.1) m (e0 + x)) o.acc := by
  refine ⟨_, _, rfl, ?_, ?_⟩
  · exact (State.ite_writeRange_beside ..).trans (State.noteVirt_beside ..)
  · exact ⟨_, List.mem_map.mpr ⟨o, ho, if_pos rfl⟩, rfl, rfl⟩

/-- Settles O38 (that CZ_EBLK counts each expanded block once, when it is added, is log entry 69): a block of a compression by whether it
ends its group, and with poison or not; a block of an expansion through the sums of its collective. -/
theorem blocksAdvance : Obligations.BlocksAdvance := by
  refine ⟨fun s die ctl r hrun hnext => ?_, fun s die ctl i e o dst q src blk e0 n hrun hnext => ?_⟩
  · intro b o bs p counted hctl hfree
    have hexec := execCompressBlock_of_ready hrun hnext hfree
    refine ⟨fun hfull => ?_, fun hmid hlast => ?_⟩
    · intro w
      have hcz : w.cz = s.cz := (State.cz_of_beside (State.virtPut_beside ..)).trans (State.czBlock_cz ..)
      have hwatched : w.watched = s.watched := (State.watched_of_beside (State.virtPut_beside ..)).trans (State.czBlock_watched ..)
      cases hp : p with
      | false =>
        rw [State.compressStep_of_full s die ctl r hfull hp] at hexec
        have hw : w = o.1.virtPut (o.1.tn r.jobSlot) (r.out + 576 * (b / 4)) (bs ++ zeros (576 - bs.length)) false := by rw [← hp]
        rw [← hw] at hexec
        obtain ⟨hczd, hmem, hgroups, hbufs⟩ := State.groupDone_of_clean w (r.after ctl b (bs, false) true o) (b / 4)
        exact ⟨_, _, _, hexec, hmem, hgroups, hbufs, fun _ => ⟨State.blockCounted_of_cz (hczd.trans hcz) .., State.updCz_mem ..⟩, nofun⟩
      | true =>
        rw [State.compressStep_of_full s die ctl r hfull hp] at hexec
        have hw : w = o.1.virtPut (o.1.tn r.jobSlot) (r.out + 576 * (b / 4)) (bs ++ zeros (576 - bs.length)) true := by rw [← hp]
        rw [← hw, State.groupDone_of_poison] at hexec
        refine ⟨_, _, _, hexec, State.rseg_mem .., rfl, rfl, nofun, fun _ => ⟨⟨_, rfl⟩, fun hw hpoison => ?_⟩⟩
        have hblock : b < r.blocks := of_decide_eq_true (List.find?_some hnext :)
        exact State.rseg_of_bad _ _ (hwatched.trans hw) (CzRun.mem_after_bad r ctl b (bs, true) true hpoison) (by omega)
          (lt_min hblock (by omega))
    · rw [State.compressStep_of_open s die ctl r hmid hlast] at hexec
      have hdone := CzRun.after_done_of_open hctl hmid hlast b (bs, p) false o
      have hdie : o.1.czAt die = s.czAt die := by rw [State.czAt, State.czAt, State.czBlock_cz]
      refine ⟨_, hexec.trans (by rw [if_neg (ne_true_of_eq_false hdone)]), State.updCz_mem ..,
        State.blockCounted_of_cz (State.czBlock_cz ..) .., fun hbufs hgroups => ⟨r.after ctl b (bs, p) false o, ?_, ?_, ?_⟩⟩
      · rw [State.czAt_updCz_same, hdie]
        exact CzRun.mem_counted_runs (List.mem_of_find?_eq_some hnext) hdone o.2.1
      · exact mapAt_getD_of_lt _ _ _ hgroups
      · exact mapAt_getD_of_lt _ _ _ hbufs
  · obtain ⟨u, i', hstep, hu, o', ho', hshard, hacc⟩ :=
      State.expandStep_eq (s := s) (e := e) (State.mem_sums_of_nextExpand hnext) die dst q src blk e0 n
    intro v
    have hdie : (u.putInst i').czAt die = s.czAt die := by rw [State.czAt, State.putInst_cz, ← State.czAt, State.czAt_of_beside hu]
    refine ⟨_, execExpandBlock_of_ready hrun hnext, ?_, ?_, i', ?_, o', ho', hshard, fun x hx => ?_⟩
    · rw [hstep, State.czAt_updCz_same, hdie]
      rfl
    · rw [hstep, State.czAt_updCz_same, hdie]
      rfl
    · rw [hstep, State.updCz_coll]
      exact State.mem_putInst ..
    · rw [hacc, get_foldl_addElem, if_pos (by omega)]

end Sys2Proof.Machine

/-! PROOFS. The collective instructions (R366, R369, R370): an instruction that names a legal issue begins it. -/
namespace Sys2Proof.Machine

/-- An idle outbound unit takes a collective instruction in the step that issues it. -/
theorem State.Issues.engStep_coll {s : State} {n k : Nat} {w : IWord} {ecc : Ecc} (h : s.Issues n k w ecc)
    (hidle : (s.ctx n k).qob = []) (hcls : w.cls = 8) :
    s.engStep n ecc .ob 8 w.opc none = (s.taken n k ecc).collTake n k w := by
  have hready : (s.queued n k ecc .ob w).engReady n k .ob w none = true := by simp [State.engReady, State.obReady, hcls]
  have htake := h.engStep (e := .ob) hidle hready
  simpa [State.engEffect, State.obAccept, hcls] using htake

/-- A collective instruction by its opcode. -/
theorem State.Issues.exec_coll {s : State} {n k : Nat} {w : IWord} {ecc : Ecc} (h : s.Issues n k w ecc)
    (hidle : (s.ctx n k).qob = []) (hcls : w.cls = 8) {q : Nat × Instr}
    (hq : q ∈ ([(0, .gather n ecc), (1, .rscat n ecc), (2, .allred n ecc), (3, .perm n ecc)] : List (Nat × Instr))) (hopc : w.opc = q.1) :
    exec q.2 s = .next ((s.taken n k ecc).collTake n k w) := by
  have hstep := h.engStep_coll hidle hcls
  rw [hopc] at hstep
  simp only [List.mem_cons, List.not_mem_nil, or_false] at hq
  rcases hq with rfl | rfl | rfl | rfl <;> exact congrArg Host.Outcome.next hstep

theorem entryField_19_lt_of_descOk {d : Entry} (h : descOk d = true) : entryField d 19 1 < 16 := by
  simp only [descOk, Bool.and_eq_true, beq_iff_eq] at h
  omega

/-- The descriptor of the compression that a collective instruction starts, if it starts one. -/
def State.collDesc (u : State) (n : Nat) (w : IWord) (e : CollEntry) : Option Entry :=
  if e.op = 1 ∧ e.compressed = true then some (entryOf (u.sram n (64 * field 43 27 w.pl) 64)) else none

/-- The issue that a collective instruction of a context names: the ranges come from the table entry and the offset in its register. -/
def State.namedIssue (u : State) (n c : Nat) (w : IWord) (e : CollEntry) (shard : Nat) : CollIssue :=
  let off := ((u.ctx n c).reg (field 48 44 w.pl)).toNat * 2 ^ field 52 49 w.pl
  let comp := u.collDesc n w e
  { shard := shard, core := n, ctx := c, group := field 26 16 w.pl, status := 16 * field 72 53 w.pl
    src := if e.op = 1 then (if comp.isSome then 0 else (Config.partnerRange e.dstVa).toNat + off)
      else if e.srcKind = 0 then e.srcVa + off else 0
    dst := e.dstVa + off, comp := comp, segs := 0, poison := false, abandoned := false, lost := false, done := false }

/-- What R369 and R370 ask of an issue `x` that program `p` names in slot `k`: ranges inside SRAM, the map and 48 bits, no issue of the
shard before it, a legal descriptor placed on its die, and nothing written to the save area. -/
structure State.IssueLegal (u : State) (n c k : Nat) (w : IWord) (e : CollEntry) (x : CollIssue) : Prop where
  opcode : e.op = w.opc
  noDesc : x.comp = none → field 43 27 w.pl = 0
  descIn : 64 * field 43 27 w.pl + 64 ≤ sramSize
  statusIn : x.status + 16 ≤ sramSize
  statusFree : (u.ctx n c).hitsSave x.status 16 = false
  dstLow : x.dst < 2 ^ 48
  srcLow : x.src < 2 ^ 48
  first : ∀ i, u.inst k e.id (u.ctx n c).stepReg = some i → i.issue x.shard = none
  desc : ∀ d, x.comp = some d → descOk d = true ∧ (u.job (entryField d 19 1)).life ≠ .none ∧
    (u.job (entryField d 19 1)).info.tenant = (u.ctx n c).prog.tenant ∧ u.descPlaced (entryField d 19 1) d = true
  ranges : u.rangesOk k x.shard x.src x.dst e x.comp = true
  writesFree : (u.issueWrites k x.shard x.dst e x.comp).any (fun r => u.virtHits n (u.ctx n c).prog.tenant (u.ctx n c) r.1 r.2) = false

section
variable {u : State} {n c k shard : Nat} {w : IWord} {e : CollEntry}

/-- No second issue of a shard. -/
theorem State.not_again {k id : Nat} {step : W32} (h : ∀ i, u.inst k id step = some i → i.issue shard = none) :
    (match u.inst k id step with
      | some i => (i.issue shard).isSome
      | none => false) = false := by
  cases hinst : u.inst k id step with
  | none => rfl
  | some i => simp [h i hinst]

/-- A legal descriptor placed on its die is no fault. -/
theorem State.desc_not_bad (tenant : Nat) (comp : Option Entry) : (∀ d, comp = some d → descOk d = true ∧
      (u.job (entryField d 19 1)).life ≠ .none ∧ (u.job (entryField d 19 1)).info.tenant = tenant ∧
      u.descPlaced (entryField d 19 1) d = true) →
    (match comp with
      | some d =>
        let slot := entryField d 19 1 % 16
        !descOk d || (u.job slot).life == .none || (u.job slot).info.tenant != tenant || !u.descPlaced slot d
      | none => false) = false := by
  intro h
  cases comp with
  | none => rfl
  | some d =>
    obtain ⟨hok, hlife, htenant, hplaced⟩ := h d rfl
    simp [Nat.mod_eq_of_lt (entryField_19_lt_of_descOk hok), hok, hlife, htenant, hplaced]

theorem State.collTake_of_legal (hslot : u.jobSlot (u.ctx n c).prog = some k) (hentry : u.collEntry k (field 15 0 w.pl) = some e)
    (hshard : u.actingShard k n (u.ctx n c).prog.id = some shard)
    (h : u.IssueLegal n c k w e (u.namedIssue n c w e shard)) :
    u.collTake n c w = u.beginIssue k (u.ctx n c).stepReg e (u.namedIssue n c w e shard) := by
  obtain ⟨hopc, hno, hdesc, hstatus, hsave, hdst, hsrc, hfirst, hcomp, hranges, hwrites⟩ := h
  have hagain := State.not_again hfirst
  have hbad := State.desc_not_bad _ _ hcomp
  unfold State.collTake
  simp only [hslot, hentry, hshard]
  refine if_neg ?_
  rintro (h | h | h | h | h | h | h | h | h | h | h)
  · exact h hopc
  · exact h.2 (hno h.1)
  · exact absurd hdesc (not_le.mpr h)
  · exact absurd hstatus (not_le.mpr h)
  · exact ne_true_of_eq_false hsave h
  · exact absurd hdst (not_lt.mpr h)
  · exact absurd hsrc (not_lt.mpr h)
  · exact ne_true_of_eq_false hagain h
  · exact ne_true_of_eq_false hbad h
  · exact ne_true_of_eq_false h hranges
  · exact ne_true_of_eq_false hwrites h

end

/-- Settles O36 (that an uncompressed RSCAT takes its source from the partner's range, and its shard from the program, are log entries 29
and 28, choices of the model): the outbound unit is idle and takes the instruction, and each refusal is excluded by a premise. -/
theorem collectivesBegin : Obligations.CollectivesBegin := by
  intro s n c w ecc hissues hidle hcls u x p k e shard hslot hentry hshard cd off status comp dst src hopc hno hdesc hstatus hsave hdst
    hsrc hfirst hcomp hranges hwrites q hq hq1
  have hlegal : u.IssueLegal n c k w e (u.namedIssue n c w e shard) :=
    ⟨hopc, hno, hdesc, hstatus, hsave, hdst, hsrc, hfirst, hcomp, hranges, hwrites⟩
  rw [hissues.exec_coll hidle hcls hq hq1, State.collTake_of_legal hslot hentry hshard hlegal]
  rfl

end Sys2Proof.Machine

/-! PROOFS. Collectives complete, and requests and segments arrive (R371, R376 to R378, R385). -/
namespace Sys2Proof.Machine

/-! ### Completion of an issue (R376, R378) -/

/-- What the completion of an issue writes to virtual memory, and whether it is poison. -/
def State.issueResult (s : State) (i : CollInst) (e : CollEntry) (x : CollIssue) : State × Bool :=
  if e.op ≠ 2 then (s, false)
  else if x.abandoned = false ∧ s.allGot i e (fun _ => true) = true ∧ (s.held i.job).all (fun l => (i.issue l).isSome) = true
    then s.writeVec i e x else s.poisonVec i e x

/-- Whether an issue whose result is poison or not, `r`, completes with poison. -/
def CollIssue.endsPoison (x : CollIssue) (i : CollInst) (e : CollEntry) (r : Bool) : Bool :=
  x.poison || r || x.abandoned || x.lost || (e.op == 1 && i.sums.any (fun q => q.shard == x.shard && q.acc.any (fun a => a.2.2)))

/-- The status record of an issue that completes. -/
def CollIssue.record (x : CollIssue) (p : Bool) (now : Nat) : List Byte :=
  leBytes 4 (b2n p + 2 * b2n x.abandoned + 4 * b2n x.lost) ++ leBytes 4 x.segs ++ leBytes 8 now

/-- An issue marked as done, and counted where it is lost. -/
def State.markDone (s : State) (i : CollInst) (x : CollIssue) (p : Bool) : State :=
  let u := s.putInst (i.mapIssue (fun y => y.shard == x.shard) (fun y => { y with done := true, poison := p }))
  { u with coll := { u.coll with lost := satAdd32 u.coll.lost (b2n x.lost) } }

theorem State.endIssue_eq (s : State) (i : CollInst) (e : CollEntry) (x : CollIssue) : s.endIssue i e x =
    let o := s.issueResult i e x
    let p := x.endsPoison i e o.2
    let u := o.1.markDone i x p
    ((u.setSram x.core x.status (x.record p u.now)).updCtx x.core x.ctx (fun c => { c with outCmds := c.outCmds - 1 })).arrive
      x.core x.ctx x.group p := rfl

section
variable (s : State) (i : CollInst) (x : CollIssue) (p : Bool)

theorem State.markDone_now : (s.markDone i x p).now = s.now := rfl
theorem State.markDone_mem : (s.markDone i x p).mem = s.mem := rfl
theorem State.markDone_cores : (s.markDone i x p).cores = s.cores := rfl
theorem State.markDone_lost : (s.markDone i x p).coll.lost = satAdd32 s.coll.lost (b2n x.lost) := rfl

theorem State.markDone_core (n : Nat) : (s.markDone i x p).core n = s.core n := by rw [State.core, State.core, State.markDone_cores]

end

/-- A status record written, its command counted off, and an arrival given. -/
theorem State.statusGiven (u : State) (n k g a : Nat) (bs : List Byte) (p : Bool) :
    let t := ((u.setSram n a bs).updCtx n k (fun c => { c with outCmds := c.outCmds - 1 })).arrive n k g p
    t.mem = wrBytes u.mem (sramBase n + a) bs ∧ (t.core n).grp k g = ((u.core n).grp k g).arrive p ∧
      (t.ctx n k).outCmds = (u.ctx n k).outCmds - 1 ∧ t.coll = u.coll := by
  refine ⟨rfl, ?_, ?_, rfl⟩
  · rw [State.core_arrive_same, CoreSt.grp_arrive, State.updCtx, State.core_setCtx_same, CoreSt.grp_setCtx, State.setSram_core]
  · rw [State.ctx, State.core_arrive_same, CoreSt.ctx_arrive, ← State.ctx, State.ctx_updCtx_same]
    rfl

/-- An issue that completes writes its status record, gives its arrival, and is counted where it is lost. -/
theorem State.endIssue_ends (s : State) (i : CollInst) (e : CollEntry) (x : CollIssue) :
    let o := s.issueResult i e x
    let p := x.endsPoison i e o.2
    let t := s.endIssue i e x
    t.mem = wrBytes o.1.mem (sramBase x.core + x.status) (x.record p o.1.now) ∧
      (t.core x.core).grp x.ctx x.group = ((o.1.core x.core).grp x.ctx x.group).arrive p ∧
      (t.ctx x.core x.ctx).outCmds = (o.1.ctx x.core x.ctx).outCmds - 1 ∧
      t.coll.lost = satAdd32 o.1.coll.lost (b2n x.lost) := by
  intro o p t
  have hdone (n : Nat) : (o.1.markDone i x p).core n = o.1.core n := State.markDone_core o.1 i x p n
  obtain ⟨hmem, hgrp, hout, hcoll⟩ := (o.1.markDone i x p).statusGiven x.core x.ctx x.group x.status
    (x.record p (o.1.markDone i x p).now) p
  rw [← State.endIssue_eq s i e x] at hmem hgrp hout hcoll
  rw [State.markDone_mem, State.markDone_now] at hmem
  rw [hdone] at hgrp
  rw [State.ctx, State.ctx, hdone] at hout
  exact ⟨hmem, hgrp, hout, (congrArg CollSt.lost hcoll).trans (State.markDone_lost ..)⟩

theorem execCollectiveComplete_of_done {s : State} {id : Nat} {i : CollInst} {e : CollEntry} {x : CollIssue}
    (hi : s.coll.insts[id]? = some i) (he : s.collEntry i.job i.coll = some e)
    (hx : i.issues.find? (fun x => !x.done && s.issueDone i e x) = some x) :
    exec (.collectiveComplete id) s = .next (s.endIssue i e x) := by
  change execCollectiveComplete id s = _
  simp only [execCollectiveComplete, hi, he, hx]

/-! ### Requests and segments (R371, R377, R385) -/

theorem CollInst.is_self (i : CollInst) : i.is i.job i.coll i.step = true := by simp [CollInst.is]

theorem State.putInst_mem (s : State) (i : CollInst) : (s.putInst i).mem = s.mem := rfl

/-- A list whose entries of a kind are all replaced by one of that kind. -/
theorem find?_map_replace {α : Type} {p : α → Bool} {y : α} (hy : p y = true) {l : List α} (h : l.any p = true) :
    (l.map (fun x => if p x = true then y else x)).find? p = some y := by
  induction l with
  | nil => cases h
  | cons x l ih =>
    rw [List.map_cons]
    cases hx : p x with
    | true => rw [if_pos rfl, List.find?_cons_of_pos hy]
    | false =>
      rw [if_neg (by decide), List.find?_cons_of_neg (by simp [hx])]
      exact ih (by simpa [hx] using h)

theorem State.inst_putInst_same (s : State) (i : CollInst) : (s.putInst i).inst i.job i.coll i.step = some i := by
  unfold State.putInst State.inst
  dsimp only
  split
  · next hany => exact find?_map_replace (p := fun x : CollInst => x.is i.job i.coll i.step) i.is_self hany
  · next hnone =>
    have hothers : s.coll.insts.find? (fun x => x.is i.job i.coll i.step) = none := by simpa using hnone
    rw [List.find?_append, hothers, Option.none_or]
    exact List.find?_cons_of_pos (p := fun x : CollInst => x.is i.job i.coll i.step) i.is_self

/-- A segment that is placed changes its collective in its buffer and its reports alone. -/
theorem State.place_inst (s : State) (i : CollInst) (e : CollEntry) (q : SegKey) (off : Nat) (bs : List Byte) (p : Bool) :
    (s.place i e q off bs p).2 =
      { i with buf := (s.place i e q off bs p).2.buf, reports := (s.place i e q off bs p).2.reports } := by
  unfold State.place
  dsimp only
  split
  · rfl
  · rfl
  · rfl
  · split
    · split
      · rfl
      · split <;> rfl
    · split <;> rfl

section
variable {s : State} {port : Nat} {m : LMsg} (hfront : s.front port 5 0 = some m)
include hfront

theorem execCollSeg_of_stopped (h : (s.job m.slot).life ≠ .running ∨ (s.job m.slot).info.tenant ≠ m.tenant) :
    exec (.collSeg port) s = .next ((s.popInbox port).ackSeg m 3) := by
  have hu : ((s.popInbox port).job m.slot).life ≠ .running ∨ ((s.popInbox port).job m.slot).info.tenant ≠ m.tenant := h
  change execCollSeg port s = _
  rw [execCollSeg, State.takeMsg_of_front hfront]
  rw [if_pos hu]

variable (hlife : (s.job m.slot).life = .running) (htenant : (s.job m.slot).info.tenant = m.tenant)
include hlife htenant

theorem execCollSeg_of_running : exec (.collSeg port) s =
    .next (if bitN 0 m.cflags then (s.popInbox port).takeReq m.slot m else (s.popInbox port).takeSeg port m.slot m) := by
  have hu : ¬(((s.popInbox port).job m.slot).life ≠ .running ∨ ((s.popInbox port).job m.slot).info.tenant ≠ m.tenant) :=
    not_or.mpr ⟨not_not.mpr hlife, not_not.mpr htenant⟩
  change execCollSeg port s = _
  rw [execCollSeg, State.takeMsg_of_front hfront]
  rw [if_neg hu]

end

/-- A request for a shard that is held here, of a collective that is known. -/
theorem State.takeReq_of_known {s : State} {k : Nat} {m : LMsg} (hsrc : m.segKey.src < (s.job k).map.length)
    (hheld : s.holder k m.segKey.src = s.self) (hknown : m.coll = 0xFFFF ∨ s.collEntry k m.coll ≠ none) : s.takeReq k m =
      if s.tableRoom k then (s.holdReq m).collPump
      else { s with coll := { s.coll with waiting := s.coll.waiting ++ [m] } }.collPump := by
  have hk : (m.coll == 0xFFFF || (s.collEntry k m.coll).isSome) = true := by
    rcases hknown with hcoll | hentry
    · simp [hcoll]
    · simp [Option.isSome_iff_ne_none.mpr hentry]
  have hself : (s.holder k m.segKey.src == s.self) = true := beq_iff_eq.mpr hheld
  have hin : decide ((s.job k).map.length ≤ m.segKey.src) = false := decide_eq_false (not_le.mpr hsrc)
  unfold State.takeReq
  dsimp only
  rw [hk, hself, hin, Bool.or_true]
  exact if_neg (by decide)

/-- A request that joins the request table. -/
def State.joinTable (s : State) (m : LMsg) : State :=
  { s.countRx with coll := { s.countRx.coll with
    held := s.coll.held ++ [m.heldReq], reqMax := max s.coll.reqMax (s.coll.held ++ [m.heldReq]).length } }

theorem State.holdReq_eq (s : State) (m : LMsg) : s.holdReq m = (s.joinTable m).ackSeg m 0 := rfl

theorem State.joinTable_mem (s : State) (m : LMsg) : (s.joinTable m).mem = s.mem := rfl

theorem State.joinTable_held (s : State) (m : LMsg) : (s.joinTable m).coll.held = s.coll.held ++ [m.heldReq] := rfl

theorem State.joinTable_waiting (s : State) (m : LMsg) : (s.joinTable m).coll.waiting = s.coll.waiting := rfl

/-- What a segment of a partial of the norm gives its job. -/
def State.takePartial (s : State) (k : Nat) (m : LMsg) : State :=
  s.countRx.updUpd k (fun u => if m.step = u.st.step + 1 then { u with
      shards := Sp.set noPartial u.shards (stageKey ((s.job k).stageOfNode m.src m.segKey.src) m.segKey.src)
        (BitVec.ofNat 32 (leVal (m.data.take 4)), m.poison) } else u)

theorem State.takePartial_mem (s : State) (k : Nat) (m : LMsg) : (s.takePartial k m).mem = s.mem := State.updJob_mem ..

theorem State.takePartial_shards {s : State} {k : Nat} {m : LMsg} (h : m.step = (s.job k).upd.st.step + 1) :
    Sp.get noPartial ((s.takePartial k m).job k).upd.shards (stageKey ((s.job k).stageOfNode m.src m.segKey.src) m.segKey.src) =
      (BitVec.ofNat 32 (leVal (m.data.take 4)), m.poison) := by
  have hcount : m.step = (s.countRx.job k).upd.st.step + 1 := h
  rw [State.takePartial, State.job_updUpd_same, if_pos hcount, Sp.get_set_same]

theorem State.takeSeg_of_partial {s : State} {k : Nat} {m : LMsg} (port : Nat) (h : m.coll = 0xFFFF) :
    s.takeSeg port k m = (s.takePartial k m).ackSeg m (b2n m.poison) := by
  unfold State.takeSeg
  dsimp only
  rw [if_pos h]
  rfl

section
variable {s : State} {k : Nat} {m : LMsg} {i : CollInst} {e : CollEntry} (hcoll : m.coll ≠ 0xFFFF)
  (hinst : s.inst k m.coll m.step = some i) (hentry : s.collEntry k m.coll = some e)
include hcoll hinst hentry

theorem State.takeSeg_of_got (port : Nat) (hgot : i.got.contains m.segKey = true) : s.takeSeg port k m =
    ({ s with coll := { s.coll with dup := satAdd32 s.coll.dup 1 } }).ackSeg m 0 := by
  unfold State.takeSeg
  dsimp only
  rw [if_neg hcoll, hinst, hentry]
  dsimp only
  rw [if_pos hgot]

/-- The run of a collective that has put segment `q` of an uncompressed collective where it belongs. -/
def CollInst.gotSeg (i : CollInst) (e : CollEntry) (q : SegKey) (p : Bool) : CollInst :=
  { i.mapIssue (fun x => e.op == 0 || e.op == 2 || (e.op == 3 && e.permMode == 1) || x.shard == q.dst)
      (fun x => { x with segs := x.segs + 1, poison := x.poison || p }) with
    got := i.got ++ [q], kept := i.kept.filter (fun x => x.1 != q) }

section
omit hcoll hinst hentry
variable (i : CollInst) (e : CollEntry) (q : SegKey) (p : Bool)

theorem CollInst.gotSeg_got : (i.gotSeg e q p).got = i.got ++ [q] := rfl
theorem CollInst.gotSeg_buf : (i.gotSeg e q p).buf = i.buf := rfl
theorem CollInst.gotSeg_reports : (i.gotSeg e q p).reports = i.reports := rfl

end

omit hcoll hinst hentry in
theorem CollInst.gotSeg_is {k coll : Nat} {step : W32} (h : i.is k coll step = true) (s : State) (e : CollEntry) (q : SegKey) (off : Nat)
    (bs : List Byte) (p : Bool) (q' : SegKey) (p' : Bool) : ((s.place i e q off bs p).2.gotSeg e q' p').is k coll step = true := by
  have hplace := s.place_inst i e q off bs p
  rw [hplace]
  exact h

omit hcoll hinst hentry in
theorem State.is_of_inst {s : State} {k coll : Nat} {step : W32} (h : s.inst k coll step = some i) : i.is k coll step = true :=
  List.find?_some (p := fun x : CollInst => x.is k coll step) h

omit hcoll hinst hentry in
theorem State.inst_putInst_of_is {k coll : Nat} {step : W32} (h : i.is k coll step = true) (s : State) :
    (s.putInst i).inst k coll step = some i := by
  simp only [CollInst.is, Bool.and_eq_true, beq_iff_eq] at h
  obtain ⟨⟨rfl, rfl⟩, rfl⟩ := h
  exact s.inst_putInst_same i

theorem State.takeSeg_of_asked (port : Nat) (hplain : e.compressed = false) (hnew : i.got.contains m.segKey = false)
    (hasked : i.asked.any (fun a => { a with seg := 0 } == { m.segKey with seg := 0 }) = true)
    (hseg : m.segKey.seg < s.segCount k e { m.segKey with seg := 0 })
    (hlen : m.data.length = 16 * ceilDiv (s.segLen k e { m.segKey with seg := 0 } m.segKey.seg) 16) :
    let o := s.countRx.place i e { m.segKey with seg := 0 } (m.segKey.seg * e.segSize)
      (m.data.take (s.segLen k e { m.segKey with seg := 0 } m.segKey.seg)) m.poison
    s.takeSeg port k m = ((o.1.putInst (o.2.gotSeg e m.segKey m.poison)).ackSeg m (b2n m.poison)).collPump := by
  have hin : decide (s.segCount k e { m.segKey with seg := 0 } ≤ m.segKey.seg) = false := decide_eq_false (not_le.mpr hseg)
  unfold State.takeSeg
  dsimp only
  rw [if_neg hcoll, hinst, hentry]
  dsimp only
  rw [if_neg (ne_true_of_eq_false hnew), hasked, hin, ← hlen, if_neg (by simp), hplain, Bool.and_false, Bool.false_and]
  simp only [Bool.false_eq_true, if_false, List.filter_nil, List.length_nil, ne_eq, not_true_eq_false, false_and, decide_false, Bool.or_false]
  rw [State.putSeg]
  rfl

end

/-- Settles O37 (that a request that finds the table full waits unacknowledged is log entry 68, a choice of the model): the completion by
what it writes, and a message by what it asks or brings. -/
theorem collectivesEnd : Obligations.CollectivesEnd := by
  refine ⟨fun s id i e x hi he hx => ⟨_, execCollectiveComplete_of_done hi he hx, State.endIssue_ends s i e x⟩,
    fun s port m hfront => ⟨execCollSeg_of_stopped hfront, fun hlife htenant hreq hsrc hheld hknown => ?_,
      fun hlife htenant hseg hcoll hstep => ?_, fun i e hlife htenant hseg hcoll hinst hentry hgot => ?_,
      fun i e hlife htenant hseg hcoll hinst hentry hplain hnew hasked hin hlen => ?_⟩⟩
  · have hexec : exec (.collSeg port) s = .next ((s.popInbox port).takeReq m.slot m) := by
      rw [execCollSeg_of_running hfront hlife htenant, if_pos hreq]
    rw [State.takeReq_of_known (s := s.popInbox port) hsrc hheld hknown] at hexec
    refine ⟨fun hroom => ?_, fun hroom => ?_⟩
    · have hu : (s.popInbox port).tableRoom m.slot = true := hroom
      rw [if_pos hu, State.holdReq_eq] at hexec
      exact ⟨_, hexec, (State.joinTable_mem ..).trans (State.popInbox_mem ..), State.joinTable_held .., State.joinTable_waiting ..⟩
    · have hu : (s.popInbox port).tableRoom m.slot = false := hroom
      rw [if_neg (ne_true_of_eq_false hu)] at hexec
      exact ⟨_, hexec, State.popInbox_mem s port, rfl, rfl⟩
  · have hexec : exec (.collSeg port) s = .next ((s.popInbox port).takeSeg port m.slot m) := by
      rw [execCollSeg_of_running hfront hlife htenant, if_neg (by rw [hseg]; decide)]
    rw [State.takeSeg_of_partial port hcoll] at hexec
    exact ⟨_, hexec, (State.takePartial_mem ..).trans (State.popInbox_mem ..), State.takePartial_shards hstep⟩
  · have hexec : exec (.collSeg port) s = .next ((s.popInbox port).takeSeg port m.slot m) := by
      rw [execCollSeg_of_running hfront hlife htenant, if_neg (by rw [hseg]; decide)]
    rw [State.takeSeg_of_got (s := s.popInbox port) hcoll hinst hentry port hgot] at hexec
    exact ⟨_, hexec, State.popInbox_mem s port, rfl, rfl⟩
  · have hexec : exec (.collSeg port) s = .next ((s.popInbox port).takeSeg port m.slot m) := by
      rw [execCollSeg_of_running hfront hlife htenant, if_neg (by rw [hseg]; decide)]
    rw [State.takeSeg_of_asked (s := s.popInbox port) hcoll hinst hentry port hplain hnew hasked hin hlen] at hexec
    exact ⟨_, hexec, State.putInst_mem .., _, State.inst_putInst_of_is (CollInst.gotSeg_is (State.is_of_inst hinst) ..) _,
      CollInst.gotSeg_got .., CollInst.gotSeg_buf .., CollInst.gotSeg_reports ..⟩

end Sys2Proof.Machine

/-! PROOFS. Commands of queue 0 (R403, R407 to R409, R412): what is held back and what a new window takes, and what JOB_START, JOB_STOP,
FENCE, TB_SUBMIT and RESHARD do. -/
namespace Sys2Proof.Machine

/-! ### Commands held back (R412) -/

/-- A command that is due and may not be taken now is held back. -/
theorem State.commandRow_of_busy {s : State} {tn : Nat} {e : Entry} {op : Nat} (hop : entryField e 0 1 = op)
    (hwaits : s.inputWaits tn 0 = true)
    (hdue : (s.tenant tn).held.length < (((s.tenant tn).queue 0).prod - ((s.tenant tn).queue 0).cons).toNat)
    (hbusy : (s.tenant tn).held ≠ [] ∨ s.mayAccept tn = false) :
    s.commandRow tn e op = .next (s.setTenant tn { s.tenant tn with held := (s.tenant tn).held ++ [e] }) := by
  have hrow : ¬((entryField e 0 1 ≠ op ∧ cmdOpcodes.contains (entryField e 0 1) = true) ∨ s.inputWaits tn 0 = false ∨
      (((s.tenant tn).queue 0).prod - ((s.tenant tn).queue 0).cons).toNat ≤ (s.tenant tn).held.length) := by
    rintro (h | h | h)
    · exact h.1 hop
    · rw [hwaits] at h
      cases h
    · exact absurd hdue (not_lt.mpr h)
  have hwait : ¬((s.tenant tn).held = [] ∧ s.mayAccept tn = true) := by
    rintro ⟨hnone, hmay⟩
    rcases hbusy with h | h
    · exact h hnone
    · rw [hmay] at h
      cases h
  rw [State.commandRow]
  exact (if_neg hrow).trans (if_neg hwait)

/-- The commands of queue 0: opcode, the state in which the row of the opcode is taken, and the command itself. -/
theorem exec_command (s : State) (tn : Nat) (e : Entry) (told : List (Nat × Nat)) {c : Nat × State × Instr}
    (hc : c ∈ ([(1, s.hearBeats told, .jobStart tn ⟨e, told⟩), (2, s, .jobStop tn e), (3, s, .fenceCommand tn e), (4, s, .tbSubmit tn e),
      (0x10, s, .t2Open tn e), (0x11, s, .t2Write tn e), (0x12, s, .t2Seal tn e), (0x13, s, .t2Abort tn e), (0x14, s, .t2Delete tn e),
      (0x20, s, .reshard tn e)] : List (Nat × State × Instr))) :
    exec c.2.2 s = c.2.1.commandRow tn e c.1 ∧ (c.2.1 = s ∨ c.2.1 = s.hearBeats told) := by
  simp only [List.mem_cons, List.not_mem_nil, or_false] at hc
  obtain rfl | rfl | rfl | rfl | rfl | rfl | rfl | rfl | rfl | rfl := hc
  · exact ⟨rfl, .inr rfl⟩
  all_goals exact ⟨rfl, .inl rfl⟩

section
variable (s : State)

theorem State.nextWindow_now : s.nextWindow.now = max s.now ((s.now / 1000 + 1) * 1000) := rfl

theorem State.takeHeld_of_none {s : State} (h : s.nextTenant = none) (fuel : Nat) : s.takeHeld fuel = s := by
  cases fuel with
  | zero => rfl
  | succ fuel => simp only [State.takeHeld, h]

theorem State.takeHeld_of_some {s : State} {tn : Nat} {e : Entry} {es : List Entry} (h : s.nextTenant = some tn)
    (hheld : (s.tenant tn).held = e :: es) (fuel : Nat) :
    s.takeHeld (fuel + 1) = ((s.updTenant tn (fun t => { t with held := es })).acceptCommand tn e).takeHeld fuel := by
  simp only [State.takeHeld, h, hheld]

/-- How many commands are held back. -/
def State.heldCount : Nat := s.tenants.foldl (fun a t => a + t.2.held.length) 0

theorem foldl_add_eq {α : Type} (f : α → Nat) (l : List α) (a : Nat) : l.foldl (fun a x => a + f x) a = a + (l.map f).sum := by
  induction l generalizing a with
  | nil => rfl
  | cons x l ih => rw [List.foldl_cons, ih, List.map_cons, List.sum_cons, Nat.add_assoc]

theorem State.heldCount_eq : s.heldCount = (s.tenants.map (fun t => t.2.held.length)).sum := by
  rw [State.heldCount, foldl_add_eq (fun t : Nat × Tenant => t.2.held.length), Nat.zero_add]

theorem State.heldCount_pos_of_mem {s : State} {x : Nat × Tenant} (hx : x ∈ s.tenants) (hheld : x.2.held ≠ []) : 0 < s.heldCount := by
  rw [State.heldCount_eq]
  exact lt_of_lt_of_le (List.length_pos_iff.mpr hheld) (List.le_sum_of_mem (List.mem_map_of_mem hx))

/-- The tenant that the rotating pointer finds has a command held back. -/
theorem State.exists_held_of_nextTenant {s : State} {tn : Nat} (h : s.nextTenant = some tn) :
    ∃ x ∈ s.tenants, x.1 = tn ∧ x.2.held ≠ [] := by
  have hmem : tn ∈ (s.tenants.filter (fun t => t.2.held != [] && s.inputWaits t.1 0 && s.mayAccept t.1)).map (·.1) := by
    unfold State.nextTenant at h
    dsimp only at h
    split at h
    · next hfind =>
      obtain rfl := Option.some.inj h
      exact List.mem_of_find?_eq_some hfind
    · exact List.mem_of_head? h
  obtain ⟨x, hx, rfl⟩ := List.mem_map.mp hmem
  obtain ⟨hx, hcan⟩ := List.mem_filter.mp hx
  simp only [Bool.and_eq_true, bne_iff_ne] at hcan
  exact ⟨x, hx, rfl, hcan.1.1⟩

theorem exec_commandTakeWindow : exec .commandTakeWindow s = .next (s.nextWindow.takeHeld s.heldCount) := rfl

end

/-! ### JOB_START (R27, R273, R274, R408) -/

section
variable {s : State} {tn : Nat} {e : Entry}

theorem State.Accepts.hearBeats {op : Nat} (h : s.Accepts tn e op) (told : List (Nat × Nat)) : (s.hearBeats told).Accepts tn e op :=
  ⟨h.opcode, h.form, h.waits, h.first, h.mayTake⟩

theorem State.Accepts.exec_jobStart (h : s.Accepts tn e 1) (told : List (Nat × Nat)) :
    exec (.jobStart tn ⟨e, told⟩) s = .next (((s.hearBeats told).accepted tn e).jobStart tn e) := by
  change (s.hearBeats told).commandRow tn e 1 = _
  rw [(h.hearBeats told).commandRow, State.runCommand, h.opcode]
  rfl

theorem State.Accepts.exec_jobStop (h : s.Accepts tn e 2) : exec (.jobStop tn e) s = .next ((s.accepted tn e).jobStop tn e) := by
  change s.commandRow tn e 2 = _
  rw [h.commandRow, State.runCommand, h.opcode]
  rfl

theorem State.Accepts.exec_fence (h : s.Accepts tn e 3) : exec (.fenceCommand tn e) s = .next ((s.accepted tn e).fenceCmd tn e) := by
  change s.commandRow tn e 3 = _
  rw [h.commandRow, State.runCommand, h.opcode]
  rfl

theorem State.Accepts.exec_tbSubmit (h : s.Accepts tn e 4) : exec (.tbSubmit tn e) s = .next ((s.accepted tn e).tbSubmit tn e) := by
  change s.commandRow tn e 4 = _
  rw [h.commandRow, State.runCommand, h.opcode]
  rfl

theorem State.Accepts.exec_reshard (h : s.Accepts tn e 0x20) : exec (.reshard tn e) s = .next ((s.accepted tn e).reshard tn e) := by
  change s.commandRow tn e 0x20 = _
  rw [h.commandRow, State.runCommand, h.opcode]
  rfl

theorem State.jobStart_of_unnamed (h : s.namedJob tn e = none) : s.jobStart tn e = s.finish tn e 3 0 [] := by
  unfold State.namedJob at h
  unfold State.jobStart
  dsimp only
  split
  · rfl
  · next j hj =>
    rw [h] at hj
    cases hj

/-- JOB_START of a job that the directory names: the first of what stands in its way refuses it. -/
theorem State.jobStart_of_named {j : JobRec} (h : s.namedJob tn e = some j) : s.jobStart tn e =
    if (s.job j.slot).life ≠ .none then s.refuse tn e 3 (openCode 3)
    else if s.beatsDiffer j then s.refuse tn e 1 (openCode 1)
    else if s.crossesDiffering j then s.refuse tn e 2 (openCode 2)
    else if s.stopPromotion.tierCode j ≠ 0 then s.stopPromotion.refuse tn e 0 (s.stopPromotion.tierCode j)
    else match (s.stopPromotion.placing e j).allocJob j.slot with
      | some w => w.fillJob j.slot
      | none => s.stopPromotion.refuse tn e 0 0x22 := by
  unfold State.namedJob at h
  unfold State.jobStart
  dsimp only
  rw [h]
  rfl

/-- The routes of a job rest on the image and the ports. -/
theorem State.crossesDiffering_congr {s t : State} (himage : t.image = s.image) (hports : t.ports = s.ports) (j : JobRec) :
    t.crossesDiffering j = s.crossesDiffering j := by
  unfold State.crossesDiffering State.self State.fabric State.port
  rw [himage, hports]

theorem State.accepted_image (s : State) (tn : Nat) (e : Entry) : (s.accepted tn e).image = s.image := rfl

theorem State.accepted_jobs (s : State) (tn : Nat) (e : Entry) : (s.accepted tn e).jobs = s.jobs := rfl

theorem State.hearBeats_image (s : State) (told : List (Nat × Nat)) : (s.hearBeats told).image = s.image := rfl

theorem State.hearBeats_ports (s : State) (told : List (Nat × Nat)) : (s.hearBeats told).ports = s.ports := rfl

theorem State.hearBeats_jobs (s : State) (told : List (Nat × Nat)) : (s.hearBeats told).jobs = s.jobs := rfl

theorem State.namedJob_congr {s t : State} (h : t.image = s.image) (tn : Nat) (e : Entry) : t.namedJob tn e = s.namedJob tn e := by
  rw [State.namedJob, State.namedJob, h]

theorem State.accepted_mem (s : State) (tn : Nat) (e : Entry) : (s.accepted tn e).mem = s.mem := rfl

theorem State.accepted_ports (s : State) (tn : Nat) (e : Entry) : (s.accepted tn e).ports = s.ports := rfl

theorem State.settleQuota_admitting (s : State) (tn : Nat) : (s.settleQuota tn).tiers.admitting = s.tiers.admitting := by
  have hdrop (s : State) (key : Nat) : (s.dropCopy key).tiers.admitting = s.tiers.admitting := by rw [State.dropCopy_tiers]
  have hreport (s : State) : (s.reportQuota tn).tiers.admitting = s.tiers.admitting := by
    rw [State.tiers_of_hostless (s.reportQuota_hostless tn)]
  unfold State.settleQuota
  dsimp only
  split
  · rw [hreport, State.dropWhile_keeps (p := fun s : State => s.tiers.admitting) _ hdrop]
    exact hreport s
  · exact hreport s

/-- A job that is filled is in its slot, and admission goes on. -/
theorem State.fillJob_fills (s : State) (k : Nat) : ((s.fillJob k).job k).life = .filling ∧ (s.fillJob k).tiers.admitting = true := by
  unfold State.fillJob
  dsimp only
  refine ⟨?_, ?_⟩
  · rw [State.updJob, State.job_setJob_same]
  · rw [State.updJob_tiers, State.settleQuota_admitting]

/-! ### JOB_STOP and FENCE (R408) -/

theorem State.given_of_named {j : JobRec} (h : s.namedJob tn e = some j) : ∃ im, s.image = some im ∧
    im.jobs.any (fun j => j.job == entryField e 16 2 && j.tenant == tn) = true := by
  unfold State.namedJob at h
  split at h
  · next im him =>
    obtain ⟨hmatch, hj⟩ := List.find?_eq_some_iff_append.mp h
    obtain ⟨as, bs, hjobs, -⟩ := hj
    exact ⟨im, him, List.any_eq_true.mpr ⟨j, by simp [hjobs], hmatch⟩⟩
  · cases h

theorem State.jobStop_of_running {j : JobRec} {k : Nat} (h : s.namedJob tn e = some j) (hk : s.jobOf tn (entryField e 16 2) = some k)
    (hgoing : entryField ((s.filled k).job k).cmd 0 1 ≠ 2) : s.jobStop tn e =
      ((s.filled k).setJob k { (s.filled k).job k with life := .stopping, cmd := e }).endJob k := by
  obtain ⟨im, him, hgiven⟩ := State.given_of_named h
  unfold State.jobStop
  dsimp only
  rw [him, hk]
  exact (if_neg (by simp only [hgiven, Bool.not_true, Bool.false_eq_true, not_false_eq_true])).trans (if_neg hgoing)

theorem State.jobOf_congr {s t : State} (h : t.jobs = s.jobs) (tn job : Nat) : t.jobOf tn job = s.jobOf tn job := by
  rw [State.jobOf, State.jobOf, h]

theorem State.lists_of_beside {s t : State} (h : t.beside = s.beside) : t.lists = s.lists := (congrArg State.lists h :)

theorem State.nextList_of_beside {s t : State} (h : t.beside = s.beside) : t.nextList = s.nextList := (congrArg State.nextList h :)

theorem State.addList_mem (s : State) (f : ListFrom) (tenant nmode : Nat) (records : List Entry) (p : Bool) :
    (s.addList f tenant nmode records p).mem = s.mem := rfl

theorem State.addList_lists (s : State) (f : ListFrom) (tenant nmode : Nat) (records : List Entry) (p : Bool) :
    (s.addList f tenant nmode records p).lists =
      s.lists ++ [⟨s.nextList, f, tenant, nmode, records, 0, false, p, none, none, none, 0#7, false, false, 0⟩] := rfl

section
variable (s : State) (use : DmaUse) (addr len : Nat)

theorem State.dmaRead_mem : (s.dmaRead use addr len).1.mem = s.mem := rfl
theorem State.dmaRead_lists : (s.dmaRead use addr len).1.lists = s.lists := rfl
theorem State.dmaRead_dma : (s.dmaRead use addr len).1.hl.dma = s.hl.dma ++ [⟨s.hl.nextDma, use, addr, len, s.now⟩] := rfl

end

/-! ### Commands that read a region (R383, R408) -/

section
variable {r off len : Nat} {use : DmaUse} {f : State → List Byte → Bool → State} (hlen : 0 < len)
  (hin : off + len ≤ ((s.tenant tn).region r).len)
include hlen hin

theorem State.fromRegion_of_host (hhost : ((s.tenant tn).region r).host = true) :
    s.fromRegion tn e r off len use f = (s.dmaRead use (((s.tenant tn).region r).base + off) len).1 := by
  unfold State.fromRegion
  dsimp only
  rw [if_neg (by omega), if_pos hhost]

theorem State.fromRegion_of_device (hhost : ((s.tenant tn).region r).host = false) : s.fromRegion tn e r off len use f =
    (f (s.noteVirt tn (((s.tenant tn).region r).va + off) len (len / 65536 + 2))
      (s.readVirt tn (((s.tenant tn).region r).va + off) len (len / 64 + 2)).1
      (s.readVirt tn (((s.tenant tn).region r).va + off) len (len / 64 + 2)).2).settle := by
  unfold State.fromRegion
  dsimp only
  rw [if_neg (by omega), if_neg (ne_true_of_eq_false hhost)]

end

theorem State.tbSubmit_of_count (h1 : 1 ≤ entryField e 18 2) (h2 : entryField e 18 2 ≤ 255) : s.tbSubmit tn e =
    s.fromRegion tn e (entryField e 16 1) (entryField e 24 8) (64 * entryField e 18 2) (.submit tn e)
      (fun s d p => s.submitList tn e d p) := by
  unfold State.tbSubmit
  dsimp only
  rw [if_neg (by omega)]

theorem State.submitList_of_legal {data : List Byte}
    (h : ((List.range (entryField e 18 2)).map (fun i => entryOf ((data.drop (64 * i)).take 64))).all (fun r => s.recOk tn true r) = true) :
    s.submitList tn e data false = s.addList (.host e) tn 0
      ((List.range (entryField e 18 2)).map (fun i => entryOf ((data.drop (64 * i)).take 64))) false := by
  unfold State.submitList
  dsimp only
  rw [if_neg (by decide), if_pos h]

theorem State.reshard_of_running {j : JobRec} {k : Nat} (h : s.namedJob tn e = some j) (hk : s.jobOf tn (entryField e 16 2) = some k)
    (hlife : (s.job k).life = .running) (hmap : (s.job k).map ≠ []) : s.reshard tn e =
      s.fromRegion tn e (entryField e 28 1) (entryField e 32 8) (4 * (s.job k).map.length) (.reshard tn e)
        (fun s d p => s.reshardMap tn e d p) := by
  have hgoing : ¬((s.job k).life ≠ .running ∨ (s.job k).map = []) := by simp [hlife, hmap]
  obtain ⟨im, him, hgiven⟩ := State.given_of_named h
  unfold State.reshard
  dsimp only
  rw [him, hk]
  exact (if_neg (by simp only [hgiven, Bool.not_true, Bool.false_eq_true, not_false_eq_true])).trans (if_neg hgoing)

/-- The map that `n` words of a region spell. -/
def mapOfWords (n : Nat) (data : List Byte) : List (Nat × Nat) :=
  (List.range n).map (fun i => (leVal ((data.drop (4 * i)).take 4) % 2 ^ 18, leVal ((data.drop (4 * i)).take 4) / 2 ^ 18))

theorem State.reshardMap_of_legal {k : Nat} {data : List Byte} (hk : s.jobOf tn (entryField e 16 2) = some k)
    (hdigest : mapDigest (mapOfWords (s.job k).map.length data) = entryField e 24 4) (hpend : (s.job k).pend = none)
    (hlater : ∀ c ∈ s.cores, ∀ x ∈ c.2.ctxs, x.2.ofJob (s.job k).info = true → x.2.life = .live →
      x.2.stepReg.toNat < (BitVec.ofNat 32 (entryField e 20 4)).toNat) :
    s.reshardMap tn e data false =
      (s.updJob k (fun j => { j with
        pend := some (BitVec.ofNat 32 (entryField e 20 4), mapOfWords (s.job k).map.length data) })).finish tn e 0 0 [] := by
  have hbegun : s.cores.any (fun c => c.2.ctxs.any (fun x => x.2.ofJob (s.job k).info && x.2.life == .live &&
      decide ((BitVec.ofNat 32 (entryField e 20 4)).toNat ≤ x.2.stepReg.toNat))) = false := by
    rw [List.any_eq_false]
    intro c hc hany
    obtain ⟨x, hx, hold⟩ := List.any_eq_true.mp hany
    simp only [Bool.and_eq_true, beq_iff_eq, decide_eq_true_eq] at hold
    exact absurd (hlater c hc x hx hold.1.1 hold.1.2) (not_lt.mpr hold.2)
  have hok : ¬(mapDigest (mapOfWords (s.job k).map.length data) ≠ entryField e 24 4 ∨ (s.job k).pend.isSome = true ∨
      s.cores.any (fun c => c.2.ctxs.any (fun x => x.2.ofJob (s.job k).info && x.2.life == .live &&
        decide ((BitVec.ofNat 32 (entryField e 20 4)).toNat ≤ x.2.stepReg.toNat))) = true) := by
    rw [hbegun, hpend, hdigest]
    simp
  unfold State.reshardMap
  dsimp only
  rw [hk]
  exact (if_neg (by decide)).trans (if_neg hok)

end

/-- Settles O47 (the codes of parts 1 to 3 are open, log entry 70): commands held back and taken by the next window, and each command of
queue 0 by what the engine finds. -/
theorem tenantCommands : Obligations.TenantCommands := by
  refine ⟨fun s tn e told c hc hop hwaits hdue hbusy => ?_, fun s => ⟨fun hnone => ?_, fun tn e es hnext hheld => ?_⟩, fun s tn e => ?_⟩
  · obtain ⟨hexec, hstate⟩ := exec_command s tn e told hc
    rw [hexec]
    rcases hstate with hstate | hstate
    · rw [hstate]
      exact State.commandRow_of_busy hop hwaits hdue hbusy
    · rw [hstate]
      exact State.commandRow_of_busy (s := s.hearBeats told) hop hwaits hdue hbusy
  · have hidle : s.nextWindow.nextTenant = none := by
      cases hnext : s.nextWindow.nextTenant with
      | none => rfl
      | some tn =>
        obtain ⟨x, hx, -, hheld⟩ := State.exists_held_of_nextTenant hnext
        exact absurd (hnone x hx) hheld
    rw [exec_commandTakeWindow, State.takeHeld_of_none hidle]
  · obtain ⟨x, hx, -, hsome⟩ := State.exists_held_of_nextTenant hnext
    obtain ⟨fuel, hfuel⟩ := Nat.exists_eq_succ_of_ne_zero (State.heldCount_pos_of_mem (s := s) hx hsome).ne'
    refine ⟨s.nextWindow.updTenant tn (fun t => { t with held := es }), fuel, ?_, State.updTenant_now .., ?_,
      (State.updTenant_mem ..).trans (State.advanceTo_mem ..)⟩
    · rw [exec_commandTakeWindow, hfuel, State.takeHeld_of_some hnext hheld]
    · rw [State.updTenant_tenant_same]
  · intro u
    refine ⟨fun hacc => ?_, fun told hacc => ?_, fun j k hacc hnamed hk hgoing => ?_, fun hacc => ?_,
      fun j k hacc hnamed hk hlife hmap hpend => ?_⟩
    · intro w
      rw [hacc.exec_fence]
      rfl
    · intro u start
      have hexec : exec start s = .next (u.jobStart tn e) := hacc.exec_jobStart told
      have himage : u.image = s.image := (State.accepted_image ..).trans (State.hearBeats_image ..)
      refine ⟨fun hnone => ?_, fun j hnamed => ?_⟩
      · rw [← State.namedJob_congr himage] at hnone
        rw [hexec, State.jobStart_of_unnamed hnone]
      · have hjob : u.job j.slot = s.job j.slot := State.job_congr ((State.accepted_jobs ..).trans (State.hearBeats_jobs ..)) _
        have hcross : u.crossesDiffering j = s.crossesDiffering j :=
          State.crossesDiffering_congr himage ((State.accepted_ports ..).trans (State.hearBeats_ports ..)) j
        rw [← State.namedJob_congr himage] at hnamed
        rw [State.jobStart_of_named hnamed, hjob, hcross] at hexec
        rw [hexec]
        refine ⟨fun hlife => ?_, fun hlife hbeats => ?_, fun hlife hbeats hdiff => ?_, fun hlife hbeats hdiff => ?_⟩
        · rw [if_pos hlife]
        · rw [if_neg (not_not.mpr hlife), if_pos hbeats]
        · rw [if_neg (not_not.mpr hlife), if_neg (ne_true_of_eq_false hbeats), if_pos hdiff]
        · intro v
          rw [if_neg (not_not.mpr hlife), if_neg (ne_true_of_eq_false hbeats), if_neg (ne_true_of_eq_false hdiff)]
          refine ⟨fun hcode => by rw [if_pos hcode], fun hcode => ⟨fun w hw => ?_, fun hnone => ?_⟩⟩
          · rw [if_neg (not_not.mpr hcode), hw]
            exact ⟨_, rfl, rfl, w.fillJob_fills j.slot⟩
          · rw [if_neg (not_not.mpr hcode), hnone]
    · rw [hacc.exec_jobStop, State.jobStop_of_running (s := u) hnamed hk hgoing]
    · intro n g off d recs hn1 hn2 hin
      have hexec := hacc.exec_tbSubmit
      rw [State.tbSubmit_of_count (s := u) hn1 hn2] at hexec
      refine ⟨fun hdevice hclean hlegal => ?_, fun hhost => ?_⟩
      · rw [State.fromRegion_of_device (s := u) (Nat.mul_pos (by decide) hn1) hin hdevice, hclean, State.submitList_of_legal hlegal] at hexec
        have hread := u.noteVirt_beside tn (g.va + off) (64 * n) (64 * n / 65536 + 2)
        refine ⟨_, hexec, (State.addList_mem ..).trans ((State.noteVirt_mem ..).trans (State.accepted_mem ..)), ?_⟩
        rw [State.addList_lists, List.map_append, State.lists_of_beside hread, State.nextList_of_beside hread]
        rfl
      · rw [State.fromRegion_of_host (s := u) (Nat.mul_pos (by decide) hn1) hin hhost] at hexec
        exact ⟨_, hexec, State.dmaRead_mem .., State.dmaRead_lists .., State.dmaRead_dma ..⟩
    · intro n g off d m hin hdevice hclean hdigest hlater
      have hexec := hacc.exec_reshard
      have hn : 0 < 4 * (u.job k).map.length := Nat.mul_pos (by decide) (List.length_pos_iff.mpr hmap)
      have hgood : (u.readVirt tn (((u.tenant tn).region (entryField e 28 1)).va + off) (4 * (u.job k).map.length)
        (4 * (u.job k).map.length / 64 + 2)).2 = false := hclean
      rw [State.reshard_of_running (s := u) hnamed hk hlife hmap, State.fromRegion_of_device (s := u) hn hin hdevice, hgood] at hexec
      have hread := u.noteVirt_beside tn (g.va + off) (4 * n) (4 * n / 65536 + 2)
      have hjob (i : Nat) : (u.noteVirt tn (g.va + off) (4 * n) (4 * n / 65536 + 2)).job i = s.job i :=
        State.job_congr (State.jobs_of_beside hread) i
      have hnow := State.reshardMap_of_legal (s := u.noteVirt tn (g.va + off) (4 * n) (4 * n / 65536 + 2)) (data := d.1)
        ((State.jobOf_congr (State.jobs_of_beside hread) ..).trans hk) (by rw [hjob]; exact hdigest) (by rw [hjob, hpend])
        (by rw [hjob, State.cores_of_beside hread]; exact hlater)
      refine ⟨_, hexec.trans (congrArg (fun w : State => Host.Outcome.next w.settle) hnow), 
        (State.updJob_mem ..).trans ((State.noteVirt_mem ..).trans (State.accepted_mem ..)), ?_⟩
      rw [State.updJob, State.job_setJob_same, hjob]
      rfl

end Sys2Proof.Machine

/-!
PROOFS. Traffic with the host (R402 to R406, R411 to R413): entries of host queues, doorbells, placed bytes, accesses over CXL.mem and
what DMA reads bring.
-/
namespace Sys2Proof.Machine

/-! ### Queues of a tenant -/

@[simp] theorem Tenant.queue_setQueue_same (t : Tenant) (q : Nat) (y : Queue) : (t.setQueue q y).queue q = y := Sp.get_set_same _ _ _ _

theorem Tenant.queue_setQueue_other (t : Tenant) {q r : Nat} (y : Queue) (h : r ≠ q) : (t.setQueue q y).queue r = t.queue r :=
  Sp.get_set_other _ _ _ h

theorem Tenant.region_of_set (t : Tenant) (r : Nat) (g : Region) :
    Tenant.region { t with regions := Sp.set Region.none t.regions r g } r = g := Sp.get_set_same _ _ _ _

/-- A posted entry enters the shadow of its queue with the next index. -/
theorem State.pushShadow_queue (s : State) (tn q : Nat) (e : W32 → Entry) : ((s.pushShadow tn q e).tenant tn).queue q =
    { (s.tenant tn).queue q with
      prod := ((s.tenant tn).queue q).prod + 1
      shadow := ((s.tenant tn).queue q).shadow ++ [(((s.tenant tn).queue q).prod, e ((s.tenant tn).queue q).prod)] } := by
  have hset (y : Queue) : ((s.setTenant tn ((s.tenant tn).setQueue q y)).tenant tn).queue q = y := by simp
  unfold State.pushShadow
  dsimp only
  split
  · exact hset _
  · exact hset _

/-- Writing a ring leaves the shadow and the produced index. -/
theorem State.flushQueue_queue (s : State) (tn q : Nat) :
    (((s.flushQueue tn q).tenant tn).queue q).prod = ((s.tenant tn).queue q).prod ∧
    (((s.flushQueue tn q).tenant tn).queue q).shadow = ((s.tenant tn).queue q).shadow := by
  unfold State.flushQueue
  dsimp only
  split
  · rw [State.tenant_setTenant_same, Tenant.queue_setQueue_same]
    exact ⟨rfl, rfl⟩
  · exact ⟨rfl, rfl⟩

section
variable (s : State) (tn : Nat) {q r : Nat} (h : r ≠ q)
include h

theorem State.flushQueue_queue_other : ((s.flushQueue tn q).tenant tn).queue r = (s.tenant tn).queue r := by
  unfold State.flushQueue
  dsimp only
  split
  · rw [State.tenant_setTenant_same, Tenant.queue_setQueue_other _ _ h]
  · rfl

theorem State.pushShadow_queue_other (e : W32 → Entry) : ((s.pushShadow tn q e).tenant tn).queue r = (s.tenant tn).queue r := by
  have hset (y : Queue) : ((s.setTenant tn ((s.tenant tn).setQueue q y)).tenant tn).queue r = (s.tenant tn).queue r := by
    rw [State.tenant_setTenant_same, Tenant.queue_setQueue_other _ _ h]
  unfold State.pushShadow
  dsimp only
  split
  · exact hset _
  · exact hset _

end

section
variable (s : State) (tn : Nat) {r : Nat} (h : r ≠ 1)
include h

theorem State.drainWaiting_queue_other (fuel : Nat) : ((s.drainWaiting tn fuel).tenant tn).queue r = (s.tenant tn).queue r := by
  induction fuel generalizing s with
  | zero => rfl
  | succ fuel ih =>
    unfold State.drainWaiting
    dsimp only
    split
    · rfl
    · split
      · rw [ih, State.pushShadow_queue_other _ _ h, State.tenant_setTenant_same]
        rfl
      · rfl

/-- An event goes to queue 1 alone. -/
theorem State.postEvent_queue_other (op : Nat) (detail : List (Nat × Nat × Nat)) :
    ((s.postEvent tn op detail).tenant tn).queue r = (s.tenant tn).queue r := by
  rw [State.postEvent, State.post1, State.flushQueue_queue_other _ _ h, State.drainWaiting_queue_other _ _ h,
    State.updTenant_tenant_same]
  rfl

end

theorem State.queueError_hostless (s : State) (tn q : Nat) : (s.queueError tn q).hostless = s.hostless := by
  unfold State.queueError
  dsimp only
  split
  · rfl
  · rw [State.postEvent_hostless]
    rfl

/-- A queue in the error state stays there while the error is reported on queue 1. -/
theorem State.queueError_err (s : State) (tn q : Nat) : (((s.queueError tn q).tenant tn).queue q).err = true := by
  have herr : (((s.setTenant tn { (s.tenant tn).setQueue q { (s.tenant tn).queue q with err := true } with
      qerr := true }).tenant tn).queue q).err = true := by
    rw [State.tenant_setTenant_same]
    exact congrArg Queue.err (Sp.get_set_same _ _ _ _)
  unfold State.queueError
  dsimp only
  split
  · exact herr
  next hq => rwa [State.postEvent_queue_other _ _ hq]

/-! ### HQ_POST and HQ_TAKE (R411) -/

theorem State.taken_tenants (s : State) (n k : Nat) (ecc : Ecc) : (s.taken n k ecc).tenants = s.tenants := by
  obtain ⟨log, cores, htaken⟩ := s.taken_changes n k ecc
  rw [htaken]

theorem State.taken_tenant (s : State) (n k : Nat) (ecc : Ecc) (tn : Nat) : (s.taken n k ecc).tenant tn = s.tenant tn := by
  rw [State.tenant, State.taken_tenants, State.tenant]

theorem hqOk_next (x : Ctx) (w : IWord) : hqOk x.next w = hqOk x w := rfl

/-- What a host-queue instruction waits for: room to post, or an entry to take. -/
def State.hqGoes (s : State) (n k : Nat) (w : IWord) (ring : Option Entry) : Bool :=
  let tn := (s.ctx n k).prog.tenant
  let q := field 25 23 w.pl
  if w.opc = 0 then ((s.tenant tn).queue q).room else ring.isSome && s.inputWaits tn q

theorem State.obReady_of_hq {s : State} {n k : Nat} {w : IWord} {ring : Option Entry} (hcls : w.cls = 9)
    (hok : hqOk (s.ctx n k) w = true) : s.obReady n k w ring = s.hqGoes n k w ring := by
  simp only [State.obReady, hcls, hok, and_self, if_true, State.hqGoes]

theorem State.obAccept_of_hq {s : State} {n k : Nat} {w : IWord} (ring : Option Entry) (hcls : w.cls = 9)
    (hok : hqOk (s.ctx n k) w = true) : s.obAccept n k w ring =
      if w.opc = 0 then s.hqPostTake n k w else s.hqTakeTake n k w (ring.getD 0#512) := by
  simp only [State.obAccept, hcls, hok, Bool.true_eq_false, if_false]

theorem State.queued_hqGoes (s : State) (n k : Nat) (ecc : Ecc) (w : IWord) (ring : Option Entry) :
    (s.queued n k ecc .ob w).hqGoes n k w ring = s.hqGoes n k w ring := by
  rw [State.queued, s.issued_eq n k ecc]
  simp only [State.hqGoes, State.ctx_setCtx_same]
  rfl

/-- An idle outbound unit takes a host-queue instruction that need not wait in the step that issues it. -/
theorem State.Issues.engStep_hq {s : State} {n k : Nat} {w : IWord} {ecc : Ecc} (h : s.Issues n k w ecc)
    (hidle : (s.ctx n k).qob = []) (hcls : w.cls = 9) (hok : hqOk (s.ctx n k) w = true) {ring : Option Entry}
    (hgoes : s.hqGoes n k w ring = true) : s.engStep n ecc .ob 9 w.opc ring =
      if w.opc = 0 then (s.taken n k ecc).hqPostTake n k w else (s.taken n k ecc).hqTakeTake n k w (ring.getD 0#512) := by
  have hqueued : hqOk ((s.queued n k ecc .ob w).ctx n k) w = true := by
    rw [State.queued, State.ctx_setCtx_same]
    exact hok
  have hready : (s.queued n k ecc .ob w).engReady n k .ob w ring = true := by
    rw [State.engReady, State.obReady_of_hq hcls hqueued, State.queued_hqGoes, hgoes]
  have htaken : hqOk ((s.taken n k ecc).ctx n k) w = true := by rw [State.taken_ctx, hqOk_next, hok]
  have htake := h.engStep (e := .ob) hidle hready
  rwa [State.engEffect, State.obAccept_of_hq ring hcls htaken, hcls] at htake

section
variable (s : State) (n k : Nat) (w : IWord)

/-- What HQ_POST leaves. -/
theorem State.hqPostTake_spec :
    let tn := (s.ctx n k).prog.tenant
    let q := field 25 23 w.pl
    let g := field 36 26 w.pl
    let y := (s.tenant tn).queue q
    let t := s.hqPostTake n k w
    t.mem = s.mem ∧ ((t.tenant tn).queue q).prod = y.prod + 1 ∧ ((t.tenant tn).queue q).shadow =
      y.shadow ++ [(y.prod, entryOf (leBytes 4 y.prod.toNat ++ (s.sram n (field 22 0 w.pl) 64).drop 4))] ∧
    (t.core n).grp k g = ((s.core n).grp k g).arrive false ∧ (t.ctx n k).pc = (s.ctx n k).pc := by
  intro tn q g y t
  let pushed := s.pushShadow tn q (fun i => entryOf (leBytes 4 i.toNat ++ (s.sram n (field 22 0 w.pl) 64).drop 4))
  have hless : (pushed.flushQueue tn q).hostless = s.hostless := by
    rw [State.flushQueue_hostless, State.pushShadow_hostless]
  have hcore : (pushed.flushQueue tn q).core n = s.core n := by
    rw [State.core, State.cores_of_hostless hless, State.core]
  have htarget : t.core n = (s.core n).arrive k g false := by
    rw [← hcore]
    exact State.core_arrive_same _ n k g false
  obtain ⟨hprod, hshadow⟩ := pushed.flushQueue_queue tn q
  have hpushed : (pushed.tenant tn).queue q = _ := s.pushShadow_queue tn q _
  rw [hpushed] at hprod hshadow
  refine ⟨((pushed.flushQueue tn q).arrive_mem n k g false).trans (State.mem_of_hostless hless), hprod, hshadow, ?_, ?_⟩
  · rw [htarget, CoreSt.grp_arrive]
  · rw [State.ctx, htarget, CoreSt.ctx_arrive, State.ctx]

/-- What HQ_TAKE of the next entry of a ring leaves. -/
theorem State.hqTakeTake_next {ring : Entry}
    (h : entryField ring 0 4 = ((s.tenant (s.ctx n k).prog.tenant).queue (field 25 23 w.pl)).cons.toNat) :
    let tn := (s.ctx n k).prog.tenant
    let q := field 25 23 w.pl
    let g := field 36 26 w.pl
    let t := s.hqTakeTake n k w ring
    t.mem = wrBytes s.mem (sramBase n + field 22 0 w.pl) (entryBytes ring) ∧
    ((t.tenant tn).queue q).cons = ((s.tenant tn).queue q).cons + 1 ∧
    (t.core n).grp k g = ((s.core n).grp k g).arrive false ∧ (t.ctx n k).pc = (s.ctx n k).pc := by
  intro tn q g t
  let taken := s.setTenant tn ((s.tenant tn).setQueue q { (s.tenant tn).queue q with cons := ((s.tenant tn).queue q).cons + 1 })
  have ht : t = (taken.setSram n (field 22 0 w.pl) (entryBytes ring)).arrive n k g false := if_pos h
  have htarget : t.core n = (s.core n).arrive k g false := by
    rw [ht, State.core_arrive_same]
    rfl
  have htenant : t.tenant tn = taken.tenant tn := by
    rw [ht]
    rfl
  refine ⟨by rw [ht]; rfl, ?_, ?_, ?_⟩
  · rw [htenant, State.tenant_setTenant_same, Tenant.queue_setQueue_same]
  · rw [htarget, CoreSt.grp_arrive]
  · rw [State.ctx, htarget, CoreSt.ctx_arrive, State.ctx]

/-- What HQ_TAKE of an entry with another index leaves. -/
theorem State.hqTakeTake_wrong {ring : Entry}
    (h : entryField ring 0 4 ≠ ((s.tenant (s.ctx n k).prog.tenant).queue (field 25 23 w.pl)).cons.toNat) :
    let tn := (s.ctx n k).prog.tenant
    let q := field 25 23 w.pl
    let g := field 36 26 w.pl
    let t := s.hqTakeTake n k w ring
    t.mem = s.mem ∧ ((t.tenant tn).queue q).err = true ∧ (t.core n).grp k g = ((s.core n).grp k g).arrive true := by
  intro tn q g t
  have ht : t = (s.queueError tn q).arrive n k g true := if_neg h
  have hless : (s.queueError tn q).hostless = s.hostless := s.queueError_hostless tn q
  have hcore : (s.queueError tn q).core n = s.core n := by
    rw [State.core, State.cores_of_hostless hless, State.core]
  rw [ht]
  refine ⟨((s.queueError tn q).arrive_mem n k g true).trans (State.mem_of_hostless hless), s.queueError_err tn q, ?_⟩
  rw [State.core_arrive_same, CoreSt.grp_arrive, hcore]

end

/-- An instruction that waited at the head of the outbound queue goes on (R411). -/
theorem exec_hqResume {s : State} {n k : Nat} {w : IWord} {ws : List IWord} {ring : Entry} (hrun : (s.core n).running = some k)
    (hqueue : (s.ctx n k).qob = w :: ws) (hcls : w.cls = 9) (hgo : s.stopped = false) (hwait : (s.core n).waitState k w = .ready)
    (hok : hqOk (s.ctx n k) w = true) (hgoes : s.hqGoes n k w (some ring) = true) :
    exec (.hqResume n ring) s = .next (if w.opc = 0 then (s.setCtx n k { s.ctx n k with qob := ws }).hqPostTake n k w
      else (s.setCtx n k { s.ctx n k with qob := ws }).hqTakeTake n k w ring) := by
  have hpopped : hqOk ((s.setCtx n k { s.ctx n k with qob := ws }).ctx n k) w = true := by
    rw [State.ctx_setCtx_same]
    exact hok
  have hready : s.engReady n k .ob w (some ring) = true := by
    rw [State.engReady, State.obReady_of_hq hcls hok, hgoes]
  have haccept : s.acceptHead n k .ob (some ring) = (s.setCtx n k { s.ctx n k with qob := ws }).obAccept n k w (some ring) :=
    State.acceptHead_of_ready (e := .ob) hqueue hwait hready
  change execHqResume n ring s = _
  simp only [execHqResume, hrun, hqueue, hcls, hgo, and_self, if_true, haccept, State.obAccept_of_hq _ hcls hpopped, Option.getD_some]

/-! ### DOORBELL (R406) -/

theorem State.bellQueue_of_unset {s : State} {tn r : Nat} (h : ((s.tenant tn).queue r).isSet = false) (v : W32) :
    s.bellQueue tn r v = s := by
  unfold State.bellQueue
  dsimp only
  rw [h]
  rfl

/-- A line in which one queue alone is set shows that queue's index. -/
theorem State.foldl_bellQueue {tn q : Nat} (v : Nat → W32) (l : List Nat) (hl : l.Nodup) (s : State)
    (hother : ∀ r ∈ l, r ≠ q → ((s.tenant tn).queue r).isSet = false)
    (hkept : ∀ r, r ≠ q → ((s.bellQueue tn q (v q)).tenant tn).queue r = (s.tenant tn).queue r) :
    l.foldl (fun (s : State) r => s.bellQueue tn r (v r)) s = if q ∈ l then s.bellQueue tn q (v q) else s := by
  have hidle (l : List Nat) (s : State) (h : ∀ r ∈ l, ((s.tenant tn).queue r).isSet = false) :
      l.foldl (fun (s : State) r => s.bellQueue tn r (v r)) s = s := by
    induction l with
    | nil => rfl
    | cons r l ih =>
      rw [List.foldl_cons, State.bellQueue_of_unset (h r List.mem_cons_self)]
      exact ih (fun r hr => h r (List.mem_cons_of_mem _ hr))
  induction l with
  | nil => rfl
  | cons r l ih =>
    obtain ⟨hfresh, hrest⟩ := List.nodup_cons.mp hl
    by_cases hr : r = q
    · subst hr
      rw [List.foldl_cons, if_pos List.mem_cons_self]
      refine hidle l _ (fun u hu => ?_)
      have hne : u ≠ r := fun h => hfresh (h ▸ hu)
      rw [hkept u hne]
      exact hother u (List.mem_cons_of_mem _ hu) hne
    · rw [List.foldl_cons, State.bellQueue_of_unset (hother r List.mem_cons_self hr),
        ih hrest (fun u hu => hother u (List.mem_cons_of_mem _ hu))]
      simp only [List.mem_cons, Ne.symm hr, false_or]

/-- An index that goes forward, and not beyond the depth of its input queue, is taken. -/
theorem State.bellQueue_of_input {s : State} {tn q : Nat} {v : W32} (hset : ((s.tenant tn).queue q).isSet = true)
    (herr : ((s.tenant tn).queue q).err = false) (hinput : isInput q = true)
    (hforward : backward v ((s.tenant tn).queue q).prod = false)
    (hroom : (v - ((s.tenant tn).queue q).cons).toNat ≤ 2 ^ ((s.tenant tn).queue q).depthExp) :
    s.bellQueue tn q v = s.setTenant tn ((s.tenant tn).setQueue q { (s.tenant tn).queue q with prod := v }) := by
  have hused : ¬(!((s.tenant tn).queue q).isSet || ((s.tenant tn).queue q).err) = true := by rw [hset, herr]; decide
  have hgood : ¬(backward v ((s.tenant tn).queue q).prod || decide (2 ^ ((s.tenant tn).queue q).depthExp <
      (v - ((s.tenant tn).queue q).cons).toNat)) = true := by
    rw [hforward, decide_eq_false (Nat.not_lt.mpr hroom)]
    decide
  unfold State.bellQueue
  dsimp only
  rw [if_neg hused, if_pos hinput, if_neg hgood]

/-- DOORBELL where one queue alone is set, and its index is taken. -/
theorem exec_doorbell {s : State} {tn q : Nat} {line : Entry} {x : Queue}
    (hready : s.hl.state = 1 ∧ (s.tenant tn).hostEn = true ∧ (s.tenant tn).doorbell.isSome = true)
    (hother : ∀ r, r < 8 → r ≠ q → ((s.tenant tn).queue r).isSet = false) (hq : q < 8)
    (hbell : s.bellQueue tn q (BitVec.ofNat 32 (entryField line (4 * q) 4)) = s.setTenant tn ((s.tenant tn).setQueue q x)) :
    exec (.doorbell tn line) s = .next (s.setTenant tn ((s.tenant tn).setQueue q x)) := by
  have hfold := State.foldl_bellQueue (fun r => BitVec.ofNat 32 (entryField line (4 * r) 4)) (List.range 8) List.nodup_range s
    (fun r hr hne => hother r (List.mem_range.mp hr) hne)
    (fun r hne => by rw [hbell, State.tenant_setTenant_same, Tenant.queue_setQueue_other _ _ hne])
  rw [if_pos (List.mem_range.mpr hq)] at hfold
  change execDoorbell tn line s = _
  rw [execDoorbell, if_pos hready, hfold, hbell]

/-! ### Direct placement (R413) -/

/-- What a write that reaches the notify line leaves, once its bytes are stored: the notice on queue 1, and the count begun again. -/
def State.notified (v : State) (tn r : Nat) (g : Region) (off : Nat) : State :=
  (v.postEvent tn 0x81 [(16, 1, r), (24, 8, g.placed + (g.bar2 + g.len - 64 - off))]).updTenant tn (fun t =>
    { t with regions := Sp.set Region.none t.regions r { g with placed := 0 } })

theorem State.notified_mem (v : State) (tn r : Nat) (g : Region) (off : Nat) : (v.notified tn r g off).mem = v.mem := by
  rw [State.notified, State.updTenant_mem, State.postEvent_mem]

theorem State.notified_region (v : State) (tn r : Nat) (g : Region) (off : Nat) :
    ((v.notified tn r g off).tenant tn).region r = { g with placed := 0 } := by
  rw [State.notified, State.updTenant_tenant_same, Tenant.region_of_set]

section
variable (s : State) (x : Nat × Nat × Region) (off : Nat) (data : List Byte)

theorem State.placeBytes_mem : (s.placeBytes x off data).mem =
    (s.writeVirt x.1 (x.2.2.va + (off - x.2.2.bar2)) data false (data.length / 64 + 2)).settle.mem := by
  unfold State.placeBytes
  rw [State.updTenant_mem]

theorem State.placeBytes_region :
    ((s.placeBytes x off data).tenant x.1).region x.2.1 = { x.2.2 with placed := x.2.2.placed + data.length } := by
  rw [State.placeBytes, State.updTenant_tenant_same, Tenant.region_of_set]

end

section
variable {s : State} {rq off tn r : Nat} {data : List Byte} {g : Region} (h : s.placement rq off data.length = some (tn, r, g))
include h

theorem exec_placementWrite (hinside : off + data.length + 64 ≤ g.bar2 + g.len) :
    exec (.placementWrite rq off data) s = .next (s.placeBytes (tn, r, g) off data) := by
  change execPlacementWrite rq off data s = _
  unfold execPlacementWrite
  rw [h]
  exact if_neg (Nat.not_lt.mpr hinside)

theorem exec_placementNotify (hreach : g.bar2 + g.len < off + data.length + 64) :
    exec (.placementNotify rq off data) s = .next
      ((s.writeVirt tn (g.va + (off - g.bar2)) data false (data.length / 64 + 2)).settle.notified tn r g off) := by
  change execPlacementNotify rq off data s = _
  unfold execPlacementNotify
  rw [h]
  exact if_pos hreach

end

/-! ### DMA reads (R404) -/

/-- What a DMA read brings to a list that waits for it (R238). -/
theorem State.dmaDone_list {s : State} {r : DmaRead} {l : Nat} {x : TbList} {data : List Byte} {poison : Bool} (huse : r.use = .list l)
    (hlist : s.listAt l = some x) (hwait : x.dma = some (false, r.id)) (hlen : data.length = r.len) :
    let u := s.dmaDone r data poison false
    u.mem = s.mem ∧ u.hl.dma = s.hl.dma.filter (fun d => d.id != r.id) ∧
    u.listAt l = some (x.take (r.addr % 64) (if poison then zeros r.len else data)
      (if poison then allBursts (r.addr % 64) r.len else [])) := by
  obtain rfl : x.id = l := by simpa using List.find?_some hlist
  let s' : State := { s with hl := { s.hl with dma := s.hl.dma.filter (fun d => d.id != r.id) } }
  have hlist' : s'.listAt x.id = some x := hlist
  have hdone : s.dmaDone r data poison false = s'.setList (x.take (r.addr % 64) (if poison then zeros r.len else data)
      (if poison then allBursts (r.addr % 64) r.len else [])) := by
    simp only [State.dmaDone, huse, State.listFetched, hlen, bne_self_eq_false, Bool.or_false]
    change (match s'.listAt x.id with
      | some x => if x.dma = some (false, r.id) then s'.setList (x.take _ _ _) else s'
      | none => s') = _
    rw [hlist']
    exact if_pos hwait
  intro u
  rw [show u = _ from hdone]
  exact ⟨rfl, rfl, State.listAt_setList hlist' rfl⟩

/-- Settles O48 (that a CXL.mem access to a held channel or bank is deferred, and served later, is log entry 98): an entry for each of the
two instructions, taken at once or resumed; then one equation for each form of the other commands. -/
theorem hostTraffic : Obligations.HostTraffic := by
  refine ⟨fun s n k w ecc hissues hidle hcls hok => ?_, fun s n k w ws ring hrun hqueue hcls hgo hwait hok => ?_,
    fun s tn q line hattached hhost hbell hother hq hinput => ?_, fun s rq off tn r data g => ?_,
    fun s port off tn r a g poison hport hregion hphys htier => ?_, fun s id data poison r hread => ?_,
    fun s id data poison hread => ?_⟩
  · intro x tn q a g y
    refine ⟨fun hopc hroom => ?_, fun ring hopc hwaits => ?_⟩
    · have hgoes : s.hqGoes n k w none = true := (if_pos hopc).trans hroom
      have hstep := hissues.engStep_hq hidle hcls hok hgoes
      rw [hopc, if_pos rfl] at hstep
      have hspec := (s.taken n k ecc).hqPostTake_spec n k w
      simp only [State.taken_ctx, State.taken_tenant, State.taken_grp, State.taken_mem, State.sram] at hspec
      obtain ⟨hmem, hprod, hshadow, hgrp, hpc⟩ := hspec
      exact ⟨_, congrArg Host.Outcome.next hstep, hmem, hprod, hshadow, hgrp, hpc⟩
    · have hgoes : s.hqGoes n k w (some ring) = true := (if_neg (by omega)).trans hwaits
      have hstep := hissues.engStep_hq hidle hcls hok hgoes
      rw [hopc, if_neg (by decide)] at hstep
      have hexec : exec (.hqTake n ecc ring) s = .next ((s.taken n k ecc).hqTakeTake n k w ring) :=
        congrArg Host.Outcome.next hstep
      have hnext := (s.taken n k ecc).hqTakeTake_next n k w (ring := ring)
      have hwrong := (s.taken n k ecc).hqTakeTake_wrong n k w (ring := ring)
      simp only [State.taken_ctx, State.taken_tenant, State.taken_grp, State.taken_mem] at hnext hwrong
      exact ⟨fun hindex => ⟨_, hexec, hnext hindex⟩, fun hindex => ⟨_, hexec, hwrong hindex⟩⟩
  · intro tn q u
    refine ⟨fun hopc hroom => ?_, fun hopc hwaits => ?_⟩
    · rw [exec_hqResume hrun hqueue hcls hgo hwait hok ((if_pos hopc).trans hroom), if_pos hopc]
    · rw [exec_hqResume hrun hqueue hcls hgo hwait hok ((if_neg hopc).trans hwaits), if_neg hopc]
  · intro x v hset herr hforward hroom
    exact exec_doorbell ⟨hattached, hhost, Option.isSome_iff_ne_none.mpr hbell⟩ hother hq
      (State.bellQueue_of_input hset herr hinput hforward hroom)
  · refine ⟨fun hnone => ?_, fun hsome => ?_⟩
    · constructor
      · change execPlacementWrite rq off data s = _
        simp only [execPlacementWrite, hnone]
      · change execPlacementNotify rq off data s = _
        simp only [execPlacementNotify, hnone]
    · intro v
      exact ⟨fun hinside => ⟨_, exec_placementWrite hsome hinside, State.placeBytes_mem _ _ _ _, State.placeBytes_region _ _ _ _⟩,
        fun hreach => ⟨_, exec_placementNotify hsome hreach, State.notified_mem _ _ _ _ _, State.notified_region _ _ _ _ _⟩⟩
  · intro who o
    have hexec (d : Option Entry) := show exec (.cxlMemAccess port off d poison) s = execCxlMemAccess port off d poison s from rfl
    have hfound : (s.physOf tn (g.va + (off / 64 * 64 - g.hdm))).filter isTier1 = some a := by
      rw [hphys, Option.filter_some, if_pos htier]
    simp only [hexec, execCxlMemAccess, hport, hregion, hfound, Option.map_some, Bool.not_true, Bool.false_eq_true, if_false]
    refine ⟨fun hfree => ?_, fun hheld => ?_, fun d hwrite hfree => ?_, fun d hwrite hheld => ?_, fun d hro => ?_⟩
    · rw [hfree]
      rfl
    · rw [hheld]
      rfl
    · rw [hwrite, hfree]
      rfl
    · rw [hwrite, hheld]
      rfl
    · rw [hro]
      rfl
  · intro lost
    have hdone (h : s.now < r.armed + 50000000) :
        exec (.hostDmaComplete id data poison) s = .next (s.dmaDone r data poison false).settle.pumpRelease := by
      change execHostDmaComplete id data poison s = _
      simp only [execHostDmaComplete, hread, if_neg (Nat.not_le.mpr h)]
    refine ⟨?_, fun hlate => ?_, fun hearly => ⟨hdone hearly, fun l x huse hlist hwait hlen => ?_⟩⟩
    · change execHostDmaTimeout id s = _
      simp only [execHostDmaTimeout, hread]
      rfl
    · change execHostDmaComplete id data poison s = _
      simp only [execHostDmaComplete, hread, if_pos hlate]
      rfl
    · obtain ⟨hmem, hdma, hat⟩ := State.dmaDone_list (poison := poison) huse hlist hwait hlen
      exact ⟨_, hdone hearly, hmem, hdma, hat⟩
  · change execHostDmaComplete id data poison s = _
    simp only [execHostDmaComplete, hread]
    rfl

end Sys2Proof.Machine
